-- ==== Sys2Proof/Word.lean ====
section
/-!
DEFINITION. The word types of the model: bytes, register words, lines, bitmaps (00_scope.md, "Numbers, units and byte order").
-/
namespace Sys2Proof

/-- One byte. -/
abbrev Byte := BitVec 8
/-- A 64-bit register word (R562). -/
abbrev Word := BitVec 64
/-- A 64-byte command descriptor (R357): byte `o`, bit `b` is bit `8 * o + b`. -/
abbrev Desc := BitVec 512
/-- A 64-byte line of memory; byte `o` is bits `8 * o + 7` down to `8 * o` (R12). -/
abbrev Line := BitVec 512
/-- A plan image of 32,832 bytes (R89). -/
abbrev Image := BitVec 262656
/-- A SHA-384 digest, read as one number. -/
abbrev Digest := BitVec 384
/-- A SEC1 uncompressed P-384 public key, 97 bytes (R510, R527). -/
abbrev PubKey := BitVec 776
/-- An ECDSA P-384 signature, 96 bytes (R510). -/
abbrev Signature := BitVec 768

end Sys2Proof
end

