-- ==== Sys2Proof/Syntax.lean ====
section
/-!
DEFINITION. The commands of Druiviol: one constructor of `Instr` for each row of spec/opcode_table.json, with the operands
that the world outside the row decides (a register offset and value, a descriptor, a message, what a read returned).
-/
namespace Sys2Proof

/-- The status codes of 00_scope.md (R14). -/
inductive Status where
  | ok | refusedCapacity | refusedDeadline | stateConflict | reservedNonzero | version | badOpcode | rights
  | translationPending | objectGone | poison | contextLost | killed | timeout | staleRole | peerLost | jobAborted
  | completionStalled | doorbellEarly | keyidExhausted | planInfeasible | planMarginLow
  deriving DecidableEq, Repr

/-- A PCIe function: the physical function, or virtual function `n` of partition `n` (R556). -/
inductive Fn where
  | pf
  | vf (n : Nat)
  deriving DecidableEq, Repr

/-- The five failing checks that FAIL_CODE names (table after R45). -/
inductive BootCheck where
  | firmware | cacheDie | memTrain | keySelfTest | directory
  deriving DecidableEq, Repr

/-- Eight-byte words of host memory that the untranslated reads of a command return, by bus address; an address not
listed reads as zero words. -/
abbrev HostView := List (Nat × Nat)

/-- What ATS answers for one host-window range (R330): the range and the permissions granted. -/
structure AtsAnswer where
  base : Nat
  size : Nat
  r : Bool
  w : Bool
  deriving DecidableEq, Repr

/-- A descriptor that a Command Processor reads from the ring of `queue` at its HEAD (R355, R356), with what the host
memory reads and ATS requests of its acceptance return. -/
structure Fetch where
  queue : Nat
  raw : Desc
  host : HostView := []
  ats : List AtsAnswer := []
  /-- How many times in a row the descriptor reaches its Command Processor damaged (R439). -/
  parity : Nat := 0
  deriving DecidableEq, Repr

/-- CREATE_QUEUE also reads the whole ring of an intake queue and a checkpoint record (R366, R375). -/
structure CreateFetch extends Fetch where
  ring : List Desc := []
  ckpt : Option (BitVec 2048) := none
  /-- Image lengths that the kernels of TILE_STEP templates state, by ring position. -/
  kernels : List (Nat × Nat) := []
  deriving DecidableEq, Repr

/-- TILE_STEP also reads its range table and the image length (R364). -/
structure TileFetch extends Fetch where
  kernelLen : Nat := 0
  deriving DecidableEq, Repr

/-- A firmware image as the TC reads it from a flash slot (R510): the 512-byte header and the two payloads. -/
structure FwImage where
  header : BitVec 4096
  service : List Byte
  microcode : List Byte
  deriving DecidableEq, Repr

/-- A pattern package as the TC reads it from the flash (R550). -/
structure Package where
  header : BitVec 4096
  patterns : List Byte
  deriving DecidableEq, Repr

/-- What the TC finds in the flash (R510, R550). -/
structure Flash where
  slotA : Option FwImage
  slotB : Option FwImage
  pkgP : Option Package
  pkgQ : Option Package
  deriving DecidableEq, Repr

/-- What the counter-only sources have corrected in a frame (R425): pairs of an array, interface, tile or PC and its events. -/
structure Corrected where
  /-- Cache-die arrays, 3 × die + array (R463). -/
  arrays : List (Nat × Nat) := []
  host : Nat := 0
  stackLinks : List (Nat × Nat) := []
  tiles : List (Nat × Nat) := []
  pcs : List (Nat × Nat) := []
  deriving DecidableEq, Repr

/-- What one ageing monitor reported in a frame: its latest and its lowest slack (R539). -/
structure MonitorIn where
  monitor : Nat
  latest : Int
  lowest : Int
  deriving DecidableEq, Repr

/-- The Health Monitor's view of the frame that ends (R539, R540, R542, R544): the monitors' reports and the sensors' values. -/
structure HealthIn where
  monitors : List MonitorIn := []
  sensors : List (Nat × Int) := []
  slackAll64 : Int
  stretchMax : Nat
  stretchSum : Nat
  overdraw : Bool
  corrected : Corrected := {}
  deriving DecidableEq, Repr

/-- The data of a datagram as a port receives it: its bytes, big-endian (R13), and how many times in a row they leave the network
buffer damaged (R439). -/
structure Payload where
  bytes : List Byte
  parity : Nat := 0
  deriving DecidableEq, Repr

/-- Data for a UDP port (R384). -/
structure UdpData extends Payload where
  dst : Nat
  deriving DecidableEq, Repr

/-- A UDP datagram: data from a UDP port to a UDP port (R384). -/
structure UdpDatagram extends UdpData where
  udp : Nat
  deriving DecidableEq, Repr

/-- An IP packet that holds a UDP datagram: its source address besides (R384). -/
structure Packet extends UdpDatagram where
  addr : Nat
  deriving DecidableEq, Repr

/-- A datagram as received (R383, R384): a packet and the port it came in on. A row of a message takes these layers apart as far as
its operands go. -/
structure Datagram extends Packet where
  port : Nat
  deriving DecidableEq, Repr

/-- How an engine ends its share of a step (R217, R234, R439, R440): the generation it runs under, the check point of a residue
check that fails, and whether data that it read is damaged. -/
structure ShareEnd where
  gen : Nat
  residue : Option Nat
  parity : Bool
  deriving DecidableEq, Repr

/-- A request-intake datagram (R141, R143), whether its decision would end in time (R146), and the page-table words that the
RIE's walk of the intake and batch areas reads (R150, R164). -/
structure IntakeMsg extends Datagram where
  inTime : Bool
  host : HostView
  deriving DecidableEq, Repr

/-- A datagram with an S_FINISH (R527), and the page-table words that the read of the tenant-key list walks (R532). -/
structure FinishMsg extends Datagram where
  host : HostView
  deriving DecidableEq, Repr

/-- A coherence message from a tile: its 128-bit header (R249), the place that the home's choice gives a new line and the
victim it names (R258), and what the ECC finds where the message makes the home read its directory entry and its LLC
copy: uncorrectable or not (R248, R421). -/
structure TileMsg where
  head : BitVec 128
  victim : Option Nat := none
  way : Nat := 0
  entryLost : Bool := false
  copyLost : Bool := false
  deriving DecidableEq, Repr

/-- An atomic's operands (R213, R249). -/
structure AtomOp where
  code : Nat
  wide : Bool
  operand : Word
  compare : Word
  ret : Bool
  deriving DecidableEq, Repr

/-- A host access to partition memory through virtual function `n` (R310): the DVA, the page-table words its walk reads,
and whether the request is an IDE request with the T bit (R525). -/
structure HostAccess where
  part : Nat
  dva : Nat
  len : Nat
  host : HostView
  tbit : Bool
  victim : Option Nat := none
  way : Nat := 0
  entryLost : Bool := false
  copyLost : Bool := false
  /-- How many times in a row its data reaches its first line's slice damaged (R439). -/
  parity : Nat := 0
  deriving DecidableEq, Repr

/-- The capabilities of a debug certificate (R514). -/
inductive DebugCap where
  | memRead | memWrite | unitStatus | tileDebug | profile | trace | scDebug
  deriving DecidableEq, Repr

/-- The 32-byte header of a Foanaosh message (R395). -/
structure FoaHead where
  version : Nat
  rsv : Bool
  srcChip : Nat
  dstChip : Nat
  srcPart : Nat
  dstPart : Nat
  roleEpoch : Nat
  srcEpoch : Nat
  jobId : Nat
  jobGen : Nat
  deriving DecidableEq, Repr

/-- A GATHER_REQ body (R408); weights are FP32 patterns. -/
structure GatherBody where
  tag : Nat
  op : Nat
  exportNo : Nat
  dim : Nat
  execTick : Nat
  index : List Nat
  weight : List Nat
  rsv : Bool
  deriving DecidableEq, Repr

/-- One compressed column on the wire (R197). -/
structure Column where
  sign : Bool
  nan : Bool
  negInf : Bool
  posInf : Bool
  range : Bool
  nwords : Nat
  lowWord : Nat
  res15 : Nat
  res7 : Nat
  rsv : Bool
  words : List Nat
  deriving DecidableEq, Repr

/-- A GATHER_REPLY body (R409). -/
structure ReplyBody where
  tag : Nat
  elemFirst : Nat
  terms : Nat
  columns : List Column
  deriving DecidableEq, Repr

/-- A DIGEST_NOTE body (R411). -/
structure NoteBody where
  rangeId : Nat
  canon : Nat
  periodTick : Nat
  digest : Digest
  rsv : Bool
  deriving DecidableEq, Repr

/-- A configuration request (R30, R556). -/
inductive CfgOp where
  | readClassCode
  | readSriov
  | readOther
  | writeVfs (enable : Bool) (numVfs : Nat)
  | writeAts (fn : Fn) (enable : Bool)
  | writePri (enable : Bool)
  deriving DecidableEq, Repr

/-- What the verification of a read finds (R65, R296). -/
inductive VerifyResult where
  | agree | mismatch (level : Option Nat) | metadataLost (level : Nat) | treeRepaired (level : Nat) | macLost | badGen (gen : Nat)
  deriving DecidableEq, Repr

/-- A visit of a memory sweep and what its reads find (R296, R302, R309): the PC, the lines whose data is uncorrectable, the block that its check is of,
and the check's result. -/
structure Visit where
  pc : Nat
  uncorrectable : List Nat
  block : Nat
  result : VerifyResult
  deriving DecidableEq, Repr

/-- A certificate as the TC reads it (R514): 320 bytes, or none when the read does not complete. -/
abbrev CertBytes := Option (BitVec 2560)

/-- An SPDM request beyond its code: the nonce or context it carries (R523). -/
structure SpdmReq where
  nonce : BitVec 256 := 0
  index : Nat := 0
  keyShare : PubKey := 0
  verify : BitVec 384 := 0
  deriving DecidableEq, Repr

/-- An IDE_KM request (R524). -/
inductive IdeKm where
  | query
  | keyProg (stream : Nat)
  | kSetGo (stream : Nat) (covers : List Nat)
  | kSetStop (stream : Nat)
  deriving DecidableEq, Repr

/-- A member entry of a job as read from memory (R400). -/
structure Member where
  chip : Nat
  part : Nat
  epoch : Nat
  deriving DecidableEq, Repr

/-- Two runs of a redundant step that differ: the step, and the engines of run A and run B that gave the difference (R445). -/
structure Differ where
  step : Nat
  runA : Nat
  runB : Nat
  deriving DecidableEq, Repr

/-- The commands. `tbit` tells that the host's request is an IDE request with the T bit (R525), `parity` how many times in a row the
data of a message reaches the block damaged (R439); an operand with a default value is as every other one. -/
inductive Instr where
  -- power, start-up, chip reset (01)
  | powerUp
  | powerRemoved
  | fundamentalReset
  | configurationRequest (op : CfgOp)
  | tcBoot (romDigest : Digest)
  | fwVerify (flash : Flash)
  | keys (selfTestOk : Bool) (chains : List PubKey)
  | memTrain (failed held : BitVec 20) (retentionOk bbrOk : Bool) (mirrorOk : BitVec 2)
  | memInit (mismatch : List Nat)
  | dirInit (diesOk : BitVec 4) (dirOk : Bool)
  | time
  | stageBoundExpiry (check : Option BootCheck)
  | chipReset
  | preparationTimeout
  -- tray controller
  | getBootStatus
  | getFaultSummary
  | clearErrPin
  | requestChipReset
  | ackPowerCycle
  | mctpOtherCode (code : Nat)
  | powerCycleRequestRepeat
  -- host registers and functions
  | errpinClear
  | functionLevelResetVf (n : Nat)
  | functionLevelResetPf
  | registerWrite (fn : Fn) (off size : Nat) (value : Word) (tbit : Bool := false)
  | tgPeriod (value : Word)
  | tickOrigin (off size : Nat) (value : Word)
  | lock
  -- frame scheduler
  | tick (health : HealthIn)
  | fabricPresentRise
  | slotBoundary
  | commit (differ : List Differ)
  -- memory protection
  | sweepVisit (visit : Visit)
  | scrubEnd (pc : Nat)
  | waySweepEnd (slice way : Nat)
  | flushWalkEnd
  | memoryDataReturn (pc block : Nat) (step : Option Nat) (uncorrectable : BitVec 4) (way parity : Nat)
  | verificationDone (pc block : Nat) (result : VerifyResult)
  | faultStateExit (unit : Nat)
  | engineShareComplete (step engine : Nat) (share : ShareEnd)
  -- PTP
  | ptpSync (port domain : Nat) (twoStep : Bool) (origin : Int) (parity : Nat)
  | ptpFollowUp (port domain : Nat) (origin : Int) (parity : Nat := 0)
  | ptpDelayResp (port domain : Nat) (received : Int) (parity : Nat := 0)
  -- plan store
  | check (deal cancel : Bool)
  | cancel (deal : Bool)
  | planCheckDone (image : Option Image) (resultOk : Bool)
  | psHold (value : BitVec 32)
  | holdRecall (part : Nat)
  -- intake and sessions
  | request (msg : IntakeMsg)
  | deadlineExpiry (part index : Nat)
  | sHello (msg : Datagram)
  | sFinish (msg : FinishMsg)
  | agreementTimeout (session : Nat)
  | tenantKeysWrite (part off size : Nat) (value : Word) (tbit : Bool := false)
  -- doorbells and fetch
  | doorbell (fn : Fn) (queue size : Nat) (value : Word) (tbit : Bool := false)
  | tagReread (queue : Nat) (tag : BitVec 16)
  | descriptorReadFail (queue : Nat) (poisoned : Bool)
  | unassignedOpcode (f : Fetch)
  -- descriptor commands
  | nop (f : Fetch)
  | cond (f : Fetch)
  | loop (f : Fetch)
  | jump (f : Fetch)
  | waitSync (f : Fetch)
  | signalSync (f : Fetch)
  | loadParam (f : Fetch)
  | tileStep (f : TileFetch)
  | lrePool (f : Fetch)
  | lrePqscan (f : Fetch)
  | lreUpdate (f : Fetch)
  | copy (f : Fetch)
  | prefetch (f : Fetch)
  | advise (f : Fetch)
  | remoteGather (f : Fetch)
  | digest (f : Fetch)
  | map (f : Fetch)
  | unmap (f : Fetch)
  | objRef (f : Fetch)
  | objUnref (f : Fetch)
  | ckpt (f : Fetch)
  | createQueue (f : CreateFetch)
  | destroyQueue (f : Fetch)
  | contextRevoke (f : Fetch)
  | resetContext (f : Fetch)
  | resetEngine (f : Fetch)
  | resetPartition (f : Fetch)
  | resetChip (f : Fetch)
  | flushKeyid (f : Fetch)
  | retireKeyid (f : Fetch)
  | dump (f : Fetch)
  -- capture, reset progress
  | captureComplete
  | colReadTimeout (unit : Nat)
  | killAckTimeout
  | recallWalkEnd (part : Nat)
  | quietIntervalEnd
  | replayHang
  | dumpBaseWrite (part off size : Nat) (value : Word) (host : HostView) (tbit : Bool := false)
  -- completion rings, administration queues, event rings, TU
  | completionWriteFail (queue : Nat)
  | rearm (queue : Nat) (writesOk : Nat)
  | cqHeadWrite (fn : Fn) (queue : Nat) (value : BitVec 32) (tbit : Bool := false)
  | admqEnable (fn : Fn) (tbit : Bool := false)
  | evqHeadWrite (part : Nat) (value : BitVec 32) (tbit : Bool := false)
  | tuAnswerRetry (part : Nat) (seq : Nat) (host : HostView) (ats : List AtsAnswer) (tbit : Bool := false)
  | tuAnswerFail (part : Nat) (seq : Nat) (tbit : Bool := false)
  | atsTranslationCompletion (queue : Nat) (answer : AtsAnswer) (host : HostView)
  | pageRequestGroupResponse (queue : Nat) (success : Bool)
  | atsInvalidateRequest (fn : Fn) (base size : Nat)
  | invalidateCompletion (fn : Fn) (base size : Nat)
  -- coherence
  | rds (m : TileMsg)
  | rdu (m : TileMsg)
  | upg (m : TileMsg)
  | atom (m : TileMsg) (data : Line) (step : Option Nat) (parity : Nat)
  | wbm (m : TileMsg) (data : Line) (parity : Nat)
  | wbc (m : TileMsg) (data : Line) (parity : Nat)
  | respI (m : TileMsg)
  | respS (m : TileMsg)
  | respIData (m : TileMsg) (data : Line) (parity : Nat)
  | respSData (m : TileMsg) (data : Line) (parity : Nat)
  | stashAck (fields addr : BitVec 64)
  | stepCompletion (tile gen step : Nat) (status : Status)
  | killAcknowledgement (unit gen step : Nat)
  | snoopTimeout (tile : Nat)
  | hostMemoryRead (a : HostAccess)
  | hostMemoryWrite (a : HostAccess) (data : List Byte) (stash : Option Nat)
  | pcieAtomicOp (a : HostAccess) (kind : Nat) (wide quad : Bool) (operand compare : Word)
  | debugRequest (cap : DebugCap) (part dpa : Nat) (data : List Byte)
  -- network
  | linkUp (port : Nat)
  | ingressDrop (port : Nat)
  | hello (port addr : Nat) (msg : UdpDatagram)
  | helloAck (port addr udp : Nat) (msg : UdpData)
  | heartbeat (port addr udp : Nat) (msg : UdpData)
  | peerLoss (chip : Nat)
  | peerEnable (chip : Nat) (value : Word)
  | gatherReq (port : Nat) (msg : Packet)
  | gatherReply (port : Nat) (msg : Packet)
  | digestNote (port : Nat) (msg : Packet)
  | jobAbort (port addr udp : Nat) (msg : UdpData)
  | abortAck (msg : Datagram)
  | nak (port addr udp dst : Nat) (msg : Payload)
  | retransmit (tag : Nat)
  | jobLoad (part slot : Nat) (host : HostView) (tbit : Bool := false)
  | jobClose (part slot : Nat) (tbit : Bool := false)
  | jobSlotAbort (part slot : Nat) (tbit : Bool := false)
  | abortTick (part slot : Nat)
  | exportLoad (part count : Nat) (host : HostView) (tbit : Bool := false)
  -- faults and checking
  | comparisonClose (part slot rangeId periodTick : Nat)
  | injectArm (value : Word)
  | injectCancel (value : Word)
  | unfence (index : Nat) (value : Word)
  -- trust core
  | certLoad (revoke : Bool)
  | certCheckDone (cert : CertBytes)
  | certRevoke
  | sign (part : Nat) (tbit : Bool := false)
  | signedCopyComplete (part : Nat) (host : HostView)
  | getVersion
  | getCapabilities
  | negotiateAlgorithms (ecdsa sha group aead : Bool)
  | getDigests
  | getCertificate (slot : Nat)
  | challenge (slot : Nat) (r : SpdmReq)
  | getMeasurements (r : SpdmReq)
  | keyExchange (r : SpdmReq)
  | finish (r : SpdmReq)
  | endSession
  | vendorDefinedRequest (r : IdeKm)
  | lockInterfaceRequest (n : Nat)
  | stopInterfaceRequest (n : Nat)
  -- health
  | targetMhz (value : Word)
  | fieldTestStart (value : Word)
  | fieldTestAbort
  | fieldTestEnd (fail : Bool) (failIndex failChains : Nat) (tempShort : Bool)
  | rescan
  | rescanEnd (pkgP pkgQ : Option Package)
  | startInterfaceRequest (n : Nat)
  | linkDown (port : Nat)
  deriving DecidableEq, Repr

end Sys2Proof
end

