-- ==== Sys2Proof/Decode.lean ====
section
/-!
DEFINITION. The decoder over opcode_table.json. No row of that table has bits (every `fields` is empty), so no word
spells a command; a command descriptor's own fields are read in Machine/Operands.lean.
-/
namespace Sys2Proof

/-- No row of the table has bits: no word spells a command. -/
def decodeTableWord (nbits w : Nat) : Option Instr :=
  let _ := nbits
  let _ := w
  none

end Sys2Proof
end

