-- ==== Sys2Proof/Machine/State.lean ====
section
/-!
DEFINITION. The state of Druiviol as plain data, its fault and refusal types, and `State.reset`: the block in chip reset,
with package power on and nothing kept in retention SRAM. Register fields carry the reset values of the spec's register
tables as their defaults; what the spec gives no reset value for is named in notes/assumptions.
-/
namespace Sys2Proof.Machine
open Sys2Proof

/-- A sparse table by number, rising keys; what an unlisted key reads as is said where the table is read. -/
abbrev Tab (α : Type) := List (Nat × α)

/-- No command of Druiviol stops the machine: a device halt (R68) is a state (`CommitUnit.halted`), not a fault. Safe:
no claim rests on a stop. -/
inductive Fault where
  deriving DecidableEq, Repr

/-- Reasons for which the model has no meaning. -/
inductive Refusal where
  /-- Raised by an arm of `exec` that has no meaning yet, named by its row's mnemonic. Safe: the machine stops. -/
  | notModelled (mnemonic : String)
  deriving DecidableEq, Repr

/-! ### Boundary and start-up (01) -/

/-- STAGE (table after R45). -/
inductive Stage where
  | reset | tcBoot | fwVerify | keys | memTrain | memInit | dirInit | time | ready | invalidLc | bootFail
  deriving DecidableEq, Repr

/-- Fault classes (R419); `none_` stands for 3 of EVENT and RESET records. -/
inductive FClass where
  | c | u | f | none_
  deriving DecidableEq, Repr

/-- POWER_CYCLE_REQUEST in progress (R39). -/
structure PowerCycle where
  reason : Nat
  seq : Nat
  copies : Nat
  deriving DecidableEq, Repr

/-- What a chip reset was asked by (R482). -/
inductive Cause where
  | command | ladder | mctp | deadAgent | replay
  deriving DecidableEq, Repr

/-- A command that completes when its work ends: queue, index, context, CMPL and IRQ bits (R309, R475, R492). -/
structure CmdRef where
  queue : Nat
  index : Nat
  ctx : Nat
  opcode : Nat
  cmpl : Bool
  irq : Bool
  deriving DecidableEq, Repr

/-- A chip-reset preparation (R480). -/
structure Prep where
  cause : Cause
  dump : Bool := false
  power : Bool := false
  abandoned : Bool := false
  /-- The preparation has begun; lines are awaited from tiles. -/
  started : Bool := false
  /-- Units whose Col path reads have timed out. -/
  silent : List Nat := []
  /-- RESET_CHIP, whose record the preparation writes. -/
  cmd : Option CmdRef := none
  deriving DecidableEq, Repr

/-- R20 to R52, R563, R564. -/
structure Boundary where
  powered : Bool := true
  stage : Stage := .reset
  failCode : Nat := 0
  warm : Bool := false
  ready : Bool := false
  stackExcluded : BitVec 20 := 0
  cfgRetry : Bool := true
  vfEnable : Bool := false
  numVfs : Nat := 0
  atsEnable : Tab Bool := []
  priEnable : Bool := false
  fabric : BitVec 64 := 0
  rising : BitVec 64 := 0
  errAsserted : Bool := false
  errInvalid : Bool := false
  /-- Source and class of the fault that asserted ERR_N; none where no fault did (R37). -/
  errSource : Option (Nat × FClass) := none
  powerCycle : Option PowerCycle := none
  resetAtTick : Bool := false
  prep : Option Prep := none
  badAccess : Nat := 0
  locked : Bool := false
  lockTick : Nat := 0
  retentionValid : Bool := false
  epochOpened : Bool := false
  deriving DecidableEq, Repr

/-! ### Time base and Commit Unit (02) -/

/-- R53 to R60, R82 to R86. -/
structure TimeBase where
  now : Nat := 0
  running : Bool := false
  tick : Nat := 0
  slot : Nat := 0
  periodUs : Nat := 250
  originNs : Nat := 0
  cfgErr : Bool := false
  slewing : Bool := false
  stepped : Bool := false
  locked : Bool := false
  offset : Int := 0
  inRun : Nat := 0
  outRun : Nat := 0
  /-- Arrival timestamp of a two-step Sync that waits for its Follow_Up (R386, R387). -/
  syncArrival : Option Int := none
  /-- Arrival less origin of the latest Sync (R387). -/
  syncDiff : Int := 0
  /-- Timestamp of the sent Delay_Req that waits for its Delay_Resp (R386, R387). -/
  delayReq : Option Int := none
  /-- The path delay as last measured (R386). -/
  delay : Int := 0
  deriving DecidableEq, Repr

/-- A response in the trick buffer (R76, R144, R152). -/
structure Response where
  part : Nat
  index : Nat
  session : Nat
  port : Nat
  addr : Nat
  udp : Nat
  reqId : Nat
  status : Status
  output : List Byte
  tick : Nat
  /-- SEQ under which it was encrypted (R142, R152). -/
  seq : Nat := 0
  /-- The message, encrypted when it entered the buffer (R152). -/
  bytes : List Byte := []
  deriving DecidableEq, Repr

/-- R66 to R78, R87, R88. -/
structure CommitUnit where
  halted : Bool := false
  beKills : Nat := 0
  lcOverruns : Nat := 0
  tricks : Nat := 0
  /-- The frame and slot whose commit has begun and not ended. -/
  open_ : Option (Nat × Nat) := none
  /-- Its effects are applied; it ends once no updated line awaits a tile. -/
  applied : Bool := false
  /-- Steps of the commit whose two redundant runs differ (R445). -/
  differ : List Differ := []
  /-- Blocks read and not yet verified by steps since killed: frame and slot of the commit that waits for them, PC and block
  (R66). -/
  blocks : List (Nat × Nat × Nat × Nat) := []
  trick : List Response := []
  deriving DecidableEq, Repr

/-! ### Steps -/

/-- A page translation that a command holds (R325): the page's DVA and size, its DPA window address, key ID, object and
rights. -/
structure Xlat where
  dva : Nat
  size : Nat
  frame : Nat
  keyId : Nat
  obj : Nat
  r : Bool
  w : Bool
  a : Bool
  deriving DecidableEq, Repr

/-- One commit-log entry (R70): bytes to a DVA of the step's translations, an atomic on a line, a host write, a signal, or
a held Foanaosh payload. -/
inductive Effect where
  | write (dva : Nat) (bytes : List Byte)
  | atomic (lineKey off seq : Nat) (op : AtomOp)
  | hostWrite (dva : Nat) (bytes : List Byte)
  | reply (h : FoaHead) (b : ReplyBody)
  | measure (rangeId : Nat) (root : Digest)
  | note (slot rangeId periodTick : Nat) (root : Digest)
  | updateSeq (seq : Nat)
  | ckptRecord (dva : Nat)
  deriving DecidableEq, Repr

/-- Where a step stands (R79, R468). -/
inductive Phase where
  | queued | running | finished | killed
  deriving DecidableEq, Repr

/-- Why a step was killed, which decides what follows when its acknowledgements are in (R80, R81, R438, R440, R446). -/
inductive KillWhy where
  | rerun | complete (st : Status) | silent
  deriving DecidableEq, Repr

/-- A work command accepted or dispatched (R62 to R81). -/
structure Step where
  id : Nat
  queue : Nat
  part : Nat
  ctx : Nat
  opcode : Nat
  index : Nat
  raw : Desc
  cls : Nat
  be : Bool
  frameScoped : Bool
  phase : Phase := .queued
  serve : Option Nat := none
  members : List Nat := []
  /-- Frame and slot of the commit boundary once dispatched. -/
  frame : Nat := 0
  slot : Nat := 0
  units : List Nat := []
  unitsDone : List Nat := []
  unacked : List Nat := []
  why : KillWhy := .silent
  kills : Nat := 0
  residueFails : Nat := 0
  crcFails : Nat := 0
  /-- Parity errors met (R439). -/
  parityFails : Nat := 0
  mismatches : Nat := 0
  poisoned : Bool := false
  poisonDpa : Nat := 0
  fail : Option Status := none
  unverified : List (Nat × Nat) := []
  xlats : List Xlat := []
  objs : List Nat := []
  log : List Effect := []
  redundant : Bool := false
  /-- For a redundant step: the units of run B, and those alone in their slice that still have run A to do (R445). -/
  runB : List Nat := []
  second : List Nat := []
  /-- TILE_STEP: the ranges of its table, as DVA, size and rights bits 2 R, 1 W, 0 A (R364). -/
  ranges : List (Nat × Nat × Nat) := []
  range : Bool := false
  skipped : Bool := false
  /-- For a step served for a GATHER_REQ: the request's header and body. -/
  gather : Option (FoaHead × GatherBody) := none
  /-- Host memory that a COPY from the host window reads (R321). -/
  host : HostView := []
  /-- A held translation fails under the hand dealt since (R332). -/
  stale : Bool := false
  /-- For a REMOTE_GATHER: its bags, as output offset, COUNT, the local part's term count and its columns. -/
  bags : List (Nat × Nat × Nat × List Column) := []
  /-- For a REMOTE_GATHER: tags of requests whose replies are not complete. -/
  waitTags : List Nat := []
  judge : Bool := false
  /-- The reads at its start are not done: a commit is in progress, or lines are awaited (R71, R259). -/
  heldReads : Bool := false
  /-- Lines whose read is sent to their homes and not answered (R259). -/
  asked : List Nat := []
  /-- Lines that have been read. -/
  got : List Nat := []
  /-- It goes on once the lines it asked for are in. -/
  awaiting : Bool := false
  /-- Killed and put back on its queue, to run again at the start of a slot (R80, R167). -/
  rerun : Bool := false
  /-- A reset, destroy or revoke has killed it and counted it (R476). -/
  counted : Bool := false
  /-- A COPY that asks again for a host-window translation it lost (R331). -/
  atsWait : Bool := false
  order : Nat := 0
  deriving DecidableEq, Repr

/-! ### Plan Store (03) -/

/-- A verdict (R118, R123, R134). -/
structure Verdict where
  status : Status := .ok
  reason : Nat := 0
  hand : Nat := 0x3F
  item : Nat := 0
  tick : Nat := 0
  deriving DecidableEq, Repr

/-- The image that stands for the device's own empty plan: PLAN_VERSION 1, ARCH_LEVEL 1, PLAN_MARGIN 1,024 (R137), no
hand. DESIGN CHOICE (log 10). -/
def emptyImage : Image := 0x400_0000_0101#262656

/-- R103 to R140. -/
structure PlanStore where
  imageAddr : Nat := 0
  resultAddr : Nat := 0
  deal : Bool := true
  cmdErr : Bool := false
  marginLow : Bool := false
  dealt : Bool := false
  done : Bool := false
  armed : Bool := false
  busy : Bool := false
  checkDeal : Bool := false
  verdict : Verdict := {}
  dealTick : Nat := 0
  /-- Time base at the latest deal of a staged plan (R105). -/
  dealNs : Option Nat := none
  hold : BitVec 32 := 0
  gap : Nat := 16
  ageMargin : Nat := 1024
  lowHeld : Bool := false
  pendPcs : BitVec 1280 := 0
  pendWays : BitVec 1280 := 0
  checks : Nat := 0
  refusals : Nat := 0
  deals : Nat := 0
  lowEvents : Nat := 0
  epochs : Tab Nat := []
  active : Image := emptyImage
  shadow : Option Image := none
  /-- What entered a hand at this frame's deal, dispatched from the next frame on (R127): tiles, engines, partitions. -/
  newTiles : BitVec 64 := 0
  newEngines : BitVec 320 := 0
  newParts : BitVec 32 := 0
  /-- Network shares that entered hands at this frame's deal, by partition. -/
  newShares : Tab Nat := []
  /-- A plan that software staged is active (R110). -/
  staged : Bool := false
  deriving DecidableEq, Repr

/-! ### Intake and admission (04) -/

/-- A session of the session table (R141, R142, R531). -/
structure Session where
  id : Nat
  part : Nat
  keyIn : BitVec 256
  keyOut : BitVec 256
  saltIn : BitVec 32
  saltOut : BitVec 32
  highest : Option Nat := none
  seen : List Nat := []
  nextSeq : Nat := 0
  deriving DecidableEq, Repr

/-- ADMITTED, ACTIVE and DONE request contexts (R151); a FREE one is not listed. -/
inductive ReqState where
  | admitted | active | done
  deriving DecidableEq, Repr

/-- One booked placement with its charges (R155 to R160); a frame-scoped placement has one entry for each slot. -/
structure Booking where
  part : Nat
  frame : Nat
  slot : Nat
  tile : Nat
  eng : Nat
  mem : Nat
  net : Nat
  deriving DecidableEq, Repr

/-- Where a step of a request is booked (R158). -/
structure Placement where
  step : Nat
  frame : Nat
  /-- The slot of a slot-scoped step; the first allowed slot of a frame-scoped one. -/
  slot : Nat
  frameScoped : Bool
  charges : List Booking
  deriving DecidableEq, Repr

/-- A request context in use (R149 to R153). -/
structure ReqCtx where
  part : Nat
  index : Nat
  reqId : Nat
  cls : Nat
  be : Bool
  /-- Its place in the order of booking (R166). -/
  order : Nat := 0
  state : ReqState
  next : Nat
  steps : Nat
  admitTick : Nat
  deadline : Nat
  places : List Placement
  session : Nat
  port : Nat
  addr : Nat
  udp : Nat
  /-- Its last step has committed; its OUTPUT is being read (R152). -/
  reading : Bool := false
  deriving DecidableEq, Repr

/-- R147 to R175. -/
structure Admission where
  admits : Nat := 0
  refuseCap : Nat := 0
  refuseDl : Nat := 0
  beMinNs : Nat := 1000
  giveups : Nat := 0
  classOrder : Tab Nat := []
  frameAdmits : Tab Nat := []
  reqs : List ReqCtx := []
  /-- Bookings of served steps (R408), which belong to no request context. -/
  served : List Booking := []
  /-- Engines that the budgets count as fenced since the latest tick (R442, R478). -/
  budgetFenced : BitVec 320 := 0
  deriving DecidableEq, Repr

/-- R141, R171 to R173. -/
structure Intake where
  udpPort : Nat := 0
  enable : Bool := false
  cfgErr : Bool := false
  sessions : List Session := []
  requests : Nat := 0
  authDrops : Nat := 0
  replayDrops : Nat := 0
  responses : Nat := 0
  areaBase : Tab Nat := []
  batchBase : Tab Nat := []
  /-- The mapping of each partition's intake and batch areas, as the RIE's walk at the latest decision found it (R150,
  R164). -/
  areaXlat : Tab (List Xlat) := []
  deriving DecidableEq, Repr

/-! ### Lookup-Reduce Engines (05) -/

/-- STATE of R217. -/
inductive EngState where
  | idle | busy | fenced | inReset
  deriving DecidableEq, Repr

/-- One engine. -/
structure Engine where
  state : EngState := .idle
  gen : Nat := 0
  groups : Nat := 0
  fails : Nat := 0
  /-- Ticks of the failures that count toward fencing, newest first (R441). -/
  failTicks : List Nat := []
  /-- The lookup-table storage, 64 KiB for each of four groups: the FP32 entries that a scan has left there (R177). -/
  luts : List (List Nat) := []
  deriving DecidableEq, Repr

/-- R176 to R219. -/
structure Lre where
  engines : Tab Engine := []
  rangeEvents : Nat := 0
  updates : Nat := 0
  updateSkips : Nat := 0
  badIndex : Nat := 0
  psumRejects : Nat := 0
  atomErrors : Nat := 0
  /-- Partition and table base of the LRE_UPDATE steps dispatched in the present slot (R212). -/
  slotUpdates : List (Nat × Nat) := []
  deriving DecidableEq, Repr

/-! ### Coherence (07) -/

/-- Home stable states (R246); `dirty` stands beside. -/
inductive HState where
  | i | l | s | o
  deriving DecidableEq, Repr

/-- The kinds of item a home serves (R259). -/
inductive ItemKind where
  | rds | rdu | upg | atom | wbm | wbc | ncRead | ncWrite | victim | recover | recall
  deriving DecidableEq, Repr

/-- A request or access at a home. -/
structure HomeItem where
  kind : ItemKind
  tile : Nat := 0
  tag : Nat := 0
  off : Nat := 0
  keyId : Nat := 0
  /-- The DPA of the line, as the item names it. -/
  dpa : Nat := 0
  near : Bool := false
  op : Option AtomOp := none
  step : Option Nat := none
  data : List Byte := []
  poison : Bool := false
  stash : Option Nat := none
  /-- Length of a non-caching read. -/
  len : Nat := 0
  /-- It reached the home after a slot end, with a commit-log entry of that slot pending on its line (R71). -/
  late : Bool := false
  /-- A write of a step, applied at its commit (R268). -/
  isStep : Bool := false
  /-- The partition whose virtual function a host access came through; none for a device access. -/
  host : Option Nat := none
  /-- Of a recovery: the data ECC of the LLC copy is uncorrectable (R248). -/
  copyLost : Bool := false
  deriving DecidableEq, Repr

/-- Transient states (R258). -/
inductive TransKind where
  | f | ss | si | st
  deriving DecidableEq, Repr

/-- A transaction in a transient state. -/
structure Trans where
  kind : TransKind
  item : HomeItem
  await : List Nat := []
  /-- Tiles whose snoop or offer waits, since 8 are outstanding to them from the slice (R252). -/
  unsent : List Nat := []
  /-- TAG of its snoops and offers (R249). -/
  tag : Nat := 0
  kept : Option Nat := none
  deriving DecidableEq, Repr

/-- Replacement marks (R346). -/
inductive Mark where
  | normal | retain | evictFirst
  deriving DecidableEq, Repr

/-- A resident line and its directory entry (R244 to R246); an absent line is in I. -/
structure LlcLine where
  hstate : HState := .i
  dirty : Bool := false
  ptag : Nat := 0
  keyId : Nat := 0
  dpa : Nat := 0
  presence : BitVec 64 := 0
  data : Line := 0
  poison : Bool := false
  mark : Mark := .normal
  way : Nat := 0
  trans : Option Trans := none
  wait : List HomeItem := []
  deriving DecidableEq, Repr

/-- A request of a tile that is back-pressured while every tracker of its slice is busy (R252, R258). -/
structure BackReq where
  m : TileMsg
  kind : ItemKind
  step : Option Nat := none
  data : Line := 0
  deriving DecidableEq, Repr

/-- R242 to R278. -/
structure Coherence where
  snpTimeout : Nat := 20
  cfgErr : Bool := false
  dead : BitVec 64 := 0
  walk : BitVec 32 := 0
  snoops : Nat := 0
  stashOffers : Nat := 0
  stashDeclines : Nat := 0
  stashDropped : Nat := 0
  atomsHome : Nat := 0
  atomsMemory : Nat := 0
  poisonedLines : Nat := 0
  dirUe : Nat := 0
  protocolErrs : Nat := 0
  stale : Tab Nat := []
  /-- Tiles and steps whose STEP_KILL went out at a commit and has not been acknowledged (R264, R468). -/
  owed : List (Nat × Nat) := []
  /-- Number of the next atomic in the order the homes receive them (R75). -/
  atomSeq : Nat := 0
  /-- TAG of the next snoop transaction (R249). -/
  snpTag : Nat := 0
  /-- Requests that are back-pressured, oldest first (R258). -/
  backed : List BackReq := []
  /-- Resident lines by line number: pc * 2^24 + line (R282). -/
  lines : Tab LlcLine := []
  deriving DecidableEq, Repr

/-! ### Memory protection (08) -/

/-- A counter block (R283); minors not listed are 0. -/
structure CounterBlock where
  gen : Nat := 0
  key0 : Nat := 0
  key1 : Nat := 0
  major : Nat := 0
  minors : Tab Nat := []
  deriving DecidableEq, Repr

/-- What a sweep does (R302, R306, R309). -/
inductive SweepKind where
  | rekey | scrub | retire (key : Nat) | cold
  deriving DecidableEq, Repr

/-- A sweep of a PC (R302 to R304, R311). -/
structure Sweep where
  kind : SweepKind
  boundary : Nat := 0
  target : Nat := 0
  /-- Groups to visit out of order (R302 step 2). -/
  first : List Nat := []
  /-- Groups whose metadata was lost, to be rebuilt as poisoned lines (R297). -/
  lost : List Nat := []
  deriving DecidableEq, Repr

/-- A posted write that waits in the write buffer until its group is visited (R291, R297, R302, R304): PC-local line, data and
poison mark. -/
structure Parked where
  line : Nat
  data : Line
  poison : Bool
  deriving DecidableEq, Repr

/-- Per-PC protection state (R311, R316). -/
structure PcState where
  gen : Nat := 0
  present : BitVec 128 := 0
  keeper : Nat := 0
  kept : Bool := false
  exhausted : Bool := false
  sweep : Option Sweep := none
  queued : List Sweep := []
  /-- The tree root in retention SRAM (R287, R311); none is the root of a tree whose counter blocks are as initialisation or a
  scrub leaves them under G(p). -/
  root : Option (List Byte) := none
  /-- Posted writes that wait, oldest first. -/
  parked : List Parked := []
  /-- The hand's set of PCs changed under this PC (R97): the position of the free values that its lines read as, but for
  the lines written since. -/
  junk : Option Nat := none
  sure : List Nat := []
  deriving DecidableEq, Repr

/-- Key ID states (R307). -/
inductive KeyState where
  | clean | held | dirty | flushing | flushed | retiring | kept | device
  deriving DecidableEq, Repr

/-- KEYID_STATE (R315). -/
structure KeyRec where
  state : KeyState := .clean
  part : Nat := 0
  conf : Bool := false
  deriving DecidableEq, Repr

/-- A memory read whose data has returned and is not yet verified (R65, R299). -/
structure ReadTx where
  pc : Nat
  block : Nat
  poisoned : Bool
  /-- The step it serves; none for an access of a home. -/
  step : Option Nat
  /-- A read of the Integrity Unit itself, for a write-back or an overflow (R291, R301). -/
  own : Bool := false
  deriving DecidableEq, Repr

/-- What an entry of a metadata cache holds (R289). -/
inductive MetaKind where
  | block | mac | node (level : Nat)
  deriving DecidableEq, Repr

/-- An entry of a slice's metadata cache (R289): a counter block by its group, a MAC line by its place among the PC's, a tree node
by its level and number. -/
structure MetaEntry where
  pc : Nat
  kind : MetaKind
  index : Nat
  deriving DecidableEq, Repr

/-- A debug read of a line that waits until it is verified (R299). -/
structure DebugRead where
  key : Nat
  dpa : Nat
  deriving DecidableEq, Repr

/-- R279 to R316. -/
structure Protect where
  exhaustedBit : Bool := false
  treeLostBit : Bool := false
  exhaustPc : Nat := 0
  exhaustCause : Bool := false
  exhaustKeys : BitVec 128 := 0
  epoch : Nat := 0
  nonce : BitVec 256 := 0
  memRoot : BitVec 256 := 0
  minorOverflows : Nat := 0
  rekeys : Nat := 0
  scrubs : Nat := 0
  claims : Nat := 0
  keyMismatch : Nat := 0
  poisonWrites : Nat := 0
  treeRepairs : Nat := 0
  treeLost : Nat := 0
  exhaustEvents : Nat := 0
  pcs : Tab PcState := []
  counters : Tab CounterBlock := []
  keys : Tab KeyRec := []
  /-- External memory, plaintext of the data areas: key pc * 2^30 + PC-local offset. -/
  mem : List Host.Cell := []
  /-- Tree nodes as the PCs' own tree areas hold them (R282, R287); one not listed covers counter blocks as initialisation or a
  scrub leaves them. -/
  nodes : Tab (List Byte) := []
  /-- Tree nodes as the partners' mirror areas hold them (R282, R288), keyed by the PC whose tree they are of. -/
  mirrors : Tab (List Byte) := []
  /-- The metadata caches of the slices, newest entry first (R289). -/
  cache : List MetaEntry := []
  reads : List ReadTx := []
  debugs : List DebugRead := []
  flushCmd : Tab CmdRef := []
  retireCmd : Tab CmdRef := []
  deriving DecidableEq, Repr

/-! ### Translation, contexts and objects (09) -/

/-- R333; `revoked` is LOST after a CONTEXT_REVOKE, which becomes UNUSED once it owns no object (R377). -/
inductive CtxState where
  | unused | live | lost | revoked
  deriving DecidableEq, Repr

/-- STATE of an object (R335, R340). -/
inductive ObjState where
  | free | live | released
  deriving DecidableEq, Repr

/-- A memory object entry (R335). -/
structure MemObj where
  state : ObjState := .free
  owner : Nat := 0
  hostRefs : Nat := 0
  devRefs : Nat := 0
  mapped : Bool := false
  base : Nat := 0
  size : Nat := 0
  deriving DecidableEq, Repr

/-- A synchronisation record (R340). -/
structure SyncObj where
  state : ObjState := .free
  error : Bool := false
  value : Nat := 0
  owner : Nat := 0
  hostRefs : Nat := 0
  devRefs : Nat := 0
  deriving DecidableEq, Repr

/-- An event record (R329). -/
structure EvRec where
  reclaim : Bool
  level : Nat := 0
  queue : Nat := 0
  ctx : Nat := 0
  seq : Nat := 0
  dva : Nat := 0
  obj : Nat := 0
  deriving DecidableEq, Repr

/-- The Translation window of a virtual function (R347) and its event ring (R328, R329). -/
structure VfTu where
  ptRoot : Nat := 0
  objBase : Nat := 0
  objCount : Nat := 0
  syncArea : Nat := 0
  evqBase : Nat := 0
  evqLog2 : Nat := 6
  evqHead : Nat := 0
  evqTail : Nat := 0
  cfgErr : Bool := false
  nextSeq : Nat := 1
  waiting : List EvRec := []
  /-- Translations of the synchronisation area as the device's writes use them (R340). -/
  syncXlat : List Xlat := []
  deriving DecidableEq, Repr

/-- A host-window translation in the address translation cache (R330, R331). -/
structure AtcEntry where
  fn : Fn
  ctx : Nat
  base : Nat
  size : Nat
  r : Bool
  w : Bool
  deriving DecidableEq, Repr

/-- R317 to R348. -/
structure Translation where
  vfs : Tab VfTu := []
  /-- Context states by part * 2^16 + number. -/
  ctxs : Tab CtxState := []
  /-- Memory objects by part * 2^20 + number. -/
  objs : Tab MemObj := []
  /-- Synchronisation objects by part * 2^17 + number. -/
  syncs : Tab SyncObj := []
  atc : List AtcEntry := []
  invalidating : List (Fn × Nat × Nat) := []
  walks : Nat := 0
  misses : Nat := 0
  atsRequests : Nat := 0
  pageRequests : Nat := 0
  invalidates : Nat := 0
  gone : Nat := 0
  answerDrops : Nat := 0
  retainIgnored : Nat := 0
  deriving DecidableEq, Repr

/-! ### Queues (10) -/

/-- STATE of R379. -/
inductive QState where
  | free | idle | running | waiting | miss | early | stalled | lost | destroying
  deriving DecidableEq, Repr

/-- Queue kinds (R350). -/
inductive QKind where
  | streaming | persistent | intake | admin
  deriving DecidableEq, Repr

/-- A completion record (R369). -/
structure CRec where
  status : Status
  opcode : Nat
  replay : Bool := false
  summary : Bool := false
  skipped : Bool := false
  range : Bool := false
  phase : Bool := false
  ctx : Nat
  queue : Nat
  index : Nat
  tick : Nat
  detail : Nat := 0
  irq : Bool := false
  deriving DecidableEq, Repr

/-- A command that has not completed and is no step: held by a miss, by ATS, or waiting on a synchronisation object. -/
structure Held where
  /-- SEQ of its MISS record; 0 while it waits for ATS. -/
  seq : Nat
  /-- The partition whose event ring holds the record. -/
  part : Nat
  index : Nat
  opcode : Nat
  raw : Desc
  fetch : CreateFetch
  extra : Nat := 0
  /-- The DVA it waits for. -/
  dva : Nat := 0
  deriving DecidableEq, Repr

/-- A WAIT_SYNC in progress (R342). -/
structure Wait where
  obj : Nat
  target : Nat
  ref : CmdRef
  /-- Its reference belongs to the program (R360). -/
  held : Bool := false
  deriving DecidableEq, Repr

/-- An accepted SIGNAL_SYNC that has not committed (R74, R343). -/
structure Signal where
  part : Nat
  obj : Nat
  add : Bool
  operand : Nat
  ref : CmdRef
  /-- Steps it follows in its stream; it commits with the last of them. -/
  after : List Nat
  order : Nat
  /-- Frame and slot of its acceptance. -/
  frame : Nat
  slot : Nat
  /-- Its reference belongs to the program (R360). -/
  held : Bool := false
  /-- Discarded by a destroyed queue or a revoked context; its reference is still held (R344, R376). -/
  gone : Bool := false
  deriving DecidableEq, Repr

/-- A step template of an intake queue (R366). -/
structure Template where
  pos : Nat
  step : Nat
  raw : Desc
  xlats : List Xlat
  /-- The ranges of a TILE_STEP's table (R364). -/
  ranges : List (Nat × Nat × Nat) := []
  /-- Its context has been revoked: it holds nothing any more (R325). -/
  gone : Bool := false
  deriving DecidableEq, Repr

/-- A queue (R349 to R382, R467, R499). -/
structure Queue where
  live : Bool := false
  kind : QKind := .streaming
  part : Nat := 0
  cls : Nat := 0
  owner : Nat := 0
  weight : Nat := 0
  ringLog2 : Nat := 4
  cqLog2 : Nat := 4
  ring : Nat := 0
  cq : Nat := 0
  vector : Nat := 0
  wdog : Nat := 0
  state : QState := .free
  head : Nat := 0
  tail : Nat := 0
  params : Tab Nat := []
  loops : Tab Nat := []
  rereads : Nat := 0
  skip : Nat := 0
  records : Nat := 0
  cqHead : Nat := 0
  reserved : Nat := 0
  overflow : List CRec := []
  /-- Records in the completion ring, newest first (at most 2^CQ_LOG2 are the ring's). -/
  written : List CRec := []
  updateSeq : Nat := 0
  templates : List Template := []
  /-- Descriptors of a persistent program already accepted: position and held translations (R360). -/
  acceptedAt : Tab (List Xlat) := []
  /-- Contexts of such descriptors, by position. -/
  acceptedBy : Tab Nat := []
  /-- Synchronisation objects referenced by such descriptors, by position (R341, R360). -/
  syncAt : Tab Nat := []
  /-- Range tables of the TILE_STEPs among them (R364). -/
  tableAt : Tab (List (Nat × Nat × Nat)) := []
  /-- Translations of a ring in the device window. -/
  ringXlats : List Xlat := []
  waiting : Option Wait := none
  miss : Option Held := none
  /-- Its owner is lost, and the descriptor at HEAD, its current one, has still to complete with CONTEXT_LOST (R368). -/
  stopping : Bool := false
  credit : Int := 0
  outstanding : Nat := 0
  lastTick : Nat := 0
  completed : Nat := 0
  deriving DecidableEq, Repr

/-- The administration window of a function (R380). -/
structure Admq where
  ringBase : Nat := 0
  ringLog2 : Nat := 4
  cqBase : Nat := 0
  cqLog2 : Nat := 4
  cfgErr : Bool := false
  enable : Bool := false
  vector : Nat := 0
  /-- ADMQ_CQ_HEAD and ADMQ_CQ_TAIL while ENABLE is 0; the queue record holds them while it is 1. -/
  cqHead : Nat := 0
  cqTail : Nat := 0
  deriving DecidableEq, Repr

/-- R349 to R382, R567. -/
structure Queues where
  qs : Tab Queue := []
  /-- Administration windows: 0 to 31 virtual functions, 32 the physical function. -/
  adm : Tab Admq := []
  signals : List Signal := []
  dbDrops : Nat := 0
  earlyEvents : Nat := 0
  stallEvents : Nat := 0
  /-- Q_CTL.STALLED of every queue number (R381). -/
  stalled : BitVec 1024 := 0
  rejects : Nat := 0
  accepts : Nat := 0
  /-- VF_EVQ_CTL (R561). -/
  evqCtl : Tab (Bool × Nat) := []
  deriving DecidableEq, Repr

/-! ### Network (11) -/

/-- R390. -/
inductive PeerState where
  | disabled | negotiating | up | lost | incompatible
  deriving DecidableEq, Repr

/-- A peer entry (R416) and the frame in which it was last heard (R394). -/
structure Peer where
  addrHi : Word := 0
  addrLo : Word := 0
  enable : Bool := false
  port : Nat := 0
  version : Nat := 0
  state : PeerState := .disabled
  lostTick : Nat := 0
  heard : Nat := 0
  deriving DecidableEq, Repr

/-- A port (R415). -/
structure Port where
  mtu : Nat := 0x2400
  linkUp : Bool := false
  enable : Bool := true
  mac : Nat := 0
  ipHi : Word := 0
  ipLo : Word := 0
  rxDrops : Nat := 0
  /-- Timestamp of the first bit of the latest trick on the port (R387). -/
  trickStamp : Option Nat := none
  deriving DecidableEq, Repr

/-- Job slot states (R418). -/
inductive JobState where
  | free | active | aborting | aborted
  deriving DecidableEq, Repr

/-- A job slot (R400 to R405, R418). -/
structure Job where
  id : Nat := 0
  gen : Nat := 0
  members : Nat := 0
  count : Nat := 0
  state : JobState := .free
  status : Status := .ok
  tick : Nat := 0
  abortAt : Nat := 0
  reason : Status := .ok
  list : List Member := []
  /-- CLOSE has been written (R401, R484). -/
  closing : Bool := false
  deriving DecidableEq, Repr

/-- An export entry (R406). -/
structure ExportEnt where
  valid : Bool
  job : Nat
  cls : Nat
  fmt : Nat
  dim : Nat
  pitch : Nat
  base : Nat
  rows : Nat
  xlats : List Xlat
  deriving DecidableEq, Repr

/-- The Network window of a virtual function (R418). -/
structure VfNu where
  exportBase : Nat := 0
  exportStatus : Status := .ok
  exportIndex : Nat := 0
  exportCount : Nat := 0
  exports : List ExportEnt := []
  nextExports : Option (List ExportEnt) := none
  staleEpoch : Nat := 0
  stalePart : Nat := 0
  staleChip : Nat := 0
  deriving DecidableEq, Repr

/-- A sent GATHER_REQ without a complete answer, or a JOB_ABORT without ABORT_ACK (R399, R409). -/
structure OutReq where
  tag : Nat
  head : FoaHead
  body : Option GatherBody
  abortTick : Nat := 0
  reason : Status := .ok
  origin : Nat := 0
  chip : Nat
  resends : Nat := 0
  step : Nat := 0
  bag : Nat := 0
  got : Tab Column := []
  terms : Option Nat := none
  deriving DecidableEq, Repr

/-- R383 to R418. -/
structure Network where
  udpPort : Nat := 0
  chipId : Nat := 0
  cfgErr : Bool := false
  enable : Bool := false
  retryUs : Nat := 40
  ptpDomain : Nat := 0
  ptpPort : Nat := 0
  ptpEn : Bool := false
  lateAbort : Bool := false
  peerLost : Bool := false
  ports : Tab Port := []
  peers : Tab Peer := []
  /-- Job slots by part * 32 + slot. -/
  jobs : Tab Job := []
  vfs : Tab VfNu := []
  out : List OutReq := []
  /-- Completed partials of gather steps: step, bag, columns by element, terms. -/
  merged : List (Nat × Nat × Tab Column × Nat) := []
  nextTag : Nat := 0
  txMsgs : Nat := 0
  rxMsgs : Nat := 0
  retransmits : Nat := 0
  naksSent : Nat := 0
  staleRole : Nat := 0
  staleReplies : Nat := 0
  versionDrops : Nat := 0
  gatherTimeouts : Nat := 0
  lateAborts : Nat := 0
  peerLosses : Nat := 0
  deriving DecidableEq, Repr

/-! ### Faults (12) -/

/-- Record types (R422). -/
inductive RecType where
  | fault | event | reset
  deriving DecidableEq, Repr

/-- A fault record (R422). -/
structure FRec where
  type : RecType
  injected : Bool := false
  cls : FClass
  source : Nat
  kind : Nat
  part : Option Nat := none
  status : Status := .ok
  seq : Nat := 0
  timeNs : Nat := 0
  tick : Nat := 0
  address : Nat := 0
  temp : Int := 0
  volt : Nat := 0
  operation : Nat := 0xFF
  ladder : Nat := 0
  ctx : Nat := 0xFFFF
  detail : Nat := 0
  queue : Nat := 0x7FF
  repeats : Nat := 0
  /-- The record was made before the first tick, as READY stood then at 0 (R423). -/
  early : Bool := false
  deriving DecidableEq, Repr

/-- FC_SRC (R464) and the time of the source's newest FAULT record (R432). -/
structure Src where
  count : Nat := 0
  stepF : Nat := 0
  stepU : Nat := 0
  stepC : Nat := 0
  inFault : Bool := false
  pendF : Bool := false
  pendU : Bool := false
  pendC : Bool := false
  reactF : Nat := 4
  reactU : Nat := 1
  reactC : Nat := 0
  lastNs : Nat := 0
  deriving DecidableEq, Repr

/-- FC_INJECT and FC_INJECT_STATUS (R461). -/
structure Inject where
  count : Nat := 0
  checker : Nat := 0
  pvalid : Bool := false
  part : Nat := 0
  target : Nat := 0
  /-- The running injection, as its ARM named it. -/
  runChecker : Nat := 0
  runPart : Option Nat := none
  runTarget : Nat := 0
  remaining : Nat := 0
  status : Status := .ok
  deriving DecidableEq, Repr

/-- A comparison entry (R452, R453). -/
structure CmpEntry where
  part : Nat
  slot : Nat
  rangeId : Nat
  periodTick : Nat
  /-- Digests present: 0 the local partition, i + 1 member-list entry i. -/
  digests : Tab Digest
  members : Nat
  deriving DecidableEq, Repr

/-- R419 to R465. -/
structure FaultCol where
  quietS : Nat := 10
  cfgErr : Bool := false
  recoveries : Nat := 0
  records : Nat := 0
  thresh : Nat := 1024
  fenceEvents : Nat := 0
  inj : Inject := {}
  src : Tab Src := []
  /-- The recorder, newest first, at most 4,096 (R457). -/
  bbr : List FRec := []
  newest : Nat := 0
  copy0 : Bool := false
  copy640 : Bool := false
  /-- The mirror in PC 0 and the one in PC 640, newest first: of each slot SEQ mod 4,096 the record written last (R458). -/
  mirror0 : List FRec := []
  mirror640 : List FRec := []
  noMirror : Bool := false
  closeFrames : Nat := 128
  decided : Nat := 0
  lateNotes : Nat := 0
  noEntry : Nat := 0
  periodFrames : Nat := 64
  redMask : Tab Nat := []
  /-- RED_MASK as it applies since the latest tick (R444). -/
  redNow : Tab Nat := []
  fenced : BitVec 320 := 0
  ceLlc : Tab Nat := []
  ceHost : Nat := 0
  ceStack : Tab Nat := []
  ceTile : Tab Nat := []
  ceMem : Tab Nat := []
  cmps : List CmpEntry := []
  /-- What each chain of DIGEST commands has hashed of its root, newest first (R450): the model's view of the intermediate
  hash states in state records. -/
  digestRuns : List (List Byte) := []
  closed : List (Nat × Nat × Nat × Nat) := []
  deriving DecidableEq, Repr

/-! ### Resets (13) -/

/-- What a reset in progress covers (R469). -/
inductive Domain where
  | context (part ctx : Nat) | engine (e : Nat) | partition (n : Nat) | stockTile (t : Nat) | destroy (q : Nat)
  | revoke (part ctx : Nat) | dump (n : Nat)
  deriving DecidableEq, Repr

/-- How far a reset has come: capture, kills awaited, recall walk, quiet interval, replay. -/
inductive RStage where
  | capture | kills | walk | quiet | replay
  deriving DecidableEq, Repr

/-- A reset, destroy or revoke in progress (R376, R377, R475 to R479). -/
structure Reset where
  domain : Domain
  stage : RStage := .kills
  cause : Cause := .command
  cmd : Option CmdRef := none
  firstSilent : Option Nat := none
  lostCtxs : Nat := 0
  killed : Nat := 0
  counts : Nat × Nat × Nat × Nat := (0, 0, 0, 0)
  replay : Bool := false
  flr : Bool := false
  /-- A capture was asked for. -/
  dump : Bool := false
  captured : Bool := false
  skipped : Bool := false
  /-- It arrived while a reset of a domain that covers its own ran (R475). -/
  covered : Bool := false
  /-- The suspect steps of a reset with replay (R493). -/
  suspects : List Step := []
  /-- Synchronisation objects whose references discarded waits still hold (R376, R377). -/
  syncRefs : List Nat := []
  deriving DecidableEq, Repr

/-- A capture in progress (R485 to R492). -/
structure Capture where
  part : Nat
  scope : Nat
  index : Nat := 0
  cause : Cause := .command
  silent : List Nat := []
  cmd : Option CmdRef := none
  bbrSeq : Nat := 0
  deriving DecidableEq, Repr

/-- A replay in progress (R493 to R495). -/
structure Replay where
  engine : Nat
  todo : List Step
  /-- The judge run in progress: step id and frame of its dispatch. -/
  running : Option (Nat × Nat) := none
  hung : Nat := 0
  firstHang : Nat := 0
  cmd : Option CmdRef := none
  killed : Nat := 0
  lost : Nat := 0
  deriving DecidableEq, Repr

/-- R466 to R500. -/
structure Recovery where
  replayFrames : Nat := 4
  partGen : Tab Nat := []
  stockGen : Tab Nat := []
  inReset : BitVec 32 := 0
  current : Option Reset := none
  waiting : List Reset := []
  /-- DESTROY_QUEUE and CONTEXT_REVOKE in progress (R376, R377). -/
  works : List Reset := []
  capture : Option Capture := none
  replay : Option Replay := none
  contextResets : Nat := 0
  engineResets : Nat := 0
  partitionResets : Nat := 0
  chipResets : Nat := 0
  staleDrops : Nat := 0
  colTimeouts : Nat := 0
  replayLost : Nat := 0
  dumpBase : Tab Nat := []
  dumpStatus : Tab Status := []
  dumpTick : Tab Nat := []
  dumpXlat : Tab (List Xlat) := []
  deriving DecidableEq, Repr

/-! ### Trust Core (14) -/

/-- The one-time-programmable array (R501). -/
structure Otp where
  codeword : BitVec 32 := 0
  serial : BitVec 128 := 0
  testRoot : BitVec 256 := 0
  identityRoot : BitVec 256 := 0
  memoryRoot : BitVec 256 := 0
  rmaRoot : BitVec 256 := 0
  fwKey : List Digest := []
  fwRevoked : BitVec 4 := 0
  dbgKey : List Digest := []
  dbgRevoked : BitVec 4 := 0
  svnFloor : BitVec 64 := 0
  deriving DecidableEq, Repr

/-- Life-cycle states (R502). -/
inductive LcState where
  | blank | test | provisioned | production | return_ | scrap | invalid
  deriving DecidableEq, Repr

/-- A measurement register (R520). -/
structure Meas where
  count : Nat := 0
  value : Digest := 0
  deriving DecidableEq, Repr

/-- A half-open agreement (R528 to R530). -/
structure Agreement where
  session : Nat
  part : Nat
  epoch : Nat
  nonceT : BitVec 256
  ephemeralT : PubKey
  tenantKey : PubKey
  transcript : List Byte
  port : Nat
  addr : Nat
  udp : Nat
  scalar : BitVec 384
  deriving DecidableEq, Repr

/-- TDISP interface states (R525). -/
inductive Tdi where
  | unlocked | locked | run | error
  deriving DecidableEq, Repr

/-- How far the SPDM connection has come (R523). -/
inductive Spdm where
  | start | version | capabilities | algorithms
  deriving DecidableEq, Repr

/-- Counters of a hand report page (R533). -/
structure HrCount where
  framesUsed : Nat := 0
  admits : Nat := 0
  refuseCap : Nat := 0
  refuseDl : Nat := 0
  killsBe : Nat := 0
  kills : Nat := 0
  lcOverruns : Nat := 0
  residueFails : Nat := 0
  ceMem : Nat := 0
  ceTileLink : Nat := 0
  uFaults : Nat := 0
  deriving DecidableEq, Repr

/-- A hand report page as last written (R533 to R535): the fields that the tick update copies, and the live counters. -/
structure HrPage where
  live : HrCount := {}
  usedNow : Bool := false
  shown : HrCount := {}
  flags : Nat := 0
  gen : Nat := 0
  update : Nat := 0
  planId : Nat := 0
  dealTick : Nat := 0
  epoch : Nat := 0
  planMargin : Nat := 0
  snapTick : Nat := 0
  sinceTick : Nat := 0
  fenced : BitVec 320 := 0
  hand : BitVec 8192 := 0
  deriving DecidableEq, Repr

/-- The Trust window of a virtual function (R538). -/
structure VfTc where
  signAddr : Nat := 0
  nonce : BitVec 256 := 0
  status : Status := .ok
  cmdErr : Bool := false
  busy : Bool := false
  /-- The snapshot taken at the tick after SIGN. -/
  snap : Option HrPage := none
  tenantKeys : Nat := 0
  tenantCount : Nat := 0
  deriving DecidableEq, Repr

/-- R501 to R538. -/
structure Trust where
  otp : Otp := {}
  lc : LcState := .blank
  lcKept : Option LcState := none
  bootCount : Nat := 0
  certAddr : Nat := 0
  certBusy : Bool := false
  certStatus : Status := .ok
  /-- CAPS and PARTS of the loaded debug certificate. -/
  cert : Option (Nat × Nat) := none
  imageVersion : Nat := 0
  slotB : Bool := false
  udpPort : Nat := 0
  enable : Bool := false
  agreed : Nat := 0
  fails : Nat := 0
  signed : Nat := 0
  romDigest : Digest := 0
  serviceDigest : Digest := 0
  microDigest : Digest := 0
  commitSvn : Option Nat := none
  signKey : BitVec 384 := 0
  chain : Option PubKey := none
  kernels : Tab Meas := []
  tables : Tab Meas := []
  half : List Agreement := []
  spdm : Spdm := .start
  spdmKey : Option (BitVec 384) := none
  spdmSession : Bool := false
  ideKeyed : List Nat := []
  /-- IDE streams in use and the functions each covers. -/
  ide : Tab (List Nat) := []
  tdi : Tab Tdi := []
  hr : Tab HrPage := []
  vfs : Tab VfTc := []
  deriving DecidableEq, Repr

/-! ### Health Monitor (15) -/

/-- A field test in progress (R546 to R549). -/
structure FieldTest where
  engine : Nat
  set : Nat
  deriving DecidableEq, Repr

/-- R539 to R555. -/
structure Health where
  allowMin : Nat := 16
  reserveLow : Nat := 20
  slackTarget : Nat := 32
  allow : Nat := 16
  rail : Nat := 0
  cfgErr : Bool := false
  overdraw : Bool := false
  lowReport : Bool := false
  targetMhz : Nat := 1600
  presentMhz : Nat := 1600
  heldRaise : Bool := false
  targetTick : Nat := 0
  /-- Stretched time of the newest frames, newest first, at most 64 (R542). -/
  stretch : List Nat := []
  /-- The slack that the monitors showed in the last 64 frames (R540, R545), as the latest frame's end gave it. -/
  slackAll : Int := 0
  /-- Each monitor's latest slack and its lowest since chip reset; a monitor that has reported none is not listed (R539, R554). -/
  mons : Tab (Int × Int) := []
  /-- Each sensor's value (R539, R554). -/
  sensors : Tab Int := []
  stretchNs : Nat := 0
  overdraws : Nat := 0
  voltSteps : Nat := 0
  tests : Nat := 0
  testFails : Nat := 0
  tempMin : Nat := 0x280
  vOffset : Nat := 30
  fBoost : Nat := 1
  target : Nat := 0
  testing : Option FieldTest := none
  rescanning : Bool := false
  resultSet : Nat := 0
  failIndex : Nat := 0
  tempShort : Bool := false
  result : Nat := 0
  ftStatus : Status := .ok
  pkgQ : Bool := false
  pkgVersion : Nat := 0
  pkgSet : Nat := 0
  /-- The selected package holds patterns for engines. -/
  pkgEngines : Bool := false
  deriving DecidableEq, Repr

/-! ### What the block sends -/

/-- Kinds of coherence message a home sends (R250). -/
inductive HomeMsg where
  | snpShr | snpInv | stashData | dataS | dataE | grantE | wbAck | atomResp (st : Status) | rspErr (st : Status)
  deriving DecidableEq, Repr

/-- Foanaosh messages the chip sends (R396). -/
inductive FoaMsg where
  | hello (minV maxV : Nat) | helloAck (minV maxV agreed : Nat) | heartbeat (tick : Nat) (ready locked : Bool)
  | gatherReq (b : GatherBody) | gatherReply (b : ReplyBody) | digestNote (b : NoteBody)
  | jobAbort (tick : Nat) (reason : Status) (origin : Nat) | abortAck
  | nak (tag : Nat) (st : Status) (type epoch : Nat)
  deriving DecidableEq, Repr

/-- A message, signal or write that leaves the block. -/
inductive Out where
  | mctp (code : Nat) (st : Status) (words : List Nat)
  | powerCycleRequest (code : Nat) (body : List Byte)
  | cfg (retry : Bool) (value : Nat)
  | msix (fn : Fn) (vector : Nat)
  /-- A completion record at its address in the ring (R369). -/
  | completion (fn : Fn) (addr : Nat) (bytes : List Byte)
  /-- An object's entry, 32 bytes at its place in the object table in host memory (R335). -/
  | objWrite (part addr : Nat) (bytes : List Byte)
  /-- An event record, 32 bytes at its place in the event ring in host memory (R329). -/
  | eventRec (part addr : Nat) (bytes : List Byte)
  | hostWrite (fn : Fn) (addr : Nat) (bytes : List Byte)
  | verdictRec (v : Verdict) (digest : Digest)
  /-- A coherence message to a tile: its header and, where it carries data, its data (R249). -/
  | tile (t : Nat) (head : BitVec 128) (data : Option Line)
  | stepDispatch (t step gen kernel : Nat) (ranges : List (Nat × Nat × Nat)) (args : List Byte)
  | stepCommit (t step gen : Nat)
  | stepKill (t step gen : Nat)
  | unitKill (unit step : Nat)
  | fabric (t : Nat) (level : Bool) (gen : Nat)
  /-- A UDP datagram out of a port: its destination address and UDP port, and its bytes (R383, R384). -/
  | datagram (port addr udp : Nat) (bytes : List Byte)
  /-- A PTP Delay_Req out of a port, in a domain (R386). -/
  | delayReq (port domain : Nat)
  | report (part : Nat) (nonce : BitVec 256) (sig : Signature)
  | hostData (part : Nat) (st : Status) (bytes : List Byte) (poison : Bool)
  | atomicResult (st : Status) (old : Word) (poison unsupported : Bool)
  | debug (st : Status) (bytes : List Byte)
  | spdm (code : Nat) (st : Status) (payload : List Nat)
  | tdisp (ok : Bool)
  | ats (fn : Fn) (base size : Nat)
  | pageRequest (fn : Fn) (base size : Nat)
  | invalidateDone (fn : Fn) (base size : Nat)
  | trap (source kind : Nat)
  deriving DecidableEq, Repr

/-! ### Loads -/

/-- A load that waits for the lines of the list it reads in device memory (R401, R406, R532); the model's own record of a read in
progress. -/
inductive Load where
  | job (part slot : Nat) (host : HostView)
  | exports (part count : Nat) (host : HostView)
  | finish (session : Nat) (signature : Signature) (host : HostView)
  deriving DecidableEq, Repr

/-! ### The state -/

/-- The state of Druiviol. -/
structure State where
  bnd : Boundary := {}
  tb : TimeBase := {}
  cu : CommitUnit := {}
  steps : List Step := []
  ps : PlanStore := {}
  ac : Admission := {}
  rie : Intake := {}
  lre : Lre := {}
  coh : Coherence := {}
  mi : Protect := {}
  tu : Translation := {}
  qu : Queues := {}
  nu : Network := {}
  fc : FaultCol := {}
  rc : Recovery := {}
  tc : Trust := {}
  hm : Health := {}
  /-- Loads that wait for their lines, oldest first (R401, R406, R532). -/
  loads : List Load := []
  /-- The model's trace of what the block has sent, newest first. DESIGN CHOICE (log 7). -/
  out : List Out := []
  /-- Position in the sequence of free values; the model's own field. DESIGN CHOICE (log 8). -/
  freeCount : Nat := 0
  /-- Number of the next step, in the order of acceptance; the model's own field. DESIGN CHOICE (log 9). -/
  nextId : Nat := 0
  /-- Commands that wait, first in first out. -/
  pending : List Instr := []
  deriving DecidableEq, Repr

/-- The block in chip reset with power on (R9: the Reset column is the value after chip reset). -/
def State.reset : State := {}

end Sys2Proof.Machine
end

