-- ==== Sys2Proof/Machine/Bits.lean ====
section
/-!
DEFINITION. Bit fields, byte order (R12, R13), saturating counters and sparse tables: the small operations that every
other file uses.
-/
namespace Sys2Proof.Machine
open Sys2Proof

/-- Bits `lo + w - 1` down to `lo` of `x`. -/
def fld (x lo w : Nat) : Nat := x / 2 ^ lo % 2 ^ w

/-- Bit `i` of `x`. -/
def bitAt (x i : Nat) : Bool := x.testBit i

/-- `x` with bits `lo + w - 1` down to `lo` replaced by the low bits of `v`. -/
def setFld (x lo w v : Nat) : Nat := x - fld x lo w * 2 ^ lo + v % 2 ^ w * 2 ^ lo

/-- 1 for true. -/
def b2n (b : Bool) : Nat := if b then 1 else 0

/-- The field at byte `off`, bits from `lo`, width `w`, of a descriptor (R357). -/
def dfld (d : Desc) (off lo w : Nat) : Nat := fld d.toNat (8 * off + lo) w

/-- `n` as `len` bytes, least significant first (R12). -/
def leBytes (n : Nat) : Nat → List Byte
  | 0 => []
  | len + 1 => BitVec.ofNat 8 n :: leBytes (n / 256) len

/-- Little-endian bytes as a number (R12). -/
def leNat : List Byte → Nat
  | [] => 0
  | b :: bs => b.toNat + 256 * leNat bs

/-- `n` as `len` bytes, most significant first (R13). -/
def beBytes (n len : Nat) : List Byte := (leBytes n len).reverse

/-- Big-endian bytes as a number (R13). -/
def beNat (bs : List Byte) : Nat := leNat bs.reverse

/-- A saturating counter of `w` bits that counts `n` more. -/
def satAdd (w c n : Nat) : Nat := min (c + n) (2 ^ w - 1)

/-- The numbers of the set bits of a bitmap, rising. -/
def bitList {w : Nat} (v : BitVec w) : List Nat := (List.range w).filter fun i => v.getLsbD i

/-- `v` with bit `i` set to `b`. -/
def setBit {w : Nat} (v : BitVec w) (i : Nat) (b : Bool) : BitVec w :=
  if b then v ||| BitVec.ofNat w (2 ^ i) else v &&& ~~~(BitVec.ofNat w (2 ^ i))

/-- The bitmap whose set bits are the listed numbers. -/
def bitsOf (w : Nat) (l : List Nat) : BitVec w := l.foldl (fun v i => setBit v i true) 0

/-- Two's-complement reading of the low `w` bits. -/
def toSigned (w x : Nat) : Int := if x % 2 ^ w < 2 ^ (w - 1) then x % 2 ^ w else (x % 2 ^ w : Int) - 2 ^ w

/-- Two's-complement writing in `w` bits. -/
def ofSigned (w : Nat) (x : Int) : Nat := (x % (2 ^ w : Int)).toNat

/-- `⌈a / b⌉`. -/
def ceilDiv (a b : Nat) : Nat := (a + b - 1) / b

/-! ### Sparse tables -/

/-- The entry of `k`, or `d`. -/
def tget {α : Type} (d : α) (t : Tab α) (k : Nat) : α :=
  match t with
  | [] => d
  | (i, a) :: r => if i = k then a else tget d r k

/-- The table with `k` set to `a`; keys stay rising. -/
def tput {α : Type} (t : Tab α) (k : Nat) (a : α) : Tab α :=
  match t with
  | [] => [(k, a)]
  | (i, b) :: r => if i < k then (i, b) :: tput r k a else if i = k then (k, a) :: r else (k, a) :: (i, b) :: r

/-- The table without `k`. -/
def tdel {α : Type} (t : Tab α) (k : Nat) : Tab α := t.filter fun p => p.1 ≠ k

/-- The entry of `k`, if listed. -/
def tfind {α : Type} (t : Tab α) (k : Nat) : Option α :=
  match t with
  | [] => none
  | (i, a) :: r => if i = k then some a else tfind r k

/-- The table with the entry of `k` (or `d`) changed by `f`. -/
def tmod {α : Type} (d : α) (t : Tab α) (k : Nat) (f : α → α) : Tab α := tput t k (f (tget d t k))

/-- One more in a table of saturating counters. -/
def tcount (w : Nat) (t : Tab Nat) (k n : Nat) : Tab Nat := tmod 0 t k fun c => satAdd w c n

/-- Key of an object of partition `n` in a table whose stride is `2 ^ w`. -/
def pkey (w n i : Nat) : Nat := n * 2 ^ w + i

/-- The numbers of a list without repeats, the last of each kept. -/
def uniq : List Nat → List Nat
  | [] => []
  | a :: r => if r.contains a then uniq r else a :: uniq r

/-- The first element that satisfies `p`, changed by `f`. -/
def modFirst {α : Type} (p : α → Bool) (f : α → α) : List α → List α
  | [] => []
  | a :: r => if p a then f a :: r else a :: modFirst p f r

/-- The least element by `key`, the earlier among equals. -/
def leastBy {α : Type} (key : α → Nat) : List α → Option α
  | [] => none
  | a :: r =>
    match leastBy key r with
    | none => some a
    | some b => if key a ≤ key b then some a else some b

/-- Insertion into a list rising by `key`, after equals. -/
def insertBy {α : Type} (key : α → Nat) (a : α) : List α → List α
  | [] => [a]
  | b :: r => if key b ≤ key a then b :: insertBy key a r else a :: b :: r

/-- The list sorted by `key`, stable. -/
def sortBy {α : Type} (key : α → Nat) (l : List α) : List α := l.foldr (fun a r => insertBy' key a r) []
where
  insertBy' {α : Type} (key : α → Nat) (a : α) : List α → List α
    | [] => [a]
    | b :: r => if key a ≤ key b then a :: b :: r else b :: insertBy' key a r

end Sys2Proof.Machine

/-! ### The header of a coherence message (R249) -/
namespace Sys2Proof

/-- Bits of a header. -/
def TileMsg.fld (m : TileMsg) (lo w : Nat) : Nat := Machine.fld m.head.toNat lo w
/-- OPCODE. -/
def TileMsg.code (m : TileMsg) : Nat := m.fld 120 8
/-- DOMAIN_GEN. -/
def TileMsg.gen (m : TileMsg) : Nat := m.fld 112 8
/-- TILE, the sending tile. -/
def TileMsg.tile (m : TileMsg) : Nat := m.fld 106 6
/-- TAG. -/
def TileMsg.tag (m : TileMsg) : Nat := m.fld 92 12
/-- RETURN. -/
def TileMsg.ret (m : TileMsg) : Bool := m.fld 83 1 == 1
/-- NEAR. -/
def TileMsg.near (m : TileMsg) : Bool := m.fld 82 1 == 1
/-- ACCEPT. -/
def TileMsg.accept (m : TileMsg) : Bool := m.fld 81 1 == 1
/-- POISON. -/
def TileMsg.poison (m : TileMsg) : Bool := m.fld 80 1 == 1
/-- ADDR: the DPA of the line, with the byte offset of an Atom. -/
def TileMsg.dpa (m : TileMsg) : Nat := m.fld 0 64
/-- The header is one that a tile may send as opcode `op`: that opcode, and zero in the reserved fields (R250). -/
def TileMsg.legal (m : TileMsg) (op : Nat) : Bool := m.code == op && m.fld 104 2 == 0 && m.fld 84 8 == 0
/-- The operation of an Atom, from its header and its data. -/
def TileMsg.atomOp (m : TileMsg) (data : Line) : AtomOp :=
  { code := m.fld 64 4, wide := m.fld 68 1 == 1, operand := BitVec.ofNat 64 data.toNat,
    compare := BitVec.ofNat 64 (data.toNat / 2 ^ 64), ret := m.ret }

end Sys2Proof
end

