-- ==== Sys2Proof/Machine/Clock.lean ====
section
/-!
DEFINITION. The block's clock between commands: the time base (R53, R54).
-/
namespace Sys2Proof.Machine
open Sys2Proof

/-- The frame period P in ns (R53). -/
def periodNs (t : TimeBase) : Nat := t.periodUs * 1000

/-- How far the present instant lies in its frame, in ns (R53). -/
def intoFrame (t : TimeBase) : Nat := (((t.now : Int) - t.originNs) % (periodNs t : Int)).toNat

/-- The instant at which a point of the present frame lies, `x` ns from its start. -/
def frameInstant (t : TimeBase) (x : Nat) : Nat := ((t.now : Int) - intoFrame t + x).toNat

/-- The instant at which the slot after the present one starts, in ns; sixteenths of a frame are cut to whole ns (R54). -/
def nextEdge (t : TimeBase) : Nat := frameInstant t ((t.slot + 1) * periodNs t / 16)

/-- The instant of the next tick (R53). -/
def nextTick (t : TimeBase) : Nat := frameInstant t (periodNs t)

/-- Tick number and slot recomputed from the time base (R53, R54, R56); a tick number is the low 48 bits. -/
def regrid (t : TimeBase) : TimeBase :=
  { t with tick := ofSigned 48 (((t.now : Int) - t.originNs) / (periodNs t : Int)),
           slot := ((List.range 16).filter fun k => k * periodNs t / 16 ≤ intoFrame t).length - 1 }

/-- An empty queue: the time base counts one ns, but does not pass a slot or frame edge, which SLOT_BOUNDARY and TICK
take; out of reset the Trust Core starts from ROM, and stage TC_BOOT is entered (R47). DESIGN CHOICE (log 11). -/
def idle (s : State) : State :=
  if s.bnd.powered && s.tb.running && s.tb.now + 1 < nextEdge s.tb then
    { s with tb := { s.tb with now := s.tb.now + 1 } }
  else if s.bnd.powered && s.bnd.stage == .reset then { s with bnd := { s.bnd with stage := .tcBoot } }
  else s

end Sys2Proof.Machine
end

