-- ==== Sys2Proof/Config.lean ====
section
/-!
DEFINITION. What an implementation fixes and what the spec leaves open: public-standard cryptography that the spec names
without giving it, and free values. Every constant here is opaque: no proof can see its value.
-/
namespace Sys2Proof.Config

/-- Free values by position in the model's sequence `State.freeCount`: the random part of BOOT_COUNT (R509), EPOCH_NONCE
(R508), session numbers and ephemeral keys (R527), and the other values that the spec leaves undefined (log 8). -/
opaque freeNat : Nat → Nat

/-- SHA-384 (R510, R520, R447). -/
opaque sha384 : List Byte → Digest
/-- The intermediate hash state of R450 after some bytes: 192 bytes in a form that is not architectural. -/
opaque shaState : List Byte → List Byte
/-- Bytes whose intermediate hash state is the given one, for a record that the device did not write (R450). -/
opaque shaBefore : List Byte → List Byte
/-- HKDF-SHA-384 (RFC 5869) of input key material, salt and info, to the given number of bytes (R531). -/
opaque hkdf : List Byte → List Byte → List Byte → Nat → List Byte
/-- AES-256 of one 16-byte block under a key (R284). -/
opaque aes256 : BitVec 256 → BitVec 128 → BitVec 128
/-- AES-CMAC under a 256-bit key (R285, R287). -/
opaque cmac256 : BitVec 256 → List Byte → BitVec 128
/-- The ECDSA P-384 public key of a scalar (R513). -/
opaque ecdsaPub : BitVec 384 → PubKey
/-- An ECDSA P-384 signature of a digest; the free value is the nonce of the signature (R513). -/
opaque ecdsaSign : BitVec 384 → Digest → Nat → Signature
/-- Whether a signature of a digest verifies under a key (R510, R514, R530). -/
opaque ecdsaVerify : PubKey → Digest → Signature → Bool
/-- The ECDH P-384 shared secret of a scalar and a public key (R531). -/
opaque ecdh : BitVec 384 → PubKey → BitVec 384
/-- The check bits of the SEC-DED code over a directory entry (R245): the spec does not give the code (log 111). -/
opaque secded : BitVec 80 → BitVec 8
/-- The index of the LLC set of a line, a hash of its address that is not architectural (R258; log 20). -/
opaque llcSet : Nat → Nat
/-- The old value that a returning EXACT_ADD carries, by the line before it: the spec does not say which value of the 64-byte target
it is (R213; log 50). -/
opaque exactOld : Line → Word
/-- The filtered offset that the PTP engine forms from the previous one and a new sample, in ns (R387): the spec gives no
filter (log 40). -/
opaque ptpFilter : Int → Int → Int

end Sys2Proof.Config
end

