-- ==== Sys2Proof/Machine/Hands.lean ====
section
/-!
DEFINITION. The fields of a plan image, of its hands and of their queue classes (R89 to R92), and what each hand claims
(R4, R95, R96).
-/
namespace Sys2Proof.Machine
open Sys2Proof

/-- The field at byte `off`, bits from `lo`, width `w`, of an image (R89). -/
def imgFld (img : Image) (off lo w : Nat) : Nat := (img.extractLsb' (8 * off + lo) w).toNat

/-- PLAN_VERSION (R90). -/
def planVersion (img : Image) : Nat := imgFld img 0x00 0 4
/-- ARCH_LEVEL (R90). -/
def archLevel (img : Image) : Nat := imgFld img 0x01 0 8
/-- PLAN_MARGIN (R90). -/
def planMargin (img : Image) : Nat := imgFld img 0x04 0 11
/-- PLAN_ID (R90). -/
def planId (img : Image) : Nat := imgFld img 0x08 0 64
/-- PERIOD_US of the plan (R90). -/
def planPeriod (img : Image) : Nat := imgFld img 0x18 0 12
/-- HAND_MASK bit `n` (R90). -/
def hasHand (img : Image) (n : Nat) : Bool := n < 32 && bitAt (imgFld img 0x10 0 32) n

/-- Offset of hand slot `n` (R89). -/
def handOff (n : Nat) : Nat := 0x40 + n * 0x400

/-- A field of the hand of partition `n`; zero where the slot is empty (R89, R91). -/
def handFld (img : Image) (n off lo w : Nat) : Nat := if hasHand img n then imgFld img (handOff n + off) lo w else 0

/-- CONFIDENTIAL (R91). -/
def hConf (img : Image) (n : Nat) : Bool := handFld img n 0x000 0 1 == 1
/-- CP (R91). -/
def hCp (img : Image) (n : Nat) : Nat := handFld img n 0x001 0 5
/-- LC_CAP (R91). -/
def hLcCap (img : Image) (n : Nat) : Nat := handFld img n 0x002 0 7
/-- SLOT_MASK (R91). -/
def hSlots (img : Image) (n : Nat) : BitVec 16 := BitVec.ofNat 16 (handFld img n 0x004 0 16)
/-- ROLE_EPOCH (R91). -/
def hEpoch (img : Image) (n : Nat) : Nat := handFld img n 0x008 0 32
/-- LLC_WAYS (R91). -/
def hWays (img : Image) (n : Nat) : BitVec 32 := BitVec.ofNat 32 (handFld img n 0x00C 0 32)
/-- TILES (R91). -/
def hTiles (img : Image) (n : Nat) : BitVec 64 := BitVec.ofNat 64 (handFld img n 0x010 0 64)
/-- NET_SHARE of port `p` (R91). -/
def hShare (img : Image) (n p : Nat) : Nat := handFld img n (0x018 + p) 0 8
/-- REQCTX_QUOTA, QUEUE_QUOTA, CMDCTX_QUOTA and SYNC_QUOTA by quota index (R91, R117). -/
def hQuota (img : Image) (n q : Nat) : Nat :=
  if q = 0 then handFld img n 0x020 0 15
  else if q = 1 then handFld img n 0x022 0 11
  else if q = 2 then handFld img n 0x024 0 13
  else handFld img n 0x028 0 18
/-- KEYIDS (R91). -/
def hKeys (img : Image) (n : Nat) : BitVec 128 := BitVec.ofNat 128 (handFld img n 0x040 0 128)
/-- ENGINES (R91). -/
def hEngines (img : Image) (n : Nat) : BitVec 320 := BitVec.ofNat 320 (handFld img n 0x060 0 320)
/-- PCS (R91). -/
def hPcs (img : Image) (n : Nat) : BitVec 1280 := BitVec.ofNat 1280 (handFld img n 0x0A0 0 1280)

/-- A field of class record `c` of hand `n` (R92). -/
def clsFld (img : Image) (n c off lo w : Nat) : Nat := handFld img n (0x200 + 32 * c + off) lo w

/-- A queue class (R92). -/
structure ClassRec where
  be : Bool
  valid : Bool
  deadline : Nat
  steps : Nat
  fsteps : Nat
  rateCap : Nat
  stepNs : Nat
  fstepNs : Nat
  tileNs : Nat
  engineNs : Nat
  memLines : Nat
  netBytes : Nat
  deriving DecidableEq, Repr

/-- Class `c` of hand `n` (R92). -/
def hClass (img : Image) (n c : Nat) : ClassRec where
  be := clsFld img n c 0x00 1 1 == 1
  valid := clsFld img n c 0x00 0 1 == 1
  deadline := clsFld img n c 0x01 0 7
  steps := clsFld img n c 0x02 0 5
  fsteps := clsFld img n c 0x03 0 2
  rateCap := clsFld img n c 0x04 0 16
  stepNs := clsFld img n c 0x08 0 32
  fstepNs := clsFld img n c 0x0C 0 32
  tileNs := clsFld img n c 0x10 0 32
  engineNs := clsFld img n c 0x14 0 32
  memLines := clsFld img n c 0x18 0 32
  netBytes := clsFld img n c 0x1C 0 32

/-- The occupied slots, ascending (R117). -/
def hands (img : Image) : List Nat := (List.range 32).filter fun n => hasHand img n

/-- The valid classes of a hand, ascending. -/
def validClasses (img : Image) (n : Nat) : List Nat := (List.range 16).filter fun c => (hClass img n c).valid

/-- The PCs of a hand in ascending order (R319). -/
def pcList (img : Image) (n : Nat) : List Nat := bitList (hPcs img n)

/-- The slices that home PCs of a hand, ascending (R95: slice `s` homes PCs 32s to 32s + 31). -/
def sliceList (img : Image) (n : Nat) : List Nat :=
  (List.range 40).filter fun s => fld (hPcs img n).toNat (32 * s) 32 ≠ 0

/-- The engines of a hand in slice `s`, ascending (R4). -/
def enginesIn (img : Image) (n s : Nat) : List Nat :=
  ((List.range 8).map fun i => 8 * s + i).filter fun e => (hEngines img n).getLsbD e

/-- Ways of slice `s` that a hand claims (R96). -/
def waysIn (img : Image) (n s : Nat) : List Nat :=
  if fld (hPcs img n).toNat (32 * s) 32 ≠ 0 then bitList (hWays img n) else []

/-- The ways a hand claims, as 32 * slice + way, ascending. -/
def wayList (img : Image) (n : Nat) : List Nat :=
  (sliceList img n).flatMap fun s => (bitList (hWays img n)).map fun w => 32 * s + w

/-- The hand that holds a PC. -/
def pcOwner (img : Image) (p : Nat) : Option Nat := (hands img).find? fun n => (hPcs img n).getLsbD p
/-- The hand that holds a tile. -/
def tileOwner (img : Image) (t : Nat) : Option Nat := (hands img).find? fun n => (hTiles img n).getLsbD t
/-- The hand that holds an engine. -/
def engineOwner (img : Image) (e : Nat) : Option Nat := (hands img).find? fun n => (hEngines img n).getLsbD e
/-- The hand that holds a key ID. -/
def keyOwner (img : Image) (k : Nat) : Option Nat := (hands img).find? fun n => (hKeys img n).getLsbD k
/-- The hand to which Command Processor `c` is bound. -/
def cpOwner (img : Image) (c : Nat) : Option Nat := (hands img).find? fun n => hCp img n == c

/-- The slice that homes a PC (R95). -/
def sliceOf (pc : Nat) : Nat := pc / 32
/-- The stack of a PC (00_scope.md). -/
def stackOf (pc : Nat) : Nat := pc / 64
/-- The partner of a PC (R288). -/
def partner (pc : Nat) : Nat := (pc + 640) % 1280

/-! ### Unit IDs (R5) -/

/-- Unit ID of a Command Processor. -/
def cpUnit (c : Nat) : Nat := 0x100 + c
/-- Unit ID of a slice. -/
def sliceUnit (s : Nat) : Nat := 0x400 + s
/-- Unit ID of an engine: bank 0, then bank 1. -/
def engineUnit (e : Nat) : Nat := if e < 256 then 0x500 + e else 0x600 + (e - 256)
/-- Unit ID of a tile's port. -/
def tileUnit (t : Nat) : Nat := 0x700 + t
/-- The engine of a unit ID. -/
def unitEngine (u : Nat) : Option Nat :=
  if 0x500 ≤ u ∧ u < 0x600 then some (u - 0x500) else if 0x600 ≤ u ∧ u < 0x640 then some (u - 0x600 + 256) else none
/-- The tile of a unit ID. -/
def unitTile (u : Nat) : Option Nat := if 0x700 ≤ u ∧ u < 0x740 then some (u - 0x700) else none
/-- The slice of a unit ID. -/
def unitSlice (u : Nat) : Option Nat := if 0x400 ≤ u ∧ u < 0x428 then some (u - 0x400) else none
/-- The Command Processor of a unit ID. -/
def unitCp (u : Nat) : Option Nat := if 0x100 ≤ u ∧ u < 0x120 then some (u - 0x100) else none
/-- The network port of a unit ID. -/
def unitPort (u : Nat) : Option Nat := if 0x800 ≤ u ∧ u < 0x808 then some (u - 0x800) else none

/-- Whether a unit ID is assigned (R5). -/
def unitAssigned (u : Nat) : Bool :=
  let i := u % 256
  match u / 256 with
  | 0x0 => i == 0
  | 0x1 => i ≤ 0x20
  | 0x2 => i ≤ 0x05
  | 0x3 => i == 0
  | 0x4 => i ≤ 0x27
  | 0x5 => true
  | 0x6 => i ≤ 0x3F
  | 0x7 => i ≤ 0x3F
  | 0x8 => i ≤ 0x07 || i == 0x10
  | 0x9 => i == 0
  | 0xA => i ≤ 0x03
  | 0xB => i ≤ 0x01
  | 0xC => i ≤ 0xBF || i == 0xFF
  | 0xD => i ≤ 0x13 || (0x20 ≤ i && i ≤ 0x23) || i == 0x40
  | _ => false

end Sys2Proof.Machine
end

