-- ==== Sys2Proof/Machine/Ops.lean ====
section
/-!
DEFINITION. Operations that every unit shares: status codes, what the block sends, free values, who is ready, interrupts
(00_scope.md; R31, R33, R559).
-/
namespace Sys2Proof.Machine
open Sys2Proof

/-- The 16-bit code of a status (R14). -/
def statusCode : Status → Nat
  | .ok => 0x0000
  | .refusedCapacity => 0x0001
  | .refusedDeadline => 0x0002
  | .stateConflict => 0x0010
  | .reservedNonzero => 0x0011
  | .version => 0x0012
  | .badOpcode => 0x0013
  | .rights => 0x0020
  | .translationPending => 0x0021
  | .objectGone => 0x0022
  | .poison => 0x0030
  | .contextLost => 0x0031
  | .killed => 0x0032
  | .timeout => 0x0033
  | .staleRole => 0x0040
  | .peerLost => 0x0041
  | .jobAborted => 0x0042
  | .completionStalled => 0x0050
  | .doorbellEarly => 0x0051
  | .keyidExhausted => 0x0060
  | .planInfeasible => 0x0061
  | .planMarginLow => 0x0062

/-- The status codes that other units receive as numbers (JOB_ABORT reasons); an unlisted code is a failure (R15) and is
kept as KILLED. -/
def statusOf (c : Nat) : Status :=
  ([.ok, .refusedCapacity, .refusedDeadline, .stateConflict, .reservedNonzero, .version, .badOpcode, .rights,
    .translationPending, .objectGone, .poison, .contextLost, .killed, .timeout, .staleRole, .peerLost, .jobAborted,
    .completionStalled, .doorbellEarly, .keyidExhausted, .planInfeasible, .planMarginLow].find?
      fun st => statusCode st == c).getD .killed

/-- `o` leaves the block. -/
def emit (o : Out) (s : State) : State := { s with out := o :: s.out }

/-- The next free value below `2 ^ w`, and the state with the sequence advanced (log 8). -/
def fresh (w : Nat) (s : State) : Nat × State :=
  (Config.freeNat s.freeCount % 2 ^ w, { s with freeCount := s.freeCount + 1 })

/-- Virtual function `n` exists (R556). -/
def vfExists (s : State) (n : Nat) : Bool := n < 32 && s.bnd.vfEnable && n < s.bnd.numVfs

/-- A function exists. -/
def fnExists (s : State) : Fn → Bool
  | .pf => true
  | .vf n => vfExists s n

/-- TDISP state of interface `n` (R525, R526). -/
def tdiOf (s : State) (n : Nat) : Tdi := tget .unlocked s.tc.tdi n

/-- A virtual function serves its BAR and issues DMA, as TDISP has it: the function of a confidential hand only in RUN
(R525, R526). -/
def tdiServes (s : State) (n : Nat) : Bool := !hConf s.ps.active n || tdiOf s n == .run

/-- A virtual function is ready: it exists, READY is 1, its partition is not in partition reset, and TDISP lets it serve
(R31, R33, R525). -/
def vfReady (s : State) (n : Nat) : Bool :=
  s.bnd.ready && vfExists s n && !s.rc.inReset.getLsbD n && tdiServes s n

/-- A function is ready (R31, R33). -/
def fnReady (s : State) : Fn → Bool
  | .pf => s.bnd.ready
  | .vf n => vfReady s n

/-- A request to a function's BAR reaches its registers: in RUN the function of a confidential hand takes only requests on IDE with
the T bit set (R525). -/
def barServes (s : State) (fn : Fn) (tbit : Bool) : Bool :=
  match fn with
  | .pf => true
  | .vf n => tbit || !hConf s.ps.active n || tdiOf s n != .run

/-- A register request of a function; one that its BAR does not serve completes with Unsupported Request (R525). -/
def atBar (fn : Fn) (tbit : Bool) (k : State → State) (s : State) : State := if barServes s fn tbit then k s else s

/-- An MSI-X vector is raised; none is while the function is not ready (R31, R33). -/
def msix (fn : Fn) (v : Nat) (s : State) : State := if fnReady s fn then emit (.msix fn v) s else s

/-- The block runs: package power is on, start-up has ended in READY. -/
def live (s : State) : Bool := s.bnd.powered && s.bnd.ready

/-- Present generation of partition `n` (R469, R472). -/
def partGen (s : State) (n : Nat) : Nat := tget 0 s.rc.partGen n
/-- Present stock generation of tile `t` (R469). -/
def stockGen (s : State) (t : Nat) : Nat := tget 0 s.rc.stockGen t
/-- DOMAIN_GEN of a tile: its partition's generation when a hand holds it, else the stock's (R21, R101). -/
def domainGen (s : State) (t : Nat) : Nat :=
  match tileOwner s.ps.active t with
  | some n => partGen s n
  | none => stockGen s t
/-- One engine's record. -/
def engine (s : State) (e : Nat) : Engine := tget {} s.lre.engines e
/-- An engine's record changed. -/
def modEngine (e : Nat) (f : Engine → Engine) (s : State) : State :=
  { s with lre := { s.lre with engines := tmod {} s.lre.engines e f } }
/-- The queue record. -/
def queue (s : State) (q : Nat) : Queue := tget {} s.qu.qs q
/-- The queue record changed. -/
def modQueue (q : Nat) (f : Queue → Queue) (s : State) : State :=
  { s with qu := { s.qu with qs := tmod {} s.qu.qs q f } }
/-- The state of a context (R333). -/
def ctxState (s : State) (n c : Nat) : CtxState := tget .unused s.tu.ctxs (pkey 16 n c)
/-- A context's state set. -/
def setCtx (n c : Nat) (v : CtxState) (s : State) : State :=
  { s with tu := { s.tu with ctxs := if v = .unused then tdel s.tu.ctxs (pkey 16 n c) else tput s.tu.ctxs (pkey 16 n c) v } }
/-- Contexts of a partition that are not UNUSED (R333). -/
def ctxCount (s : State) (n : Nat) : Nat := (s.tu.ctxs.filter fun p => p.1 / 2 ^ 16 == n).length
/-- Live queues of a partition outside the administration queues (R349). -/
def queueCount (s : State) (n : Nat) : Nat := (s.qu.qs.filter fun p => p.1 < 1024 && p.2.live && p.2.part == n).length
/-- Request contexts of a partition in use (R151). -/
def reqCount (s : State) (n : Nat) : Nat := (s.ac.reqs.filter fun r => r.part == n).length
/-- Synchronisation records of a partition that are not FREE (R341). -/
def syncCount (s : State) (n : Nat) : Nat :=
  (s.tu.syncs.filter fun p => p.1 / 2 ^ 17 == n && p.2.state ≠ .free).length

/-- A step changed by number. -/
def modStep (id : Nat) (f : Step → Step) (s : State) : State :=
  { s with steps := modFirst (fun t => t.id == id) f s.steps }
/-- A step by number. -/
def findStep (s : State) (id : Nat) : Option Step := s.steps.find? fun t => t.id == id
/-- A step taken out of the list. -/
def dropStep (id : Nat) (s : State) : State := { s with steps := s.steps.filter fun t => t.id ≠ id }

/-- The counters of partition `n`'s hand report page changed (R533). -/
def modHr (n : Nat) (f : HrCount → HrCount) (s : State) : State :=
  { s with tc := { s.tc with hr := tmod {} s.tc.hr n fun p => { p with live := f p.live } } }

end Sys2Proof.Machine
end

