-- ==== Sys2Proof/Machine/Fault.lean ====
section
/-!
DEFINITION. The Fault Collector: messages, records, the reaction ladder and counter-only sources (R419 to R433, R457).
-/
namespace Sys2Proof.Machine
open Sys2Proof

/-- A fault message (R420). -/
structure FMsg where
  source : Nat
  kind : Nat
  address : Nat := 0
  detail : Nat := 0
  part : Option Nat := none
  ctx : Nat := 0xFFFF
  queue : Nat := 0x7FF
  op : Nat := 0xFF
  status : Status := .ok
  injected : Bool := false
  /-- Made before the collector applies reactions (R48). -/
  quiet : Bool := false
  deriving DecidableEq, Repr

/-- The class of a kind (R421). -/
def kindClass (k : Nat) : FClass :=
  if k ∈ [0x12, 0x15, 0x40] then .f
  else if k ∈ [0x01, 0x03, 0x08, 0x0A, 0x13, 0x18, 0x20, 0x50] then .c
  else .u

/-- The floor of a kind (R421). -/
def kindFloor (k : Nat) : Nat :=
  if k ∈ [0x12, 0x15] then 5 else if k = 0x40 then 4 else if k = 0x22 then 3 else 0

/-- Base step of a class (R428). -/
def baseStep (r : Src) : FClass → Nat
  | .c => r.reactC
  | .u => r.reactU
  | .f => r.reactF
  | .none_ => 0
/-- Pending flag of a class (R429). -/
def pendOf (r : Src) : FClass → Bool
  | .c => r.pendC
  | .u => r.pendU
  | .f => r.pendF
  | .none_ => false
/-- Step last taken of a class (R429). -/
def lastStep (r : Src) : FClass → Nat
  | .c => r.stepC
  | .u => r.stepU
  | .f => r.stepF
  | .none_ => 0
/-- Cap of a class (R429). -/
def capOf : FClass → Nat
  | .c => 2
  | _ => 5

/-- The step a fault takes (R428, R429): the higher of base and floor, or for a repeat one step above the previous, within
the cap. -/
def ladderStep (r : Src) (k : Nat) : Nat :=
  let cl := kindClass k
  if pendOf r cl then min (capOf cl) (max (kindFloor k) (lastStep r cl + 1)) else max (baseStep r cl) (kindFloor k)

/-- The source record after a FAULT record (R429, R432, R464). -/
def srcAfter (r : Src) (cl : FClass) (step now : Nat) : Src :=
  let r := { r with count := satAdd 16 r.count 1, inFault := true, lastNs := now }
  match cl with
  | .c => { r with pendC := true, stepC := step }
  | .u => { r with pendU := true, stepU := step }
  | .f => { r with pendF := true, stepF := step }
  | .none_ => r

/-- A record written to its slot of a mirror, in place of what the slot held (R458). -/
def mirrorPut (r : FRec) (l : List FRec) : List FRec := r :: l.filter fun x => x.seq % 4096 ≠ r.seq % 4096

/-- A record written to every mirror copy that is kept (R458). -/
def toMirrors (r : FRec) (c : FaultCol) : FaultCol :=
  { c with mirror0 := if c.copy0 then mirrorPut r c.mirror0 else c.mirror0,
           mirror640 := if c.copy640 then mirrorPut r c.mirror640 else c.mirror640 }

/-- A record enters the recorder, which keeps the newest 4,096, and its mirrors (R423, R457, R458). -/
def record (r : FRec) (s : State) : State :=
  let (temp, s) := fresh 16 s
  let (volt, s) := fresh 16 s
  let r := { r with seq := s.fc.newest + 1, timeNs := if s.tb.running then s.tb.now else 0,
                    tick := if s.tb.running then s.tb.tick else 0, early := !s.bnd.ready,
                    temp := toSigned 16 temp, volt := volt }
  { s with fc := toMirrors r { s.fc with newest := s.fc.newest + 1, records := satAdd 64 s.fc.records 1,
                                         bbr := (r :: s.fc.bbr).take 4096 } }

/-- ERR_N is asserted by a fault of source `src` and class `cl` (R37); never in SCRAP. -/
def assertErr (src : Nat) (cl : FClass) (s : State) : State :=
  if s.tc.lc = .scrap then s
  else { s with bnd := { s.bnd with errAsserted := true, errSource := some (src, cl) } }

/-- A chip reset is asked for; its preparation is held until CHIP_RESET (R480). A second request changes nothing. -/
def askChipReset (p : Prep) (s : State) : State :=
  if s.bnd.prep.isSome then s else { s with bnd := { s.bnd with prep := some p } }

/-- Domain `d` lies inside domain `e`, or is it (R475). -/
def insideOf (s : State) (d e : Domain) : Bool :=
  d == e || match e with
    | .partition n =>
      match d with
      | .context p _ => p == n
      | .engine x => (hEngines s.ps.active n).getLsbD x
      | _ => false
    | _ => false

/-- A reset joins those that the Recovery Controller takes in arrival order; one whose domain is under reset is marked
(R475). -/
def askReset (r : Reset) (s : State) : State :=
  let covered := s.rc.current.any fun c => insideOf s r.domain c.domain
  { s with rc := { s.rc with waiting := s.rc.waiting ++ [{ r with covered := covered }] } }

/-- BLOCK_RESET (R431). -/
def blockReset (m : FMsg) (s : State) : State :=
  let cause : Cause := if m.kind = 0x22 then .deadAgent else .ladder
  match unitEngine m.source, unitTile m.source, unitCp m.source with
  | some e, _, _ => askReset { domain := .engine e, cause := cause } s
  | _, some t, _ =>
    match tileOwner s.ps.active t with
    | some n => askReset { domain := .partition n, cause := cause } s
    | none => askReset { domain := .stockTile t, cause := cause } s
  | _, _, some c =>
    match cpOwner s.ps.active c with
    | some n => askReset { domain := .partition n, cause := cause } s
    | none => s
  | none, none, none =>
    if m.source = 0x120 then s
    else
      match m.part with
      | some n => askReset { domain := .partition n, cause := cause } s
      | none => askChipReset { cause := .ladder, dump := true } s

/-- The device halts: nothing leaves it any more, and the commit in progress stops where it is (R68, R427). -/
def haltDevice (s : State) : State := { s with cu := { s.cu with halted := true, open_ := none, applied := false } }

/-- The actions of a reaction step (R427). -/
def react (m : FMsg) (step : Nat) (s : State) : State :=
  let s := if 1 ≤ step then msix .pf 62 s else s
  match step with
  | 2 => emit (.trap m.source m.kind) s
  | 3 => blockReset m s
  | 4 => askChipReset { cause := .ladder, dump := true } s
  | 5 => haltDevice (assertErr m.source (kindClass m.kind) s)
  | _ => s

/-- DETAIL as recorded: a confidential partition's carries zero in bits 29:0 (after R421). -/
def shownDetail (s : State) (m : FMsg) : Nat :=
  match m.part with
  | some n => if hConf s.ps.active n then m.detail / 2 ^ 30 * 2 ^ 30 else m.detail
  | none => m.detail

/-- The newest record of the source was made since the start, in the same frame, and names the same fault (R423). -/
def coalesces (s : State) (m : FMsg) : Bool :=
  if (tget {} s.fc.src m.source).count = 0 then false
  else match s.fc.bbr.find? fun r => r.source == m.source with
  | none => false
  | some r =>
    r.type == .fault && r.kind == m.kind && r.cls == kindClass m.kind && r.address == m.address &&
      r.early == !s.bnd.ready && (r.early || r.tick == s.tb.tick)

/-- A fault message reaches the collector (R423, R427 to R433, R435). -/
def report (m : FMsg) (s : State) : State :=
  if coalesces s m then
    let again := fun (r : FRec) => { r with repeats := satAdd 16 r.repeats 1 }
    let fc := { s.fc with bbr := modFirst (fun r => r.source == m.source) again s.fc.bbr }
    { s with fc := match fc.bbr.find? fun r => r.source == m.source with
                   | some r => toMirrors r fc
                   | none => fc }
  else
    let cl := kindClass m.kind
    let r := tget {} s.fc.src m.source
    let full := ladderStep r m.kind
    let step :=
      if s.cu.halted || m.quiet then 0
      else if m.injected && cl = .f then min full 1
      else full
    let s := record { type := .fault, injected := m.injected, cls := cl, source := m.source, kind := m.kind, part := m.part,
                      status := m.status, address := m.address, operation := m.op, ladder := step, ctx := m.ctx,
                      detail := shownDetail s m, queue := m.queue } s
    let s := { s with fc := { s.fc with src := tput s.fc.src m.source (srcAfter r cl step s.tb.now) } }
    let s := match m.part with
      | some n => if cl = .u then modHr n (fun h => { h with uFaults := satAdd 64 h.uFaults 1 }) s else s
      | none => s
    react m step s

/-- An EVENT record (R424): no reaction, no pending flag, no fault state. -/
def event (source : Nat) (st : Status) (part : Option Nat) (detail : Nat) (s : State) : State :=
  let r : FRec := { type := .event, cls := .none_, source := source, kind := 0, part := part, status := st, detail := detail }
  let s := record r s
  { s with fc := { s.fc with src := tmod {} s.fc.src source fun r => { r with count := satAdd 16 r.count 1 } } }

/-- The code of a cause (R482). -/
def causeCode : Cause → Nat
  | .command => 0
  | .ladder => 1
  | .mctp => 2
  | .deadAgent => 3
  | .replay => 4

/-- A RESET record (R482). -/
def resetRecord (scope index gen : Nat) (cause : Cause) (skipped abandoned : Bool) (part : Option Nat) (s : State) : State :=
  let detail := scope * 2 ^ 56 + index * 2 ^ 40 + gen * 2 ^ 32 + causeCode cause * 2 ^ 24 + b2n skipped * 2 ^ 23 +
    b2n abandoned * 2 ^ 22
  let s := record { type := .reset, cls := .none_, source := 0xA02, kind := 0, part := part, detail := detail } s
  { s with fc := { s.fc with src := tmod {} s.fc.src 0xA02 fun r => { r with count := satAdd 16 r.count 1 } } }

/-- A counter-only counter goes from `a` to `b`: one CE_RATE record for each multiple of THRESH that it passes (R426). -/
def ceRate (owner offset a b : Nat) (s : State) : State :=
  if s.fc.thresh = 0 then s
  else (List.range (b / s.fc.thresh - a / s.fc.thresh)).foldl (fun s _ =>
    report { source := owner, kind := 0x50, detail := offset } s) s

/-- Corrections in array `x.1` of the cache dies, `x.2` of them (R425, R463). -/
def ceArray (s : State) (x : Nat × Nat) : State :=
  let a := tget 0 s.fc.ceLlc x.1
  let b := satAdd 64 a x.2
  if 12 ≤ x.1 then s
  else ceRate (0xD20 + x.1 / 3) (0x300 + 8 * x.1) a b { s with fc := { s.fc with ceLlc := tput s.fc.ceLlc x.1 b } }

/-- FLIT replays of the host link (R425, R463). -/
def ceHostLink (n : Nat) (s : State) : State :=
  let b := satAdd 64 s.fc.ceHost n
  ceRate 0 0x360 s.fc.ceHost b { s with fc := { s.fc with ceHost := b } }

/-- Link retries of a memory stack interface (R425, R463). -/
def ceStackLink (s : State) (x : Nat × Nat) : State :=
  let a := tget 0 s.fc.ceStack x.1
  let b := satAdd 32 a x.2
  if 20 ≤ x.1 then s
  else ceRate (0xD00 + x.1) (0x380 + 4 * x.1) a b { s with fc := { s.fc with ceStack := tput s.fc.ceStack x.1 b } }

/-- Link retries of a Tile Port, which its hand's report page counts too (R425, R463, R533). -/
def ceTileLink (s : State) (x : Nat × Nat) : State :=
  let a := tget 0 s.fc.ceTile x.1
  let b := satAdd 32 a x.2
  if 64 ≤ x.1 then s
  else
    let s := { s with fc := { s.fc with ceTile := tput s.fc.ceTile x.1 b } }
    let s := match tileOwner s.ps.active x.1 with
      | some n => modHr n (fun h => { h with ceTileLink := satAdd 32 h.ceTileLink x.2 }) s
      | none => s
    ceRate (tileUnit x.1) (0x400 + 4 * x.1) a b s

/-- Correctable errors in a PC, which the report page of the hand that holds it counts too (R425, R463, R533). -/
def ceMem (s : State) (x : Nat × Nat) : State :=
  let a := tget 0 s.fc.ceMem x.1
  let b := satAdd 32 a x.2
  if 1280 ≤ x.1 then s
  else
    let s := { s with fc := { s.fc with ceMem := tput s.fc.ceMem x.1 b } }
    let s := match pcOwner s.ps.active x.1 with
      | some n => modHr n (fun h => { h with ceMem := satAdd 64 h.ceMem x.2 }) s
      | none => s
    ceRate (sliceUnit (sliceOf x.1)) (0x1000 + 4 * x.1) a b s

/-- The counter-only sources at the end of a frame (R425, R426; log 138). -/
def countCorrected (c : Corrected) (s : State) : State :=
  let s := ceHostLink c.host (c.arrays.foldl ceArray s)
  c.pcs.foldl ceMem (c.tiles.foldl ceTileLink (c.stackLinks.foldl ceStackLink s))

/-- A memory location as ADDRESS carries it (R421): the PC in bits 42:32, the PC-local offset in bits 29:0. -/
def memLoc (pc off : Nat) : Nat := pc * 2 ^ 32 + off

/-- The fault of a source and class is acknowledged: the pending flag of that class of that source is clear (R429, R464). -/
def acknowledged (s : State) (u : Nat × FClass) : Bool := !pendOf (tget {} s.fc.src u.1) u.2

/-! ### Injected checks (R434 to R436) -/

/-- Whether the next check of a checker in a unit is inverted by the running injection, which then counts down. -/
def injected (checker unit : Nat) (part : Option Nat) (s : State) : Bool × State :=
  let i := s.fc.inj
  let conf := match part with
    | some n => hConf s.ps.active n
    | none => false
  let match_ := i.runPart.isNone || i.runPart == part
  if i.remaining ≠ 0 && i.runChecker == checker && i.runTarget == unit && match_ && !conf then
    (true, { s with fc := { s.fc with inj := { i with remaining := i.remaining - 1 } } })
  else (false, s)

/-! ### Parity (R434, R439) -/

/-- One parity check of data that reaches unit `u`, `bad` telling that it is damaged: whether it fails, and then whether an
injection has made it fail. -/
def parityCheck (u : Nat) (part : Option Nat) (bad : Bool) (s : State) : Option Bool × State :=
  let (inj, s) := injected 7 u part s
  (if inj then some true else if bad then some false else none, s)

/-- A report of kind PARITY or PARITY_FAIL; the path code in its DETAIL is a free value (R421; log 137). -/
def reportParity (kind : Nat) (m : FMsg) (s : State) : State :=
  let (path, s) := fresh 64 s
  report { m with kind := kind, detail := path } s

/-- A transfer that serves no step is checked for parity at unit `u`, `errs` times damaged in a row: it is repeated once, and a
second error leaves it poisoned, which is answered (R439). -/
def transfer (u : Nat) (part : Option Nat) (errs : Nat) (s : State) : Bool × State :=
  match parityCheck u part (1 ≤ errs) s with
  | (none, s) => (false, s)
  | (some inj, s) =>
    match parityCheck u part (2 ≤ errs) (reportParity 0x0A { source := u, kind := 0, part := part, injected := inj } s) with
    | (none, s) => (false, s)
    | (some inj, s) => (true, reportParity 0x0B { source := u, kind := 0, part := part, injected := inj } s)

end Sys2Proof.Machine
end

