-- ==== Sys2Proof/Machine/Crypto.lean ====
section
/-!
DEFINITION. Region and tree keys, counter inputs, block hashes and tree tags (R280, R283, R285 to R287). The AES-256 and CMAC they
use are opaque (Config.lean).
-/
namespace Sys2Proof.Machine
open Sys2Proof

/-- The bytes of an ASCII text. -/
def ascii (t : String) : List Byte := t.toList.map fun c => BitVec.ofNat 8 c.toNat

/-- NIST SP 800-108 in counter mode with AES-256-CMAC: block `i` is the CMAC of the 32-bit counter and the fixed input
(R280). -/
def kdfCtr (key : BitVec 256) (fixed : List Byte) (bits : Nat) : List Byte :=
  ((List.range (ceilDiv bits 128)).flatMap fun i => beBytes (Config.cmac256 key (beBytes (i + 1) 4 ++ fixed)).toNat 16).take
    (bits / 8)

/-- The fixed input: label, a zero byte, context, output bits (R280). -/
def fixedInput (label : String) (ctx : List Byte) (bits : Nat) : List Byte := ascii label ++ [0] ++ ctx ++ beBytes bits 4

/-- Region key material of (k, p) at generation `g` under the memory root (R280). -/
def regionKey (s : State) (k p g : Nat) : List Byte :=
  kdfCtr s.mi.memRoot (fixedInput "DRVMEM" (beBytes k 1 ++ beBytes p 2 ++ beBytes g 2) 640) 640
/-- The data key (R280). -/
def dataKey (s : State) (k p g : Nat) : BitVec 256 := BitVec.ofNat 256 (beNat ((regionKey s k p g).take 32))
/-- The MAC pad key (R280). -/
def padKey (s : State) (k p g : Nat) : BitVec 256 := BitVec.ofNat 256 (beNat (((regionKey s k p g).drop 32).take 32))
/-- The hash key, 1 in place of zero; its eight output bytes are read big-endian (R280; the model's reading, log 128). -/
def hashKey (s : State) (k p g : Nat) : Nat :=
  let h := beNat (((regionKey s k p g).drop 64).take 8)
  if h = 0 then 1 else h
/-- The tree key of `p` (R280). -/
def treeKey (s : State) (p g : Nat) : BitVec 256 :=
  BitVec.ofNat 256 (beNat (kdfCtr s.mi.memRoot (fixedInput "DRVTREE" (beBytes 0 1 ++ beBytes p 2 ++ beBytes g 2) 256) 256))

/-- The counter input of piece `q` of line `i` (R285). -/
def ctrInput (major minor i q : Nat) : BitVec 128 :=
  BitVec.ofNat 128 (major * 2 ^ 96 + minor % 0x80 * 2 ^ 88 + i * 2 ^ 8 + q)

/-- Product in GF(2^64) with x^64 + x^4 + x^3 + x + 1 (R286), `n` bits of `b` left to take. -/
def gfMul (a b : Nat) : Nat → Nat
  | 0 => 0
  | n + 1 =>
    let a2 := if a < 2 ^ 63 then 2 * a else (2 * a - 2 ^ 64) ^^^ 0x1B
    (if b % 2 = 1 then a else 0) ^^^ gfMul a2 (b / 2) n

/-- The polynomial hash of a block's 32 words by Horner's rule: the sum of w_n * h^(33 - n) (R286). -/
def polyHash (h : Nat) (ws : List Nat) : Nat := ws.foldl (fun acc w => gfMul (acc ^^^ w) h 64) 0

/-- The nonce of block `b` (R286). -/
def tagNonce (b : CounterBlock) (block : Nat) : BitVec 128 :=
  let minors := (List.range 4).map fun j => tget 0 b.minors ((4 * block + j) % 64) * 2 ^ (64 + 8 * j)
  BitVec.ofNat 128 (b.major * 2 ^ 96 + minors.sum + block)

/-- A counter block as stored (R283). -/
def blockBytes (b : CounterBlock) : List Byte :=
  let minors := (List.range 64).map fun j => tget 0 b.minors j * 2 ^ (32 + 7 * j)
  leBytes (b.gen * 2 ^ 496 + b.key1 * 2 ^ 488 + b.key0 * 2 ^ 480 + minors.sum + b.major) 64

/-- Nodes of the levels of a counter tree; level 0 is the counter blocks (R287). -/
def levelNodes (l : Nat) : Nat :=
  if l = 0 then 245760 else if l = 1 then 30720 else if l = 2 then 3840 else if l = 3 then 480
  else if l = 4 then 60 else if l = 5 then 8 else 1

/-- The tag that a tree node keeps of a child: level, index and bytes under the tree key (R287). -/
def treeTag (s : State) (p g l c : Nat) (child : List Byte) : List Byte :=
  (beBytes (Config.cmac256 (treeKey s p g) (beBytes l 1 ++ beBytes c 4 ++ child)).toNat 16).drop 8

/-- Node `j` of level `l` over counter blocks that hold nothing but generation `g`; level 0 is such a block (R287). -/
def blankNode (s : State) (p g : Nat) : Nat → Nat → List Byte
  | 0, _ => blockBytes { gen := g }
  | l + 1, j =>
    (List.range 8).flatMap fun i =>
      let c := 8 * j + i
      if levelNodes l ≤ c then List.replicate 8 0 else treeTag s p g l c (blankNode s p g l c)

end Sys2Proof.Machine
end

