-- ==== Sys2Proof/Machine/Formats.lean ====
section
/-!
DEFINITION. Number formats and the exact accumulator: decoding, terms, merging, rounding, exact lines, compressed columns
and the Atomic Unit's arithmetic (R184 to R187, R193 to R199, R202, R203, R207, R213, R214, R220 to R241).
-/
namespace Sys2Proof.Machine
open Sys2Proof

/-- A decoded value: NaN, an infinity, or (-1)^neg * m * 2^e exactly (R223, R237). -/
inductive Dec where
  | nan
  | inf (neg : Bool)
  | fin (neg : Bool) (m : Nat) (e : Int)
  deriving DecidableEq, Repr

/-- How a floating format marks infinities and NaNs (R223). -/
inductive Special where
  | ieee | e4m3 | plain
  deriving DecidableEq, Repr

/-- A floating format (R223). -/
structure FloatFmt where
  e : Nat
  m : Nat
  bias : Nat
  sp : Special
  deriving DecidableEq, Repr

/-- binary32. -/
def fp32 : FloatFmt := ⟨8, 23, 127, .ieee⟩
/-- bfloat16. -/
def bf16 : FloatFmt := ⟨8, 7, 127, .ieee⟩
/-- binary16. -/
def fp16 : FloatFmt := ⟨5, 10, 15, .ieee⟩
/-- FP8 E4M3. -/
def e4m3 : FloatFmt := ⟨4, 3, 7, .e4m3⟩
/-- FP8 E5M2. -/
def e5m2 : FloatFmt := ⟨5, 2, 15, .ieee⟩
/-- FP6 E3M2. -/
def e3m2 : FloatFmt := ⟨3, 2, 3, .plain⟩
/-- FP6 E2M3. -/
def e2m3 : FloatFmt := ⟨2, 3, 1, .plain⟩
/-- FP4 E2M1. -/
def e2m1 : FloatFmt := ⟨2, 1, 1, .plain⟩

/-- A floating pattern decoded (R223 to R225). -/
def decodeFloat (f : FloatFmt) (x : Nat) : Dec :=
  let m := x % 2 ^ f.m
  let e := x / 2 ^ f.m % 2 ^ f.e
  let s := x / 2 ^ (f.m + f.e) % 2 = 1
  let top := 2 ^ f.e - 1
  if f.sp = .ieee ∧ e = top then (if m = 0 then .inf s else .nan)
  else if f.sp = .e4m3 ∧ e = top ∧ m = 2 ^ f.m - 1 then .nan
  else if e = 0 then .fin s m (1 - f.bias - f.m)
  else .fin s (2 ^ f.m + m) ((e : Int) - f.bias - f.m)

/-- A two's complement integer decoded (R226). -/
def decodeInt (w x : Nat) : Dec :=
  let v := toSigned w x
  .fin (v < 0) v.natAbs 0

/-- An exact product with the special cases of IEEE 754 (R193). -/
def Dec.mul : Dec → Dec → Dec
  | .nan, _ => .nan
  | _, .nan => .nan
  | .inf a, .inf b => .inf (a != b)
  | .inf a, .fin b m _ => if m = 0 then .nan else .inf (a != b)
  | .fin a m _, .inf b => if m = 0 then .nan else .inf (a != b)
  | .fin a m e, .fin b n d => .fin (a != b) (m * n) (e + d)

/-- The signed integer m * 2^k for k at least 0. -/
def scaled (neg : Bool) (m k : Nat) : Int := if neg then -((m * 2 ^ k : Nat) : Int) else ((m * 2 ^ k : Nat) : Int)

/-- The exact sum of two finite values (R233); specials follow IEEE 754. -/
def Dec.add : Dec → Dec → Dec
  | .nan, _ => .nan
  | _, .nan => .nan
  | .inf a, .inf b => if a = b then .inf a else .nan
  | .inf a, _ => .inf a
  | _, .inf b => .inf b
  | .fin a m e, .fin b n d =>
    let lo := min e d
    let v := scaled a m (e - lo).toNat + scaled b n (d - lo).toNat
    if v = 0 then .fin (a && b && m = 0 && n = 0) 0 lo else .fin (v < 0) v.natAbs lo

/-- The negated value. -/
def Dec.neg : Dec → Dec
  | .nan => .nan
  | .inf a => .inf (!a)
  | .fin a m e => .fin (!a) m e

/-! ### The accumulator (R184) -/

/-- An accumulator: its value times 2^160, its flags and its term count; its residues are those of the value. -/
structure Acc where
  value : Int := 0
  posInf : Bool := false
  negInf : Bool := false
  nan : Bool := false
  range : Bool := false
  terms : Nat := 0
  deriving DecidableEq, Repr

/-- The residue modulo `n`, from 0 to n - 1 for negative values too (R188). -/
def residue (n : Nat) (v : Int) : Nat := (v % (n : Int)).toNat

/-- A term as R185 takes it: NaN, an infinity, or a multiple of 2^-160; and whether it sets RANGE. -/
def takeTerm : Dec → Dec × Bool
  | .nan => (.nan, false)
  | .inf a => (.inf a, false)
  | .fin a m e =>
    let k := e + 160
    let v := if 0 ≤ k then m * 2 ^ k.toNat else m / 2 ^ (-k).toNat
    let lost := if 0 ≤ k then false else decide (m % 2 ^ (-k).toNat ≠ 0)
    if 2 ^ 288 ≤ v then (.inf a, true) else (.fin a v (-160), lost)

/-- The value times 2^160 of a term that `takeTerm` has taken. -/
def termValue : Dec → Int
  | .fin a m _ => if a then -(m : Int) else (m : Int)
  | _ => 0

/-- One term added (R185). -/
def Acc.add (a : Acc) (d : Dec) : Acc :=
  let (t, r) := takeTerm d
  let a := { a with terms := a.terms + 1, range := a.range || r }
  match t with
  | .nan => { a with nan := true }
  | .inf true => { a with negInf := true }
  | .inf false => { a with posInf := true }
  | .fin _ _ _ => { a with value := a.value + termValue t }

/-- Two partials of SUM, MEAN or WSUM merged (R195). -/
def Acc.merge (a b : Acc) : Acc where
  value := a.value + b.value
  posInf := a.posInf || b.posInf
  negInf := a.negInf || b.negInf
  nan := a.nan || b.nan
  range := a.range || b.range
  terms := a.terms + b.terms

/-- The order of MAX on selected values (R193): -infinity, finite values, +infinity. -/
def Acc.below (a b : Acc) : Bool :=
  if a.posInf then false
  else if b.posInf then true
  else if b.negInf then false
  else if a.negInf then true
  else decide (a.value < b.value)

/-- Two partials of MAX merged: one without terms is ignored, the larger selected, NAN and RANGE of both kept (R195). -/
def Acc.maxMerge (a b : Acc) : Acc :=
  let pick := if a.terms = 0 then b else if b.terms = 0 then a else if a.below b then b else a
  { pick with nan := a.nan || b.nan, range := a.range || b.range, terms := a.terms + b.terms }

/-- One term of MAX (R193). -/
def Acc.max (a : Acc) (d : Dec) : Acc := a.maxMerge (({} : Acc).add d)

/-- The value lies in the window of R184. -/
def Acc.fits (a : Acc) : Bool := -(2 ^ 319) ≤ a.value && a.value < 2 ^ 319

/-! ### Conversion out (R187, R239, R240) -/

/-- Whether a magnitude is rounded up: quotient `q`, remainder `r` of a division by `d`, rounding mode, sign (R222). -/
def roundUp (mode : Nat) (neg : Bool) (q r d : Nat) : Bool :=
  match mode with
  | 0 => decide (d < 2 * r) || (decide (2 * r = d) && decide (q % 2 = 1))
  | 1 => false
  | 2 => !neg && decide (r ≠ 0)
  | _ => neg && decide (r ≠ 0)

/-- The pattern, without its sign, of n / (c * 2^160) rounded once, the exponent unbounded above (R240). -/
def roundMag (f : FloatFmt) (mode : Nat) (neg : Bool) (n c : Nat) : Nat :=
  let l0 : Int := (Nat.log2 n : Int) - Nat.log2 c
  let small := if 0 ≤ l0 then decide (n < c * 2 ^ l0.toNat) else decide (n * 2 ^ (-l0).toNat < c)
  let e : Int := (if small then l0 - 1 else l0) - 160
  let emin : Int := 1 - (f.bias : Int)
  let e := if e < emin then emin else e
  let k := (e - f.m + 160).toNat
  let d := c * 2 ^ k
  let q := n / d
  let r := n % d
  (e - emin).toNat * 2 ^ f.m + q + b2n (roundUp mode neg q r d)

/-- Sign bit and pattern of a non-zero value v / (c * 2^160) in a floating format; overflow as IEEE 754 prescribes for the
mode, and E4M3 saturates in every mode (R187, R239, R240). -/
def roundFloat (f : FloatFmt) (mode : Nat) (v : Int) (c : Nat) : Nat :=
  let neg : Bool := v < 0
  let x := roundMag f mode neg v.natAbs c
  let sign := b2n neg * 2 ^ (f.e + f.m)
  let inf := (2 ^ f.e - 1) * 2 ^ f.m
  match f.sp with
  | .e4m3 => sign + min x (2 ^ (f.e + f.m) - 2)
  | _ =>
    if inf ≤ x then
      let away := match mode with
        | 0 => true
        | 1 => false
        | 2 => !neg
        | _ => neg
      sign + if away then inf else inf - 1
    else sign + x

/-- v / (c * 2^160) rounded once to an integer and saturated to `w` bits (R187, R239). -/
def roundInt (w mode : Nat) (v : Int) (c : Nat) : Nat :=
  let neg : Bool := v < 0
  let d := c * 2 ^ 160
  let q := v.natAbs / d
  let r := v.natAbs % d
  let m := q + b2n (roundUp mode neg q r d)
  if neg then ofSigned w (-(min m (2 ^ (w - 1)) : Nat)) else min m (2 ^ (w - 1) - 1)

/-- The canonical NaN of a format (R224). -/
def canonNan (f : FloatFmt) : Nat :=
  match f.sp with
  | .ieee => (2 ^ f.e - 1) * 2 ^ f.m + (if f.m = 2 then 2 else 2 ^ (f.m - 1))
  | _ => 2 ^ (f.e + f.m) - 1

/-- A target of conversion. -/
inductive Target where
  | float (f : FloatFmt)
  | int (w : Nat)
  deriving DecidableEq, Repr

/-- An accumulator divided by `c` as one stored or output value (R187, R239). -/
def convert (t : Target) (mode : Nat) (a : Acc) (c : Nat) : Nat :=
  match t with
  | .float f =>
    let top := 2 ^ (f.e + f.m)
    let inf := (2 ^ f.e - 1) * 2 ^ f.m
    if a.nan || (a.posInf && a.negInf) then canonNan f
    else if a.posInf then (if f.sp = .e4m3 then top - 2 else inf)
    else if a.negInf then top + (if f.sp = .e4m3 then top - 2 else inf)
    else if a.value = 0 then 0
    else roundFloat f mode a.value c
  | .int w =>
    if a.nan || (a.posInf && a.negInf) then 0
    else if a.posInf then 2 ^ (w - 1) - 1
    else if a.negInf then 2 ^ (w - 1)
    else if a.value = 0 then 0
    else roundInt w mode a.value c

/-- OUT_FMT (R221) and its element bytes. -/
def outTarget (code : Nat) : Target × Nat :=
  match code with
  | 0 => (.float fp32, 4)
  | 1 => (.float bf16, 2)
  | 2 => (.float fp16, 2)
  | _ => (.int 32, 4)

/-! ### Rows (R227 to R233) -/

/-- Row size of a format code and DIM (R228); PQ8 rows hold DIM code bytes. -/
def rowSize (fmt dim : Nat) : Nat :=
  let b := ceilDiv dim 32
  if fmt = 0x00 ∨ fmt = 0x0B then 4 * dim
  else if fmt = 0x01 ∨ fmt = 0x02 ∨ fmt = 0x0C then 2 * dim
  else if fmt = 0x03 ∨ fmt = 0x04 ∨ fmt = 0x0D ∨ fmt = 0x11 then dim
  else if fmt = 0x05 ∨ fmt = 0x06 then ceilDiv (6 * dim) 8
  else if fmt = 0x07 ∨ fmt = 0x0E then ceilDiv dim 2
  else if fmt = 0x08 then b + dim
  else if fmt = 0x09 then b + ceilDiv (6 * dim) 8
  else if fmt = 0x0A then b + ceilDiv dim 2
  else if fmt = 0x0F then 4 + dim
  else 4 + ceilDiv dim 2

/-- The element string of a row: element `i` of width `w` from byte `off` on (R227); `row` is the row as a number. -/
def packed (row off w i : Nat) : Nat := row / 2 ^ (8 * off + w * i) % 2 ^ w

/-- A microscaled element: the shared scale of its block of 32, then the element (R231, R232). -/
def decodeMx (row dim w i : Nat) (f : FloatFmt) : Dec :=
  let x := packed row 0 8 (i / 32)
  if x = 0xFF then .nan
  else
    match decodeFloat f (packed row (ceilDiv dim 32) w i) with
    | .fin s m e => .fin s m (e + x - 127)
    | d => d

/-- A row-scaled element: scale * q + bias exactly (R233). -/
def decodeRs (row w i : Nat) : Dec :=
  match decodeFloat fp16 (packed row 0 16 0), decodeFloat fp16 (packed row 0 16 1) with
  | .fin s m e, .fin b n d => ((Dec.fin s m e).mul (decodeInt w (packed row 4 w i))).add (.fin b n d)
  | _, _ => .nan

/-- Element `i` of a row of format `fmt` (R220, R223, R226, R232, R233). -/
def decodeElem (fmt dim row i : Nat) : Dec :=
  match fmt with
  | 0x00 => decodeFloat fp32 (packed row 0 32 i)
  | 0x01 => decodeFloat bf16 (packed row 0 16 i)
  | 0x02 => decodeFloat fp16 (packed row 0 16 i)
  | 0x03 => decodeFloat e4m3 (packed row 0 8 i)
  | 0x04 => decodeFloat e5m2 (packed row 0 8 i)
  | 0x05 => decodeFloat e3m2 (packed row 0 6 i)
  | 0x06 => decodeFloat e2m3 (packed row 0 6 i)
  | 0x07 => decodeFloat e2m1 (packed row 0 4 i)
  | 0x08 => decodeMx row dim 8 i e4m3
  | 0x09 => decodeMx row dim 6 i e2m3
  | 0x0A => decodeMx row dim 4 i e2m1
  | 0x0B => decodeInt 32 (packed row 0 32 i)
  | 0x0C => decodeInt 16 (packed row 0 16 i)
  | 0x0D => decodeInt 8 (packed row 0 8 i)
  | 0x0E => decodeInt 4 (packed row 0 4 i)
  | 0x0F => decodeRs row 8 i
  | 0x10 => decodeRs row 4 i
  | _ => .nan

/-- ADD's stored target and element bytes; none where ADD is not allowed (R208). -/
def addTarget (fmt : Nat) : Option (Target × Nat) :=
  match fmt with
  | 0x00 => some (.float fp32, 4)
  | 0x01 => some (.float bf16, 2)
  | 0x02 => some (.float fp16, 2)
  | 0x03 => some (.float e4m3, 1)
  | 0x04 => some (.float e5m2, 1)
  | 0x0B => some (.int 32, 4)
  | 0x0C => some (.int 16, 2)
  | 0x0D => some (.int 8, 1)
  | _ => none

/-! ### Exact lines and compressed columns -/

/-- An accumulator as an exact line (R196). -/
def exactLine (a : Acc) (row : Nat) : Line :=
  let flags := b2n a.posInf + 2 * b2n a.negInf + 4 * b2n a.nan + 8 * b2n a.range
  let res := residue 7 a.value + 16 * residue 15 a.value
  BitVec.ofNat 512 (ofSigned 320 a.value + flags * 2 ^ 320 + res * 2 ^ 328 + a.terms * 2 ^ 352 + row * 2 ^ 384)

/-- The accumulator an exact line holds (R196). -/
def lineAcc (l : Line) : Acc :=
  let n := l.toNat
  { value := toSigned 320 n, posInf := bitAt n 320, negInf := bitAt n 321, nan := bitAt n 322, range := bitAt n 323,
    terms := fld n 352 32 }

/-- The checks of R214: residues match, reserved fields zero, TERMS at most 2^24. -/
def lineOk (l : Line) : Bool :=
  let n := l.toNat
  let a := lineAcc l
  fld n 328 3 == residue 7 a.value && fld n 332 4 == residue 15 a.value && fld n 324 4 == 0 && fld n 331 1 == 0 &&
    fld n 336 16 == 0 && fld n 424 24 == 0 && fld n 448 64 == 0 && a.terms ≤ 2 ^ 24

/-- The 32-bit words of a magnitude, most significant first. -/
def magWords (m : Nat) : List Nat := (List.range 10).reverse.map fun i => fld m (32 * i) 32

/-- The canonical compressed column of an accumulator (R197, R198). -/
def compress (a : Acc) : Column :=
  let ws := magWords a.value.natAbs
  let low := ((List.range 10).find? fun i => fld a.value.natAbs (32 * i) 32 ≠ 0).getD 0
  let ws := (ws.dropWhile (· == 0)).take ((ws.dropWhile (· == 0)).length - low)
  { sign := a.value < 0, nan := a.nan, negInf := a.negInf, posInf := a.posInf, range := a.range, nwords := ws.length,
    lowWord := if ws = [] then 0 else low, res15 := residue 15 a.value, res7 := residue 7 a.value, rsv := false, words := ws }

/-- The value of a compressed column times 2^160 (R197). -/
def columnValue (c : Column) : Int :=
  let m : Nat := c.words.foldl (fun acc w => acc * 2 ^ 32 + w) 0 * 2 ^ (32 * c.lowWord)
  if c.sign then -(m : Int) else (m : Int)

/-- The accumulator of a compressed column; the bag carries the term count (R198). -/
def columnAcc (c : Column) (terms : Nat) : Acc :=
  { value := columnValue c, posInf := c.posInf, negInf := c.negInf, nan := c.nan, range := c.range, terms := terms }

/-- The checks of a received column (R198, R199). -/
def columnOk (c : Column) (terms : Nat) : Bool :=
  let v := columnValue c
  let canon := if v = 0 then c.nwords == 0 && !c.sign && c.lowWord == 0
    else c.words.head? != some 0 && c.words.getLast? != some 0
  !c.rsv && c.words.length == c.nwords && c.nwords + c.lowWord ≤ 10 && c.words.all (fun w => w < 2 ^ 32) && canon &&
    (columnAcc c terms).fits && c.res7 == residue 7 v && c.res15 == residue 15 v && terms ≤ 2 ^ 24

/-! ### The Atomic Unit (R213, R214) -/

/-- What an atomic gives: its status, the line after it, and the old value. -/
structure AtomResult where
  status : Status
  line : Line
  old : Nat
  deriving DecidableEq, Repr

/-- The stored integer result of the operation codes 0x0 to 0x9 (R213). -/
def atomInt (code w old operand compare : Nat) : Nat :=
  match code with
  | 0x0 => (old + operand) % 2 ^ w
  | 0x1 => if toSigned w operand < toSigned w old then operand else old
  | 0x2 => if toSigned w old < toSigned w operand then operand else old
  | 0x3 => min old operand
  | 0x4 => max old operand
  | 0x5 => old &&& operand
  | 0x6 => old ||| operand
  | 0x7 => old ^^^ operand
  | 0x8 => operand
  | _ => if old = compare then operand else old

/-- The binary32 sum, to nearest even (R213). -/
def fadd (x y : Nat) : Nat :=
  match (decodeFloat fp32 x).add (decodeFloat fp32 y) with
  | .nan => canonNan fp32
  | .inf s => b2n s * 2 ^ 31 + 0x7F800000
  | .fin s 0 _ => b2n s * 2 ^ 31
  | .fin s m e => roundFloat fp32 0 (scaled s m (e + 160).toNat) 1

/-- One atomic on a line at a byte offset (R213, R214). -/
def atomUnit (op : AtomOp) (off : Nat) (l : Line) : AtomResult :=
  let wide := op.wide
  let w := if wide then 64 else 32
  let bad (st : Status) : AtomResult := ⟨st, l, 0⟩
  if 0xC < op.code then bad .badOpcode
  else if 0xB ≤ op.code then
    if off ≠ 0 ∨ wide = true then bad .reservedNonzero
    else if op.code = 0xC ∧ op.ret = false then bad .reservedNonzero
    else if lineOk l = false then bad .stateConflict
    else
      let a := lineAcc l
      if op.code = 0xC then ⟨.ok, l, convert (.float fp32) (op.operand.toNat % 4) a 1⟩
      else
        let b := a.add (decodeFloat fp32 (op.operand.toNat % 2 ^ 32))
        if a.terms = 2 ^ 24 ∨ b.fits = false then bad .stateConflict
        else ⟨.ok, exactLine b (fld l.toNat 384 40), (Config.exactOld l).toNat⟩
  else if off % (w / 8) ≠ 0 then bad .reservedNonzero
  else if op.code = 0xA ∧ wide = true then bad .reservedNonzero
  else
    let old := fld l.toNat (8 * off) w
    let operand := op.operand.toNat % 2 ^ w
    let new := if op.code = 0xA then fadd old operand else atomInt op.code w old operand (op.compare.toNat % 2 ^ w)
    ⟨.ok, BitVec.ofNat 512 (setFld l.toNat (8 * off) w new), old⟩

end Sys2Proof.Machine
end

