-- ==== Sys2Proof/Machine/Memory.lean ====
section
/-!
DEFINITION. External memory: plaintext bytes in one canonical form, lines, counter blocks, write-backs, minor overflow,
re-keying, exhaustion, claims and scrubs (R282 to R284, R290 to R306).
-/
namespace Sys2Proof.Machine
open Sys2Proof

/-! ### Bytes -/

/-- The byte at key `k`; an unlisted byte reads zero: cold initialisation and every scrub write zeros (R47, R306), and an
unclaimed granule holds zeros (R294). -/
def memGet (m : List Host.Cell) (k : Nat) : Byte :=
  match m with
  | [] => 0
  | (i, b) :: r => if i = k then b else memGet r k

/-- The byte at `k` set to `v`; keys stay strictly rising and no zero byte is listed. -/
def memPut (m : List Host.Cell) (k : Nat) (v : Byte) : List Host.Cell :=
  match m with
  | [] => if v = 0 then [] else [(k, v)]
  | (i, b) :: r =>
    if i < k then (i, b) :: memPut r k v
    else if i = k then (if v = 0 then r else (k, v) :: r)
    else if v = 0 then (i, b) :: r else (k, v) :: (i, b) :: r

/-- Every listed key is above `lo` and rising, and no listed byte is zero. -/
def memAbove (lo : Option Nat) : List Host.Cell → Bool
  | [] => true
  | (k, v) :: r => (lo.all fun l => l < k) && v != 0 && memAbove (some k) r

/-- The canonical form of external memory. -/
def Memory.wf (m : List Host.Cell) : Bool := memAbove none m

/-- Consecutive bytes from `k` on. -/
def memPutAll (m : List Host.Cell) (k : Nat) : List Byte → List Host.Cell
  | [] => m
  | b :: bs => memPutAll (memPut m k b) (k + 1) bs

/-- `n` consecutive bytes from `k` on. -/
def memBytes (m : List Host.Cell) (k : Nat) : Nat → List Byte
  | 0 => []
  | n + 1 => memGet m k :: memBytes m (k + 1) n

/-- The bytes of a line. -/
def lineBytes (l : Line) : List Byte := leBytes l.toNat 64
/-- A line from bytes. -/
def lineOf (bs : List Byte) : Line := BitVec.ofNat 512 (leNat bs)
/-- `bs` written into a line from byte `off` on. -/
def lineMerge (l : Line) (off : Nat) (bs : List Byte) : Line :=
  let old := lineBytes l
  lineOf ((old.take off ++ bs ++ old.drop (off + bs.length)).take 64)

/-- Key of line `i` of PC `p`: byte keys of the line are 64 times it onward. -/
def lineKey (p i : Nat) : Nat := p * 2 ^ 24 + i
/-- The PC of a line key. -/
def linePc (k : Nat) : Nat := k / 2 ^ 24
/-- The PC-local line number of a line key. -/
def lineNo (k : Nat) : Nat := k % 2 ^ 24
/-- The line at `k` as memory holds it in plaintext. -/
def memLine (m : List Host.Cell) (k : Nat) : Line := lineOf (memBytes m (64 * k) 64)

/-! ### Counter blocks -/

/-- The protection state of a PC. -/
def pcState (s : State) (p : Nat) : PcState := tget {} s.mi.pcs p
/-- A PC's protection state changed. -/
def modPc (p : Nat) (f : PcState → PcState) (s : State) : State :=
  { s with mi := { s.mi with pcs := tmod {} s.mi.pcs p f } }
/-- G(p) (R280). -/
def genOf (s : State) (p : Nat) : Nat := (pcState s p).gen

/-- The counter block of group `g` of PC `p` (R283); one not listed holds the PC's generation, zero counters and no key
ID, as initialisation, scrubs and re-keys leave it. -/
def cblock (s : State) (p g : Nat) : CounterBlock :=
  (tfind s.mi.counters (pkey 18 p g)).getD { gen := genOf s p }
/-! ### The counter tree (R282, R287, R288) -/

/-- Key of node `j` of level `l` of PC `p`. -/
def nodeKey (p l j : Nat) : Nat := pkey 18 (8 * p + l) j

/-- A tree node as its PC's own tree area, or at level 6 retention SRAM, holds it; level 0 is the counter block (R287). -/
def treeNode (s : State) (p l j : Nat) : List Byte :=
  let blank := blankNode s p (genOf s p) l j
  if l = 0 then blockBytes (cblock s p j)
  else if l = 6 then (pcState s p).root.getD blank
  else (tfind s.mi.nodes (nodeKey p l j)).getD blank

/-- The tree root of a PC: the level-6 node, kept in retention SRAM (R287, R311). -/
def treeRoot (s : State) (p : Nat) : List Byte := treeNode s p 6 0

/-- The partner's stack is there to hold the mirror of a PC's tree (R288). -/
def mirrored (s : State) (p : Nat) : Bool := !s.bnd.stackExcluded.getLsbD (stackOf (partner p))

/-- A tree node written: the root to retention SRAM, any other to the PC's own tree area and to the mirror area of its partner
(R287, R288). -/
def putNode (p l j : Nat) (bs : List Byte) (s : State) : State :=
  if l = 6 then modPc p (fun x => { x with root := some bs }) s
  else
    { s with mi := { s.mi with nodes := tput s.mi.nodes (nodeKey p l j) bs,
                               mirrors := if mirrored s p then tput s.mi.mirrors (nodeKey p l j) bs else s.mi.mirrors } }

/-- The path above child `c` of level `l` takes its new bytes, `n` levels up (R287). -/
def putPath (p : Nat) : (n l c : Nat) → (child : List Byte) → State → State
  | 0, _, _, _, s => s
  | n + 1, l, c, child, s =>
    let old := treeNode s p (l + 1) (c / 8)
    let i := 8 * (c % 8)
    let node := old.take i ++ treeTag s p (genOf s p) l c child ++ old.drop (i + 8)
    putPath p n (l + 1) (c / 8) node (putNode p (l + 1) (c / 8) node s)

/-- A counter block set, its tree path after it. -/
def setBlock (p g : Nat) (b : CounterBlock) (s : State) : State :=
  putPath p 6 0 g (blockBytes b) { s with mi := { s.mi with counters := tput s.mi.counters (pkey 18 p g) b } }

/-- The tree of a PC made anew over its counter blocks under its present generation (R302, R306). -/
def rebuildTree (p : Nat) (s : State) : State :=
  let drop := fun (t : Tab (List Byte)) => t.filter fun e => e.1 / 2 ^ 21 ≠ p
  let s := modPc p (fun x => { x with root := none })
    { s with mi := { s.mi with nodes := drop s.mi.nodes, mirrors := drop s.mi.mirrors } }
  (s.mi.counters.filter fun c => c.1 / 2 ^ 18 = p).foldl (fun s c =>
    putPath p 6 0 (c.1 % 2 ^ 18) (blockBytes c.2) s) s

/-- A node's own copy rewritten from the mirror (R296). -/
def repairNode (p l j : Nat) (s : State) : State :=
  match tfind s.mi.mirrors (nodeKey p l j) with
  | some bs => { s with mi := { s.mi with nodes := tput s.mi.nodes (nodeKey p l j) bs } }
  | none => { s with mi := { s.mi with nodes := tdel s.mi.nodes (nodeKey p l j) } }

/-! ### Lines and their granules -/

/-- Group of a PC-local line (R282). -/
def groupOf (line : Nat) : Nat := line / 64
/-- Whether a line's minor marks it poisoned (R284). -/
def linePoisoned (s : State) (k : Nat) : Bool :=
  tget 0 (cblock s (linePc k) (groupOf (lineNo k))).minors (lineNo k % 64) == 0x7F

/-- The key ID recorded for a PC-local byte's granule (R283, R294). -/
def granuleKey (b : CounterBlock) (line : Nat) : Nat := if line / 32 % 2 = 0 then b.key0 else b.key1
/-- The recorded key ID set. -/
def setGranuleKey (b : CounterBlock) (line k : Nat) : CounterBlock :=
  if line / 32 % 2 = 0 then { b with key0 := k } else { b with key1 := k }

/-- The sweeps of a PC, the running one and those that wait (R304). -/
def sweepsOf (x : PcState) : List Sweep := x.sweep.toList ++ x.queued

/-- Group whose metadata is lost and not yet rebuilt, by the running re-key or by one that waits (R297, R304). -/
def groupLost (s : State) (p g : Nat) : Bool := (sweepsOf (pcState s p)).any fun w => w.lost.contains g

/-- Group whose writes wait: it is lost, or it is to be visited at once by a re-key that runs or waits (R297, R302, R304). -/
def groupWaits (s : State) (p g : Nat) : Bool :=
  (sweepsOf (pcState s p)).any fun w => w.lost.contains g || w.first.contains g

/-- The newest posted write of a PC-local line that waits (R291). -/
def parkedAt (s : State) (k : Nat) : Option Parked :=
  (pcState s (linePc k)).parked.reverse.find? fun w => w.line == lineNo k

/-- The plaintext of a line: a free value where the contents are undefined since the hand's PCs changed (R97). -/
def plainLine (s : State) (k : Nat) : Line :=
  match (pcState s (linePc k)).junk with
  | some i => if (pcState s (linePc k)).sure.contains (lineNo k) then memLine s.mi.mem k
      else BitVec.ofNat 512 (Config.freeNat (2 ^ 64 * (i + 1) + k))
  | none => memLine s.mi.mem k

/-- Reads of a line's group give poison whatever it holds: the PC is exhausted, or the group's metadata lost (R297, R305). -/
def readsPoison (s : State) (k : Nat) : Bool :=
  (pcState s (linePc k)).exhausted || groupLost s (linePc k) (groupOf (lineNo k))

/-- What memory gives for a line: its bytes and the poison mark; a posted write that waits serves it, and poisoned data reads
zeros (R284, R291, R297, R300, R305). -/
def readMem (s : State) (k : Nat) : Line × Bool :=
  if readsPoison s k then (0, true)
  else
    match parkedAt s k with
    | some w => if w.poison then (0, true) else (w.data, false)
    | none => if linePoisoned s k then (0, true) else (plainLine s k, false)

/-! ### The metadata cache (R289) -/

/-- An entry is resident in the cache of its PC's slice: it is trusted. -/
def resident (s : State) (e : MetaEntry) : Bool := s.mi.cache.contains e

/-- The entry of a level above group `g`: the counter block at level 0. -/
def pathEntry (p g l : Nat) : MetaEntry :=
  if l = 0 then { pc := p, kind := .block, index := g } else { pc := p, kind := .node l, index := g / 8 ^ l }

/-- The MAC line of a block (R282). -/
def macEntry (p block : Nat) : MetaEntry := { pc := p, kind := .mac, index := block / 8 }

/-- The levels of the path that a check of group `g` fetches: those below the lowest resident node; the root is always there. -/
def checkPath (s : State) (p g : Nat) : List Nat := (List.range 6).takeWhile fun l => !resident s (pathEntry p g l)

/-- A verified entry fills the cache of its slice; of 16,384 entries of 64 bytes a free one gives way (log 129). -/
def fillMeta (s : State) (e : MetaEntry) : State :=
  if resident s e then s
  else
    let mine := s.mi.cache.filter fun x => sliceOf x.pc == sliceOf e.pc
    if mine.length < 16384 then { s with mi := { s.mi with cache := e :: s.mi.cache } }
    else
      let (r, s) := fresh 14 s
      let out := mine.getD (r % mine.length) e
      { s with mi := { s.mi with cache := e :: s.mi.cache.filter fun x => x ≠ out } }

/-- What a check of a block has fetched is verified and resident. -/
def fillPath (p block : Nat) (s : State) : State :=
  let g := groupOf (4 * block)
  ((checkPath s p g).map (pathEntry p g) ++ [macEntry p block]).foldl fillMeta s

/-- The Integrity Unit reads a block for itself, once (R291, R301). -/
def ownRead (p : Nat) (s : State) (block : Nat) : State :=
  if s.mi.reads.any fun r => r.own && r.pc == p && r.block == block then s
  else { s with mi := { s.mi with reads := s.mi.reads ++ [{ pc := p, block := block, poisoned := false, step := none, own := true }] } }

/-- A write-back whose counter block or MAC line is not resident fetches and checks them (R289, R291). -/
def fetchMeta (p block : Nat) (s : State) : State :=
  if resident s (pathEntry p (groupOf (4 * block)) 0) && resident s (macEntry p block) then s else ownRead p s block

/-! ### Exhaustion, re-keys and visits -/

/-- PC `p` becomes exhausted; `rekey` tells a re-key from a scrub (R305). -/
def exhaustPc (p : Nat) (rekey : Bool) (s : State) : State :=
  let st := pcState s p
  let owner := pcOwner s.ps.active p
  let u := sliceUnit (sliceOf p)
  let s := modPc p (fun x => { x with exhausted := true, sweep := none, queued := [], parked := [] }) s
  let s := { s with mi := { s.mi with exhaustedBit := true, exhaustPc := p, exhaustCause := rekey,
                                      exhaustKeys := st.present, exhaustEvents := satAdd 32 s.mi.exhaustEvents 1 } }
  let s := event u .keyidExhausted owner p s
  let s := report { source := u, kind := 0x16, address := p * 2 ^ 32, detail := st.present.toNat % 2 ^ 64, part := owner } s
  report { source := u, kind := 0x16, address := p * 2 ^ 32 + 1, detail := st.present.toNat / 2 ^ 64, part := owner } s

/-- Minors after a re-encryption under fresh counters: poisoned lines keep 0x7F, the others read 0 (R301, R302). -/
def freshMinors (t : Tab Nat) : Tab Nat := t.filter fun p => p.2 == 0x7F

/-- A group is visited or rebuilt: no sweep has it to visit at once any more. -/
def dropFirst (p g : Nat) (s : State) : State :=
  modPc p (fun x => { x with sweep := x.sweep.map fun w => { w with first := w.first.filter (fun i => i ≠ g),
                                                                    lost := w.lost.filter fun i => i ≠ g } }) s

/-- A group whose metadata is lost, rebuilt as poisoned lines under the new generation (R297). -/
def rebuildGroup (p g target : Nat) (s : State) : State :=
  let b := cblock s p g
  let s := setBlock p g { b with gen := target, major := 0, minors := (List.range 64).map fun j => (j, 0x7F) } s
  { s with mi := { s.mi with mem := memPutAll s.mi.mem (p * 2 ^ 30 + g * 4096) (List.replicate 4096 0) } }

/-- A group re-encrypted under a re-key's generation (R302 step 4). -/
def rekeyGroup (p g target : Nat) (s : State) : State :=
  let b := cblock s p g
  if b.gen = target then s
  else setBlock p g { b with gen := target, major := 0, minors := freshMinors b.minors } s

/-- Groups without those of another list. -/
def without (l drop : List Nat) : List Nat := l.filter fun g => !drop.contains g

/-- A re-key of PC `p` is needed: it starts, with group `g` visited at once and `lost` groups to rebuild first, or it
queues behind the running sweep (R302, R304); past generation 0xFFFF the PC becomes exhausted (R305). A scrub, which leaves
nothing to re-key, takes its place. -/
def startRekey (p : Nat) (first lost : List Nat) (s : State) : State :=
  let st := pcState s p
  if st.exhausted then s
  else
    match st.sweep with
    | some w =>
      if w.kind = .scrub ∨ w.kind = .cold then s
      else if st.queued.any fun q => q.kind = .rekey then
        modPc p (fun x => { x with queued := modFirst (fun q => q.kind = .rekey) (fun q =>
          { q with first := q.first ++ without first q.first, lost := q.lost ++ without lost q.lost }) x.queued }) s
      else modPc p (fun x => { x with queued := x.queued ++ [{ kind := .rekey, first := first, lost := lost }] }) s
    | none =>
      if st.gen + 1 > 0xFFFF then exhaustPc p true s
      else modPc p (fun x => { x with sweep := some { kind := .rekey, target := st.gen + 1, first := first, lost := lost } }) s

/-! ### Writing a line -/

/-- The plaintext of a line set. -/
def putLine (k : Nat) (d : Line) (s : State) : State :=
  let s := match (pcState s (linePc k)).junk with
    | some _ => modPc (linePc k) (fun x => { x with sure := lineNo k :: x.sure.filter fun i => i ≠ lineNo k }) s
    | none => s
  { s with mi := { s.mi with mem := memPutAll s.mi.mem (64 * k) (lineBytes d) } }

/-- The minor counter of a line set; 0 is not listed. -/
def setMinor (b : CounterBlock) (j v : Nat) : CounterBlock :=
  { b with minors := if v = 0 then tdel b.minors j else tput b.minors j v }

/-- A posted write waits in the write buffer (R291). -/
def park (k : Nat) (d : Line) (poison : Bool) (s : State) : State :=
  modPc (linePc k) (fun x => { x with parked := x.parked ++ [{ line := lineNo k, data := d, poison := poison }] }) s

/-- A write-back finds an overflow: its line's minor is 0x7E, or 0x7F with unpoisoned data (R301). -/
def overflows (m : Nat) (poison : Bool) : Bool := m == 0x7E || (m == 0x7F && !poison)

/-- The counters of line `k` advance and its data is stored (R284, R291, R300, R301): the minor rises, a poisoned line takes 0x7F,
an overflow raises MAJOR and restarts the group's minors. -/
def storeMem (k : Nat) (d : Line) (poison : Bool) (s : State) : State :=
  let p := linePc k
  let g := groupOf (lineNo k)
  let j := lineNo k % 64
  let b := cblock s p g
  let m := tget 0 b.minors j
  let up := overflows m poison
  let b := if up then { b with major := b.major + 1, minors := freshMinors b.minors } else b
  let s := setBlock p g (setMinor b j (if poison then 0x7F else if up then 0 else m + 1)) s
  let s := if poison then { s with mi := { s.mi with poisonWrites := satAdd 64 s.mi.poisonWrites 1 } } else s
  putLine k (if poison then 0 else d) s

/-- An overflow counts, and the Integrity Unit reads the group to re-encrypt it (R301). -/
def countOverflow (p g : Nat) (s : State) : State :=
  ((List.range 16).map fun i => 16 * g + i).foldl (ownRead p)
    { s with mi := { s.mi with minorOverflows := satAdd 64 s.mi.minorOverflows 1 } }

/-- A write-back of line `k` (R291, R297, R300 to R305): dropped on an exhausted PC; it waits while its group is to be visited or
rebuilt, and where its overflow finds the largest MAJOR, which re-keys the PC; else it is stored. -/
def writeMem (k : Nat) (d : Line) (poison : Bool) (s : State) : State :=
  let p := linePc k
  let g := groupOf (lineNo k)
  let b := cblock s p g
  if (pcState s p).exhausted then s
  else if groupWaits s p g then park k d poison s
  else
    let s := fetchMeta p (lineNo k / 4) s
    if !overflows (tget 0 b.minors (lineNo k % 64)) poison then storeMem k d poison s
    else
      let s := countOverflow p g s
      if b.major < 0xFFFFFFFF then storeMem k d poison s
      else
        let s := startRekey p [g] [] s
        if (pcState s p).exhausted then s else park k d poison s

/-- The posted writes of a group that waited go on (R302, R304). -/
def unpark (p g : Nat) (s : State) : State :=
  let mine := (pcState s p).parked.filter fun w => groupOf w.line == g
  let s := modPc p (fun x => { x with parked := x.parked.filter fun w => groupOf w.line ≠ g }) s
  mine.foldl (fun s w => writeMem (lineKey p w.line) w.data w.poison s) s

/-- A visit of group `g` by the re-key `w` (R297, R302), then its writes go on. A group that the re-key has to rebuild is rebuilt; one
that a later re-key has to rebuild is left to it. -/
def visitRekey (p g : Nat) (w : Sweep) (s : State) : State :=
  let s := if w.lost.contains g then rebuildGroup p g w.target s
    else if groupLost s p g then s
    else rekeyGroup p g w.target s
  unpark p g (dropFirst p g s)

/-- What waits in the write buffer is in memory before self-refresh (R292): a write of a group that the running re-key has yet to
visit is stored by that visit, one that waits for a re-key not yet begun leaves its line poisoned (log 130). -/
def flushParked (p : Nat) (s : State) : State :=
  (pcState s p).parked.foldl (fun s w =>
    let g := groupOf w.line
    let s := match (pcState s p).sweep with
      | some x => if x.kind = .rekey then visitRekey p g x s else s
      | none => s
    if (pcState s p).parked.contains w then
      let b := cblock s p g
      putLine (lineKey p w.line) 0 (setBlock p g (setMinor b (w.line % 64) 0x7F)
        (modPc p (fun x => { x with parked := x.parked.filter fun y => y ≠ w }) s))
    else s) s

/-! ### Claims (R294, R295) -/

/-- What the key-ID check of an access gives. -/
inductive KeyCheck where
  | match_ | claim | refuse
  deriving DecidableEq, Repr

/-- An access under key ID `k` to line `line` of PC `p`. -/
def keyCheck (s : State) (p line k : Nat) : KeyCheck :=
  let r := granuleKey (cblock s p (groupOf line)) line
  if r = k then .match_ else if r = 0 then .claim else .refuse

/-- The first access to an unclaimed granule records the key ID and rewrites its 32 lines as zeros (R294). -/
def claim (p line k : Nat) (s : State) : State :=
  let g := groupOf line
  let first := line / 32 * 32
  let s := (List.range 32).foldl (fun s i => writeMem (lineKey p (first + i)) 0 false s) s
  let s := setBlock p g (setGranuleKey (cblock s p g) line k) s
  let s := modPc p (fun x => { x with present := setBit x.present k true }) s
  { s with mi := { s.mi with claims := satAdd 64 s.mi.claims 1 } }

/-- The key-ID check of a memory access, with its effects: none when refused (counted), the claim when unclaimed; an exhausted PC,
whose writes are dropped, records no claim (R305). -/
def access (p line k : Nat) (s : State) : Bool × State :=
  match keyCheck s p line k with
  | .match_ => (true, s)
  | .claim => (true, if (pcState s p).exhausted then s else claim p line k s)
  | .refuse => (false, { s with mi := { s.mi with keyMismatch := satAdd 64 s.mi.keyMismatch 1 } })

/-! ### Scrubs (R306) -/

/-- A PC that leaves a hand starts its scrub: it ends a running re-key and takes the generation after that re-key's target,
else G(p) + 1 (R304, R305, R306). Retirement passes of the PC wait behind it, and have nothing left to do at its end (log 131). -/
def startScrub (p : Nat) (s : State) : State :=
  let st := pcState s p
  if st.exhausted then s
  else
    let target := match st.sweep with
      | some w => if w.kind = .rekey then w.target + 1 else st.gen + 1
      | none => st.gen + 1
    let passes := (sweepsOf st).filter fun w => w.kind ≠ .rekey
    if target > 0xFFFF then exhaustPc p false s
    else modPc p (fun x => { x with sweep := some { kind := .scrub, target := target }, queued := passes, parked := [] }) s

/-- The end of a scrub or of cold initialisation: every data line zero under key ID 0 with zero counters (R47, R306). -/
def clearPc (p gen : Nat) (s : State) : State :=
  let s := modPc p (fun x => { x with gen := gen, present := 0, sweep := none, queued := [], parked := [], junk := none, sure := [] }) s
  rebuildTree p { s with mi := { s.mi with mem := s.mi.mem.filter (fun c => c.1 / 2 ^ 30 ≠ p),
                                           counters := s.mi.counters.filter (fun c => c.1 / 2 ^ 18 ≠ p),
                                           cache := s.mi.cache.filter fun e => e.pc ≠ p } }

/-- The last visit of a re-key: G(p) takes the target; blocks that hold nothing but the new generation need no listing,
and the tree is made anew under the new tree key (R280, R302 step 7; log 132). -/
def endRekey (p target : Nat) (s : State) : State :=
  let s := modPc p (fun x => { x with gen := target, sweep := none }) s
  rebuildTree p
    { s with mi := { s.mi with rekeys := satAdd 32 s.mi.rekeys 1,
                               counters := s.mi.counters.filter fun c => ¬(c.1 / 2 ^ 18 = p ∧ c.2 = { gen := target }) } }

/-- The next queued re-key starts when a sweep has ended (R304). -/
def nextSweep (p : Nat) (s : State) : State :=
  match (pcState s p).queued with
  | [] => s
  | w :: r =>
    let s := modPc p (fun x => { x with queued := r }) s
    if w.kind = .rekey then startRekey p w.first w.lost s
    else modPc p (fun x => { x with sweep := some w }) s

end Sys2Proof.Machine
end

