-- ==== Sys2Proof/Machine/Coherence.lean ====
section
/-!
DEFINITION. The home of a line: its stable and transient states, the queue of waiting items, snoops, non-caching accesses,
atomics, stashes and directory recovery (R242 to R268; table R259 and its finishing table).
-/
namespace Sys2Proof.Machine
open Sys2Proof

/-! ### Addresses of lines (R317 to R319) -/

/-- KEYID of a DPA (R317). -/
def dpaKey (d : Nat) : Nat := fld d 48 7
/-- Bits 40:0 of a DPA: window and offset (R317). -/
def dpaLow (d : Nat) : Nat := fld d 0 41
/-- A DPA from its low bits and key ID. -/
def dpaOf (low key : Nat) : Nat := key * 2 ^ 48 + low

/-- The PC and PC-local byte of window byte `low` in hand `n` (R319). -/
def route (img : Image) (n low : Nat) : Nat × Nat :=
  let pcs := pcList img n
  let cnt := pcs.length
  let w := low / 2 ^ 30
  let l := pcs.idxOf w * 0x3C000000 + low % 2 ^ 30
  let q := l / 2048
  (pcs.getD (q % cnt) 0, q / cnt * 2048 + l % 2048)

/-- The three conditions under which an access of hand `n` reaches memory (R318). -/
def reaches (img : Image) (n low key : Nat) : Bool :=
  (hPcs img n).getLsbD (low / 2 ^ 30) && low % 2 ^ 30 < 0x3C000000 && key != 0 && (hKeys img n).getLsbD key

/-- The line key of a DPA for hand `n`, if the access reaches memory. -/
def homeLine (s : State) (n dpa : Nat) : Option Nat :=
  if reaches s.ps.active n (dpaLow dpa) (dpaKey dpa) then
    let (pc, loc) := route s.ps.active n (dpaLow dpa)
    some (lineKey pc (loc / 64))
  else none

/-- The DPA of a DVA under held translations (R323, R325). -/
def xlatDpa (xs : List Xlat) (dva : Nat) : Option Nat :=
  (xs.find? fun x => x.dva ≤ dva && dva < x.dva + x.size).map fun x => dpaOf (x.frame + (dva - x.dva)) x.keyId

/-- Bytes split at line edges: address and bytes of each part; `fuel` bounds the parts. -/
def splitLines (dva : Nat) (bs : List Byte) : Nat → List (Nat × List Byte)
  | 0 => []
  | fuel + 1 =>
    if bs = [] then []
    else
      let room := 64 - dva % 64
      (dva, bs.take room) :: splitLines (dva + room) (bs.drop room) fuel

/-- The parts of a range, line by line: address and length. -/
def lineParts (dva len : Nat) : List (Nat × Nat) :=
  (splitLines dva (List.replicate len 0) (len / 64 + 2)).map fun p => (p.1, p.2.length)

/-! ### Lines -/

/-- The directory entry and LLC copy of a line; an absent one is I. -/
def llc (s : State) (k : Nat) : LlcLine := tget {} s.coh.lines k

/-- A line kept in the table whatever its state. -/
def putLlc (k : Nat) (l : LlcLine) (s : State) : State := { s with coh := { s.coh with lines := tput s.coh.lines k l } }

/-- A line set; an I line with nothing pending leaves the table. -/
def setLlc (k : Nat) (l : LlcLine) (s : State) : State :=
  let gone := l.hstate = .i && l.trans.isNone && l.wait.isEmpty
  { s with coh := { s.coh with lines := if gone then tdel s.coh.lines k else tput s.coh.lines k l } }

/-- The owner of a line in O (R246). -/
def ownerOf (l : LlcLine) : Nat := (bitList l.presence).headD 0

/-- HSTATE (R246). -/
def hstateCode (l : LlcLine) : Nat :=
  match l.hstate with
  | .i => 0
  | .l => 1 + b2n l.dirty
  | .s => 3 + b2n l.dirty
  | .o => 5 + b2n l.dirty

/-- Bits 79:0 of a directory entry (R245): PRESENCE, HSTATE, PTAG. -/
def dirWord (l : LlcLine) : BitVec 80 :=
  BitVec.ofNat 80 (l.presence.toNat + hstateCode l * 2 ^ 64 + l.ptag % 32 * 2 ^ 67)

/-- The 88-bit directory entry with its check bits (R245). -/
def dirEntry (l : LlcLine) : BitVec 88 := BitVec.ofNat 88 ((dirWord l).toNat + (Config.secded (dirWord l)).toNat * 2 ^ 80)

/-- Bytes written into a line's copy (R247, R268): the mark clears only when all 64 bytes are written unpoisoned. -/
def mergeWrite (d : Line) (p : Bool) (off : Nat) (bs : List Byte) (poison : Bool) : Line × Bool :=
  (lineMerge d off bs, poison || (p && bs.length != 64))

/-- The non-caching writes that wait at a line, in the order they will be served. -/
def pendingWrites (l : LlcLine) : List HomeItem :=
  ((l.trans.map fun t => t.item).toList ++ l.wait).filter fun i => i.kind == .ncWrite || (i.kind == .atom && i.isStep)

/-- A pending write or committed atomic applied to a line's value. -/
def applyPending (v : Line × Bool) (i : HomeItem) : Line × Bool :=
  match i.op with
  | some op => ((atomUnit op i.off v.1).line, v.2)
  | none => mergeWrite v.1 v.2 i.off i.data i.poison

/-- The committed value of a line: the LLC copy when resident, memory otherwise (R263), with the applied commits and
other non-caching writes that still wait at the home (R71). -/
def lineView (s : State) (k : Nat) : Line × Bool :=
  let l := llc s k
  let base := if l.hstate = .i then readMem s k else (l.data, l.poison)
  (pendingWrites l).foldl applyPending base

/-- What a reader that neither snoops nor waits finds (R263): the LLC copy when resident, and memory otherwise. -/
def rawView (s : State) (k : Nat) : Line × Bool :=
  let l := llc s k
  if l.hstate = .i then readMem s k else (l.data, l.poison)

/-! ### Messages -/

/-- The block of a line has been read for a requester and is not yet verified (R299). -/
def unverified (s : State) (k : Nat) : Bool :=
  s.mi.reads.any fun r => !r.own && r.pc == linePc k && r.block == lineNo k / 4

/-- A step that runs on tile `t` and holds a translation that covers a DPA. -/
def tileStepOn (t dpa : Nat) (x : Step) : Bool :=
  x.phase == .running && x.units.contains (tileUnit t) &&
    x.xlats.any fun y => y.keyId == dpaKey dpa && y.frame ≤ dpaLow dpa && dpaLow dpa < y.frame + y.size

/-- A step has read a line: it may be poisoned, or not yet verified (R65, R67). -/
def stepSaw (s : State) (k : Nat) (x : Step) : Step :=
  let l := llc s k
  let block := (linePc k, lineNo k / 4)
  { x with unverified := if unverified s k && !x.unverified.contains block then x.unverified ++ [block] else x.unverified,
           poisoned := x.poisoned || l.poison, poisonDpa := if l.poison && !x.poisoned then l.dpa else x.poisonDpa }

/-- The steps of a tile that receives a line have read it. -/
def noteRead (t k : Nat) (s : State) : State :=
  { s with steps := s.steps.map fun x => if tileStepOn t (llc s k).dpa x then stepSaw s k x else x }

/-- OPCODE of a home's message (R250). -/
def homeCode : HomeMsg → Nat
  | .snpShr => 0x41
  | .snpInv => 0x42
  | .stashData => 0x43
  | .dataS => 0x61
  | .dataE => 0x62
  | .grantE => 0x63
  | .wbAck => 0x64
  | .atomResp _ => 0x65
  | .rspErr _ => 0x66

/-- AUX of a home's message: the status of RspErr and AtomResp (R249). -/
def homeAux : HomeMsg → Nat
  | .atomResp st => statusCode st
  | .rspErr st => statusCode st
  | _ => 0

/-- The messages of a home that carry data (R250). -/
def carries : HomeMsg → Bool
  | .stashData => true
  | .dataS => true
  | .dataE => true
  | .atomResp _ => true
  | _ => false

/-- The header of a home's message to tile `t` (R249). -/
def homeHead (m : HomeMsg) (gen t tag addr : Nat) (poison : Bool) : BitVec 128 :=
  BitVec.ofNat 128 (homeCode m * 2 ^ 120 + gen % 2 ^ 8 * 2 ^ 112 + t % 2 ^ 6 * 2 ^ 106 + tag % 2 ^ 12 * 2 ^ 92 +
    b2n (poison && carries m) * 2 ^ 80 + homeAux m * 2 ^ 64 + addr % 2 ^ 64)

/-- A coherence message to a tile, under its present generation (R249). -/
def sendTile (t : Nat) (m : HomeMsg) (tag addr : Nat) (data : Line) (poison : Bool) (s : State) : State :=
  emit (.tile t (homeHead m (domainGen s t) t tag addr poison) (if carries m then some data else none)) s

/-- A message to a tile about a line (R249). -/
def toTile (t : Nat) (m : HomeMsg) (tag k : Nat) (s : State) : State :=
  let l := llc s k
  sendTile t m tag l.dpa l.data l.poison (if m = .dataS ∨ m = .dataE then noteRead t k s else s)

/-- RspErr with a status (R242, R250). -/
def rspErr (t tag dpa : Nat) (st : Status) (s : State) : State := sendTile t (.rspErr st) tag (dpa / 64 * 64) 0 false s

/-! ### Snoops and stash offers (R249, R252, R277) -/

/-- The message that a transaction sends to the tiles it awaits. -/
def snoopMsg : TransKind → HomeMsg
  | .ss => .snpShr
  | .st => .stashData
  | _ => .snpInv

/-- Snoops and offers outstanding from a slice to a tile (R252). -/
def outstanding (s : State) (sl t : Nat) : Nat :=
  (s.coh.lines.filter fun p => sliceOf (linePc p.1) == sl && p.2.trans.any fun x => x.await.contains t).length

/-- The transaction of line `k` sends its message to tile `t`, counted. -/
def sendSnoop (k : Nat) (s : State) (t : Nat) : State :=
  let l := llc s k
  match l.trans with
  | none => s
  | some x =>
    let s := setLlc k { l with trans := some { x with unsent := x.unsent.filter fun y => y ≠ t, await := x.await ++ [t] } } s
    let s := if x.kind = .st then { s with coh := { s.coh with stashOffers := satAdd 64 s.coh.stashOffers 1 } }
      else { s with coh := { s.coh with snoops := satAdd 64 s.coh.snoops 1 } }
    toTile t (snoopMsg x.kind) x.tag k s

/-- It sends it if fewer than 8 are outstanding to the tile (R252). -/
def trySnoop (k : Nat) (s : State) (t : Nat) : State :=
  if outstanding s (sliceOf (linePc k)) t < 8 then sendSnoop k s t else s

/-- An answer of tile `t` to a slice makes room for the next snoop that waits (R252). -/
def nextSnoop (sl t : Nat) (s : State) : State :=
  match s.coh.lines.find? fun p => sliceOf (linePc p.1) == sl && p.2.trans.any fun x => x.unsent.contains t with
  | none => s
  | some p => trySnoop p.1 s t

/-- A transaction of line `k` snoops live tiles, under the next TAG. -/
def snoopAll (k : Nat) (kind : TransKind) (i : HomeItem) (ts : List Nat) (s : State) : State :=
  let tag := s.coh.snpTag
  let s := setLlc k { llc s k with trans := some { kind := kind, item := i, unsent := ts, tag := tag } }
    { s with coh := { s.coh with snpTag := (tag + 1) % 2 ^ 12 } }
  ts.foldl (trySnoop k) s

/-- An impossible message, dropped, counted and reported with bits 127:64 of its header (R260, R421). -/
def impossible (t : Nat) (head : BitVec 128) (s : State) : State :=
  let s := { s with coh := { s.coh with protocolErrs := satAdd 32 s.coh.protocolErrs 1 } }
  report { source := tileUnit t, kind := 0x21, address := head.toNat % 2 ^ 64, part := tileOwner s.ps.active t,
           detail := head.toNat / 2 ^ 64 } s

/-! ### Order at the home (R71, R75, R258, R273) -/

/-- The lines on which a step's commit log has entries (R70). -/
def logLines (s : State) (t : Step) : List Nat :=
  let range := fun (dva len : Nat) => (lineParts dva len).filterMap fun p => (xlatDpa t.xlats p.1).bind (homeLine s t.part)
  t.log.flatMap fun e => match e with
    | .write dva bs => range dva bs.length
    | .ckptRecord dva => range dva 256
    | .atomic k _ _ _ => [k]
    | _ => []

/-- A commit in progress has an entry on line `k` that is not applied (R71). -/
def commitPending (s : State) (k : Nat) : Bool :=
  s.cu.open_.any fun o => s.steps.any fun t => t.phase == .finished && (t.frame, t.slot) == o && (logLines s t).contains k

/-- A step holds a commit-log entry on line `k` (R258). -/
def logPending (s : State) (k : Nat) : Bool :=
  s.steps.any fun t => (t.phase == .running || t.phase == .finished) && (logLines s t).contains k

/-- The atomics that a step has issued on a line, oldest first (R75). -/
def stepAtoms (t : Step) (k : Nat) : List (Nat × AtomOp) :=
  t.log.filterMap fun e => match e with
    | .atomic i off _ op => if i = k then some (off, op) else none
    | _ => none

/-- A returning atomic waits while another step holds an uncommitted returning atomic on the line (R75). -/
def atomBlocked (s : State) (k : Nat) (i : HomeItem) : Bool :=
  match i.kind, i.op with
  | .atom, some op =>
    op.ret && s.steps.any fun t => some t.id != i.step && t.phase != .killed &&
      (stepAtoms t k).any fun a => a.2.ret
  | _, _ => false

/-- A non-caching access to a line of a partition whose recall walk runs waits until the walk ends (R273). -/
def walkBlocked (s : State) (k : Nat) (i : HomeItem) : Bool :=
  (pcOwner s.ps.active (linePc k)).any (fun n => s.coh.walk.getLsbD n) &&
    (i.kind == .ncRead || i.kind == .ncWrite || (i.kind == .atom && i.host.isSome))

/-- An item that may not be served yet, although its line is in a stable state. -/
def blocked (s : State) (k : Nat) (i : HomeItem) : Bool :=
  atomBlocked s k i || (i.late && commitPending s k) || walkBlocked s k i

/-- The first element that satisfies `p`, and the list without it. -/
def takeFirst {α : Type} (p : α → Bool) : List α → Option (α × List α)
  | [] => none
  | a :: r => if p a then some (a, r) else (takeFirst p r).map fun x => (x.1, a :: x.2)

/-- Transactions of a slice in a transient state, each of which holds one of its trackers (R258). -/
def trackers (s : State) (sl : Nat) : Nat :=
  (s.coh.lines.filter fun p => sliceOf (linePc p.1) == sl && p.2.trans.isSome).length

/-! ### Atomics (R75, R261) -/

/-- The answer to an atomic: to the tile that sent it, or to the host (R249, R215). -/
def atomAnswer (i : HomeItem) (st : Status) (old : Nat) (poison : Bool) (s : State) : State :=
  let old := match i.op with
    | some op => if op.ret then old else 0
    | none => 0
  match i.host with
  | some _ => emit (.atomicResult st (BitVec.ofNat 64 old) poison false) s
  | none => sendTile i.tile (.atomResp st) i.tag i.dpa (BitVec.ofNat 512 old) poison s

/-- An atomic that succeeds writes its line: not an EXACT_READ, and not a CAS whose compare fails (R213, R247). -/
def atomWrites (op : AtomOp) (old : Nat) : Bool :=
  if op.code = 0xC then false
  else if op.code = 0x9 then old == op.compare.toNat % 2 ^ (if op.wide then 64 else 32)
  else true

/-- The Atomic Unit performs an item on value `d` of line `k`, `home` telling the LLC copy from memory. A step's atomic
enters its commit log; any other takes effect at once (R70, R75, R261). -/
def performAtom (k : Nat) (i : HomeItem) (home : Bool) (d : Line) (poison : Bool) (s : State) : State :=
  match i.op with
  | none => s
  | some op =>
    let s := if i.isStep then s
      else if home then { s with coh := { s.coh with atomsHome := satAdd 64 s.coh.atomsHome 1 } }
      else { s with coh := { s.coh with atomsMemory := satAdd 64 s.coh.atomsMemory 1 } }
    let earlier := match i.step.bind (findStep s) with
      | some t => stepAtoms t k
      | none => []
    let seen := earlier.foldl (fun v a => (atomUnit a.2 a.1 v).line) d
    let r := atomUnit op i.off seen
    let saw := fun (t : Step) =>
      let t := stepSaw s k t
      { t with poisoned := t.poisoned || poison, poisonDpa := if poison && !t.poisoned then i.dpa else t.poisonDpa }
    let s := match i.step with
      | some id => modStep id saw s
      | none => s
    let s := if i.isStep then s else atomAnswer i r.status r.old poison s
    if r.status ≠ .ok then
      if i.isStep then s else { s with lre := { s.lre with atomErrors := satAdd 64 s.lre.atomErrors 1 } }
    else
      match i.step with
      | some id =>
        let n := s.coh.atomSeq
        let s := { s with coh := { s.coh with atomSeq := n + 1 } }
        modStep id (fun t => { t with log := t.log ++ [.atomic k i.off n op] }) s
      | none =>
        if home then setLlc k { llc s k with data := r.line, dirty := (llc s k).dirty || atomWrites op r.old } s
        else if atomWrites op r.old then writeMem k r.line poison s
        else s

/-! ### Serving an item (R259) -/

/-- Two lines have the same set (R258). -/
def sameSet (a b : Nat) : Bool := sliceOf (linePc a) == sliceOf (linePc b) && Config.llcSet a == Config.llcSet b

/-- The line that lies in a way of the set of line `k`, if another one does. -/
def inWay (s : State) (k way : Nat) : Option Nat :=
  (s.coh.lines.find? fun p =>
    p.1 ≠ k && p.2.way == way && (p.2.hstate ≠ .i || p.2.trans.isSome) && sameSet p.1 k).map fun p => p.1

/-- The place of a replacement mark in the order of victims (R346). -/
def markRank : Mark → Nat
  | .evictFirst => 0
  | .normal => 1
  | .retain => 2

/-- A line that may give up its way to line `k` of hand `n`: of the same set, in a way that the hand claims, in no transient state
and with no pending commit-log entry (R258). -/
def mayLeave (s : State) (n k v : Nat) : Bool :=
  let l := llc s v
  v ≠ k && l.hstate ≠ .i && l.trans.isNone && l.wait.isEmpty && !logPending s v &&
    (waysIn s.ps.active n (sliceOf (linePc k))).contains l.way && sameSet v k

/-- It may give it up without a write-back: it is clean in L (R290, R346). -/
def leavesClean (s : State) (n k v : Nat) : Bool := (llc s v).hstate == .l && !(llc s v).dirty && mayLeave s n k v

/-- A victim among those that `may` leave: none of them comes before it by its mark (R258, R346). -/
def isVictim (s : State) (may : Nat → Bool) (v : Nat) : Bool :=
  may v && !s.coh.lines.any fun p => markRank p.2.mark < markRank (llc s v).mark && may p.1

/-- Such a victim. -/
def findVictim (s : State) (may : Nat → Bool) : Option Nat := (s.coh.lines.find? fun p => isVictim s may p.1).map fun p => p.1

/-- A free way of the set of line `k`. -/
def freeWay (s : State) (n k : Nat) : Option Nat :=
  (waysIn s.ps.active n (sliceOf (linePc k))).find? fun w => (inWay s k w).isNone

/-- The way in which a home places a line that no command places: a free one, or a victim's; which of them is the
implementation's choice (R258; log 20). -/
def pickWay (s : State) (n k : Nat) : Nat :=
  match freeWay s n k with
  | some w => w
  | none =>
    match findVictim s (mayLeave s n k) with
    | some v => (llc s v).way
    | none => (waysIn s.ps.active n (sliceOf (linePc k))).headD 0

/-- A way that an access names is one that the hand claims, free or with a victim in it. -/
def wayOk (s : State) (n k : Nat) (may : Nat → Bool) (way : Nat) : Bool :=
  (waysIn s.ps.active n (sliceOf (linePc k))).contains way && (inWay s k way).all (isVictim s may)

/-- The way of a fill that takes no write-back: the one named, a free one, or a clean victim's (R290, R346). -/
def fillWay (s : State) (n k way : Nat) : Option Nat :=
  let may := leavesClean s n k
  if wayOk s n k may way then some way
  else
    match freeWay s n k with
    | some w => some w
    | none => (findVictim s may).map fun v => (llc s v).way

/-- A line of hand `n` is retained, unless its set holds retained lines of the partition in half the ways that it claims there
(R346). -/
def retainLine (n k : Nat) (s : State) : State :=
  let l := llc s k
  let held := (s.coh.lines.filter fun p => p.1 ≠ k && p.2.mark == .retain && p.2.ptag == n && sameSet p.1 k).length
  if l.mark = .retain || held < (waysIn s.ps.active n (sliceOf (linePc k))).length / 2 then setLlc k { l with mark := .retain } s
  else { s with tu := { s.tu with retainIgnored := satAdd 64 s.tu.retainIgnored 1 } }

/-- The line's entry for a new allocation. -/
def allocate (k dpa way : Nat) (s : State) : LlcLine :=
  { hstate := .i, ptag := (pcOwner s.ps.active (linePc k)).getD 0, keyId := dpaKey dpa, dpa := dpa / 64 * 64, way := way }

/-- A stash offer after a write (R266): made when every condition holds, else dropped and counted. A dead tile's answer is a
declined offer, counted as one though no message is sent (R270; log 113). -/
def offerStash (k : Nat) (i : HomeItem) (s : State) : State :=
  match i.stash with
  | none => s
  | some t =>
    let l := llc s k
    let n := (pcOwner s.ps.active (linePc k)).getD 32
    let ok := tileOwner s.ps.active t == some n && !l.presence.getLsbD t && l.hstate == .l && !s.coh.walk.getLsbD n &&
      l.trans.isNone && trackers s (sliceOf (linePc k)) < 256
    if !ok then { s with coh := { s.coh with stashDropped := satAdd 64 s.coh.stashDropped 1 } }
    else if s.coh.dead.getLsbD t then
      { s with coh := { s.coh with stashOffers := satAdd 64 s.coh.stashOffers 1,
                                   stashDeclines := satAdd 64 s.coh.stashDeclines 1 } }
    else snoopAll k .st i [t] s

/-- The read of a step is answered: the step has the line; one that a PREFETCH with RETAIN brought in is retained (R346). -/
def stepGot (k id : Nat) (s : State) : State :=
  let retain := (findStep s id).any fun t => t.opcode == 0x45 && dfld t.raw 0x08 0 1 == 1
  let s := modStep id (fun t => { stepSaw s k t with asked := t.asked.filter fun x => x ≠ k, got := k :: t.got }) s
  if retain then retainLine (llc s k).ptag k s else s

/-- A non-caching reader receives its bytes, with the poison mark (R268, R299). -/
def answerRead (k : Nat) (i : HomeItem) (s : State) : State :=
  let l := llc s k
  match i.host, i.step with
  | some n, _ => emit (.hostData n .ok (((lineBytes l.data).drop i.off).take i.len) l.poison) s
  | none, some id => stepGot k id s
  | none, none => s

/-- A non-caching write is applied to the LLC copy; the line ends in L, dirty (R247, R259). -/
def applyWrite (k : Nat) (i : HomeItem) (s : State) : State :=
  let l := llc s k
  let (d, p) := mergeWrite l.data l.poison i.off i.data i.poison
  let s := setLlc k { l with hstate := .l, dirty := true, presence := 0, data := d, poison := p, trans := none } s
  offerStash k i s

/-- A line leaves the LLC, written back if dirty (R259, Victim). -/
def dropLine (k : Nat) (s : State) : State :=
  let l := llc s k
  let s := if l.dirty then writeMem k l.data l.poison s else s
  setLlc k { (llc s k) with hstate := .i, dirty := false, presence := 0, trans := none, mark := .normal } s

/-- The end of a directory recovery: the line's data, a tile's or the LLC copy's, is written to memory, or the line is
written poisoned, and it becomes I (R248). -/
def endRecover (k : Nat) (s : State) : State :=
  let l := llc s k
  let owner := pcOwner s.ps.active (linePc k)
  let s := writeMem k l.data l.poison s
  let s := { s with coh := { s.coh with dirUe := satAdd 32 s.coh.dirUe 1 } }
  let s := setLlc k { (llc s k) with hstate := .i, dirty := false, presence := 0, trans := none, mark := .normal } s
  report { source := sliceUnit (sliceOf (linePc k)), kind := if l.poison then 0x23 else 0x20, part := owner,
           address := memLoc (linePc k) (64 * lineNo k) } s

/-- The transaction of an item ends after its snoops or data (finishing table of R259); `kept` is the former owner kept as
sharer. -/
def finishItem (k : Nat) (i : HomeItem) (kind : TransKind) (kept : Option Nat) (s : State) : State :=
  let l := { llc s k with trans := none }
  let one := BitVec.ofNat 64 (2 ^ i.tile)
  match i.kind with
  | .rds =>
    if kind = .ss then
      let p := match kept with
        | some o => setBit one o true
        | none => one
      toTile i.tile .dataS i.tag k (setLlc k { l with hstate := .s, presence := p } s)
    else toTile i.tile .dataE i.tag k (setLlc k { l with hstate := .o, presence := one } s)
  | .rdu => toTile i.tile .dataE i.tag k (setLlc k { l with hstate := .o, presence := one } s)
  | .upg =>
    let m : HomeMsg := if i.near then .grantE else .dataE
    toTile i.tile m i.tag k (setLlc k { l with hstate := .o, presence := one } s)
  | .atom =>
    if kind = .f && !i.near then
      let s := performAtom k i false l.data l.poison s
      setLlc k { (llc s k) with hstate := .i, trans := none, dirty := false } s
    else
      let s := setLlc k { l with hstate := .l, presence := 0 } s
      performAtom k i true l.data l.poison s
  | .ncRead =>
    let s := match kept with
      | some o => setLlc k { l with hstate := .s, presence := BitVec.ofNat 64 (2 ^ o) } s
      | none => setLlc k { l with hstate := .l, presence := 0 } s
    answerRead k i s
  | .ncWrite => applyWrite k i (putLlc k l s)
  | .victim => dropLine k (putLlc k l s)
  | .recover => endRecover k (putLlc k l s)
  | .recall => setLlc k { l with hstate := .l, presence := 0 } s
  | .wbm | .wbc => setLlc k l s

/-- SnpInv to the tiles of `ts`: dead ones answer at once, the owner among them with poisoned data (R270); with no live one
the transaction ends at once. -/
def invalidate (k : Nat) (i : HomeItem) (ts : List Nat) (s : State) : State :=
  let l := llc s k
  let live := ts.filter fun t => !s.coh.dead.getLsbD t
  let lost := l.hstate == .o && ts.contains (ownerOf l) && s.coh.dead.getLsbD (ownerOf l)
  let s := if lost then { s with coh := { s.coh with poisonedLines := satAdd 32 s.coh.poisonedLines 1 } } else s
  let l := if lost then { l with poison := true, dirty := true } else l
  let s := setLlc k { l with trans := some { kind := .si, item := i } } s
  if live = [] then finishItem k i .si none s else snoopAll k .si i live s

/-- SnpShr to the owner; a dead owner answers at once with poisoned data (R270). -/
def downgrade (k : Nat) (i : HomeItem) (s : State) : State :=
  let l := llc s k
  let o := ownerOf l
  if s.coh.dead.getLsbD o then
    let s := { s with coh := { s.coh with poisonedLines := satAdd 32 s.coh.poisonedLines 1 } }
    let s := setLlc k { l with poison := true, dirty := true, presence := 0, trans := some { kind := .ss, item := i } } s
    finishItem k i .ss none s
  else snoopAll k .ss i [o] s

/-- The tiles whose presence bit is set, without `t`. -/
def others (l : LlcLine) (t : Nat) : List Nat := (bitList l.presence).filter fun x => x ≠ t

/-- WbAck (R250). -/
def wbAck (i : HomeItem) (s : State) : State := sendTile i.tile .wbAck i.tag i.dpa 0 false s

/-- The line waits for memory data (F). -/
def fetchLine (k : Nat) (i : HomeItem) (s : State) : State :=
  setLlc k { llc s k with trans := some { kind := .f, item := i } } s

/-- A message that the table of R259 marks impossible at its home, as its header reads. -/
def strange (code : Nat) (i : HomeItem) (s : State) : State :=
  impossible i.tile (BitVec.ofNat 128 (code * 2 ^ 120 + domainGen s i.tile % 2 ^ 8 * 2 ^ 112 + i.tile % 2 ^ 6 * 2 ^ 106 +
    i.tag % 2 ^ 12 * 2 ^ 92 + b2n i.poison * 2 ^ 80 + i.dpa)) s

/-- An item is served in a stable state (R259). -/
def begin_ (k : Nat) (i : HomeItem) (s : State) : State :=
  let l := llc s k
  let has := l.presence.getLsbD i.tile
  match i.kind, l.hstate with
  | .rds, .i | .rdu, .i | .upg, .i | .atom, .i | .ncRead, .i => fetchLine k i s
  | .rds, .l | .rdu, .l | .upg, .l => finishItem k { i with near := false } .f none s
  | .rds, .s => toTile i.tile .dataS i.tag k (setLlc k { l with presence := setBit l.presence i.tile true } s)
  | .rds, .o => if has then toTile i.tile .dataE i.tag k s else downgrade k i s
  | .rdu, .s => invalidate k i (others l i.tile) s
  | .rdu, .o => if has then toTile i.tile .dataE i.tag k s else invalidate k i (others l i.tile) s
  | .upg, .s => invalidate k { i with near := has } (others l i.tile) s
  | .upg, .o => if has then strange 0x03 i s else invalidate k { i with near := false } (others l i.tile) s
  | .atom, .l => performAtom k i true l.data l.poison s
  | .atom, .s | .atom, .o => invalidate k i (bitList l.presence) s
  | .wbm, .o =>
    if has then
      wbAck i (setLlc k { l with hstate := .l, presence := 0, data := lineOf i.data, poison := i.poison, dirty := true } s)
    else wbAck i s
  | .wbc, .o =>
    if has then wbAck i (setLlc k { l with data := lineOf i.data, poison := i.poison, dirty := true } s) else wbAck i s
  | .wbm, .s | .wbc, .s => if has then strange (if i.kind = .wbm then 0x05 else 0x06) i s else wbAck i s
  | .wbm, _ | .wbc, _ => wbAck i s
  | .ncRead, .o => downgrade k i s
  | .ncRead, _ => answerRead k i s
  | .ncWrite, .i => if i.data.length = 64 then applyWrite k i s else fetchLine k i s
  | .ncWrite, .l => applyWrite k i s
  | .ncWrite, _ => invalidate k i (bitList l.presence) s
  | .victim, .i => s
  | .victim, .l => dropLine k s
  | .victim, _ => invalidate k i (bitList l.presence) s
  | .recall, .i | .recall, .l => s
  | .recall, _ => invalidate k i (bitList l.presence) s
  | .recover, _ =>
    let n := (pcOwner s.ps.active (linePc k)).getD 32
    let s := if i.copyLost then setLlc k { l with data := 0, poison := true } s else s
    invalidate k i (bitList (hTiles s.ps.active n)) s

/-- An entry with nothing left to hold leaves the table. -/
def tidyLine (k : Nat) (s : State) : State :=
  let l := llc s k
  if l.hstate = .i && l.trans.isNone && l.wait.isEmpty then { s with coh := { s.coh with lines := tdel s.coh.lines k } } else s

/-- An item that may not be answered before verification: what leaves the device, and an atomic that is to be applied (R299). -/
def mustVerify (i : HomeItem) : Bool := i.host.isSome && (i.kind == .ncRead || i.kind == .atom) || (i.kind == .atom && i.isStep)

/-- An item reaches its line in a stable state: it is served, unless it has to wait for the verification of a resident line. -/
def serveItem (k : Nat) (i : HomeItem) (s : State) : State :=
  if mustVerify i && unverified s k && (llc s k).hstate ≠ .i then fetchLine k i s else tidyLine k (begin_ k i s)

/-- Waiting items that may be served are served in arrival order until the line is in a transient state again (R258); those
that may not stay (R75). -/
def drain (k : Nat) : Nat → State → State
  | 0, s => s
  | fuel + 1, s =>
    let l := llc s k
    match l.trans, takeFirst (fun i => !blocked s k i) l.wait with
    | none, some (i, r) => drain k fuel (serveItem k i (putLlc k { l with wait := r } s))
    | _, _ => s

/-- Everything that waits at a line is served as far as it goes. -/
def drainAll (k : Nat) (s : State) : State := drain k ((llc s k).wait.length + 1) s

/-- An item reaches the home of line `k`: it is served, or waits behind the line's transaction (R258). One that comes after
a slot end waits for that slot's commit-log entry on the line (R71). -/
def arrive (k : Nat) (i : HomeItem) (s : State) : State :=
  let l := llc s k
  let i := { i with late := commitPending s k }
  if l.trans.isSome || blocked s k i then setLlc k { l with wait := l.wait ++ [i] } s
  else serveItem k i s

/-- A step's committed write or atomic reaches the home: it goes before every access that came after the slot end (R71). -/
def arriveCommit (k : Nat) (i : HomeItem) (s : State) : State :=
  let l := llc s k
  if l.trans.isNone then serveItem k i s
  else setLlc k { l with wait := l.wait.filter (fun x => !x.late) ++ i :: l.wait.filter fun x => x.late } s

/-- A victim leaves its way: written back if dirty, recalled first if tiles may hold it (R258, R259). A line in a transient
state, or with a pending commit-log entry, is none. -/
def evict (v : Nat) (s : State) : State :=
  let l := llc s v
  if l.hstate = .i || l.trans.isSome || !l.wait.isEmpty || logPending s v then s else begin_ v { kind := .victim } s

/-- An access under the key ID of `dpa` that places its line, if it is not resident, in a way that another may have to leave. -/
def place (k dpa way : Nat) (s : State) : State :=
  let l := llc s k
  if l.hstate = .i && l.trans.isNone && l.wait.isEmpty then
    let s := match inWay s k way with
      | some v => evict v s
      | none => s
    putLlc k (allocate k dpa way s) s
  else s

/-- A read that claims is answered with zeros at once: the line is placed clean in L (R294). -/
def placeZero (k : Nat) (s : State) : State := setLlc k { llc s k with hstate := .l, data := 0, poison := false } s

/-! ### Committed reads -/

/-- The committed bytes of a line part of hand `n` under its translations, and whether they are poisoned; none when the
access does not reach memory or its key ID is refused (R318, R295). -/
def readLine (s : State) (n : Nat) (xs : List Xlat) (dva len : Nat) : Option (List Byte × Bool × Nat) :=
  match xlatDpa xs dva with
  | none => none
  | some d =>
    match homeLine s n d with
    | none => none
    | some k =>
      match keyCheck s (linePc k) (lineNo k) (dpaKey d) with
      | .refuse => none
      | .claim => some (List.replicate len 0, readsPoison s k, d)
      | .match_ =>
        let (v, p) := lineView s k
        some (((lineBytes v).drop (dva % 64)).take len, p, d)

/-- The committed bytes of a DVA range: the bytes, and the DPA of the first poisoned line; none where a part is refused. -/
def readDva (s : State) (n : Nat) (xs : List Xlat) (dva : Nat) : Nat → Nat → Option (List Byte × Option Nat)
  | _, 0 => some ([], none)
  | len, fuel + 1 =>
    if len = 0 then some ([], none)
    else
      let part := min len (64 - dva % 64)
      match readLine s n xs dva part with
      | none => none
      | some (bs, p, d) =>
        match readDva s n xs (dva + part) (len - part) fuel with
        | none => none
        | some (more, q) => some (bs ++ more, if p then some d else q)

/-- The committed bytes of a range of `len` bytes. -/
def readRange (s : State) (n : Nat) (xs : List Xlat) (dva len : Nat) : Option (List Byte × Option Nat) :=
  readDva s n xs dva len (len / 64 + 2)

end Sys2Proof.Machine
end

