-- ==== Sys2Proof/Machine/Home.lean ====
section
/-!
DEFINITION. What reaches a home: the directory entry it reads, requests of tiles with their back-pressure, and the device's
own reads and writes (R22, R24, R242, R248, R250, R252, R258 to R263, R290, R294, R295, R340, R421, R434).
-/
namespace Sys2Proof.Machine
open Sys2Proof

/-! ### A directory entry is read (R248, R421, R434) -/

/-- The LLC copy reads uncorrectable: a dirty line is poisoned, a clean one is read again from memory (R421). -/
def llcError (k : Nat) (inj : Bool) (s : State) : State :=
  let l := llc s k
  let m : FMsg := { source := sliceUnit (sliceOf (linePc k)), kind := if l.dirty then 0x19 else 0x18,
                    address := memLoc (linePc k) (64 * lineNo k), detail := l.dpa, part := pcOwner s.ps.active (linePc k),
                    injected := inj }
  let s := report m s
  if l.dirty then setLlc k { l with poison := true } s
  else if l.hstate = .l then putLlc k { l with hstate := .i, mark := .normal } s
  else
    let (d, p) := readMem s k
    setLlc k { l with data := d, poison := p } s

/-- What the ECC of the arrays finds as an access reads them (R248, R421). -/
structure ArrayRead where
  entryLost : Bool := false
  copyLost : Bool := false
  deriving DecidableEq, Repr

/-- An access by hand `n` reads the entry of line `k`: one that is uncorrectable, or of another partition, is recovered
before `go` serves the access. -/
def reachEntry (n k : Nat) (a : ArrayRead) (i : HomeItem) (go : Nat → HomeItem → State → State) (s : State) : State :=
  let l := llc s k
  if l.hstate = .i || l.trans.isSome then go k i s
  else
    let u := sliceUnit (sliceOf (linePc k))
    let (bad, s) := injected 4 u (some n) s
    if bad || a.entryLost || pcOwner s.ps.active (linePc k) ≠ some l.ptag then
      drainAll k (begin_ k { kind := .recover, copyLost := a.copyLost } (putLlc k { llc s k with wait := l.wait ++ [i] } s))
    else
      let (ue, s) := injected 3 u (some n) s
      go k i (if ue || a.copyLost then llcError k ue s else s)

/-- The way of an access: that of the victim it names, else the way it names, where they may be taken; else the model's. -/
def wayFor (s : State) (n k way : Nat) (victim : Option Nat) : Nat :=
  let may := mayLeave s n k
  match victim.filter (isVictim s may) with
  | some v => (llc s v).way
  | none => if wayOk s n k may way then way else pickWay s n k

/-- An access of hand `n` to line `k` under the key ID of `dpa`: refused, or brought to the home. A first access claims the
granule and finds zeros at once, in the LLC or, for an atomic with NEAR 0, in memory (R259, R261, R294, R295). -/
def openLine (n k dpa way : Nat) (victim : Option Nat) (a : ArrayRead) (i : HomeItem) (s : State) : Bool × State :=
  let i := { i with keyId := dpaKey dpa, dpa := dpa / 64 * 64 }
  let first := keyCheck s (linePc k) (lineNo k) (dpaKey dpa) = .claim && !readsPoison s k
  let (ok, s) := access (linePc k) (lineNo k) (dpaKey dpa) s
  if !ok then (false, s)
  else
    let gone := fun (s : State) => (llc s k).hstate = .i && (llc s k).trans.isNone
    if first && gone s && i.kind = .atom && !i.near then (true, performAtom k i false 0 false s)
    else
      let s := place k dpa (wayFor s n k way victim) s
      (true, reachEntry n k a i arrive (if first && gone s then placeZero k s else s))

/-! ### The Tile Port (R22, R24, R126, R250, R260, R270) -/

/-- A tile message with a stale generation is dropped and counted (R24, R278). -/
def staleTile (t : Nat) (s : State) : State := { s with coh := { s.coh with stale := tcount 32 s.coh.stale t 1 } }

/-- FABRIC_PRESENT is driven by a block that has initialised its directory (R21). -/
def fabricOn (s : State) : Bool := s.bnd.powered && (s.bnd.stage == .time || s.bnd.stage == .ready)

/-- A message of tile `t` under a generation passes the Tile Port: it is discarded while FABRIC_PRESENT is low, dropped from
a dead tile, dropped and counted with a stale generation; else `k` handles it. -/
def atPort (t gen : Nat) (k : State → State) (s : State) : State :=
  if !fabricOn s || !s.bnd.fabric.getLsbD t || s.coh.dead.getLsbD t then s
  else if gen ≠ domainGen s t then staleTile t s
  else k s

/-- A coherence message: one whose opcode or reserved fields are not as they must be is impossible (R250). -/
def message (op : Nat) (m : TileMsg) (k : State → State) (s : State) : State :=
  atPort m.tile m.gen (fun s => if m.legal op then k s else impossible m.tile m.head s) s

/-! ### Requests (R242, R259) -/

/-- A step that runs on the tile grants a right at the line of a DPA (R242, R364). -/
def tileGrant (s : State) (tile dpa bit : Nat) : Bool :=
  s.steps.any fun t => t.phase == .running && t.units.contains (tileUnit tile) && t.xlats.any fun x =>
    let low := dpaLow dpa / 64 * 64
    let dva := x.dva + (low - x.frame)
    x.keyId == dpaKey dpa && x.frame ≤ low && low < x.frame + x.size &&
      t.ranges.any fun r => r.1 < dva + 64 && dva < r.1 + r.2.1 && bitAt r.2.2 bit

/-- What the arrays give the access of a message. -/
def arraysOf (m : TileMsg) : ArrayRead := { entryLost := m.entryLost, copyLost := m.copyLost }

/-- The home that a tile's message is for: the hand of the tile and the line, none where the access reaches no memory. -/
def homeOf (s : State) (m : TileMsg) : Option (Nat × Nat) :=
  (tileOwner s.ps.active m.tile).bind fun n => (homeLine s n m.dpa).map fun k => (n, k)

/-- The right a request needs: bit 2 R, 1 W, 0 A (R242). -/
def rightBit : ItemKind → Nat
  | .rds => 2
  | .atom => 0
  | _ => 1

/-- An Atom is for a step that runs on its tile (R253, R261). -/
def atomStepOn (s : State) (r : BackReq) : Bool :=
  r.kind != .atom || r.step.any fun id => (findStep s id).any fun t => t.phase == .running && t.units.contains (tileUnit r.m.tile)

/-- The item that a tile's message brings to its home. -/
def reqItem (r : BackReq) : HomeItem :=
  { kind := r.kind, tile := r.m.tile, tag := r.m.tag, off := if r.kind = .atom then r.m.dpa % 64 else 0, keyId := dpaKey r.m.dpa,
    dpa := r.m.dpa / 64 * 64, near := r.kind == .atom && r.m.near,
    op := if r.kind = .atom then some (r.m.atomOp r.data) else none, step := r.step,
    data := if r.kind = .wbm ∨ r.kind = .wbc then lineBytes r.data else [], poison := r.m.poison }

/-- A request at its home (R242, R259): refused with RIGHTS, discarded during a recall walk, or served; a write-back of a line
that is not resident is only acknowledged. -/
def homeRequest (r : BackReq) (n k : Nat) (s : State) : State :=
  let m := r.m
  if r.kind = .wbm ∨ r.kind = .wbc then
    let l := llc s k
    if l.hstate = .i && l.trans.isNone && l.wait.isEmpty then wbAck (reqItem r) s
    else reachEntry n k (arraysOf m) (reqItem r) arrive s
  else if s.coh.walk.getLsbD n then s
  else if !tileGrant s m.tile m.dpa (rightBit r.kind) || !atomStepOn s r then rspErr m.tile m.tag m.dpa .rights s
  else
    match openLine n k (m.dpa / 64 * 64) m.way m.victim (arraysOf m) (reqItem r) s with
    | (false, s) => rspErr m.tile m.tag m.dpa .rights s
    | (true, s) => s

/-- A request of the same tile to the same slice is back-pressured already (R251). -/
def behind (s : State) (m : TileMsg) (sl : Nat) : Bool :=
  s.coh.backed.any fun b => b.m.tile == m.tile && (homeOf s b.m).any fun x => sliceOf (linePc x.2) == sl

/-- A REQ message reaches its slice: one that reaches no memory is refused, and one that finds every tracker busy, or comes
behind such a one, is back-pressured (R252, R258). -/
def takeRequest (r : BackReq) (s : State) : State :=
  match homeOf s r.m with
  | none => rspErr r.m.tile r.m.tag r.m.dpa .rights s
  | some (n, k) =>
    let sl := sliceOf (linePc k)
    if 256 ≤ trackers s sl || behind s r.m sl then { s with coh := { s.coh with backed := s.coh.backed ++ [r] } }
    else homeRequest r n k s

/-- Requests that were back-pressured come again, oldest first. -/
def retryBacked (s : State) : State :=
  s.coh.backed.foldl (fun s r => atPort r.m.tile r.m.gen (takeRequest r) s) { s with coh := { s.coh with backed := [] } }

/-! ### The device's writes (R70, R263, R340) -/

/-- Bytes of a device write to one line of hand `n`: the key-ID check, then the home (R295); false where it is refused. -/
def writeLine (n dpa off : Nat) (bs : List Byte) (poison isStep : Bool) (stash : Option Nat) (s : State) : Bool × State :=
  match homeLine s n dpa with
  | none => (false, s)
  | some k =>
    let (ok, s) := access (linePc k) (lineNo k) (dpaKey dpa) s
    if ok then
      let s := place k dpa (pickWay s n k) s
      let i : HomeItem := { kind := .ncWrite, off := off, keyId := dpaKey dpa, dpa := dpa / 64 * 64, data := bs, poison := poison,
                            isStep := isStep, stash := stash }
      (true, reachEntry n k {} i (if isStep then arriveCommit else arrive) s)
    else (false, s)

/-- A committed atomic of a step takes effect on its line (R70, R75): in memory where no copy is resident, else at the home, and only
on data that is verified (R299). One that fails there, after updates that came first, leaves the line unchanged (log 114). -/
def applyAtom (k off : Nat) (op : AtomOp) (s : State) : State :=
  let l := llc s k
  if l.hstate = .i && l.trans.isNone && !unverified s k && !l.wait.any (fun x => !x.late) then
    let (v, p) := readMem s k
    let r := atomUnit op off v
    if r.status = .ok && atomWrites op r.old then writeMem k r.line p s else s
  else arriveCommit k { kind := .atom, off := off, dpa := l.dpa, op := some { op with ret := false }, isStep := true } s

/-- Bytes written to a DVA range of partition `n` through held translations, line by line; false where a part is refused. -/
def storeDva (n : Nat) (xs : List Xlat) (dva : Nat) (bs : List Byte) (isStep : Bool) (stash : Option Nat) (s : State) :
    Bool × State :=
  (splitLines dva bs (bs.length / 64 + 2)).foldl (fun (acc : Bool × State) p =>
    match xlatDpa xs p.1 with
    | none => (false, acc.2)
    | some d =>
      let (ok, s) := writeLine n d (p.1 % 64) p.2 false isStep stash acc.2
      (acc.1 && ok, s)) (true, s)

/-- Bytes written to a DVA range, whatever becomes of its parts. -/
def writeDva (n : Nat) (xs : List Xlat) (dva : Nat) (bs : List Byte) (isStep : Bool) (stash : Option Nat) (s : State) : State :=
  (storeDva n xs dva bs isStep stash s).2

/-- A line of the device's updates waits for a tile or behind a transaction (R70, R264). -/
def updatesWait (s : State) : Bool :=
  s.coh.lines.any fun p => (pendingWrites p.2).any fun i => i.isStep

/-! ### The device's reads (R259, R263, R290, R294, R295) -/

/-- The lines of a DVA range under held translations of hand `n`: line key and DPA. -/
def linesIn (s : State) (n : Nat) (xs : List Xlat) (dva len : Nat) : List (Nat × Nat) :=
  (lineParts dva len).filterMap fun p => (xlatDpa xs p.1).bind fun d => (homeLine s n d).map fun k => (k, d / 64 * 64)

/-- A step reads a line at its home, once; a refused read is counted and gives it nothing more (R259, R295). -/
def askLine (id n : Nat) (s : State) (x : Nat × Nat) : State :=
  match findStep s id with
  | none => s
  | some t =>
    if t.got.contains x.1 || t.asked.contains x.1 then s
    else
      let s := modStep id (fun t => { t with asked := x.1 :: t.asked }) s
      match openLine n x.1 x.2 (pickWay s n x.1) none {} { kind := .ncRead, step := some id } s with
      | (true, s) => s
      | (false, s) => modStep id (fun t => { t with asked := t.asked.filter fun k => k ≠ x.1, got := x.1 :: t.got }) s

/-- A step reads lines; true when it has them all. -/
def askLines (id n : Nat) (l : List (Nat × Nat)) (s : State) : Bool × State :=
  let s := l.foldl (askLine id n) s
  let all := (findStep s id).any fun t => t.asked = []
  (all, modStep id (fun t => { t with awaiting := !all }) s)

/-- A line can be read by the device's control units now: resident, in a state that no tile may change, and verified. -/
def readable (s : State) (k : Nat) : Bool :=
  let l := llc s k
  l.trans.isNone && (l.hstate == .l || l.hstate == .s) && !unverified s k && !commitPending s k

/-- A control unit's read of one line: refused, or brought to the home where it is not readable yet. -/
def controlLine (n : Nat) (acc : Bool × State) (x : Nat × Nat) : Bool × State :=
  let (k, d) := x
  let s := acc.2
  let waits := (llc s k).trans.isSome || (llc s k).wait.any fun i => i.kind == .ncRead && i.host.isNone && i.step.isNone
  match keyCheck s (linePc k) (lineNo k) (dpaKey d) with
  | .match_ => if readable s k || waits || unverified s k then acc
      else (acc.1, (openLine n k d (pickWay s n k) none {} { kind := .ncRead } s).2)
  | _ =>
    let (ok, s) := openLine n k d (pickWay s n k) none {} { kind := .ncRead } s
    (acc.1 && ok, s)

/-- What a control unit's read gives: refused, its bytes with the DPA of the first poisoned line, or nothing yet. -/
inductive ReadNow where
  | refused | wait | got (bytes : List Byte) (poison : Option Nat)
  deriving DecidableEq, Repr

/-- A read of `len` bytes by the Command Processor, the Request Intake Engine or another control unit: every line is read
at its home, and the bytes count once all are in and verified (R259, R299). -/
def readNow (n : Nat) (xs : List Xlat) (dva len : Nat) (s : State) : ReadNow × State :=
  let l := linesIn s n xs dva len
  if l.length ≠ (lineParts dva len).length then (.refused, s)
  else
    let (ok, s) := l.foldl (controlLine n) (true, s)
    if !ok then (.refused, s)
    else if l.any fun x => !readable s x.1 then (.wait, s)
    else
      match readRange s n xs dva len with
      | none => (.refused, s)
      | some (bs, p) => (.got bs p, s)

/-- Lines with their partition, brought in for reads that follow: true when every one that its key ID lets be read is. -/
def bringIn (l : List (Nat × Nat × Nat)) (s : State) : Bool × State :=
  let out := fun (s : State) (x : Nat × Nat × Nat) =>
    keyCheck s (linePc x.2.1) (lineNo x.2.1) (dpaKey x.2.2) ≠ .refuse && !readable s x.2.1
  let s := (l.filter (out s)).foldl (fun s x => (controlLine x.1 (true, s) x.2).2) s
  (!l.any (out s), s)

end Sys2Proof.Machine
end

