-- ==== Sys2Proof/Machine/Translate.lean ====
section
/-!
DEFINITION. The Translation Unit: page walks, rights, pinned translations, the host window, the event ring, and the two
kinds of shared object (R317 to R348).
-/
namespace Sys2Proof.Machine
open Sys2Proof

/-! ### Walks (R322 to R324) -/

/-- The eight-byte word of host memory at a bus address. -/
def hostWord (v : HostView) (a : Nat) : Nat := tget 0 v a

/-- A range that a command names, with the rights it needs (R325). -/
structure Rng where
  dva : Nat
  size : Nat
  r : Bool := false
  w : Bool := false
  a : Bool := false
  deriving DecidableEq, Repr

/-- What the walk of one page gives. -/
inductive Walk where
  | miss (level : Nat)
  | bad
  | page (base size leaf : Nat)
  deriving DecidableEq, Repr

/-- Index of a DVA at a level (R322). -/
def walkIndex (level dva : Nat) : Nat :=
  match level with
  | 3 => fld dva 48 8
  | 2 => fld dva 39 9
  | 1 => fld dva 30 9
  | _ => fld dva 25 5

/-- Alignment, as a power of two, of the table of a level (R322). -/
def tableAlign (level : Nat) : Nat :=
  match level with
  | 3 => 11
  | 2 => 12
  | 1 => 12
  | _ => 8

/-- A valid leaf entry at a level: the page it gives, or a reserved field (R322, R323). -/
def leafAt (dva e level : Nat) : Walk :=
  if level = 3 ∨ level = 2 then .bad
  else if fld e 55 4 ≠ 0 ∨ fld e 16 12 ≠ 0 then .bad
  else if level = 1 then
    if fld e 0 5 ≠ 0 then .bad else .page (dva / 2 ^ 30 * 2 ^ 30) (2 ^ 30) e
  else .page (dva / 2 ^ 25 * 2 ^ 25) (2 ^ 25) e

/-- A pointer entry to a table of level `l` with a reserved field that is non-zero, or a misaligned NEXT (R322, R324). -/
def badPointer (e l : Nat) : Bool := fld e 56 6 ≠ 0 || fld e 0 8 ≠ 0 || fld e 8 48 * 256 % 2 ^ tableAlign l ≠ 0

/-- One walk from a table at a level; the levels run 3, 2, 1, 0. An entry with V 0 anywhere in it comes before a fault of the entries
above it (R322 to R324). -/
def walkFrom (v : HostView) (dva : Nat) : Nat → Nat → Walk
  | 0, table =>
    let e := hostWord v (table + 8 * walkIndex 0 dva)
    if !bitAt e 63 then .miss 0 else if bitAt e 62 then leafAt dva e 0 else .bad
  | l + 1, table =>
    let e := hostWord v (table + 8 * walkIndex (l + 1) dva)
    if !bitAt e 63 then .miss (l + 1)
    else if bitAt e 62 then leafAt dva e (l + 1)
    else
      match walkFrom v dva l (fld e 8 48 * 256), badPointer e l with
      | .miss m, _ => .miss m
      | _, true => .bad
      | r, false => r

/-- A walk from TU_PT_ROOT; a root of zero misses at level 3 (R347). -/
def walk (s : State) (n : Nat) (v : HostView) (dva : Nat) : Walk :=
  let root := (tget {} s.tu.vfs n).ptRoot
  if root = 0 then .miss 3 else walkFrom v dva 3 root

/-- A memory object of a partition (R335). -/
def memObj (s : State) (n j : Nat) : MemObj := tget {} s.tu.objs (pkey 20 n j)
/-- A synchronisation object of a partition (R340); a plan gives at most 131,072 of them (R91). -/
def syncObj (s : State) (n j : Nat) : SyncObj := if j < 2 ^ 17 then tget {} s.tu.syncs (pkey 17 n j) else {}

/-- What translation gives. -/
inductive XOut where
  | ok (xs : List Xlat)
  | miss (level dva : Nat)
  | fail (st : Status) (dva : Nat)
  deriving DecidableEq, Repr

/-- The checks of one page in the order of R324: the page's translation, or the outcome. `first` to `last` are the range's
bytes in the page. -/
def checkPage (s : State) (n : Nat) (v : HostView) (g : Rng) (dva last : Nat) : XOut :=
  match walk s n v dva with
  | .miss l => .miss l dva
  | .bad => .fail .reservedNonzero dva
  | .page base size e =>
    let x : Xlat := { dva := base, size := size, frame := fld e 0 16 * 2 ^ 25, keyId := fld e 48 7, obj := fld e 28 20,
                      r := bitAt e 61, w := bitAt e 60, a := bitAt e 59 }
    let o := memObj s n x.obj
    let low := x.frame + (dva - base)
    let lowEnd := x.frame + (min last (base + size - 1) - base)
    if (g.r && !x.r) || (g.w && !x.w) || (g.a && !x.a) then .fail .rights dva
    else if !reaches s.ps.active n low x.keyId || !reaches s.ps.active n lowEnd x.keyId then .fail .rights dva
    else if o.state ≠ .live then .fail .objectGone dva
    else if base < o.base ∨ o.base + o.size < base + size then .fail .rights dva
    else .ok [x]

/-- Every page of a range in order; `fuel` bounds the pages. -/
def walkPages (s : State) (n : Nat) (v : HostView) (g : Rng) (dva last : Nat) : Nat → XOut
  | 0 => .ok []
  | fuel + 1 =>
    match checkPage s n v g dva last with
    | .ok xs =>
      let next := match xs with
        | x :: _ => x.dva + x.size
        | [] => last + 1
      if last < next then .ok xs
      else
        match walkPages s n v g next last fuel with
        | .ok ys => .ok (xs ++ ys)
        | o => o
    | o => o

/-- A device-window range (R320, R324). -/
def walkRange (s : State) (n : Nat) (v : HostView) (g : Rng) : XOut :=
  let last := g.dva + g.size - 1
  if 2 ^ 56 ≤ last then .fail .rights g.dva else walkPages s n v g g.dva last (g.size / 2 ^ 25 + 2)

/-- Every range of a command, the first failure deciding (R324). -/
def walkRanges (s : State) (n : Nat) (v : HostView) : List Rng → XOut
  | [] => .ok []
  | g :: gs =>
    match walkRange s n v g with
    | .ok xs =>
      match walkRanges s n v gs with
      | .ok ys => .ok (xs ++ ys)
      | o => o
    | o => o

/-- Page walks that a range starts: one for each page up to the first that fails (R324); the TU caches none (R326; log 84). -/
def pageWalks (s : State) (n : Nat) (v : HostView) (g : Rng) (dva last : Nat) : Nat → Nat
  | 0 => 0
  | fuel + 1 =>
    match checkPage s n v g dva last with
    | .ok (x :: _) => if last < x.dva + x.size then 1 else 1 + pageWalks s n v g (x.dva + x.size) last fuel
    | _ => 1

/-- Page walks that the ranges of a command start (R348). -/
def rangeWalks (s : State) (n : Nat) (v : HostView) : List Rng → Nat
  | [] => 0
  | g :: gs =>
    let last := g.dva + g.size - 1
    let here := if 2 ^ 56 ≤ last then 0 else pageWalks s n v g g.dva last (g.size / 2 ^ 25 + 2)
    match walkRange s n v g with
    | .ok _ => here + rangeWalks s n v gs
    | _ => here

/-- The walks of ranges are counted (R348). -/
def countWalks (n : Nat) (v : HostView) (rngs : List Rng) (s : State) : State :=
  { s with tu := { s.tu with walks := satAdd 64 s.tu.walks (rangeWalks s n v rngs) } }

/-- The translations without repeats of a page (R325, R327). -/
def dedupX : List Xlat → List Xlat
  | [] => []
  | x :: xs => if (dedupX xs).any fun y => y.dva == x.dva then dedupX xs else x :: dedupX xs

/-- The pages a partition's held commands pin, without repeats (R327): its steps, its programs and templates, its export
table and its dump area. -/
def pinned (s : State) (n : Nat) : List Nat :=
  let steps := (s.steps.filter fun t => t.part == n).flatMap fun t => t.xlats
  let qs := (s.qu.qs.filter fun q => q.2.live && q.2.part == n).flatMap fun q =>
    (q.2.acceptedAt.flatMap fun a => a.2) ++ (q.2.templates.flatMap fun t => t.xlats)
  let nu := (tget {} s.nu.vfs n).exports.flatMap fun e => e.xlats
  let dump := tget [] s.rc.dumpXlat n
  uniq ((steps ++ qs ++ nu ++ dump).map fun x => x.dva)

/-- The limit of R327. -/
def pinLimit (s : State) (n : Nat) : Nat := 64 * (pcList s.ps.active n).length + 1024

/-- The new pages fit in the partition's limit (R327). -/
def pinFits (s : State) (n : Nat) (xs : List Xlat) : Bool :=
  (uniq (pinned s n ++ xs.map fun x => x.dva)).length ≤ pinLimit s n

/-! ### The event ring (R328, R329, R347) -/

/-- The Translation window of a virtual function. -/
def vfTu (s : State) (n : Nat) : VfTu := tget {} s.tu.vfs n
/-- The Translation window changed. -/
def modVfTu (n : Nat) (f : VfTu → VfTu) (s : State) : State :=
  { s with tu := { s.tu with vfs := tmod {} s.tu.vfs n f } }

/-- The ring holds one ring size of unread records (R347). -/
def evqFull (t : VfTu) : Bool := 2 ^ t.evqLog2 ≤ (t.evqTail + 2 ^ 17 - t.evqHead) % 2 ^ 17

/-- The 32 bytes of an event record, little-endian (R12, R329). -/
def evBytes (r : EvRec) : List Byte :=
  leBytes (if r.reclaim then 2 else 1) 1 ++ leBytes r.level 1 ++ leBytes r.queue 2 ++ leBytes r.ctx 2 ++ leBytes 0 2 ++
    leBytes (r.seq % 2 ^ 48) 8 ++ leBytes r.dva 8 ++ leBytes (r.obj % 2 ^ 20) 8

/-- A record is written at its place in the ring and the tail advances; the event vector of the function is raised when it is enabled (R329, R561). -/
def evWrite (n : Nat) (r : EvRec) (s : State) : State :=
  let t := vfTu s n
  let s := emit (.eventRec n (t.evqBase + 32 * (t.evqTail % 2 ^ t.evqLog2)) (evBytes r)) s
  let s := modVfTu n (fun t => { t with evqTail := (t.evqTail + 1) % 2 ^ 17 }) s
  let s := if r.reclaim then s else { s with tu := { s.tu with misses := satAdd 64 s.tu.misses 1 } }
  let c := tget (false, 0) s.qu.evqCtl n
  if c.1 then msix (.vf n) c.2 s else s

/-- A record takes the partition's next SEQ and is written, or waits while the ring is full (R328, R329). -/
def evPush (n : Nat) (r : EvRec) (s : State) : State :=
  let t := vfTu s n
  let r := { r with seq := t.nextSeq }
  let s := modVfTu n (fun t => { t with nextSeq := t.nextSeq + 1 }) s
  if evqFull t || !t.waiting.isEmpty then modVfTu n (fun t => { t with waiting := t.waiting ++ [r] }) s
  else evWrite n r s

/-- Waiting records are written while the ring has room (R328). -/
def evDrain (n : Nat) : Nat → State → State
  | 0, s => s
  | fuel + 1, s =>
    let t := vfTu s n
    match t.waiting with
    | [] => s
    | r :: rs => if evqFull t then s else evDrain n fuel (evWrite n r (modVfTu n (fun t => { t with waiting := rs }) s))

/-! ### Object references (R335 to R341) -/

/-- STATE code of an object (R335, R340). -/
def objCode : ObjState → Nat
  | .free => 0
  | .live => 1
  | .released => 2

/-- The 32 bytes of an object entry, little-endian (R12, R335). -/
def objBytes (o : MemObj) : List Byte :=
  leBytes (objCode o.state) 1 ++ leBytes 0 1 ++ leBytes o.owner 2 ++ leBytes o.hostRefs 4 ++ leBytes o.devRefs 4 ++
    leBytes (b2n o.mapped) 4 ++ leBytes o.base 8 ++ leBytes o.size 8

/-- A memory object set; its entry is written to the table (R335). -/
def setObj (n j : Nat) (o : MemObj) (s : State) : State :=
  let objs := if o.state = .free then tdel s.tu.objs (pkey 20 n j) else tput s.tu.objs (pkey 20 n j) o
  emit (.objWrite n ((vfTu s n).objBase + 32 * j) (objBytes o)) { s with tu := { s.tu with objs := objs } }

/-- The state an object's counts give (R338): LIVE while the host holds it, RELEASED while only devices do, else FREE. -/
def countState (host dev : Nat) : ObjState := if host ≠ 0 then .live else if dev ≠ 0 then .released else .free

/-- A memory object with new counts; when it becomes FREE a RECLAIM record is written (R338). -/
def countObj (n j : Nat) (o : MemObj) (s : State) : State :=
  let st := countState o.hostRefs o.devRefs
  if st = .free then
    evPush n { reclaim := true, ctx := o.owner, dva := o.base, obj := j } (setObj n j { state := .free } s)
  else setObj n j { o with state := st } s

/-- One more device reference on an object (R325). -/
def takeDevRef (n j : Nat) (s : State) : State :=
  let o := memObj s n j
  setObj n j { o with devRefs := o.devRefs + 1 } s

/-- One device reference dropped (R325, R338). -/
def dropDevRef (n j : Nat) (s : State) : State :=
  let o := memObj s n j
  if o.state = .free then s else countObj n j { o with devRefs := o.devRefs - 1 } s

/-- The distinct objects of translations (R325). -/
def objsOf (xs : List Xlat) : List Nat := uniq (xs.map fun x => x.obj)

/-- One device reference on each distinct object (R325). -/
def takeRefs (n : Nat) (xs : List Xlat) (s : State) : State := (objsOf xs).foldl (fun s j => takeDevRef n j s) s
/-- The references of translations dropped (R325). -/
def dropRefs (n : Nat) (js : List Nat) (s : State) : State := js.foldl (fun s j => dropDevRef n j s) s

/-- A synchronisation record as memory holds it (R340). -/
def syncBytes (o : SyncObj) : List Byte :=
  leBytes (b2n o.error * 2 ^ 63 + o.value + o.owner * 2 ^ 64 + objCode o.state * 2 ^ 80 + o.hostRefs * 2 ^ 96 +
    o.devRefs * 2 ^ 128) 32

/-- A synchronisation object set; the device writes its record through the home (R340). -/
def setSync (n j : Nat) (o : SyncObj) (s : State) : State :=
  let syncs := if o.state = .free then tdel s.tu.syncs (pkey 17 n j) else tput s.tu.syncs (pkey 17 n j) o
  let s := { s with tu := { s.tu with syncs := syncs } }
  let t := vfTu s n
  writeDva n t.syncXlat (t.syncArea + 32 * j) (syncBytes o) false none s

/-- A synchronisation object with new counts; FREE clears VALUE and ERROR, and writes no RECLAIM record (R341). -/
def countSync (n j : Nat) (o : SyncObj) (s : State) : State :=
  let st := countState o.hostRefs o.devRefs
  if st = .free then setSync n j {} s else setSync n j { o with state := st } s

/-- A device reference on a synchronisation object (R341). -/
def takeSyncRef (n j : Nat) (s : State) : State :=
  let o := syncObj s n j
  setSync n j { o with devRefs := o.devRefs + 1 } s

/-- A device reference on a synchronisation object dropped (R341). -/
def dropSyncRef (n j : Nat) (s : State) : State :=
  let o := syncObj s n j
  if o.state = .free then s else countSync n j { o with devRefs := o.devRefs - 1 } s

/-! ### The host window (R320, R321, R330) -/

/-- A DVA in the host window (R320). -/
def isHost (dva : Nat) : Bool := bitAt dva 56

/-- What the host window gives a range (R330). -/
inductive HOut where
  | ok
  | request (base size : Nat)
  | denied
  | full
  deriving DecidableEq, Repr

/-- The cached translation of a host range with the needed rights (R330). -/
def atcHit (s : State) (fn : Fn) (g : Rng) : Option AtcEntry :=
  let a := g.dva % 2 ^ 56
  s.tu.atc.find? fun e => e.fn = fn && e.base ≤ a && a + g.size ≤ e.base + e.size

/-- A host range at enqueue: nothing to check with ATS disabled; else its cached translation decides, and without one a
Translation Request is issued (R320, R330). -/
def hostRange (s : State) (n : Nat) (g : Rng) : HOut :=
  let key := match n with
    | 32 => 32
    | _ => n
  if 2 ^ 57 < g.dva + g.size then .denied
  else if !tget false s.bnd.atsEnable key then .ok
  else
    match atcHit s (.vf n) g with
    | some e => if (g.r && !e.r) || (g.w && !e.w) then .denied else .ok
    | none => if 512 ≤ (s.tu.atc.filter fun e => e.fn = .vf n).length then .full else .request g.dva g.size

end Sys2Proof.Machine
end

