-- ==== Sys2Proof/Machine/Complete.lean ====
section
/-!
DEFINITION. Completion records, overflow areas, progress and the life of contexts (R333, R334, R367 to R373, R467).
-/
namespace Sys2Proof.Machine
open Sys2Proof

/-- The function a queue belongs to (R349). -/
def queueFn (s : State) (q : Nat) : Fn :=
  if q < 1024 then .vf (queue s q).part else if q < 0x420 then .vf (q - 0x400) else .pf

/-- A completion slot returned (R371). -/
def unreserve (q : Nat) (s : State) : State := modQueue q (fun x => { x with reserved := x.reserved - 1 }) s

/-- The completion ring has a free slot: CQ_HEAD, the records written, those the overflow area holds, the slots reserved and a
held command's record all count (R371, R373). -/
def slotFree (q : Queue) : Bool :=
  (q.records + 2 ^ 32 - q.cqHead % 2 ^ 32) % 2 ^ 32 + q.overflow.length + q.reserved + b2n q.miss.isSome < 2 ^ q.cqLog2

/-- PHASE of the record with a count (R369). -/
def phaseOf (q : Queue) (count : Nat) : Bool := (count / 2 ^ q.cqLog2 + 1) % 2 = 1

/-- The context of a step, signal or queue is lost. -/
def isLost (s : State) (n c : Nat) : Bool := c ≠ 0xFFFF && (ctxState s n c = .lost || ctxState s n c = .revoked)

/-- A context is marked lost (R334). The administrative context is never lost (R357). -/
def loseCtx (n c : Nat) (s : State) : State :=
  if c = 0xFFFF || ctxState s n c = .revoked then s else setCtx n c .lost s

/-- A record joins the overflow area of a stalled queue; a fifth marks the queue's context lost and is discarded (R372). -/
def overflowRec (q : Nat) (r : CRec) (s : State) : State :=
  let x := queue s q
  if x.overflow.length < 4 then modQueue q (fun x => { x with overflow := x.overflow ++ [r] }) s
  else loseCtx x.part x.owner s

/-- The 32 bytes of a completion record, little-endian (R12, R369). -/
def crecBytes (r : CRec) : List Byte :=
  leBytes (statusCode r.status) 2 ++ leBytes r.opcode 1 ++
    leBytes (b2n r.replay * 16 + b2n r.summary * 8 + b2n r.skipped * 4 + b2n r.range * 2 + b2n r.phase) 1 ++
    leBytes r.ctx 2 ++ leBytes (r.queue % 2 ^ 11) 2 ++ leBytes r.index 8 ++ leBytes (r.tick % 2 ^ 48) 8 ++ leBytes r.detail 8

/-- The write of the record that follows the queue's present count: its place in the completion ring and its bytes. -/
def recordOut (s : State) (q : Nat) (r : CRec) : Out :=
  let x := queue s q
  .completion (queueFn s q) (x.cq + 32 * (x.records % 2 ^ x.cqLog2)) (crecBytes r)

/-- A record is written to the ring of its queue and the vector raised if asked (R369, R370). A halted device writes none
(R68). -/
def ringRec (q : Nat) (r : CRec) (s : State) : State :=
  let x := queue s q
  let r := { r with phase := phaseOf x x.records }
  let keep := fun (x : Queue) => { x with records := x.records + 1, written := (r :: x.written).take (2 ^ x.cqLog2) }
  let s := emit (recordOut s q r) (modQueue q keep s)
  if r.irq then msix (queueFn s q) x.vector s else s

/-- A record leaves for its queue. -/
def putRec (q : Nat) (r : CRec) (s : State) : State :=
  if s.cu.halted then s
  else if (queue s q).overflow.isEmpty then ringRec q r s else overflowRec q r s

/-- What a command completes with. -/
structure Done where
  st : Status
  detail : Nat := 0
  skipped : Bool := false
  range : Bool := false
  deriving DecidableEq, Repr

/-- The record of a completion (R369). -/
def recOf (s : State) (c : CmdRef) (d : Done) : CRec :=
  { status := d.st, opcode := c.opcode, skipped := d.skipped, range := d.range, ctx := c.ctx, queue := c.queue,
    index := c.index, tick := s.tb.tick, detail := d.detail, irq := d.st ≠ .ok || c.irq }

/-- Progress of a queue when one of its commands completes (R467). -/
def progress (q : Nat) (s : State) : State :=
  modQueue q (fun x => { x with completed := satAdd 64 x.completed 1, lastTick := s.tb.tick }) s

/-- The context owns an object that is not FREE (R333). -/
def ownsObject (s : State) (n c : Nat) : Bool :=
  (s.tu.objs.any fun p => p.1 / 2 ^ 20 == n && p.2.owner == c && p.2.state ≠ .free) ||
    s.tu.syncs.any fun p => p.1 / 2 ^ 17 == n && p.2.owner == c && p.2.state ≠ .free

/-- The context has a queue or an uncompleted command (R333). -/
def ctxBusy (s : State) (n c : Nat) : Bool :=
  (s.qu.qs.any fun p => p.2.live && p.1 < 1024 && p.2.part == n && p.2.owner == c) ||
    (s.steps.any fun t => t.part == n && t.ctx == c) ||
    (s.qu.signals.any fun g => g.part == n && g.ref.ctx == c) ||
    s.qu.qs.any fun p => p.2.part == n &&
      ((p.2.waiting.any fun w => w.ref.ctx == c) || p.2.miss.any fun h => dfld h.raw 4 0 16 == c)

/-- A LIVE context without queue, command and object, and a revoked one without object once its revoke has ended, return to UNUSED
(R333, R377). -/
def reapCtx (n c : Nat) (s : State) : State :=
  match ctxState s n c with
  | .live => if ownsObject s n c || ctxBusy s n c then s else setCtx n c .unused s
  | .revoked =>
    if ownsObject s n c || s.rc.works.any (fun w => w.domain == .revoke n c) then s else setCtx n c .unused s
  | _ => s

/-- An accepted command completes: its slot is returned, or its record written; OK without CMPL writes none (R370, R371). -/
def complete (c : CmdRef) (d : Done) (s : State) : State :=
  let s := unreserve c.queue (progress c.queue s)
  let s := modQueue c.queue (fun x => { x with outstanding := x.outstanding - 1 }) s
  let s := if d.st = .ok && !c.cmpl then s else putRec c.queue (recOf s c d) s
  if d.st = .killed then modHr (queue s c.queue).part (fun h => { h with kills := satAdd 64 h.kills 1 }) s else s

/-- A command completes by a failed check, before acceptance (R359). -/
def reject (c : CmdRef) (st : Status) (detail : Nat) (s : State) : State :=
  let s := { s with qu := { s.qu with rejects := satAdd 64 s.qu.rejects 1 } }
  putRec c.queue (recOf s c { st := st, detail := detail }) (progress c.queue s)

/-- A command is accepted: a completion slot is reserved and it counts as outstanding (R371, R467); its context becomes
LIVE (R333). -/
def accept (c : CmdRef) (s : State) : State :=
  let n := (queue s c.queue).part
  let s := { s with qu := { s.qu with accepts := satAdd 64 s.qu.accepts 1 } }
  let s := modQueue c.queue (fun x => { x with reserved := x.reserved + 1, outstanding := x.outstanding + 1,
                                               lastTick := s.tb.tick }) s
  if c.ctx ≠ 0xFFFF && ctxState s n c.ctx = .unused then setCtx n c.ctx .live s else s

/-- LAST_STATUS (R379). -/
def lastStatus (q : Queue) : Nat :=
  match q.state with
  | .early => 0x0051
  | .stalled => 0x0050
  | .lost => 0x0031
  | _ => 0

/-- STATE code (R379). -/
def qStateCode : QState → Nat
  | .free => 0
  | .idle => 1
  | .running => 2
  | .waiting => 3
  | .miss => 4
  | .early => 5
  | .stalled => 6
  | .lost => 7
  | .destroying => 8

/-- IDLE or RUNNING: whether the queue has descriptors to fetch or commands outstanding (R373, R379). -/
def restState (q : Queue) : QState :=
  if q.outstanding ≠ 0 || (q.kind = .streaming || q.kind = .admin) && q.head < q.tail then .running
  else if q.kind = .streaming || q.kind = .admin then .idle else .running

/-- The state a queue holds without a stall (R373). -/
def settleQueue (s : State) (q : Queue) : QState :=
  if !q.live then .free
  else if q.state = .destroying then .destroying
  else if (q.kind = .persistent || q.kind = .intake) &&
      (ctxState s q.part q.owner = .lost || ctxState s q.part q.owner = .revoked) && !q.stopping then .lost
  else if !q.overflow.isEmpty then .stalled
  else if q.waiting.isSome then .waiting
  else if q.miss.isSome then .miss
  else if q.state = .early then .early
  else restState q

/-- STATE of a queue set to what it now is. -/
def touchQueue (q : Nat) (s : State) : State :=
  modQueue q (fun x => { x with state := settleQueue s x }) s

end Sys2Proof.Machine
end

