-- ==== Sys2Proof/Machine/Gcm.lean ====
section
/-!
DEFINITION. AES-256-GCM with a 96-bit nonce and a 16-byte tag, as R141 and R142 use it; the mode is the public standard's
(NIST SP 800-38D), over the opaque AES-256 block of Config.lean.
-/
namespace Sys2Proof.Machine
open Sys2Proof

/-- Bytes xored pairwise; the shorter list ends it. -/
def xorBytes : List Byte → List Byte → List Byte
  | a :: as, b :: bs => (a ^^^ b) :: xorBytes as bs
  | _, _ => []

/-- A block of the counter mode: AES-256 of the nonce and a 32-bit counter. -/
def gcmBlock (key : BitVec 256) (nonce ctr : Nat) : Nat :=
  (Config.aes256 key (BitVec.ofNat 128 (nonce % 2 ^ 96 * 2 ^ 32 + ctr % 2 ^ 32))).toNat

/-- The key stream of `blocks` blocks, whose counters begin at 2. -/
def gcmStream (key : BitVec 256) (nonce blocks : Nat) : List Byte :=
  (List.range blocks).flatMap fun i => beBytes (gcmBlock key nonce (i + 2)) 16

/-- A text encrypted, or a ciphertext decrypted. -/
def gcmCrypt (key : BitVec 256) (nonce : Nat) (text : List Byte) : List Byte :=
  xorBytes text (gcmStream key nonce (text.length / 16 + 1))

/-- Product of two blocks in the field of GHASH, `n` bits of `x` left to take, the most significant first. -/
def ghashMul (x v : Nat) : Nat → Nat
  | 0 => 0
  | n + 1 =>
    let next := if v % 2 = 1 then v / 2 ^^^ 0xE1 * 2 ^ 120 else v / 2
    (if bitAt x n then v else 0) ^^^ ghashMul x next n

/-- Bytes cut into blocks of 16, the last one filled up with zeros. -/
def ghashBlocks (bs : List Byte) : List Nat :=
  (List.range ((bs.length + 15) / 16)).map fun i => beNat (((bs.drop (16 * i)) ++ List.replicate 16 0).take 16)

/-- The tag over the authenticated header and the ciphertext. -/
def gcmTag (key : BitVec 256) (nonce : Nat) (aad text : List Byte) : Nat :=
  let h := (Config.aes256 key 0).toNat
  let blocks := ghashBlocks aad ++ ghashBlocks text ++ [8 * aad.length * 2 ^ 64 + 8 * text.length]
  blocks.foldl (fun y b => ghashMul (y ^^^ b) h 128) 0 ^^^ gcmBlock key nonce 1

end Sys2Proof.Machine
end

