-- ==== Sys2Proof/Machine/Wire.lean ====
section
/-!
DEFINITION. Messages as bytes on the wire, big-endian (R13): request-intake messages under AES-256-GCM (R141 to R144),
compressed columns (R197) and Foanaosh headers and bodies (R395, R396, R408, R409, R411).
-/
namespace Sys2Proof.Machine
open Sys2Proof

/-- The field of `len` bytes at `off` (R13). -/
def wireFld (bs : List Byte) (off len : Nat) : Nat := beNat ((bs.drop off).take len)

/-- Bits `lo + w - 1` to `lo` of the field of `len` bytes at `off`. -/
def wireBits (bs : List Byte) (off len lo w : Nat) : Nat := fld (wireFld bs off len) lo w

/-- The bytes at `off` are zero. -/
def wireZero (bs : List Byte) (off len : Nat) : Bool := wireFld bs off len == 0

/-! ### Request intake (R141 to R144) -/

/-- A 24-byte intake header (R143). -/
structure IntakeHead where
  version : Nat
  type : Nat
  rsv : Bool
  session : Nat
  seq : Nat
  length : Nat
  deriving DecidableEq, Repr

/-- The header of a datagram. -/
def intakeHead (bs : List Byte) : IntakeHead where
  version := wireBits bs 0 1 4 4
  type := wireBits bs 0 1 0 4
  rsv := !(wireZero bs 1 3 && wireZero bs 0x12 6)
  session := wireFld bs 4 4
  seq := wireFld bs 8 8
  length := wireFld bs 0x10 2

/-- The header that the device sends, VERSION 1 (R143). -/
def intakeHeadBytes (type session seq len : Nat) : List Byte :=
  beBytes (16 + type) 1 ++ beBytes 0 3 ++ beBytes session 4 ++ beBytes seq 8 ++ beBytes len 2 ++ beBytes 0 6

/-- The nonce of a message: the direction's salt, then SEQ (R141). -/
def intakeNonce (salt : BitVec 32) (seq : Nat) : Nat := salt.toNat * 2 ^ 64 + seq % 2 ^ 64

/-- The payload of a message of a tenant, or none where it fails authentication: the header is the additional data, the payload
the ciphertext, and the tag follows it (R141). A datagram whose length is not what LENGTH says has no such tag (log 120). -/
def openIntake (x : Session) (bs : List Byte) : Option (List Byte) :=
  let h := intakeHead bs
  let nonce := intakeNonce x.saltIn h.seq
  let text := (bs.drop 24).take h.length
  if bs.length ≠ 40 + h.length || gcmTag x.keyIn nonce (bs.take 24) text ≠ wireFld bs (24 + h.length) 16 then none
  else some (gcmCrypt x.keyIn nonce text)

/-- A message of the device as it leaves on a session (R141 to R143). -/
def sealIntake (x : Session) (type seq : Nat) (payload : List Byte) : List Byte :=
  let head := intakeHeadBytes type x.id seq payload.length
  let nonce := intakeNonce x.saltOut seq
  let text := gcmCrypt x.keyOut nonce payload
  head ++ text ++ beBytes (gcmTag x.keyOut nonce head text) 16

/-- A REQUEST as decrypted (R143, R144). -/
structure IntakeReq where
  version : Nat
  type : Nat
  rsv : Bool
  session : Nat
  seq : Nat
  length : Nat
  reqId : Nat
  cls : Nat
  ack : Bool
  input : List Byte
  deriving DecidableEq, Repr

/-- The request that a header and a payload make (R144). -/
def intakeReq (h : IntakeHead) (pl : List Byte) : IntakeReq where
  version := h.version
  type := h.type
  rsv := h.rsv || wireBits (pl.drop 8) 0 1 4 4 ≠ 0 || wireBits (pl.drop 9) 0 1 1 7 ≠ 0 || !wireZero pl 0x0A 6
  session := h.session
  seq := h.seq
  length := h.length
  reqId := wireFld pl 0 8
  cls := wireBits (pl.drop 8) 0 1 0 4
  ack := wireBits (pl.drop 9) 0 1 0 1 == 1
  input := pl.drop 16

/-- The payload of an ADMITTED (R144). -/
def admittedBytes (reqId deadline : Nat) : List Byte := beBytes reqId 8 ++ beBytes (deadline % 2 ^ 48) 8

/-- The payload of a REFUSAL (R144). -/
def refusalBytes (reqId : Nat) (st : Status) (tick : Nat) : List Byte :=
  beBytes reqId 8 ++ beBytes (statusCode st) 2 ++ beBytes 0 6 ++ beBytes (tick % 2 ^ 48) 8

/-- The payload of a RESPONSE (R144). -/
def responseBytes (reqId : Nat) (st : Status) (out : List Byte) (tick : Nat) : List Byte :=
  beBytes reqId 8 ++ beBytes (statusCode st) 2 ++ beBytes 0 2 ++ beBytes out.length 4 ++ beBytes (tick % 2 ^ 48) 8 ++ out

/-! ### Compressed columns (R197) -/

/-- A column on the wire: its head, then its words. -/
def columnBytes (c : Column) : List Byte :=
  beBytes (b2n c.sign * 128 + b2n c.nan * 64 + b2n c.negInf * 32 + b2n c.posInf * 16 + c.nwords % 16) 1 ++
    beBytes (b2n c.range * 16 + c.lowWord % 16) 1 ++ beBytes (c.res15 % 16 * 16 + c.res7 % 8) 1 ++ beBytes 0 1 ++
    c.words.flatMap fun w => beBytes w 4

/-- The column whose head and words begin a list of bytes. -/
def columnAt (bs : List Byte) : Column :=
  let n := wireBits bs 0 1 0 4
  { sign := wireBits bs 0 1 7 1 == 1, nan := wireBits bs 0 1 6 1 == 1, negInf := wireBits bs 0 1 5 1 == 1,
    posInf := wireBits bs 0 1 4 1 == 1, range := wireBits bs 1 1 4 1 == 1, nwords := n, lowWord := wireBits bs 1 1 0 4,
    res15 := wireBits bs 2 1 4 4, res7 := wireBits bs 2 1 0 3,
    rsv := wireBits bs 1 1 5 3 ≠ 0 || wireBits bs 2 1 3 1 ≠ 0 || !wireZero bs 3 1 || bs.length < 4 + 4 * n,
    words := (List.range n).map fun i => wireFld bs (4 + 4 * i) 4 }

/-- `k` columns one after the other; one that the bytes do not hold whole is marked damaged and is the last. -/
def columnsAt (bs : List Byte) : Nat → List Column
  | 0 => []
  | k + 1 =>
    let c := columnAt bs
    if bs.length < 4 + 4 * c.nwords then [c] else c :: columnsAt (bs.drop (4 + 4 * c.nwords)) k

/-! ### Foanaosh (R395, R396) -/

/-- The type code of a message (R396). -/
def foaType : FoaMsg → Nat
  | .hello _ _ => 0x01
  | .helloAck _ _ _ => 0x02
  | .heartbeat _ _ _ => 0x03
  | .gatherReq _ => 0x10
  | .gatherReply _ => 0x11
  | .digestNote _ => 0x18
  | .jobAbort _ _ _ => 0x20
  | .abortAck => 0x21
  | .nak _ _ _ _ => 0x30

/-- The body of a message (R396, R408, R409, R411). -/
def foaBody : FoaMsg → List Byte
  | .hello lo hi => beBytes (lo % 16) 1 ++ beBytes (hi % 16) 1 ++ beBytes 0 6
  | .helloAck lo hi v => beBytes (lo % 16) 1 ++ beBytes (hi % 16) 1 ++ beBytes (v % 16) 1 ++ beBytes 0 5
  | .heartbeat t r l => beBytes (t % 2 ^ 48) 8 ++ beBytes (b2n r * 2 + b2n l) 1 ++ beBytes 0 7
  | .gatherReq b =>
    beBytes b.tag 4 ++ beBytes (b.op % 4 * 64) 1 ++ beBytes b.exportNo 1 ++ beBytes b.dim 2 ++ beBytes (b.execTick % 2 ^ 48) 8 ++
      beBytes b.index.length 2 ++ beBytes 0 6 ++ (b.index.flatMap fun i => beBytes (i % 2 ^ 40) 8) ++
      if b.op = 2 then b.weight.flatMap fun w => beBytes w 4 else []
  | .gatherReply b =>
    beBytes b.tag 4 ++ beBytes b.elemFirst 2 ++ beBytes b.columns.length 2 ++ beBytes b.terms 4 ++ beBytes 0 4 ++
      b.columns.flatMap columnBytes
  | .digestNote b =>
    beBytes b.rangeId 4 ++ beBytes b.canon 1 ++ beBytes 0 3 ++ beBytes (b.periodTick % 2 ^ 48) 8 ++ beBytes b.digest.toNat 48
  | .jobAbort t st origin =>
    beBytes (t % 2 ^ 48) 8 ++ beBytes (statusCode st) 2 ++ beBytes (origin % 4096) 2 ++ beBytes 0 4
  | .abortAck => []
  | .nak tag st type epoch =>
    beBytes tag 4 ++ beBytes (statusCode st) 2 ++ beBytes type 1 ++ beBytes 0 1 ++ beBytes epoch 4 ++ beBytes 0 4

/-- A message as bytes: the 32-byte header, then the body (R395). -/
def foaBytes (h : FoaHead) (m : FoaMsg) : List Byte :=
  let body := foaBody m
  beBytes (h.version % 16 * 16) 1 ++ beBytes (foaType m) 1 ++ beBytes body.length 2 ++ beBytes (h.srcChip % 4096) 2 ++
    beBytes (h.dstChip % 4096) 2 ++ beBytes (h.srcPart % 32) 1 ++ beBytes (h.dstPart % 32) 1 ++ beBytes 0 2 ++
    beBytes h.roleEpoch 4 ++ beBytes h.srcEpoch 4 ++ beBytes h.jobId 4 ++ beBytes h.jobGen 2 ++ beBytes 0 6 ++ body

/-- The header of a received message; `rsv` says that a reserved bit of it is set (R395). -/
def foaHead (bs : List Byte) : FoaHead where
  version := wireBits bs 0 1 4 4
  rsv := wireBits bs 0 1 0 4 ≠ 0 || wireBits bs 4 2 12 4 ≠ 0 || wireBits bs 6 2 12 4 ≠ 0 || wireBits bs 8 1 5 3 ≠ 0 ||
    wireBits bs 9 1 5 3 ≠ 0 || !wireZero bs 0x0A 2 || !wireZero bs 0x1A 6
  srcChip := wireBits bs 4 2 0 12
  dstChip := wireBits bs 6 2 0 12
  srcPart := wireBits bs 8 1 0 5
  dstPart := wireBits bs 9 1 0 5
  roleEpoch := wireFld bs 0x0C 4
  srcEpoch := wireFld bs 0x10 4
  jobId := wireFld bs 0x14 4
  jobGen := wireFld bs 0x18 2

/-- A GATHER_REQ body (R408); one whose length is not what COUNT says carries no index (log 121). -/
def gatherReqBody (b : List Byte) : GatherBody :=
  let op := wireBits b 4 1 6 2
  let n := wireFld b 0x10 2
  let whole := b.length == 24 + 8 * n + if op = 2 then 4 * n else 0
  { tag := wireFld b 0 4, op := op, exportNo := wireFld b 5 1, dim := wireFld b 6 2, execTick := wireBits b 8 8 0 48,
    index := if whole then (List.range n).map fun i => wireBits b (24 + 8 * i) 8 0 40 else [],
    weight := if whole && op = 2 then (List.range n).map fun i => wireFld b (24 + 8 * n + 4 * i) 4 else [],
    rsv := wireBits b 4 1 0 6 ≠ 0 || wireBits b 8 8 48 16 ≠ 0 || !wireZero b 0x12 6 }

/-- A received body of a type, and whether a reserved bit of it is set; none for a type that is not listed or a body whose
length is not its type's (R396; log 121). -/
def foaMsgOf (type : Nat) (b : List Byte) : Option (Bool × FoaMsg) :=
  let fixed := fun (len : Nat) (rsv : Bool) (m : FoaMsg) => if b.length = len then some (rsv, m) else none
  match type with
  | 0x01 => fixed 8 (wireBits b 0 1 4 4 ≠ 0 || wireBits b 1 1 4 4 ≠ 0 || !wireZero b 2 6)
      (.hello (wireBits b 0 1 0 4) (wireBits b 1 1 0 4))
  | 0x02 => fixed 8 (wireBits b 0 1 4 4 ≠ 0 || wireBits b 1 1 4 4 ≠ 0 || wireBits b 2 1 4 4 ≠ 0 || !wireZero b 3 5)
      (.helloAck (wireBits b 0 1 0 4) (wireBits b 1 1 0 4) (wireBits b 2 1 0 4))
  | 0x03 => fixed 16 (wireBits b 0 8 48 16 ≠ 0 || wireBits b 8 1 2 6 ≠ 0 || !wireZero b 9 7)
      (.heartbeat (wireBits b 0 8 0 48) (wireBits b 8 1 1 1 == 1) (wireBits b 8 1 0 1 == 1))
  | 0x10 => if b.length < 24 then none else some (false, .gatherReq (gatherReqBody b))
  | 0x11 =>
    if b.length < 16 then none
    else some (!wireZero b 0x0C 4, .gatherReply
      { tag := wireFld b 0 4, elemFirst := wireFld b 4 2, terms := wireFld b 8 4,
        columns := columnsAt (b.drop 16) (wireFld b 6 2) })
  | 0x18 => fixed 64 false (.digestNote
      { rangeId := wireFld b 0 4, canon := wireFld b 4 1, periodTick := wireBits b 8 8 0 48,
        digest := BitVec.ofNat 384 (wireFld b 16 48), rsv := !wireZero b 5 3 || wireBits b 8 8 48 16 ≠ 0 })
  | 0x20 => fixed 16 (wireBits b 0 8 48 16 ≠ 0 || wireBits b 10 2 12 4 ≠ 0 || !wireZero b 12 4)
      (.jobAbort (wireBits b 0 8 0 48) (statusOf (wireFld b 8 2)) (wireBits b 10 2 0 12))
  | 0x21 => fixed 0 false .abortAck
  | 0x30 => fixed 16 (!wireZero b 7 1 || !wireZero b 12 4)
      (.nak (wireFld b 0 4) (statusOf (wireFld b 4 2)) (wireFld b 6 1) (wireFld b 8 4))
  | _ => none

/-- A received Foanaosh message: its header, whose `rsv` says that a reserved bit of the header or of its body is set, and its
body; none where LENGTH does not agree with the datagram (R395, R396; log 121). -/
def foaParse (bs : List Byte) : Option (FoaHead × FoaMsg) :=
  let h := foaHead bs
  let b := bs.drop 32
  if bs.length < 32 || wireFld bs 2 2 ≠ b.length || 8192 < b.length then none
  else (foaMsgOf (wireFld bs 1 1) b).map fun m => ({ h with rsv := h.rsv || m.1 }, m.2)

/-- A Foanaosh message leaves for a peer: to its address, out of the port its entry names, to UDP port NU_CTL.UDP_PORT (R384,
R389, R416). -/
def foaSend (c : Nat) (h : FoaHead) (m : FoaMsg) (s : State) : State :=
  let p : Peer := tget {} s.nu.peers c
  emit (.datagram p.port (p.addrHi.toNat * 2 ^ 64 + p.addrLo.toNat) s.nu.udpPort (foaBytes h m))
    { s with nu := { s.nu with txMsgs := satAdd 64 s.nu.txMsgs 1 } }

/-- Columns cut into runs, each as long as a body of 8,192 bytes allows (R409): `used` bytes of the present run are taken. -/
def columnRuns (used : Nat) (run : List Column) : List Column → List (List Column)
  | [] => if run = [] then [] else [run]
  | c :: r =>
    let size := 4 + 4 * c.words.length
    if 8192 < used + size then run :: columnRuns (16 + size) [c] r else columnRuns (used + size) (run ++ [c]) r

/-- The bodies of the replies that carry a partial, in ascending element order (R409). -/
def replyBodies (b : ReplyBody) : List ReplyBody :=
  ((columnRuns 16 [] b.columns).foldl (fun (acc : Nat × List ReplyBody) run =>
    (acc.1 + run.length, acc.2 ++ [{ b with elemFirst := acc.1, columns := run }])) (b.elemFirst, [])).2

end Sys2Proof.Machine
end

