-- ==== Sys2Proof/Machine/Requests.lean ====
section
/-!
DEFINITION. Request contexts, the ledger and booking (R149 to R162), responses (R144, R152, R153).
-/
namespace Sys2Proof.Machine
open Sys2Proof

/-! ### Capacity (R155 to R157) -/

/-- Shortened slot length in ns: P / 16 at the full rate adjustment (R61, R155). -/
def slotLen (periodUs : Nat) : Nat := periodUs * 1000 * 9999 / 160000

/-- Inflation at the published AGE_MARGIN (R157). -/
def infl (s : State) (x : Nat) : Nat := (x * s.ps.ageMargin + 1023) / 1024

/-- The allowed slots of a hand, ascending. -/
def allowedSlots (s : State) (n : Nat) : List Nat := bitList (hSlots s.ps.active n)

/-- Part `i` of `n` of a charge (R157). -/
def share (x n i : Nat) : Nat := x * (i + 1) / n - x * i / n

/-- The engines that a hand's budgets count in a frame: those not fenced or out of service since the latest tick (R442, R478),
and in the frame of a deal none that entered at it (R127). -/
def countedEngines (s : State) (n f : Nat) : Nat :=
  (bitList (hEngines s.ps.active n)).filter (fun e =>
    !s.ac.budgetFenced.getLsbD e && !(f == s.tb.tick && s.ps.newEngines.getLsbD e)) |>.length

/-- The tiles that a hand's budgets count in a frame: in the frame of a deal none that entered at it (R127). -/
def countedTiles (s : State) (n f : Nat) : Nat :=
  ((bitList (hTiles s.ps.active n)).filter fun t => !(f == s.tb.tick && s.ps.newTiles.getLsbD t)).length

/-- L_j of the `j`-th allowed slot (R155). -/
def slotBudget (s : State) (n j : Nat) : Nat :=
  let m := (allowedSlots s n).length
  share (m * slotLen s.tb.periodUs * hLcCap s.ps.active n / 64) m j

/-- The network budget of a frame for a share (R117, R155). -/
def netBytes (share periodUs : Nat) : Nat := share * 100 * periodUs * 1000 / 256

/-- The network shares of a hand over the ports. -/
def netShares (img : Image) (n : Nat) : Nat := ((List.range 8).map fun p => hShare img n p).sum

/-- The network budget of a frame of a hand (R117, R155). -/
def netBudget (img : Image) (periodUs n : Nat) : Nat := netBytes (netShares img n) periodUs

/-- Every booking in the ledger (R155). -/
def ledger (s : State) : List Booking :=
  (s.ac.reqs.flatMap fun r => r.places.flatMap fun p => p.charges) ++ s.ac.served

/-- What a slot's bookings charge: tile, engine and memory (R155). -/
def slotUsed (bs : List Booking) (n f k : Nat) : Nat × Nat × Nat :=
  let l := bs.filter fun b => b.part == n && b.frame == f && b.slot == k
  ((l.map fun b => b.tile).sum, (l.map fun b => b.eng).sum, (l.map fun b => b.mem).sum)

/-- What a frame's bookings charge of the network budget. -/
def netUsed (bs : List Booking) (n f : Nat) : Nat :=
  ((bs.filter fun b => b.part == n && b.frame == f).map fun b => b.net).sum

/-- A charge vector (R157). -/
structure Charge where
  tile : Nat
  eng : Nat
  mem : Nat
  net : Nat
  deriving DecidableEq, Repr

/-- The charge vector of a request of a class (R157). -/
def chargeOf (s : State) (c : ClassRec) : Charge :=
  { tile := infl s c.tileNs, eng := infl s c.engineNs, mem := c.memLines * 64, net := c.netBytes }

/-- Part `i` of `n` of a charge vector. -/
def Charge.part (c : Charge) (n i : Nat) : Charge :=
  { tile := share c.tile n i, eng := share c.eng n i, mem := share c.mem n i, net := share c.net n i }

/-- A charge fits what is left of a slot's budgets (R155, R158). -/
def slotHas (s : State) (bs : List Booking) (n f k : Nat) (c : Charge) : Bool :=
  let j := (allowedSlots s n).idxOf k
  let l := slotBudget s n j
  let (t, e, m) := slotUsed bs n f k
  t + c.tile ≤ countedTiles s n f * l && e + c.eng ≤ countedEngines s n f * l &&
    m + c.mem ≤ (pcList s.ps.active n).length * 16 * l

/-- A network charge fits what is left of a frame's budget; in the frame of a deal without the shares that entered at it
(R127). -/
def netHas (s : State) (bs : List Booking) (n f net : Nat) : Bool :=
  let fresh := if f = s.tb.tick then tget 0 s.ps.newShares n else 0
  netUsed bs n f + net ≤ netBytes (netShares s.ps.active n - fresh) s.tb.periodUs

/-- The bookings of a slot-scoped placement. -/
def slotCharges (n f k : Nat) (c : Charge) : List Booking :=
  [{ part := n, frame := f, slot := k, tile := c.tile, eng := c.eng, mem := c.mem, net := c.net }]

/-- The bookings of a frame-scoped placement: its shares spread over the allowed slots, its network share once (R157). -/
def frameCharges (s : State) (n f : Nat) (c : Charge) : List Booking :=
  let al := allowedSlots s n
  (List.range al.length).map fun j =>
    { part := n, frame := f, slot := al.getD j 0, tile := share c.tile al.length j, eng := share c.eng al.length j,
      mem := share c.mem al.length j, net := if j = 0 then c.net else 0 }

/-- `fits_slot` (R158). -/
def fitsSlot (s : State) (bs : List Booking) (n f k : Nat) (c : Charge) : Bool :=
  slotHas s bs n f k c && netHas s bs n f c.net

/-- `fits_frame` (R158). -/
def fitsFrame (s : State) (bs : List Booking) (n f : Nat) (c : Charge) : Bool :=
  (frameCharges s n f c).all (fun b => slotHas s bs n f b.slot { tile := b.tile, eng := b.eng, mem := b.mem, net := 0 }) &&
    netHas s bs n f c.net

/-! ### Booking (R158) -/

/-- The allowed slots of frames `f` to `last`, in time order. -/
def slotsFrom (al : List Nat) (f last : Nat) : List (Nat × Nat) :=
  (List.range (last + 1 - f)).flatMap fun i => al.map fun k => (f + i, k)

/-- Steps `i` onward placed from the first of `pos` on, `left` steps remaining; none when a step finds no place. The
ledger is read as it stood before the request, as the algorithm writes it only at its end. -/
def bookSteps (s : State) (n order steps : Nat) (c : Charge) (i : Nat) (pos : List (Nat × Nat)) :
    Nat → Option (List Placement)
  | 0 => some []
  | left + 1 =>
    let bs := ledger s
    let ch := c.part steps i
    let al := allowedSlots s n
    if bitAt order i then
      let starts := pos.filter fun p => p.2 == al.headD 0
      match starts.find? fun p => fitsFrame s bs n p.1 ch with
      | none => none
      | some p =>
        let here : Placement := { step := i, frame := p.1, slot := p.2, frameScoped := true,
                                  charges := frameCharges s n p.1 ch }
        (bookSteps s n order steps c (i + 1) (pos.filter fun x => p.1 < x.1) left).map fun r => here :: r
    else
      match pos.find? fun p => !(i + 1 == steps && p.2 == 15) && fitsSlot s bs n p.1 p.2 ch with
      | none => none
      | some p =>
        let here : Placement := { step := i, frame := p.1, slot := p.2, frameScoped := false,
                                  charges := slotCharges n p.1 p.2 ch }
        (bookSteps s n order steps c (i + 1) (pos.filter fun x => p.1 < x.1 || (p.1 == x.1 && p.2 < x.2)) left).map
          fun r => here :: r

/-- The step order of a class matches its counts (R156). -/
def orderOk (order steps fsteps : Nat) : Bool :=
  let n := steps + fsteps
  ((List.range 19).filter fun i => bitAt order i).length == fsteps && !bitAt order (n - 1) && order < 2 ^ n

/-- A booking of a request of class `c` of hand `n` decided in frame `a` (R158): the placements, or the status. -/
def book (s : State) (n : Nat) (c : ClassRec) (order a : Nat) : Status × List Placement :=
  let l := slotLen s.tb.periodUs
  let al := allowedSlots s n
  if l < infl s c.stepNs then (.refusedCapacity, [])
  else if 0 < c.fsteps && al.length * l < infl s c.fstepNs then (.refusedCapacity, [])
  else if !orderOk order c.steps c.fsteps then (.stateConflict, [])
  else
    let steps := c.steps + c.fsteps
    match bookSteps s n order steps (chargeOf s c) 0 (slotsFrom al (a + 1) (a + c.deadline)) steps with
    | none => (.refusedDeadline, [])
    | some ps => (.ok, ps)

/-! ### Request contexts -/

/-- A request context in use. -/
def findReq (s : State) (n i : Nat) : Option ReqCtx := s.ac.reqs.find? fun r => r.part == n && r.index == i

/-- A request context changed. -/
def modReq (n i : Nat) (f : ReqCtx → ReqCtx) (s : State) : State :=
  { s with ac := { s.ac with reqs := modFirst (fun r => r.part == n && r.index == i) f s.ac.reqs } }

/-- Base of a request context's slot in the intake area (R149). -/
def slotBase (s : State) (n i : Nat) : Nat := tget 0 s.rie.areaBase n + i * 0x4000

/-- A session by number. -/
def findSession (s : State) (id : Nat) : Option Session := s.rie.sessions.find? fun x => x.id == id

/-- The session as the device's next SEQ on it stands, and that SEQ taken; a session that has sent 2^63 messages ends, and one
that has ended gives none (R142). -/
def takeSeq (id : Nat) (s : State) : Option Session × State :=
  match findSession s id with
  | none => (none, s)
  | some x =>
    let l := if 2 ^ 63 ≤ x.nextSeq + 1 then s.rie.sessions.filter fun y => y.id ≠ id
      else modFirst (fun y => y.id == id) (fun y => { y with nextSeq := y.nextSeq + 1 }) s.rie.sessions
    (some x, { s with rie := { s.rie with sessions := l } })

/-- The context enters DONE, its bookings are released, and its RESPONSE, encrypted, joins the trick of the next tick (R76, R141,
R144, R151 to R153, R160). -/
def respond (n i : Nat) (st : Status) (out : List Byte) (s : State) : State :=
  match findReq s n i with
  | none => s
  | some r =>
    if r.state = .done then s
    else
      let s := modReq n i (fun r => { r with state := .done, places := [] }) s
      if s.cu.halted then s
      else
        match takeSeq r.session s with
        | (none, s) => s
        | (some x, s) =>
          let tick := s.tb.tick + 1
          let resp : Response := { part := n, index := i, session := r.session, port := r.port, addr := r.addr, udp := r.udp,
                                   reqId := r.reqId, status := st, output := out, tick := tick, seq := x.nextSeq,
                                   bytes := sealIntake x 4 x.nextSeq (responseBytes r.reqId st out tick) }
          { s with cu := { s.cu with trick := s.cu.trick ++ [resp] } }

/-- A request fails with a status (R153). -/
def failReq (n : Nat) (st : Status) (s : State) (i : Nat) : State := respond n i st [] s

/-- The response of a request whose last step committed: OUTPUT_LEN and OUTPUT as the homes of their lines give them (R152,
R259). While a line is awaited, the request waits. -/
def finishReq (n i : Nat) (s : State) : State :=
  let b := slotBase s n i
  let xs := tget [] s.rie.areaXlat n
  let later := modReq n i fun r => { r with reading := true }
  match readNow n xs (b + 0x2000) 4 s with
  | (.refused, s) => respond n i .rights [] s
  | (.wait, s) => later s
  | (.got bs p, s) =>
    let len := leNat bs
    if p.isSome then respond n i .poison [] s
    else if 8128 < len then respond n i .stateConflict [] s
    else
      match readNow n xs (b + 0x2040) len s with
      | (.refused, s) => respond n i .rights [] s
      | (.wait, s) => later s
      | (.got out q, s) => if q.isSome then respond n i .poison [] s else respond n i .ok out s

/-- Requests whose OUTPUT is being read go on. -/
def readOutputs (s : State) : State :=
  (s.ac.reqs.filter fun r => r.reading && r.state ≠ .done).foldl (fun s r => finishReq r.part r.index s) s

/-- Step `k` of a member committed: the next is due, or the request is answered (R151, R165). -/
def advanceReq (n k : Nat) (s : State) (i : Nat) : State :=
  match findReq s n i with
  | none => s
  | some r =>
    if r.state = .done then s
    else if r.steps ≤ k + 1 then finishReq n i (modReq n i (fun r => { r with next := k + 1 }) s)
    else modReq n i (fun r => { r with next := k + 1, places := r.places.filter fun p => p.step ≠ k }) s

/-- The partition's requests of a class fail (R153). -/
def failClass (n c : Nat) (st : Status) (s : State) : State :=
  let l := s.ac.reqs.filter fun r => r.part == n && r.cls == c && r.state ≠ .done
  l.foldl (fun s r => failReq n st s r.index) s

/-- Members of the batch of step `k` of LC class `c` booked in a slot; a frame-scoped step's are those of the first allowed
slot of its frame (R164, R166). -/
def lcMembers (s : State) (n c k f slot : Nat) : List Nat :=
  sortBy id ((s.ac.reqs.filter fun r => r.part == n && r.cls == c && !r.be && r.state == .active &&
    r.places.any fun p => p.step == k && p.frame == f && p.slot == slot).map fun r => r.index)

/-- Members of step `k` of BE class `c` (R165). -/
def beMembers (s : State) (n c k : Nat) : List Nat :=
  sortBy id ((s.ac.reqs.filter fun r => r.part == n && r.cls == c && r.be && r.state == .active && r.next == k).map
    fun r => r.index)

end Sys2Proof.Machine
end

