-- ==== Sys2Proof/Machine/Loads.lean ====
section
/-!
DEFINITION. Ports, peers and job slots, and the loads that read a list in device memory: a job's members, an export table, a
partition's tenant keys (R383, R384, R400, R401, R406, R530 to R532). A load waits in State until its lines are in and verified.
-/
namespace Sys2Proof.Machine
open Sys2Proof

/-- A port's record. -/
def port (s : State) (p : Nat) : Port := tget {} s.nu.ports p
/-- A port's record changed. -/
def modPort (p : Nat) (f : Port → Port) (s : State) : State :=
  { s with nu := { s.nu with ports := tmod {} s.nu.ports p f } }

/-- A peer entry. -/
def peer (s : State) (c : Nat) : Peer := tget {} s.nu.peers c
/-- A peer entry set. -/
def setPeer (c : Nat) (x : Peer) (s : State) : State := { s with nu := { s.nu with peers := tput s.nu.peers c x } }

/-- What a port does not accept is dropped and counted (R383 to R385). -/
def dropAt (p : Nat) (s : State) : State :=
  if !s.bnd.powered || 8 ≤ p || !(port s p).linkUp then s else modPort p (fun x => { x with rxDrops := satAdd 64 x.rxDrops 1 }) s

/-- The data of a message leaves the buffer of its port, `parity` times in a row damaged: a second parity error drops it, as the port drops what it does not accept
(R383, R439; log 137); `n` is the partition it is for. -/
def fromPort (p parity : Nat) (n : Option Nat) (k : State → State) (s : State) : State :=
  match transfer (0x800 + p) n parity s with
  | (true, s) => dropAt p s
  | (false, s) => k s

/-- Bytes of a DVA range of a partition that a load reads with right R through the page table `host`: refused where the range is
not readable or reads poisoned, nothing yet while a line is awaited. -/
def readRight (n : Nat) (host : HostView) (dva len : Nat) (s : State) : ReadNow × State :=
  let g : Rng := { dva := dva, size := len, r := true }
  if len = 0 then (.got [] none, s)
  else if isHost dva then (.refused, s)
  else
    match walkRange s n host g with
    | .ok xs =>
      match readNow n xs dva len s with
      | (.wait, s) => (.wait, s)
      | (.got bs none, s) => (.got bs none, countWalks n host [g] s)
      | (_, s) => (.refused, countWalks n host [g] s)
    | _ => (.refused, countWalks n host [g] s)

/-- A load waits for its lines. -/
def waitLoad (l : Load) (s : State) : State := { s with loads := s.loads ++ [l] }

/-! ### Job slots (R388, R400, R401, R484) -/

/-- A job slot set. -/
def setJob (n slot : Nat) (j : Job) (s : State) : State :=
  { s with nu := { s.nu with jobs := tput s.nu.jobs (pkey 5 n slot) j } }

/-- A member entry (R400); none where a reserved field is non-zero or it names the chip itself. -/
def memberOf (s : State) (bs : List Byte) : Option Member :=
  let e := leNat bs
  let m : Member := { chip := fld e 0 12, part := fld e 16 5, epoch := fld e 32 32 }
  if fld e 12 4 ≠ 0 ∨ fld e 21 11 ≠ 0 ∨ m.chip = s.nu.chipId then none else some m

/-- A LOAD that no member list can mend (R401). -/
def loadBarred (s : State) (n slot : Nat) : Bool :=
  let j := tget {} s.nu.jobs (pkey 5 n slot)
  let twin := (List.range 32).any fun k =>
    let x := tget {} s.nu.jobs (pkey 5 n k)
    k ≠ slot && x.state == .active && x.id == j.id
  j.state = .active || j.state = .aborting || j.id = 0 || twin || !s.tb.locked || j.count = 0 || 4096 < j.count

/-- The status of a LOAD whose list is read, and the members of one that succeeds (R401). -/
def loadMembers (s : State) (count : Nat) (bs : List Byte) : Status × List Member :=
  let l := (List.range count).map fun i => memberOf s ((bs.drop (8 * i)).take 8)
  let ms := l.filterMap id
  let state := fun (m : Member) => (peer s m.chip).state
  if ms.length < l.length then (.stateConflict, [])
  else if ms.any fun m => state m == .lost then (.peerLost, [])
  else if ms.any fun m => state m != .up then (.stateConflict, [])
  else (.ok, ms)

/-- A LOAD ends with a status; one with OK makes its slot ACTIVE (R401). -/
def endLoad (n slot : Nat) (r : Status × List Member) (s : State) : State :=
  let j := tget {} s.nu.jobs (pkey 5 n slot)
  if r.1 = .ok then setJob n slot { j with state := .active, status := .ok, tick := 0, list := r.2, closing := false } s
  else setJob n slot { j with status := r.1 } s

/-- JOB_LOAD (R401). -/
def jobLoadSt (n slot : Nat) (host : HostView) (s : State) : State :=
  if !vfReady s n || 32 ≤ slot then s
  else if loadBarred s n slot then endLoad n slot (.stateConflict, []) s
  else
    let j := tget {} s.nu.jobs (pkey 5 n slot)
    match readRight n host j.members (8 * j.count) s with
    | (.refused, s) => endLoad n slot (.rights, []) s
    | (.wait, s) => waitLoad (.job n slot host) s
    | (.got bs _, s) => endLoad n slot (loadMembers s j.count bs) s

/-! ### Export tables (R327, R406) -/

/-- Reserved fields of an export entry are zero (R406). -/
def exportShape (e : Nat) : Bool :=
  fld e 1 7 == 0 && fld e 13 3 == 0 && fld e 20 4 == 0 && fld e 29 3 == 0 && fld e 121 7 == 0 && fld e 168 24 == 0 &&
    fld e 192 64 == 0

/-- An export's fields are valid: an LC class of one slot-scoped step, a storage format but PQ8, DIM and PITCH as LRE_POOL
has them (R190, R406). -/
def exportValid (s : State) (n e : Nat) : Bool :=
  let k := hClass s.ps.active n (fld e 16 4)
  let fmt := fld e 24 5
  let dim := fld e 32 16
  let pitch := fld e 48 16
  k.valid && !k.be && k.steps == 1 && k.fsteps == 0 && fmt ≤ 0x10 && 1 ≤ dim && dim ≤ 4096 && pitch % 16 == 0 && 16 ≤ pitch &&
    rowSize fmt dim ≤ pitch && fld e 64 57 % 64 == 0 && 1 ≤ fld e 128 40

/-- The range of an export entry: its table, header and rows (R405). -/
def exportRange (e : Nat) : Rng := { dva := fld e 64 57, size := 64 + fld e 128 40 * fld e 48 16, r := true }

/-- The entries of a table that a load walks (R348): the valid ones, up to the first that fails. -/
def walkedExports (s : State) (n : Nat) (bs : List Byte) (count : Nat) : List Rng :=
  let es := (List.range count).map fun i => leNat ((bs.drop (32 * i)).take 32)
  ((es.takeWhile fun e => exportShape e && (!bitAt e 0 || (exportValid s n e && !isHost (fld e 64 57)))).filter fun e =>
    bitAt e 0).map exportRange

/-- One export entry as it is loaded: its translations, or the status that fails the load. -/
def loadExport (s : State) (n : Nat) (host : HostView) (bs : List Byte) : Except Status ExportEnt :=
  let e := leNat bs
  let ent : ExportEnt := { valid := bitAt e 0, job := fld e 8 5, cls := fld e 16 4, fmt := fld e 24 5, dim := fld e 32 16,
                           pitch := fld e 48 16, base := fld e 64 57, rows := fld e 128 40, xlats := [] }
  if !exportShape e then .error .reservedNonzero
  else if !ent.valid then .ok ent
  else if !exportValid s n e then .error .stateConflict
  else if isHost ent.base then .error .rights
  else
    match walkRange s n host (exportRange e) with
    | .ok xs => .ok { ent with xlats := xs }
    | _ => .error .rights

/-- The entries of a table, or the first that fails: its index and status. -/
def loadExports (s : State) (n : Nat) (host : HostView) (bs : List Byte) (i : Nat) : Nat → Except (Nat × Status) (List ExportEnt)
  | 0 => .ok []
  | left + 1 =>
    match loadExport s n host ((bs.drop (32 * i)).take 32) with
    | .error st => .error (i, st)
    | .ok e =>
      match loadExports s n host bs (i + 1) left with
      | .ok r => .ok (e :: r)
      | .error x => .error x

/-- What a load of `count` entries that are read gives. -/
def exportTable (s : State) (n count : Nat) (host : HostView) (bs : List Byte) : Except (Nat × Status) (List ExportEnt) :=
  match loadExports s n host bs 0 count with
  | .ok l => if pinFits s n (l.flatMap fun e => e.xlats) then .ok l else .error (0, .stateConflict)
  | .error x => .error x

/-- A load ends: the new table takes its references now and comes into force at the next tick, or the status and index of the
entry that fails are shown (R406). -/
def endExports (n count : Nat) (r : Except (Nat × Status) (List ExportEnt)) (s : State) : State :=
  let put := fun (f : VfNu → VfNu) (s : State) => { s with nu := { s.nu with vfs := tmod {} s.nu.vfs n f } }
  match r with
  | .error (i, st) => put (fun v => { v with exportStatus := st, exportIndex := i, exportCount := count % 128 }) s
  | .ok l =>
    let old := ((tget {} s.nu.vfs n).nextExports.getD []).flatMap fun e => e.xlats
    let s := dropRefs n (objsOf old) (takeRefs n (l.flatMap fun e => e.xlats) s)
    put (fun v => { v with exportStatus := .ok, exportIndex := 0, exportCount := count % 128, nextExports := some l }) s

/-- EXPORT_LOAD (R406). -/
def exportLoadSt (n count : Nat) (host : HostView) (s : State) : State :=
  if !vfReady s n then s
  else if 64 < count then endExports n count (.error (0, .stateConflict)) s
  else
    match readRight n host (tget {} s.nu.vfs n).exportBase (32 * count) s with
    | (.refused, s) => endExports n count (.error (0, .rights)) s
    | (.wait, s) => waitLoad (.exports n count host) s
    | (.got bs _, s) =>
      let s := countWalks n host (walkedExports s n bs count) s
      endExports n count (exportTable s n count host bs) s

/-! ### Session agreements end (R527, R530 to R532, R537) -/

/-- A public key as bytes, SEC1 uncompressed. -/
def keyBytes (k : PubKey) : List Byte := beBytes k.toNat 97

/-- A session message of the device: header and body (R527). -/
def sessionBytes (type session : Nat) (body : List Byte) : List Byte :=
  beBytes (16 + type) 1 ++ beBytes 0 1 ++ beBytes body.length 2 ++ beBytes session 4 ++ body

/-- S_DONE with a status to where the S_HELLO came from; a failure is counted (R527, R532, R537). -/
def sDone (port addr udp session : Nat) (st : Status) (s : State) : State :=
  let s := emit (.datagram port addr udp (sessionBytes 4 session (beBytes (statusCode st) 2 ++ beBytes 0 6))) s
  if st = .ok then s else { s with tc := { s.tc with fails := satAdd 64 s.tc.fails 1 } }

/-- The keys and salts of a session (R531). -/
def sessionOf (a : Agreement) : Session :=
  let shared := beBytes (Config.ecdh a.scalar a.ephemeralT).toNat 48
  let okm := Config.hkdf shared (beBytes a.nonceT.toNat 32 ++ beBytes a.session 4) (ascii "DRVSESS" ++ leBytes a.part 1) 72
  let part := fun (off len : Nat) => beNat ((okm.drop off).take len)
  { id := a.session, part := a.part, keyIn := BitVec.ofNat 256 (part 0 32), keyOut := BitVec.ofNat 256 (part 32 32),
    saltIn := BitVec.ofNat 32 (part 64 4), saltOut := BitVec.ofNat 32 (part 68 4) }

/-- The checks of an S_FINISH whose key list is read, or not readable (R530): the session is installed, or the agreement
discarded with the failure's status. -/
def endFinish (a : Agreement) (signature : Signature) (keys : Option (List Digest)) (s : State) : State :=
  let s := { s with tc := { s.tc with half := s.tc.half.filter fun x => x.session ≠ a.session } }
  let known := keys.any fun l => l.contains (Config.sha384 (keyBytes a.tenantKey))
  if !known || !Config.ecdsaVerify a.tenantKey (Config.sha384 a.transcript) signature then
    sDone a.port a.addr a.udp a.session .rights s
  else if tget 0 s.ps.epochs a.part ≠ a.epoch then sDone a.port a.addr a.udp a.session .staleRole s
  else
    let s := { s with rie := { s.rie with sessions := s.rie.sessions ++ [sessionOf a] },
                      tc := { s.tc with agreed := satAdd 64 s.tc.agreed 1 } }
    sDone a.port a.addr a.udp a.session .ok s

/-- An S_FINISH for a half-open agreement: the partition's tenant keys are read with right R (R530, R532); one that names no
half-open agreement is dropped. -/
def agreementSt (session : Nat) (signature : Signature) (host : HostView) (s : State) : State :=
  match s.tc.half.find? fun a => a.session == session with
  | none => s
  | some a =>
    let t := tget {} s.tc.vfs a.part
    match readRight a.part host t.tenantKeys (48 * t.tenantCount) s with
    | (.refused, s) => endFinish a signature none s
    | (.wait, s) => waitLoad (.finish session signature host) s
    | (.got bs _, s) =>
      endFinish a signature (some ((List.range t.tenantCount).map fun i =>
        BitVec.ofNat 384 (beNat ((bs.drop (48 * i)).take 48)))) s

/-! ### Loads go on -/

/-- A waiting load is taken up again. -/
def runLoad (s : State) (l : Load) : State :=
  match l with
  | .job n slot host => jobLoadSt n slot host s
  | .exports n count host => exportLoadSt n count host s
  | .finish session signature host => agreementSt session signature host s

/-- Waiting loads are taken up again, oldest first. -/
def goLoads (s : State) : State := s.loads.foldl runLoad { s with loads := [] }

end Sys2Proof.Machine
end

