-- ==== Sys2Proof/Machine/Lre.lean ====
section
/-!
DEFINITION. What the Lookup-Reduce Engines compute: LRE_POOL, LRE_PQSCAN, LRE_UPDATE and the parts of a REMOTE_GATHER, as
functions of committed memory (R179 to R211, R407 to R410).
-/
namespace Sys2Proof.Machine
open Sys2Proof

/-! ### What a step has met while it runs -/

/-- Outcome of a step so far: its first failing status and whether R182 gave it, the first poisoned DPA, its flags, its
writes and the lines it reads. -/
structure Seen where
  fail : Option Status := none
  bad : Bool := false
  poison : Option Nat := none
  range : Bool := false
  skipped : Bool := false
  writes : List (Nat × List Byte) := []
  /-- Lines read: line key and DPA. -/
  lines : List (Nat × Nat) := []
  /-- Lines of table rows read or rewritten (R166). -/
  rows : List Nat := []
  /-- Lookup tables built, query by query (R202). -/
  luts : List (List Nat) := []
  deriving DecidableEq, Repr

/-- A failing status; the first one counts. -/
def Seen.failing (v : Seen) (st : Status) : Seen := if v.fail.isSome then v else { v with fail := some st }
/-- A failure under R182. -/
def Seen.stray (v : Seen) : Seen := if v.fail.isSome then v else { v with fail := some .rights, bad := true }

/-- A step's read of `len` bytes: a refused one fails it with RIGHTS (R295, R318); poison is noted (R67). -/
def rd (s : State) (n : Nat) (xs : List Xlat) (dva len : Nat) (v : Seen) : List Byte × Seen :=
  let v := { v with lines := v.lines ++ linesIn s n xs dva len }
  match readRange s n xs dva len with
  | none => (List.replicate len 0, v.failing .rights)
  | some (bs, p) =>
    (bs, match v.poison, p with
      | none, some d => { v with poison := some d }
      | _, _ => v)

/-- The lines of a table row noted (R166). -/
def Seen.row (s : State) (n : Nat) (xs : List Xlat) (dva len : Nat) (v : Seen) : Seen :=
  { v with rows := v.rows ++ (linesIn s n xs dva len).map fun x => x.1 }

/-- A step's read of a table row. -/
def rdRow (s : State) (n : Nat) (xs : List Xlat) (dva len : Nat) (v : Seen) : List Byte × Seen :=
  rd s n xs dva len (v.row s n xs dva len)

/-- A data window (R181). -/
structure Window where
  base : Nat
  size : Nat
  deriving DecidableEq, Repr

/-- `len` bytes at an offset lie wholly inside the window (R182). -/
def Window.holds (w : Window) (off len : Nat) : Bool := len == 0 || off + len ≤ w.size

/-- A read at a window offset; one that strays fails the step (R182). -/
def rdWin (s : State) (n : Nat) (xs : List Xlat) (w : Window) (off len : Nat) (v : Seen) : List Byte × Seen :=
  if w.holds off len then rd s n xs (w.base + off) len v else (List.replicate len 0, v.stray)

/-- A write at a window offset of stated alignment (R182). -/
def wrWin (w : Window) (off align : Nat) (bs : List Byte) (v : Seen) : Seen :=
  if w.holds off bs.length && off % align == 0 then { v with writes := v.writes ++ [(w.base + off, bs)] } else v.stray

/-- `count` little-endian numbers of `size` bytes. -/
def numsOf (size count : Nat) (bs : List Byte) : List Nat :=
  (List.range count).map fun i => leNat ((bs.drop (size * i)).take size)

/-! ### LRE_POOL (R190 to R195) -/

/-- The fields of an LRE_POOL or REMOTE_GATHER body (R190, R407). -/
structure PoolCmd where
  op : Nat
  round : Nat
  idx64 : Bool
  batch : Bool
  partial_ : Bool
  wfmt : Nat
  inFmt : Nat
  outFmt : Nat
  dim : Nat
  pitch : Nat
  table : Nat
  rows : Nat
  win : Window
  bags : Nat
  bagOff : Nat
  deriving DecidableEq, Repr

/-- The body read from a descriptor (R190). -/
def poolCmd (d : Desc) : PoolCmd where
  op := dfld d 0x08 6 2
  round := dfld d 0x08 4 2
  idx64 := dfld d 0x08 3 1 == 1
  batch := dfld d 0x08 2 1 == 1
  partial_ := dfld d 0x08 1 1 == 1
  wfmt := dfld d 0x08 0 1
  inFmt := dfld d 0x09 0 5
  outFmt := dfld d 0x0A 0 3
  dim := dfld d 0x0C 0 16
  pitch := dfld d 0x0E 0 16
  table := dfld d 0x10 0 57
  rows := dfld d 0x18 0 40
  win := { base := dfld d 0x20 0 57, size := dfld d 0x28 0 32 }
  bags := dfld d 0x2C 0 32
  bagOff := dfld d 0x30 0 32

/-- A term's weight (R193): FP32, or BF16 widened exactly (R408). -/
def weightDec (wfmt x : Nat) : Dec := decodeFloat (if wfmt = 0 then fp32 else bf16) x

/-- The accumulators of a bag: one for each element over the rows named, with their weights (R193, R195). -/
def bagAccs (op fmt dim : Nat) (rows : List (Nat × Dec)) : List Acc :=
  (List.range dim).map fun d =>
    rows.foldl (fun a r =>
      let x := decodeElem fmt dim r.1 d
      if op = 3 then a.max x else if op = 2 then a.add (r.2.mul x) else a.add x) {}

/-- The rows of a table at the listed indices, with their weights; an index at or above the row count strays (R182). -/
def rowsAt (s : State) (n : Nat) (xs : List Xlat) (first pitch rows size : Nat) (l : List (Nat × Dec)) (v : Seen) :
    List (Nat × Dec) × Seen :=
  l.foldl (fun acc i =>
    if i.1 < rows then
      let (bs, v) := rdRow s n xs (first + i.1 * pitch) size acc.2
      (acc.1 ++ [(leNat bs, i.2)], v)
    else (acc.1, acc.2.stray)) ([], v)

/-- The bytes of a bag's output: rounded elements in OUT_FMT, or exact lines (R187, R194); a bag of no rows yields +0. -/
def poolBytes (c : PoolCmd) (count : Nat) (accs : List Acc) : List Byte :=
  if c.partial_ then accs.flatMap fun a => lineBytes (exactLine a 0)
  else
    let (t, size) := outTarget c.outFmt
    let d := if c.op = 1 ∧ 0 < count then count else 1
    accs.flatMap fun a => leBytes (convert t c.round a d) size

/-- The fields of a bag entry (R191). -/
structure Bag where
  idx : Nat
  wgt : Nat
  count : Nat
  out : Nat
  deriving DecidableEq, Repr

/-- Bag entry `j` (R191). -/
def bagAt (s : State) (n : Nat) (xs : List Xlat) (c : PoolCmd) (j : Nat) (v : Seen) : Bag × Seen :=
  let (bs, v) := rdWin s n xs c.win (c.bagOff + 16 * j) 16 v
  let f := numsOf 4 4 bs
  ({ idx := f.getD 0 0, wgt := f.getD 1 0, count := f.getD 2 0, out := f.getD 3 0 }, v)

/-- The indices of a bag with their weights (R190, R191, R193). -/
def bagTerms (s : State) (n : Nat) (xs : List Xlat) (c : PoolCmd) (b : Bag) (v : Seen) : List (Nat × Dec) × Seen :=
  let isz := if c.idx64 then 8 else 4
  let wsz := if c.wfmt = 0 then 4 else 2
  let (ib, v) := rdWin s n xs c.win b.idx (isz * b.count) v
  let (wb, v) := if c.op = 2 then rdWin s n xs c.win b.wgt (wsz * b.count) v else ([], v)
  let ws := if c.op = 2 then (numsOf wsz b.count wb).map (weightDec c.wfmt) else List.replicate b.count (.fin false 1 0)
  ((numsOf isz b.count ib).zip ws, v)

/-- One bag: its partial and its term count (R193, R195). -/
def poolBag (s : State) (n : Nat) (xs : List Xlat) (c : PoolCmd) (j : Nat) (v : Seen) : Bag × List Acc × Seen :=
  let (b, v) := bagAt s n xs c j v
  if 2 ^ 24 < b.count then (b, [], v.failing .reservedNonzero)
  else
    let (terms, v) := bagTerms s n xs c b v
    if v.fail.isSome then (b, [], v)
    else
      let (rows, v) := rowsAt s n xs (c.table + 64) c.pitch c.rows (rowSize c.inFmt c.dim) terms v
      (b, bagAccs c.op c.inFmt c.dim rows, v)

/-- The bags a command reduces: those of its batch members, or 0 to NUM_BAGS - 1 (R192). -/
def bagList (batch : Bool) (members : List Nat) (bags : Nat) : List Nat := if batch then members else List.range bags

/-- LRE_POOL (R193, R194). -/
def runPool (s : State) (t : Step) : Seen :=
  let c := poolCmd t.raw
  (bagList c.batch t.members c.bags).foldl (fun v j =>
    let (b, accs, v) := poolBag s t.part t.xlats c j v
    if v.fail.isSome then v
    else
      let v := { v with range := v.range || accs.any fun a => a.range }
      wrWin c.win b.out 64 (poolBytes c b.count accs) v) {}

/-! ### LRE_PQSCAN (R200 to R205) -/

/-- An exact value rounded once to FP32, to nearest even (R202, R187). -/
def roundExact (d : Dec) : Nat :=
  match d with
  | .nan => canonNan fp32
  | .inf neg => if neg then 0xFF800000 else 0x7F800000
  | .fin neg m e =>
    let k := e + 360
    if m = 0 then 0 else roundFloat fp32 0 (scaled neg m k.toNat) (2 ^ 200)

/-- LUT[s][j] for a query's sub-vector and a centroid (R202). -/
def lutEntry (ip : Bool) (q c : List Dec) : Nat :=
  let terms := (q.zip c).map fun p =>
    if ip then p.1.mul p.2
    else
      let d := p.1.add p.2.neg
      d.mul d
  roundExact (terms.foldl Dec.add (.fin false 0 0))

/-- The lookup table of a query over `sub` sub-spaces, 256 FP32 entries for each (R177, R202): entry `256 s + j` is LUT[s][j]. -/
def lutTable (ip : Bool) (sub : Nat) (q cent : List Dec) : List Nat :=
  (List.range (256 * sub)).map fun x =>
    lutEntry ip ((q.drop (16 * (x / 256))).take 16) ((cent.drop (16 * x)).take 16)

/-- The distance of a row of codes: the exact sum of its table entries (R202). -/
def scanRow (sub : Nat) (lut : List Nat) (codes : List Byte) : Acc :=
  (List.range sub).foldl (fun (a : Acc) i => a.add (decodeFloat fp32 (lut.getD (256 * i + (codes.getD i 0).toNat) 0))) {}

/-- The tables of a command's last round of up to four queries, one for each group (R177, R205). -/
def lastRound (l : List (List Nat)) : List (List Nat) := l.drop (4 * ((l.length - 1) / 4))

/-- One scanned row: its global index and its exact distance. -/
abbrev Scanned := Nat × Acc

/-- `a` ranks before `b` (R203). -/
def ranksBefore (ip : Bool) (a b : Scanned) : Bool :=
  let isNan := fun (x : Acc) => x.nan || (x.posInf && x.negInf)
  let order := fun (x : Acc) => if x.posInf then (2 : Int) else if x.negInf then -2 else 0
  let na := isNan a.2
  let nb := isNan b.2
  if na || nb then (!na && nb) || (na && nb && decide (a.1 < b.1))
  else
    let less := fun (x y : Acc) => if order x ≠ order y then decide (order x < order y) else
      order x == 0 && decide (x.value < y.value)
    let first := if ip then less b.2 a.2 else less a.2 b.2
    let after := if ip then less a.2 b.2 else less b.2 a.2
    first || (!after && decide (a.1 < b.1))

/-- A row put into a ranked list of at most `k` rows (R203, R205). -/
def keepBest (ip : Bool) (k : Nat) (x : Scanned) (l : List Scanned) : List Scanned :=
  let rec place : List Scanned → List Scanned
    | [] => [x]
    | y :: r => if ranksBefore ip x y then x :: y :: r else y :: place r
  (place l).take k

/-- The output list of a query (R204). -/
def scanBytes (exact : Bool) (k : Nat) (l : List Scanned) : List Byte :=
  let one := fun (x : Scanned) =>
    if exact then lineBytes (exactLine x.2 x.1)
    else leBytes x.1 8 ++ leBytes (convert (.float fp32) 0 x.2 1) 4 ++ leBytes 0 4
  let fill := if exact then lineBytes (exactLine {} 0xFFFFFFFFFF) else leBytes (2 ^ 64 - 1) 8 ++ leBytes 0 8
  (l.flatMap one) ++ (List.replicate (k - l.length) fill).flatten

/-- LRE_PQSCAN (R200 to R205). -/
def runPqscan (s : State) (t : Step) : Seen :=
  let d := t.raw
  let ip := dfld d 0x08 6 2 == 1
  let exact := dfld d 0x08 5 1 == 1
  let batch := dfld d 0x08 4 1 == 1
  let cfmt := dfld d 0x08 3 1
  let sub := dfld d 0x09 0 7
  let k := dfld d 0x0A 0 16
  let pitch := dfld d 0x0E 0 16
  let table := dfld d 0x10 0 57
  let rows := dfld d 0x18 0 40
  let win : Window := { base := dfld d 0x20 0 57, size := dfld d 0x28 0 32 }
  let cbOff := dfld d 0x2C 0 32
  let rowBase := dfld d 0x30 0 40
  let qOff := dfld d 0x38 0 32
  let w := if cfmt = 0 then 4 else 2
  let v : Seen := if cbOff % w = 0 then {} else ({} : Seen).stray
  let (cb, v) := rdWin s t.part t.xlats win cbOff (sub * 4096 * w) v
  let cent := (numsOf w (sub * 4096) cb).map (weightDec cfmt)
  let (codes, v) := (List.range rows).foldl (fun (acc : List (List Byte) × Seen) i =>
    let (bs, v) := rdRow s t.part t.xlats (table + 64 + i * pitch) sub acc.2
    (acc.1 ++ [bs], v)) ([], v)
  (bagList batch t.members (dfld d 0x0C 0 16)).foldl (fun v j =>
    let (qb, v) := rdWin s t.part t.xlats win (qOff + 16 * j) 16 v
    let f := numsOf 4 4 qb
    let v := if f.getD 2 0 = 0 ∧ f.getD 3 0 = 0 then v else v.failing .reservedNonzero
    let (vec, v) := rdWin s t.part t.xlats win (f.getD 0 0) (64 * sub) v
    if v.fail.isSome then v
    else
      let lut := lutTable ip sub ((numsOf 4 (16 * sub) vec).map (weightDec 0)) cent
      let best := (codes.zip (List.range rows)).foldl (fun l r => keepBest ip k (rowBase + r.2, scanRow sub lut r.1) l) []
      let v := { v with range := v.range || best.any (fun x => x.2.range), luts := v.luts ++ [lut] }
      wrWin win (f.getD 1 0) 64 (scanBytes exact k best) v) v

/-! ### LRE_UPDATE (R206 to R211) -/

/-- The first `size` bytes of a row as earlier entries of the same command leave it, else as memory holds it (R209). -/
def rowNow (s : State) (t : Step) (dva size : Nat) (v : Seen) : List Byte × Seen :=
  match v.writes.reverse.find? fun w => w.1 == dva with
  | some w => (w.2.take size, v)
  | none => rd s t.part t.xlats dva size v

/-- The element bytes of a row with `ADD` applied (R207, R229, R239, R241). -/
def addRow (fmt dim round : Nat) (row payload : List Byte) : List Byte :=
  match addTarget fmt with
  | none => row
  | some (tg, size) =>
    (List.range dim).flatMap fun i =>
      let x := decodeElem fmt dim (leNat row) i
      let y := decodeFloat fp32 (leNat ((payload.drop (4 * i)).take 4))
      leBytes (convert tg round ((({} : Acc).add x).add y) 1) size

/-- One update entry (R207, R208). -/
def updateEntry (s : State) (t : Step) (j : Nat) (v : Seen) : Seen :=
  let d := t.raw
  let fmt := dfld d 0x09 0 5
  let dim := dfld d 0x0C 0 16
  let pitch := dfld d 0x0E 0 16
  let win : Window := { base := dfld d 0x20 0 57, size := dfld d 0x28 0 32 }
  let (eb, v) := rdWin s t.part t.xlats win (dfld d 0x38 0 32 + 16 * j) 16 v
  let e := leNat eb
  let row := fld e 0 40
  let op := fld e 64 8
  let off := fld e 96 32
  let dva := dfld d 0x10 0 57 + 64 + row * pitch
  if fld e 40 24 ≠ 0 ∨ fld e 72 24 ≠ 0 ∨ 2 < op ∨ (op = 2 ∧ off ≠ 0) ∨ (op = 1 ∧ (addTarget fmt).isNone) then
    v.failing .reservedNonzero
  else if dfld d 0x18 0 40 ≤ row then v.stray
  else if op = 0 then
    let (bs, v) := rdWin s t.part t.xlats win off pitch (v.row s t.part t.xlats dva pitch)
    { v with writes := v.writes ++ [(dva, bs)] }
  else if op = 2 then
    let v := v.row s t.part t.xlats dva pitch
    { v with writes := v.writes ++ [(dva, List.replicate pitch 0)] }
  else
    let (old, v) := rowNow s t dva (rowSize fmt dim) (v.row s t.part t.xlats dva (rowSize fmt dim))
    let (pay, v) := rdWin s t.part t.xlats win off (4 * dim) v
    { v with writes := v.writes ++ [(dva, addRow fmt dim (dfld d 0x08 4 2) old pay)] }

/-- LRE_UPDATE (R206 to R211). -/
def runUpdate (s : State) (t : Step) : Seen :=
  let d := t.raw
  let base := dfld d 0x10 0 57
  let seq := dfld d 0x30 0 64
  let (hb, v) := rd s t.part t.xlats base 8 {}
  let last := leNat hb
  if seq ≤ last then { v with skipped := true }
  else if seq ≠ last + 1 then v.failing .stateConflict
  else
    let v := (List.range (dfld d 0x2C 0 32)).foldl (fun v j => updateEntry s t j v) v
    { v with writes := v.writes ++ [(base, leBytes seq 8)] }

/-! ### REMOTE_GATHER (R407 to R410) -/

/-- A shard entry (R407). -/
structure Shard where
  lo : Nat
  member : Nat
  exportNo : Nat
  rsv : Bool
  deriving DecidableEq, Repr

/-- The shard list of a command (R407). -/
def shardList (s : State) (t : Step) (v : Seen) : List Shard × Seen :=
  let d := t.raw
  let win := (poolCmd d).win
  (List.range (dfld d 0x38 0 4)).foldl (fun (acc : List Shard × Seen) i =>
    let (bs, v) := rdWin s t.part t.xlats win (dfld d 0x34 0 32 + 16 * i) 16 acc.2
    let e := leNat bs
    let rsv := fld e 40 24 ≠ 0 || fld e 77 3 ≠ 0 || fld e 96 32 ≠ 0
    (acc.1 ++ [{ lo := fld e 0 40, member := fld e 64 13, exportNo := fld e 80 16, rsv := rsv }], v)) ([], v)

/-- ROW_LO values start at 0 and rise, and at most one shard is local (R407). -/
def shardsOk (l : List Shard) : Bool :=
  (l.head?.any fun x => x.lo == 0) && ((l.zip l.tail).all fun p => p.1.lo < p.2.lo) &&
    (l.filter fun x => x.member == 0x1FFF).length ≤ 1

/-- Number of the shard that holds a global row (R407). -/
def shardOf (l : List Shard) (row : Nat) : Nat := (l.filter fun x => x.lo ≤ row).length - 1

/-- One bag of a gather: the local part's accumulators, and for each remote shard its local indices and weights. -/
structure GatherBag where
  out : Nat
  count : Nat
  mine : List Acc
  parts : List (Shard × List (Nat × Nat))
  deriving DecidableEq, Repr

/-- The FP32 pattern of a weight on the wire (R408). -/
def wireWeight (wfmt x : Nat) : Nat := if wfmt = 0 then x else x * 2 ^ 16

/-- One bag of a REMOTE_GATHER split by shard, its local part reduced (R408). -/
def gatherBag (s : State) (t : Step) (shards : List Shard) (j : Nat) (v : Seen) : GatherBag × Seen :=
  let c := poolCmd t.raw
  let (b, v) := bagAt s t.part t.xlats c j v
  if 2 ^ 24 < b.count then ({ out := b.out, count := 0, mine := [], parts := [] }, v.failing .reservedNonzero)
  else
    let isz := if c.idx64 then 8 else 4
    let wsz := if c.wfmt = 0 then 4 else 2
    let (ib, v) := rdWin s t.part t.xlats c.win b.idx (isz * b.count) v
    let (wb, v) := if c.op = 2 then rdWin s t.part t.xlats c.win b.wgt (wsz * b.count) v else ([], v)
    let idx := numsOf isz b.count ib
    let v := if idx.any fun i => 2 ^ 40 ≤ i then v.stray else v
    let ws := if c.op = 2 then numsOf wsz b.count wb else List.replicate b.count 0
    let terms := idx.zip ws
    let own := shards.findIdx? fun x => x.member == 0x1FFF
    let lo := fun i => (shards.getD i { lo := 0, member := 0, exportNo := 0, rsv := false }).lo
    let mineT := terms.filter fun p => some (shardOf shards p.1) == own
    let mineT := mineT.map fun p => (p.1 - lo (shardOf shards p.1), if c.op = 2 then weightDec c.wfmt p.2 else .fin false 1 0)
    let (rows, v) := rowsAt s t.part t.xlats (c.table + 64) c.pitch c.rows (rowSize c.inFmt c.dim) mineT v
    let parts := (List.range shards.length).filterMap fun i =>
      match shards[i]? with
      | none => none
      | some sh =>
        let l := terms.filter fun p => shardOf shards p.1 == i
        if sh.member = 0x1FFF ∨ l = [] then none
        else some (sh, l.map fun p => (p.1 - sh.lo, wireWeight c.wfmt p.2))
    ({ out := b.out, count := b.count, mine := bagAccs c.op c.inFmt c.dim rows, parts := parts }, v)

/-- Two partials of a bag merged element by element (R195). -/
def mergeAccs (op : Nat) (a b : List Acc) : List Acc :=
  (a.zip b).map fun p => if op = 3 then p.1.maxMerge p.2 else p.1.merge p.2

/-- The merged value lies in the window and holds at most 2^24 terms (R186). -/
def accsFit (l : List Acc) : Bool := l.all fun a => a.fits && a.terms ≤ 2 ^ 24

/-- A step served for a GATHER_REQ: an LRE_POOL over the rows of an export with PARTIAL at 1 (R408). -/
def runServed (s : State) (t : Step) (e : ExportEnt) (b : GatherBody) : List Acc × Seen :=
  let ws := if b.op = 2 then b.weight.map (weightDec 0) else b.index.map fun _ => .fin false 1 0
  let (rows, v) := rowsAt s t.part t.xlats (e.base + 64) e.pitch e.rows (rowSize e.fmt e.dim) (b.index.zip ws) {}
  let accs := bagAccs b.op e.fmt e.dim rows
  (accs, { v with range := accs.any fun a => a.range })

end Sys2Proof.Machine
end

