-- ==== Sys2Proof/Machine/Work.lean ====
section
/-!
DEFINITION. What COPY, DIGEST and CKPT do: tensor blocks and their CRC, the canonical serialisation, the checkpoint record
(R169, R364, R437, R447 to R450).
-/
namespace Sys2Proof.Machine
open Sys2Proof

/-! ### COPY (R364, R437) -/

/-- CRC-32C of bytes, bit-reflected (R437). -/
def crc32c (bs : List Byte) : Nat :=
  let bit := fun (c : Nat) => if c % 2 = 1 then (c / 2) ^^^ 0x82F63B78 else c / 2
  let byte := fun (c : Nat) (b : Byte) => bit (bit (bit (bit (bit (bit (bit (bit (c ^^^ b.toNat))))))))
  (bs.foldl byte 0xFFFFFFFF) ^^^ 0xFFFFFFFF

/-- The tensor blocks of a destination range: offset and length, split at its 4 KiB boundaries (R437). -/
def tensorBlocks (dst size : Nat) : List (Nat × Nat) :=
  (List.range ((dst + size - 1) / 4096 + 1 - dst / 4096)).map fun i =>
    let lo := max dst ((dst / 4096 + i) * 4096)
    let hi := min (dst + size) ((dst / 4096 + i + 1) * 4096)
    (lo - dst, hi - lo)

/-- `len` bytes of host memory from a bus address, `len` and the address multiples of 8 (R320). -/
def hostBytes (v : HostView) (a len : Nat) : List Byte :=
  (List.range (len / 8)).flatMap fun i => leBytes (hostWord v (a + 8 * i)) 8

/-- The blocks of a COPY as its source gives them (R437). -/
def runCopy (s : State) (t : Step) : Seen :=
  let src := dfld t.raw 0x08 0 57
  let dst := dfld t.raw 0x10 0 57
  (tensorBlocks dst (dfld t.raw 0x18 0 32)).foldl (fun v b =>
    let (bs, v) := if isHost src then (hostBytes t.host (src % 2 ^ 56 + b.1) b.2, v)
      else rd s t.part t.xlats (src + b.1) b.2 v
    { v with writes := v.writes ++ [(dst + b.1, bs)] }) {}

/-! ### DIGEST (R447 to R450) -/

/-- Padding bits at the end of a row's last byte (R228, R449). -/
def rowPad (fmt dim : Nat) : Nat :=
  if fmt = 0x05 ∨ fmt = 0x06 ∨ fmt = 0x09 then (8 - 6 * dim % 8) % 8
  else if fmt = 0x07 ∨ fmt = 0x0A ∨ fmt = 0x0E ∨ fmt = 0x10 then 4 * (dim % 2)
  else 0

/-- The first row-size bytes of a row with the bits after its last element zero (R449). -/
def canonRow (fmt dim : Nat) (bs : List Byte) : List Byte :=
  leBytes (leNat bs % 2 ^ (8 * rowSize fmt dim - rowPad fmt dim)) (rowSize fmt dim)

/-- Bytes of canonical stream of a DIGEST (R447, R449). -/
def streamLen (d : Desc) : Nat :=
  let size := dfld d 0x18 0 32
  if dfld d 0x08 2 1 = 1 then size * rowSize (dfld d 0x09 0 5) (dfld d 0x0C 0 16) else size

/-- The canonical stream (R449). -/
def canonStream (s : State) (t : Step) (v : Seen) : List Byte × Seen :=
  let d := t.raw
  let base := dfld d 0x10 0 57
  let size := dfld d 0x18 0 32
  if dfld d 0x08 2 1 = 0 then rd s t.part t.xlats base size v
  else
    let fmt := dfld d 0x09 0 5
    let dim := dfld d 0x0C 0 16
    (List.range size).foldl (fun (acc : List Byte × Seen) i =>
      let (bs, v) := rd s t.part t.xlats (base + i * dfld d 0x0E 0 16) (rowSize fmt dim) acc.2
      (acc.1 ++ canonRow fmt dim bs, v)) ([], v)

/-- Leaf digests of a stream whose first leaf has index `i` (R449). -/
def leafDigests (i : Nat) (bs : List Byte) : List Byte :=
  (List.range (ceilDiv bs.length 65536)).flatMap fun j =>
    beBytes (Config.sha384 (beBytes (i + j) 8 ++ (bs.drop (65536 * j)).take 65536)).toNat 48

/-- The prefix of the root (R449). -/
def digestPrefix (mode rangeId : Nat) : List Byte :=
  [0x44, 0x52, 0x56, 0x44, 0x49, 0x47, 0x53, 0x54, 1, BitVec.ofNat 8 mode, 0, 0] ++ beBytes rangeId 4

/-- The state record (R450). -/
def stateRecord (mode rangeId next total period : Nat) (hashed : List Byte) : List Byte :=
  leBytes (1 + mode * 2 ^ 8 + rangeId * 2 ^ 32) 8 ++ leBytes next 8 ++ leBytes total 8 ++ leBytes period 8 ++
    List.replicate 32 0 ++ ((Config.shaState hashed ++ List.replicate 192 0).take 192)

/-- The LAST command's result (R450). -/
def digestResult (root : Digest) (period rangeId : Nat) : List Byte :=
  beBytes root.toNat 48 ++ leBytes period 8 ++ leBytes rangeId 4 ++ leBytes 1 4

/-- What a DIGEST step gives: its outcome, and the bytes hashed so far and the root of a LAST command. -/
structure DigestOut where
  seen : Seen
  hashed : List Byte := []
  root : Option Digest := none
  deriving DecidableEq, Repr

/-- DIGEST (R449, R450). -/
def runDigest (s : State) (t : Step) : DigestOut :=
  let d := t.raw
  let first := dfld d 0x08 0 1 == 1
  let last := dfld d 0x08 1 1 == 1
  let mode := dfld d 0x08 2 1
  let rangeId := dfld d 0x1C 0 32
  let period := dfld d 0x30 0 48
  let recAt := dfld d 0x20 0 57
  let (rb, v) := if first then ([], {}) else rd s t.part t.xlats recAt 256 {}
  let r := leNat (rb.take 64)
  let matches_ := first || (fld r 0 8 == 1 && fld r 8 8 == mode && fld r 32 32 == rangeId && fld r 192 48 == period)
  if !matches_ then { seen := v.failing .stateConflict }
  else
    let next := if first then 0 else fld r 64 64
    let total := if first then 0 else fld r 128 64
    let before := if first then digestPrefix mode rangeId
      else (s.fc.digestRuns.find? fun x => (Config.shaState x ++ List.replicate 192 0).take 192 == rb.drop 64).getD
        (Config.shaBefore (rb.drop 64))
    let (bs, v) := canonStream s t v
    let hashed := before ++ leafDigests next bs
    let total := (total + bs.length) % 2 ^ 64
    let next := (next + ceilDiv bs.length 65536) % 2 ^ 64
    let v := { v with writes := [(recAt, stateRecord mode rangeId next total period hashed)] }
    if last then
      let root := Config.sha384 (hashed ++ beBytes total 8)
      { seen := { v with writes := v.writes ++ [(dfld d 0x28 0 57, digestResult root period rangeId)] },
        hashed := hashed, root := some root }
    else { seen := v, hashed := hashed }

/-! ### CKPT (R169) -/

/-- The checkpoint record of a queue as it stands (R169). -/
def ckptBytes (q : Queue) (number tick : Nat) : List Byte :=
  leBytes (1 + number * 2 ^ 16) 8 ++ leBytes tick 8 ++ leBytes q.head 8 ++ leBytes q.updateSeq 8 ++
    ((List.range 4).flatMap fun j => leBytes (tget 0 q.loops j) 4) ++ List.replicate 16 0 ++
    ((List.range 16).flatMap fun j => leBytes (tget 0 q.params j) 8) ++ List.replicate 64 0

end Sys2Proof.Machine
end

