-- ==== Sys2Proof/Machine/Operands.lean ====
section
/-!
DEFINITION. The fields of a command descriptor: its header, each command's body, reserved fields and reserved encodings
(R11, R183, R357, R359 checks 4 and 5), and the ranges a command names (R181, R325).
-/
namespace Sys2Proof.Machine
open Sys2Proof

/-! ### The header (R357) -/

/-- OPCODE. -/
def dOpcode (d : Desc) : Nat := dfld d 0 0 8
/-- VERSION. -/
def dVersion (d : Desc) : Nat := dfld d 1 4 4
/-- STEP. -/
def dStep (d : Desc) : Nat := dfld d 2 0 5
/-- CONTEXT. -/
def dCtx (d : Desc) : Nat := dfld d 4 0 16
/-- PATCH. -/
def dPatch (d : Desc) : Bool := dfld d 6 15 1 == 1
/-- SERVE. -/
def dServe (d : Desc) : Bool := dfld d 6 4 1 == 1
/-- SEQ_TAG. -/
def dTag (d : Desc) : Nat := dfld d 0x3E 0 16

/-- The patch fields are valid (R357): PATCH_QW from 1 to 6. -/
def patchOk (d : Desc) : Bool := 1 ≤ dfld d 6 12 3 && dfld d 6 12 3 ≤ 6

/-- Opcodes in which STASH_EN may be 1 (R357). -/
def stashOp (op : Nat) : Bool := op = 0x41 || op = 0x42 || op = 0x43 || op = 0x44 || op = 0x47

/-- The header's reserved fields and encodings (R357). -/
def headOk (d : Desc) : Bool :=
  let stash := dfld d 3 7 1 == 1
  dfld d 1 0 4 == 0 && dfld d 2 5 3 == 0 && dfld d 3 6 1 == 0 && dfld d 6 5 3 == 0 && dfld d 6 0 1 == 0 &&
    (if dServe d then dStep d ≤ 18 else dStep d == 0) && (stash || dfld d 3 0 6 == 0) && (!stash || stashOp (dOpcode d)) &&
    (if dPatch d then patchOk d else dfld d 6 12 3 == 0 && dfld d 6 8 4 == 0)

/-- A field of a body: byte offset, low bit, width. -/
abbrev Field := Nat × Nat × Nat

/-- The body fields of an LRE_POOL (R190). -/
def poolFields : List Field :=
  [(0x08, 0, 8), (0x09, 0, 5), (0x0A, 0, 3), (0x0C, 0, 16), (0x0E, 0, 16), (0x10, 0, 57), (0x18, 0, 40), (0x20, 0, 57),
    (0x28, 0, 32), (0x2C, 0, 32), (0x30, 0, 32)]

/-- The body fields of each command; every other body bit is reserved. -/
def bodyFields (op : Nat) : List Field :=
  match op with
  | 0x01 => [(0x08, 0, 3), (0x09, 0, 4), (0x0A, 0, 16), (0x10, 0, 64)]
  | 0x02 => [(0x08, 0, 2), (0x0C, 0, 32), (0x10, 0, 15)]
  | 0x03 => [(0x10, 0, 15)]
  | 0x04 => [(0x0C, 0, 20), (0x10, 0, 63)]
  | 0x05 => [(0x08, 0, 1), (0x0C, 0, 20), (0x10, 0, 63)]
  | 0x06 => [(0x08, 0, 4), (0x09, 0, 5), (0x10, 0, 57)]
  | 0x40 => [(0x08, 0, 57), (0x10, 0, 57), (0x18, 0, 5), (0x20, 0, 240)]
  | 0x41 => poolFields
  | 0x42 => [(0x08, 3, 5), (0x09, 0, 7), (0x0A, 0, 16), (0x0C, 0, 16), (0x0E, 0, 16), (0x10, 0, 57), (0x18, 0, 40),
      (0x20, 0, 57), (0x28, 0, 32), (0x2C, 0, 32), (0x30, 0, 40), (0x38, 0, 32)]
  | 0x43 => [(0x08, 4, 2), (0x09, 0, 5), (0x0C, 0, 16), (0x0E, 0, 16), (0x10, 0, 57), (0x18, 0, 40), (0x20, 0, 57),
      (0x28, 0, 32), (0x2C, 0, 32), (0x30, 0, 64), (0x38, 0, 32)]
  | 0x44 => [(0x08, 0, 57), (0x10, 0, 57), (0x18, 0, 32)]
  | 0x45 => [(0x08, 0, 1), (0x10, 0, 57), (0x18, 0, 32)]
  | 0x46 => [(0x08, 0, 2), (0x10, 0, 57), (0x18, 0, 32)]
  | 0x47 => poolFields ++ [(0x0B, 0, 5), (0x34, 0, 32), (0x38, 0, 4)]
  | 0x48 => [(0x08, 0, 4), (0x09, 0, 5), (0x0A, 0, 5), (0x0C, 0, 16), (0x0E, 0, 16), (0x10, 0, 57), (0x18, 0, 32),
      (0x1C, 0, 32), (0x20, 0, 57), (0x28, 0, 57), (0x30, 0, 48)]
  | 0x80 => [(0x0C, 0, 20), (0x10, 0, 57), (0x18, 0, 64)]
  | 0x81 => [(0x0C, 0, 20)]
  | 0x82 => [(0x08, 0, 2), (0x0C, 0, 20), (0x10, 0, 63)]
  | 0x83 => [(0x08, 0, 1), (0x0C, 0, 20)]
  | 0x84 => [(0x10, 0, 57)]
  | 0xC0 => [(0x08, 6, 2), (0x08, 0, 4), (0x09, 0, 8), (0x0A, 0, 10), (0x0C, 0, 16), (0x0E, 0, 5), (0x0F, 0, 5),
      (0x10, 0, 57), (0x18, 0, 57), (0x20, 0, 57), (0x28, 0, 16), (0x2A, 0, 6), (0x2C, 0, 5)]
  | 0xC1 => [(0x0A, 0, 10), (0x2C, 0, 5)]
  | 0xC2 => [(0x0C, 0, 16), (0x2C, 0, 5)]
  | 0xC3 => [(0x08, 0, 1), (0x0C, 0, 16), (0x2C, 0, 5)]
  | 0xC4 => [(0x08, 0, 2), (0x0C, 0, 9)]
  | 0xC5 => [(0x08, 0, 1), (0x2C, 0, 5)]
  | 0xC6 => [(0x08, 0, 2)]
  | 0xC7 => [(0x08, 0, 7)]
  | 0xC8 => [(0x08, 0, 7)]
  | 0xC9 => [(0x2C, 0, 5)]
  | _ => []

/-- Every body bit outside the listed fields is zero. -/
def onlyFields (d : Desc) (l : List Field) : Bool :=
  l.foldl (fun x f => setFld x (8 * f.1 + f.2.1) f.2.2 0) (fld d.toNat 64 432 * 2 ^ 64) == 0

/-! ### Reserved encodings of bodies (R183, R359) -/

/-- A DVA of stated alignment. -/
def alignedTo (a x : Nat) : Bool := x % a == 0

/-- PITCH, the table and the data window of an engine command (R179, R181, R190); `need` is the row size. -/
def tableOk (d : Desc) (need : Nat) : Bool :=
  let pitch := dfld d 0x0E 0 16
  let size := dfld d 0x28 0 32
  alignedTo 16 pitch && 16 ≤ pitch && need ≤ pitch && alignedTo 64 (dfld d 0x10 0 57) && 1 ≤ dfld d 0x18 0 40 &&
    64 ≤ size && size ≤ 2 ^ 30

/-- DIM from 1 to 4,096. -/
def dimOk (d : Desc) : Bool := 1 ≤ dfld d 0x0C 0 16 && dfld d 0x0C 0 16 ≤ 4096

/-- What LRE_POOL and REMOTE_GATHER share (R190, R220, R221). -/
def poolBase (d : Desc) : Bool :=
  let c := poolCmd d
  (c.wfmt == 0 || c.op == 2) && c.inFmt ≤ 0x10 && c.outFmt ≤ 3 && (!c.partial_ || c.outFmt == 0) && dimOk d &&
    (if c.batch then c.bags == 0 else 1 ≤ c.bags && c.bags ≤ 65536) && alignedTo 16 c.bagOff && alignedTo 64 c.win.base

/-- The reserved encodings of each command's body; `ring` is the size of the queue's ring (R359). -/
def bodyOk (op ring : Nat) (d : Desc) : Bool :=
  match op with
  | 0x01 => 1 ≤ dfld d 0x0A 0 16
  | 0x02 => dfld d 0x10 0 15 < ring
  | 0x03 => dfld d 0x10 0 15 < ring
  | 0x06 => 1 ≤ dfld d 0x09 0 5 && dfld d 0x08 0 4 + dfld d 0x09 0 5 ≤ 16 && alignedTo 8 (dfld d 0x10 0 57)
  | 0x40 => alignedTo 16 (dfld d 0x10 0 57) && 1 ≤ dfld d 0x18 0 5 && dfld d 0x18 0 5 ≤ 16
  | 0x41 => poolBase d && tableOk d (rowSize (poolCmd d).inFmt (poolCmd d).dim)
  | 0x42 =>
    let sub := dfld d 0x09 0 7
    let k := dfld d 0x0A 0 16
    let nq := dfld d 0x0C 0 16
    dfld d 0x08 6 2 ≤ 1 && 1 ≤ sub && sub ≤ 64 && 1 ≤ k && k ≤ 1024 && (if dfld d 0x08 4 1 = 1 then nq == 0 else 1 ≤ nq && nq ≤ 4096) &&
      tableOk d sub && dfld d 0x30 0 40 + dfld d 0x18 0 40 ≤ 2 ^ 40 - 1 && alignedTo 16 (dfld d 0x38 0 32)
  | 0x43 =>
    dfld d 0x09 0 5 ≤ 0x11 && dimOk d && tableOk d (rowSize (dfld d 0x09 0 5) (dfld d 0x0C 0 16)) &&
      1 ≤ dfld d 0x2C 0 32 && dfld d 0x2C 0 32 ≤ 65536 && 1 ≤ dfld d 0x30 0 64 && alignedTo 16 (dfld d 0x38 0 32)
  | 0x44 =>
    let size := dfld d 0x18 0 32
    alignedTo 64 (dfld d 0x08 0 57) && alignedTo 64 (dfld d 0x10 0 57) && alignedTo 64 size && 64 ≤ size && size ≤ 2 ^ 30
  | 0x45 | 0x46 =>
    let size := dfld d 0x18 0 32
    (op = 0x45 || dfld d 0x08 0 2 ≠ 3) && alignedTo 64 (dfld d 0x10 0 57) &&
      alignedTo 64 size && 64 ≤ size && size ≤ 2 ^ 30
  | 0x47 =>
    let none_ := dfld d 0x10 0 57 == 0 && dfld d 0x18 0 40 == 0
    let c := poolCmd d
    poolBase d && (if none_ then alignedTo 16 c.pitch && 16 ≤ c.pitch && rowSize c.inFmt c.dim ≤ c.pitch &&
        64 ≤ c.win.size && c.win.size ≤ 2 ^ 30
      else tableOk d (rowSize c.inFmt c.dim)) &&
      alignedTo 16 (dfld d 0x34 0 32) && 1 ≤ dfld d 0x38 0 4 && dfld d 0x38 0 4 ≤ 8
  | 0x48 =>
    let rows := dfld d 0x08 2 1 == 1
    let last := dfld d 0x08 1 1 == 1
    let fmt := dfld d 0x09 0 5
    let pitch := dfld d 0x0E 0 16
    let len := streamLen d
    (if rows then fmt ≤ 0x10 && dimOk d && alignedTo 16 pitch && 16 ≤ pitch && rowSize fmt (dfld d 0x0C 0 16) ≤ pitch
      else fmt == 0 && dfld d 0x0C 0 16 == 0 && pitch == 0 && alignedTo 64 (dfld d 0x10 0 57)) &&
      (dfld d 0x08 3 1 == 1 || dfld d 0x0A 0 5 == 0) && 1 ≤ len && len ≤ 2 ^ 30 && (last || dfld d 0x28 0 57 == 0)
  | 0x80 => alignedTo (2 ^ 25) (dfld d 0x10 0 57) && !isHost (dfld d 0x10 0 57) && alignedTo (2 ^ 25) (dfld d 0x18 0 64) &&
      dfld d 0x18 0 64 ≠ 0
  | 0x82 => (dfld d 0x08 1 1 == 0 || dfld d 0x08 0 1 == 1) && (dfld d 0x08 1 1 == 1 || dfld d 0x10 0 63 == 0)
  | 0x84 => alignedTo 256 (dfld d 0x10 0 57)
  | 0xC0 =>
    let ring := dfld d 0x0E 0 5
    let cq := dfld d 0x0F 0 5
    dfld d 0x08 6 2 ≠ 3 && 1 ≤ dfld d 0x09 0 8 && dfld d 0x0C 0 16 ≠ 0xFFFF && 4 ≤ ring && ring ≤ 15 && 4 ≤ cq && cq ≤ 15 &&
      alignedTo 4096 (dfld d 0x10 0 57) && alignedTo 4096 (dfld d 0x18 0 57) && isHost (dfld d 0x18 0 57) &&
      alignedTo 256 (dfld d 0x20 0 57) && 1 ≤ dfld d 0x28 0 16
  | 0xC3 => dfld d 0x0C 0 16 ≠ 0xFFFF
  | 0xC4 => dfld d 0x0C 0 9 < 320
  | _ => true

/-- Check 5 of R359. -/
def reservedOk (op ring : Nat) (d : Desc) : Bool := headOk d && onlyFields d (bodyFields op) && bodyOk op ring d

/-! ### The ranges a command names (R181, R325, R345, R364, R447) -/

/-- Table range and data window of an engine command (R181). -/
def engineRanges (d : Desc) (w : Bool) : List Rng :=
  let rows := dfld d 0x18 0 40
  let table : List Rng := if rows = 0 then []
    else [{ dva := dfld d 0x10 0 57, size := 64 + rows * dfld d 0x0E 0 16, r := true, w := w }]
  table ++ [{ dva := dfld d 0x20 0 57, size := dfld d 0x28 0 32, r := true, w := true }]

/-- The ranges of a command that its descriptor alone names; TILE_STEP adds its table's and its kernel's. -/
def rangesOf (op : Nat) (d : Desc) : List Rng :=
  match op with
  | 0x06 => [{ dva := dfld d 0x10 0 57, size := 8 * dfld d 0x09 0 5, r := true }]
  | 0x40 => [{ dva := dfld d 0x10 0 57, size := 16 * dfld d 0x18 0 5, r := true }]
  | 0x41 | 0x42 | 0x47 => engineRanges d false
  | 0x43 => engineRanges d true
  | 0x44 => [{ dva := dfld d 0x08 0 57, size := dfld d 0x18 0 32, r := true },
      { dva := dfld d 0x10 0 57, size := dfld d 0x18 0 32, w := true }]
  | 0x45 | 0x46 => [{ dva := dfld d 0x10 0 57, size := dfld d 0x18 0 32, r := true }]
  | 0x48 =>
    let size := dfld d 0x18 0 32
    let span := if dfld d 0x08 2 1 = 1
      then (size - 1) * dfld d 0x0E 0 16 + rowSize (dfld d 0x09 0 5) (dfld d 0x0C 0 16) else size
    [{ dva := dfld d 0x10 0 57, size := span, r := true }, { dva := dfld d 0x20 0 57, size := 256, r := true, w := true }] ++
      (if dfld d 0x08 1 1 = 1 then [{ dva := dfld d 0x28 0 57, size := 64, w := true }] else [])
  | 0x84 => [{ dva := dfld d 0x10 0 57, size := 256, w := true }]
  | _ => []

end Sys2Proof.Machine
end

