-- ==== Sys2Proof/Machine/Steps.lean ====
section
/-!
DEFINITION. The life of a step: its results, kills and acknowledgements, its end, its dispatch on tiles and engines, and
the Slot Arbiter (R62 to R69, R79 to R81, R166 to R168, R212, R440 to R446, R468).
-/
namespace Sys2Proof.Machine
open Sys2Proof

/-! ### Scopes (R62) -/

/-- Frame-scoped opcodes (R62). -/
def opFrame (op : Nat) : Bool := op = 0x44 || op = 0x47 || op = 0x84
/-- Opcodes that run on engines (R166). -/
def opEngine (op : Nat) : Bool := op = 0x41 || op = 0x42 || op = 0x43 || op = 0x47
/-- Opcodes of the work commands (R62, R366). -/
def opWork (op : Nat) : Bool := (0x40 ≤ op && op ≤ 0x48) || op = 0x84

/-- The command a step completes. -/
def refOf (t : Step) : CmdRef :=
  { queue := t.queue, index := t.index, ctx := t.ctx, opcode := t.opcode, cmpl := dfld t.raw 6 1 1 == 1,
    irq := dfld t.raw 6 2 1 == 1 }

/-- The bookings of a served step leave the ledger (R160). -/
def dropServed (t : Step) (s : State) : State :=
  match t.gather with
  | none => s
  | some (_, _) =>
    let mine := slotCharges t.part t.frame t.slot (chargeOf s (hClass s.ps.active t.part t.cls))
    { s with ac := { s.ac with served := mine.foldl (fun l b => l.erase b) s.ac.served } }

/-- A command names a job slot: a REMOTE_GATHER, or a DIGEST with NOTE (R405, R407, R447). -/
def namesJob (op : Nat) (d : Desc) (slot : Nat) : Bool :=
  (op == 0x47 && dfld d 0x0B 0 5 == slot) || (op == 0x48 && dfld d 0x08 3 1 == 1 && dfld d 0x0A 0 5 == slot)

/-- A command names a job slot of its partition that is in a given state. -/
def jobIn (s : State) (n op : Nat) (d : Desc) (st : JobState) : Bool :=
  (List.range 32).any fun j => namesJob op d j && (tget {} s.nu.jobs (pkey 5 n j)).state == st

/-- A Foanaosh message other than HELLO, HELLO_ACK and HEARTBEAT may leave for a peer: Foanaosh is enabled, the peer is UP,
the device is not halted (R68, R392, R414). -/
def foaUp (s : State) (c : Nat) : Bool := !s.cu.halted && s.nu.enable && (tget {} s.nu.peers c).state == .up

/-! ### Results -/

/-- What a step has met becomes its log and its flags (R67, R70). -/
def withSeen (v : Seen) (t : Step) : Step :=
  let eff := v.writes.map fun w => if isHost w.1 then Effect.hostWrite w.1 w.2 else Effect.write w.1 w.2
  let log := t.log ++ eff
  { t with log := log, range := t.range || v.range,
           skipped := t.skipped || v.skipped, fail := if t.fail.isSome then t.fail else v.fail,
           poisoned := t.poisoned || v.poison.isSome, poisonDpa := if t.poisoned then t.poisonDpa else v.poison.getD 0 }

/-- The export entry that a served step reads (R406, R408). -/
def exportOf (s : State) (n e : Nat) : Option ExportEnt := (tget {} s.nu.vfs n).exports[e]?

/-- The output of a REMOTE_GATHER once every part is in: each bag's partials merged and rounded once (R195, R410); a merge
that leaves the window fails with STATE_CONFLICT (R186). -/
def gatherOut (s : State) (t : Step) : Seen :=
  let c := poolCmd t.raw
  (List.range t.bags.length).foldl (fun v j =>
    match t.bags[j]? with
    | none => v
    | some (out, count, terms, cols) =>
      let mine := cols.map fun x => columnAcc x terms
      let parts := s.nu.merged.filter fun m => m.1 == t.id && m.2.1 == j
      let accs := parts.foldl (fun a m =>
        mergeAccs c.op a (m.2.2.1.map fun x => columnAcc x.2 m.2.2.2)) mine
      if !accsFit accs then v.failing .stateConflict
      else
        let v := { v with range := v.range || accs.any fun a => a.range }
        wrWin c.win out 64 (poolBytes c count accs) v) {}

/-- What a step's work gives: the step with its log and flags, what it met, and the bytes a DIGEST has hashed. -/
structure Result where
  step : Step
  seen : Seen := {}
  hashed : Option (List Byte) := none
  deriving DecidableEq, Repr

/-- What a finished step leaves in its log (R70): computed from committed memory. -/
def resultOf (s : State) (t : Step) : Result :=
  match t.opcode, t.gather with
  | 0x41, some (h, b) =>
    match exportOf s t.part b.exportNo with
    | none => { step := { t with fail := some .rights } }
    | some e =>
      let (accs, v) := runServed s t e b
      let back : FoaHead := { h with srcChip := h.dstChip, dstChip := h.srcChip, srcPart := h.dstPart, dstPart := h.srcPart,
                                     roleEpoch := h.srcEpoch, srcEpoch := h.roleEpoch }
      let body : ReplyBody := { tag := b.tag, elemFirst := 0, terms := b.index.length, columns := accs.map compress }
      let t := withSeen v t
      { step := { t with log := [.reply back body] }, seen := v }
  | 0x41, none => let v := runPool s t; { step := withSeen v t, seen := v }
  | 0x42, _ => let v := runPqscan s t; { step := withSeen v t, seen := v }
  | 0x43, _ =>
    let v := runUpdate s t
    let t := withSeen v t
    if v.skipped then { step := t, seen := v }
    else { step := { t with log := t.log ++ [.updateSeq (dfld t.raw 0x30 0 64)] }, seen := v }
  | 0x44, _ => let v := runCopy s t; { step := withSeen v t, seen := v }
  | 0x47, _ => let v := gatherOut s t; { step := withSeen v t, seen := v }
  | 0x48, _ =>
    let o := runDigest s t
    let t := withSeen o.seen t
    let more := match o.root with
      | none => []
      | some r =>
        let d := t.raw
        .measure (dfld d 0x1C 0 32) r :: (if dfld d 0x08 3 1 = 1
          then [.note (dfld d 0x0A 0 5) (dfld d 0x1C 0 32) (dfld d 0x30 0 48) r] else [])
    { step := { t with log := t.log ++ more }, seen := o.seen, hashed := some o.hashed }
  | 0x84, _ => { step := { t with log := [.ckptRecord (dfld t.raw 0x10 0 57)] } }
  | _, _ => { step := t }

/-- An engine's step that fails under R182 counts in LRE_BAD_INDEX (R219). -/
def countBad (t : Step) (v : Seen) (s : State) : State :=
  if opEngine t.opcode && v.bad then { s with lre := { s.lre with badIndex := satAdd 64 s.lre.badIndex 1 } } else s

/-- The lines that a step's work reads are read at their homes; true when they are all in (R259). -/
def readsIn (id : Nat) (s : State) : Bool × State :=
  match findStep s id with
  | none => (false, s)
  | some t => askLines id t.part (resultOf s t).seen.lines s

/-- The lookup tables of a scan's last round stay in the groups of its engines (R177, R205; log 124). -/
def loadLuts (us : List Nat) (luts : List (List Nat)) (s : State) : State :=
  (us.filterMap unitEngine).foldl (fun s e => modEngine e (fun x => { x with luts := lastRound luts }) s) s

/-- The step has done its work: its results enter its log. -/
def finishRun (id : Nat) (s : State) : State :=
  match findStep s id with
  | none => s
  | some t =>
    let r := resultOf s t
    let s := match r.hashed with
      | some bs => { s with fc := { s.fc with digestRuns := bs :: s.fc.digestRuns } }
      | none => s
    let s := if t.opcode = 0x42 then loadLuts t.units r.seen.luts s else s
    countBad t r.seen (modStep id (fun _ => { r.step with phase := .finished }) s)

/-! ### Units -/

/-- A unit still works for a step. -/
def unitHeld (s : State) (u : Nat) : Bool :=
  s.steps.any fun t => (t.phase == .running && t.units.contains u && !t.unitsDone.contains u) ||
    (t.phase == .killed && t.unacked.contains u)

/-- Groups of a step (R176, R192, R200): one for each bag and block of 128 output elements, one for each query, none for an
LRE_UPDATE. -/
def groupsIn (t : Step) : Nat :=
  match t.gather with
  | some (_, b) => ceilDiv b.dim 128
  | none =>
    if t.opcode = 0x43 then 0
    else if t.opcode = 0x42 then (bagList (dfld t.raw 0x08 4 1 == 1) t.members (dfld t.raw 0x0C 0 16)).length
    else (bagList (poolCmd t.raw).batch t.members (poolCmd t.raw).bags).length * ceilDiv (poolCmd t.raw).dim 128

/-- Groups of the steps on a unit. -/
def unitGroups (s : State) (u : Nat) : Nat :=
  ((s.steps.filter fun t => (t.phase == .running && t.units.contains u && !t.unitsDone.contains u) ||
    (t.phase == .killed && t.unacked.contains u)).map groupsIn).sum

/-- The engine's STATE and GROUPS after its shares changed (R217); how many groups, at most four, are in flight while several
could be is a free value (log 125). -/
def touchEngine (s : State) (u : Nat) : State :=
  match unitEngine u with
  | none => s
  | some e =>
    let x := engine s e
    if x.state = .fenced || x.state = .inReset then s
    else if unitHeld s u then
      let most := min 4 (unitGroups s u)
      let (g, s) := if most ≤ 1 then (most - 1, s) else fresh 2 s
      modEngine e (fun x => { x with state := .busy, groups := if most = 0 then 0 else g % most + 1 }) s
    else modEngine e (fun x => { x with state := .idle, groups := 0 }) s

/-- Every engine of a list touched. -/
def touchAll (us : List Nat) (s : State) : State := us.foldl touchEngine s

/-- An engine may be dispatched to: not fenced, not in reset (R442, R478). -/
def engineUp (s : State) (e : Nat) : Bool :=
  !s.fc.fenced.getLsbD e && !s.ps.newEngines.getLsbD e && (engine s e).state ≠ .inReset && (engine s e).state ≠ .fenced

/-- A tile takes steps: its fabric is present and it is not dead (R21, R270). -/
def tileUp (s : State) (t : Nat) : Bool := s.bnd.fabric.getLsbD t && !s.ps.newTiles.getLsbD t && !s.coh.dead.getLsbD t

/-- LC time placed on a unit in the present slot (R166). -/
def placedTime (s : State) (u : Nat) : Nat :=
  ((s.steps.filter fun t => !t.be && t.phase ≠ .queued && t.units.contains u && t.frame == s.tb.tick &&
    (t.slot == s.tb.slot || t.frameScoped)).map fun t =>
      let c := hClass s.ps.active t.part t.cls
      if t.frameScoped then c.fstepNs else c.stepNs).sum

/-! ### The end of a step -/

/-- The lines on which a step's atomics stand (R75). -/
def atomLines (t : Step) : List Nat := uniq (t.log.filterMap fun e => match e with
  | .atomic k _ _ _ => some k
  | _ => none)

/-- Items that waited for a step's atomics go on (R75, R79). -/
def wakeLines (t : Step) (s : State) : State := (atomLines t).foldl (fun s k => drainAll k s) s

/-- A step without references of its own: a template, a descriptor held by its program, or a served step (R325, R360). -/
def heldElsewhere (s : State) (t : Step) : Bool :=
  t.serve.isSome || t.gather.isSome ||
    ((queue s t.queue).kind ≠ .streaming && dfld t.raw 6 15 1 == 0 && (tfind (queue s t.queue).acceptedAt t.index).isSome)

/-- The step leaves with its references (R325). -/
def releaseStep (t : Step) (s : State) : State :=
  let held := heldElsewhere s t
  let s := touchAll t.units (dropServed t (dropStep t.id s))
  let s := { s with nu := { s.nu with out := s.nu.out.filter fun o => !(o.body.isSome && o.step == t.id),
                                      merged := s.nu.merged.filter fun m => m.1 ≠ t.id } }
  if held then s else dropRefs t.part t.objs s

/-- A NAK to the requester of a served step (R397). -/
def nakTo (h : FoaHead) (tag : Nat) (st : Status) (type epoch : Nat) (s : State) : State :=
  let back : FoaHead := { h with srcChip := h.dstChip, dstChip := h.srcChip, srcPart := h.dstPart, dstPart := h.srcPart,
                                 roleEpoch := h.srcEpoch, srcEpoch := h.roleEpoch }
  if !foaUp s h.srcChip then s
  else
    foaSend h.srcChip back (.nak tag st type epoch) { s with nu := { s.nu with naksSent := satAdd 64 s.nu.naksSent 1 } }

/-- A step's command completes (R81, R153, R365): its record is written, its batch members advance or fail, or its served
request is refused; a judge run writes nothing (R494). -/
def finishStep (t : Step) (d : Done) (s : State) : State :=
  let s := releaseStep t s
  if t.judge then s
  else
    match t.gather with
    | some (h, b) => if d.st = .ok then s else nakTo h b.tag d.st 0x10 0 s
    | none =>
      match t.serve with
      | some k =>
        let s := complete (refOf t) { d with detail := t.members.length } s
        if d.st = .ok then t.members.foldl (fun s i => advanceReq t.part k s i) s
        else t.members.foldl (fun s i => failReq t.part d.st s i) s
      | none => complete (refOf t) d s

/-! ### Kills (R79 to R81, R468) -/

/-- The step back in its queue, to run again from its start: a BE step as R167 has it, an LC step at the next slot start (R80; log
140). -/
def requeued (t : Step) : Step :=
  { t with phase := .queued, runB := [], second := [], units := [], unitsDone := [], unacked := [], why := .silent, log := [],
           poisoned := false, poisonDpa := 0, fail := none, unverified := [], range := false, skipped := false,
           waitTags := [], bags := [], frame := 0, slot := 0, rerun := t.be, atsWait := false,
           heldReads := false, asked := [], got := [], awaiting := false, counted := false }

/-- Every unit has acknowledged a kill: the step re-runs, completes or goes silently. -/
def endKill (id : Nat) (s : State) : State :=
  match findStep s id with
  | none => s
  | some t =>
    match t.why with
    | .rerun => modStep id requeued s
    | .complete st => finishStep t { st := st } s
    | .silent => releaseStep t s

/-- The strength of a kill's reason: a later, stronger one replaces an earlier one. -/
def whyRank : KillWhy → Nat
  | .rerun => 0
  | .complete _ => 1
  | .silent => 2

/-- STEP_KILL to a tile, a kill on the interconnect to an engine. -/
def sendKill (t : Step) (s : State) (u : Nat) : State :=
  match unitTile u with
  | some x => emit (.stepKill x t.id (domainGen s x)) s
  | none => emit (.unitKill u t.id) s

/-- A step is killed (R79). One whose slot's commit is in progress is left to that commit. -/
def killStep (why : KillWhy) (id : Nat) (s : State) : State :=
  match findStep s id with
  | none => s
  | some t =>
    match t.phase with
    | .queued => if why = .rerun then s else endKill id (modStep id (fun t => { t with why := why }) s)
    | .killed => modStep id (fun t => if whyRank t.why < whyRank why then { t with why := why } else t) s
    | _ =>
      if t.phase = .finished && s.cu.open_ = some (t.frame, t.slot) then s
      else
        let s := modStep id (fun x => { x with phase := .killed, log := [], why := why, unacked := t.units }) s
        let left := t.unverified.map fun b => (t.frame, t.slot, b.1, b.2)
        let s := { s with cu := { s.cu with blocks := s.cu.blocks ++ left } }
        let s := { s with nu := { s.nu with out := s.nu.out.filter fun o => !(o.body.isSome && o.step == id),
                                            merged := s.nu.merged.filter fun m => m.1 ≠ id } }
        let s := t.units.foldl (sendKill t) s
        let s := wakeLines t s
        if t.units = [] then endKill id s else touchAll t.units s

/-- A unit acknowledges the kill of a step (R468). -/
def ackKill (unit id : Nat) (s : State) : State :=
  match findStep s id with
  | none => s
  | some t =>
    if t.phase = .killed && t.unacked.contains unit then
      let left := t.unacked.filter fun u => u ≠ unit
      let s := touchEngine (modStep id (fun t => { t with unacked := left }) s) unit
      if left = [] then endKill id s else s
    else s

/-- Data that feeds a step is checked for parity at unit `u`: on an error the step is killed and runs again, once; a second one
completes it with KILLED (R439). The answer tells that the step has lost its data. -/
def stepParity (u id : Nat) (bad : Bool) (s : State) : Bool × State :=
  match findStep s id with
  | none => (false, s)
  | some t =>
    match parityCheck u (some t.part) bad s with
    | (none, s) => (false, s)
    | (some inj, s) =>
      let m : FMsg := { source := u, kind := 0, part := some t.part, ctx := t.ctx, queue := t.queue, op := t.opcode,
                        injected := inj }
      let why : KillWhy := if t.judge then .silent else if t.parityFails = 0 then .rerun else .complete .killed
      let s := modStep id (fun t => { t with parityFails := t.parityFails + 1 }) s
      (true, killStep why id (if t.parityFails = 0 then reportParity 0x0A m s else reportParity 0x0B { m with status := .killed } s))

/-! ### Dispatch (R166) -/

/-- A unit holds no LC step in the present slot (R166, R167). -/
def noLc (s : State) (u : Nat) : Bool :=
  !s.steps.any fun t => !t.be && t.phase ≠ .queued && t.units.contains u && t.frame == s.tb.tick &&
    (t.slot == s.tb.slot || t.frameScoped)

/-- A unit may take a step: any for LC, a free one for BE, and one without LC work for a re-run (R166, R167). -/
def unitFits (s : State) (be rerun : Bool) (u : Nat) : Bool := (!be || !unitHeld s u) && (!rerun || noLc s u)

/-- A REMOTE_GATHER's shard list, its bags split by shard with their local parts reduced, and what reading them has met
(R407, R408). -/
def splitBags (s : State) (t : Step) : List Shard × List GatherBag × Seen :=
  let c := poolCmd t.raw
  let (shards, v) := shardList s t {}
  let (bags, v) := (bagList c.batch t.members c.bags).foldl (fun (acc : List GatherBag × Seen) j =>
    let (b, v) := gatherBag s t shards j acc.2
    (acc.1 ++ [b], v)) ([], v)
  (shards, bags, v)

/-- The lines of the table rows that a step reads or rewrites, as memory holds its lists now. -/
def rowLines (s : State) (t : Step) : List Nat :=
  if t.opcode = 0x47 then (splitBags s t).2.2.rows else (resultOf s t).seen.rows

/-- The slices of a hand that home the rows a step reads (R98, R166); all of its slices where the step reads none (log 37). -/
def rowSlices (s : State) (t : Step) : List Nat :=
  let own := sliceList s.ps.active t.part
  let homes := (rowLines s t).map fun k => sliceOf (linePc k)
  let l := own.filter fun sl => homes.contains sl
  if l = [] then own else l

/-- The engines on which an engine step may run now, slice by slice of those that home its rows: all in service for LC, the free
ones for BE; none when some such slice has no such engine (R98, R166, R442). -/
def engineSet (s : State) (t : Step) : Option (List Nat) :=
  let per := (rowSlices s t).map fun sl =>
    (enginesIn s.ps.active t.part sl).filter fun e => engineUp s e && unitFits s t.be t.rerun (engineUnit e)
  if per.any fun l => l = [] then none else some (per.flatten.map engineUnit)

/-- An engine step can never run in a slice that homes its rows: its hand holds no unfenced engine there (R442). -/
def engineless (s : State) (t : Step) : Bool :=
  opEngine t.opcode && (rowSlices s t).any fun sl =>
    ((enginesIn s.ps.active t.part sl).filter fun e => !s.fc.fenced.getLsbD e) = []

/-- The tile on which a tile step of a hand runs now: the least placed LC time first for LC, a free one for BE (R166). -/
def pickTile (s : State) (n : Nat) (be rerun : Bool) : Option Nat :=
  let l := (bitList (hTiles s.ps.active n)).filter fun t => tileUp s t && unitFits s be rerun (tileUnit t)
  if be then l.head?.map tileUnit else (leastBy (fun t => placedTime s (tileUnit t)) l).map tileUnit

/-- The units a step would take now. -/
def unitsFor (s : State) (t : Step) : Option (List Nat) :=
  if t.opcode = 0x40 then (pickTile s t.part t.be t.rerun).map fun u => [u]
  else if opEngine t.opcode then engineSet s t
  else some []

/-- A step is held: an LRE_UPDATE of the same table was dispatched in the present slot (R212), or the job it names is
ABORTING (R405). -/
def updateHeld (s : State) (t : Step) : Bool :=
  (t.opcode == 0x43 && s.lre.slotUpdates.contains (t.part, dfld t.raw 0x10 0 57)) ||
    (t.gather.isNone && jobIn s t.part t.opcode t.raw .aborting)

/-- A GATHER_REQ leaves and waits for its answer (R399, R408). -/
def sendGather (t : Step) (job : Job) (bag : Nat) (sh : Shard) (l : List (Nat × Nat)) (s : State) : State :=
  match job.list[sh.member]? with
  | none => modStep t.id (fun t => { t with fail := some .stateConflict }) s
  | some m =>
    let c := poolCmd t.raw
    let tag := s.nu.nextTag % 2 ^ 32
    let h : FoaHead := { version := (tget {} s.nu.peers m.chip).version, rsv := false, srcChip := s.nu.chipId,
                         dstChip := m.chip, srcPart := t.part, dstPart := m.part, roleEpoch := m.epoch,
                         srcEpoch := tget 0 s.ps.epochs t.part, jobId := job.id, jobGen := job.gen }
    let b : GatherBody := { tag := tag, op := c.op, exportNo := sh.exportNo, dim := c.dim, execTick := s.tb.tick,
                            index := l.map fun p => p.1, weight := if c.op = 2 then l.map fun p => p.2 else [], rsv := false }
    let o : OutReq := { tag := tag, head := h, body := some b, chip := m.chip, step := t.id, bag := bag }
    let s := { s with nu := { s.nu with out := s.nu.out ++ [o], nextTag := s.nu.nextTag + 1 } }
    let s := foaSend m.chip h (.gatherReq b) s
    modStep t.id (fun t => { t with waitTags := t.waitTags ++ [tag] }) s

/-- A list cut into runs of at most `k` (R408); `fuel` bounds the runs. -/
def runsOf {α : Type} (k : Nat) : Nat → List α → List (List α)
  | 0, _ => []
  | fuel + 1, l => if l.length = 0 then [] else l.take k :: runsOf k fuel (l.drop k)

/-- The start of a REMOTE_GATHER (R408): once its lines are in, its bags are split, its local parts reduced and its requests
sent; a LOST peer ends it with PEER_LOST, one otherwise not UP with STATE_CONFLICT (R394). -/
def startGather (t : Step) (s : State) : State :=
  let slot := dfld t.raw 0x0B 0 5
  let job := tget {} s.nu.jobs (pkey 5 t.part slot)
  let c := poolCmd t.raw
  let (shards, bags, seen) := splitBags s t
  let v := (shardList s t {}).2
  let (all, s) := askLines t.id t.part seen.lines s
  if !all then s
  else
    let s := modStep t.id (fun t => { t with heldReads := false }) s
    let v := if shards.any (fun x => x.rsv) then v.failing .reservedNonzero
      else if !shardsOk shards then v.failing .stateConflict
      else
        let states := (shards.filter fun x => x.member ≠ 0x1FFF).map fun x =>
          (job.list[x.member]?).map fun m => (tget {} s.nu.peers m.chip).state
        if states.any fun x => x == some .lost then v.failing .peerLost
        else if states.any fun x => x != some .up then v.failing .stateConflict
        else v
    if v.fail.isSome then countBad t v (modStep t.id (withSeen v) s)
    else
      let v := seen
      let keep := bags.map fun b => (b.out, b.count, ((b.mine.map fun a => a.terms).headD 0), b.mine.map compress)
      let s := countBad t v (modStep t.id (fun t => { withSeen v t with bags := keep }) s)
      if v.fail.isSome then s
      else
        let k := if c.op = 2 then 680 else 1021
        (List.range bags.length).foldl (fun s j =>
          match bags[j]? with
          | none => s
          | some b => b.parts.foldl (fun s p =>
              (runsOf k (p.2.length + 1) p.2).foldl (fun s l => sendGather t job j p.1 l s) s) s) s

/-- A COPY's blocks pass the CRC check of their destination slices, unless an injection inverts one (R434, R437). -/
def crcOk (t : Step) (s : State) : Bool × State :=
  let dst := dfld t.raw 0x10 0 57
  if isHost dst then (true, s)
  else
    (tensorBlocks dst (dfld t.raw 0x18 0 32)).foldl (fun (acc : Bool × State) b =>
      match (xlatDpa t.xlats (dst + b.1)).bind (homeLine acc.2 t.part) with
      | none => acc
      | some k =>
        let u := sliceUnit (sliceOf (linePc k))
        let (bad, s) := injected 8 u (some t.part) acc.2
        if bad then
          let s := report { source := u, kind := if t.crcFails = 0 then 0x08 else 0x09,
                            address := memLoc (linePc k) (64 * lineNo k), detail := ((xlatDpa t.xlats (dst + b.1)).getD 0),
                            part := some t.part, ctx := t.ctx, queue := t.queue, op := t.opcode, injected := true } s
          (false, s)
        else (acc.1, s)) (true, s)

/-- The resident or new line of each 64 bytes of a PREFETCH or ADVISE range. -/
def hintLines (s : State) (t : Step) : List (Nat × Nat) :=
  (List.range (dfld t.raw 0x18 0 32 / 64)).filterMap fun i =>
    (xlatDpa t.xlats (dfld t.raw 0x10 0 57 + 64 * i)).bind fun d => (homeLine s t.part d).map fun k => (d, k)

/-- A PREFETCH reads a line that is not resident, once; the fill is dropped where it would take a write-back (R346). -/
def prefetchLine (id n : Nat) (s : State) (x : Nat × Nat) : State :=
  if (findStep s id).any fun t => t.got.contains x.2 then s
  else
    match (llc s x.2).hstate, fillWay s n x.2 (pickWay s n x.2) with
    | .i, some _ => askLine id n s (x.2, x.1)
    | _, _ => modStep id (fun t => { t with got := x.2 :: t.got }) s

/-- A PREFETCH ends once every line of its range is resident or its fill was dropped; a refused key ID fails it (R295, R346). -/
def runPrefetch (t : Step) (s : State) : State :=
  let l := hintLines s t
  let s := l.foldl (prefetchLine t.id t.part) s
  let waits := (findStep s t.id).any fun t => t.asked ≠ []
  if waits then modStep t.id (fun t => { t with awaiting := true }) s
  else
    let ok := l.all fun x => keyCheck s (linePc x.2) (lineNo x.2) (dpaKey x.1) ≠ .refuse
    finishStep t { st := if ok then .ok else .rights } (modStep t.id (fun t => { t with awaiting := false }) s)

/-- ADVISE (R346). -/
def runAdvise (t : Step) (s : State) : State :=
  (hintLines s t).foldl (fun s p =>
    let l := llc s p.2
    if l.hstate = .i then s
    else
      match dfld t.raw 0x08 0 2 with
      | 1 => retainLine t.part p.2 s
      | 2 => setLlc p.2 { l with mark := .evictFirst } s
      | _ => setLlc p.2 { l with mark := .normal } s) s

/-- A COPY whose lines are in passes its CRC checks, once more after a first failure; a second one completes it with KILLED
(R438). -/
def endCopy (t : Step) (s : State) : State :=
  let (ok, s) := crcOk t s
  if ok then finishRun t.id s
  else if t.crcFails ≠ 0 then finishStep t { st := .killed } s
  else
    let (ok, s) := crcOk { t with crcFails := 1 } (modStep t.id (fun t => { t with crcFails := 1 }) s)
    if ok then finishRun t.id s else finishStep t { st := .killed } s

/-- A step that needs no unit runs to its end once its lines are in (log 23); PREFETCH and ADVISE have no commit (R62). -/
def runAtOnce (id : Nat) (s : State) : State :=
  match findStep s id with
  | none => s
  | some t =>
    if t.opcode = 0x45 then runPrefetch t s
    else if t.opcode = 0x46 then finishStep t { st := .ok } (runAdvise t s)
    else
      match readsIn id s with
      | (false, s) => s
      | (true, s) =>
        let s := modStep id (fun t => { t with heldReads := false }) s
        if t.opcode = 0x44 then endCopy t s else finishRun id s

/-- The host-window range of a COPY, with the right it needs (R321). -/
def hostRangeOf (d : Desc) : List Rng :=
  let size := dfld d 0x18 0 32
  let src := dfld d 0x08 0 57
  let dst := dfld d 0x10 0 57
  if isHost src then [{ dva := src, size := size, r := true }]
  else if isHost dst then [{ dva := dst, size := size, w := true }]
  else []

/-- A COPY has lost its host-window translation (R331). -/
def lostHost (s : State) (t : Step) : Bool :=
  t.opcode == 0x44 && tget false s.bnd.atsEnable t.part &&
    (hostRangeOf t.raw).any fun g => (atcHit s (.vf t.part) g).isNone

/-- The COPY asks for its host-window translation again (R331). -/
def askHost (t : Step) (s : State) : State :=
  (hostRangeOf t.raw).foldl (fun s g =>
    emit (.ats (.vf t.part) (g.dva % 2 ^ 56) g.size) { s with tu := { s.tu with atsRequests := satAdd 64 s.tu.atsRequests 1 } })
    (modStep t.id (fun t => { t with atsWait := true }) s)

/-- The reads that stand at a step's start: a REMOTE_GATHER splits its bags, a step without units runs. -/
def startReads (id : Nat) (s : State) : State :=
  match findStep s id with
  | none => s
  | some t => if t.opcode = 0x47 then startGather t s else runAtOnce id s

/-- A running step goes on: its first reads, and once every share is done and every reply merged, its end. While a commit is
in progress its reads wait (R71), and on a halted device it stands (R68). A judge run's effects are discarded (R494). -/
def tryFinish (id : Nat) (s : State) : State :=
  match findStep s id with
  | none => s
  | some t =>
    if t.phase ≠ .running || t.opcode = 0x40 || t.atsWait || s.cu.open_.isSome || s.cu.halted then s
    else if t.heldReads then startReads id s
    else if t.units = [] || t.units.any (fun u => !t.unitsDone.contains u) || t.waitTags ≠ [] then s
    else if t.judge then touchAll t.units (dropStep id s)
    else
      match readsIn id s with
      | (false, s) => s
      | (true, s) => finishRun id s

/-- A dispatched step has reads to make at its start. -/
def readsNow (id : Nat) (s : State) : State := tryFinish id (modStep id (fun t => { t with heldReads := true }) s)

/-- Steps whose awaited lines are in go on (R259). -/
def goOn (s : State) : State :=
  (s.steps.filter fun t => t.awaiting && t.asked = []).foldl (fun s t => tryFinish t.id s) s

/-- A translation of a step fails under the hand that is active (R332). -/
def xlatStale (s : State) (t : Step) : Bool := t.xlats.any fun x => !reaches s.ps.active t.part x.frame x.keyId

/-- Of a redundant step's units: how many stand before one in its slice, and how many the slice has. -/
def placeIn (us : List Nat) (u : Nat) : Nat × Nat :=
  let mine := us.filter fun v => (unitEngine v).map (· / 8) == (unitEngine u).map (· / 8)
  ((mine.filter fun v => v < u).length, mine.length)

/-- The upper half of each slice's engines (R445): of an odd number it has one more than the lower. -/
def upperHalf (us : List Nat) : List Nat := us.filter fun u => let (i, k) := placeIn us u; k ≠ 1 && k / 2 ≤ i

/-- Engines alone in their slice, which run A and then B (R445). -/
def aloneUnits (us : List Nat) : List Nat := us.filter fun u => (placeIn us u).2 == 1

/-- The units of run B: the upper halves, and the lower ones once a mismatch has exchanged them (R445, R446). -/
def runBOf (t : Step) (us : List Nat) : List Nat :=
  if t.mismatches = 0 then upperHalf us else us.filter fun u => !(upperHalf us).contains u && !(aloneUnits us).contains u

/-- A step as it runs on its units from the present slot (R166, R445). -/
def onUnits (t : Step) (units : List Nat) (s : State) : Step :=
  let red := (t.opcode = 0x41 || t.opcode = 0x42 || t.opcode = 0x43) && bitAt (tget 0 s.fc.redNow t.part) t.cls
  { t with phase := .running, rerun := false, units := units, unitsDone := [], frame := s.tb.tick,
           slot := if t.frameScoped then 15 else s.tb.slot, redundant := red,
           runB := if red then runBOf t units else [], second := if red then aloneUnits units else [] }

/-- A running step is entered: its hand was used in the frame, an update's table in the slot, and its engines are taken (R217,
R534). -/
def enterStep (t : Step) (s : State) : State :=
  let s := modStep t.id (fun _ => t) s
  let s := { s with tc := { s.tc with hr := tmod {} s.tc.hr t.part fun p => { p with usedNow := true } } }
  touchAll t.units (if t.opcode = 0x43
    then { s with lre := { s.lre with slotUpdates := (t.part, dfld t.raw 0x10 0 57) :: s.lre.slotUpdates } } else s)

/-- What a running step does first: it fails its checks at dispatch, is sent to its tile, asks for its host range, or reads. -/
def launchStep (t : Step) (s : State) : State :=
  if t.stale || xlatStale s t then finishStep t { st := .rights } s
  else if t.opcode = 0x47 && (!s.tb.locked || (tget {} s.nu.jobs (pkey 5 t.part (dfld t.raw 0x0B 0 5))).state ≠ .active) then
    finishStep t { st := .stateConflict } s
  else if t.opcode = 0x40 then
    t.units.foldl (fun s u => match unitTile u with
      | some x => emit (.stepDispatch x t.id (domainGen s x) (dfld t.raw 0x08 0 57) t.ranges (leBytes (dfld t.raw 0x20 0 240) 30)) s
      | none => s) s
  else if t.opcode ≠ 0x47 && lostHost s t then askHost t s
  else if t.opcode = 0x47 || t.units = [] then readsNow t.id s
  else s

/-- A step is dispatched on its units in the present slot (R166). -/
def startStep (t : Step) (units : List Nat) (s : State) : State :=
  let t := onUnits t units s
  launchStep t (enterStep t s)

/-! ### Order within a queue (R361) -/

/-- A command of the queue accepted before `order` has not completed. -/
def earlierOpen (s : State) (q order : Nat) : Bool :=
  (s.steps.any fun t => t.queue == q && t.gather.isNone && t.order < order) ||
    (s.qu.signals.any fun g => g.ref.queue == q && !g.gone && g.order < order)

/-- The first queued work command of a queue, if it may be dispatched now (R361); one that re-runs waits for the start of
a slot and holds back what follows it (R80, R167). -/
def nextStep (s : State) (q : Nat) : Option Step :=
  match leastBy (fun t => t.order) (s.steps.filter fun t => t.queue == q && t.phase == .queued && t.gather.isNone && t.be) with
  | none => none
  | some t => if t.rerun || (dfld t.raw 6 3 1 = 1 && earlierOpen s q t.order) then none else some t

/-- The queue's dispatch is stopped: its context is a suspect of the running replay (R493), or it is no longer live. -/
def dispatchStopped (s : State) (q : Nat) : Bool :=
  let x := queue s q
  !x.live || x.state == .destroying || s.rc.replay.any fun r => r.todo.any fun p => p.part == x.part && p.ctx == x.owner

/-! ### Templates (R164 to R168, R367, R371) -/

/-- The raw descriptor of a template at a dispatch, its quadword patched (R360, R367). -/
def patched (q : Queue) (raw : Desc) : Desc :=
  if dfld raw 6 15 1 = 1 then
    let off := 64 * dfld raw 6 12 3
    BitVec.ofNat 512 (setFld raw.toNat off 64 (tget 0 q.params (dfld raw 6 8 4)))
  else raw

/-- A step made from a template for its members. -/
def templateStep (s : State) (q : Nat) (x : Queue) (tp : Template) (members : List Nat) (be : Bool) : Step :=
  { id := s.nextId, queue := q, part := x.part, ctx := dfld tp.raw 4 0 16, opcode := dfld tp.raw 0 0 8, index := tp.pos,
    raw := patched x tp.raw, cls := x.cls, be := be, frameScoped := opFrame (dfld tp.raw 0 0 8), serve := some tp.step,
    members := members, xlats := tp.xlats, ranges := tp.ranges, objs := objsOf tp.xlats, order := s.nextId, frame := s.tb.tick, slot := s.tb.slot }

/-- Held translations grant a range its rights, page by page; `fuel` bounds the pages. -/
def coveredBy (xs : List Xlat) (g : Rng) (dva : Nat) : Nat → Bool
  | 0 => false
  | fuel + 1 =>
    match xs.find? fun x => x.dva ≤ dva && dva < x.dva + x.size with
    | none => false
    | some x =>
      (!g.r || x.r) && (!g.w || x.w) && (g.dva + g.size ≤ x.dva + x.size || coveredBy xs g (x.dva + x.size) fuel)

/-- A template fails at its dispatch: its context is lost or has been revoked (R334), or, where it carries PATCH, its patched
descriptor breaks check 5 of R359 or names a range that the translations taken at its acceptance do not grant (R360, R367; log
136). -/
def templateFails (s : State) (x : Queue) (tp : Template) : Option Status :=
  let raw := patched x tp.raw
  let op := dOpcode raw
  if tp.gone || isLost s x.part (dCtx raw) then some .contextLost
  else if !dPatch raw then none
  else if !reservedOk op (2 ^ x.ringLog2) raw then some .reservedNonzero
  else if (rangesOf op raw).any fun g => !isHost g.dva && !coveredBy tp.xlats g g.dva (tp.xlats.length + 1) then some .rights
  else none

/-- A template that carries PATCH is accepted again at each dispatch (R360). -/
def acceptAgain (tp : Template) (s : State) : State :=
  if dPatch tp.raw then { s with qu := { s.qu with accepts := satAdd 64 s.qu.accepts 1 } } else s

/-- Whether the partition's batch area takes a batch list (R164). -/
def batchOk (s : State) (n : Nat) : Bool :=
  let base := tget 0 s.rie.batchBase n
  base ≠ 0 && (tget [] s.rie.areaXlat n).any fun x => x.dva == base && x.size == 2 ^ 25 && x.r && x.w

/-- A batch list (R164). -/
def batchBytes (s : State) (members : List Nat) : List Byte :=
  leBytes members.length 4 ++ leBytes 0 4 ++ leBytes s.tb.tick 8 ++ leBytes s.tb.slot 1 ++ List.replicate 47 0 ++
    members.flatMap fun i => leBytes i 2

/-- The batch list of a step is written; false where the area is unset, unmapped or not writable, or the write is refused
(R164). -/
def writeBatch (n c k : Nat) (members : List Nat) (s : State) : Bool × State :=
  if !batchOk s n then (false, s)
  else storeDva n (tget [] s.rie.areaXlat n) (tget 0 s.rie.batchBase n + (32 * c + k) * 65536) (batchBytes s members) false none s

/-- A step of the list made and taken into account (R371, R467). -/
def addStep (t : Step) (s : State) : State :=
  let s := { s with steps := s.steps ++ [t], nextId := s.nextId + 1 }
  modQueue t.queue (fun x => { x with reserved := x.reserved + 1, outstanding := x.outstanding + 1 }) s

/-- A queued step of LC work is dispatched, held by R212, waits while no tile of its hand can take it (R21), or completes with
KILLED when a slice has no engine for it (R442). -/
def startLc (id : Nat) (s : State) : State :=
  match findStep s id with
  | none => s
  | some t =>
    if updateHeld s t then s
    else
      match unitsFor s t with
      | some us => startStep t us s
      | none => if t.opcode = 0x40 then s else finishStep t { st := .killed } s

/-- The LC step of a template in the present slot (R164, R166, R371): without a free record slot its members fail with
KILLED and nothing is dispatched; without a batch area the command completes with RIGHTS. -/
def runTemplate (q : Nat) (tp : Template) (s : State) : State :=
  let x := queue s q
  let m := lcMembers s x.part x.cls tp.step s.tb.tick s.tb.slot
  if m = [] then s
  else if !slotFree x then m.foldl (fun s i => failReq x.part .killed s i) s
  else
    let t := templateStep s q x tp m false
    match templateFails s x tp with
    | some st => finishStep t { st := st } (addStep t s)
    | none =>
    match writeBatch x.part x.cls tp.step m (acceptAgain tp (addStep t s)) with
    | (false, s) => finishStep t { st := .rights } s
    | (true, s) => startLc t.id s

/-- The templates of a partition's LC classes with members in the present slot, each with the order of its first member; the
classes of a queue that no longer serves are left out (R166, R168). -/
def templatesDue (s : State) (n : Nat) : List (Nat × Nat × Template) :=
  let qs := s.qu.qs.filter fun p => p.2.live && p.2.kind == .intake && p.2.part == n && p.2.state ≠ .lost &&
    !(hClass s.ps.active n p.2.cls).be
  qs.flatMap fun p => p.2.templates.filterMap fun tp =>
    let m := lcMembers s n p.2.cls tp.step s.tb.tick s.tb.slot
    let orders := m.filterMap fun i => (findReq s n i).map fun r => r.order
    if m = [] then none else some (orders.foldl min (orders.headD 0), p.1, tp)

/-- The BE template of an intake queue that is due: the lowest step with members, none of its class's step running. -/
def nextTemplate (s : State) (x : Queue) : Option (Template × List Nat) :=
  (x.templates.findSome? fun tp =>
    let m := beMembers s x.part x.cls tp.step
    if m = [] || s.steps.any (fun t => t.part == x.part && t.cls == x.cls && t.serve == some tp.step) then none
    else some (tp, m))

/-! ### BE work (R166, R167) -/

/-- What a BE queue could dispatch now. -/
inductive BeNext where
  | step (t : Step) (units : List Nat)
  | tmpl (tp : Template) (m : List Nat) (units : List Nat)
  deriving DecidableEq, Repr

/-- The next BE dispatch of a queue with the units it would take. -/
def beReady (s : State) (q : Nat) : Option BeNext :=
  let x := queue s q
  if dispatchStopped s q then none
  else
    match nextStep s q with
    | some t => if updateHeld s t then none else if engineless s t then some (.step t []) else (unitsFor s t).map fun us => .step t us
    | none =>
      if x.kind ≠ .intake || x.state = .lost || !slotFree x || !(hClass s.ps.active x.part x.cls).be ||
          s.steps.any (fun t => t.queue == q && t.rerun && t.serve.isSome) then none
      else
        match nextTemplate s x with
        | none => none
        | some (tp, m) =>
          let t := templateStep s q x tp m true
          if (templateFails s x tp).isSome then some (.tmpl tp m [])
          else if updateHeld s t then none
          else if engineless s t then some (.tmpl tp m [])
          else (unitsFor s t).map fun us => .tmpl tp m us

/-- The BE-ready queue of a partition with the largest credit, on a tie the lowest number (R166). -/
def pickQueue (s : State) (n : Nat) : Option (Nat × BeNext) :=
  let l := (s.qu.qs.filter fun p => p.1 < 1024 && p.2.live && p.2.part == n).filterMap fun p =>
    (beReady s p.1).map fun b => (p.1, p.2.credit, b)
  match l.foldl (fun (best : Option (Nat × Int × BeNext)) c =>
      match best with
      | none => some c
      | some b => if b.2.1 < c.2.1 then some c else some b) none with
  | none => none
  | some c => some (c.1, c.2.2)

/-- A BE step starts on its units; one that no engine of its hand can run completes with KILLED (R442). -/
def startOrEnd (t : Step) (us : List Nat) (s : State) : State :=
  if us = [] && opEngine t.opcode then finishStep t { st := .killed } s else startStep t us s

/-- One BE dispatch of a queue and its charge (R166). -/
def dispatchBe (q : Nat) (b : BeNext) (s : State) : State :=
  let x := queue s q
  let s := match b with
    | .step t us => startOrEnd t us s
    | .tmpl tp m us =>
      let t := templateStep s q x tp m true
      match templateFails s x tp with
      | some st => finishStep t { st := st } (addStep t s)
      | none => startOrEnd t us (acceptAgain tp (addStep t s))
  let cost := infl s (hClass s.ps.active x.part x.cls).stepNs
  modQueue q (fun x => { x with credit := x.credit - cost }) s

/-- The time to the slot end is at least SA_BE_MIN_NS (R166). -/
def beTime (s : State) : Bool :=
  s.ac.beMinNs ≤ nextEdge s.tb - s.tb.now

/-- BE work of a partition is dispatched while a queue is ready; `fuel` bounds the dispatches (R166). -/
def startBe (n : Nat) : Nat → State → State
  | 0, s => s
  | fuel + 1, s =>
    if s.ps.hold.getLsbD n || s.ps.newParts.getLsbD n || s.rc.inReset.getLsbD n || !beTime s || s.cu.halted then s
    else
      match pickQueue s n with
      | none => s
      | some (q, b) => startBe n fuel (dispatchBe q b s)

/-- BE work of a partition, as far as its queues and units go. -/
def fillBe (n : Nat) (s : State) : State :=
  startBe n (s.steps.length + 20 * (s.qu.qs.filter fun p => p.2.live && p.2.part == n).length + 1) s

/-- LC steps of a partition that are made and due: held ones, served ones, those that wait for a tile (R21, R212, R408). -/
def stepsDue (s : State) (n : Nat) : List Step :=
  s.steps.filter fun t => t.part == n && !t.be && t.phase == .queued &&
    (t.frame < s.tb.tick || (t.frame == s.tb.tick && t.slot ≤ s.tb.slot))

/-- Those of them are started. -/
def startDue (n : Nat) (s : State) : State := (stepsDue s n).foldl (fun s t => startLc t.id s) s

/-- One piece of LC work that is due: a step that is made, or a template. -/
inductive LcWork where
  | made (id : Nat)
  | serve (q : Nat) (tp : Template)
  deriving DecidableEq, Repr

/-- The LC work of a partition at a slot start, in booking order (R166). -/
def startLcAll (n : Nat) (s : State) : State :=
  let l := (stepsDue s n).map (fun t => (t.order, LcWork.made t.id)) ++
    (templatesDue s n).map fun x => (x.1, LcWork.serve x.2.1 x.2.2)
  (sortBy (fun x => x.1) l).foldl (fun s x =>
    match x.2 with
    | .made id => startLc id s
    | .serve q tp => if dispatchStopped s q then s else runTemplate q tp s) s

/-- The re-runs of a partition at a slot start, oldest first; none while the partition is on hold (R113, R166, R167). -/
def startReruns (n : Nat) (s : State) : State :=
  if s.ps.hold.getLsbD n || s.ps.newParts.getLsbD n || s.cu.halted then s
  else
    let l := sortBy (fun t => t.order) (s.steps.filter fun t => t.part == n && t.be && t.phase == .queued && t.rerun)
    l.foldl (fun s t =>
      if dispatchStopped s t.queue || updateHeld s t then s
      else if engineless s t then finishStep t { st := .killed } s
      else
        match unitsFor s t with
        | some us => startStep t us s
        | none => s) s

/-- The Slot Arbiter at a slot start (R166). -/
def arbitrate (s : State) : State :=
  (hands s.ps.active).foldl (fun s n =>
    if s.rc.inReset.getLsbD n then s else fillBe n (startReruns n (startLcAll n s))) s

end Sys2Proof.Machine
end

