-- ==== Sys2Proof/Machine/Reset.lean ====
section
/-!
DEFINITION. The Recovery Controller: resets of contexts, engines, partitions and stock tiles, destroyed queues and revoked
contexts, captures' beginnings, replays, and what follows a command at once: lost contexts and waiting resets (R334, R344,
R368, R376, R377, R466 to R482, R493, R494).
-/
namespace Sys2Proof.Machine
open Sys2Proof

/-! ### Waiters and signals (R342 to R344) -/

/-- DETAIL of a WAIT_SYNC: ERROR and VALUE as observed (R369). -/
def observed (o : SyncObj) : Nat := b2n o.error * 2 ^ 63 + o.value

/-- A wait ends: its record carries what it observed (R342, R369). -/
def endWait (n q : Nat) (w : Wait) (s : State) : State :=
  let o := syncObj s n w.obj
  let s := modQueue q (fun x => { x with waiting := none }) s
  let s := complete w.ref { st := if o.error then .contextLost else .ok, detail := observed o } s
  touchQueue q (if w.held then s else dropSyncRef n w.obj s)

/-- Every waiter whose target the object's VALUE has reached is woken (R342, R343). -/
def wakeWaiters (n j : Nat) (s : State) : State :=
  let v := (syncObj s n j).value
  s.qu.qs.foldl (fun s p =>
    match p.2.waiting with
    | some w => if p.2.part = n ∧ w.obj = j ∧ w.target ≤ v then endWait n p.1 w s else s
    | none => s) s

/-- VALUE raised, ERROR possibly set, waiters woken (R343). -/
def raiseSync (n j v : Nat) (err : Bool) (s : State) : State :=
  let o := syncObj s n j
  wakeWaiters n j (setSync n j { o with value := min v (2 ^ 63 - 1), error := o.error || err || 2 ^ 63 ≤ v } s)

/-- A signal takes effect at its commit (R343). -/
def applySignal (g : Signal) (s : State) : State :=
  let o := syncObj s g.part g.obj
  let v := if g.add then o.value + g.operand else max o.value g.operand
  let s := if o.state = .free then s else raiseSync g.part g.obj v false s
  let s := complete g.ref { st := .ok } s
  if g.held then s else dropSyncRef g.part g.obj s

/-- VALUE as an object's promises leave it (R344). -/
def promised (s : State) (n j : Nat) : Nat :=
  let o := syncObj s n j
  let l := s.qu.signals.filter fun g => g.part == n && g.obj == j
  let sets := (l.filter fun g => !g.add).map fun g => g.operand
  let adds := ((l.filter fun g => g.add).map fun g => g.operand).sum
  max (sets.foldl max o.value) (min (o.value + adds) (2 ^ 63 - 1))

/-- The synchronisation objects of a partition that are not FREE, of one owner or of all. -/
def syncsOf (s : State) (n : Nat) (owner : Option Nat) : List Nat :=
  (s.tu.syncs.filter fun p => p.1 / 2 ^ 17 == n && p.2.state ≠ .free && owner.all fun c => p.2.owner == c).map
    fun p => p.1 % 2 ^ 17

/-- R344 for synchronisation objects: advanced, errored, waiters woken, HOST_REFS zero unless kept. -/
def advanceSyncs (n : Nat) (owner : Option Nat) (keep : Bool) (s : State) : State :=
  (syncsOf s n owner).foldl (fun s j =>
    let s := raiseSync n j (promised s n j) true s
    if keep then s else countSync n j { syncObj s n j with hostRefs := 0 } s) s

/-- R344 for memory objects: HOST_REFS zero. -/
def dropOwned (n c : Nat) (s : State) : State :=
  let l := (s.tu.objs.filter fun p => p.1 / 2 ^ 20 == n && p.2.owner == c && p.2.state ≠ .free).map fun p => p.1 % 2 ^ 20
  l.foldl (fun s j => countObj n j { memObj s n j with hostRefs := 0 } s) s

/-! ### Discarding commands -/

/-- A wait of a queue is discarded silently; its reference stays held. -/
def loseWait (q : Nat) (s : State) : State :=
  if (queue s q).waiting.isNone then s
  else unreserve q (modQueue q (fun x => { x with waiting := none, outstanding := x.outstanding - 1 }) s)

/-- The object whose reference a queue's wait holds for itself. -/
def waitRef (s : State) (q : Nat) : Option Nat := ((queue s q).waiting.filter fun w => !w.held).map fun w => w.obj

/-- A held miss or wait of a queue leaves, with a status for its record or silently. -/
def dropHeld (q : Nat) (st : Option Status) (s : State) : State :=
  let x := queue s q
  let s := match x.waiting with
    | none => s
    | some w =>
      let seen := observed (syncObj s x.part w.obj)
      let s := match st with
        | some st => complete w.ref { st := st, detail := seen } (modQueue q (fun x => { x with waiting := none }) s)
        | none => loseWait q s
      if w.held then s else dropSyncRef x.part w.obj s
  match x.miss with
  | none => s
  | some h =>
    let s := modQueue q (fun x => { x with miss := none }) s
    match st with
    | some st =>
      reject { queue := q, index := h.index, ctx := dfld h.raw 4 0 16, opcode := h.opcode, cmpl := false, irq := false } st 0 s
    | none => s

/-- Accepted signals that satisfy `p` leave, with a status for their records or silently, and drop their references; one that was
discarded before has nothing else left. -/
def dropSignals (p : Signal → Bool) (st : Option Status) (s : State) : State :=
  let l := s.qu.signals.filter p
  let s := { s with qu := { s.qu with signals := s.qu.signals.filter fun g => !p g } }
  l.foldl (fun s g =>
    let s := if g.held then s else dropSyncRef g.part g.obj s
    if g.gone then s
    else
      match st with
      | some st => complete g.ref { st := st } s
      | none => unreserve g.ref.queue (modQueue g.ref.queue (fun x => { x with outstanding := x.outstanding - 1 }) s)) s

/-- Accepted signals that satisfy `p` are discarded silently; they keep their references until the references of what is discarded
with them are dropped (R344, R376). -/
def discardSignals (p : Signal → Bool) (s : State) : State :=
  let l := s.qu.signals.filter fun g => p g && !g.gone
  let s := l.foldl (fun s g =>
    unreserve g.ref.queue (modQueue g.ref.queue (fun x => { x with outstanding := x.outstanding - 1 }) s)) s
  { s with qu := { s.qu with signals := s.qu.signals.map fun g => if p g then { g with gone := true } else g } }

/-- Steps that satisfy `p` are killed (R79). -/
def killAll (p : Step → Bool) (why : KillWhy) (s : State) : State :=
  (s.steps.filter p).foldl (fun s t => killStep why t.id s) s

/-- Units that owe an acknowledgement for a step that satisfies `p` (R476). -/
def owed (s : State) (p : Step → Bool) : List Nat :=
  (s.steps.filter fun t => t.phase == .killed && p t).flatMap fun t => t.unacked

/-- Where a command of an opcode counts in a summary record: 0 tile, 1 engine, 2 network, 3 other (R369). -/
def opGroup (op : Nat) : Nat :=
  if op = 0x40 then 0 else if op = 0x41 ∨ op = 0x42 ∨ op = 0x43 then 1 else if op = 0x47 then 2 else 3

/-- Uncompleted commands by group that a destroy or revoke touches, those of a commit in progress left out (R369, R376, R377): `p`
judges a command's queue and context. A held miss, which is not accepted yet, goes with its queue alone: it is given no
context. -/
def openCounts (s : State) (p : Nat → Nat → Bool) : Nat × Nat × Nat × Nat :=
  let commits := fun (t : Step) => t.phase == .finished && s.cu.open_ == some (t.frame, t.slot)
  let ops := ((s.steps.filter fun t => p t.queue t.ctx && t.gather.isNone && !t.judge && !commits t).map fun t => t.opcode) ++
    ((s.qu.signals.filter fun g => !g.gone && p g.ref.queue g.ref.ctx).map fun _ => 0x05) ++
    (s.qu.qs.flatMap fun x =>
      ((x.2.waiting.toList.filter fun w => p x.1 w.ref.ctx).map fun _ => 0x04) ++
        ((x.2.miss.toList.filter fun _ => p x.1 0x10000).map fun h => h.opcode))
  let n := fun g => (ops.filter fun o => opGroup o == g).length
  (n 0, n 1, n 2, n 3)

/-! ### Queues destroyed (R376) -/

/-- Steps 1 and 2 of R376: the queue stops, its undispatched and held commands are discarded, its steps are killed without a record,
its requests fail. What was discarded keeps its references until step 4. -/
def stopQueue (q : Nat) (reqSt : Status) (s : State) : State :=
  let x := queue s q
  let s := modQueue q (fun x => { x with state := .destroying }) s
  let s := modQueue q (fun x => { x with miss := none }) (loseWait q s)
  let s := discardSignals (fun g => g.ref.queue == q) s
  let s := killAll (fun t => t.queue == q && t.gather.isNone) .silent s
  if x.kind = .intake then failClass x.part x.cls reqSt s else s

/-- Step 4 of R376: references dropped, the number free. -/
def freeQueue (q : Nat) (s : State) : State :=
  let s := dropSignals (fun g => g.ref.queue == q) none s
  let x := queue s q
  let xs := (x.acceptedAt.map fun a => a.2) ++ x.templates.map fun t => t.xlats
  let s := xs.foldl (fun s l => dropRefs x.part (objsOf l) s) s
  let s := x.syncAt.foldl (fun s a => dropSyncRef x.part a.2 s) s
  { s with qu := { s.qu with qs := tdel s.qu.qs q } }

/-- Live queues of a partition outside administration, those of one owner or all. -/
def queuesOf (s : State) (n : Nat) (owner : Option Nat) : List Nat :=
  (s.qu.qs.filter fun p => p.1 < 1024 && p.2.live && p.2.part == n && owner.all fun c => p.2.owner == c).map fun p => p.1

/-! ### Lost contexts (R334, R368) -/

/-- A persistent or intake queue of a lost context completes its current descriptor with CONTEXT_LOST and stops; its
requests fail (R153, R368). The current descriptor is the one it holds; where it holds none, the next that HEAD reaches, and a
program of templates alone has none (R367; log 135). -/
def loseQueue (q : Nat) (s : State) : State :=
  let x := queue s q
  let held := x.waiting.isSome || x.miss.isSome
  let rests := x.templates.length = 2 ^ x.ringLog2
  let s := dropHeld q (some .contextLost) s
  let s := if x.kind = .intake then failClass x.part x.cls .contextLost s else s
  touchQueue q (modQueue q (fun x => { x with stopping := !held && !rests }) s)

/-- At the marking of a context, its uncommitted steps are killed and complete with CONTEXT_LOST, its signals are discarded,
its persistent and intake queues stop (R334, R368). -/
def sweepLost (s : State) : State :=
  let s := killAll (fun t => isLost s t.part t.ctx && !t.judge && t.gather.isNone && t.phase ≠ .killed)
    (.complete .contextLost) s
  let s := dropSignals (fun g => !g.gone && isLost s g.part g.ref.ctx) (some .contextLost) s
  let qs := s.qu.qs.filter fun p => p.2.live && (p.2.kind == .persistent || p.2.kind == .intake) &&
    p.2.state ≠ .lost && p.2.state ≠ .destroying && !p.2.stopping && isLost s p.2.part p.2.owner
  qs.foldl (fun s p => loseQueue p.1 s) s

/-! ### Resets -/

/-- The steps of a domain. -/
def inDomain (s : State) (d : Domain) (t : Step) : Bool :=
  match d with
  | .context n c => t.part == n && t.ctx == c && t.gather.isNone
  | .engine e => t.units.contains (engineUnit e)
  | .partition n => t.part == n
  | .stockTile _ => false
  | .destroy q => t.queue == q && t.gather.isNone
  | .revoke n c => t.part == n && t.gather.isNone && (t.ctx == c || (queue s t.queue).owner == c)
  | .dump _ => false

/-- The partition whose capture a domain asks for (R485). -/
def capturePart (s : State) : Domain → Option Nat
  | .context n _ => some n
  | .partition n => some n
  | .dump n => some n
  | .engine e => engineOwner s.ps.active e
  | _ => none

/-- Scope code, index and generation of a RESET record (R482), after the reset. -/
def scopeOf (s : State) : Domain → Nat × Nat × Nat × Option Nat
  | .context n c => (1, c, 0, if hasHand s.ps.active n then some n else none)
  | .engine e => (2, e, (engine s e).gen, engineOwner s.ps.active e)
  | .partition n => (3, 0, partGen s n, if hasHand s.ps.active n then some n else none)
  | .stockTile t => (5, t, stockGen s t, none)
  | _ => (0, 0, 0, none)

/-- DETAIL of a reset command (R476). -/
def resetDetail (s : State) (r : Reset) : Nat :=
  let gen := match r.domain with
    | .engine e => (engine s e).gen
    | .partition n => partGen s n
    | _ => 0
  r.firstSilent.getD 0xFFFF * 2 ^ 48 + gen * 2 ^ 40 + min r.lostCtxs 0xFFFF * 2 ^ 16 + min r.killed 0xFFFF

/-- A reset's command completes. -/
def endCmd (c : Option CmdRef) (d : Done) (s : State) : State :=
  match c with
  | some c => complete c d s
  | none => s

/-- The reset ends (R475, R476, R482): its counter, its RESET record, its command; those that waited inside its domain
complete with STATE_CONFLICT. -/
def closeReset (r : Reset) (s : State) : State :=
  let rc := s.rc
  let rc := match r.domain with
    | .context _ _ => { rc with contextResets := satAdd 64 rc.contextResets 1 }
    | .engine _ => { rc with engineResets := satAdd 64 rc.engineResets 1 }
    | .partition _ => { rc with partitionResets := satAdd 64 rc.partitionResets 1 }
    | _ => rc
  let again := rc.waiting.filter fun w => w.covered
  let s := { s with rc := { rc with current := none, waiting := rc.waiting.filter fun w => !w.covered } }
  let (scope, index, gen, part) := scopeOf s r.domain
  let s := if scope = 0 then s else resetRecord scope index gen r.cause r.skipped false part s
  let s := endCmd r.cmd { st := if r.firstSilent.isSome then .timeout else .ok, detail := resetDetail s r } s
  again.foldl (fun s w => endCmd w.cmd { st := .stateConflict } s) s

/-- Every suspect in ascending order of partition and context, each one's steps in dispatch order (R493). -/
def suspectOrder (l : List Step) : List Step := sortBy (fun t => (t.part * 2 ^ 16 + t.ctx) * 2 ^ 32 + t.order) l

/-- A job of a partition enters ABORTING at the next tick the abort can take effect: 10 µs or more ahead (R402). -/
def abortAt (s : State) : Nat :=
  if s.tb.now + 10000 ≤ nextTick s.tb then s.tb.tick + 1 else s.tb.tick + 2

/-- JOB_ABORT to every member of a job, resent until acknowledged (R399, R402). -/
def sendAborts (n slot : Nat) (reason : Status) (origin : Nat) (s : State) : State :=
  let j := tget {} s.nu.jobs (pkey 5 n slot)
  j.list.foldl (fun s m =>
    let tag := s.nu.nextTag % 2 ^ 32
    let p := tget {} s.nu.peers m.chip
    let h : FoaHead := { version := p.version, rsv := false, srcChip := s.nu.chipId, dstChip := m.chip, srcPart := n,
                         dstPart := m.part, roleEpoch := m.epoch, srcEpoch := tget 0 s.ps.epochs n, jobId := j.id,
                         jobGen := j.gen }
    let o : OutReq := { tag := tag, head := h, body := none, abortTick := j.abortAt, reason := reason, origin := origin,
                        chip := m.chip }
    if !foaUp s m.chip then s
    else
      let s := { s with nu := { s.nu with out := s.nu.out ++ [o], nextTag := s.nu.nextTag + 1 } }
      foaSend m.chip h (.jobAbort j.abortAt reason origin) s) s

/-- An ACTIVE job slot is aborted for a reason (R402). -/
def abortJob (n slot : Nat) (reason : Status) (origin : Nat) (s : State) : State :=
  let j := tget {} s.nu.jobs (pkey 5 n slot)
  if j.state ≠ .active then s
  else
    let j := { j with state := .aborting, abortAt := abortAt s, reason := reason }
    sendAborts n slot reason origin { s with nu := { s.nu with jobs := tput s.nu.jobs (pkey 5 n slot) j } }

/-- Every ACTIVE job of a partition is aborted (R479). -/
def abortJobs (n : Nat) (reason : Status) (s : State) : State :=
  (List.range 32).foldl (fun s i => abortJob n i reason s.nu.chipId s) s

/-- Lines of a partition in the LLC. -/
def linesOf (s : State) (n : Nat) : List Nat := (s.coh.lines.filter fun p => p.2.ptag == n).map fun p => p.1

/-- A tile's queued requests leave the queue of a line (R273 step 1). -/
def dropRequests (l : LlcLine) : LlcLine :=
  { l with wait := l.wait.filter fun i => !(i.host.isNone && (i.kind == .rds || i.kind == .rdu || i.kind == .upg ||
      i.kind == .atom)) }

/-- The recall walk of a partition begins (R273): requests of its tiles are discarded, back-pressured ones too; every line
leaves the LLC, an owner snooped first and a sharer's bits cleared. A line in a transient state is visited when its
transaction has ended. -/
def startWalk (n : Nat) (s : State) : State :=
  let s := { s with coh := { s.coh with walk := setBit s.coh.walk n true,
                                        backed := s.coh.backed.filter fun r =>
                                          tileOwner s.ps.active r.m.tile ≠ some n || r.kind == .wbm || r.kind == .wbc } }
  (linesOf s n).foldl (fun s k =>
    let l := dropRequests (llc s k)
    let i : HomeItem := { kind := .victim }
    if l.trans.isSome then setLlc k { l with wait := l.wait ++ [i] } s
    else
      let l := if l.hstate = .s then { l with hstate := .l, presence := 0 } else l
      drainAll k (tidyLine k (begin_ k i (putLlc k l s)))) s

/-- A line of the partition is in the LLC or in a transient state: the walk runs (R273). -/
def walkOpen (s : State) (n : Nat) : Bool :=
  s.coh.lines.any fun p => p.2.ptag == n && (p.2.trans.isSome || p.2.hstate != .i)

/-- The recall walk ends: the non-caching accesses that waited go on, and miss the LLC (R273). -/
def endWalk (n : Nat) (s : State) : State :=
  let s := { s with coh := { s.coh with walk := setBit s.coh.walk n false } }
  (linesOf s n).foldl (fun s k => drainAll k s) s

/-- FABRIC_PRESENT of tiles falls (R22). -/
def fabricFall (ts : List Nat) (s : State) : State :=
  ts.foldl (fun s t => emit (.fabric t false (domainGen s t)) { s with bnd := { s.bnd with fabric := setBit s.bnd.fabric t false } }) s

/-- FABRIC_PRESENT of tiles rises with their DOMAIN_GEN, which ends a tile's death (R23, R270). -/
def fabricRise (ts : List Nat) (s : State) : State :=
  ts.foldl (fun s t =>
    emit (.fabric t true (domainGen s t))
      { s with bnd := { s.bnd with fabric := setBit s.bnd.fabric t true, rising := setBit s.bnd.rising t false },
               coh := { s.coh with dead := setBit s.coh.dead t false, owed := s.coh.owed.filter fun o => o.1 ≠ t } }) s

/-- An engine out of dispatch, its share, groups and lookup tables gone (R478 steps 2 and 5). -/
def takeEngine (e : Nat) (s : State) : State :=
  modEngine e (fun x => { x with state := .inReset, groups := 0, luts := [] }) s

/-- An engine's generation raised (R470). -/
def raiseEngine (e : Nat) (s : State) : State := modEngine e (fun x => { x with gen := (x.gen + 1) % 256 }) s

/-- An engine back in service, unless fenced (R478 step 8). -/
def serveEngine (e : Nat) (s : State) : State :=
  modEngine e (fun x => { x with state := if s.fc.fenced.getLsbD e then .fenced else .idle }) s

/-- Acknowledgements that an engine owes are taken as given: its reset does not depend on them (R478 step 5). -/
def forgetAcks (u : Nat) (s : State) : State :=
  (s.steps.filter fun t => t.phase == .killed && t.unacked.contains u).foldl (fun s t => ackKill u t.id s) s

/-- The field test that runs ends with ABORTED and is counted (R547 to R549); the fields of a result that found no failing
pattern are free values (log 142). -/
def endAborted (s : State) : State :=
  match s.hm.testing with
  | none => s
  | some f =>
    let (i, s) := fresh 16 s
    let (b, s) := fresh 1 s
    { s with hm := { s.hm with testing := none, result := 2, resultSet := f.set, failIndex := i, tempShort := b == 1,
                               tests := satAdd 32 s.hm.tests 1 } }

/-- A field test ends with ABORTED at its engine's reset (R548). -/
def abortTest (e : Nat) (s : State) : State :=
  if s.hm.testing.any fun f => f.engine == e then endAborted s else s

/-- The steps that a reset of a domain kills: the dispatched ones, those whose kill is unacknowledged among them unless an
earlier reset, destroy or revoke killed them, and none whose commit is in progress (R476). -/
def kills (s : State) (d : Domain) (t : Step) : Bool :=
  inDomain s d t && t.phase ≠ .queued && !t.counted && !(t.phase == .finished && s.cu.open_ == some (t.frame, t.slot))

/-- Those steps are marked as counted. -/
def markKills (d : Domain) (s : State) : State :=
  { s with steps := s.steps.map fun t => if kills s d t then { t with counted := true } else t }

/-- The kills of a reset are issued. -/
def startKills (r : Reset) (s : State) : State :=
  let r := { r with stage := .kills, killed := (s.steps.filter fun t => kills s r.domain t).length }
  let s := markKills r.domain s
  match r.domain with
  | .context n c =>
    let s := { s with rc := { s.rc with current := some r } }
    let keep := fun (q : Nat) => (queue s q).kind == .streaming || (queue s q).owner ≠ c
    let s := killAll (fun t => inDomain s r.domain t && keep t.queue) (.complete .killed) s
    let others := (queuesOf s n none).filter fun q => (queue s q).owner ≠ c && (queue s q).waiting.any fun w => w.ref.ctx == c
    let s := others.foldl (fun s q => touchQueue q (dropHeld q (some .killed) s)) s
    let own := queuesOf s n (some c)
    own.foldl (fun s q =>
      if (queue s q).kind = .streaming then
        touchQueue q (modQueue q (fun x => { x with head := x.tail, skip := 0 }) (dropHeld q (some .killed) s))
      else stopQueue q .killed s) s
  | .engine e =>
    let sus := s.steps.filter fun t => t.part < 32 && ctxState s t.part t.ctx == .live && t.gather.isNone && !t.judge &&
      (t.units.contains (engineUnit e) && (t.phase ≠ .killed || t.unacked.contains (engineUnit e)))
    let s := { s with rc := { s.rc with current := some { r with suspects := suspectOrder sus } } }
    let s := abortTest e (takeEngine e s)
    let s := killAll (fun t => t.units.contains (engineUnit e) && t.be && t.phase ≠ .killed && !t.judge) .rerun s
    let s := killAll (fun t => t.units.contains (engineUnit e) && !t.be && t.phase ≠ .killed) (.complete .killed) s
    forgetAcks (engineUnit e) s
  | .partition n =>
    let s := { s with rc := { s.rc with current := some r, inReset := setBit s.rc.inReset n true } }
    let s := abortJobs n .jobAborted s
    let s := killAll (fun t => t.part == n && t.phase ≠ .queued && t.gather.isNone) (.complete .killed) s
    let s := killAll (fun t => t.part == n) .silent s
    let s := dropSignals (fun g => g.part == n) none s
    (queuesOf s n none).foldl (fun s q => dropHeld q none s) s
  | .stockTile t => fabricFall [t] { s with rc := { s.rc with current := some r } }
  | .destroy q =>
    let r := { r with syncRefs := (waitRef s q).toList }
    let s := stopQueue q .killed s
    { s with rc := { s.rc with works := s.rc.works ++ [r] } }
  | .revoke n c =>
    let own := queuesOf s n (some c)
    let others := (queuesOf s n none).filter fun q => (queue s q).owner ≠ c && (queue s q).waiting.any fun w => w.ref.ctx == c
    let r := { r with syncRefs := (own ++ others).filterMap (waitRef s) }
    let s := killAll (fun t => t.part == n && t.ctx == c && t.gather.isNone) .silent s
    let s := discardSignals (fun g => g.part == n && g.ref.ctx == c) s
    let s := setCtx n c .revoked s
    let s := others.foldl (fun s q => touchQueue q (loseWait q s)) s
    let s := own.foldl (fun s q => stopQueue q .killed s) s
    { s with rc := { s.rc with works := s.rc.works ++ [r] } }
  | .dump _ => s

/-- References and translations of the killed steps of a domain dropped before their acknowledgements (R376, R477); those of a
program or a template are dropped with it. -/
def stripRefs (d : Domain) (s : State) : State :=
  let l := s.steps.filter fun t => inDomain s d t && t.phase == .killed
  l.foldl (fun s t =>
    let s := if heldElsewhere s t then s else dropRefs t.part t.objs s
    modStep t.id (fun t => { t with objs := [], xlats := [] }) s) s

/-- What descriptors of a revoked context hold in the program of another context's queue is dropped: their translations and
references, and those of templates (R325, R344). -/
def dropAccepted (n c : Nat) (s : State) (q : Nat) : State :=
  let x := queue s q
  let mine := fun (i : Nat) => tfind x.acceptedBy i == some c
  let theirs := fun (tp : Template) => dfld tp.raw 4 0 16 == c
  let xs := ((x.acceptedAt.filter fun a => mine a.1).map fun a => a.2) ++ (x.templates.filter theirs).map fun tp => tp.xlats
  let s := xs.foldl (fun s l => dropRefs n (objsOf l) s) s
  let s := (x.syncAt.filter fun a => mine a.1).foldl (fun s a => dropSyncRef n a.2 s) s
  modQueue q (fun x => { x with
    acceptedAt := x.acceptedAt.filter (fun a => !mine a.1), syncAt := x.syncAt.filter (fun a => !mine a.1),
    tableAt := x.tableAt.filter (fun a => !mine a.1), acceptedBy := x.acceptedBy.filter (fun a => !mine a.1),
    templates := x.templates.map fun tp => if theirs tp then { tp with xlats := [], gone := true } else tp }) s

/-- RESET_CONTEXT after its kills (R477 steps 4 to 7). -/
def endContext (n c : Nat) (s : State) : State :=
  let own := (queuesOf s n (some c)).filter fun q => (queue s q).kind ≠ .streaming
  let s := own.foldl (fun s q => freeQueue q s) s
  let s := advanceSyncs n (some c) true s
  let s := dropSignals (fun g => g.part == n && g.ref.ctx == c) (some .killed) s
  let s := stripRefs (.context n c) s
  setCtx n c .live s

/-- A partition's generation and its engines' raised, its Command Processor reset (R479 step 6). -/
def raisePart (n : Nat) (s : State) : State :=
  let es := bitList (hEngines s.ps.active n)
  let s := es.foldl (fun s e => raiseEngine e (abortTest e (takeEngine e s))) s
  { s with rc := { s.rc with partGen := tput s.rc.partGen n ((partGen s n + 1) % 256) } }

/-- Contexts of a partition that are not UNUSED. -/
def usedCtxs (s : State) (n : Nat) : List Nat :=
  (s.tu.ctxs.filter fun p => p.1 / 2 ^ 16 == n && p.2 ≠ .unused).map fun p => p.1 % 2 ^ 16

/-- RESET_PARTITION after its quiet interval (R479 steps 7 and 8). -/
def endPartition (n : Nat) (s : State) : State :=
  let s := { s with steps := s.steps.filter fun t => t.part ≠ n }
  let s := advanceSyncs n none true s
  let s := (usedCtxs s n).foldl (fun s c => if ctxState s n c = .revoked then s else setCtx n c .lost s) s
  let s := (queuesOf s n none).foldl (fun s q => { s with qu := { s.qu with qs := tdel s.qu.qs q } }) s
  let s := (s.tu.objs.filter fun p => p.1 / 2 ^ 20 == n && p.2.devRefs ≠ 0).foldl (fun s p =>
    countObj n (p.1 % 2 ^ 20) { p.2 with devRefs := 0 } s) s
  let s := (syncsOf s n none).foldl (fun s j => countSync n j { syncObj s n j with devRefs := 0 } s) s
  let s := { s with ac := { s.ac with reqs := s.ac.reqs.filter fun r => r.part ≠ n,
                                      served := s.ac.served.filter fun b => b.part ≠ n } }
  let s := { s with cu := { s.cu with trick := s.cu.trick.filter fun r => r.part ≠ n } }
  let s := { s with tc := { s.tc with kernels := tdel s.tc.kernels n, tables := tdel s.tc.tables n,
                                      tdi := tput s.tc.tdi n .error } }
  let s := if hConf s.ps.active n
    then { s with rie := { s.rie with sessions := s.rie.sessions.filter fun x => x.part ≠ n } } else s
  let s := (bitList (hEngines s.ps.active n)).foldl (fun s e => serveEngine e s) s
  let s := { s with rc := { s.rc with inReset := setBit s.rc.inReset n false } }
  fabricRise (bitList (hTiles s.ps.active n)) s

/-- The counts of a summary record (R369). -/
def summaryDetail (c : Nat × Nat × Nat × Nat) : Nat :=
  min c.2.2.2 0xFFFF * 2 ^ 48 + min c.2.2.1 0xFFFF * 2 ^ 32 + min c.2.1 0xFFFF * 2 ^ 16 + min c.1 0xFFFF

/-- The record of DESTROY_QUEUE and CONTEXT_REVOKE, with SUMMARY (R369, R376, R377); it is always written. -/
def summary (r : Reset) (s : State) : State :=
  match r.cmd with
  | none => s
  | some c =>
    let s := unreserve c.queue (progress c.queue s)
    let s := modQueue c.queue (fun x => { x with outstanding := x.outstanding - 1 }) s
    let st : Status := if r.firstSilent.isSome then .timeout else .ok
    putRec c.queue { recOf s c { st := st, detail := summaryDetail r.counts } with summary := true } s

/-- DESTROY_QUEUE or CONTEXT_REVOKE after its kills (R376 steps 4 and 5; R377 steps 4 and 5). -/
def endWork (r : Reset) (s : State) : State :=
  let s := { s with rc := { s.rc with works := s.rc.works.filter fun w => w.domain ≠ r.domain } }
  let s := stripRefs r.domain s
  match r.domain with
  | .destroy q =>
    let n := (queue s q).part
    summary r (r.syncRefs.foldl (fun s j => dropSyncRef n j s) (freeQueue q s))
  | .revoke n c =>
    let s := advanceSyncs n (some c) false s
    let s := dropOwned n c s
    let s := dropSignals (fun g => g.part == n && g.ref.ctx == c) none s
    let s := r.syncRefs.foldl (fun s j => dropSyncRef n j s) s
    let s := (queuesOf s n (some c)).foldl (fun s q => freeQueue q s) s
    let s := (queuesOf s n none).foldl (dropAccepted n c) s
    summary r { s with tu := { s.tu with atc := s.tu.atc.filter fun e => !(e.fn == .vf n && e.ctx == c) } }
  | _ => s

/-- The kills of the reset in progress are done: its next stage (R477 to R479). -/
def afterKills (r : Reset) (s : State) : State :=
  match r.domain with
  | .context n c => closeReset r (endContext n c s)
  | .engine e =>
    let s := raiseEngine e s
    { s with rc := { s.rc with current := some { r with stage := .quiet } } }
  | .partition n =>
    let s := startWalk n s
    { s with rc := { s.rc with current := some { r with stage := .walk } } }
  | .stockTile t =>
    { s with rc := { s.rc with current := some { r with stage := .quiet },
                               stockGen := tput s.rc.stockGen t ((stockGen s t + 1) % 256) } }
  | _ => s

/-- Kills are done once no unit owes an acknowledgement, or the wait has run out, and no commit is in progress (R475,
R476). -/
def killsDone (s : State) (r : Reset) : Bool :=
  s.cu.open_.isNone && (r.firstSilent.isSome || owed s (inDomain s r.domain) = [])

/-- A reset in the kill stage, destroys and revokes go on when their kills are done. -/
def advanceKills (s : State) : State :=
  let s := s.rc.works.foldl (fun s r => if killsDone s r then endWork r s else s) s
  match s.rc.current with
  | some r => if r.stage = .kills && killsDone s r then afterKills r s else s
  | none => s

/-! ### Replays (R493 to R495) -/

/-- The engine leaves its replay (R478 step 8): the reset ends. -/
def endReplay (r : Reset) (p : Replay) (s : State) : State :=
  let s := serveEngine p.engine { s with rc := { s.rc with replay := none } }
  closeReset { r with lostCtxs := p.lost } s

/-- A judge run that is gone from the steps has ended: the next one is due (R494). -/
def advanceReplay (s : State) : State :=
  match s.rc.replay, s.rc.current with
  | some p, some r =>
    let p := match p.running with
      | some (id, _) => if (findStep s id).isSome then p else { p with running := none, todo := p.todo.tail }
      | none => p
    let s := { s with rc := { s.rc with replay := some p } }
    if p.todo = [] && p.running.isNone && r.stage = .replay then endReplay r p s else s
  | _, _ => s

/-- The next judge run starts at a slot start: the suspect's step on the engine under replay alone (R494). -/
def startJudge (s : State) : State :=
  match s.rc.replay with
  | none => s
  | some p =>
    match p.running, p.todo with
    | none, t :: _ =>
      let j := { requeued t with id := s.nextId, judge := true, be := true, serve := none, phase := .running, rerun := false, objs := [],
                                 units := [engineUnit p.engine], frame := s.tb.tick,
                                 slot := if t.frameScoped then 15 else s.tb.slot }
      { s with steps := s.steps ++ [j], nextId := s.nextId + 1,
               rc := { s.rc with replay := some { p with running := some (s.nextId, s.tb.tick) } } }
    | _, _ => s

/-! ### The start of a reset (R475, R477 to R479, R485) -/

/-- A capture of a partition begins: COMPLETE is written as 0 first (R487). -/
def startCapture (n : Nat) (r : Reset) (s : State) : State :=
  let (scope, index, _, _) := scopeOf s r.domain
  let base := tget 0 s.rc.dumpBase n
  let s := writeDva n (tget [] s.rc.dumpXlat n) (base + 0x30) [0] false none s
  let c : Capture := { part := n, scope := scope, index := index, cause := r.cause, cmd := r.cmd, bbrSeq := s.fc.newest }
  { s with rc := { s.rc with current := some { r with stage := .capture }, capture := some c } }

/-- A reset starts with its capture, if asked for and the dump area is set, or with its kills. -/
def startReset (r : Reset) (s : State) : State :=
  match if r.dump && !r.captured then capturePart s r.domain else none with
  | none => startKills r s
  | some n =>
    if tget 0 s.rc.dumpBase n ≠ 0 then startCapture n r s
    else
      match r.domain with
      | .dump _ => endCmd r.cmd { st := .stateConflict } s
      | _ => startKills { r with skipped := true } s

/-- A partition reset stops a narrower one, which completes with KILLED (R475). -/
def stopNarrow (s : State) : State :=
  match s.rc.current, s.rc.waiting.any (fun w => match w.domain with
      | .partition _ => true
      | _ => false) with
  | some r, true =>
    match r.domain with
    | .partition _ => s
    | .dump _ => s
    | .engine e =>
      let s := { s with rc := { s.rc with current := none, capture := none, replay := none } }
      endCmd r.cmd { st := .killed } (serveEngine e s)
    | .stockTile t =>
      fabricRise [t] { s with rc := { s.rc with current := none, capture := none } }
    | _ => endCmd r.cmd { st := .killed } { s with rc := { s.rc with current := none, capture := none } }
  | _, _ => s

/-- The preparation of a chip reset stops the reset that runs, which completes with KILLED (R475). -/
def stopAll (s : State) : State :=
  match s.rc.current with
  | none => s
  | some r =>
    match r.domain with
    | .dump _ => s
    | _ => endCmd r.cmd { st := .killed } { s with rc := { s.rc with current := none, capture := none, replay := none } }

/-- The next waiting reset starts when none runs and no chip reset is in preparation; partition resets come before narrower
ones that they stop (R475). -/
def nextReset (s : State) : State :=
  let s := stopNarrow s
  match s.rc.current with
  | some _ => s
  | none =>
    let isPart := fun (w : Reset) => match w.domain with
      | .partition _ => true
      | _ => false
    let l := (s.rc.waiting.filter isPart) ++ s.rc.waiting.filter fun w => !isPart w
    match if s.bnd.prep.any fun p => p.started then [] else l with
    | [] => s
    | r :: rest => startReset r { s with rc := { s.rc with waiting := rest } }

/-- Everything that follows at once from what a command did, `fuel` times over. -/
def settleN : Nat → State → State
  | 0, s => s
  | fuel + 1, s => settleN fuel (nextReset (advanceReplay (advanceKills (sweepLost s))))

/-- An uncompleted command of a partition names a job slot (R401). -/
def jobNamed (s : State) (n slot : Nat) : Bool :=
  (s.steps.any fun t => t.part == n && t.gather.isNone && namesJob t.opcode t.raw slot) ||
    s.qu.qs.any fun q => q.2.part == n && q.2.miss.any fun h => namesJob h.opcode h.raw slot

/-- Job slots that CLOSE has marked become FREE once no uncompleted command names them (R401, R484). -/
def closeJobs (s : State) : State :=
  let close := fun (p : Nat × Job) =>
    if p.2.closing && (p.2.state = .active || p.2.state = .aborted) && !jobNamed s (p.1 / 32) (p.1 % 32) then
      (p.1, { p.2 with state := .free, closing := false, tick := 0, list := [] })
    else p
  if s.nu.jobs.any fun p => p.2.closing then { s with nu := { s.nu with jobs := s.nu.jobs.map close } } else s

/-! ### Retirements that end (R307, R309) -/

/-- KEYID_STATE of a key ID; key ID 0 is the device's (R307). -/
def keyRec (s : State) (k : Nat) : KeyRec := if k = 0 then { state := .device } else tget {} s.mi.keys k

/-- A key ID's state set (R307). -/
def setKey (k : Nat) (v : KeyState) (s : State) : State :=
  { s with mi := { s.mi with keys := tmod {} s.mi.keys k fun r => { r with state := v } } }

/-- A retirement that no PC still works on ends: the key ID is CLEAN and its command completes (R307, R309). -/
def endRetire (k : Nat) (s : State) : State :=
  let isIt := fun (w : Sweep) => w.kind == .retire k
  if (keyRec s k).state ≠ .retiring || s.mi.pcs.any fun p => p.2.sweep.any isIt || p.2.queued.any isIt then s
  else
    let c := tfind s.mi.retireCmd k
    endCmd c { st := .ok } (setKey k .clean { s with mi := { s.mi with retireCmd := tdel s.mi.retireCmd k } })

/-- Retirements end once no PC works on them, whatever ended the passes: their visits, a scrub, an exhaustion (R305, R306, R309). -/
def endRetires (s : State) : State :=
  ((s.mi.keys.filter fun p => p.2.state = .retiring).map fun p => p.1).foldl (fun s k => endRetire k s) s

/-- Contexts without anything left return to UNUSED (R333, R377). -/
def reapAll (s : State) : State := (s.tu.ctxs.map fun p => p.1).foldl (fun s i => reapCtx (i / 2 ^ 16) (i % 2 ^ 16) s) s

/-- What follows a command at once: requests that were back-pressured come again, steps and loads whose lines are in go on, lost
contexts are swept, kills that are done let their resets go on, waiting resets start, retirements end, contexts with nothing left become UNUSED. -/
def settle (s : State) : State := reapAll (closeJobs (endRetires (settleN 4 (goLoads (readOutputs (goOn (retryBacked s)))))))

end Sys2Proof.Machine
end

