-- ==== Sys2Proof/Machine/Fetch.lean ====
section
/-!
DEFINITION. Fetch and acceptance: what every descriptor goes through before its command has an effect (R351 to R361, R320,
R321, R324, R325, R327, R328, R330, R371, R439, R567).
-/
namespace Sys2Proof.Machine
open Sys2Proof

/-- The queue counts its descriptors (R351). -/
def streams (x : Queue) : Bool := x.kind == .streaming || x.kind == .admin

/-- HEAD moved on by one descriptor (R351). -/
def advanceHead (q : Nat) (s : State) : State :=
  modQueue q (fun x => { x with head := if streams x then x.head + 1 else (x.head + 1) % 2 ^ x.ringLog2, rereads := 0 }) s

/-- HEAD set by LOOP or JUMP (R362). -/
def setHead (q p : Nat) (s : State) : State := modQueue q (fun x => { x with head := p }) s

/-- The Command Processor fetches a descriptor of this queue now (R355, R356, R367, R371, R373): nothing holds the queue and
its completion ring has a free slot. -/
def fetchable (s : State) (q : Nat) : Bool :=
  let x := queue s q
  live s && x.live && (q == 0x420 || vfReady s x.part) && x.state ≠ .early && x.state ≠ .lost && x.state ≠ .destroying &&
    x.overflow.isEmpty && x.waiting.isNone && x.miss.isNone && slotFree x &&
    (if streams x then x.head < x.tail else x.templates.length < 2 ^ x.ringLog2)

/-- Ring position of an index (R351). -/
def ringPos (x : Queue) (i : Nat) : Nat := i % 2 ^ x.ringLog2

/-- A ring in the device window holds the descriptor that was read, once its line is in; what a ring in host memory holds is
the command's. -/
def ringHolds (x : Queue) (raw : Desc) (s : State) : Bool × State :=
  if x.kind = .admin || isHost x.ring then (true, s)
  else
    match readNow x.part x.ringXlats (x.ring + 64 * ringPos x x.head) 64 s with
    | (.got bs none, s) => (leNat bs == raw.toNat, s)
    | (_, s) => (false, s)

/-- The reference of a descriptor at HEAD. -/
def refAt (q : Nat) (x : Queue) (raw : Desc) : CmdRef :=
  { queue := q, index := x.head, ctx := dCtx raw, opcode := dOpcode raw, cmpl := dfld raw 6 1 1 == 1,
    irq := dfld raw 6 2 1 == 1 }

/-- A position completes without a command: no check of R359 has run (R356, R567). -/
def closePos (c : CmdRef) (st : Status) (detail : Nat) (s : State) : State :=
  putRec c.queue (recOf s c { st := st, detail := detail }) (progress c.queue s)

/-- A command that fails a check (R359), its queue's STATE brought up to date; one that fails with OBJECT_GONE counts
(R348). -/
def refuse (c : CmdRef) (st : Status) (detail : Nat) (s : State) : State :=
  let s := if st = .objectGone then { s with tu := { s.tu with gone := satAdd 64 s.tu.gone 1 } } else s
  touchQueue c.queue (reject c st detail s)

/-- A descriptor that passed checks 1 to 10. -/
structure Cmd where
  q : Nat
  part : Nat
  ref : CmdRef
  raw : Desc
  f : CreateFetch
  extra : Nat := 0
  /-- A descriptor of a program accepted on an earlier lap (R360). -/
  again : Bool := false
  deriving DecidableEq, Repr

/-! ### Checks 2 to 10 (R359) -/

/-- Check 9: administration commands. -/
def adminRights (s : State) (q : Nat) (x : Queue) (op : Nat) (raw : Desc) : Bool :=
  let p := dfld raw 0x2C 0 5
  let named := op = 0xC0 || op = 0xC1 || op = 0xC2 || op = 0xC3 || op = 0xC9
  if op < 0xC0 then true
  else if x.kind ≠ .admin then false
  else if q = 0x420 then !((op = 0xC0 || op = 0xC1 || op = 0xC2) && hConf s.ps.active p)
  else !(0xC4 ≤ op && op ≤ 0xC8) && (!named || p == x.part)

/-- BATCH of a command that can have it (R190, R200, R407). -/
def dBatch (op : Nat) (d : Desc) : Bool :=
  ((op == 0x41 || op == 0x47) && dfld d 0x08 2 1 == 1) || (op == 0x42 && dfld d 0x08 4 1 == 1)

/-- Check 10: the queue kinds of R358, SERVE, and BATCH, which only a template on an intake queue may have (R192, R201). -/
def kindAllows (x : Queue) (op : Nat) (raw : Desc) : Bool :=
  (!dServe raw || x.kind == .intake) && (!dBatch op raw || (x.kind == .intake && dServe raw)) &&
    (if op = 0x00 || 0xC0 ≤ op then true
    else if op = 0x02 || op = 0x03 || op = 0x84 then x.kind == .persistent || x.kind == .intake
    else x.kind ≠ .admin)

/-- Check 8: the context can become LIVE (R333). -/
def ctxFits (s : State) (n c : Nat) : Bool :=
  c == 0xFFFF || ctxState s n c ≠ .unused || ctxCount s n < hQuota s.ps.active n 2

/-- The first of checks 2 to 10 that fails, on the patched descriptor (R359). -/
def headCheck (s : State) (q : Nat) (x : Queue) (raw : Desc) : Option Status :=
  let op := dOpcode raw
  if dVersion raw ≠ 1 then some .version
  else if !((op ≤ 0x06) || (0x40 ≤ op && op ≤ 0x48) || (0x80 ≤ op && op ≤ 0x84) || (0xC0 ≤ op && op ≤ 0xC9)) then
    some .badOpcode
  else if !reservedOk op (2 ^ x.ringLog2) raw then some .reservedNonzero
  else if (dCtx raw == 0xFFFF) != (x.kind == .admin) then some .rights
  else if isLost s x.part (dCtx raw) then some .contextLost
  else if !ctxFits s x.part (dCtx raw) then some .stateConflict
  else if !adminRights s q x op raw then some .rights
  else if !kindAllows x op raw then some .stateConflict
  else none

/-- The descriptor with its quadword patched (check 4). -/
def applyPatch (x : Queue) (raw : Desc) : Desc := if patchOk raw then patched x raw else raw

/-- A descriptor was accepted on an earlier lap of its program (R360). -/
def acceptedBefore (x : Queue) (raw : Desc) : Bool := !streams x && !dPatch raw && (tfind x.acceptedAt x.head).isSome

/-- A ring read that is refused or returns poison: its position completes without a command (R567). -/
def failPos (q : Nat) (poisoned : Bool) (s : State) : State :=
  let x := queue s q
  let c : CmdRef := { queue := q, index := x.head, ctx := 0xFFFF, opcode := 0, cmpl := true, irq := false }
  let s := modQueue q (fun x => { x with skip := x.skip - 1 }) (advanceHead q s)
  if poisoned then touchQueue q (closePos c .poison 0 s)
  else touchQueue q (closePos c .rights (x.ring + 64 * ringPos x x.head) s)

/-- The unit that fetches a queue's descriptors: the Command Processor of its hand; the Front End Controller for the physical
function's administration queue (R5). -/
def fetchUnit (s : State) (q n : Nat) : Nat := if q = 0x420 || !hasHand s.ps.active n then 0x120 else cpUnit (hCp s.ps.active n)

/-- Fetch of one descriptor whose opcode satisfies `isOp`: it is skipped, passed over, refused, or goes on as a command
(R355 to R362, R367). A tag that does not match in a streaming or administration ring has no effect here: TAG_REREAD
reads it again. -/
def gate (isOp : Nat → Bool) (f : CreateFetch) (extra : Nat) (s : State) : Option Cmd × State :=
  let q := f.queue
  let x := queue s q
  let c := refAt q x f.raw
  if !fetchable s q || !isOp (dOpcode f.raw) then (none, s)
  else match ringHolds x f.raw s with
  | (false, s) => (none, s)
  | (true, s) =>
  match transfer (fetchUnit s q x.part) (if q = 0x420 then none else some x.part) f.parity s with
  | (true, s) => (none, failPos q true s)
  | (false, s) =>
  if dTag f.raw ≠ x.head % 65536 then
    if streams x then (none, s)
    else (none, touchQueue q (closePos c .stateConflict 0 (modQueue q (fun x => { x with skip := x.skip - 1 }) (advanceHead q s))))
  else if x.skip ≠ 0 then (none, touchQueue q (modQueue q (fun x => { x with skip := x.skip - 1 }) (advanceHead q s)))
  else if x.kind = .intake && dServe f.raw then (none, touchQueue q (advanceHead q s))
  else
    let raw := applyPatch x f.raw
    let cmd : Cmd := { q := q, part := x.part, ref := c, raw := raw, f := f, extra := extra }
    let s := advanceHead q s
    if x.stopping then (none, refuse c .contextLost 0 (modQueue q (fun x => { x with stopping := false }) s))
    else if acceptedBefore x f.raw then
      if isLost s x.part c.ctx then (none, refuse c .contextLost 0 s) else (some { cmd with again := true }, s)
    else
      match headCheck s q x raw with
      | some st => (none, refuse c st 0 s)
      | none => (some cmd, s)

/-- A command's effect on the state, from its fetch. -/
def fetchDo (op : Nat) (f : Fetch) (body : Cmd → State → State) (s : State) : State :=
  match gate (fun o => o == op) { toFetch := f } 0 s with
  | (some c, s) => touchQueue c.q (body c s)
  | (none, s) => s

/-! ### Check 11 (R324, R327, R328, R330) -/

/-- The command is held; `seq` is its MISS record's, 0 while it waits for ATS. -/
def hold (c : Cmd) (seq part dva : Nat) (s : State) : State :=
  let h : Held := { seq := seq, part := part, index := c.ref.index, opcode := c.ref.opcode, raw := c.raw, fetch := c.f,
                    extra := c.extra, dva := dva }
  touchQueue c.q (modQueue c.q (fun x => { x with miss := some h }) s)

/-- A miss: a MISS record, and the command is held (R328). -/
def holdMiss (c : Cmd) (n level dva : Nat) (s : State) : State :=
  let seq := (vfTu s n).nextSeq
  hold c seq n dva (evPush n { reclaim := false, level := level, queue := c.q, ctx := c.ref.ctx, dva := dva } s)

/-- What the host ranges of a command give. -/
inductive HostRes where
  | ok | fail (st : Status) (dva : Nat) | wait (dva : Nat)
  deriving DecidableEq, Repr

/-- A cached host-window translation that an uncompleted command or a live queue of the function uses. -/
def atcUsed (s : State) (n : Nat) (e : AtcEntry) : Bool :=
  let inside := fun (d : Nat) => isHost d && e.base ≤ d % 2 ^ 56 && d % 2 ^ 56 < e.base + e.size
  (s.steps.any fun t => t.part == n && t.opcode == 0x44 && (hostRangeOf t.raw).any fun g => inside g.dva) ||
    s.qu.qs.any fun p => p.2.live && p.2.part == n && p.1 < 1024 && (inside p.2.ring || inside p.2.cq)

/-- Room for one more entry among the function's 512: an unused entry makes way (R330). -/
def atcRoom (n : Nat) (s : State) : Option State :=
  if (s.tu.atc.filter fun e => e.fn = .vf n).length < 512 then some s
  else
    match s.tu.atc.find? fun e => e.fn = .vf n && !atcUsed s n e with
    | none => none
    | some e => some { s with tu := { s.tu with atc := s.tu.atc.erase e } }

/-- A permission is missing: a Page Request with PRI enabled, else RIGHTS (R330). -/
def pageOrFail (n : Nat) (g : Rng) (s : State) : HostRes × State :=
  if s.bnd.priEnable then
    (.wait g.dva, emit (.pageRequest (.vf n) (g.dva % 2 ^ 56) g.size)
      { s with tu := { s.tu with pageRequests := satAdd 64 s.tu.pageRequests 1 } })
  else (.fail .rights g.dva, s)

/-- The cached entry of a range decides (R330). -/
def judgeEntry (n : Nat) (g : Rng) (s : State) : HostRes × State :=
  match atcHit s (.vf n) g with
  | none => pageOrFail n g s
  | some e => if (g.r && !e.r) || (g.w && !e.w) then pageOrFail n g s else (.ok, s)

/-- One host range at enqueue (R320, R321, R330): `answers` are the Translation Completions that came with the command. -/
def hostOne (n ctx : Nat) (g : Rng) (answers : List AtsAnswer) (s : State) : HostRes × List AtsAnswer × State :=
  if 2 ^ 57 < g.dva + g.size then (.fail .rights g.dva, answers, s)
  else if !tget false s.bnd.atsEnable n then (.ok, answers, s)
  else if (atcHit s (.vf n) g).isSome then
    let (r, s) := judgeEntry n g s
    (r, answers, s)
  else
    match atcRoom n s with
    | none => (.fail .stateConflict 0, answers, s)
    | some s =>
      let s := emit (.ats (.vf n) (g.dva % 2 ^ 56) g.size) { s with tu := { s.tu with atsRequests := satAdd 64 s.tu.atsRequests 1 } }
      match answers with
      | [] => (.wait g.dva, [], s)
      | a :: rest =>
        let e : AtcEntry := { fn := .vf n, ctx := ctx, base := a.base, size := a.size, r := a.r, w := a.w }
        let (r, s) := judgeEntry n g { s with tu := { s.tu with atc := e :: s.tu.atc } }
        (r, rest, s)

/-- Every host range of a command, the first failure deciding. -/
def hostAll (n ctx : Nat) : List Rng → List AtsAnswer → State → HostRes × State
  | [], _, s => (.ok, s)
  | g :: gs, answers, s =>
    match hostOne n ctx g answers s with
    | (.ok, rest, s) => hostAll n ctx gs rest s
    | (r, _, s) => (r, s)

/-- Check 11 for device ranges `rngs` and host ranges `hosts` in partition `n`; `k` goes on with the translations taken. -/
def check11 (c : Cmd) (n : Nat) (rngs hosts : List Rng) (k : List Xlat → State → State) (s : State) : State :=
  if c.again then k (tget [] (queue s c.q).acceptedAt c.ref.index) s
  else
    let s := countWalks n c.f.host rngs s
    match walkRanges s n c.f.host rngs with
    | .miss l dva => holdMiss c n l dva s
    | .fail st dva => refuse c.ref st dva s
    | .ok xs =>
      match hostAll n c.ref.ctx hosts c.f.ats s with
      | (.fail st dva, s) => refuse c.ref st dva s
      | (.wait dva, s) => hold c 0 n dva s
      | (.ok, s) => if pinFits s n xs then k (dedupX xs) s else refuse c.ref .stateConflict 0 s

/-! ### What a Command Processor reads in device memory (R259, R299, R362, R364, R374) -/

/-- The lines of device ranges of partition `n`, as the page table `host` gives them. -/
def needsOf (s : State) (n : Nat) (host : HostView) (rngs : List Rng) : List (Nat × Nat × Nat) :=
  match walkRanges s n host rngs with
  | .ok xs => rngs.flatMap fun g => (linesIn s n xs g.dva g.size).map fun x => (n, x)
  | _ => []

/-- The lines that a LOAD_PARAM or a TILE_STEP has its Command Processor read. -/
def cpNeeds (c : Cmd) (s : State) : List (Nat × Nat × Nat) :=
  let rngs := if c.ref.opcode = 0x06 ∨ c.ref.opcode = 0x40 then rangesOf c.ref.opcode c.raw else []
  if c.again then
    let xs := tget [] (queue s c.q).acceptedAt c.ref.index
    rngs.flatMap fun g => (linesIn s c.part xs g.dva g.size).map fun x => (c.part, x)
  else needsOf s c.part c.f.host rngs

/-- A command whose reads in device memory are not in yet brings its lines in, and is fetched again later (log 115); else
`run` follows. -/
def withReads (isOp : Nat → Bool) (f : CreateFetch) (extra : Nat) (needs : Cmd → State → List (Nat × Nat × Nat))
    (run : State → State) (s : State) : State :=
  match (gate isOp f extra s).1 with
  | none => run s
  | some c =>
    match bringIn (needs c s) s with
    | (true, s) => run s
    | (false, s) => s

/-- Bytes that a Command Processor reads once their lines are in: none where the read is refused. -/
def cpRead (n : Nat) (xs : List Xlat) (dva len : Nat) (s : State) : Option (List Byte × Option Nat) × State :=
  match readNow n xs dva len s with
  | (.got bs p, s) => (some (bs, p), s)
  | (_, s) => (none, s)

/-! ### Acceptance (R325, R333, R359, R371) -/

/-- The program holds what the descriptor took (R325, R360). -/
def held (s : State) (c : Cmd) : Bool := !streams (queue s c.q) && !dPatch c.raw

/-- A completion slot for a descriptor accepted before. -/
def reserveSlot (q : Nat) (s : State) : State :=
  modQueue q (fun x => { x with reserved := x.reserved + 1, outstanding := x.outstanding + 1, lastTick := s.tb.tick }) s

/-- The command is accepted with its translations; a program's descriptor keeps them with its references (R325, R360). -/
def acceptCmd (c : Cmd) (xs : List Xlat) (s : State) : State :=
  if c.again then reserveSlot c.q s
  else
    let s := accept c.ref s
    if held s c then
      modQueue c.q (fun x => { x with acceptedAt := tput x.acceptedAt c.ref.index xs,
                                      acceptedBy := tput x.acceptedBy c.ref.index c.ref.ctx }) (takeRefs c.part xs s)
    else s

/-- A command that is no step is accepted, has its effect and completes (R361). Its references, taken and dropped within
the command, show only where the program keeps them. -/
def instant (c : Cmd) (xs : List Xlat) (d : Done) (s : State) : State := complete c.ref d (acceptCmd c xs s)

/-- Steps of the queue that have not completed (R361). -/
def workOpen (s : State) (q : Nat) : Bool := s.steps.any fun t => t.queue == q && t.gather.isNone && t.serve.isNone && !t.judge

/-- WAIT_SYNC, LOAD_PARAM and CKPT wait at HEAD for every earlier work command of the queue (R361). -/
def waitsAtHead (f : Fetch) (s : State) : Bool := (queue s f.queue).skip == 0 && workOpen s f.queue

end Sys2Proof.Machine
end

