-- ==== Sys2Proof/Machine/Control.lean ====
section
/-!
DEFINITION. NOP, COND, LOOP, JUMP, WAIT_SYNC, SIGNAL_SYNC, LOAD_PARAM, and an unassigned opcode (R16, R341 to R343, R358,
R361 to R363).
-/
namespace Sys2Proof.Machine
open Sys2Proof

/-- An unassigned opcode is rejected with BAD_OPCODE (R16, R359). -/
def unassignedSt (f : Fetch) (s : State) : State :=
  let free := fun (o : Nat) => !((o ≤ 0x06) || (0x40 ≤ o && o ≤ 0x48) || (0x80 ≤ o && o ≤ 0x84) || (0xC0 ≤ o && o ≤ 0xC9))
  (gate free { toFetch := f } 0 s).2

/-- UNASSIGNED_OPCODE. -/
def execUnassignedOpcode (f : Fetch) (s : State) : Host.Outcome State Fault Refusal := .next (settle (unassignedSt f s))

/-- NOP: accepted and completed. -/
def nopBody (c : Cmd) (s : State) : State := instant c [] { st := .ok } s

/-- NOP. -/
def execNop (f : Fetch) (s : State) : Host.Outcome State Fault Refusal := .next (settle (fetchDo 0x00 f nopBody s))

/-- The condition of a COND (R362). -/
def condHolds (op a b : Nat) : Bool :=
  match op with
  | 0 => a == b
  | 1 => a != b
  | 2 => a < b
  | 3 => b ≤ a
  | 4 => toSigned 64 a < toSigned 64 b
  | 5 => toSigned 64 b ≤ toSigned 64 a
  | 6 => a &&& b ≠ 0
  | _ => a &&& b == 0

/-- COND: a false condition skips the next SKIP descriptors (R362). -/
def condBody (c : Cmd) (s : State) : State :=
  let a := tget 0 (queue s c.q).params (dfld c.raw 0x09 0 4)
  let s := if condHolds (dfld c.raw 0x08 0 3) a (dfld c.raw 0x10 0 64) then s
    else modQueue c.q (fun x => { x with skip := dfld c.raw 0x0A 0 16 }) s
  instant c [] { st := .ok } s

/-- COND. -/
def execCond (f : Fetch) (s : State) : Host.Outcome State Fault Refusal := .next (settle (fetchDo 0x01 f condBody s))

/-- LOOP (R362). -/
def loopBody (c : Cmd) (s : State) : State :=
  let k := dfld c.raw 0x08 0 2
  let count := dfld c.raw 0x0C 0 32
  let target := dfld c.raw 0x10 0 15
  let s := if count = 0 then setHead c.q target s
    else
      let v := tget 0 (queue s c.q).loops k
      let v := (if v = 0 then count else v) - 1
      let s := modQueue c.q (fun x => { x with loops := tput x.loops k v }) s
      if v = 0 then s else setHead c.q target s
  instant c [] { st := .ok } s

/-- LOOP. -/
def execLoop (f : Fetch) (s : State) : Host.Outcome State Fault Refusal := .next (settle (fetchDo 0x02 f loopBody s))

/-- JUMP (R362). -/
def jumpBody (c : Cmd) (s : State) : State := instant c [] { st := .ok } (setHead c.q (dfld c.raw 0x10 0 15) s)

/-- JUMP. -/
def execJump (f : Fetch) (s : State) : Host.Outcome State Fault Refusal := .next (settle (fetchDo 0x03 f jumpBody s))

/-- The synchronisation object of a WAIT_SYNC or SIGNAL_SYNC is checked and referenced (R341, R363); a program's descriptor
keeps its reference (R360). -/
def takeSync (c : Cmd) (k : Bool → State → State) (s : State) : State :=
  let j := dfld c.raw 0x0C 0 20
  if c.again then k true (acceptCmd c [] s)
  else if hQuota s.ps.active c.part 3 ≤ j then refuse c.ref .stateConflict 0 s
  else if (syncObj s c.part j).state ≠ .live then refuse c.ref .objectGone 0 s
  else
    let s := takeSyncRef c.part j (acceptCmd c [] s)
    if held s c then k true (modQueue c.q (fun x => { x with syncAt := tput x.syncAt c.ref.index j }) s) else k false s

/-- WAIT_SYNC: the queue waits until VALUE reaches the target, at once if it has (R342, R363). -/
def waitBody (c : Cmd) (s : State) : State :=
  takeSync c (fun h s =>
    let w : Wait := { obj := dfld c.raw 0x0C 0 20, target := dfld c.raw 0x10 0 63, ref := c.ref, held := h }
    let s := modQueue c.q (fun x => { x with waiting := some w }) s
    if w.target ≤ (syncObj s c.part w.obj).value then endWait c.part c.q w s else s) s

/-- WAIT_SYNC as far as the queue lets it. -/
def waitSt (f : Fetch) (s : State) : State := if waitsAtHead f s then s else fetchDo 0x04 f waitBody s

/-- WAIT_SYNC. -/
def execWaitSync (f : Fetch) (s : State) : Host.Outcome State Fault Refusal := .next (settle (waitSt f s))

/-- SIGNAL_SYNC: accepted, to take effect with the commit of the work before it (R70, R74, R343). -/
def signalBody (c : Cmd) (s : State) : State :=
  takeSync c (fun h s =>
    let after := (s.steps.filter fun t => t.queue == c.q && t.gather.isNone && t.serve.isNone).map fun t => t.id
    let g : Signal := { part := c.part, obj := dfld c.raw 0x0C 0 20, add := dfld c.raw 0x08 0 1 == 1,
                        operand := dfld c.raw 0x10 0 63, ref := c.ref, after := after, order := s.nextId,
                        frame := s.tb.tick, slot := s.tb.slot, held := h }
    { s with qu := { s.qu with signals := s.qu.signals ++ [g] }, nextId := s.nextId + 1 }) s

/-- SIGNAL_SYNC. -/
def execSignalSync (f : Fetch) (s : State) : Host.Outcome State Fault Refusal := .next (settle (fetchDo 0x05 f signalBody s))

/-- LOAD_PARAM: parameter registers from committed memory, none changed when a value is poisoned (R362). -/
def loadBody (c : Cmd) (s : State) : State :=
  let first := dfld c.raw 0x08 0 4
  let count := dfld c.raw 0x09 0 5
  let dva := dfld c.raw 0x10 0 57
  check11 c c.part (rangesOf 0x06 c.raw) [] (fun xs s =>
    match cpRead c.part xs dva (8 * count) s with
    | (none, s) => instant c xs { st := .rights } s
    | (some (_, some _), s) => instant c xs { st := .poison } s
    | (some (bs, none), s) =>
      let vals := numsOf 8 count bs
      let put := fun (t : Tab Nat) (i : Nat) => tput t (first + i) (vals.getD i 0)
      instant c xs { st := .ok } (modQueue c.q (fun x => { x with params := (List.range count).foldl put x.params }) s)) s

/-- LOAD_PARAM as far as the queue, a commit in progress and its reads let it (R71). -/
def loadSt (f : Fetch) (s : State) : State :=
  if waitsAtHead f s || s.cu.open_.isSome then s
  else withReads (fun o => o == 0x06) { toFetch := f } 0 cpNeeds (fetchDo 0x06 f loadBody) s

/-- LOAD_PARAM. -/
def execLoadParam (f : Fetch) (s : State) : Host.Outcome State Fault Refusal := .next (settle (loadSt f s))

end Sys2Proof.Machine
end

