-- ==== Sys2Proof/Machine/WorkCommands.lean ====
section
/-!
DEFINITION. Acceptance of the work commands: TILE_STEP, LRE_POOL, LRE_PQSCAN, LRE_UPDATE, COPY, PREFETCH, ADVISE,
REMOTE_GATHER, DIGEST and CKPT (R62, R169, R190, R200, R206, R325, R345, R361, R364, R407, R447, R448, R452). What they
compute is in Lre.lean and Work.lean; when they run and commit is in Steps.lean and Commit.lean.
-/
namespace Sys2Proof.Machine
open Sys2Proof

/-- The step of an accepted work command. Outside a template it is no booked step, so it runs as best effort (R166, R168). -/
def workStep (s : State) (c : Cmd) (xs : List Xlat) (ranges : List (Nat × Nat × Nat)) : Step :=
  { id := s.nextId, queue := c.q, part := c.part, ctx := c.ref.ctx, opcode := c.ref.opcode, index := c.ref.index,
    raw := c.raw, cls := (queue s c.q).cls, be := true, frameScoped := opFrame c.ref.opcode, xlats := xs, objs := objsOf xs,
    ranges := ranges, order := s.nextId, host := c.f.host }

/-- A work command is accepted: its step joins its queue and BE work is dispatched as far as it goes (R325, R361, R166). -/
def startWork (c : Cmd) (xs : List Xlat) (ranges : List (Nat × Nat × Nat)) (s : State) : State :=
  let s := acceptCmd c xs s
  let s := if held s c then s else takeRefs c.part xs s
  fillBe c.part { s with steps := s.steps ++ [workStep s c xs ranges], nextId := s.nextId + 1 }

/-- A work command whose descriptor alone names its ranges. -/
def workBody (c : Cmd) (s : State) : State :=
  check11 c c.part (rangesOf c.ref.opcode c.raw) [] (fun xs s => startWork c xs [] s) s

/-- A range-table entry (R364): base, size and rights, or none for a reserved encoding. -/
def rangeEntry (bs : List Byte) : Option (Nat × Nat × Nat) :=
  let e := leNat bs
  let base := fld e 0 57
  let size := fld e 64 32
  if fld e 57 7 ≠ 0 ∨ fld e 99 29 ≠ 0 ∨ base % 64 ≠ 0 ∨ size % 64 ≠ 0 ∨ size < 64 ∨ 2 ^ 30 < size then none
  else some (base, size, fld e 96 3)

/-- The range of a table entry with the rights it names. -/
def entryRng (e : Nat × Nat × Nat) : Rng :=
  { dva := e.1, size := e.2.1, r := bitAt e.2.2 2, w := bitAt e.2.2 1, a := bitAt e.2.2 0 }

/-- The kernel image of a TILE_STEP; its header is read before its length is known (R364). -/
def kernelRng (d : Desc) (len : Nat) : Rng := { dva := dfld d 0x08 0 57, size := max 1 len, r := true }

/-- The kernel image as a range that the tile may read (R364). -/
def kernelGrant (d : Desc) (len : Nat) : Nat × Nat × Nat := (dfld d 0x08 0 57, max 1 len, 4)

/-- What reading and checking a range table gives. -/
def readTable (n : Nat) (xs : List Xlat) (d : Desc) (s : State) : Except Status (List (Nat × Nat × Nat)) × State :=
  let count := dfld d 0x18 0 5
  match cpRead n xs (dfld d 0x10 0 57) (16 * count) s with
  | (none, s) => (.error .rights, s)
  | (some (_, some _), s) => (.error .poison, s)
  | (some (bs, none), s) =>
    let es := (List.range count).map fun i => rangeEntry ((bs.drop (16 * i)).take 16)
    if es.any fun e => e.isNone then (.error .reservedNonzero, s) else (.ok (es.filterMap id), s)

/-- TILE_STEP: its range table is read at check 11 and becomes part of the command (R364). -/
def tileBody (c : Cmd) (s : State) : State :=
  if c.again then
    let x := queue s c.q
    startWork c (tget [] x.acceptedAt c.ref.index) (tget [] x.tableAt c.ref.index) s
  else
    check11 c c.part (rangesOf 0x40 c.raw) [] (fun xs s =>
      match readTable c.part xs c.raw s with
      | (.error st, s) => refuse c.ref st (if st = .rights then dfld c.raw 0x10 0 57 else 0) s
      | (.ok es, s) =>
        check11 c c.part (rangesOf 0x40 c.raw ++ kernelRng c.raw c.extra :: es.map entryRng) [] (fun xs s =>
          let es := kernelGrant c.raw c.extra :: es
          let s := if held s c then modQueue c.q (fun x => { x with tableAt := tput x.tableAt c.ref.index es }) s else s
          startWork c xs es s) s) s

/-- TILE_STEP, from its fetch; while a commit is in progress its table's read waits, and the fetch comes later (R71). -/
def tileSt (f : TileFetch) (s : State) : State :=
  if s.cu.open_.isSome then s
  else
    let g : CreateFetch := { toFetch := f.toFetch }
    withReads (fun o => o == 0x40) g f.kernelLen cpNeeds (fun s =>
      match gate (fun o => o == 0x40) g f.kernelLen s with
      | (some c, s) => touchQueue c.q (tileBody c s)
      | (none, s) => s) s

/-- TILE_STEP. -/
def execTileStep (f : TileFetch) (s : State) : Host.Outcome State Fault Refusal := .next (settle (tileSt f s))

/-- LRE_POOL. -/
def execLrePool (f : Fetch) (s : State) : Host.Outcome State Fault Refusal := .next (settle (fetchDo 0x41 f workBody s))

/-- LRE_PQSCAN. -/
def execLrePqscan (f : Fetch) (s : State) : Host.Outcome State Fault Refusal := .next (settle (fetchDo 0x42 f workBody s))

/-- LRE_UPDATE. -/
def execLreUpdate (f : Fetch) (s : State) : Host.Outcome State Fault Refusal := .next (settle (fetchDo 0x43 f workBody s))

/-- The device-window ranges of a COPY (R320, R364). -/
def copyRanges (d : Desc) : List Rng := (rangesOf 0x44 d).filter fun g => !isHost g.dva

/-- COPY: one of its ranges may lie in the host window (R321, R364). -/
def copyBody (c : Cmd) (s : State) : State :=
  if copyRanges c.raw = [] then refuse c.ref .rights (dfld c.raw 0x08 0 57) s
  else check11 c c.part (copyRanges c.raw) (hostRangeOf c.raw) (fun xs s => startWork c xs [] s) s

/-- COPY. -/
def execCopy (f : Fetch) (s : State) : Host.Outcome State Fault Refusal := .next (settle (fetchDo 0x44 f copyBody s))

/-- PREFETCH. -/
def execPrefetch (f : Fetch) (s : State) : Host.Outcome State Fault Refusal := .next (settle (fetchDo 0x45 f workBody s))

/-- ADVISE. -/
def execAdvise (f : Fetch) (s : State) : Host.Outcome State Fault Refusal := .next (settle (fetchDo 0x46 f workBody s))

/-- REMOTE_GATHER; one that names an ABORTED job fails check 12 (R405). -/
def gatherBody (c : Cmd) (s : State) : State :=
  check11 c c.part (rangesOf 0x47 c.raw) [] (fun xs s =>
    if jobIn s c.part 0x47 c.raw .aborted then refuse c.ref .jobAborted 0 s else startWork c xs [] s) s

/-- REMOTE_GATHER. -/
def execRemoteGather (f : Fetch) (s : State) : Host.Outcome State Fault Refusal := .next (settle (fetchDo 0x47 f gatherBody s))

/-- PERIOD_TICK opens the present digest period or the one before it (R448). -/
def periodOk (s : State) (tick : Nat) : Bool :=
  let p := max 1 s.fc.periodFrames
  let now := s.tb.tick / p * p
  tick == now || tick + p == now

/-- The comparison entry of a key (R452). -/
def findCmp (s : State) (n slot rangeId tick : Nat) : Option CmpEntry :=
  s.fc.cmps.find? fun e => e.part == n && e.slot == slot && e.rangeId == rangeId && e.periodTick == tick

/-- A comparison entry is free for a partition: 256 on the chip, 8 for each partition (R452). -/
def cmpFree (s : State) (n : Nat) : Bool :=
  s.fc.cmps.length < 256 && (s.fc.cmps.filter fun e => e.part == n).length < 8

/-- A LAST command with NOTE can have its entry (R452). -/
def noteOk (s : State) (n : Nat) (d : Desc) : Bool :=
  let slot := dfld d 0x0A 0 5
  let job := tget {} s.nu.jobs (pkey 5 n slot)
  job.state == .active && job.count ≤ 15 &&
    ((findCmp s n slot (dfld d 0x1C 0 32) (dfld d 0x30 0 48)).isSome || cmpFree s n)

/-- The entry of a LAST command with NOTE opens (R452). -/
def openCmp (n : Nat) (d : Desc) (s : State) : State :=
  let slot := dfld d 0x0A 0 5
  let rangeId := dfld d 0x1C 0 32
  let tick := dfld d 0x30 0 48
  let isKey := fun (e : CmpEntry) => e.part == n && e.slot == slot && e.rangeId == rangeId && e.periodTick == tick
  if s.fc.cmps.any isKey then s
  else
    let e : CmpEntry := { part := n, slot := slot, rangeId := rangeId, periodTick := tick, digests := [],
                          members := (tget {} s.nu.jobs (pkey 5 n slot)).count }
    { s with fc := { s.fc with cmps := s.fc.cmps ++ [e] } }

/-- DIGEST's check 12 (R447, R448, R452). -/
def digestOk (s : State) (n : Nat) (d : Desc) : Bool :=
  let last := dfld d 0x08 1 1 == 1
  (last || streamLen d % 65536 == 0) && periodOk s (dfld d 0x30 0 48) &&
    (!(last && dfld d 0x08 3 1 == 1) || noteOk s n d)

/-- DIGEST. -/
def digestBody (c : Cmd) (s : State) : State :=
  check11 c c.part (rangesOf 0x48 c.raw) [] (fun xs s =>
    if jobIn s c.part 0x48 c.raw .aborted then refuse c.ref .jobAborted 0 s
    else if !digestOk s c.part c.raw then refuse c.ref .stateConflict 0 s
    else
      let s := if dfld c.raw 0x08 1 1 = 1 && dfld c.raw 0x08 3 1 = 1 then openCmp c.part c.raw s else s
      startWork c xs [] s) s

/-- DIGEST. -/
def execDigest (f : Fetch) (s : State) : Host.Outcome State Fault Refusal := .next (settle (fetchDo 0x48 f digestBody s))

/-- CKPT as far as the queue lets it (R169, R361). -/
def ckptSt (f : Fetch) (s : State) : State := if waitsAtHead f s then s else fetchDo 0x84 f workBody s

/-- CKPT. -/
def execCkpt (f : Fetch) (s : State) : Host.Outcome State Fault Refusal := .next (settle (ckptSt f s))

end Sys2Proof.Machine
end

