-- ==== Sys2Proof/Machine/Admin.lean ====
section
/-!
DEFINITION. The administration commands: creating and destroying queues, revoking contexts, resets, key IDs and DUMP (R163,
R170, R307, R309, R366, R374 to R378, R473 to R475, R480, R492).
-/
namespace Sys2Proof.Machine
open Sys2Proof

/-! ### CREATE_QUEUE -/

/-- The ring of a new queue: its DVA and bytes. -/
def newRing (d : Desc) : Nat × Nat := (dfld d 0x10 0 57, 64 * 2 ^ dfld d 0x0E 0 5)

/-- The device-window ranges of a CREATE_QUEUE: its ring and its checkpoint record (R374). -/
def createRanges (d : Desc) : List Rng :=
  let (ring, size) := newRing d
  let ck := dfld d 0x20 0 57
  (if isHost ring then [] else [{ dva := ring, size := size, r := true }]) ++
    (if ck = 0 || isHost ck then [] else [{ dva := ck, size := 256, r := true }])

/-- The host-window ranges whose rights a CREATE_QUEUE needs, its completion ring among them (R321, R330, R374). -/
def createHosts (d : Desc) : List Rng :=
  let (ring, size) := newRing d
  let ck := dfld d 0x20 0 57
  (if isHost ring then [{ dva := ring, size := size, r := true }] else []) ++
    { dva := dfld d 0x18 0 57, size := 32 * 2 ^ dfld d 0x0F 0 5, w := true } ::
    (if isHost ck then [{ dva := ck, size := 256, r := true }] else [])

/-- What a read for CREATE_QUEUE gives: the bytes, or the status it completes with. -/
def createRead (n : Nat) (xs : List Xlat) (dva len : Nat) (s : State) : Except Status (List Byte) × State :=
  match cpRead n xs dva len s with
  | (none, s) => (.error .rights, s)
  | (some (_, some _), s) => (.error .poison, s)
  | (some (bs, none), s) => (.ok bs, s)

/-- The checkpoint record of a CREATE_QUEUE, none when it names none (R169, R374). -/
def ckptOf (n : Nat) (xs : List Xlat) (c : Cmd) (s : State) : Except Status (Option Nat) × State :=
  let ck := dfld c.raw 0x20 0 57
  if ck = 0 then (.ok none, s)
  else if isHost ck then
    match c.f.ckpt with
    | none => (.error .rights, s)
    | some r => (.ok (some r.toNat), s)
  else
    let (r, s) := createRead n xs ck 256 s
    (r.map fun bs => some (leNat bs), s)

/-- The descriptors of an intake queue's ring (R366). -/
def ringOf (n : Nat) (xs : List Xlat) (c : Cmd) (s : State) : Except Status (List Desc) × State :=
  let (ring, size) := newRing c.raw
  if isHost ring then (.ok ((List.range (size / 64)).map fun i => c.f.ring.getD i 0), s)
  else
    let (r, s) := createRead n xs ring size s
    (r.map fun bs => (List.range (size / 64)).map fun i => BitVec.ofNat 512 (leNat ((bs.drop (64 * i)).take 64)), s)

/-- The state conditions of R375 before any template is looked at. -/
def createOk (s : State) (n : Nat) (d : Desc) (ck : Option Nat) : Bool :=
  let kind := dfld d 0x08 6 2
  let cls := dfld d 0x08 0 4
  let own := dfld d 0x0C 0 16
  let k := hClass s.ps.active n cls
  let intake := kind = 2
  !(queue s (dfld d 0x0A 0 10)).live && queueCount s n < hQuota s.ps.active n 1 && k.valid && (k.be || intake) &&
    (!intake || (tget 0 s.rie.areaBase n ≠ 0 && tget 0 s.rie.batchBase n ≠ 0 &&
      !s.qu.qs.any fun p => p.2.live && p.2.kind == .intake && p.2.part == n && p.2.cls == cls)) &&
    ck.all (fun r => kind ≠ 0 && fld r 0 4 == 1 && fld r 128 64 < 2 ^ dfld d 0x0E 0 5) &&
    !isLost s n own && ctxFits s n own

/-- The ranges of a template; a TILE_STEP's need its range table, or fail with the table's status (R364, R366). -/
def templateRanges (c : Cmd) (n pos : Nat) (raw : Desc) (s : State) :
    Option (List Rng × List Rng × List (Nat × Nat × Nat)) :=
  let op := dOpcode raw
  if op = 0x44 then (if copyRanges raw = [] then none else some (copyRanges raw, hostRangeOf raw, []))
  else if op = 0x40 then
    match walkRanges s n c.f.host (rangesOf 0x40 raw) with
    | .ok xs =>
      match readTable n xs raw s with
      | (.ok es, _) =>
        let len := tget 0 c.f.kernels pos
        some (rangesOf 0x40 raw ++ kernelRng raw len :: es.map entryRng, [], kernelGrant raw len :: es)
      | _ => none
    | _ => none
  else some (rangesOf op raw, [], [])

/-- One template is accepted, or the creation fails (R366): checks 1 to 11, a miss among their failures. -/
def takeTemplate (c : Cmd) (n : Nat) (x : Queue) (pos : Nat) (raw0 : Desc) (s : State) : Option (Template × State) :=
  let raw := applyPatch x raw0
  if dTag raw0 ≠ pos % 65536 || (headCheck s (dfld c.raw 0x0A 0 10) x raw).isSome then none
  else
    match templateRanges c n pos raw s with
    | none => none
    | some (rngs, hosts, es) =>
      let s := countWalks n c.f.host rngs s
      match walkRanges s n c.f.host rngs with
      | .ok xs =>
        match hostAll n (dCtx raw) hosts c.f.ats s with
        | (.ok, s) =>
          if !pinFits s n xs then none
          else
            let xs := dedupX xs
            let s := takeRefs n xs { s with qu := { s.qu with accepts := satAdd 64 s.qu.accepts 1 } }
            let s := if ctxState s n (dCtx raw) = .unused then setCtx n (dCtx raw) .live s else s
            some ({ pos := pos, step := dStep raw0, raw := raw0, xlats := xs, ranges := es }, s)
        | _ => none
      | _ => none

/-- The SERVE positions of a ring. -/
def servePositions (ds : List Desc) : List (Nat × Desc) :=
  ((List.range ds.length).zip ds).filter fun p => dServe p.2

/-- The templates of an intake queue, or the position of the first that fails (R366). -/
def takeTemplates (c : Cmd) (n : Nat) (x : Queue) (ds : List Desc) (s : State) : Except Nat (List Template × State) :=
  let order := tget 0 s.ac.classOrder (16 * n + x.cls)
  let k := hClass s.ps.active n x.cls
  let l := servePositions ds
  let count := if k.be then l.length else k.steps + k.fsteps
  let r := l.foldl (fun (acc : Except Nat (List Template × State)) p =>
    match acc with
    | .error e => .error e
    | .ok (ts, s) =>
      let op := dOpcode p.2
      let step := dStep p.2
      if count ≤ step || ts.any (fun t => t.step == step) || !opWork op || opFrame op != bitAt order step then .error p.1
      else
        match takeTemplate c n x p.1 p.2 s with
        | none => .error p.1
        | some (t, s) => .ok (ts ++ [t], s)) (.ok ([], s))
  match r with
  | .ok (ts, s) => if ts.length = count then .ok (sortBy (fun t => t.step) ts, s) else .error 0
  | .error e => .error e

/-- The queue that a CREATE_QUEUE describes (R351, R362, R374; R170 with a checkpoint record). -/
def newQueue (n : Nat) (d : Desc) (xs : List Xlat) (ck : Option Nat) (s : State) : Queue :=
  let r := ck.getD 0
  { live := true, kind := if dfld d 0x08 6 2 = 0 then .streaming else if dfld d 0x08 6 2 = 1 then .persistent else .intake,
    part := n, cls := dfld d 0x08 0 4, owner := dfld d 0x0C 0 16, weight := dfld d 0x09 0 8, ringLog2 := dfld d 0x0E 0 5,
    cqLog2 := dfld d 0x0F 0 5, ring := dfld d 0x10 0 57, cq := dfld d 0x18 0 57, vector := dfld d 0x2A 0 6,
    wdog := dfld d 0x28 0 16, state := .idle, head := fld r 128 64,
    params := (List.range 16).foldl (fun t i => tput t i (fld r (512 + 64 * i) 64)) [],
    loops := (List.range 4).foldl (fun t i => tput t i (fld r (256 + 32 * i) 32)) [],
    ringXlats := xs.filter fun y => !isHost (dfld d 0x10 0 57) && overlapsX y (newRing d), lastTick := s.tb.tick }
where
  overlapsX (y : Xlat) (r : Nat × Nat) : Bool := y.dva < r.1 + r.2 && r.1 < y.dva + y.size

/-- CREATE_QUEUE (R374, R375). -/
def createBody (c : Cmd) (s : State) : State :=
  let d := c.raw
  let n := dfld d 0x2C 0 5
  let q := dfld d 0x0A 0 10
  check11 c n (createRanges d) (createHosts d) (fun xs s =>
    match ckptOf n xs c s with
    | (.error st, s) => refuse c.ref st 0 s
    | (.ok ck, s) =>
      if !createOk s n d ck then refuse c.ref .stateConflict 0 s
      else
        let x := newQueue n d xs ck s
        let owned := fun (s : State) => if ctxState s n x.owner = .unused then setCtx n x.owner .live s else s
        let make := fun (ts : List Template) (s : State) =>
          touchQueue q (modQueue q (fun _ => { x with templates := ts }) (instant c [] { st := .ok } s))
        if x.kind ≠ .intake then make [] (owned s)
        else
          match ringOf n xs c s with
          | (.error st, s) => refuse c.ref st 0 s
          | (.ok ds, s) =>
            match takeTemplates c n x ds (owned s) with
            | .error pos => refuse c.ref .stateConflict pos s
            | .ok (ts, s) => make ts s) s

/-- The lines that a CREATE_QUEUE has its Command Processor read: ring and checkpoint record, and once an intake queue's ring
is in, the range tables of its templates (R364, R366, R374). -/
def createNeeds (c : Cmd) (s : State) : List (Nat × Nat × Nat) :=
  let n := dfld c.raw 0x2C 0 5
  let own := needsOf s n c.f.host (createRanges c.raw)
  let ring : List Desc := match walkRanges s n c.f.host (createRanges c.raw) with
    | .ok xs => match (ringOf n xs c s).1 with
      | .ok ds => ds
      | .error _ => []
    | _ => []
  own ++ if dfld c.raw 0x08 6 2 ≠ 2 then []
    else (servePositions ring).flatMap fun p =>
      if dOpcode p.2 = 0x40 then needsOf s n c.f.host (rangesOf 0x40 p.2) else []

/-- CREATE_QUEUE, from its fetch. -/
def createSt (f : CreateFetch) (s : State) : State :=
  withReads (fun o => o == 0xC0) f 0 createNeeds (fun s =>
    match gate (fun o => o == 0xC0) f 0 s with
    | (some c, s) => touchQueue c.q (createBody c s)
    | (none, s) => s) s

/-- CREATE_QUEUE. -/
def execCreateQueue (f : CreateFetch) (s : State) : Host.Outcome State Fault Refusal := .next (settle (createSt f s))

/-! ### DESTROY_QUEUE and CONTEXT_REVOKE -/

/-- DESTROY_QUEUE (R376, R378). -/
def destroyBody (c : Cmd) (s : State) : State :=
  let q := dfld c.raw 0x0A 0 10
  let x := queue s q
  if !x.live || x.state = .destroying || x.part ≠ dfld c.raw 0x2C 0 5 then refuse c.ref .stateConflict 0 s
  else startKills { domain := .destroy q, cmd := some c.ref, counts := openCounts s fun p _ => p == q } (acceptCmd c [] s)

/-- DESTROY_QUEUE. -/
def execDestroyQueue (f : Fetch) (s : State) : Host.Outcome State Fault Refusal :=
  .next (settle (fetchDo 0xC1 f destroyBody s))

/-- CONTEXT_REVOKE (R377). -/
def revokeBody (c : Cmd) (s : State) : State :=
  let n := dfld c.raw 0x2C 0 5
  let k := dfld c.raw 0x0C 0 16
  if ctxState s n k = .unused then refuse c.ref .stateConflict 0 s
  else
    let mine := fun (q ctx : Nat) => (queue s q).part == n && (ctx == k || (queue s q).owner == k)
    startKills { domain := .revoke n k, cmd := some c.ref, counts := openCounts s mine } (acceptCmd c [] s)

/-- CONTEXT_REVOKE. -/
def execContextRevoke (f : Fetch) (s : State) : Host.Outcome State Fault Refusal :=
  .next (settle (fetchDo 0xC2 f revokeBody s))

/-! ### Resets (R473 to R475) -/

/-- RESET_CONTEXT (R474, R477). -/
def resetContextBody (c : Cmd) (s : State) : State :=
  let n := dfld c.raw 0x2C 0 5
  let k := dfld c.raw 0x0C 0 16
  if ctxState s n k = .unused then refuse c.ref .stateConflict 0 s
  else askReset { domain := .context n k, cmd := some c.ref, dump := dfld c.raw 0x08 0 1 == 1 } (acceptCmd c [] s)

/-- RESET_CONTEXT. -/
def execResetContext (f : Fetch) (s : State) : Host.Outcome State Fault Refusal :=
  .next (settle (fetchDo 0xC3 f resetContextBody s))

/-- RESET_ENGINE (R474, R478). -/
def resetEngineBody (c : Cmd) (s : State) : State :=
  let e := dfld c.raw 0x0C 0 9
  if s.rc.replay.any fun p => p.engine == e then refuse c.ref .stateConflict 0 s
  else askReset { domain := .engine e, cmd := some c.ref, dump := dfld c.raw 0x08 0 1 == 1,
                  replay := dfld c.raw 0x08 1 1 == 1 } (acceptCmd c [] s)

/-- RESET_ENGINE. -/
def execResetEngine (f : Fetch) (s : State) : Host.Outcome State Fault Refusal :=
  .next (settle (fetchDo 0xC4 f resetEngineBody s))

/-- RESET_PARTITION (R479). -/
def resetPartitionBody (c : Cmd) (s : State) : State :=
  askReset { domain := .partition (dfld c.raw 0x2C 0 5), cmd := some c.ref, dump := dfld c.raw 0x08 0 1 == 1 }
    (acceptCmd c [] s)

/-- RESET_PARTITION. -/
def execResetPartition (f : Fetch) (s : State) : Host.Outcome State Fault Refusal :=
  .next (settle (fetchDo 0xC5 f resetPartitionBody s))

/-- RESET_CHIP: its preparation follows (R480, R497). -/
def resetChipBody (c : Cmd) (s : State) : State :=
  askChipReset { cause := .command, dump := dfld c.raw 0x08 0 1 == 1, power := dfld c.raw 0x08 1 1 == 1, cmd := some c.ref }
    (acceptCmd c [] s)

/-- RESET_CHIP. -/
def execResetChip (f : Fetch) (s : State) : Host.Outcome State Fault Refusal :=
  .next (settle (fetchDo 0xC6 f resetChipBody s))

/-! ### Key IDs (R307, R309) -/

/-- Lines in the LLC whose DPA carries a key ID. -/
def keyLines (s : State) (k : Nat) : List Nat := (s.coh.lines.filter fun p => p.2.keyId == k).map fun p => p.1

/-- FLUSH_KEYID: every slice starts to recall and invalidate the key ID's lines (R309). -/
def flushBody (c : Cmd) (s : State) : State :=
  let k := dfld c.raw 0x08 0 7
  if (keyRec s k).state ≠ .dirty then refuse c.ref .stateConflict 0 s
  else
    let s := setKey k .flushing (acceptCmd c [] s)
    let s := { s with mi := { s.mi with flushCmd := tput s.mi.flushCmd k c.ref } }
    (keyLines s k).foldl (fun s i => evict i s) s

/-- FLUSH_KEYID. -/
def execFlushKeyid (f : Fetch) (s : State) : Host.Outcome State Fault Refusal :=
  .next (settle (fetchDo 0xC7 f flushBody s))

/-- PCs on which a key ID's retirement runs: their present-key bitmap holds it and they are not exhausted (R309). -/
def retirePcs (s : State) (k : Nat) : List Nat :=
  (s.mi.pcs.filter fun p => p.2.present.getLsbD k && !p.2.exhausted).map fun p => p.1

/-- A retirement pass of a PC starts, or waits for the sweep that runs there (R304, R309). -/
def startRetire (k p : Nat) (s : State) : State :=
  let w : Sweep := { kind := .retire k }
  modPc p (fun x => if x.sweep.isNone then { x with sweep := some w } else { x with queued := x.queued ++ [w] }) s

/-- RETIRE_KEYID (R309). -/
def retireBody (c : Cmd) (s : State) : State :=
  let k := dfld c.raw 0x08 0 7
  if (keyRec s k).state ≠ .flushed then refuse c.ref .stateConflict 0 s
  else
    let s := setKey k .retiring (acceptCmd c [] s)
    let s := { s with mi := { s.mi with retireCmd := tput s.mi.retireCmd k c.ref } }
    (retirePcs s k).foldl (fun s p => startRetire k p s) s

/-- RETIRE_KEYID. -/
def execRetireKeyid (f : Fetch) (s : State) : Host.Outcome State Fault Refusal :=
  .next (settle (fetchDo 0xC8 f retireBody s))

/-! ### DUMP (R492) -/

/-- DUMP: a capture without a reset, refused while the dump area is unset. -/
def dumpBody (c : Cmd) (s : State) : State :=
  let n := dfld c.raw 0x2C 0 5
  if tget 0 s.rc.dumpBase n = 0 then refuse c.ref .stateConflict 0 s
  else askReset { domain := .dump n, cmd := some c.ref, dump := true } (acceptCmd c [] s)

/-- DUMP. -/
def execDump (f : Fetch) (s : State) : Host.Outcome State Fault Refusal := .next (settle (fetchDo 0xC9 f dumpBody s))

end Sys2Proof.Machine
end

