-- ==== Sys2Proof/Machine/Objects.lean ====
section
/-!
DEFINITION. MAP, UNMAP, OBJ_REF and OBJ_UNREF (R335 to R341).
-/
namespace Sys2Proof.Machine
open Sys2Proof

/-- Two address ranges share a byte. -/
def overlaps (a n b m : Nat) : Bool := a < b + m && b < a + n

/-- The range overlaps a LIVE or RELEASED object of the partition (R337). -/
def objOverlap (s : State) (n base size : Nat) : Bool :=
  s.tu.objs.any fun p => p.1 / 2 ^ 20 == n && p.2.state ≠ .free && overlaps base size p.2.base p.2.size

/-- MAP creates a memory object (R337). -/
def mapBody (c : Cmd) (s : State) : State :=
  let j := dfld c.raw 0x0C 0 20
  let base := dfld c.raw 0x10 0 57
  let size := dfld c.raw 0x18 0 64
  if 2 ^ 56 < base + size then refuse c.ref .rights base s
  else if j = 0 || (vfTu s c.part).objCount ≤ j || (memObj s c.part j).state ≠ .free || objOverlap s c.part base size then
    refuse c.ref .stateConflict 0 s
  else
    let o : MemObj := { state := .live, owner := c.ref.ctx, hostRefs := 1, mapped := true, base := base, size := size }
    instant c [] { st := .ok } (setObj c.part j o s)

/-- MAP. -/
def execMap (f : Fetch) (s : State) : Host.Outcome State Fault Refusal := .next (settle (fetchDo 0x80 f mapBody s))

/-- UNMAP drops the host reference that MAP took (R337, R338). -/
def unmapBody (c : Cmd) (s : State) : State :=
  let j := dfld c.raw 0x0C 0 20
  let o := memObj s c.part j
  if o.state = .free then refuse c.ref .objectGone 0 s
  else if o.state = .released || !o.mapped then refuse c.ref .stateConflict 0 s
  else instant c [] { st := .ok } (countObj c.part j { o with mapped := false, hostRefs := o.hostRefs - 1 } s)

/-- UNMAP. -/
def execUnmap (f : Fetch) (s : State) : Host.Outcome State Fault Refusal := .next (settle (fetchDo 0x81 f unmapBody s))

/-- The synchronisation area (R340). -/
def syncRange (s : State) (n : Nat) : Rng := { dva := (vfTu s n).syncArea, size := 32 * hQuota s.ps.active n 3, r := true }

/-- The mapping of the synchronisation area, if the whole area lies in one LIVE object whose pages grant R alone (R340); a
page that cannot be translated leaves it unmapped. -/
def syncArea (s : State) (n : Nat) (v : HostView) : Option (List Xlat) :=
  match walkRange s n v (syncRange s n) with
  | .ok xs => if (objsOf xs).length = 1 && xs.all (fun x => !x.w && !x.a) then some (dedupX xs) else none
  | _ => none

/-- OBJ_REF creates a synchronisation object, or adds a host reference (R337, R341). -/
def refBody (c : Cmd) (s : State) : State :=
  let j := dfld c.raw 0x0C 0 20
  let sync := dfld c.raw 0x08 0 1 = 1
  if dfld c.raw 0x08 1 1 = 1 then
    let area := syncArea s c.part c.f.host
    let s := countWalks c.part c.f.host [syncRange s c.part] s
    match area with
    | none => refuse c.ref .stateConflict 0 s
    | some xs =>
      if hQuota s.ps.active c.part 3 ≤ j || (syncObj s c.part j).state ≠ .free then refuse c.ref .stateConflict 0 s
      else
        let o : SyncObj := { state := .live, value := dfld c.raw 0x10 0 63, owner := c.ref.ctx, hostRefs := 1 }
        instant c [] { st := .ok } (setSync c.part j o (modVfTu c.part (fun t => { t with syncXlat := xs }) s))
  else if sync then
    let o := syncObj s c.part j
    if o.state ≠ .live then refuse c.ref .objectGone 0 s
    else instant c [] { st := .ok } (setSync c.part j { o with hostRefs := o.hostRefs + 1 } s)
  else
    let o := memObj s c.part j
    if o.state ≠ .live then refuse c.ref .objectGone 0 s
    else instant c [] { st := .ok } (setObj c.part j { o with hostRefs := o.hostRefs + 1 } s)

/-- OBJ_REF. -/
def execObjRef (f : Fetch) (s : State) : Host.Outcome State Fault Refusal := .next (settle (fetchDo 0x82 f refBody s))

/-- OBJ_UNREF drops a host reference (R337, R338, R341). -/
def unrefBody (c : Cmd) (s : State) : State :=
  let j := dfld c.raw 0x0C 0 20
  if dfld c.raw 0x08 0 1 = 1 then
    let o := syncObj s c.part j
    if o.state ≠ .live then refuse c.ref .objectGone 0 s
    else instant c [] { st := .ok } (countSync c.part j { o with hostRefs := o.hostRefs - 1 } s)
  else
    let o := memObj s c.part j
    if o.state ≠ .live then refuse c.ref .objectGone 0 s
    else instant c [] { st := .ok } (countObj c.part j { o with hostRefs := o.hostRefs - 1 } s)

/-- OBJ_UNREF. -/
def execObjUnref (f : Fetch) (s : State) : Host.Outcome State Fault Refusal := .next (settle (fetchDo 0x83 f unrefBody s))

end Sys2Proof.Machine
end

