-- ==== Sys2Proof/Machine/Answers.lean ====
section
/-!
DEFINITION. Answers to held commands: TU_ANSWER, the event ring's head, ATS and PRI (R328 to R331, R347).
-/
namespace Sys2Proof.Machine
open Sys2Proof

/-- What a held command does when it goes on. -/
def resumeBody (c : Cmd) (s : State) : State :=
  if c.ref.opcode = 0x06 then loadBody c s
  else if c.ref.opcode = 0x40 then tileBody c s
  else if c.ref.opcode = 0x44 then copyBody c s
  else if c.ref.opcode = 0x48 then digestBody c s
  else if c.ref.opcode = 0xC0 then createBody c s
  else workBody c s

/-- The command of a held descriptor, with what its acceptance reads now. -/
def heldCmd (s : State) (q : Nat) (h : Held) (host : HostView) (ats : List AtsAnswer) : Cmd :=
  { q := q, part := (queue s q).part,
    ref := { queue := q, index := h.index, ctx := dCtx h.raw, opcode := h.opcode, cmpl := dfld h.raw 6 1 1 == 1,
             irq := dfld h.raw 6 2 1 == 1 },
    raw := h.raw, f := { h.fetch with host := host, ats := ats }, extra := h.extra }

/-- A held command is translated again from the start (R328, R330), once the lines that it reads are in; its context may have been lost, or the partition's
contexts used up, meanwhile (R333, R334). -/
def resumeHeld (q : Nat) (h : Held) (host : HostView) (ats : List AtsAnswer) (s : State) : State :=
  let c := heldCmd s q h host ats
  match bringIn (if c.ref.opcode = 0xC0 then createNeeds c s else cpNeeds c s) s with
  | (false, s) => s
  | (true, s) =>
  let s := modQueue q (fun x => { x with miss := none }) s
  if isLost s c.part c.ref.ctx then refuse c.ref .contextLost 0 s
  else if !ctxFits s c.part c.ref.ctx then refuse c.ref .stateConflict 0 s
  else touchQueue q (resumeBody c s)

/-- A held command completes with RIGHTS and no effect (R328, R330). -/
def failHeld (q : Nat) (h : Held) (s : State) : State :=
  refuse (heldCmd s q h [] []).ref .rights h.dva (modQueue q (fun x => { x with miss := none }) s)

/-- The queue that a MISS record's SEQ names (R328). -/
def missOf (s : State) (n seq : Nat) : Option (Nat × Held) :=
  s.qu.qs.findSome? fun p =>
    match p.2.miss with
    | some h => if seq ≠ 0 && h.seq == seq && h.part == n then some (p.1, h) else none
    | none => none

/-- A TU_ANSWER whose SEQ names no held miss (R328). -/
def dropAnswer (s : State) : State := { s with tu := { s.tu with answerDrops := satAdd 64 s.tu.answerDrops 1 } }

/-- TU_ANSWER with FAIL 0 (R328); a function that is not ready drops the write (R31, R33). -/
def retrySt (n seq : Nat) (host : HostView) (ats : List AtsAnswer) (s : State) : State :=
  if !vfReady s n then s
  else
    match missOf s n seq with
    | none => dropAnswer s
    | some (q, h) => resumeHeld q h host ats s

/-- TU_ANSWER_RETRY. -/
def execTuAnswerRetry (part seq : Nat) (host : HostView) (ats : List AtsAnswer) (s : State) (tbit : Bool := false) : Host.Outcome State Fault Refusal :=
  .next (settle (atBar (.vf part) tbit (retrySt part seq host ats) s))

/-- TU_ANSWER with FAIL 1 (R328). -/
def answerFailSt (n seq : Nat) (s : State) : State :=
  if !vfReady s n then s
  else
    match missOf s n seq with
    | none => dropAnswer s
    | some (q, h) => failHeld q h s

/-- TU_ANSWER_FAIL. -/
def execTuAnswerFail (part seq : Nat) (s : State) (tbit : Bool := false) : Host.Outcome State Fault Refusal :=
  .next (settle (atBar (.vf part) tbit (answerFailSt part seq) s))

/-- A write of EVQ_HEAD makes room for waiting records (R328, R347). -/
def evqHeadSt (n : Nat) (value : BitVec 32) (s : State) : State :=
  if !vfReady s n then s
  else evDrain n ((vfTu s n).waiting.length + 1) (modVfTu n (fun t => { t with evqHead := value.toNat % 2 ^ 17 }) s)

/-- EVQ_HEAD_WRITE. -/
def execEvqHeadWrite (part : Nat) (value : BitVec 32) (s : State) (tbit : Bool := false) : Host.Outcome State Fault Refusal :=
  .next (settle (atBar (.vf part) tbit (evqHeadSt part value) s))

/-- Cached translations of a function that share a byte with a range of bus addresses leave the cache (R331). -/
def dropAtc (fn : Fn) (base size : Nat) (s : State) : State :=
  { s with tu := { s.tu with atc := s.tu.atc.filter fun e => !(e.fn = fn && overlaps e.base e.size base size) } }

/-- A COPY at its dispatch gets the answer it asked for (R331): it runs, or completes with TRANSLATION_PENDING; with STATE_CONFLICT
where the partition's cache entries are all in use (R330). -/
def answerCopy (t : Step) (a : AtsAnswer) (s : State) : State :=
  let e : AtcEntry := { fn := .vf t.part, ctx := t.ctx, base := a.base, size := a.size, r := a.r, w := a.w }
  let s := modStep t.id (fun t => { t with atsWait := false }) s
  match atcRoom t.part s with
  | none => finishStep t { st := .stateConflict } s
  | some s =>
  let s := { s with tu := { s.tu with atc := e :: s.tu.atc } }
  let bad := (hostRangeOf t.raw).find? fun g =>
    match atcHit s (.vf t.part) g with
    | none => true
    | some e => (g.r && !e.r) || (g.w && !e.w)
  match bad with
  | none => readsNow t.id s
  | some g => finishStep t { st := .translationPending, detail := g.dva } s

/-- An ATS Translation Completion for a queue's held command, or for its COPY that waits at its dispatch (R330, R331). -/
def atsSt (q : Nat) (a : AtsAnswer) (host : HostView) (s : State) : State :=
  let waits := s.steps.find? fun t => t.queue == q && t.atsWait && t.phase == .running
  match (queue s q).miss, waits with
  | some h, _ => if h.seq = 0 then resumeHeld q h host [a] s else s
  | none, some t => answerCopy t a s
  | none, none => s

/-- ATS_TRANSLATION_COMPLETION. -/
def execAtsTranslationCompletion (queue : Nat) (answer : AtsAnswer) (host : HostView) (s : State) :
    Host.Outcome State Fault Refusal := .next (settle (atsSt queue answer host s))

/-- A Page Request Group Response (R330): Success repeats the Translation Request, any other ends the command. -/
def pageSt (q : Nat) (success : Bool) (s : State) : State :=
  match (queue s q).miss with
  | none => s
  | some h =>
    if h.seq ≠ 0 then s
    else if success then
      let hosts := if h.opcode = 0xC0 then createHosts h.raw else hostRangeOf h.raw
      let s := hosts.foldl (fun s g => dropAtc (.vf h.part) (g.dva % 2 ^ 56) g.size s) s
      resumeHeld q h h.fetch.host [] s
    else failHeld q h s

/-- PAGE_REQUEST_GROUP_RESPONSE. -/
def execPageRequestGroupResponse (queue : Nat) (success : Bool) (s : State) : Host.Outcome State Fault Refusal :=
  .next (settle (pageSt queue success s))

/-- An ATS Invalidate Request: the translations leave the cache, and its completion waits for accesses in flight (R331). -/
def invalidateSt (fn : Fn) (base size : Nat) (s : State) : State :=
  if !s.bnd.powered then s
  else
    let s := dropAtc fn base size s
    { s with tu := { s.tu with invalidating := s.tu.invalidating ++ [(fn, base, size)] } }

/-- ATS_INVALIDATE_REQUEST. -/
def execAtsInvalidateRequest (fn : Fn) (base size : Nat) (s : State) : Host.Outcome State Fault Refusal :=
  .next (settle (invalidateSt fn base size s))

/-- A host access of a dispatched COPY lies under the translations (R331). -/
def hostInFlight (s : State) (fn : Fn) (base size : Nat) : Bool :=
  s.steps.any fun t => Fn.vf t.part = fn && t.opcode == 0x44 && (t.phase == .running || t.phase == .finished) && !t.atsWait &&
    (hostRangeOf t.raw).any fun g => overlaps (g.dva % 2 ^ 56) g.size base size

/-- The invalidation completes once no host access under it is in flight (R331). -/
def invalidDoneSt (fn : Fn) (base size : Nat) (s : State) : State :=
  let r := (fn, base, size)
  if !s.tu.invalidating.contains r || hostInFlight s fn base size then s
  else
    emit (.invalidateDone fn base size)
      { s with tu := { s.tu with invalidating := s.tu.invalidating.erase r, invalidates := satAdd 64 s.tu.invalidates 1 } }

/-- INVALIDATE_COMPLETION. -/
def execInvalidateCompletion (fn : Fn) (base size : Nat) (s : State) : Host.Outcome State Fault Refusal :=
  .next (settle (invalidDoneSt fn base size s))

end Sys2Proof.Machine
end

