-- ==== Sys2Proof/Machine/Flags.lean ====
section
/-!
DEFINITION. Status words and flags that the block shows: boot status, life-cycle codes, the fault state, fault records, the
flags of a hand report, effective debug rights (R41, R44, R422, R460, R502, R517, R525, R533).
-/
namespace Sys2Proof.Machine
open Sys2Proof

/-- STAGE encodings (table after R45). -/
def stageCode : Stage → Nat
  | .reset => 0
  | .tcBoot => 1
  | .fwVerify => 2
  | .keys => 3
  | .memTrain => 4
  | .memInit => 5
  | .dirInit => 6
  | .time => 7
  | .ready => 8
  | .invalidLc => 0xE
  | .bootFail => 0xF

/-- BOOT_STATUS (R41). -/
def bootStatus (s : State) : Nat :=
  s.bnd.failCode * 2 ^ 16 + b2n s.tb.locked * 2 ^ 11 + b2n s.bnd.warm * 2 ^ 10 + b2n (s.bnd.stackExcluded ≠ 0) * 2 ^ 9 +
    b2n s.bnd.ready * 2 ^ 8 + stageCode s.bnd.stage

/-- ERRPIN_CTL (R44). -/
def errpinCtl (s : State) : Nat := b2n s.bnd.errInvalid * 2 + b2n s.bnd.errAsserted

/-- Decoding of LC_CODEWORD (R502). -/
def lcDecode (w : BitVec 32) : LcState :=
  if w = 0x00000000 then .blank
  else if w = 0x11111111 then .test
  else if w = 0x33333333 then .provisioned
  else if w = 0x77777777 then .production
  else if w = 0xFFFFFFFF then .return_
  else if w = 0xBBBBBBBB then .scrap
  else .invalid

/-- The codeword of a state that has one (R502). -/
def lcWord : LcState → BitVec 32
  | .blank => 0x00000000
  | .test => 0x11111111
  | .provisioned => 0x33333333
  | .production => 0x77777777
  | .return_ => 0xFFFFFFFF
  | .scrap => 0xBBBBBBBB
  | .invalid => 0x00000001

/-- State codes (R502). -/
def lcCode : LcState → Nat
  | .blank => 0
  | .test => 1
  | .provisioned => 2
  | .production => 3
  | .return_ => 4
  | .scrap => 5
  | .invalid => 7

/-- Some source has PEND_F set (R460). -/
def anyPendF (s : State) : Bool := s.fc.src.any fun p => p.2.pendF
/-- Some source has PEND_U set (R460). -/
def anyPendU (s : State) : Bool := s.fc.src.any fun p => p.2.pendU
/-- FC_STATUS (R460). -/
def fcStatus (s : State) : Nat :=
  b2n s.fc.cfgErr * 8 + b2n (s.fc.inj.remaining ≠ 0) * 4 + b2n (anyPendF s) * 2 + b2n (anyPendU s)

/-- CLASS codes of a record (R422). -/
def classCode : FClass → Nat
  | .c => 0
  | .u => 1
  | .f => 2
  | .none_ => 3
/-- TYPE codes of a record (R422). -/
def typeCode : RecType → Nat
  | .fault => 1
  | .event => 2
  | .reset => 3

/-- Bytes 0x00 to 0x3B of a fault record (R422). -/
def recHead (r : FRec) : List Byte :=
  leBytes (typeCode r.type + 0x10) 1 ++ leBytes (classCode r.cls + b2n r.injected * 4) 1 ++ leBytes r.source 2 ++
    leBytes r.kind 1 ++ leBytes (r.part.getD 0 + b2n r.part.isSome * 32) 1 ++ leBytes (statusCode r.status) 2 ++
    leBytes r.seq 8 ++ leBytes r.timeNs 8 ++ leBytes (r.tick % 2 ^ 48) 8 ++ leBytes r.address 8 ++
    leBytes (ofSigned 16 r.temp) 2 ++ leBytes r.volt 2 ++ leBytes r.operation 1 ++ leBytes r.ladder 1 ++ leBytes r.ctx 2 ++
    leBytes r.detail 8 ++ leBytes r.queue 2 ++ leBytes r.repeats 2

/-- A fault record as 64 bytes, its CRC last (R422). -/
def recBytes (r : FRec) : List Byte := recHead r ++ leBytes (crc32c (recHead r)) 4

/-- Every capability of the certificate format (R514). -/
def allCaps : Nat := 0x7F
/-- Bit of a capability in CAPS (R514). -/
def capBit : DebugCap → Nat
  | .memRead => 0
  | .memWrite => 1
  | .unitStatus => 2
  | .tileDebug => 3
  | .profile => 4
  | .trace => 5
  | .scDebug => 6

/-- CAPS and PARTS that hold before confidential hands are taken away (R517). -/
def grantedRights (s : State) : Nat × Nat :=
  if s.tc.lc = .blank || s.tc.lc = .test then (allCaps, 0xFFFFFFFF)
  else if s.tc.lc = .scrap || s.tc.lc = .invalid then (0, 0)
  else s.tc.cert.getD (0, 0)

/-- The effective rights: PARTS less every partition whose hand is confidential (R517). -/
def effectiveRights (s : State) : Nat × Nat :=
  let (caps, parts) := grantedRights s
  (caps, ((bitsOf 32 ((List.range 32).filter fun n => bitAt parts n && !hConf s.ps.active n)).toNat))

/-- A capability reaches a partition (R517); SC_DEBUG does not consult PARTS (R514). -/
def debugAllowed (s : State) (c : DebugCap) (n : Nat) : Bool :=
  let (caps, parts) := effectiveRights s
  bitAt caps (capBit c) && (c == .scDebug || bitAt parts n)

/-- FLAGS of hand report `n` (R533). -/
def hrFlags (s : State) (n : Nat) : Nat :=
  b2n (hasHand s.ps.active n) + b2n (hConf s.ps.active n) * 2 + b2n (s.ps.hold.getLsbD n) * 4 +
    b2n (s.rc.inReset.getLsbD n) * 8 + b2n (tdiOf s n = .run) * 16

end Sys2Proof.Machine
end

