-- ==== Sys2Proof/Machine/QueueRows.lean ====
section
/-!
DEFINITION. Doorbells, tags, failed ring reads, completion rings and administration queues (R353 to R356, R371 to R373, R379,
R380, R567).
-/
namespace Sys2Proof.Machine
open Sys2Proof

/-! ### Doorbells (R353, R354) -/

/-- A doorbell write dropped and counted (R31, R102, R354). -/
def dropDoorbell (s : State) : State := { s with qu := { s.qu with dbDrops := satAdd 64 s.qu.dbDrops 1 } }

/-- The live queue that a function's slot or window shows: a queue of its partition, or its administration queue (R349, R379,
R380). -/
def showsQueue (s : State) (fn : Fn) (q : Nat) : Bool :=
  let x := queue s q
  x.live &&
    match fn with
    | .pf => q == 0x420
    | .vf n => x.part == n && (q < 1024 || q == 0x400 + n)

/-- Doorbells of a function reach a queue: one that is being destroyed drops them (R376). -/
def ownsQueue (s : State) (fn : Fn) (q : Nat) : Bool := showsQueue s fn q && (queue s q).state ≠ .destroying

/-- The 64-bit TAIL that a doorbell's low 32 bits mean: in HEAD to HEAD + 2^RING_LOG2 (R354). -/
def extendTail (x : Queue) (low : Nat) : Option Nat :=
  let d := (low + 2 ^ 32 - x.head % 2 ^ 32) % 2 ^ 32
  if d ≤ 2 ^ x.ringLog2 then some (x.head + d) else none

/-- The new TAIL of a doorbell, or none where it is dropped (R353, R354). -/
def doorbellTail (s : State) (fn : Fn) (q : Nat) (v : Word) : Option Nat :=
  let x := queue s q
  let n := v.toNat
  if !fnReady s fn || !ownsQueue s fn q || !streams x || fld n 32 16 ≠ 0 then none
  else if (match fn with
      | .vf p => !hasHand s.ps.active p
      | .pf => false) then none
  else
    match extendTail x (fld n 0 32) with
    | none => none
    | some t => if t < x.tail || fld n 48 16 ≠ (t + 65535) % 65536 then none else some t

/-- DOORBELL: TAIL is extended and fetch starts again (R354, R355). A write of 4 bytes to the function's own queue is dropped
uncounted (R562). -/
def doorbellSt (fn : Fn) (q size : Nat) (v : Word) (s : State) : State :=
  if !s.bnd.powered || !fnExists s fn then s
  else if size ≠ 8 && fnReady s fn && ownsQueue s fn q then s
  else
    match doorbellTail s fn q v with
    | none => dropDoorbell s
    | some t =>
      let wake := fun (x : Queue) => { x with tail := t, rereads := 0, state := if x.state = .early then .idle else x.state }
      touchQueue q (modQueue q wake s)

/-- DOORBELL. -/
def execDoorbell (fn : Fn) (queue size : Nat) (value : Word) (s : State) (tbit : Bool := false) : Host.Outcome State Fault Refusal :=
  .next (settle (atBar fn tbit (doorbellSt fn queue size value) s))

/-! ### Tags and failed reads (R355, R567) -/

/-- A descriptor with a stale tag is read again; after the eighth stale re-read the queue is parked (R355). A tag that now
matches ends the re-reads, and the descriptor's own command follows. -/
def tagSt (q : Nat) (tag : BitVec 16) (s : State) : State :=
  let x := queue s q
  if !fetchable s q || !streams x then s
  else if tag.toNat = x.head % 65536 then modQueue q (fun x => { x with rereads := 0 }) s
  else if x.rereads + 1 < 8 then modQueue q (fun x => { x with rereads := x.rereads + 1 }) s
  else
    let s := { s with qu := { s.qu with earlyEvents := satAdd 64 s.qu.earlyEvents 1 } }
    modQueue q (fun x => { x with rereads := 0, state := .early }) s

/-- TAG_REREAD. -/
def execTagReread (queue : Nat) (tag : BitVec 16) (s : State) : Host.Outcome State Fault Refusal :=
  .next (settle (tagSt queue tag s))

/-- A ring read of a queue that fetches fails (R567). -/
def readFailSt (q : Nat) (poisoned : Bool) (s : State) : State := if !fetchable s q then s else failPos q poisoned s

/-- DESCRIPTOR_READ_FAIL. -/
def execDescriptorReadFail (queue : Nat) (poisoned : Bool) (s : State) : Host.Outcome State Fault Refusal :=
  .next (settle (readFailSt queue poisoned s))

/-! ### Completion rings (R371 to R373) -/

/-- The newest record of the ring was not written (R372): it is taken back, with the interrupt it raised. -/
def unwrite (q : Nat) (s : State) : Option (CRec × State) :=
  match (queue s q).written with
  | [] => none
  | r :: rest =>
    let s := modQueue q (fun x => { x with written := rest, records := x.records - 1 }) s
    let x := queue s q
    let out := s.out.erase (recordOut s q r)
    some (r, { s with out := if r.irq then out.erase (.msix (queueFn s q) x.vector) else out })

/-- The queue enters COMPLETION_STALLED (R372, R373, R381). -/
def stallQueue (q : Nat) (s : State) : State :=
  msix .pf 60 { s with qu := { s.qu with stallEvents := satAdd 32 s.qu.stallEvents 1, stalled := setBit s.qu.stalled q true } }

/-- A record write fails for want of right W (R372); it comes before the records that the overflow area holds already, of which
the fifth and later are discarded. Administration rings are written by untranslated requests (R380). -/
def writeFailSt (q : Nat) (s : State) : State :=
  if !(queue s q).live || 1024 ≤ q then s
  else
    match unwrite q s with
    | none => s
    | some (r, s) =>
      let held := (queue s q).overflow
      let s := modQueue q (fun x => { x with overflow := (r :: held).take 4 }) s
      let s := if held.length < 4 then s else loseCtx (queue s q).part (queue s q).owner s
      touchQueue q (if held.isEmpty then stallQueue q s else s)

/-- COMPLETION_WRITE_FAIL. -/
def execCompletionWriteFail (queue : Nat) (s : State) : Host.Outcome State Fault Refusal :=
  .next (settle (writeFailSt queue s))

/-- The first `k` overflow records reach the ring, with REPLAY set (R373). -/
def replayRecs (q : Nat) : Nat → State → State
  | 0, s => s
  | k + 1, s =>
    match (queue s q).overflow with
    | [] => s
    | r :: rest => replayRecs q k (ringRec q { r with replay := true } (modQueue q (fun x => { x with overflow := rest }) s))

/-- REARM of a stalled queue, of which `k` replayed writes succeed (R373). -/
def rearmSt (q k : Nat) (s : State) : State :=
  let x := queue s q
  if !s.bnd.ready || !x.live || x.state = .destroying || x.overflow.isEmpty || s.cu.halted then s
  else touchQueue q (replayRecs q k s)

/-- REARM. -/
def execRearm (queue writesOk : Nat) (s : State) : Host.Outcome State Fault Refusal := .next (settle (rearmSt queue writesOk s))

/-- Key of a function's administration window. -/
def admKey : Fn → Nat
  | .pf => 32
  | .vf n => n

/-- A function's administration window. -/
def admOf (s : State) (fn : Fn) : Admq := tget {} s.qu.adm (admKey fn)

/-- A function's administration window changed. -/
def modAdm (fn : Fn) (f : Admq → Admq) (s : State) : State :=
  { s with qu := { s.qu with adm := tmod {} s.qu.adm (admKey fn) f } }

/-- Software advances CQ_HEAD (R371, R379); a write to a slot that shows no queue of the function is dropped and counted, and
ADMQ_CQ_HEAD takes its value also while ENABLE is 0 (R380). -/
def cqHeadSt (fn : Fn) (q : Nat) (value : BitVec 32) (s : State) : State :=
  if !fnReady s fn then s
  else if showsQueue s fn q then touchQueue q (modQueue q (fun x => { x with cqHead := value.toNat }) s)
  else if q < 1024 then dropDoorbell s
  else if q = 0x400 + admKey fn then modAdm fn (fun w => { w with cqHead := value.toNat }) s
  else s

/-- CQ_HEAD_WRITE. -/
def execCqHeadWrite (fn : Fn) (queue : Nat) (value : BitVec 32) (s : State) (tbit : Bool := false) : Host.Outcome State Fault Refusal :=
  .next (settle (atBar fn tbit (cqHeadSt fn queue value) s))

/-! ### Administration queues (R349, R380) -/

/-- Setting ENABLE makes the administration queue live with its indices at 0; a write of 1 while it is 1 changes nothing
(R380). -/
def admqSt (fn : Fn) (s : State) : State :=
  let w := admOf s fn
  if !fnReady s fn || w.enable then s
  else
    let k := admKey fn
    let x : Queue := { live := true, kind := .admin, part := k, owner := 0xFFFF, ringLog2 := w.ringLog2, cqLog2 := w.cqLog2,
                       ring := w.ringBase, cq := w.cqBase, vector := w.vector, state := .idle, lastTick := s.tb.tick }
    { s with qu := { s.qu with adm := tput s.qu.adm k { w with enable := true, cqHead := 0, cqTail := 0 }, qs := tput s.qu.qs (0x400 + k) x } }

/-- ADMQ_ENABLE. -/
def execAdmqEnable (fn : Fn) (s : State) (tbit : Bool := false) : Host.Outcome State Fault Refusal :=
  .next (settle (atBar fn tbit (admqSt fn) s))

end Sys2Proof.Machine
end

