-- ==== Sys2Proof/Machine/Capture.lean ====
section
/-!
DEFINITION. Captures over the Col path and the dump area, and the events by which resets, replays, destroys and revokes go on
(R471, R476 to R479, R485 to R495, R557).
-/
namespace Sys2Proof.Machine
open Sys2Proof

/-! ### What a capture covers (R485) -/

/-- Units that hold the steps of a context. -/
def ctxUnits (s : State) (n c : Nat) : List Nat :=
  (s.steps.filter fun t => t.part == n && t.ctx == c && (t.phase == .running || t.phase == .killed)).flatMap fun t => t.units

/-- The units of a partition (R485): its Command Processor, Tile Ports, engines, slices, the Frame Scheduler, the RIE, the
TU, the HIU and unit 0x810. -/
def partUnits (s : State) (n : Nat) : List Nat :=
  let img := s.ps.active
  (if hasHand img n then [cpUnit (hCp img n)] else []) ++ (bitList (hTiles img n)).map tileUnit ++
    (bitList (hEngines img n)).map engineUnit ++ (sliceList img n).map sliceUnit ++
    (List.range 6).map (fun i => 0x200 + i) ++ [0x300, 0x900, 0x000, 0x810]

/-- The units that a capture of a scope reads, ascending (R485, R488); scope 0 is a DUMP, 1 a context, 2 an engine, 4 the
chip. -/
def captureUnits (s : State) (c : Capture) : List Nat :=
  let l := match c.scope with
    | 1 => (if hasHand s.ps.active c.part then [cpUnit (hCp s.ps.active c.part)] else []) ++ ctxUnits s c.part c.index
    | 2 => [engineUnit c.index, sliceUnit (c.index / 8)]
    | _ => partUnits s c.part
  sortBy id (uniq l)

/-- Queues whose entries a capture fills: those of the context, or of the partition with its administration queue as entry
1,024; an engine's capture reads no Command Processor (R485, R488). -/
def captureQueues (s : State) (c : Capture) : List (Nat × Nat) :=
  match c.scope with
  | 1 => (queuesOf s c.part (some c.index)).map fun q => (q, q)
  | 2 => []
  | _ => (queuesOf s c.part none).map (fun q => (q, q)) ++
      (if (queue s (0x400 + c.part)).live then [(1024, 0x400 + c.part)] else [])

/-- Engines whose entries a capture fills. -/
def captureEngines (s : State) (c : Capture) : List Nat := (captureUnits s c).filterMap unitEngine

/-! ### The dump area (R488 to R491) -/

/-- The marker of a read that timed out (R486). -/
def deadWord : List Byte := leBytes 0x0C01DEAD 4

/-- KIND codes of queues (R350, R489). -/
def kindCode : QKind → Nat
  | .streaming => 0
  | .persistent => 1
  | .intake => 2
  | .admin => 3

/-- A queue entry (R489); `dead` tells an unresponsive Command Processor. -/
def queueEntry (s : State) (q : Nat) (dead : Bool) : List Byte :=
  let x := queue s q
  let head := leBytes q 2 ++ leBytes (kindCode x.kind) 1 ++ leBytes (qStateCode x.state) 1 ++ leBytes x.owner 2 ++
    leBytes (min x.outstanding 0xFFFF) 2
  let w := x.waiting
  let obj := (w.map fun w => w.obj).getD 0
  let o := syncObj s x.part obj
  if dead then head ++ (List.replicate 14 deadWord).flatten
  else
    head ++ leBytes x.head 8 ++ leBytes (if streams x then x.tail else 0) 8 ++ leBytes x.records 4 ++ leBytes x.cqHead 4 ++
      leBytes x.lastTick 8 ++ leBytes (b2n w.isSome * 2 ^ 31 + obj) 4 ++ leBytes x.overflow.length 4 ++
      leBytes ((w.map fun w => w.target).getD 0) 8 ++
      leBytes (if w.isSome then b2n o.error * 2 ^ 63 + o.value else 0) 8

/-- State code of an engine, in LRE_STATUS and Col path word 0 (R217, R485). -/
def engCode : EngState → Nat
  | .idle => 0
  | .busy => 1
  | .fenced => 2
  | .inReset => 3

/-- The groups of an engine entry: the steps with a share on it, four at most (R490). -/
def engineGroups (s : State) (e : Nat) : List Byte :=
  let l := (s.steps.filter fun t => t.phase == .running && t.units.contains (engineUnit e)).take 4
  (List.range 4).flatMap fun g =>
    match l[g]? with
    | some t => leBytes t.ctx 2 ++ leBytes t.queue 2 ++ leBytes t.index 4 ++ leBytes t.opcode 1 ++ [0, 0, 0]
    | none => leBytes 0xFFFF 2 ++ List.replicate 10 0

/-- An engine entry (R490). -/
def engineEntry (s : State) (e word0 : Nat) (dead : Bool) : List Byte :=
  let unacked := s.steps.any fun t => t.phase == .killed && t.unacked.contains (engineUnit e)
  let head := leBytes e 2 ++ leBytes (engine s e).gen 1 ++ leBytes (b2n unacked * 2 + b2n dead) 1
  if dead then head ++ (List.replicate 15 deadWord).flatten
  else head ++ leBytes word0 4 ++ List.replicate 8 0 ++ engineGroups s e

/-- State code of a unit, bits 3:0 of word 0 (R485): an engine's own, in reset for what a partition reset holds, busy while
the unit works for a step. -/
def unitCode (s : State) (n u : Nat) : Nat :=
  match unitEngine u with
  | some e => engCode (engine s e).state
  | none => if s.rc.inReset.getLsbD n && ((unitTile u).isSome || (unitCp u).isSome) then 3 else b2n (unitHeld s u)

/-- The four status words of a unit; what is not word 0's state code is unit-specific: free values (R485). -/
def unitWords (n u : Nat) (s : State) : List Nat × State :=
  let (a, s) := fresh 28 s
  let (b, s) := fresh 32 s
  let (c, s) := fresh 32 s
  let (d, s) := fresh 32 s
  ([a * 16 + unitCode s n u, b, c, d], s)

/-- A unit entry (R491). -/
def unitEntry (u : Nat) (ws : List Nat) (dead : Bool) : List Byte :=
  leBytes u 2 ++ leBytes (b2n dead) 2 ++ (if dead then (List.replicate 4 deadWord).flatten
    else ws.flatMap fun w => leBytes w 4) ++ List.replicate 12 0

/-- The words of every unit read, in order. -/
def readUnits (c : Capture) (s : State) : List (Nat × List Nat) × State :=
  (captureUnits s c).foldl (fun (acc : List (Nat × List Nat) × State) u =>
    let (ws, s) := unitWords c.part u acc.2
    (acc.1 ++ [(u, ws)], s)) ([], s)

/-- The dump header (R488). -/
def dumpHeader (s : State) (c : Capture) : List Byte :=
  leBytes 1 1 ++ leBytes c.scope 1 ++ leBytes (causeCode c.cause) 1 ++ leBytes c.part 1 ++
    leBytes (if c.scope = 1 || c.scope = 2 then c.index else 0) 2 ++ leBytes (partGen s c.part) 1 ++ [0] ++
    leBytes c.bbrSeq 8 ++ leBytes (s.tb.tick % 2 ^ 48) 8 ++ leBytes s.tb.now 8 ++ leBytes (planId s.ps.active) 8 ++
    leBytes (captureQueues s c).length 2 ++ leBytes (captureEngines s c).length 2 ++ leBytes (captureUnits s c).length 2 ++
    leBytes c.silent.length 2 ++ [1] ++ List.replicate 207 0

/-- The dump area from 0x100 on (R488 to R491). -/
def dumpBody_ (s : State) (c : Capture) (words : List (Nat × List Nat)) : List Byte :=
  let zeros := fun (k : Nat) => List.replicate k (0 : Byte)
  let qs := captureQueues s c
  let es := captureEngines s c
  let cpDead := hasHand s.ps.active c.part && c.silent.contains (cpUnit (hCp s.ps.active c.part))
  let qPart := (List.range 1025).flatMap fun i =>
    match qs.find? fun q => q.1 == i with
    | some q => queueEntry s q.2 cpDead
    | none => zeros 64
  let ePart := (List.range 320).flatMap fun e =>
    if es.contains e then
      let w := ((words.find? fun p => p.1 == engineUnit e).map fun p => p.2.headD 0).getD 0
      engineEntry s e w (c.silent.contains (engineUnit e))
    else zeros 64
  let uPart := words.flatMap fun p => unitEntry p.1 p.2 (c.silent.contains p.1)
  let upTo := fun (k : Nat) (bs : List Byte) => bs ++ zeros (k - bs.length)
  upTo 0xFFF00 (upTo 0x17F00 (upTo 0x11F00 (zeros 0xF00 ++ qPart) ++ ePart) ++ uPart)

/-- A capture's reads are written to its dump area, the header last (R487); RC_DUMP_STATUS shows it (R500). -/
def writeCapture (c : Capture) (s : State) : State :=
  let (words, s) := readUnits c s
  let base := tget 0 s.rc.dumpBase c.part
  let xs := tget [] s.rc.dumpXlat c.part
  let head := dumpHeader s c
  let s := writeDva c.part xs (base + 0x100) (dumpBody_ s c words) false none s
  let s := writeDva c.part xs base head false none s
  { s with rc := { s.rc with dumpStatus := tput s.rc.dumpStatus c.part .ok, dumpTick := tput s.rc.dumpTick c.part s.tb.tick } }

/-- A capture ends: a DUMP completes, a reset goes on with its kills (R477 to R479, R492). -/
def captureSt (s : State) : State :=
  match s.rc.capture, s.rc.current with
  | some c, some r =>
    let s := writeCapture c s
    let s := { s with rc := { s.rc with capture := none } }
    match r.domain with
    | .dump _ => endCmd r.cmd { st := .ok } { s with rc := { s.rc with current := none } }
    | _ => startKills { r with captured := true } s
  | _, _ => s

/-- CAPTURE_COMPLETE. -/
def execCaptureComplete (s : State) : Host.Outcome State Fault Refusal := .next (settle (captureSt s))

/-- Partitions that a chip reset's preparation will capture (R480). -/
def prepParts (s : State) (p : Prep) : List Nat :=
  if p.dump then (List.range 32).filter fun n => tget 0 s.rc.dumpBase n ≠ 0 else []

/-- The capture of a partition in a chip reset's preparation. -/
def prepCapture (s : State) (p : Prep) (n : Nat) : Capture :=
  { part := n, scope := 4, cause := p.cause, silent := p.silent, bbrSeq := s.fc.newest }

/-- The record of an unresponsive unit and its counter (R486). -/
def unresponsive (u : Nat) (part : Option Nat) (s : State) : State :=
  let s := { s with rc := { s.rc with colTimeouts := satAdd 32 s.rc.colTimeouts 1 } }
  report { source := 0xA02, kind := 0x60, address := u, part := part } s

/-- A Col path read times out (R486): in the capture that runs, or in a preparation that has not yet begun. -/
def colSt (u : Nat) (s : State) : State :=
  match s.rc.capture, s.bnd.prep with
  | some c, _ =>
    if !(captureUnits s c).contains u || c.silent.contains u then s
    else unresponsive u (some c.part) { s with rc := { s.rc with capture := some { c with silent := c.silent ++ [u] } } }
  | none, some p =>
    let covers := (prepParts s p).any fun n => (captureUnits s (prepCapture s p n)).contains u
    if p.started || p.silent.contains u || !covers then s
    else unresponsive u none { s with bnd := { s.bnd with prep := some { p with silent := p.silent ++ [u] } } }
  | none, none => s

/-- COL_READ_TIMEOUT. -/
def execColReadTimeout (unit : Nat) (s : State) : Host.Outcome State Fault Refusal := .next (settle (colSt unit s))

/-! ### Kills, walks and quiet intervals (R471, R476, R478, R479) -/

/-- The wait for kills runs out (R476): the first unit that owes an acknowledgement is named, the work goes on. -/
def killTimeoutSt (s : State) : State :=
  let late := fun (r : Reset) => r.firstSilent.isNone && owed s (inDomain s r.domain) ≠ []
  let mark := fun (r : Reset) => { r with firstSilent := (owed s (inDomain s r.domain)).head? }
  match s.rc.current with
  | some r =>
    if r.stage = .kills && late r then { s with rc := { s.rc with current := some (mark r) } }
    else { s with rc := { s.rc with works := modFirst late mark s.rc.works } }
  | none => { s with rc := { s.rc with works := modFirst late mark s.rc.works } }

/-- KILL_ACK_TIMEOUT. -/
def execKillAckTimeout (s : State) : Host.Outcome State Fault Refusal := .next (settle (killTimeoutSt s))

/-- The recall walk of a partition ends (R273, R479): FABRIC_PRESENT falls to its tiles, its engines and generations are
reset and the quiet interval begins. In a chip reset's preparation the walk's lines are only written back (R480). -/
def walkEndSt (n : Nat) (s : State) : State :=
  if !s.coh.walk.getLsbD n || walkOpen s n then s
  else
    match s.rc.current with
    | some r =>
      if r.domain = .partition n && r.stage = .walk then
        let s := fabricFall (bitList (hTiles s.ps.active n)) (endWalk n s)
        let s := raisePart n s
        { s with rc := { s.rc with current := some { r with stage := .quiet } } }
      else s
    | none => if s.bnd.prep.any fun p => p.started then endWalk n s else s

/-- RECALL_WALK_END. -/
def execRecallWalkEnd (part : Nat) (s : State) : Host.Outcome State Fault Refusal := .next (settle (walkEndSt part s))

/-- The registers of virtual function `n`'s windows at their reset values (R557); job slots that are ABORTING keep their
abort tick. -/
def clearWindows (n : Nat) (s : State) : State :=
  let s := { s with tu := { s.tu with vfs := tdel s.tu.vfs n } }
  let s := { s with nu := { s.nu with vfs := tdel s.nu.vfs n,
                                      jobs := s.nu.jobs.filter fun p => !(p.1 / 32 == n && p.2.state ≠ JobState.aborting) } }
  let s := { s with qu := { s.qu with adm := tdel s.qu.adm n, evqCtl := tdel s.qu.evqCtl n, qs := tdel s.qu.qs (0x400 + n) } }
  let s := { s with rc := { s.rc with dumpBase := tdel s.rc.dumpBase n, dumpStatus := tdel s.rc.dumpStatus n,
                                      dumpTick := tdel s.rc.dumpTick n, dumpXlat := tdel s.rc.dumpXlat n } }
  { s with tc := { s.tc with vfs := tdel s.tc.vfs n } }

/-- The quiet interval ends (R471): an engine returns to service or goes on with its replay, a partition or a stock tile
rises with its new generation. -/
def quietSt (s : State) : State :=
  match s.rc.current with
  | none => s
  | some r =>
    if r.stage ≠ .quiet then s
    else
      match r.domain with
      | .engine e =>
        if s.rc.replay.isSome then { s with rc := { s.rc with current := some { r with stage := .replay } } }
        else if r.replay then
          { s with rc := { s.rc with current := some { r with stage := .replay },
                                     replay := some { engine := e, todo := r.suspects, cmd := r.cmd, killed := r.killed } } }
        else closeReset r (serveEngine e s)
      | .partition n =>
        let lost := ((usedCtxs s n).filter fun c => ctxState s n c = .live).length
        let s := closeReset { r with lostCtxs := lost } (endPartition n s)
        if r.flr then clearWindows n s else s
      | .stockTile t => closeReset r (fabricRise [t] s)
      | _ => s

/-- QUIET_INTERVAL_END. -/
def execQuietIntervalEnd (s : State) : Host.Outcome State Fault Refusal := .next (settle (quietSt s))

/-! ### Replays that hang (R495) -/

/-- Engine `e` is fenced (R441): STATE 2, its bit in FC_ENGINE_FENCED, a record of kind ENGINE_FENCED. -/
def fenceEngine (e detail : Nat) (s : State) : State :=
  let s := modEngine e (fun x => { x with state := if x.state = .inReset then .inReset else .fenced, groups := 0, failTicks := [] }) s
  let s := { s with fc := { s.fc with fenced := setBit s.fc.fenced e true, fenceEvents := satAdd 32 s.fc.fenceEvents 1 } }
  report { source := engineUnit e, kind := 0x02, detail := detail, part := engineOwner s.ps.active e } s

/-- The engine under replay is reset again, with cause 4 (R495). -/
def resetAgain (e : Nat) (s : State) : State :=
  let s := raiseEngine e (takeEngine e s)
  let s := { s with rc := { s.rc with engineResets := satAdd 64 s.rc.engineResets 1 } }
  resetRecord 2 e (engine s e).gen .replay false false (engineOwner s.ps.active e) s

/-- A judge run that has not ended within REPLAY_FRAMES has hung again (R495): the suspect is LOST and the engine is reset
again; at the second such suspect the engine is fenced and the rest are innocent. -/
def replayHangSt (s : State) : State :=
  match s.rc.replay, s.rc.current with
  | some p, some r =>
    match p.running, p.todo with
    | some (id, f), t :: _ =>
      if s.tb.tick < f + s.rc.replayFrames || r.stage ≠ .replay then s
      else
        let s := dropStep id s
        if p.hung = 0 then
          let s := loseCtx t.part t.ctx (resetAgain p.engine s)
          let rest := p.todo.filter fun x => !(x.part == t.part && x.ctx == t.ctx)
          let p := { p with todo := rest, running := none, hung := 1, firstHang := s.tb.tick, lost := p.lost + 1 }
          { s with rc := { s.rc with replay := some p, replayLost := satAdd 32 s.rc.replayLost 1,
                                     current := some { r with stage := .quiet } } }
        else
          let s := fenceEngine p.engine p.firstHang s
          { s with rc := { s.rc with replay := some { p with todo := [], running := none, hung := 2 } } }
    | _, _ => s
  | _, _ => s

/-- REPLAY_HANG. -/
def execReplayHang (s : State) : Host.Outcome State Fault Refusal := .next (settle (replayHangSt s))

/-! ### The dump area's register (R487) -/

/-- A write of RC_DUMP_BASE: the 1 MiB area is translated and pinned, or the register is left at zero with the status. -/
def dumpBaseSt (n off size : Nat) (v : Word) (host : HostView) (s : State) : State :=
  if !vfReady s n || off ≠ 0 || (size ≠ 4 && size ≠ 8) then s
  else
    let old := tget 0 s.rc.dumpBase n
    let raw := if size = 8 then v.toNat else old / 2 ^ 32 * 2 ^ 32 + v.toNat % 2 ^ 32
    let base := fld raw 12 45 * 4096
    let set := fun (b : Nat) (xs : List Xlat) (st : Status) (s : State) =>
      { s with rc := { s.rc with dumpBase := if b = 0 then tdel s.rc.dumpBase n else tput s.rc.dumpBase n b,
                                 dumpXlat := if b = 0 then tdel s.rc.dumpXlat n else tput s.rc.dumpXlat n xs,
                                 dumpStatus := tput s.rc.dumpStatus n st } }
    if base = 0 then set 0 [] .ok s
    else if isHost base then set 0 [] .rights s
    else
      let g : Rng := { dva := base, size := 2 ^ 20, r := true, w := true }
      let s := countWalks n host [g] s
      match walkRange s n host g with
      | .ok xs => if pinFits s n xs then set base (dedupX xs) .ok s else set 0 [] .stateConflict s
      | .miss _ _ => set 0 [] .translationPending s
      | .fail st _ => set 0 [] st s

/-- DUMP_BASE_WRITE. -/
def execDumpBaseWrite (part off size : Nat) (value : Word) (host : HostView) (s : State) (tbit : Bool := false) : Host.Outcome State Fault Refusal :=
  .next (settle (atBar (.vf part) tbit (dumpBaseSt part off size value host) s))

end Sys2Proof.Machine
end

