-- ==== Sys2Proof/Machine/Boot.lean ====
section
/-!
DEFINITION. Power, fundamental and chip resets, and the stages of start-up (R21 to R52, R457 to R459, R472,
R480 to R483, R501 to R513, R550, R551).
-/
namespace Sys2Proof.Machine
open Sys2Proof

/-! ### Flash contents (R510, R511, R550, R551) -/

/-- Bytes of a 512-byte header from an offset. -/
def hdrBytes (h : BitVec 4096) (off len : Nat) : List Byte := leBytes (fld h.toNat (8 * off) (8 * len)) len
/-- A little-endian field of a header. -/
def hdrFld (h : BitVec 4096) (off lo w : Nat) : Nat := fld h.toNat (8 * off + lo) w
/-- A range of header bytes is zero. -/
def hdrZero (h : BitVec 4096) (off len : Nat) : Bool := hdrFld h off 0 (8 * len) == 0

/-- PUBKEY of a header (R510, R550). -/
def hdrKey (h : BitVec 4096) : PubKey := BitVec.ofNat 776 (beNat (hdrBytes h 0x80 97))
/-- SIGNATURE of a header. -/
def hdrSig (h : BitVec 4096) : Signature := BitVec.ofNat 768 (beNat (hdrBytes h 0x100 96))

/-- The key and signature conditions of R511 for a header and what it signs beyond its first 256 bytes. -/
def signedOk (o : Otp) (h : BitVec 4096) (payload : List Byte) : Bool :=
  let k := hdrFld h 2 0 2
  !o.fwRevoked.getLsbD k && o.fwKey.getD k 0 == Config.sha384 (hdrBytes h 0x80 97) &&
    Config.ecdsaVerify (hdrKey h) (Config.sha384 (hdrBytes h 0 256 ++ payload)) (hdrSig h)

/-- A payload of stated offset and length lies in its 16 MiB slot after the header, and is the one that was read. -/
def inSlot (off len : Nat) (bs : List Byte) : Bool := 512 ≤ off && off + len ≤ 2 ^ 24 && bs.length == len

/-- SVN_FLOOR as a number (R501). -/
def svnFloor (o : Otp) : Nat := (bitList o.svnFloor).length

/-- A firmware image is valid (R511). -/
def imageOk (o : Otp) (i : FwImage) : Bool :=
  let h := i.header
  hdrFld h 0 0 8 == 1 && hdrFld h 1 1 7 == 0 && hdrFld h 2 2 6 == 0 && hdrZero h 3 1 && hdrZero h 0x20 0x60 &&
    hdrZero h 0xE1 0x1F && hdrZero h 0x160 0xA0 && inSlot (hdrFld h 0x10 0 32) (hdrFld h 0x14 0 32) i.service &&
    inSlot (hdrFld h 0x18 0 32) (hdrFld h 0x1C 0 32) i.microcode && signedOk o h (i.service ++ i.microcode) &&
    svnFloor o ≤ hdrFld h 4 0 32

/-- A pattern package is valid (R551). -/
def packageOk (o : Otp) (p : Package) : Bool :=
  let h := p.header
  let len := hdrFld h 0x14 0 32
  hdrFld h 0 0 8 == 1 && hdrZero h 1 1 && hdrFld h 2 2 6 == 0 && hdrZero h 3 1 && hdrZero h 6 2 && hdrZero h 0x18 0x68 &&
    hdrZero h 0xE1 0x1F && hdrZero h 0x160 0xA0 &&
    (if len = 0 then p.patterns.length == 0 else inSlot (hdrFld h 0x10 0 32) len p.patterns) && signedOk o h p.patterns

/-- PKG_VERSION of a package. -/
def pkgVer (p : Package) : Nat := hdrFld p.header 8 0 64

/-- The package that a verification of both slots selects (R551): the higher PKG_VERSION, slot P when equal; with none valid
no patterns are left (R553). -/
def selectPackage (p q : Option Package) (s : State) : State :=
  let p := p.filter fun x => packageOk s.tc.otp x
  let q := q.filter fun x => packageOk s.tc.otp x
  let use := fun (x : Package) (slotQ : Bool) =>
    { s with hm := { s.hm with pkgQ := slotQ, pkgVersion := pkgVer x, pkgSet := hdrFld x.header 4 0 16,
                               pkgEngines := hdrFld x.header 0x14 0 32 ≠ 0 } }
  match p, q with
  | none, none => { s with hm := { s.hm with pkgVersion := 0, pkgSet := 0, pkgEngines := false } }
  | some x, none => use x false
  | none, some y => use y true
  | some x, some y => if pkgVer x < pkgVer y then use y true else use x false

/-! ### Resets -/

/-- PCs that a hand holds when a reset begins take that partition as keeper (R311). -/
def keepers (s : State) : Tab PcState :=
  (hands s.ps.active).foldl (fun t n => (pcList s.ps.active n).foldl (fun t p =>
    tmod {} t p fun x => { x with keeper := n, kept := true }) t) s.mi.pcs

/-- The state when a chip reset begins: what R483 keeps, everything else at its reset value; FABRIC_PRESENT falls to every
tile. -/
def afterReset (s : State) : State :=
  let s := (s.mi.pcs.map fun p => p.1).foldl (fun s p => flushParked p s) (fabricFall (bitList s.bnd.fabric) s)
  { State.reset with
    bnd := { State.reset.bnd with
             cfgRetry := s.bnd.cfgRetry, vfEnable := s.bnd.vfEnable, numVfs := s.bnd.numVfs, atsEnable := s.bnd.atsEnable,
             priEnable := s.bnd.priEnable, errAsserted := s.bnd.errAsserted, errInvalid := s.bnd.errInvalid,
             errSource := s.bnd.errSource, powerCycle := s.bnd.powerCycle, retentionValid := s.bnd.retentionValid }
    lre := { State.reset.lre with engines := s.lre.engines.map fun p => (p.1, { gen := p.2.gen }) }
    mi := { State.reset.mi with
            epoch := s.mi.epoch, nonce := s.mi.nonce, pcs := keepers s, counters := s.mi.counters, keys := s.mi.keys,
            mem := s.mi.mem, nodes := s.mi.nodes, mirrors := s.mi.mirrors }
    fc := { State.reset.fc with bbr := s.fc.bbr, newest := s.fc.newest, fenced := s.fc.fenced, digestRuns := s.fc.digestRuns,
                                mirror0 := s.fc.mirror0, mirror640 := s.fc.mirror640 }
    rc := { State.reset.rc with partGen := s.rc.partGen, stockGen := s.rc.stockGen, chipResets := s.rc.chipResets }
    tc := { State.reset.tc with otp := s.tc.otp, lc := s.tc.lc, lcKept := s.tc.lcKept, bootCount := s.tc.bootCount }
    out := s.out, freeCount := s.freeCount, nextId := s.nextId, pending := s.pending }

/-- The running reset stops; then every partition's captures, jobs and walks of a preparation (R475, R480 steps 1 to 3). -/
def startPrep (p : Prep) (s : State) : State :=
  let s := stopAll s
  let s := (prepParts s p).foldl (fun s n => writeCapture (prepCapture s p n) s) s
  let s := (List.range 32).foldl (fun s n => abortJobs n .jobAborted s) s
  let s := (hands s.ps.active).foldl (fun s n => startWalk n s) s
  { s with bnd := { s.bnd with prep := some { p with started := true } } }

/-- A line awaits a tile's answer. -/
def awaiting (s : State) : Bool := s.coh.lines.any fun l => l.2.trans.any fun t => t.await ≠ []

/-- The rest of a preparation (R480 steps 3 to 5): the walks end and every dirty line is written back; an abandoned one
writes nothing. -/
def endPrep (p : Prep) (s : State) : State :=
  if p.abandoned then s
  else
    let s := (hands s.ps.active).foldl (fun s n => if s.coh.walk.getLsbD n then endWalk n s else s) s
    (s.coh.lines.map fun l => l.1).foldl (fun s k => dropLine k s) s

/-- DETAIL of RESET_CHIP (R476): no unit, no generation. -/
def chipDetail : Nat := 0xFFFF * 2 ^ 48

/-- The body of POWER_CYCLE_REQUEST, ten bytes, big-endian (R13, R39). -/
def powerBody (reason seq : Nat) : List Byte := beBytes reason 1 ++ beBytes 0 1 ++ beBytes seq 8

/-- A copy of POWER_CYCLE_REQUEST, command code 0x81, leaves over MCTP (R39). -/
def sendPower (p : PowerCycle) (s : State) : State := emit (.powerCycleRequest 0x81 (powerBody p.reason p.seq)) s

/-- POWER_CYCLE_REQUEST is sent and ERR_N asserted (R38, R39); a fault that holds ERR_N already stays the one that did. -/
def requestPower (reason : Nat) (s : State) : State :=
  let p : PowerCycle := { reason := reason, seq := s.fc.newest, copies := 1 }
  let s := sendPower p { s with bnd := { s.bnd with powerCycle := some p } }
  if s.tc.lc = .scrap || s.bnd.errAsserted then s
  else { s with bnd := { s.bnd with errAsserted := true, errSource := none } }

/-- The chip reset begins (R480, R482, R483): its RESET record and count, then start-up from stage RESET. -/
def beginReset (p : Prep) (s : State) : State :=
  let skipped := p.dump && prepParts s p = []
  let s := { s with bnd := { s.bnd with prep := none } }
  let s := resetRecord 4 0 0 p.cause skipped p.abandoned none s
  afterReset { s with rc := { s.rc with chipResets := satAdd 32 s.rc.chipResets 1 } }

/-- CHIP_RESET: the preparation runs, waiting for what tiles still hold, and the reset begins; a halted device has no
preparation (R480, R481, R497). -/
def chipResetSt (s : State) : State :=
  match s.bnd.prep with
  | none => s
  | some p =>
    if !s.bnd.powered then s
    else if s.cu.halted then beginReset p s
    else
      let s := if p.started then s else startPrep p s
      if awaiting s && !p.abandoned then s
      else
        let s := endPrep p s
        let s := endCmd p.cmd { st := .ok, detail := chipDetail } s
        if p.power then requestPower 2 { s with bnd := { s.bnd with prep := none } } else beginReset p s

/-- CHIP_RESET. -/
def execChipReset (s : State) : Host.Outcome State Fault Refusal := .next (chipResetSt s)

/-- The preparation's bound passes: the stage that has not ended is abandoned (R480). -/
def prepTimeoutSt (s : State) : State :=
  match s.bnd.prep with
  | none => s
  | some p => { s with bnd := { s.bnd with prep := some { p with abandoned := true } } }

/-- PREPARATION_TIMEOUT. -/
def execPreparationTimeout (s : State) : Host.Outcome State Fault Refusal := .next (prepTimeoutSt s)

/-- POWER_UP: nothing but OTP is kept from before; BOOT_COUNT's high half is drawn (R509). -/
def powerUpSt (s : State) : State :=
  if s.bnd.powered then s
  else
    let (r, s) := fresh 32 s
    { s with bnd := { s.bnd with powered := true }, tc := { s.tc with bootCount := r * 2 ^ 32 } }

/-- POWER_UP. -/
def execPowerUp (s : State) : Host.Outcome State Fault Refusal := .next (powerUpSt s)

/-- POWER_REMOVED: everything but the OTP array is lost (R483); FABRIC_PRESENT falls (R21). -/
def powerRemovedSt (s : State) : State :=
  if !s.bnd.powered then s
  else
    let s := fabricFall (bitList s.bnd.fabric) s
    { State.reset with bnd := { State.reset.bnd with powered := false }, tc := { State.reset.tc with otp := s.tc.otp },
                       out := s.out, freeCount := s.freeCount, nextId := s.nextId, pending := s.pending }

/-- POWER_REMOVED. -/
def execPowerRemoved (s : State) : Host.Outcome State Fault Refusal := .next (powerRemovedSt s)

/-- Stage TC_BOOT of the present start has ended. -/
def tcBootEnded (s : State) : Bool := !(s.bnd.stage == .reset || s.bnd.stage == .tcBoot)

/-- FUNDAMENTAL_RESET: the configuration space is reset, and answers Request Retry Status until TC_BOOT ends, which it has
done where start-up has come further (R30, R557). -/
def fundamentalSt (s : State) : State :=
  if !s.bnd.powered then s
  else { s with bnd := { s.bnd with cfgRetry := !tcBootEnded s, vfEnable := false, numVfs := 0, atsEnable := [],
                                    priEnable := false } }

/-- FUNDAMENTAL_RESET. -/
def execFundamentalReset (s : State) : Host.Outcome State Fault Refusal := .next (fundamentalSt s)

/-! ### Start-up (R46 to R51) -/

/-- Start-up ends in BOOT_FAIL with a code; ERR_N is asserted (R37, R47). -/
def bootFail (code : Nat) (s : State) : State :=
  { s with bnd := { s.bnd with stage := .bootFail, failCode := code, errAsserted := true, errInvalid := true } }

/-- A stage is entered. -/
def setStage (g : Stage) (s : State) : State := { s with bnd := { s.bnd with stage := g } }

/-- Stage `g` runs: power is on and STAGE shows it (R47). -/
def stageDue (s : State) (g : Stage) : Bool := s.bnd.powered && s.bnd.stage == g

/-- TC_BOOT (R47, R502, R505, R509, R512): the life-cycle codeword is decoded, BOOT_COUNT rises, the ROM is measured. As
every stage's row, it runs the stage to its end, and STAGE goes on to the next stage, which is entered at once. -/
def tcBootSt (rom : Digest) (s : State) : State :=
  if !(stageDue s .reset || stageDue s .tcBoot) then s
  else
    let lc := lcDecode s.tc.otp.codeword
    let count := s.tc.bootCount / 2 ^ 32 * 2 ^ 32 + (s.tc.bootCount + 1) % 2 ^ 32
    let s := { s with tc := { s.tc with lc := lc, bootCount := count, romDigest := rom } }
    let s := setStage .fwVerify { s with bnd := { s.bnd with cfgRetry := false } }
    match lc with
    | .invalid => setStage .invalidLc { s with bnd := { s.bnd with errAsserted := true, errInvalid := true } }
    | .scrap => setStage .invalidLc { s with bnd := { s.bnd with errAsserted := false, errInvalid := false } }
    | _ => s

/-- TC_BOOT. -/
def execTcBoot (romDigest : Digest) (s : State) : Host.Outcome State Fault Refusal := .next (tcBootSt romDigest s)

/-- The image of a slot becomes the booted one; its payloads are measured (R510 to R512). -/
def bootImage (i : FwImage) (slotB : Bool) (s : State) : State :=
  { s with tc := { s.tc with imageVersion := hdrFld i.header 8 0 64, slotB := slotB,
                             serviceDigest := Config.sha384 i.service, microDigest := Config.sha384 i.microcode,
                             commitSvn := if hdrFld i.header 1 0 1 = 1 then some (hdrFld i.header 4 0 32) else none } }

/-- FW_VERIFY (R511, R512, R551). -/
def fwVerifySt (f : Flash) (s : State) : State :=
  if !stageDue s .fwVerify then s
  else
    let s := setStage .keys (selectPackage f.pkgP f.pkgQ s)
    match f.slotA.filter (imageOk s.tc.otp), f.slotB.filter (imageOk s.tc.otp) with
    | some a, _ => bootImage a false s
    | none, some b => bootImage b true s
    | none, none => bootFail 0x01 s

/-- FW_VERIFY. -/
def execFwVerify (flash : Flash) (s : State) : Host.Outcome State Fault Refusal := .next (fwVerifySt flash s)

/-- The root of a purpose in the present life-cycle state (R506). -/
def rootFor (s : State) (prod : BitVec 256) : BitVec 256 :=
  match s.tc.lc with
  | .blank | .test => s.tc.otp.testRoot
  | .provisioned | .production => prod
  | .return_ => s.tc.otp.rmaRoot
  | .scrap | .invalid => 0

/-- The memory root of the present epoch (R507). -/
def deriveRoot (s : State) : State :=
  let ctx := beBytes s.mi.epoch 4 ++ beBytes s.mi.nonce.toNat 32
  let k := kdfCtr (rootFor s s.tc.otp.memoryRoot) (fixedInput "DRVEPOCH" ctx 256) 256
  { s with mi := { s.mi with memRoot := BitVec.ofNat 256 (beNat k) } }

/-- A new memory epoch: EPOCH rises, EPOCH_NONCE is drawn afresh, the root is derived (R508). -/
def openEpoch (s : State) : State :=
  let (r, s) := fresh 256 s
  deriveRoot { s with mi := { s.mi with epoch := (s.mi.epoch + 1) % 2 ^ 32, nonce := BitVec.ofNat 256 r },
                      bnd := { s.bnd with epochOpened := true } }

/-- The order of P-384. -/
def orderP384 : Nat :=
  0xFFFFFFFFFFFFFFFFFFFFFFFFFFFFFFFFFFFFFFFFFFFFFFFFC7634D81F4372DDF581A0DB248B0A77AECEC196ACCC52973

/-- The signing key's scalar (R507). -/
def signScalar (s : State) : BitVec 384 :=
  let k := kdfCtr (rootFor s s.tc.otp.identityRoot) (fixedInput "DRVIDENT" (beBytes s.tc.otp.serial.toNat 16) 448) 448
  BitVec.ofNat 384 (beNat k % (orderP384 - 1) + 1)

/-- The start is already known to be cold: retention SRAM is empty or marked invalid, or the life-cycle state has changed
(R46, R298, R504). -/
def knownCold (s : State) : Bool := !s.bnd.retentionValid || s.tc.lcKept ≠ some s.tc.lc

/-- KEYS (R47, R507, R508, R513). -/
def keysSt (ok : Bool) (chains : List PubKey) (s : State) : State :=
  if !stageDue s .keys then s
  else
    let s := setStage .memTrain { s with bnd := { s.bnd with epochOpened := false } }
    if !ok then bootFail 0x04 s
    else
      let k := signScalar s
      let s := { s with tc := { s.tc with signKey := k, chain := (chains.take 4).find? fun c => c == Config.ecdsaPub k } }
      if knownCold s then openEpoch s else deriveRoot s

/-- KEYS. -/
def execKeys (selfTestOk : Bool) (chains : List PubKey) (s : State) : Host.Outcome State Fault Refusal :=
  .next (keysSt selfTestOk chains s)

/-- The newest SEQ of a mirror copy. -/
def mirrorSeq (l : List FRec) : Nat := (l.map fun r => r.seq).foldl max 0

/-- The newer of the mirror copies that are kept and `valid` (R459). -/
def newerMirror (c : FaultCol) (valid : BitVec 2) : List FRec :=
  let a := if c.copy0 && valid.getLsbD 0 then c.mirror0 else []
  let b := if c.copy640 && valid.getLsbD 1 then c.mirror640 else []
  if mirrorSeq a < mirrorSeq b then b else a

/-- The recorder as a start finds it (R458, R459): kept, or restored from a mirror copy where the stacks held it, or empty; the
copies that are kept. -/
def startRecorder (failed : BitVec 20) (kept held : Bool) (valid : BitVec 2) (s : State) : State :=
  let c0 := !failed.getLsbD 0
  let c640 := !failed.getLsbD 10
  let fc := { s.fc with copy0 := c0, copy640 := c640, noMirror := !c0 && !c640 }
  let copy := if held then newerMirror fc valid else []
  let top := mirrorSeq copy
  { s with fc := if kept then fc
                 else { fc with newest := top
                                bbr := (sortBy (fun r => top - r.seq) (copy.filter fun r => top < r.seq + 4096)).take 4096 } }

/-- MEM_TRAIN (R27, R28, R46, R459, R472, R504): stacks that fail are excluded; the start is judged warm or cold. -/
def memTrainSt (failed held : BitVec 20) (retentionOk bbrOk : Bool) (mirrorOk : BitVec 2) (s : State) : State :=
  if !stageDue s .memTrain then s
  else
    let s := setStage .memInit { s with bnd := { s.bnd with stackExcluded := failed } }
    if failed = 0xFFFFF then bootFail 0x03 s
    else
      let allHeld := (failed ||| held) == 0xFFFFF
      let cold := knownCold s || !retentionOk || !allHeld
      let s := startRecorder failed bbrOk allHeld mirrorOk s
      let s := if retentionOk then s
        else { s with fc := { s.fc with fenced := 0 }, lre := { s.lre with engines := [] },
                      rc := { s.rc with partGen := [], stockGen := [] } }
      let s := { s with tc := { s.tc with lcKept := some s.tc.lc }, bnd := { s.bnd with retentionValid := true } }
      if cold && !s.bnd.epochOpened then openEpoch s else s

/-- MEM_TRAIN. -/
def execMemTrain (failed held : BitVec 20) (retentionOk bbrOk : Bool) (mirrorOk : BitVec 2) (s : State) :
    Host.Outcome State Fault Refusal := .next (memTrainSt failed held retentionOk bbrOk mirrorOk s)

/-- A PC is usable: its stack is not excluded (R27). -/
def pcUsable (s : State) (p : Nat) : Bool := p < 1280 && !s.bnd.stackExcluded.getLsbD (stackOf p)

/-- A cold initialisation (R47, R48, R281): every usable PC zero under generation 0 with fresh counters, every key ID CLEAN. -/
def coldInit (s : State) : State :=
  { s with mi := { s.mi with pcs := [], counters := [], keys := [], nodes := [], mirrors := [],
                             mem := s.mi.mem.filter fun c => !pcUsable s (c.1 / 2 ^ 30) } }

/-- A key ID's state across a warm start (R308). -/
def keptKey (r : KeyRec) : KeyRec :=
  match r.state with
  | .held => { r with state := if r.conf then .dirty else .kept }
  | .flushing => { r with state := .flushed }
  | _ => r

/-- PCs whose scrub has not ended (R138): a scrub goes on over a warm start (R311). -/
def scrubbing (s : State) : BitVec 1280 :=
  bitsOf 1280 ((s.mi.pcs.filter fun p =>
    p.2.sweep.any (fun w => w.kind == .scrub) || p.2.queued.any fun w => w.kind == .scrub).map fun p => p.1)

/-- MEM_INIT (R47, R48, R308): cold work, or the check of every usable PC's tree root, of which any mismatch turns the start
cold. -/
def memInitSt (mismatch : List Nat) (s : State) : State :=
  if !stageDue s .memInit then s
  else
    let s := setStage .dirInit s
    if s.bnd.epochOpened then coldInit s
    else
      match leastBy id (mismatch.filter fun p => pcUsable s p) with
      | none =>
        { s with mi := { s.mi with keys := s.mi.keys.map fun p => (p.1, keptKey p.2) }, bnd := { s.bnd with warm := true },
                 ps := { s.ps with pendPcs := scrubbing s } }
      | some p =>
        let s := report { source := sliceUnit (sliceOf p), kind := 0x17, address := memLoc p 0x3ED00000, quiet := true } s
        coldInit (openEpoch s)

/-- MEM_INIT. -/
def execMemInit (mismatch : List Nat) (s : State) : Host.Outcome State Fault Refusal := .next (memInitSt mismatch s)

/-- Every generation is set one above the value kept (R472). -/
def raiseAll (s : State) : State :=
  { s with
    rc := { s.rc with partGen := (List.range 32).map fun n => (n, (partGen s n + 1) % 256),
                      stockGen := (List.range 64).map fun t => (t, (stockGen s t + 1) % 256) }
    lre := { s.lre with engines := (List.range 320).map fun e =>
      (e, { gen := ((engine s e).gen + 1) % 256, state := if s.fc.fenced.getLsbD e then .fenced else .idle }) } }

/-- DIR_INIT (R29, R47, R472): the directory is empty, generations rise, FABRIC_PRESENT rises to every tile. -/
def dirInitSt (dies : BitVec 4) (dirOk : Bool) (s : State) : State :=
  if !stageDue s .dirInit then s
  else
    let s := setStage .time s
    if dies ≠ 0xF then bootFail 0x02 s
    else if !dirOk then bootFail 0x05 s
    else fabricRise (List.range 64) (raiseAll { s with coh := { s.coh with lines := [] } })

/-- DIR_INIT. -/
def execDirInit (diesOk : BitVec 4) (dirOk : Bool) (s : State) : Host.Outcome State Fault Refusal :=
  .next (dirInitSt diesOk dirOk s)

/-- TIME (R47, R53): the time base starts at zero and the Tick Generator runs. The rail's voltage, which R540 does not give
for a start, is a free step from 700 to 850 mV. -/
def timeSt (s : State) : State :=
  if !stageDue s .time then s
  else
    let (r, s) := fresh 16 s
    let hm := { s.hm with rail := 700 + r % 31 * 5, allow := s.hm.allowMin }
    setStage .ready { s with tb := { s.tb with now := 0, running := true, tick := 0, slot := 0 }, hm := hm }

/-- TIME. -/
def execTime (s : State) : Host.Outcome State Fault Refusal := .next (timeSt s)

/-- The stage in which each failing check of R47 runs. -/
def checkStage : BootCheck → Stage
  | .firmware => .fwVerify
  | .keySelfTest => .keys
  | .memTrain => .memTrain
  | .cacheDie => .dirInit
  | .directory => .dirInit

/-- FAIL_CODE of a check (table after R45). -/
def checkCode : BootCheck → Nat
  | .firmware => 0x01
  | .cacheDie => 0x02
  | .memTrain => 0x03
  | .keySelfTest => 0x04
  | .directory => 0x05

/-- The stage that runs has none of the five checks. -/
def checkless (s : State) : Bool :=
  stageDue s .reset || stageDue s .tcBoot || stageDue s .memInit || stageDue s .time || (stageDue s .ready && !s.bnd.ready)

/-- STAGE_BOUND_EXPIRY: a stage that cannot end within its bound ends start-up with the code of its failing check (R47). Of
a stage to which the table gives no check, the code is a free value (log 17). -/
def stageExpirySt (check : Option BootCheck) (s : State) : State :=
  match check with
  | some c => if stageDue s (checkStage c) then bootFail (checkCode c) s else s
  | none =>
    if checkless s then
      let (r, s) := fresh 8 s
      bootFail r s
    else s

/-- STAGE_BOUND_EXPIRY. -/
def execStageBoundExpiry (check : Option BootCheck) (s : State) : Host.Outcome State Fault Refusal :=
  .next (stageExpirySt check s)

/-! ### Configuration requests (R30, R556) -/

/-- CONFIGURATION_REQUEST: Request Retry Status until TC_BOOT has ended, then the request's effect. -/
def cfgSt (op : CfgOp) (s : State) : State :=
  if !s.bnd.powered then s
  else if s.bnd.cfgRetry then emit (.cfg true 0) s
  else
    match op with
    | .readClassCode => emit (.cfg false 0x120000) s
    | .readSriov => emit (.cfg false (32 + 32 * 2 ^ 16 + 1 * 2 ^ 32 + 1 * 2 ^ 48)) s
    | .readOther =>
      let (v, s) := fresh 32 s
      emit (.cfg false v) s
    | .writeVfs en n => emit (.cfg false 0) { s with bnd := { s.bnd with vfEnable := en, numVfs := min n 32 } }
    | .writeAts fn en => emit (.cfg false 0) { s with bnd := { s.bnd with atsEnable := tput s.bnd.atsEnable (admKey fn) en } }
    | .writePri en => emit (.cfg false 0) { s with bnd := { s.bnd with priEnable := en } }

/-- CONFIGURATION_REQUEST. -/
def execConfigurationRequest (op : CfgOp) (s : State) : Host.Outcome State Fault Refusal := .next (cfgSt op s)

/-! ### Tray controller (R36 to R39) -/

/-- The Trust Core answers MCTP: power is on and it runs (table of partners). -/
def mctpUp (s : State) : Bool := s.bnd.powered && s.bnd.stage ≠ .reset

/-- A reply over MCTP. -/
def reply (code : Nat) (st : Status) (ws : List Nat) (s : State) : State := emit (.mctp code st ws) s

/-- A message that is not allowed in INVALID is answered with STATE_CONFLICT and has no effect; R36 names no status. -/
def unlessInvalid (code : Nat) (s : State) (k : State → State) : State :=
  if !mctpUp s then s else if s.tc.lc = .invalid then reply code .stateConflict [] s else k s

/-- GET_BOOT_STATUS. -/
def bootStatusSt (s : State) : State :=
  if mctpUp s then reply 0x01 .ok [bootStatus s, s.bnd.stackExcluded.toNat, lcCode s.tc.lc] s else s

/-- GET_BOOT_STATUS. -/
def execGetBootStatus (s : State) : Host.Outcome State Fault Refusal := .next (bootStatusSt s)

/-- GET_FAULT_SUMMARY: the fault state and the 16 newest records (R36, R457). -/
def faultSummarySt (s : State) : State :=
  unlessInvalid 0x02 s fun s =>
    reply 0x02 .ok ((b2n (anyPendF s) * 2 + b2n (anyPendU s)) :: (s.fc.bbr.take 16).map fun r => leNat (recBytes r)) s

/-- GET_FAULT_SUMMARY. -/
def execGetFaultSummary (s : State) : Host.Outcome State Fault Refusal := .next (faultSummarySt s)

/-- ERR_N may be released: it is not held by INVALID or BOOT_FAIL, and the fault that asserted it is acknowledged (R37,
R45). Where no fault asserted it, as at the power-cycle step of R38, nothing holds it. DESIGN CHOICE (log 110). -/
def releasable (s : State) : Bool := !s.bnd.errInvalid && s.bnd.errSource.all fun u => acknowledged s u

/-- ERR_N released. -/
def releaseErr (s : State) : State := { s with bnd := { s.bnd with errAsserted := false, errInvalid := false, errSource := none } }

/-- CLEAR_ERR_PIN (R36, R37); with ERR_N not asserted it answers OK and changes nothing. DESIGN CHOICE (log 110). -/
def clearErrSt (s : State) : State :=
  unlessInvalid 0x03 s fun s =>
    if s.bnd.errAsserted && !releasable s then reply 0x03 .stateConflict [] s
    else reply 0x03 .ok [] (releaseErr s)

/-- CLEAR_ERR_PIN. -/
def execClearErrPin (s : State) : Host.Outcome State Fault Refusal := .next (clearErrSt s)

/-- REQUEST_CHIP_RESET: at the next tick, or at once if no Tick Generator runs (R36). -/
def requestResetSt (s : State) : State :=
  unlessInvalid 0x04 s fun s =>
    let s := reply 0x04 .ok [] s
    if s.tb.running then { s with bnd := { s.bnd with resetAtTick := true } } else askChipReset { cause := .mctp, dump := true } s

/-- REQUEST_CHIP_RESET. -/
def execRequestChipReset (s : State) : Host.Outcome State Fault Refusal := .next (requestResetSt s)

/-- ACK_POWER_CYCLE ends the repetition of POWER_CYCLE_REQUEST (R39). -/
def ackPowerSt (s : State) : State :=
  if mctpUp s then reply 0x05 .ok [] { s with bnd := { s.bnd with powerCycle := none } } else s

/-- ACK_POWER_CYCLE. -/
def execAckPowerCycle (s : State) : Host.Outcome State Fault Refusal := .next (ackPowerSt s)

/-- Any other code is answered with BAD_OPCODE (R36). -/
def otherCodeSt (code : Nat) (s : State) : State :=
  if !mctpUp s || (1 ≤ code && code ≤ 5) then s else reply code .badOpcode [] s

/-- MCTP_OTHER_CODE. -/
def execMctpOtherCode (code : Nat) (s : State) : Host.Outcome State Fault Refusal := .next (otherCodeSt code s)

/-- POWER_CYCLE_REQUEST is repeated until answered, ten copies in all (R39). -/
def powerRepeatSt (s : State) : State :=
  match s.bnd.powerCycle with
  | none => s
  | some p =>
    if 10 ≤ p.copies || !s.bnd.powered then s
    else sendPower p { s with bnd := { s.bnd with powerCycle := some { p with copies := p.copies + 1 } } }

/-- POWER_CYCLE_REQUEST_REPEAT. -/
def execPowerCycleRequestRepeat (s : State) : Host.Outcome State Fault Refusal := .next (powerRepeatSt s)

/-- ERRPIN_CTL.CLEAR (R44, R45); the register window answers only while READY is 1 (R31). -/
def errpinClearSt (s : State) : State :=
  if live s && s.bnd.errAsserted && releasable s then releaseErr s else s

/-- ERRPIN_CLEAR. -/
def execErrpinClear (s : State) : Host.Outcome State Fault Refusal := .next (errpinClearSt s)

/-- A function-level reset of virtual function `n` acts as RESET_PARTITION without capture and resets its windows (R557); its
TDISP interface enters ERROR (R526). -/
def flrVfSt (n : Nat) (s : State) : State :=
  if !live s || !vfExists s n then s
  else
    let s := { s with tc := { s.tc with tdi := tput s.tc.tdi n .error } }
    match s.rc.current with
    | some r =>
      if r.domain = .partition n then { s with rc := { s.rc with current := some { r with flr := true } } }
      else askReset { domain := .partition n, cause := .command, flr := true } s
    | none => askReset { domain := .partition n, cause := .command, flr := true } s

/-- FUNCTION_LEVEL_RESET_VF. -/
def execFunctionLevelResetVf (n : Nat) (s : State) : Host.Outcome State Fault Refusal := .next (settle (flrVfSt n s))

/-- A function-level reset of the physical function starts a chip reset that keeps the link up (R557). -/
def flrPfSt (s : State) : State :=
  if !s.bnd.powered then s else askChipReset { cause := .command } s

/-- FUNCTION_LEVEL_RESET_PF. -/
def execFunctionLevelResetPf (s : State) : Host.Outcome State Fault Refusal := .next (flrPfSt s)

end Sys2Proof.Machine
end

