-- ==== Sys2Proof/Machine/Plan.lean ====
section
/-!
DEFINITION. The Plan Checker: the state record, the change kinds of hands, and the algorithm of R117, bit by bit (R89 to
R100, R111, R112, R115 to R118, R124).
-/
namespace Sys2Proof.Machine
open Sys2Proof

/-! ### The state record (R124) -/

/-- What the checks read of the device (R124). -/
structure PlanView where
  tick : Nat
  period : Nat
  age : Nat
  excluded : BitVec 20
  idle : BitVec 32
  inReset : BitVec 32
  keyClean : BitVec 128
  fenced : BitVec 320
  pcReady : BitVec 1280
  wayReady : BitVec 1280
  /-- Uses of the four quotas, by partition. -/
  use : List (List Nat)
  epochs : List Nat
  active : Image
  deriving DecidableEq, Repr

/-- BASE of a clock (R542). -/
def ageBase (mhz : Nat) : Nat := ceilDiv (1024 * 1600) mhz

/-- The monitors showed the slack that a lower rail or a raised clock needs (R540, R545). -/
def slackShown (s : State) : Bool := (s.hm.slackTarget + 16 : Int) ≤ s.hm.slackAll

/-- The clock that a deal of a staged plan at the present tick puts in effect (R545). -/
def dealClock (s : State) : Nat :=
  if s.hm.targetMhz < s.hm.presentMhz then
    if s.hm.targetTick + 64 ≤ s.tb.tick then s.hm.targetMhz else s.hm.presentMhz
  else if s.hm.presentMhz < s.hm.targetMhz && slackShown s then s.hm.targetMhz
  else s.hm.presentMhz

/-- BASE + ALLOW for a clock, as an 11-bit AGE_MARGIN (R137, R542). Above 2,047, which the spec leaves open, it stays at 2,047.
DESIGN CHOICE (log 118). -/
def marginOf (mhz allow : Nat) : Nat := min 2047 (ageBase mhz + allow)

/-- The measured margin of a check: what a deal now would publish (R107, R124, R542). -/
def dealMargin (s : State) : Nat := marginOf (min (dealClock s) s.hm.targetMhz) s.hm.allow

/-- A partition has no booked step, no dispatched or uncommitted step, no waiting response or record, and no line of it is
held by a tile (R114). -/
def quiet (s : State) (n : Nat) : Bool :=
  !(ledger s).any (fun b => b.part == n) && !s.steps.any (fun t => t.part == n && t.phase != .queued) &&
    !s.cu.trick.any (fun r => r.part == n) && !s.qu.qs.any (fun q => q.2.live && q.2.part == n && !q.2.overflow.isEmpty) &&
    !s.coh.lines.any (fun l => l.2.ptag == n && (l.2.presence ≠ 0 || l.2.trans.isSome))

/-- PS_IDLE bit `n` (R114). -/
def partIdle (s : State) (n : Nat) : Bool := !hasHand s.ps.active n || (s.ps.hold.getLsbD n && quiet s n)

/-- Uses of the four quotas by a partition (R124). -/
def quotaUse (s : State) (n : Nat) : List Nat := [reqCount s n, queueCount s n, ctxCount s n, syncCount s n]

/-- A PC in the stock may enter a hand (R116, R124, R305). -/
def pcReady (s : State) (p : Nat) : Bool :=
  let x := pcState s p
  pcUsable s p && !x.exhausted && !x.sweep.any fun w => w.kind == .scrub

/-- The state record as the checks read it (R124). -/
def planView (s : State) : PlanView where
  tick := s.tb.tick
  period := s.tb.periodUs
  age := dealMargin s
  excluded := s.bnd.stackExcluded
  idle := bitsOf 32 ((List.range 32).filter (partIdle s))
  inReset := s.rc.inReset
  keyClean := bitsOf 128 ((List.range 128).filter fun k => (keyRec s k).state = .clean || (keyRec s k).state = .kept)
  fenced := s.fc.fenced
  pcReady := bitsOf 1280 ((List.range 1280).filter (pcReady s))
  wayReady := ~~~s.ps.pendWays
  use := (List.range 32).map (quotaUse s)
  epochs := (List.range 32).map fun n => tget 0 s.ps.epochs n
  active := s.ps.active

/-- The state record as written to the result buffer, 34,048 bytes (R124). -/
def viewBytes (v : PlanView) : List Byte :=
  let zeros := fun (k : Nat) => List.replicate k (0 : Byte)
  leBytes (v.tick % 2 ^ 48) 8 ++ leBytes v.period 4 ++ leBytes v.age 2 ++ zeros 2 ++ leBytes v.excluded.toNat 4 ++
    leBytes v.idle.toNat 4 ++ leBytes v.inReset.toNat 4 ++ zeros 4 ++ leBytes v.keyClean.toNat 16 ++ zeros 16 ++
    leBytes v.fenced.toNat 40 ++ zeros 24 ++ leBytes v.pcReady.toNat 160 ++ leBytes v.wayReady.toNat 160 ++ zeros 64 ++
    (v.use.flatMap fun u => leBytes (u.getD 0 0) 2 ++ leBytes (u.getD 1 0) 2 ++ leBytes (u.getD 2 0) 2 ++ zeros 2 ++
      leBytes (u.getD 3 0) 4 ++ zeros 4) ++
    (v.epochs.flatMap fun e => leBytes e 4) ++ zeros 64 ++ leBytes v.active.toNat 32832

/-- The verdict record, 64 bytes (R123). -/
def verdictBytes (v : Verdict) (digest : Digest) : List Byte :=
  leBytes (statusCode v.status) 2 ++ leBytes v.reason 1 ++ leBytes v.hand 1 ++ leBytes v.item 2 ++ leBytes 0 2 ++
    leBytes (v.tick % 2 ^ 48) 8 ++ beBytes digest.toNat 48

/-! ### Reserved bits (R89 to R92) -/

/-- Reserved bits of a byte of the header. -/
def headMask (b : Nat) : Nat :=
  if b = 0x00 then 0xF0
  else if b = 0x05 then 0xF8
  else if b = 0x19 then 0xF0
  else if b = 0x01 ∨ b = 0x04 ∨ (0x08 ≤ b ∧ b < 0x14) ∨ b = 0x18 then 0
  else 0xFF

/-- Reserved bits of a byte of a valid class record. -/
def classMask (b : Nat) : Nat :=
  if b = 0 then 0xFC
  else if b = 1 then 0x80
  else if b = 2 then 0xE0
  else if b = 3 then 0xFC
  else if b = 6 ∨ b = 7 then 0xFF
  else 0

/-- Reserved bits of a byte of a hand record, its class records left out. -/
def handMask (b : Nat) : Nat :=
  if b = 0x000 then 0xFE
  else if b = 0x001 then 0xE0
  else if b = 0x002 ∨ b = 0x021 then 0x80
  else if b = 0x023 then 0xF8
  else if b = 0x025 then 0xE0
  else if b = 0x02A then 0xFC
  else if b = 0x003 ∨ b = 0x006 ∨ b = 0x007 ∨ b = 0x026 ∨ b = 0x027 ∨ (0x02B ≤ b ∧ b < 0x040) ∨ (0x050 ≤ b ∧ b < 0x060) ∨
      (0x088 ≤ b ∧ b < 0x0A0) ∨ (0x140 ≤ b ∧ b < 0x200) then 0xFF
  else 0

/-- Reserved bits of byte `b` of an image. -/
def imageMask (img : Image) (b : Nat) : Nat :=
  if b < 0x40 then headMask b
  else
    let n := (b - 0x40) / 0x400
    let o := (b - 0x40) % 0x400
    if !hasHand img n then 0xFF
    else if o < 0x200 then handMask o
    else if (hClass img n ((o - 0x200) / 32)).valid then classMask ((o - 0x200) % 32)
    else 0xFF

/-- The lowest offset of a byte that holds a non-zero reserved bit (R117). -/
def reservedByte (img : Image) : Option Nat :=
  (List.range 32832).find? fun b => imgFld img b 0 8 &&& imageMask img b ≠ 0

/-- The hand slot of a byte, 0x3F for the header (R117). -/
def slotOf (b : Nat) : Nat := if b < 0x40 then 0x3F else (b - 0x40) / 0x400

/-! ### Change kinds (R111) -/

/-- Kinds of change of a hand (R111). -/
inductive Change where
  | unchanged | created | adjusted | reshaped | withdrawn
  deriving DecidableEq, Repr

/-- The hand record with ROLE_EPOCH left out of the comparison. -/
def handBits (img : Image) (n : Nat) : Nat := setFld (handFld img n 0 0 8192) 64 32 0

/-- Every set bit of `a` is set in `b`. -/
def gains {w : Nat} (a b : BitVec w) : Bool := a &&& b == a

/-- Class `c` of two images is identical but for a lower RATE_CAP (R111). -/
def classKept (a b : Image) (n c : Nat) : Bool :=
  clsFld b n c 4 0 16 ≤ clsFld a n c 4 0 16 && setFld (clsFld a n c 0 0 256) 32 16 0 == setFld (clsFld b n c 0 0 256) 32 16 0

/-- The changes are limited to those of an adjusted hand (R111). -/
def adjustOk (a b : Image) (n : Nat) : Bool :=
  hPcs a n == hPcs b n && hCp a n == hCp b n && hConf a n == hConf b n && gains (hWays a n) (hWays b n) &&
    gains (hTiles a n) (hTiles b n) && gains (hKeys a n) (hKeys b n) && gains (hEngines a n) (hEngines b n) &&
    gains (hSlots a n) (hSlots b n) && (List.range 4).all (fun q => hQuota a n q ≤ hQuota b n q) &&
    (List.range 8).all (fun p => hShare a n p ≤ hShare b n p) && hLcCap a n ≤ hLcCap b n &&
    (validClasses a n).all fun c => classKept a b n c

/-- The change kind of partition `n` from plan `a` to plan `b` (R111). -/
def changeKind (a b : Image) (n : Nat) : Change :=
  match hasHand a n, hasHand b n with
  | false, false => .unchanged
  | false, true => .created
  | true, false => .withdrawn
  | true, true => if handBits a n = handBits b n then .unchanged else if adjustOk a b n then .adjusted else .reshaped

/-! ### The checks (R93, R117, R118) -/

/-- A class record breaks R93. -/
def classBad (img : Image) (n c : Nat) : Bool :=
  let k := hClass img n c
  if k.be then
    k.stepNs == 0 || k.deadline ≠ 0 || k.steps ≠ 0 || k.fsteps ≠ 0 || k.rateCap ≠ 0 || k.fstepNs ≠ 0 || k.tileNs ≠ 0 ||
      k.engineNs ≠ 0 || k.memLines ≠ 0 || k.netBytes ≠ 0
  else
    k.deadline < 1 || 64 < k.deadline || k.steps < 1 || 16 < k.steps || k.rateCap < 1 || k.stepNs < 1 ||
      (k.fstepNs == 0) != (k.fsteps == 0)

/-- A failed check. -/
abbrev Fail := Option (Nat × Nat × Nat)

/-- The first failure of a list of checks. -/
def firstFail {α : Type} (l : List α) (f : α → Fail) : Fail := l.findSome? f

/-- One condition. -/
def failIf (b : Bool) (reason hand item : Nat) : Fail := if b then some (reason, hand, item) else none

/-- Offsets of the quota and LC_CAP fields above their ranges, ascending (R91, R117). -/
def fieldFail (img : Image) (h : Nat) : Fail :=
  (failIf (64 < hLcCap img h) 0x08 h (handOff h + 0x002)).or <|
  (failIf (16384 < hQuota img h 0) 0x08 h (handOff h + 0x020)).or <|
  (failIf (1024 < hQuota img h 1) 0x08 h (handOff h + 0x022)).or <|
  (failIf (4096 < hQuota img h 2) 0x08 h (handOff h + 0x024)).or <|
  failIf (131072 < hQuota img h 3) 0x08 h (handOff h + 0x028)

/-- Index `i` of a kind of resource is claimed by a hand. -/
def claims (img : Image) (kind i h : Nat) : Bool :=
  match kind with
  | 0 => (hPcs img h).getLsbD i
  | 1 => (hWays img h).getLsbD (i % 32) && fld (hPcs img h).toNat (32 * (i / 32)) 32 ≠ 0
  | 2 => (hTiles img h).getLsbD i
  | 3 => (hEngines img h).getLsbD i
  | 4 => hCp img h == i
  | _ => (hKeys img h).getLsbD i

/-- Indices of a kind. -/
def kindSize (kind : Nat) : Nat :=
  match kind with
  | 0 => 1280
  | 1 => 1280
  | 2 => 64
  | 3 => 320
  | 4 => 32
  | _ => 128

/-- More than one hand claims an index: the second claimant (R117). -/
def overlapFail (img : Image) (kind : Nat) : Fail :=
  firstFail (List.range (kindSize kind)) fun i =>
    match (hands img).filter (claims img kind i) with
    | _ :: h :: _ => some (0x10 + kind, h, i)
    | _ => none

/-- The active plan gives the resource to `h`, or no hand holds it and `r` tells that it is ready in the stock (R117). -/
def ready (v : PlanView) (kind i h : Nat) (r : Bool) : Bool :=
  (hasHand v.active h && claims v.active kind i h) || (!(hands v.active).any (claims v.active kind i) && r)

/-- The resources of one hand. -/
def handFail (img : Image) (v : PlanView) (h : Nat) : Fail :=
  (firstFail (pcList img h) fun p =>
    (failIf (v.excluded.getLsbD (stackOf p)) 0x20 h p).or (failIf (!ready v 0 p h (v.pcReady.getLsbD p)) 0x21 h p)).or <|
  (failIf (pcList img h ≠ [] && hWays img h == 0) 0x22 h 0).or <|
  (firstFail (wayList img h) fun i => failIf (!ready v 1 i h (v.wayReady.getLsbD i)) 0x23 h i).or <|
  (firstFail (bitList (hTiles img h)) fun t => failIf (!ready v 2 t h true) 0x24 h t).or <|
  (firstFail (bitList (hEngines img h)) fun e =>
    (failIf (v.fenced.getLsbD e) 0x25 h e).or (failIf (!ready v 3 e h true) 0x26 h e)).or <|
  (if hEngines img h = 0 then none
    else firstFail (sliceList img h) fun sl => failIf (enginesIn img h sl = []) 0x27 h sl).or <|
  (failIf (!ready v 4 (hCp img h) h true) 0x28 h (hCp img h)).or <|
  firstFail (bitList (hKeys img h)) fun k =>
    (failIf (k == 0) 0x29 h 0).or (failIf (!ready v 5 k h (v.keyClean.getLsbD k)) 0x2A h k)

/-- Limits of the four quotas (R117). -/
def quotaLimit (q : Nat) : Nat := [16384, 1024, 4096, 131072].getD q 0

/-- Inflation by an image's PLAN_MARGIN (R117). -/
def planInfl (img : Image) (x : Nat) : Nat := (x * planMargin img + 1023) / 1024

/-- The capacity sums after the first classes of a hand, and the first failure (R117). -/
def capacityFail (img : Image) (period h b : Nat) : List Nat → Nat → Nat → Nat → Nat → Nat → Fail
  | [], _, _, _, _, _ => none
  | c :: cs, tile, eng, mem, net, ctx =>
    let k := hClass img h c
    let tile := tile + k.rateCap * planInfl img k.tileNs
    let eng := eng + k.rateCap * planInfl img k.engineNs
    let mem := mem + k.rateCap * k.memLines * 64
    let net := net + k.rateCap * k.netBytes
    let ctx := ctx + k.rateCap * (k.deadline + 1)
    (failIf ((bitList (hTiles img h)).length * b < tile) 0x42 h c).or <|
    (failIf ((bitList (hEngines img h)).length * b < eng) 0x43 h c).or <|
    (failIf ((pcList img h).length * 16 * b < mem) 0x44 h c).or <|
    (failIf (netBudget img period h < net) 0x45 h c).or <|
    (failIf (hQuota img h 0 < ctx) 0x46 h c).or <|
    capacityFail img period h b cs tile eng mem net ctx

/-- The LC classes of a hand. -/
def lcClasses (img : Image) (h : Nat) : List Nat := (validClasses img h).filter fun c => !(hClass img h c).be

/-- Step lengths, chains and capacity of one hand (R117). -/
def timeFail (img : Image) (period h : Nat) : Fail :=
  let l := slotLen period
  let m := (bitList (hSlots img h)).length
  let m15 := ((bitList (hSlots img h)).filter fun k => k ≠ 15).length
  let b := m * l * hLcCap img h / 64
  (firstFail (validClasses img h) fun c =>
    let k := hClass img h c
    (failIf (l < planInfl img k.stepNs) 0x40 h c).or
      (failIf (0 < k.fsteps && m * l < planInfl img k.fstepNs) 0x40 h c)).or <|
  (firstFail (lcClasses img h) fun c =>
    let k := hClass img h c
    failIf (m15 == 0 || k.deadline < k.fsteps + (k.steps + m15 - 1) / m15) 0x41 h c).or <|
  capacityFail img period h b (lcClasses img h) 0 0 0 0 0

/-- The chip-wide admission rate, hand by hand (R117). -/
def rateFail (img : Image) (period : Nat) : List Nat → Nat → Fail
  | [], _ => none
  | h :: hs, total =>
    let total := total + ((lcClasses img h).map fun c => (hClass img h c).rateCap).sum
    (failIf (32 * period < total) 0x48 0x3F h).or (rateFail img period hs total)

/-- The change of one partition (R111, R112, R115, R117). -/
def changeFail (img : Image) (v : PlanView) (n : Nat) : Fail :=
  let kind := changeKind v.active img n
  let use := v.use.getD n []
  let epoch := v.epochs.getD n 0
  let busy := (kind == .reshaped || kind == .withdrawn) && !v.idle.getLsbD n
  (firstFail (List.range 4) fun q => failIf (hQuota img n q < use.getD q 0) 0x50 n q).or <|
  (failIf (kind != .unchanged && v.inReset.getLsbD n) 0x51 n 2).or <|
  (failIf busy 0x51 n 0).or <|
  (failIf (kind == .reshaped && hCp v.active n != hCp img n && 0 < use.getD 1 0) 0x51 n 1).or <|
  (failIf (kind != .unchanged && epoch == 0xFFFFFFFF) 0x52 n 0).or <|
  failIf (hasHand img n && hEpoch img n != (if kind = .unchanged then epoch else epoch + 1)) 0x53 n 0

/-- Every check that refuses a plan as infeasible, in order (R117). -/
def planFail (img : Image) (v : PlanView) : Fail :=
  (failIf (planPeriod img != v.period) 0x01 0x3F 0).or <|
  (failIf (planMargin img < 1024) 0x02 0x3F 0).or <|
  (failIf (planMargin img < v.age) 0x03 0x3F v.age).or <|
  (firstFail (hands img) fun h =>
    (fieldFail img h).or (firstFail (validClasses img h) fun c => failIf (classBad img h c) 0x09 h c)).or <|
  (firstFail (List.range 6) (overlapFail img)).or <|
  (firstFail (hands img) (handFail img v)).or <|
  (firstFail (List.range 8) fun p => failIf (240 < ((hands img).map fun h => hShare img h p).sum) 0x30 0x3F p).or <|
  (firstFail (List.range 4) fun q =>
    failIf (quotaLimit q < ((hands img).map fun h => hQuota img h q).sum) 0x31 0x3F q).or <|
  (firstFail (hands img) (timeFail img v.period)).or <|
  (rateFail img v.period (hands img) 0).or <|
  firstFail (List.range 32) (changeFail img v)

/-- The Plan Checker (R117). -/
def checkPlan (img : Image) (v : PlanView) : Verdict :=
  if planVersion img ≠ 1 then { status := .version, item := 0, tick := v.tick }
  else if archLevel img ≠ 1 then { status := .version, item := 1, tick := v.tick }
  else
    match reservedByte img with
    | some b => { status := .reservedNonzero, hand := slotOf b, item := b, tick := v.tick }
    | none =>
      match planFail img v with
      | some (r, h, i) => { status := .planInfeasible, reason := r, hand := h, item := i, tick := v.tick }
      | none => { tick := v.tick }

end Sys2Proof.Machine
end

