-- ==== Sys2Proof/Machine/Compare.lean ====
section
/-!
DEFINITION. Replica comparison: entries, the local digest, notes from other members, decisions (R411, R452 to R455), and the
measurement registers that a DIGEST extends (R520).
-/
namespace Sys2Proof.Machine
open Sys2Proof

/-- A comparison entry has a key (R452). -/
def isCmp (n slot rangeId period : Nat) (e : CmpEntry) : Bool :=
  e.part == n && e.slot == slot && e.rangeId == rangeId && e.periodTick == period

/-- Partition `n` is placed on hold by the device (R113, R454, R455). -/
def holdPart (n : Nat) (s : State) : State := { s with ps := { s.ps with hold := setBit s.ps.hold n true } }

/-- The digest that more than half of the members hold, if one does (R453). -/
def cmpReference (e : CmpEntry) : Option Digest :=
  (e.digests.map fun p => p.2).find? fun d => 1 + e.members < 2 * (e.digests.filter fun p => p.2 == d).length

/-- The decision bitmaps (R453): the holders of the reference, the odd members, the missing ones. -/
def cmpDetail (e : CmpEntry) : Nat × Nat × Nat :=
  let all := List.range (1 + e.members)
  let map_ := fun (f : Nat → Bool) => (bitsOf 16 (all.filter f)).toNat
  let missing := fun (i : Nat) => (tfind e.digests i).isNone
  match cmpReference e with
  | some d =>
    let holds := fun (i : Nat) => tfind e.digests i == some d
    (map_ holds, map_ (fun i => !holds i), map_ missing)
  | none => (0, 0, map_ missing)

/-- An entry decides and closes (R453 to R455). -/
def decide_ (e : CmpEntry) (s : State) : State :=
  let isIt := isCmp e.part e.slot e.rangeId e.periodTick
  let s := { s with fc := { s.fc with cmps := s.fc.cmps.filter fun x => !isIt x, decided := satAdd 64 s.fc.decided 1,
                                      closed := (e.part, e.slot, e.rangeId, e.periodTick) :: s.fc.closed } }
  let (h, o, m) := cmpDetail e
  let detail := m * 2 ^ 32 + o * 2 ^ 16 + h
  let msg : FMsg := { source := 0xA00, kind := 0x38, address := e.rangeId, detail := detail, part := some e.part }
  match cmpReference e with
  | some _ =>
    if o = 0 then s
    else
      let s := report msg s
      if bitAt o 0 then holdPart e.part s else s
  | none => holdPart e.part (report { msg with kind := 0x39 } s)

/-- A digest joins an open entry, which decides when every digest is present (R452, R453). -/
def addDigest (n slot rangeId period who : Nat) (d : Digest) (s : State) : State :=
  let isIt := isCmp n slot rangeId period
  match s.fc.cmps.find? isIt with
  | none => s
  | some e =>
    let e := { e with digests := tput e.digests who d }
    let s := { s with fc := { s.fc with cmps := modFirst isIt (fun _ => e) s.fc.cmps } }
    if e.digests.length = 1 + e.members then decide_ e s else s

/-- One DIGEST_NOTE to every member of the job, sent once (R411); none to a peer that is not UP (R392). -/
def sendNotes (n slot rangeId period : Nat) (root : Digest) (s : State) : State :=
  let j := tget {} s.nu.jobs (pkey 5 n slot)
  j.list.foldl (fun s m =>
    let p := tget {} s.nu.peers m.chip
    let h : FoaHead := { version := p.version, rsv := false, srcChip := s.nu.chipId, dstChip := m.chip, srcPart := n,
                         dstPart := m.part, roleEpoch := m.epoch, srcEpoch := tget 0 s.ps.epochs n, jobId := j.id,
                         jobGen := j.gen }
    if !foaUp s m.chip then s
    else foaSend m.chip h (.digestNote { rangeId := rangeId, canon := 1, periodTick := period, digest := root, rsv := false }) s) s

/-- The measurement register that RANGE_ID selects is extended by a root (R520). -/
def measure (n rangeId : Nat) (root : Digest) (s : State) : State :=
  let ext := fun (m : Meas) =>
    { m with count := satAdd 32 m.count 1,
             value := Config.sha384 (beBytes m.value.toNat 48 ++ beBytes rangeId 4 ++ beBytes root.toNat 48) }
  if bitAt rangeId 31 then { s with tc := { s.tc with kernels := tmod {} s.tc.kernels n ext } }
  else { s with tc := { s.tc with tables := tmod {} s.tc.tables n ext } }

/-- COMPARISON_CLOSE: an entry decides at tick PERIOD_TICK + CLOSE_FRAMES with what it holds (R453). -/
def cmpCloseSt (n slot rangeId period : Nat) (s : State) : State :=
  match s.fc.cmps.find? (isCmp n slot rangeId period) with
  | none => s
  | some e => if live s && period + s.fc.closeFrames ≤ s.tb.tick then decide_ e s else s

/-- COMPARISON_CLOSE. -/
def execComparisonClose (part slot rangeId periodTick : Nat) (s : State) : Host.Outcome State Fault Refusal :=
  .next (settle (cmpCloseSt part slot rangeId periodTick s))

end Sys2Proof.Machine
end

