-- ==== Sys2Proof/Machine/Slots.lean ====
section
/-!
DEFINITION. Slot ends and commits: overruns and kills at a boundary, the dispatch of the next slot, and the commit of a slot
(R54, R62 to R75, R79 to R81, R166 to R168, R446, R494).
-/
namespace Sys2Proof.Machine
open Sys2Proof

/-! ### The end of a slot -/

/-- An LC step's commit boundary is `t.slot` of `t.frame`: LC_OVERRUN against its partition (R64, R421). -/
def lcOverrun (t : Step) (s : State) : State :=
  let s := { s with cu := { s.cu with lcOverruns := satAdd 32 s.cu.lcOverruns 1 } }
  let s := modHr t.part (fun h => { h with lcOverruns := satAdd 64 h.lcOverruns 1 }) s
  report { source := 0x204, kind := 0x30, detail := s.tb.slot * 2 ^ 48 + s.tb.tick % 2 ^ 48, part := some t.part,
           ctx := t.ctx, queue := t.queue, op := t.opcode, status := .killed } s

/-- A step still runs at its commit boundary (R64, R80, R167, R410, R440, R494). -/
def overrun (s : State) (t : Step) : State :=
  if t.judge then killStep .silent t.id s
  else if t.be then
    let s := { s with cu := { s.cu with beKills := satAdd 64 s.cu.beKills 1 } }
    let s := modHr t.part (fun h => { h with killsBe := satAdd 64 h.killsBe 1 }) s
    if 3 ≤ t.kills then
      killStep (.complete .killed) t.id { s with ac := { s.ac with giveups := satAdd 32 s.ac.giveups 1 } }
    else killStep .rerun t.id (modStep t.id (fun t => { t with kills := t.kills + 1 }) s)
  else if t.opcode = 0x47 && t.waitTags ≠ [] then
    let s := { s with nu := { s.nu with gatherTimeouts := satAdd 64 s.nu.gatherTimeouts 1 } }
    killStep (.complete .timeout) t.id s
  else if t.residueFails ≠ 0 then killStep (.complete .killed) t.id s
  else killStep (.complete .killed) t.id (lcOverrun t s)

/-- The steps whose commit boundary is the end of the present slot and that still run; PREFETCH and ADVISE have none (R62). -/
def overdue (s : State) : List Step :=
  s.steps.filter fun t => t.phase == .running && t.opcode ≠ 0x45 && t.opcode ≠ 0x46 && t.frame == s.tb.tick && t.slot == s.tb.slot

/-- The present slot ends: what still runs is killed, and its commit begins; a halted device commits nothing (R66, R68). -/
def endSlot (s : State) : State :=
  let s := (overdue s).foldl overrun s
  let s := { s with lre := { s.lre with slotUpdates := [] } }
  if s.cu.halted || !s.bnd.ready then s else { s with cu := { s.cu with open_ := some (s.tb.tick, s.tb.slot) } }

/-- What starts at a slot start: judge runs, then LC steps, re-runs and BE work (R166, R494). -/
def startSlot (s : State) : State := if live s && !s.cu.halted then arbitrate (startJudge s) else s

/-- SLOT_BOUNDARY: slots 0 to 14 end here, slot 15 at the tick (R54). A slot does not end while the commit of the one before
it is in progress (R66). -/
def slotSt (s : State) : State :=
  if !s.bnd.powered || !s.tb.running || 15 ≤ s.tb.slot || s.cu.open_.isSome then s
  else
    let edge := nextEdge s.tb
    let next := s.tb.slot + 1
    let s := endSlot s
    startSlot { s with tb := { s.tb with slot := next, now := edge } }

/-- SLOT_BOUNDARY. -/
def execSlotBoundary (s : State) : Host.Outcome State Fault Refusal := .next (settle (slotSt s))

/-! ### The commit of a slot -/

/-- The difference between the two runs of a redundant step, if they differ (R445). -/
def differOf (differ : List Differ) (t : Step) : Option Differ :=
  if t.redundant then differ.find? fun d => d.step == t.id else none

/-- A step qualifies (R67); `differ` names redundant steps whose two runs differ (R445). -/
def qualifies (differ : List Differ) (t : Step) : Bool := t.fail.isNone && !t.poisoned && (differOf differ t).isNone

/-- STEP_COMMIT or STEP_KILL to the tile of a tile step, before any commit-log entry is applied (R264). -/
def tellTile (differ : List Differ) (s : State) (t : Step) : State :=
  t.units.foldl (fun s u => match unitTile u with
    | some x => if qualifies differ t then emit (.stepCommit x t.id (domainGen s x)) s
        else emit (.stepKill x t.id (domainGen s x)) { s with coh := { s.coh with owed := s.coh.owed ++ [(x, t.id)] } }
    | none => s) s

/-- A held partial leaves after the commit, in as many replies as it needs (R70, R408, R409). -/
def sendReply (h : FoaHead) (b : ReplyBody) (s : State) : State :=
  if !foaUp s h.dstChip then s
  else (replyBodies b).foldl (fun s b => foaSend h.dstChip h (.gatherReply b) s) s

/-- The stash tile that a work command names (R266, R357). -/
def stashOf (d : Desc) : Option Nat := if dfld d 3 7 1 = 1 then some (dfld d 3 0 6) else none

/-- A commit-log entry is applied (R70); atomics follow in their own order. -/
def applyEffect (t : Step) (s : State) (e : Effect) : State :=
  match e with
  | .write dva bs => writeDva t.part t.xlats dva bs true (stashOf t.raw) s
  | .atomic _ _ _ _ => s
  | .hostWrite dva bs => emit (.hostWrite (.vf t.part) (dva % 2 ^ 56) bs) s
  | .reply h b => sendReply h b s
  | .measure r root => measure t.part r root s
  | .note slot r period root => addDigest t.part slot r period 0 root (sendNotes t.part slot r period root s)
  | .updateSeq q =>
    modQueue t.queue (fun x => { x with updateSeq := q }) { s with lre := { s.lre with updates := satAdd 64 s.lre.updates 1 } }
  | .ckptRecord dva => writeDva t.part t.xlats dva (ckptBytes (queue s t.queue) t.queue t.frame) true none s

/-- The atomics of the qualifying steps, in the order the homes received them (R75). -/
def commitAtoms (l : List Step) : List (Nat × Nat × Nat × AtomOp) :=
  sortBy (fun a => a.1) (l.flatMap fun t => t.log.filterMap fun e => match e with
    | .atomic k off n op => some (n, k, off, op)
    | _ => none)

/-- The counters of a committed step (R219). -/
def commitCounts (s : State) (t : Step) : State :=
  let s := if t.range then { s with lre := { s.lre with rangeEvents := satAdd 64 s.lre.rangeEvents 1 } } else s
  if t.opcode = 0x43 && t.skipped then { s with lre := { s.lre with updateSkips := satAdd 64 s.lre.updateSkips 1 } } else s

/-- The two runs of a redundant step differ (R446): it re-runs once, with the halves exchanged, an LC step at the next slot start
(log 140); a second mismatch completes it with KILLED. -/
def mismatch (t : Step) (d : Differ) (s : State) : State :=
  let m : FMsg := { source := 0x205, kind := 0x03, detail := d.runA % 2 ^ 9 * 2 ^ 16 + d.runB % 2 ^ 9, part := some t.part,
                    ctx := t.ctx, queue := t.queue, op := t.opcode }
  if t.mismatches ≠ 0 then finishStep t { st := .killed } (report { m with kind := 0x04, status := .killed } s)
  else modStep t.id (fun t => { requeued t with mismatches := 1 }) (touchAll t.units (report m s))

/-- A step that read poison is reported and its context marked lost (R67). -/
def markPoison (s : State) (t : Step) : State :=
  if t.poisoned then
    loseCtx t.part t.ctx (report { source := 0x205, kind := 0x31, detail := t.poisonDpa, part := some t.part, ctx := t.ctx,
                                   queue := t.queue, op := t.opcode, status := .poison } s)
  else s

/-- A step that does not qualify ends (R67, R365, R446). -/
def failStep (differ : List Differ) (s : State) (t : Step) : State :=
  if t.poisoned then finishStep t { st := .poison } s
  else
    match t.fail, differOf differ t with
    | some st, _ => finishStep t { st := st } s
    | none, some d => mismatch t d s
    | none, none => s

/-- A step whose two runs differ for the first time runs again instead of ending (R446). -/
def runsAgain (differ : List Differ) (t : Step) : Bool :=
  t.fail.isNone && !t.poisoned && (differOf differ t).isSome && t.mismatches == 0

/-- A signal takes effect in the commit of slot `k` of frame `f` (R74): with the commit of the last work before it, or
without such work at the end of the slot of its acceptance; one whose context this commit lost is discarded with it
(R334). `ends` are the steps that this commit ends. -/
def signalDue (f k : Nat) (ends : List Nat) (s : State) (g : Signal) : Bool :=
  (g.after ≠ [] || g.frame < f || (g.frame == f && g.slot ≤ k)) && !isLost s g.part g.ref.ctx && !g.gone &&
    !g.after.any fun id => (findStep s id).isSome && !ends.contains id

/-- One of the completions of a commit: a step's, or a signal's. -/
inductive Ending where
  | step (t : Step) | signal (g : Signal)
  deriving DecidableEq, Repr

/-- Its place in the order of acceptance. -/
def Ending.order : Ending → Nat
  | .step t => t.order
  | .signal g => g.order

/-- A step that qualified or not, or a signal, completes. -/
def endOne (differ : List Differ) (s : State) (e : Ending) : State :=
  match e with
  | .step t =>
    if qualifies differ t then finishStep t { st := .ok, skipped := t.skipped, range := t.range } s else failStep differ s t
  | .signal g => applySignal g s

/-- Reads that waited for the commit go on (R71): items at homes, steps that started or ended meanwhile. -/
def afterCommit (s : State) : State :=
  let s := ((s.coh.lines.filter fun p => p.2.wait ≠ []).map fun p => p.1).foldl (fun s k => drainAll k s) s
  ((s.steps.filter fun t => t.phase == .running).map fun t => t.id).foldl (fun s id => tryFinish id s) s

/-- The steps that the commit of a slot ends. -/
def ending (s : State) (f k : Nat) : List Step := s.steps.filter fun t => t.phase == .finished && t.frame == f && t.slot == k

/-- The commit ends once no line it has updated awaits a tile: its steps and signals complete in their order of acceptance
(R211, R370), and what waited for it goes on. -/
def endCommit (f k : Nat) (s : State) : State :=
  if updatesWait s then s
  else
    let differ := s.cu.differ
    let l := ending s f k
    let good := l.filter (qualifies differ)
    let s := good.foldl commitCounts s
    let s := (l.filter fun t => !qualifies differ t).foldl markPoison s
    let sigs := s.qu.signals.filter (signalDue f k ((l.filter fun t => !runsAgain differ t).map fun t => t.id) s)
    let s := { s with qu := { s.qu with signals := s.qu.signals.filter fun g => !sigs.contains g } }
    let all := sortBy Ending.order (l.map .step ++ sigs.map .signal)
    let s := all.foldl (endOne differ) s
    let s := afterCommit { s with cu := { s.cu with open_ := none, applied := false, differ := [] } }
    (hands s.ps.active).foldl (fun s n => fillBe n s) s

/-- The effects of a commit are applied (R66, R70, R264): tiles are told first, then the logs, then the atomics. -/
def applyCommit (f k : Nat) (differ : List Differ) (s : State) : State :=
  let l := ending s f k
  let good := l.filter (qualifies differ)
  let s := l.foldl (tellTile differ) s
  let s := { s with cu := { s.cu with applied := true, differ := differ },
                    steps := s.steps.map fun t => if l.any (fun x => x.id == t.id) then { t with log := [] } else t }
  let s := good.foldl (fun s t => t.log.foldl (applyEffect t) s) s
  (commitAtoms good).foldl (fun s a => applyAtom a.2.1 a.2.2.1 a.2.2.2 s) s

/-- A line read by a step of the slot, a killed one included, is not yet verified (R66). -/
def commitUnverified (s : State) (f k : Nat) : Bool :=
  (ending s f k).any (fun t => t.unverified ≠ []) || s.cu.blocks.any fun b => b.1 == f && b.2.1 == k

/-- COMMIT of the slot that has ended (R66, R67, R70): it waits until every line its steps read is verified; `differ` names
the redundant steps whose two runs differ. One whose updates wait for tiles ends at a later COMMIT (log 112). -/
def commitSt (differ : List Differ) (s : State) : State :=
  match s.cu.open_ with
  | none => s
  | some (f, k) =>
    if !s.bnd.powered || s.cu.halted || commitUnverified s f k then s
    else endCommit f k (if s.cu.applied then s else applyCommit f k differ s)

/-- COMMIT. -/
def execCommit (differ : List Differ) (s : State) : Host.Outcome State Fault Refusal := .next (settle (commitSt differ s))

end Sys2Proof.Machine
end

