-- ==== Sys2Proof/Machine/Store.lean ====
section
/-!
DEFINITION. The Plan Store's commands and the registers of the tick grid: CHECK, CANCEL, the end of a check, holds and their
recalls, TG_PERIOD, TICK_ORIGIN and SETUP_LOCK.LOCK (R8, R56, R57, R103 to R108, R113, R123, R124, R271, R564, R565).
-/
namespace Sys2Proof.Machine
open Sys2Proof

/-! ### CHECK and CANCEL (R103, R105, R108, R132) -/

/-- An armed deal is disarmed (R108). -/
def disarm (s : State) : State := { s with ps := { s.ps with armed := false } }

/-- The deal takes place in this cycle: the time base has not counted since (R105, R108). -/
def dealing (s : State) : Bool := s.ps.dealNs == some s.tb.now && s.ps.dealTick == s.tb.tick

/-- A write of PS_CMD that sets CHECK: DEAL takes the bit written, a CANCEL in the same write goes first; with a CANCEL that the
deal of the same cycle leaves without effect it is dropped (R105). -/
def checkSt (deal cancel : Bool) (s : State) : State :=
  if !live s then s
  else
    let s := if cancel then disarm s else s
    let s := { s with ps := { s.ps with deal := deal } }
    if s.ps.busy || s.ps.armed || (cancel && dealing s) then { s with ps := { s.ps with cmdErr := true } }
    else { s with ps := { s.ps with busy := true, checkDeal := deal } }

/-- CHECK. -/
def execCheck (deal cancel : Bool) (s : State) : Host.Outcome State Fault Refusal := .next (settle (checkSt deal cancel s))

/-- A write of PS_CMD that sets CANCEL alone (R108). -/
def cancelSt (deal : Bool) (s : State) : State :=
  if !live s then s
  else
    let s := disarm s
    { s with ps := { s.ps with deal := deal } }

/-- CANCEL. -/
def execCancel (deal : Bool) (s : State) : Host.Outcome State Fault Refusal := .next (settle (cancelSt deal s))

/-! ### The end of a check -/

/-- PLAN_DIGEST of an image (R123). -/
def planDigest (img : Image) : Digest := Config.sha384 (leBytes img.toNat 32832)

/-- A verdict is written: PS_VERDICT, the counters, DONE, the result buffer where it can be written, the vector (R103, R104,
R123, R139). -/
def putVerdict (v : Verdict) (view : PlanView) (digest : Digest) (resultOk : Bool) (s : State) : State :=
  let s := { s with ps := { s.ps with verdict := v, done := true, checks := satAdd 64 s.ps.checks 1,
                                      refusals := if v.status = .ok then s.ps.refusals else satAdd 64 s.ps.refusals 1 } }
  let s := if resultOk && !s.cu.halted then
      emit (.hostWrite .pf (s.ps.resultAddr + 0x40) (viewBytes view))
        (emit (.hostWrite .pf s.ps.resultAddr (verdictBytes v digest)) (emit (.verdictRec v digest) s))
    else s
  msix .pf 63 s

/-- PLAN_CHECK_DONE: the image that was read enters the shadow set and is checked; an image that could not be read gives
TIMEOUT and leaves the shadow set empty. A verdict of OK arms the deal if DEAL was 1 (R103, R104, R106, R117). The digest of
an image that was not read is a free value. -/
def checkDoneSt (image : Option Image) (resultOk : Bool) (s : State) : State :=
  if !live s || !s.ps.busy then s
  else
    let view := planView s
    let s := { s with ps := { s.ps with busy := false, shadow := image } }
    match image with
    | none =>
      let (d, s) := fresh 384 s
      putVerdict { status := .timeout, tick := s.tb.tick } view (BitVec.ofNat 384 d) resultOk s
    | some img =>
      let v := checkPlan img view
      let s := { s with ps := { s.ps with armed := v.status = .ok && s.ps.checkDeal } }
      putVerdict v view (planDigest img) resultOk s

/-- PLAN_CHECK_DONE. -/
def execPlanCheckDone (image : Option Image) (resultOk : Bool) (s : State) : Host.Outcome State Fault Refusal :=
  .next (settle (checkDoneSt image resultOk s))

/-! ### Holds (R113, R114, R136, R271) -/

/-- A write of PS_HOLD: partitions enter and leave hold; one that leaves it dispatches again (R113, R114). -/
def psHoldSt (v : BitVec 32) (s : State) : State :=
  if !live s then s
  else
    let freed := (hands s.ps.active).filter fun n => s.ps.hold.getLsbD n && !v.getLsbD n
    freed.foldl (fun s n => fillBe n s) { s with ps := { s.ps with hold := v } }

/-- PS_HOLD. -/
def execPsHold (value : BitVec 32) (s : State) : Host.Outcome State Fault Refusal := .next (settle (psHoldSt value s))

/-- The recall of a line of a held partition: SnpInv to its owner or its sharers; the line stays in L (R271). A line in a
transient state is recalled when its transaction has ended. -/
def recallLine (k : Nat) (s : State) : State :=
  let l := llc s k
  let i : HomeItem := { kind := .recall }
  if l.trans.isSome then setLlc k { l with wait := l.wait ++ [i] } s else begin_ k i s

/-- HOLD_RECALL: a partition on hold without a dispatched step is recalled (R271). -/
def holdRecallSt (n : Nat) (s : State) : State :=
  if !live s || !s.ps.hold.getLsbD n || s.steps.any (fun t => t.part == n && t.phase != .queued) then s
  else (linesOf s n).foldl (fun s k => recallLine k s) s

/-- HOLD_RECALL. -/
def execHoldRecall (part : Nat) (s : State) : Host.Outcome State Fault Refusal := .next (settle (holdRecallSt part s))

/-! ### The tick grid (R8, R56, R57, R564, R565) -/

/-- TG_PERIOD: a period out of range only sets CFG_ERR; a locked one is dropped (R8, R57). -/
def periodSt (v : Word) (s : State) : State :=
  let p := fld v.toNat 0 12
  if !live s || s.bnd.locked then s
  else if p < 32 || 4000 < p then { s with tb := { s.tb with cfgErr := true } }
  else { s with tb := regrid { s.tb with periodUs := p } }

/-- TG_PERIOD. -/
def execTgPeriod (value : Word) (s : State) : Host.Outcome State Fault Refusal := .next (settle (periodSt value s))

/-- A 64-bit register after a write of 8 bytes, or of the half at `off` (R562). -/
def write64 (old base off size : Nat) (v : Word) : Nat :=
  if size = 8 then v.toNat else setFld old (8 * (off - base)) 32 v.toNat

/-- TICK_ORIGIN (R56). -/
def originSt (off size : Nat) (v : Word) (s : State) : State :=
  if !live s || s.bnd.locked then s
  else { s with tb := regrid { s.tb with originNs := write64 s.tb.originNs 0x008 off size v } }

/-- TICK_ORIGIN. -/
def execTickOrigin (off size : Nat) (value : Word) (s : State) : Host.Outcome State Fault Refusal :=
  .next (settle (originSt off size value s))

/-- The fields that lock at the first deal lock; LOCK_TICK is that of the first locking event (R564, R565). -/
def lockFields (s : State) : State :=
  if s.bnd.locked then s else { s with bnd := { s.bnd with locked := true, lockTick := s.tb.tick } }

/-- SETUP_LOCK.LOCK (R565). -/
def lockSt (s : State) : State := if live s then lockFields s else s

/-- LOCK. -/
def execLock (s : State) : Host.Outcome State Fault Refusal := .next (settle (lockSt s))

end Sys2Proof.Machine
end

