-- ==== Sys2Proof/Machine/Deal.lean ====
section
/-!
DEFINITION. The deal: what a staged plan changes at its tick (R109 to R112, R116, R125 to R129, R142, R272, R306 to R308, R332,
R520, R526, R535, R545, R565).
-/
namespace Sys2Proof.Machine
open Sys2Proof

/-! ### What changes -/

/-- The change kind of each partition at a deal from `a` to `b`. -/
def kindsOf (a b : Image) : List (Nat × Change) := (List.range 32).map fun n => (n, changeKind a b n)

/-- Partitions whose change has one of some kinds. -/
def partsOf (a b : Image) (ks : List Change) : List Nat := ((kindsOf a b).filter fun p => ks.contains p.2).map fun p => p.1

/-- Partitions whose generation rises (R111). -/
def genParts (a b : Image) : List Nat := partsOf a b [.created, .reshaped, .withdrawn]
/-- Partitions whose role epoch rises (R111). -/
def epochParts (a b : Image) : List Nat := partsOf a b [.created, .adjusted, .reshaped, .withdrawn]
/-- Hands that keep their partition and change their set of PCs (R97, R128). -/
def moved (a b : Image) : List Nat := (partsOf a b [.reshaped]).filter fun n => hPcs a n ≠ hPcs b n

/-- Tiles whose DOMAIN_GEN changes (R126). -/
def changedTiles (a b : Image) : List Nat :=
  (List.range 64).filter fun t => tileOwner a t ≠ tileOwner b t ||
    (tileOwner a t).any fun n => (partsOf a b [.reshaped]).contains n
/-- Engines that enter or leave a hand (R125). -/
def changedEngines (a b : Image) : List Nat := (List.range 320).filter fun e => engineOwner a e ≠ engineOwner b e
/-- PCs that leave a hand (R128). -/
def leavingPcs (a b : Image) : List Nat :=
  (List.range 1280).filter fun p => (pcOwner a p).isSome && (pcOwner b p).isNone
/-- Every way some hand claims, as 32 * slice + way. -/
def claimedWays (img : Image) : List Nat := (hands img).flatMap fun n => wayList img n
/-- Ways that leave a hand (R128). -/
def leavingWays (a b : Image) : List Nat := (claimedWays a).filter fun i => !(claimedWays b).contains i

/-! ### Cache and memory (R97, R128, R306) -/

/-- The way of a line as 32 * slice + way. -/
def wayOf (k : Nat) (l : LlcLine) : Nat := 32 * sliceOf (linePc k) + l.way

/-- Lines of PCs that leave, and of hands whose PCs change, go without write-back; lines in leaving ways are written back
first (R128). -/
def sweepLines (a b : Image) (s : State) : State :=
  let gone := fun (p : Nat × LlcLine) => (leavingPcs a b).contains (linePc p.1) || (moved a b).contains p.2.ptag
  let s := { s with coh := { s.coh with lines := s.coh.lines.filter fun p => !gone p } }
  let ways := leavingWays a b
  let l := s.coh.lines.filter fun p => ways.contains (wayOf p.1 p.2)
  let s := l.foldl (fun s p => if p.2.dirty then writeMem p.1 p.2.data p.2.poison s else s) s
  { s with coh := { s.coh with lines := s.coh.lines.filter fun p => !ways.contains (wayOf p.1 p.2) } }

/-- The contents of a hand's memory are undefined after its set of PCs changed (R97): each of its PCs takes a position in
the free values. -/
def spoilPc (s : State) (p : Nat) : State :=
  { modPc p (fun x => { x with junk := some s.freeCount, sure := [] }) s with freeCount := s.freeCount + 1 }

/-- PCs and ways return to the stock (R116, R128, R138). -/
def returnStock (a b : Image) (s : State) : State :=
  let pcs := leavingPcs a b
  let s := pcs.foldl (fun s p => startScrub p s) (sweepLines a b s)
  let scrubs := pcs.filter fun p => !(pcState s p).exhausted
  { s with ps := { s.ps with pendPcs := s.ps.pendPcs ||| bitsOf 1280 scrubs,
                             pendWays := s.ps.pendWays ||| bitsOf 1280 (leavingWays a b) } }

/-- KEYID_STATE after a deal (R307, R308). -/
def dealKey (a b : Image) (first : Bool) (k : Nat) (r : KeyRec) : KeyRec :=
  match keyOwner b k with
  | some n => { state := .held, part := n, conf := hConf b n }
  | none =>
    if (keyOwner a k).isSome || (first && r.state = .kept) then { r with state := .dirty } else r

/-- The key IDs after a deal: those that a hand of `b` holds, and those already recorded. -/
def dealKeys (a b : Image) (first : Bool) (t : Tab KeyRec) : Tab KeyRec :=
  ((List.range 128).filter fun k => k ≠ 0 && ((keyOwner b k).isSome || (tfind t k).isSome)).map fun k =>
    (k, dealKey a b first k (tget {} t k))

/-! ### The deal -/

/-- Every generation that rises at a deal (R111, R125); an engine that leaves its hand idles, fenced or not. -/
def dealGens (a b : Image) (s : State) : State :=
  let s := (genParts a b).foldl (fun s n =>
    { s with rc := { s.rc with partGen := tput s.rc.partGen n ((partGen s n + 1) % 256) } }) s
  (changedEngines a b).foldl (fun s e => raiseEngine e s) s

/-- Present role epochs after a deal (R111, R112, R125). -/
def dealEpochs (a b : Image) (t : Tab Nat) : Tab Nat :=
  (epochParts a b).foldl (fun t n => tput t n (if hasHand b n then hEpoch b n else tget 0 t n + 1)) t

/-- What enters a hand is first dispatched to in the frame after the deal's (R127). -/
def newcomers (a b : Image) (s : State) : State :=
  let parts := partsOf a b [.created] ++ (partsOf a b [.reshaped]).filter fun n => hPcs a n ≠ hPcs b n || hCp a n ≠ hCp b n
  { s with ps := { s.ps with
      newTiles := bitsOf 64 ((List.range 64).filter fun t => (tileOwner b t).isSome && tileOwner a t ≠ tileOwner b t),
      newEngines := bitsOf 320 ((changedEngines a b).filter fun e => (engineOwner b e).isSome),
      newParts := bitsOf 32 parts,
      newShares := (hands b).map fun n => (n, ((List.range 8).map fun p => hShare b n p - hShare a n p).sum) } }

/-- Sessions of confidential partitions whose role epoch rises end; their TDISP interfaces enter ERROR (R142, R526);
measurements start afresh with a created or reshaped hand (R520). -/
def dealTrust (a b : Image) (s : State) : State :=
  let ep := epochParts a b
  let ended := fun (n : Nat) => ep.contains n && (hConf a n || hConf b n)
  let fresh_ := partsOf a b [.created, .reshaped]
  { s with
    rie := { s.rie with sessions := s.rie.sessions.filter fun x => !ended x.part }
    tc := { s.tc with tdi := ep.foldl (fun t n => tput t n .error) s.tc.tdi,
                      kernels := s.tc.kernels.filter fun p => !fresh_.contains p.1,
                      tables := s.tc.tables.filter fun p => !fresh_.contains p.1 } }

/-- The counters of a hand report start afresh (R535). -/
def dealReports (a b : Image) (s : State) : State :=
  (genParts a b).foldl (fun s n =>
    { s with tc := { s.tc with hr := tmod {} s.tc.hr n fun p => { p with live := {}, usedNow := false, sinceTick := s.tb.tick } } }) s

/-- Held steps whose translations fail under the new hand (R332). -/
def markStale (a b : Image) (s : State) : State :=
  { s with steps := s.steps.map fun t => if (moved a b).contains t.part && xlatStale s t then { t with stale := true } else t }

/-- The clock and the rail of the 1.6 GHz domain at a deal (R119, R540, R545): the rail may fall, to a step that is a free
value, while the monitors showed the slack. -/
def dealClocks (s : State) : State :=
  let hm := s.hm
  let mhz := dealClock s
  let held := hm.presentMhz < hm.targetMhz && !slackShown s
  let (r, s) := fresh 16 s
  let steps := (hm.rail - 700) / 5
  let rail := if slackShown s && 700 ≤ hm.rail then 700 + 5 * (r % (steps + 1)) else hm.rail
  { s with hm := { hm with presentMhz := mhz, heldRaise := hm.heldRaise || held, rail := rail,
                           voltSteps := if rail = hm.rail then hm.voltSteps else satAdd 32 hm.voltSteps 1 } }

/-- The deal of staged plan `b` (R125, R126, R128). -/
def deal (b : Image) (s : State) : State :=
  let a := s.ps.active
  let first := !s.ps.staged
  let tiles := changedTiles a b
  let s := fabricFall tiles s
  let s := { s with bnd := { s.bnd with rising := s.bnd.rising ||| bitsOf 64 tiles } }
  let s := { s with ps := { s.ps with active := b, shadow := none, staged := true, epochs := dealEpochs a b s.ps.epochs,
                                      dealTick := s.tb.tick, dealNs := some s.tb.now,
                                      deals := satAdd 64 s.ps.deals 1, dealt := true, armed := false } }
  let s := if first then lockFields s else s
  let s := returnStock a b (dealGens a b s)
  let s := { s with mi := { s.mi with keys := dealKeys a b first s.mi.keys,
                                      pcs := if first then s.mi.pcs.map fun p => (p.1, { p.2 with kept := false }) else s.mi.pcs } }
  let s := ((moved a b).flatMap fun n => pcList b n).foldl spoilPc s
  dealClocks (newcomers a b (markStale a b (dealReports a b (dealTrust a b s))))

/-- The armed deal of a tick: the recheck, and the deal or a new verdict (R106, R107). -/
def armedDeal (s : State) : State :=
  match s.ps.armed, s.ps.shadow with
  | true, some img =>
    let view := planView s
    let v := checkPlan img view
    if v.status = .ok then deal img s
    else putVerdict v view (planDigest img) true { s with ps := { s.ps with armed := false } }
  | _, _ => s

end Sys2Proof.Machine
end

