-- ==== Sys2Proof/Machine/Tick.lean ====
section
/-!
DEFINITION. TICK: the frame-level work of every unit at a frame boundary (R49, R53, R54, R76 to R78, R107, R121, R125, R151,
R166, R391, R393, R406, R442 to R444, R511, R533 to R536, R540 to R545).
-/
namespace Sys2Proof.Machine
open Sys2Proof

/-! ### The frame that ends (R540 to R544) -/

/-- What the monitors and sensors reported in the frame enters their registers (R539, R554; log 141). -/
def takeReports (h : HealthIn) (s : State) : State :=
  let put := fun (l : Tab (Int × Int)) (m : MonitorIn) =>
    if m.monitor < 160 then tput l m.monitor (m.latest, min m.lowest (tget (m.latest, m.lowest) l m.monitor).2) else l
  let val := fun (l : Tab Int) (v : Nat × Int) => if v.1 < 32 then tput l v.1 v.2 else l
  { s with hm := { s.hm with mons := h.monitors.foldl put s.hm.mons, sensors := h.sensors.foldl val s.hm.sensors } }

/-- Some monitor's slack in the frame was below the target: so then was the worst slack, the lowest of them (R539). -/
def slackShort (h : HealthIn) (s : State) : Bool :=
  h.monitors.any fun m => m.monitor < 160 && m.lowest < s.hm.slackTarget

/-- The rail rises a step when the frame's worst slack was below the target (R540). -/
def raiseRail (h : HealthIn) (s : State) : State :=
  if slackShort h s && s.hm.rail < 850 then
    { s with hm := { s.hm with rail := s.hm.rail + 5, voltSteps := satAdd 32 s.hm.voltSteps 1 } }
  else s

/-- ALLOW rises by 8 at 850 mV when the stretched time of the last 64 frames exceeds half the allowance, and AGE_MARGIN would
stay within 2,047 (R542). The stretched time of a frame is that of the slice that stretched most. -/
def raiseAllow (s : State) : State :=
  let hm := s.hm
  let exceeded := hm.allow * hm.stretch.length * periodNs s.tb < hm.stretch.sum * 2048
  if hm.rail = 850 && exceeded && ageBase (min hm.presentMhz hm.targetMhz) + hm.allow + 8 ≤ 2047 then
    { s with hm := { hm with allow := hm.allow + 8 } }
  else s

/-- The Health Monitor at the end of a frame. ALLOW is judged with the rail that the frame ran at. -/
def frameHealth (h : HealthIn) (s : State) : State :=
  let s := { s with hm := { s.hm with stretch := (h.stretchMax :: s.hm.stretch).take 64,
                                      stretchNs := satAdd 64 s.hm.stretchNs h.stretchSum,
                                      overdraw := s.hm.overdraw || h.overdraw,
                                      overdraws := satAdd 32 s.hm.overdraws (b2n h.overdraw),
                                      slackAll := h.slackAll64 } }
  raiseRail h (raiseAllow (takeReports h s))

/-! ### The tick itself -/

/-- The first bit of a trick leaves a port no more than 20 ns after the tick, as the port stamps it (R77, R387); the delay is a
free value. -/
def stampTrick (p : Nat) (s : State) : State :=
  let (r, s) := fresh 8 s
  modPort p (fun x => { x with trickStamp := some (s.tb.now + r % 21) }) s

/-- The trick is released and its request contexts are free (R76 to R78, R144, R151); a halted device releases none (R68). -/
def releaseTrick (s : State) : State :=
  if s.cu.halted then s
  else
    let n := s.cu.trick.length
    let s := (uniq (s.cu.trick.map fun r => r.port)).foldl (fun s p => stampTrick p s) s
    let s := s.cu.trick.foldl (fun s r => emit (.datagram r.port r.addr r.udp r.bytes) s) s
    { s with cu := { s.cu with trick := [], tricks := if n = 0 then s.cu.tricks else satAdd 64 s.cu.tricks 1 },
             rie := { s.rie with responses := satAdd 64 s.rie.responses n },
             ac := { s.ac with reqs := s.ac.reqs.filter fun r => r.state ≠ .done } }

/-- The first tick of a start: the empty plan is dealt, READY is set, ERR_N is released, SVN_FLOOR rises (R37, R49, R511). -/
def firstTick (s : State) : State :=
  let floor := match s.tc.commitSvn with
    | some v => s.tc.otp.svnFloor ||| bitsOf 64 (List.range (min v 64))
    | none => s.tc.otp.svnFloor
  let s := releaseErr { s with bnd := { s.bnd with stage := .ready, ready := true },
                               ps := { s.ps with dealTick := s.tb.tick },
                               tc := { s.tc with otp := { s.tc.otp with svnFloor := floor } } }
  (List.range 32).foldl (fun s n =>
    { s with tc := { s.tc with hr := tmod {} s.tc.hr n fun p => { p with sinceTick := s.tb.tick } } }) s

/-- The clock while the empty plan is active: a target takes effect at the next tick (R545). -/
def emptyClock (s : State) : State :=
  if s.ps.staged then s else { s with hm := { s.hm with presentMhz := s.hm.targetMhz } }

/-- AGE_MARGIN as published (R542): it may fall only at a deal or under the empty plan, which is the device's own start state
alone, not a staged plan without hands (log 116). -/
def publishMargin (dealt : Bool) (s : State) : State :=
  let v := marginOf (min s.hm.presentMhz s.hm.targetMhz) s.hm.allow
  { s with ps := { s.ps with ageMargin := if dealt || !s.ps.staged then v else max s.ps.ageMargin v } }

/-- The reserve is below its threshold (R541). -/
def reserveLow (s : State) : Bool := 850 - s.hm.rail < s.hm.reserveLow

/-- PLAN_MARGIN_LOW: a condition arises, or a deal finds one (R121, R541, R544). -/
def marginLow (dealt overdraw : Bool) (s : State) : State :=
  let gap := s.ps.staged && planMargin s.ps.active < s.ps.ageMargin + s.ps.gap
  let low := s.ps.staged && (reserveLow s || overdraw)
  let raise := (gap && !s.ps.lowHeld) || (low && !s.hm.lowReport) || (dealt && (gap || low))
  let s := { s with ps := { s.ps with lowHeld := gap }, hm := { s.hm with lowReport := low } }
  if raise then
    let s := { s with ps := { s.ps with marginLow := true, lowEvents := satAdd 32 s.ps.lowEvents 1 } }
    event 0x201 .planMarginLow none 0 (msix .pf 63 s)
  else s

/-- A write of a threshold may make a condition of PLAN_MARGIN_LOW arise (R121); `old` is the state before the write. A reserve
that an overdrawn frame reported low stays so until the next tick (R544). -/
def thresholdWritten (old s : State) : State := marginLow false (old.hm.lowReport && !reserveLow old) s

/-- Requests admitted in the frame before join their batches; the frame's admission counts start afresh (R151, R159). -/
def joinBatches (s : State) : State :=
  { s with ac := { s.ac with frameAdmits := [],
                             reqs := s.ac.reqs.map fun r => if r.state = .admitted then { r with state := .active } else r } }

/-- BE credits (R166). -/
def replenish (s : State) : State :=
  let add := fun (q : Queue) => { q with credit := min (q.credit + q.weight * 1024) (q.weight * 16384) }
  { s with qu := { s.qu with qs := s.qu.qs.map fun p => if p.1 < 1024 && p.2.live then (p.1, add p.2) else p } }

/-- What changes at the next tick: redundancy masks, the engines that budgets count, unfenced engines (R442 to R444, R478). -/
def applyMasks (s : State) : State :=
  let out := (List.range 320).filter fun e => s.fc.fenced.getLsbD e || (engine s e).state == .inReset
  let back := fun (p : Nat × Engine) =>
    if p.2.state = .fenced && !s.fc.fenced.getLsbD p.1 then (p.1, { p.2 with state := .idle }) else p
  { s with fc := { s.fc with redNow := s.fc.redMask }, ac := { s.ac with budgetFenced := bitsOf 320 out },
           lre := { s.lre with engines := s.lre.engines.map back } }

/-- Export tables that were loaded come into force, and the references of those before them are dropped (R406). -/
def swapExports (s : State) : State :=
  s.nu.vfs.foldl (fun s p =>
    match p.2.nextExports with
    | none => s
    | some es =>
      let s := dropRefs p.1 (objsOf (p.2.exports.flatMap fun e => e.xlats)) s
      { s with nu := { s.nu with vfs := tmod {} s.nu.vfs p.1 fun v => { v with exports := es, nextExports := none } } }) s

/-- The header of a chip-level message (R395). -/
def chipHead (s : State) (c version : Nat) : FoaHead :=
  { version := version, rsv := false, srcChip := s.nu.chipId, dstChip := c, srcPart := 0, dstPart := 0, roleEpoch := 0,
    srcEpoch := 0, jobId := 0, jobGen := 0 }

/-- A chip-level message to a peer; none leaves a halted device (R68). -/
def sendChip (c version : Nat) (m : FoaMsg) (s : State) : State :=
  if s.cu.halted then s
  else foaSend c (chipHead s c version) m s

/-- One HEARTBEAT to each UP peer, one HELLO to each NEGOTIATING one (R391, R393). -/
def beat (s : State) : State :=
  if !s.nu.enable then s
  else s.nu.peers.foldl (fun s p =>
    match p.2.state with
    | .up => sendChip p.1 p.2.version (.heartbeat s.tb.tick s.bnd.ready s.tb.locked) s
    | .negotiating => sendChip p.1 1 (.hello 1 1) s
    | _ => s) s

/-- A hand report page as the device shows it (R533); without a hand its record and counters are zero (R535). -/
def pageNow (s : State) (n : Nat) (p : HrPage) : HrPage :=
  let img := s.ps.active
  let live := { p.live with framesUsed := satAdd 64 p.live.framesUsed (b2n p.usedNow) }
  let live := if hasHand img n then live else {}
  { p with live := live, usedNow := false, shown := live, flags := hrFlags s n, gen := partGen s n,
           update := (p.update + 2) % 2 ^ 32, planId := planId img, dealTick := s.ps.dealTick,
           epoch := tget 0 s.ps.epochs n, planMargin := if s.ps.staged then planMargin img else 1024, snapTick := s.tb.tick,
           fenced := s.fc.fenced &&& hEngines img n, hand := BitVec.ofNat 8192 (handFld img n 0 0 8192) }

/-- Every hand report page is updated, and the snapshots that SIGN asked for are taken (R534, R536). -/
def updatePages (s : State) : State :=
  let hr := (List.range 32).map fun n => (n, pageNow s n (tget {} s.tc.hr n))
  let snap := fun (p : Nat × VfTc) =>
    if p.2.busy && p.2.snap.isNone then (p.1, { p.2 with snap := some (tget {} hr p.1) }) else p
  { s with tc := { s.tc with hr := hr, vfs := s.tc.vfs.map snap } }

/-- The frame advances: what entered a hand in the frame before is no longer new (R127). -/
def nextFrame (s : State) : State :=
  { s with tb := { s.tb with now := nextTick s.tb, tick := (s.tb.tick + 1) % 2 ^ 48, slot := 0 },
           ps := { s.ps with newTiles := 0, newEngines := 0, newParts := 0, newShares := [] } }

/-- The plan's part of a tick: a deal, and the margin that follows. -/
def planTick (overdraw : Bool) (s : State) : State :=
  let due := s.ps.armed
  let s := emptyClock (armedDeal s)
  let dealt := due && s.ps.dealTick == s.tb.tick
  marginLow dealt overdraw (publishMargin dealt s)

/-- TICK (R53): slot 15 ends, the frame's work is done and slot 0 of the next frame starts. The first tick of a start ends
stage TIME. A tick waits for a commit in progress (R66). -/
def tickSt (h : HealthIn) (s : State) : State :=
  if !s.bnd.powered || !s.tb.running || s.cu.open_.isSome || (s.bnd.ready && s.tb.slot ≠ 15) then s
  else
    let s := countCorrected h.corrected (frameHealth h (if s.bnd.ready then endSlot s else s))
    let s := releaseTrick (nextFrame s)
    let s := if s.bnd.ready then s else firstTick s
    let s := joinBatches (planTick h.overdraw s)
    let s := updatePages (beat (swapExports (applyMasks (replenish s))))
    let s := startSlot s
    if s.bnd.resetAtTick then
      askChipReset { cause := .mctp, dump := true } { s with bnd := { s.bnd with resetAtTick := false } }
    else s

/-- TICK. -/
def execTick (health : HealthIn) (s : State) : Host.Outcome State Fault Refusal := .next (settle (tickSt health s))

/-- Steps that waited for a tile are dispatched (R21, R166). -/
def startWaiting (s : State) : State :=
  (hands s.ps.active).foldl (fun s n => if s.rc.inReset.getLsbD n then s else fillBe n (startDue n s)) s

/-- FABRIC_PRESENT_RISE: 2 µs after a deal, with the new DOMAIN_GEN (R23, R126); what waited for those tiles starts (R21). -/
def riseSt (s : State) : State :=
  if !s.bnd.powered then s
  else
    let s := fabricRise (bitList s.bnd.rising) s
    if live s && !s.cu.halted then startWaiting s else s

/-- FABRIC_PRESENT_RISE. -/
def execFabricPresentRise (s : State) : Host.Outcome State Fault Refusal := .next (settle (riseSt s))

end Sys2Proof.Machine
end

