-- ==== Sys2Proof/Machine/Protect.lean ====
section
/-!
DEFINITION. Memory protection as it runs: sweeps, scrubs, walks of key IDs, reads that return and verify, the end of a fault
state (R65, R68, R128, R290, R294 to R299, R302 to R309, R432 to R435).
-/
namespace Sys2Proof.Machine
open Sys2Proof

/-! ### Scrubs, way sweeps and walks (R128, R306, R307) -/

/-- SCRUB_END: the PC is zero under its new generation and ready in the stock (R116, R306, R138). -/
def scrubEndSt (p : Nat) (s : State) : State :=
  match (pcState s p).sweep with
  | some w =>
    if w.kind ≠ .scrub || !live s then s
    else
      let s := clearPc p w.target s
      { s with mi := { s.mi with scrubs := satAdd 32 s.mi.scrubs 1 },
               ps := { s.ps with pendPcs := setBit s.ps.pendPcs p false } }
  | none => s

/-- SCRUB_END. -/
def execScrubEnd (pc : Nat) (s : State) : Host.Outcome State Fault Refusal := .next (settle (scrubEndSt pc s))

/-- WAY_SWEEP_END: the way is ready in the stock (R116, R138). -/
def waySweepSt (slice way : Nat) (s : State) : State :=
  if live s && slice < 40 && way < 32 then
    { s with ps := { s.ps with pendWays := setBit s.ps.pendWays (32 * slice + way) false } }
  else s

/-- WAY_SWEEP_END. -/
def execWaySweepEnd (slice way : Nat) (s : State) : Host.Outcome State Fault Refusal :=
  .next (settle (waySweepSt slice way s))

/-- The walk of a key ID ends: its lines have left the LLC, the key ID is FLUSHED and its command completes (R307, R309). -/
def endFlush (s : State) (k : Nat) : State :=
  if (keyRec s k).state ≠ .flushing || (keyLines s k).any (fun i => (llc s i).trans.isSome) then s
  else
    let s := (keyLines s k).foldl (fun s i => dropLine i s) s
    let c := tfind s.mi.flushCmd k
    endCmd c { st := .ok } (setKey k .flushed { s with mi := { s.mi with flushCmd := tdel s.mi.flushCmd k } })

/-- FLUSH_WALK_END. -/
def execFlushWalkEnd (s : State) : Host.Outcome State Fault Refusal :=
  .next (settle (if live s then (s.mi.keys.map fun p => p.1).foldl endFlush s else s))

/-! ### A block returns from memory (R290, R294, R296, R435) -/

/-- The DPA of a line of the hand that holds its PC, under the key ID its granule records (R317, R319). -/
def lineDpa (s : State) (n k : Nat) : Nat :=
  let pcs := pcList s.ps.active n
  let loc := 64 * lineNo k
  let l := (loc / 2048 * pcs.length + pcs.idxOf (linePc k)) * 2048 + loc % 2048
  dpaOf (pcs.getD (l / 0x3C000000) 0 * 2 ^ 30 + l % 0x3C000000)
    (granuleKey (cblock s (linePc k) (groupOf (lineNo k))) (lineNo k))

/-- The DPA of a block's first line; 0 where no hand holds its PC (log 133). -/
def blockDpa (s : State) (pc block : Nat) : Nat :=
  match pcOwner s.ps.active pc with
  | some n => lineDpa s n (lineKey pc (4 * block))
  | none => 0

/-- A line's data comes into its place in the LLC (R290); `bad` tells that it reads poisoned. -/
def fillLine (k : Nat) (bad : Bool) (s : State) : State :=
  let (d, p) := readMem s k
  setLlc k { llc s k with hstate := .l, data := if bad then 0 else d, poison := bad || p } s

/-- A line of the block that is not resident is installed clean in L, in a way that takes no write-back, or discarded (R290). -/
def install (n way : Nat) (bad : Bool) (s : State) (k : Nat) : State :=
  let l := llc s k
  let claimed := granuleKey (cblock s (linePc k) (groupOf (lineNo k))) (lineNo k) ≠ 0
  if l.hstate ≠ .i || l.trans.isSome || !l.wait.isEmpty || !claimed then s
  else
    match fillWay s n k way with
    | none => s
    | some w =>
      let dpa := lineDpa s n k
      fillLine k bad (place k dpa w s)

/-- The data of a line that waits in F has come, `bad` telling that it reads poisoned: its transaction finishes (R259). A
resident line, which waited for verification alone, is served again. -/
def finishFetch (k : Nat) (bad : Bool) (s : State) : State :=
  let l := llc s k
  match l.trans with
  | some t =>
    if t.kind ≠ .f then s
    else if l.hstate ≠ .i then drainAll k (begin_ k t.item (setLlc k { l with trans := none } s))
    else
      let (d, p) := readMem s k
      let s := setLlc k { l with data := if bad then 0 else d, poison := bad || p } s
      drainAll k (finishItem k t.item .f none s)
  | none => s

/-- The four lines of a block (R282). -/
def blockLines (pc block : Nat) : List Nat := (List.range 4).map fun j => lineKey pc (4 * block + j)

/-- A line waits for the block's data. -/
def awaits (s : State) (k : Nat) : Bool := (llc s k).trans.any fun t => t.kind == .f

/-- A step takes the read into account: what it reads is not yet verified (R65), poisoned data marks it (R67). -/
def stepRead (pc block : Nat) (bad : Bool) (dpa : Nat) (t : Step) : Step :=
  { t with unverified := t.unverified ++ [(pc, block)], poisoned := t.poisoned || bad,
           poisonDpa := if bad && !t.poisoned then dpa else t.poisonDpa }

/-- A debug read of a line of the block waits (R299). -/
def debugWaits (s : State) (pc block : Nat) : Bool :=
  s.mi.debugs.any fun d => linePc d.key == pc && lineNo d.key / 4 == block

/-- The Integrity Unit reads the block for itself (R291, R301). -/
def ownReads (s : State) (pc block : Nat) : Bool := s.mi.reads.any fun r => r.own && r.pc == pc && r.block == block

/-- The read serves a step of the partition that holds the PC; or a line that waits at its home, or a debug read. -/
def readServes (s : State) (pc block : Nat) (step : Option Nat) : Bool :=
  match step with
  | some id => (findStep s id).any fun t => t.phase == .running && pcOwner s.ps.active pc == some t.part
  | none => (blockLines pc block).any (awaits s) || debugWaits s pc block

/-- Lines rewritten as poisoned lines with fresh tags (R284, R296). -/
def poisonLines (p first count : Nat) (s : State) : State :=
  (List.range count).foldl (fun s i =>
    let line := first + i
    let b := cblock s p (groupOf line)
    putLine (lineKey p line) 0 (setBlock p (groupOf line) (setMinor b (line % 64) 0x7F) s)) s

/-- A read's data for whom it serves: it is not yet verified, what waits for it goes on, and the other lines of the block go into the
LLC (R259, R290). -/
def deliver (pc block : Nat) (step : Option Nat) (bad : Bool) (dpa way : Nat) (s : State) : State :=
  let n := (pcOwner s.ps.active pc).getD 32
  let s := { s with mi := { s.mi with reads := s.mi.reads ++ [{ pc := pc, block := block, poisoned := bad, step := step }] } }
  let s := match step with
    | some id => modStep id (stepRead pc block bad dpa) s
    | none => s
  let ks := blockLines pc block
  let s := ks.foldl (fun s k =>
    if (llc s k).trans.any (fun t => t.kind == .f && !mustVerify t.item) then finishFetch k bad s else s) s
  ks.foldl (install n way bad) s

/-- A block that the Integrity Unit reads for itself has an uncorrectable line: its four lines are rewritten as poisoned lines, and
no check is made of it (R296; log 134). -/
def poisonOwn (pc block : Nat) (s : State) : State :=
  let isIt := fun (r : ReadTx) => r.own && r.pc == pc && r.block == block
  poisonLines pc (4 * block) 4
    { s with mi := { s.mi with reads := s.mi.reads.map fun r => if isIt r then { r with poisoned := true } else r } }

/-- The steps that a block's data feeds: the one that the read is for, and those that a line of the block waits for (R439). -/
def fedSteps (s : State) (pc block : Nat) (step : Option Nat) : List Nat :=
  match step with
  | some id => [id]
  | none => uniq ((blockLines pc block).filterMap fun k => (llc s k).trans.bind fun t =>
      if t.kind = .f then t.item.step else none)

/-- The parity of a block's data as it reaches its slice, `errs` times damaged in a row (R439): a step that it feeds is killed, and the
data is fetched again; what serves no step comes once more, then poisoned. The answers: no data this time, poisoned data. -/
def blockParity (pc block : Nat) (step : Option Nat) (errs : Nat) (s : State) : Bool × Bool × State :=
  let u := sliceUnit (sliceOf pc)
  match fedSteps s pc block step with
  | [] =>
    let (bad, s) := transfer u (pcOwner s.ps.active pc) errs s
    (false, bad, s)
  | l =>
    let (hit, s) := l.foldl (fun (acc : Bool × State) id =>
      let (hit, s) := stepParity u id (1 ≤ errs) acc.2
      (acc.1 || hit, s)) (false, s)
    (hit, false, s)

/-- MEMORY_DATA_RETURN: an uncorrectable line poisons all four and makes a record of kind MEM_UE (R296). -/
def dataReturnSt (pc block : Nat) (step : Option Nat) (unc : BitVec 4) (way parity : Nat) (s : State) : State :=
  let serves := readServes s pc block step
  let own := step.isNone && ownReads s pc block
  if !live s || !(serves || own) then s
  else
    match blockParity pc block step parity s with
    | (true, _, s) => s
    | (false, lost, s) =>
    let owner := pcOwner s.ps.active pc
    let u := sliceUnit (sliceOf pc)
    let (inj, s) := injected 0 u owner s
    let bad := inj || unc != 0
    let dpa := blockDpa s pc block
    let s := if bad then report { source := u, kind := 0x10, address := memLoc pc (256 * block), detail := dpa, part := owner,
                                  injected := inj } s
      else s
    let s := if own && unc != 0 then poisonOwn pc block s else s
    if serves then deliver pc block step (bad || lost) dpa way s else s

/-- MEMORY_DATA_RETURN. -/
def execMemoryDataReturn (pc block : Nat) (step : Option Nat) (uncorrectable : BitVec 4) (way parity : Nat) (s : State) :
    Host.Outcome State Fault Refusal := .next (settle (dataReturnSt pc block step uncorrectable way parity s))

/-! ### Verification (R65, R68, R296 to R299, R303) -/

/-- What the reads of a block gave its requesters turns out to be poisoned (R296, R435). -/
def poisonRead (pc block dpa : Nat) (s : State) : State :=
  let isIt := fun (r : ReadTx) => r.pc == pc && r.block == block
  let mark := fun (t : Step) =>
    if t.unverified.contains (pc, block) then
      { t with poisoned := true, poisonDpa := if t.poisoned then t.poisonDpa else dpa }
    else t
  let s := { s with steps := s.steps.map mark }
  let s := (blockLines pc block).foldl (fun s k =>
    let l := llc s k
    if l.hstate = .l && !l.dirty && l.trans.isNone then setLlc k { l with data := 0, poison := true } s else s) s
  { s with mi := { s.mi with reads := s.mi.reads.map fun r => if isIt r then { r with poisoned := true } else r } }

/-- A debug read is answered with its line; a read of a poisoned one says so (R263, R299). -/
def endDebug (bad : Bool) (s : State) (d : DebugRead) : State :=
  let (v, p) := rawView s d.key
  emit (.debug (if bad || p then .poison else .ok) (lineBytes (if bad then 0 else v))) s

/-- The reads of a block are verified, or known to be poisoned: steps, waiting accesses and debug reads go on (R65, R299). -/
def endReads (pc block : Nat) (s : State) : State :=
  let isIt := fun (r : ReadTx) => r.pc == pc && r.block == block
  let mine := fun (d : DebugRead) => linePc d.key == pc && lineNo d.key / 4 == block
  let bad := s.mi.reads.any fun r => isIt r && !r.own && r.poisoned
  let served := s.mi.reads.any fun r => isIt r && !r.own
  let ds := if served then s.mi.debugs.filter mine else []
  let s := { s with mi := { s.mi with reads := s.mi.reads.filter (fun r => !isIt r),
                                      debugs := if served then s.mi.debugs.filter (fun d => !mine d) else s.mi.debugs },
                    cu := { s.cu with blocks := s.cu.blocks.filter fun b => b.2.2 ≠ (pc, block) },
                    steps := s.steps.map fun t => { t with unverified := t.unverified.filter fun b => b ≠ (pc, block) } }
  let s := ds.foldl (endDebug bad) s
  if served then (blockLines pc block).foldl (fun s k => finishFetch k bad s) s else s

/-- Groups of the data area of a PC (R282). -/
def groupCount : Nat := 245760

/-- Where the node of a level above a group lies in its PC (R282, R287); level 0 is the counter block. -/
def nodeLoc (level g : Nat) : Nat :=
  match level with
  | 0 => 0x3DE00000 + 64 * g
  | 1 => 0x3ED00000 + 64 * (g / 8)
  | 2 => 0x3ED00000 + 0x1E0000 + 64 * (g / 64)
  | 3 => 0x3ED00000 + 0x21C000 + 64 * (g / 512)
  | 4 => 0x3ED00000 + 0x223800 + 64 * (g / 4096)
  | _ => 0x3ED00000 + 0x224700 + 64 * (g / 32768)

/-- The memory location of the mirror of a tree node of `pc`: in its partner's mirror area (R282, R288). -/
def mirrorLoc (pc level g : Nat) : Nat := memLoc (partner pc) (nodeLoc level g + 0x300000)

/-- The groups that a lost counter block or tree node covers (R287, R297). -/
def coveredGroups (level g : Nat) : List Nat :=
  let w := 8 ^ min level 5
  ((List.range w).map fun i => g / w * w + i).filter fun i => i < groupCount

/-- A report of a slice about a place in a PC. -/
def sliceFault (pc kind addr detail : Nat) (inj : Bool) (s : State) : FMsg :=
  { source := sliceUnit (sliceOf pc), kind := kind, address := memLoc pc addr, detail := detail, part := pcOwner s.ps.active pc,
    injected := inj }

/-- The device halts on a check of memory, and its retention SRAM is marked invalid (R68, R298, R427). -/
def memoryHalt (m : FMsg) (s : State) : State :=
  let s := haltDevice (report m s)
  { s with bnd := { s.bnd with retentionValid := false } }

/-- Metadata is lost: every line it covers is poisoned and the PC re-keyed; the device does not halt (R297). -/
def loseTree (pc g level : Nat) (s : State) : State :=
  let gs := coveredGroups level g
  let s := report (sliceFault pc 0x14 (nodeLoc level g) gs.length false s) s
  let s := { s with mi := { s.mi with treeLostBit := true, treeLost := satAdd 32 s.mi.treeLost 1 } }
  startRekey pc [] gs s

/-- What a check leaves of what was read. -/
inductive Checked where
  | good | poison | lost | halted
  deriving DecidableEq, Repr

/-- A result that the check of a block can give: an entry that is resident is trusted and not read (R289), and a GEN read is strange
only where no generation in use is (R303). -/
def credible (s : State) (pc block : Nat) (r : VerifyResult) : Bool :=
  let g := groupOf (4 * block)
  let path := checkPath s pc g
  let st := pcState s pc
  match r with
  | .agree | .mismatch none => true
  | .mismatch (some l) | .metadataLost l => path.contains l
  | .treeRepaired l => l ≠ 0 && path.contains l
  | .macLost => !resident s (macEntry pc block)
  | .badGen gen => path.contains 0 && gen ≠ st.gen && !st.sweep.any fun w => w.kind == .rekey && w.target == gen

/-- What the check of a block finds and does (R296 to R298, R303). A node whose own copy is uncorrectable is taken from its mirror
and rewritten; without a mirror it is lost (R288). -/
def judge (pc block : Nat) (r : VerifyResult) (s : State) : Checked × State :=
  let g := groupOf (4 * block)
  match if credible s pc block r then r else .agree with
  | .agree => (.good, fillPath pc block s)
  | .mismatch none => (.halted, memoryHalt (sliceFault pc 0x12 (256 * block) (blockDpa s pc block) false s) s)
  | .mismatch (some l) => (.halted, memoryHalt (sliceFault pc 0x12 (nodeLoc l g) 0 false s) s)
  | .metadataLost l => (.lost, loseTree pc g l s)
  | .treeRepaired l =>
    if mirrored s pc then
      let s := repairNode pc l (g / 8 ^ l) { s with mi := { s.mi with treeRepairs := satAdd 32 s.mi.treeRepairs 1 } }
      (.good, fillPath pc block (report (sliceFault pc 0x13 (nodeLoc l g) l false s) s))
    else (.lost, loseTree pc g l s)
  | .macLost =>
    let line := block / 8 * 32
    let s := report (sliceFault pc 0x11 (0x3C000000 + 64 * (line / 32)) 0 false s) (poisonLines pc line 32 s)
    (.poison, fillPath pc block s)
  | .badGen gen => (.halted, memoryHalt (sliceFault pc 0x15 (nodeLoc 0 g) gen false s) s)

/-- An injected MAC mismatch, or one of the tree where a node is checked: a record, and the read is poisoned; nothing halts (R434,
R435). -/
def injectedCheck (pc block : Nat) (s : State) : Bool × State :=
  let u := sliceUnit (sliceOf pc)
  let owner := pcOwner s.ps.active pc
  let g := groupOf (4 * block)
  let (mac, s) := injected 1 u owner s
  let s := if mac then report (sliceFault pc 0x12 (256 * block) (blockDpa s pc block) true s) s else s
  let (tree, s) := if checkPath s pc g = [] then (false, s) else injected 2 u owner s
  let s := if tree then report (sliceFault pc 0x12 (nodeLoc 0 g) 0 true s) s else s
  (mac || tree, s)

/-- VERIFICATION_DONE. A block with an uncorrectable line has no check made (R296). -/
def verifySt (pc block : Nat) (result : VerifyResult) (s : State) : State :=
  let mine := s.mi.reads.filter fun r => r.pc == pc && r.block == block
  if !live s || mine = [] then s
  else if mine.all fun r => r.poisoned then endReads pc block s
  else
    let dpa := blockDpa s pc block
    let (bad, s) := injectedCheck pc block s
    if bad then endReads pc block (poisonRead pc block dpa s)
    else
      match judge pc block result s with
      | (.good, s) => endReads pc block s
      | (.poison, s) | (.lost, s) => endReads pc block (poisonRead pc block dpa s)
      | (.halted, s) => s

/-- VERIFICATION_DONE. -/
def execVerificationDone (pc block : Nat) (result : VerifyResult) (s : State) : Host.Outcome State Fault Refusal :=
  .next (settle (verifySt pc block result s))

/-! ### Sweeps (R302, R304, R309) -/

/-- A visit reads a block of its group: an uncorrectable line poisons its four lines, which are rewritten so (R296, R302); an
injected failure is only reported (R435; log 133). -/
def visitBlock (pc : Nat) (lost : List Nat) (s : State) (block : Nat) : State :=
  let u := sliceUnit (sliceOf pc)
  let owner := pcOwner s.ps.active pc
  let (inj, s) := injected 0 u owner s
  let bad := lost.contains (block % 16)
  if inj || bad then
    let s := report (sliceFault pc 0x10 (256 * block) (blockDpa s pc block) inj s) s
    if bad then poisonLines pc (4 * block) 4 s else s
  else
    let (mac, s) := injected 1 u owner s
    if mac then report (sliceFault pc 0x12 (256 * block) (blockDpa s pc block) true s) s else s

/-- A visit verifies its group (R302 step 4): the blocks it reads, then what the checks find, at block `at_` of the group; a group
that is verified has both its MAC lines resident. -/
def checkVisit (pc g : Nat) (lost : List Nat) (at_ : Nat) (result : VerifyResult) (s : State) : Checked × State :=
  let s := ((List.range 16).map fun j => 16 * g + j).foldl (visitBlock pc lost) s
  match judge pc (16 * g + at_ % 16) result s with
  | (.good, s) => (.good, fillPath pc (16 * g + 8) (fillPath pc (16 * g) s))
  | x => x

/-- A retirement visit: each granule recorded under the key ID is rewritten as zeros and becomes unclaimed (R309). -/
def visitRetire (p g key : Nat) (s : State) : State :=
  [0, 1].foldl (fun s h =>
    let line := 64 * g + 32 * h
    if granuleKey (cblock s p g) line ≠ key then s
    else
      let s := (List.range 32).foldl (fun s i => writeMem (lineKey p (line + i)) 0 false s) s
      setBlock p g (setGranuleKey (cblock s p g) line 0) s) s

/-- The boundary of the running sweep one further. -/
def stepBoundary (p : Nat) (s : State) : State :=
  modPc p (fun x => { x with sweep := x.sweep.map fun w => { w with boundary := w.boundary + 1 } }) s

/-- Groups that already hold the target generation are skipped (R302 step 5), at most `n` of them. -/
def skipDone (p : Nat) : Nat → State → State
  | 0, s => s
  | n + 1, s =>
    match (pcState s p).sweep with
    | none => s
    | some w =>
      if w.boundary < groupCount && (cblock s p w.boundary).gen == w.target then skipDone p n (stepBoundary p s) else s

/-- The group that a re-key visits next: the one that triggered it, then those with lost metadata, then the boundary's (R302). -/
def nextGroup (w : Sweep) : Nat := (w.first ++ w.lost).headD w.boundary

/-- A re-key has nothing left to visit. -/
def rekeyOver (w : Sweep) : Bool := w.first == [] && w.lost == [] && groupCount ≤ w.boundary

/-- A re-key's visit: the group is verified and takes the new generation; one that has to be rebuilt is not read, and one whose metadata
turns out lost is left to the re-key that its loss needs (R297, R302, R304). The last visit ends the sweep. -/
def rekeyVisit (p : Nat) (w : Sweep) (lost : List Nat) (at_ : Nat) (result : VerifyResult) (s : State) : State :=
  let g := nextGroup w
  let (c, s) := if w.lost.contains g || groupLost s p g then (.good, s) else checkVisit p g lost at_ result s
  if c = .halted then s
  else
    let s := visitRekey p g w s
    let s := if w.first ++ w.lost = [] then stepBoundary p s else s
    let s := skipDone p (s.mi.counters.length + 1) s
    if (pcState s p).sweep.any rekeyOver then nextSweep p (endRekey p w.target s) else s

/-- The pass of a retirement ends in a PC: its present-key bit clears (R309). -/
def endPass (p key : Nat) (s : State) : State :=
  nextSweep p (modPc p (fun x => { x with present := setBit x.present key false, sweep := none }) s)

/-- A retirement pass visits the boundary's group, whose counter block it reads (R309). -/
def retireVisit (p key : Nat) (w : Sweep) (at_ : Nat) (result : VerifyResult) (s : State) : State :=
  let (c, s) := if groupLost s p w.boundary then (.good, s) else judge p (16 * w.boundary + at_ % 16) result s
  if c = .halted then s
  else
    let s := stepBoundary p (visitRetire p w.boundary key s)
    if w.boundary + 1 < groupCount then s else endPass p key s

/-- One visit of the running sweep of a PC (R302, R309). -/
def visitSt (p : Nat) (lost : List Nat) (at_ : Nat) (result : VerifyResult) (s : State) : State :=
  match (pcState s p).sweep with
  | none => s
  | some w =>
    match w.kind with
    | .rekey => rekeyVisit p w lost at_ result s
    | .retire key => retireVisit p key w at_ result s
    | .scrub | .cold => s

/-- SWEEP_VISIT: `uncorrectable` names the blocks of the group that read so, `result` what the checks find at one of its blocks. -/
def execSweepVisit (v : Visit) (s : State) : Host.Outcome State Fault Refusal :=
  .next (settle (if live s then visitSt v.pc v.uncorrectable v.block v.result s else s))

/-! ### The fault state (R432, R433) -/

/-- FAULT_STATE_EXIT: a source that has made no FAULT record for QUIET_S leaves the fault state; a halted device leaves
none. -/
def faultExitSt (u : Nat) (s : State) : State :=
  let r := tget {} s.fc.src u
  if !s.bnd.powered || !s.tb.running || s.cu.halted || !r.inFault || s.tb.now < r.lastNs + s.fc.quietS * 10 ^ 9 then s
  else
    let r := { r with inFault := false, pendF := false, pendU := false, pendC := false, stepF := 0, stepU := 0, stepC := 0 }
    { s with fc := { s.fc with src := tput s.fc.src u r, recoveries := satAdd 32 s.fc.recoveries 1 } }

/-- FAULT_STATE_EXIT. -/
def execFaultStateExit (unit : Nat) (s : State) : Host.Outcome State Fault Refusal := .next (settle (faultExitSt unit s))

end Sys2Proof.Machine
end

