-- ==== Sys2Proof/Machine/Shares.lean ====
section
/-!
DEFINITION. ENGINE_SHARE_COMPLETE: the end of an engine's share of a step, residue failures, re-runs and fencing (R69, R166,
R188, R189, R216, R435, R439 to R441, R470).
-/
namespace Sys2Proof.Machine
open Sys2Proof

/-! ### Residue checks (R188, R434) -/

/-- The check point that an engine meets first in a step (R188): the product where elements are products of scales or of
weights, the add otherwise; none where an LRE_UPDATE adds nothing. -/
def firstPoint (s : State) (t : Step) : Option Nat :=
  let c := poolCmd t.raw
  let pool := fun (op fmt : Nat) => if op = 2 ∨ fmt = 0x0F ∨ fmt = 0x10 then some 0 else some 2
  match t.opcode with
  | 0x42 => some 0
  | 0x43 =>
    let win : Window := { base := dfld t.raw 0x20 0 57, size := dfld t.raw 0x28 0 32 }
    let adds := (List.range (dfld t.raw 0x2C 0 32)).any fun j =>
      fld (leNat (rdWin s t.part t.xlats win (dfld t.raw 0x38 0 32 + 16 * j) 16 {}).1) 64 8 == 1
    if adds then some 2 else none
  | _ =>
    match t.gather with
    | some (_, b) => pool b.op (((exportOf s t.part b.exportNo).map fun e => e.fmt).getD 0)
    | none => pool c.op c.inFmt

/-- The residue failure of a share, if it has one: its check point, and whether it was injected (R434, R435). -/
def shareFail (s : State) (t : Step) (e : Nat) (residue : Option Nat) : Option (Nat × Bool) × State :=
  match firstPoint s t with
  | none => (residue.map fun p => (p, false), s)
  | some p =>
    let (a, s) := injected 5 (engineUnit e) (some t.part) s
    let (b, s) := if a then (false, s) else injected 6 (engineUnit e) (some t.part) s
    if a || b then (some (p, true), s) else (residue.map fun p => (p, false), s)

/-! ### Re-runs (R440) -/

/-- Where the share of engine `e` moves once it has failed: to another engine of the hand in the same slice, the one with the
least placed LC time; nowhere where there is none, or the step is a judge run. -/
def moveTarget (s : State) (t : Step) (e : Nat) : Option Nat :=
  if t.judge || !t.units.contains (engineUnit e) then none
  else
    (leastBy (fun x => placedTime s (engineUnit x)) ((enginesIn s.ps.active t.part (e / 8)).filter fun x =>
      x ≠ e && engineUp s x)).map engineUnit

/-- A list of units in which `x` takes the place of `u`. -/
def swapUnit (u : Nat) (x : Option Nat) (us : List Nat) : List Nat :=
  match x with
  | none => us
  | some x =>
    let rest := us.filter fun v => v ≠ u
    if rest.contains x then rest else rest ++ [x]

/-- The run of a redundant step that a unit works for now is B (R445): of one alone in its slice, once its run A is done. -/
def inRunB (t : Step) (u : Nat) : Bool := t.runB.contains u || (t.redundant && (aloneUnits t.units).contains u && !t.second.contains u)

/-- A step as it starts again on its units `us`, unit `u` having failed and `x` having taken its share over (R440): of a redundant
step only the run that failed (R446); an engine that now has shares of both runs has two to do. -/
def rerunOn (u : Nat) (x : Option Nat) (us : List Nat) (t : Step) : Step :=
  let alone := aloneUnits t.units
  let b := inRunB t u
  let others := if t.redundant then t.units.filter fun v => t.runB.contains v != b && !alone.contains v else []
  let taken := others.filter fun v => x == some v
  let pending := if b then t.second else alone.filter fun v => !t.unitsDone.contains v
  { t with units := us, unitsDone := t.unitsDone.filter fun v => others.contains v && !taken.contains v,
           second := if t.redundant then pending ++ taken.filter (fun v => !t.unitsDone.contains v) else [],
           runB := if t.runB.contains u && taken = [] then swapUnit u x t.runB else t.runB.filter (fun v => us.contains v) }

/-- A running step starts again from its beginning without engine `e` (R440). -/
def restart (e id : Nat) (s : State) : State :=
  match findStep s id with
  | none => s
  | some t =>
    let x := moveTarget s t e
    let us := swapUnit (engineUnit e) x t.units
    let fresh := fun (t : Step) => { t with waitTags := [], bags := [], log := [], fail := none, poisoned := false, poisonDpa := 0,
                                            range := false, skipped := false, asked := [], got := [], awaiting := false }
    let s := modStep id (fun t => fresh (rerunOn (engineUnit e) x us t)) s
    let s := { s with nu := { s.nu with out := s.nu.out.filter fun o => !(o.body.isSome && o.step == id),
                                        merged := s.nu.merged.filter fun m => m.1 ≠ id } }
    let s := touchAll (t.units ++ us) s
    if t.opcode = 0x47 then readsNow id s else s

/-- An engine is fenced: the shares in flight on it run elsewhere (R441). -/
def fenceShares (e detail : Nat) (s : State) : State :=
  let s := fenceEngine e detail s
  let l := s.steps.filter fun t => t.phase == .running && t.units.contains (engineUnit e) && !t.unitsDone.contains (engineUnit e)
  l.foldl (fun s t => restart e t.id s) s

/-! ### A failure (R189, R440, R441) -/

/-- The failure counts for its engine and its hand; a third one within 1,024 frames fences the engine (R441). -/
def countFail (e : Nat) (inj : Bool) (s : State) : State :=
  let s := modEngine e (fun x => { x with fails := satAdd 32 x.fails 1,
                                          failTicks := if inj then x.failTicks else s.tb.tick :: x.failTicks }) s
  match engineOwner s.ps.active e with
  | some n => modHr n (fun h => { h with residueFails := satAdd 32 h.residueFails 1 }) s
  | none => s

/-- Ticks of an engine's failures that may fence it now. -/
def recentFails (s : State) (e : Nat) : List Nat := (engine s e).failTicks.filter fun f => s.tb.tick < f + 1024

/-- A share fails a residue check. -/
def residueFail (t : Step) (e point : Nat) (inj : Bool) (s : State) : State :=
  let s := countFail e inj s
  let s := report { source := engineUnit e, kind := 0x01, detail := point, part := some t.part, ctx := t.ctx, queue := t.queue,
                    op := t.opcode, injected := inj } s
  let s := modStep t.id (fun t => { t with residueFails := t.residueFails + 1 }) s
  let recent := recentFails s e
  let s := if inj || recent.length < 3 || s.fc.fenced.getLsbD e then s else fenceShares e ((recent.take 3).getLastD 0) s
  if 2 ≤ t.residueFails then killStep (if t.judge then .silent else .complete .killed) t.id s else restart e t.id s

/-- A unit has done its share; one that runs A and then B still has B to do (R445). -/
def shareDone (u : Nat) (t : Step) : Step :=
  if t.second.contains u then { t with second := t.second.filter fun v => v ≠ u } else { t with unitsDone := t.unitsDone ++ [u] }

/-- ENGINE_SHARE_COMPLETE: `residue` names the check point of a failed residue check, `parity` tells that the data the engine
read was damaged on its way (R439). -/
def shareSt (id e : Nat) (residue : Option Nat) (parity : Bool) (s : State) : State :=
  match findStep s id with
  | none => s
  | some t =>
    let u := engineUnit e
    if !live s || t.phase ≠ .running || !t.units.contains u || t.unitsDone.contains u || e ≥ 320 then s
    else
      match stepParity u id parity s with
      | (true, s) => fillBe t.part s
      | (false, s) =>
      match shareFail s t e residue with
      | (some (p, inj), s) => fillBe t.part (residueFail t e p inj s)
      | (none, s) =>
        let s := touchEngine (modStep id (shareDone u) s) u
        fillBe t.part (tryFinish id s)

/-- A completion of an engine passes only with the engine's present generation; any other is dropped and counted (R469, R470). -/
def fromEngine (e gen : Nat) (k : State → State) (s : State) : State :=
  if !live s then s
  else if (engine s e).gen ≠ gen then { s with rc := { s.rc with staleDrops := satAdd 64 s.rc.staleDrops 1 } }
  else k s

/-- ENGINE_SHARE_COMPLETE. -/
def execEngineShareComplete (step engine : Nat) (share : ShareEnd) (s : State) : Host.Outcome State Fault Refusal :=
  .next (settle (fromEngine engine share.gen (shareSt step engine share.residue share.parity) s))

end Sys2Proof.Machine
end

