-- ==== Sys2Proof/Machine/Tiles.lean ====
section
/-!
DEFINITION. Messages from tiles: requests, write-backs, answers to snoops and stash offers, completions and kill
acknowledgements on the control channel, the snoop timeout (R20 to R24, R242 to R273, R365, R425, R434, R439, R468, R470).
-/
namespace Sys2Proof.Machine
open Sys2Proof

/-! ### Requests (R242, R259) -/

/-- A tile's REQ message (R250). -/
def reqSt (op : Nat) (kind : ItemKind) (m : TileMsg) (s : State) : State :=
  message op m (takeRequest { m := m, kind := kind, step := none, data := 0 }) s

/-- The POISON bit of a message set. -/
def setPoison (m : TileMsg) : TileMsg := { m with head := m.head ||| BitVec.ofNat 128 (2 ^ 80) }

/-- The data of a message passes the Tile Port, `parity` times in a row damaged (R439): an Atom's serves its step, which an error kills; other data that fails
twice is poisoned. -/
def passData (m : TileMsg) (parity : Nat) (step : Option Nat) (k : TileMsg → State → State) (s : State) : State :=
  match step.filter fun id => (findStep s id).any fun t => t.phase == .running with
  | some id =>
    match stepParity (tileUnit m.tile) id (1 ≤ parity) s with
    | (true, s) => s
    | (false, s) => k m s
  | none =>
    match transfer (tileUnit m.tile) (tileOwner s.ps.active m.tile) parity s with
    | (true, s) => k (setPoison m) s
    | (false, s) => k m s

/-- A tile's REQ message that carries data (R250). -/
def dataReqSt (op : Nat) (kind : ItemKind) (m : TileMsg) (step : Option Nat) (data : Line) (parity : Nat) (s : State) :
    State :=
  message op m (passData m parity step fun m => takeRequest { m := m, kind := kind, step := step, data := data }) s

/-- RdS. -/
def execRds (m : TileMsg) (s : State) : Host.Outcome State Fault Refusal := .next (settle (reqSt 0x01 .rds m s))

/-- RdU. -/
def execRdu (m : TileMsg) (s : State) : Host.Outcome State Fault Refusal := .next (settle (reqSt 0x02 .rdu m s))

/-- Upg. -/
def execUpg (m : TileMsg) (s : State) : Host.Outcome State Fault Refusal := .next (settle (reqSt 0x03 .upg m s))

/-- ATOM. -/
def execAtom (m : TileMsg) (data : Line) (step : Option Nat) (parity : Nat) (s : State) : Host.Outcome State Fault Refusal :=
  .next (settle (dataReqSt 0x04 .atom m step data parity s))

/-- WbM. -/
def execWbm (m : TileMsg) (data : Line) (parity : Nat) (s : State) : Host.Outcome State Fault Refusal :=
  .next (settle (dataReqSt 0x05 .wbm m none data parity s))

/-- WbC. -/
def execWbc (m : TileMsg) (data : Line) (parity : Nat) (s : State) : Host.Outcome State Fault Refusal :=
  .next (settle (dataReqSt 0x06 .wbc m none data parity s))

/-! ### Answers (R257, R259) -/

/-- The answer of tile `t` to the snoop of line `k` is in: `data` is what it returned, `kept` tells that it keeps a clean
copy. The transaction finishes with the last answer; the answer makes room for another snoop to the tile (R252). -/
def answered (t k : Nat) (data : Option (Line × Bool)) (kept : Bool) (s : State) : State :=
  let l := llc s k
  match l.trans with
  | none => s
  | some x =>
    let l := match data with
      | some (d, p) => { l with data := d, poison := p, dirty := true }
      | none => l
    let x := { x with await := x.await.filter fun y => y ≠ t, unsent := x.unsent.filter fun y => y ≠ t }
    let s := setLlc k { l with trans := some x } s
    nextSnoop (sliceOf (linePc k)) t
      (if x.await ≠ [] || x.unsent ≠ [] then s else drainAll k (finishItem k x.item x.kind (if kept then some t else none) s))

/-- A tile's answer to a snoop: it must be awaited, carry the snoop's TAG, and fit the transient state, else it is impossible
(R249, R259, R260). -/
def tileAnswer (m : TileMsg) (data : Option (Line × Bool)) (kept : Bool) (s : State) : State :=
  let bad := impossible m.tile m.head s
  match homeOf s m with
  | none => bad
  | some (_, k) =>
    match (llc s k).trans with
    | none => bad
    | some x =>
      if x.await.contains m.tile && x.tag == m.tag && (x.kind == .ss || (x.kind == .si && !kept)) then answered m.tile k data kept s
      else bad

/-- RespI. -/
def execRespI (m : TileMsg) (s : State) : Host.Outcome State Fault Refusal :=
  .next (settle (message 0x21 m (tileAnswer m none false) s))

/-- RespS. -/
def execRespS (m : TileMsg) (s : State) : Host.Outcome State Fault Refusal :=
  .next (settle (message 0x22 m (tileAnswer m none true) s))

/-- RespIData. -/
def execRespIData (m : TileMsg) (data : Line) (parity : Nat) (s : State) : Host.Outcome State Fault Refusal :=
  .next (settle (message 0x23 m (passData m parity none fun m => tileAnswer m (some (data, m.poison)) false) s))

/-- RespSData. -/
def execRespSData (m : TileMsg) (data : Line) (parity : Nat) (s : State) : Host.Outcome State Fault Refusal :=
  .next (settle (message 0x24 m (passData m parity none fun m => tileAnswer m (some (data, m.poison)) true) s))

/-- The stash offer of line `k` is answered (R259, R267). -/
def stashEnd (t k : Nat) (accept : Bool) (s : State) : State :=
  let l := { llc s k with trans := none }
  let s :=
    if accept then drainAll k (setLlc k { l with hstate := .o, presence := BitVec.ofNat 64 (2 ^ t) } s)
    else
      let s := { s with coh := { s.coh with stashDeclines := satAdd 64 s.coh.stashDeclines 1 } }
      drainAll k (setLlc k { l with hstate := .l } s)
  nextSnoop (sliceOf (linePc k)) t s

/-- StashAck. -/
def stashSt (m : TileMsg) (s : State) : State :=
  let bad := impossible m.tile m.head s
  match homeOf s m with
  | none => bad
  | some (_, k) =>
    if (llc s k).trans.any fun x => x.kind == .st && x.await.contains m.tile && x.tag == m.tag then stashEnd m.tile k m.accept s
    else bad

/-- STASHACK: `fields` is the upper half of its header, `addr` its ADDR (R249). -/
def execStashAck (fields addr : BitVec 64) (s : State) : Host.Outcome State Fault Refusal :=
  let m : TileMsg := { head := fields ++ addr }
  .next (settle (message 0x25 m (stashSt m) s))

/-! ### The control channel (R260, R365, R468, R470) -/

/-- A message on the control channel that names a step the tile does not hold (R260), as the header fields it carries. -/
def strangeStep (tile gen : Nat) (s : State) : State :=
  impossible tile (BitVec.ofNat 128 (gen % 2 ^ 8 * 2 ^ 112 + tile % 2 ^ 6 * 2 ^ 106)) s

/-- STEP_COMPLETION: the step has finished with a status; one other than OK keeps it from its commit (R365). One that crosses
a kill has no effect; a second one is impossible (R260). -/
def completionSt (tile gen id : Nat) (st : Status) (s : State) : State :=
  let bad := strangeStep tile gen s
  match findStep s id with
  | none => bad
  | some t =>
    let u := tileUnit tile
    if !t.units.contains u || t.unitsDone.contains u then bad
    else if t.phase = .killed && t.unacked.contains u then modStep id (fun t => { t with unitsDone := u :: t.unitsDone }) s
    else if t.phase ≠ .running then bad
    else
      let f : Option Status := if st = .ok then none else some st
      let s := modStep id (fun t => { t with phase := .finished, unitsDone := t.units, fail := if t.fail.isSome then t.fail else f }) s
      fillBe t.part s

/-- STEP_COMPLETION. -/
def execStepCompletion (tile gen step : Nat) (status : Status) (s : State) : Host.Outcome State Fault Refusal :=
  .next (settle (atPort tile gen (completionSt tile gen step status) s))

/-- A unit's acknowledgement of a kill; the freed unit takes BE work (R166, R468). -/
def killAckSt (unit id : Nat) (s : State) : State :=
  match findStep s id with
  | none => s
  | some t => if t.phase = .killed && t.unacked.contains unit then fillBe t.part (ackKill unit id s) else s

/-- The acknowledgement of a tile: of a kill that waits for it, of a STEP_KILL sent at a commit, or impossible. -/
def tileAckSt (tile gen id : Nat) (s : State) : State :=
  if (findStep s id).any fun t => t.phase == .killed && t.unacked.contains (tileUnit tile) then killAckSt (tileUnit tile) id s
  else if s.coh.owed.contains (tile, id) then
    { s with coh := { s.coh with owed := s.coh.owed.filter fun o => o ≠ (tile, id) } }
  else strangeStep tile gen s

/-- KILL_ACKNOWLEDGEMENT: a tile's passes its Tile Port; an engine's with a stale generation is dropped and counted. -/
def ackSt (unit gen id : Nat) (s : State) : State :=
  match unitTile unit, unitEngine unit with
  | some t, _ => atPort t gen (tileAckSt t gen id) s
  | none, some e => fromEngine e gen (killAckSt unit id) s
  | none, none => if live s then killAckSt unit id s else s

/-- KILL_ACKNOWLEDGEMENT. -/
def execKillAcknowledgement (unit gen step : Nat) (s : State) : Host.Outcome State Fault Refusal :=
  .next (settle (ackSt unit gen step s))

/-! ### The snoop timeout (R269, R270) -/

/-- Lines that await an answer of a tile. -/
def awaitLines (s : State) (t : Nat) : List Nat :=
  (s.coh.lines.filter fun p => p.2.trans.any fun x => x.await.contains t).map fun p => p.1

/-- Lines whose transaction has a snoop or offer for a tile that has not been sent. -/
def unsentLines (s : State) (t : Nat) : List Nat :=
  (s.coh.lines.filter fun p => p.2.trans.any fun x => x.unsent.contains t).map fun p => p.1

/-- A dead tile's answer is synthesised: poisoned data from an owner, nothing from a sharer, a declined stash. -/
def deadAnswer (t k : Nat) (s : State) : State :=
  let l := llc s k
  if l.trans.any fun x => x.kind == .st then stashEnd t k false s
  else if l.hstate = .o && l.presence.getLsbD t then
    answered t k (some (l.data, true)) false
      { s with coh := { s.coh with poisonedLines := satAdd 32 s.coh.poisonedLines 1 } }
  else answered t k none false s

/-- A dispatched step on a tile that still awaits STEP_COMMIT or STEP_KILL (R269). -/
def awaitsVerdict (s : State) (t : Nat) : Bool :=
  s.steps.any fun x => x.units.contains (tileUnit t) && (x.phase == .running || x.phase == .finished)

/-- SNOOP_TIMEOUT: the tile is dead, unless a dispatched step on it awaits its commit or kill, for which the time is not
counted (R269, R270). -/
def snoopTimeoutSt (t : Nat) (s : State) : State :=
  let ls := awaitLines s t
  if !live s || ls = [] || awaitsVerdict s t || s.coh.dead.getLsbD t then s
  else
    let dpa := (llc s (ls.headD 0)).dpa
    let l := ls ++ unsentLines s t
    let s := { s with coh := { s.coh with dead := setBit s.coh.dead t true } }
    let s := l.foldl (fun s k => deadAnswer t k s) s
    report { source := tileUnit t, kind := 0x22, address := dpa, part := tileOwner s.ps.active t } s

/-- SNOOP_TIMEOUT. -/
def execSnoopTimeout (tile : Nat) (s : State) : Host.Outcome State Fault Refusal := .next (settle (snoopTimeoutSt tile s))

end Sys2Proof.Machine
end

