-- ==== Sys2Proof/Machine/HostMemory.lean ====
section
/-!
DEFINITION. Host accesses to partition memory through a virtual function: reads, writes with an optional stash hint, and
PCIe AtomicOps (R215, R261, R263, R266, R295, R299, R310, R439, R525).
-/
namespace Sys2Proof.Machine
open Sys2Proof

/-- The virtual function serves a host request: it is ready, and in a confidential hand only requests on IDE with the T bit
set are served (R33, R525). -/
def hostServed (s : State) (a : HostAccess) : Bool :=
  live s && vfReady s a.part && hasHand s.ps.active a.part && (!hConf s.ps.active a.part || a.tbit)

/-- The translations of a host access under the rights it needs, or the status that refuses it (R310, R324). A host access
waits for no answer: a missing page refuses it. -/
def hostXlat (s : State) (a : HostAccess) (g : Rng) : Except Status (List Xlat) :=
  if isHost g.dva then .error .rights
  else
    match walkRange s a.part a.host g with
    | .ok xs => .ok xs
    | .miss _ _ => .error .translationPending
    | .fail st _ => .error st

/-- One access of the host to line bytes at DPA `dpa`: the key-ID check, then the home; none when refused. -/
def hostLine (a : HostAccess) (dpa : Nat) (i : HomeItem) (s : State) : Bool × State :=
  match homeLine s a.part dpa with
  | none => (false, s)
  | some k =>
    openLine a.part k (dpa / 64 * 64) a.way a.victim { entryLost := a.entryLost, copyLost := a.copyLost }
      { i with off := dpa % 64, host := some a.part } s

/-- The parity of data that the host writes, at the slice of its line (R439). -/
def hostParity (a : HostAccess) (dpa errs : Nat) (s : State) : Bool × State :=
  match homeLine s a.part dpa with
  | none => (false, s)
  | some k => transfer (sliceUnit (sliceOf (linePc k))) (some a.part) errs s

/-! ### Reads -/

/-- A refused read is answered with its status and no data. -/
def refuseRead (n : Nat) (st : Status) (s : State) : State := emit (.hostData n st [] false) s

/-- One line of a host read: answered once verified (R299), refused with RIGHTS by its key ID (R295). -/
def hostReadLine (a : HostAccess) (xs : List Xlat) (s : State) (p : Nat × Nat) : State :=
  match xlatDpa xs p.1 with
  | none => refuseRead a.part .rights s
  | some d =>
    match hostLine a d { kind := .ncRead, len := p.2 } s with
    | (true, s) => s
    | (false, s) => refuseRead a.part .rights s

/-- HOST_MEMORY_READ: each 64-byte line is read as one (R72). A function that does not serve the request answers with all
ones (R31, R33, R525). -/
def hostReadSt (a : HostAccess) (s : State) : State :=
  if !s.bnd.powered then s
  else if !hostServed s a then emit (.hostData a.part .rights (List.replicate a.len 0xFF) false) s
  else
    let g : Rng := { dva := a.dva, size := a.len, r := true }
    let s := if isHost a.dva then s else countWalks a.part a.host [g] s
    match hostXlat s a g with
    | .error st => refuseRead a.part st s
    | .ok xs => (lineParts a.dva a.len).foldl (hostReadLine a xs) s

/-- HOST_MEMORY_READ. -/
def execHostMemoryRead (a : HostAccess) (s : State) : Host.Outcome State Fault Refusal := .next (settle (hostReadSt a s))

/-! ### Writes -/

/-- One line of a host write; a refused one is dropped, as a posted write has no answer. -/
def hostWriteLine (a : HostAccess) (xs : List Xlat) (stash : Option Nat) (s : State) (p : Nat × List Byte) : State :=
  match xlatDpa xs p.1 with
  | none => s
  | some d =>
    let (bad, s) := hostParity a d (if p.1 = a.dva then a.parity else 0) s
    (hostLine a d { kind := .ncWrite, data := p.2, poison := bad, stash := stash } s).2

/-- HOST_MEMORY_WRITE; `stash` is the tile that a processing hint names in its steering tag (R266). -/
def hostWriteSt (a : HostAccess) (data : List Byte) (stash : Option Nat) (s : State) : State :=
  if !hostServed s a then s
  else
    let g : Rng := { dva := a.dva, size := data.length, w := true }
    let s := if isHost a.dva then s else countWalks a.part a.host [g] s
    match hostXlat s a g with
    | .error _ => s
    | .ok xs =>
      (splitLines a.dva data (data.length / 64 + 2)).foldl (hostWriteLine a xs (stash.map fun t => t % 64)) s

/-- HOST_MEMORY_WRITE. -/
def execHostMemoryWrite (a : HostAccess) (data : List Byte) (stash : Option Nat) (s : State) :
    Host.Outcome State Fault Refusal := .next (settle (hostWriteSt a data stash s))

/-! ### AtomicOps (R215, R261) -/

/-- The operation a PCIe AtomicOp maps to: FetchAdd 0 to ADD, Swap 1 to SWAP, CAS 2 to CAS. -/
def pcieOp (kind : Nat) : Nat := if kind = 0 then 0x0 else if kind = 1 then 0x8 else 0x9

/-- A refused AtomicOp. -/
def refuseAtomic (st : Status) (unsupported : Bool) (s : State) : State := emit (.atomicResult st 0 false unsupported) s

/-- PCIE_ATOMICOP: performed by the home with NEAR 0; the 128-bit CAS completes with Unsupported Request, as does every
request that the function does not serve. It returns the old value. -/
def pcieAtomSt (a : HostAccess) (kind : Nat) (wide quad : Bool) (operand compare : Word) (s : State) : State :=
  if !s.bnd.powered then s
  else if !hostServed s a || quad then refuseAtomic .rights true s
  else
    let g : Rng := { dva := a.dva, size := if wide then 8 else 4, a := true }
    let s := if isHost a.dva then s else countWalks a.part a.host [g] s
    match hostXlat s a g with
    | .error st => refuseAtomic st false s
    | .ok xs =>
      match xlatDpa xs a.dva with
      | none => refuseAtomic .rights false s
      | some d =>
        match hostParity a d a.parity s with
        | (true, s) => refuseAtomic .poison false s
        | (false, s) =>
        let op : AtomOp := { code := pcieOp kind, wide := wide, operand := operand, compare := compare, ret := true }
        match hostLine a d { kind := .atom, op := some op } s with
        | (true, s) => s
        | (false, s) => refuseAtomic .rights false s

/-- PCIE_ATOMICOP. -/
def execPcieAtomicOp (a : HostAccess) (kind : Nat) (wide quad : Bool) (operand compare : Word) (s : State) :
    Host.Outcome State Fault Refusal := .next (settle (pcieAtomSt a kind wide quad operand compare s))

end Sys2Proof.Machine
end

