-- ==== Sys2Proof/Machine/Trust.lean ====
section
/-!
DEFINITION. The Trust Core's commands: the debug port, certificates and life-cycle transitions, attestation reports, tenant
sessions, signed copies, SPDM, IDE and TDISP (R503, R504, R513 to R538, R142).
-/
namespace Sys2Proof.Machine
open Sys2Proof

/-! ### The debug port (R263, R299, R310, R517) -/

/-- DEBUG_REQUEST: refused with RIGHTS without its capability. A read returns the 64-byte line of `dpa` without a snoop or an
allocation, once it is verified (R299); a write is a non-caching write. UNIT_STATUS reads the status words of R485 of unit `dpa`, which must serve the partition (R514). What the
other capabilities reach is not in the spec: they are only granted. -/
def debugSt (c : DebugCap) (n dpa : Nat) (data : List Byte) (s : State) : State :=
  let refuse := emit (.debug .rights []) s
  if !s.bnd.powered then s
  else if !debugAllowed s c n then refuse
  else
    match c with
    | .memRead =>
      match homeLine s n dpa with
      | none => refuse
      | some k =>
        let first := keyCheck s (linePc k) (lineNo k) (dpaKey dpa) = .claim && !readsPoison s k
        match access (linePc k) (lineNo k) (dpaKey dpa) s with
        | (false, s) => emit (.debug .rights []) s
        | (true, s) =>
          let d : DebugRead := { key := k, dpa := dpa }
          let there := (llc s k).hstate ≠ .i || first
          if there && !unverified s k then endDebug false s d
          else { s with mi := { s.mi with debugs := s.mi.debugs ++ [d] } }
    | .memWrite =>
      match homeLine s n dpa with
      | none => refuse
      | some k =>
        if keyCheck s (linePc k) (lineNo k) (dpaKey dpa) = .refuse then
          emit (.debug .rights []) (access (linePc k) (lineNo k) (dpaKey dpa) s).2
        else emit (.debug .ok []) (writeLine n dpa (dpa % 64) (data.take (64 - dpa % 64)) false false none s).2
    | .unitStatus =>
      if (partUnits s n).contains dpa then
        let (ws, s) := unitWords n dpa s
        emit (.debug .ok (ws.flatMap fun w => leBytes w 4)) s
      else refuse
    | _ => emit (.debug .ok []) s

/-- DEBUG_REQUEST. -/
def execDebugRequest (cap : DebugCap) (part dpa : Nat) (data : List Byte) (s : State) : Host.Outcome State Fault Refusal :=
  .next (settle (debugSt cap part dpa data s))

/-! ### Certificates (R503, R504, R514 to R516) -/

/-- A register write through the physical function acts only while the block is ready (R31). -/
def certLoadSt (revoke : Bool) (s : State) : State :=
  if !live s then s
  else
    let s := if revoke then { s with tc := { s.tc with cert := none } } else s
    if s.tc.certBusy then s else { s with tc := { s.tc with certBusy := true } }

/-- CERT_LOAD. -/
def execCertLoad (revoke : Bool) (s : State) : Host.Outcome State Fault Refusal := .next (settle (certLoadSt revoke s))

/-- CERT_REVOKE (R516). -/
def execCertRevoke (s : State) : Host.Outcome State Fault Refusal :=
  .next (settle (if live s then { s with tc := { s.tc with cert := none } } else s))

/-- A field of a certificate (R514). -/
def certFld (c : BitVec 2560) (off lo w : Nat) : Nat := fld c.toNat (8 * off + lo) w
/-- Bytes of a certificate. -/
def certBytes (c : BitVec 2560) (off len : Nat) : List Byte := leBytes (certFld c off 0 (8 * len)) len

/-- Every reserved field of a certificate is zero, and TYPE is 1 or 2 (R514, R515). -/
def certShape (c : BitVec 2560) : Bool :=
  let type := certFld c 0 0 8
  let zero := fun (off len : Nat) => certFld c off 0 (8 * len) == 0
  (type == 1 || type == 2) && certFld c 2 2 6 == 0 && certFld c 3 3 5 == 0 && zero 0x04 12 && zero 0x28 8 &&
    certFld c 0x30 64 64 == 0 && certFld c 0x30 39 25 == 0 && zero 0x40 32 && zero 0xC1 31 &&
    (if type = 1 then certFld c 3 0 3 == 0 else certFld c 0x30 0 64 == 0)

/-- A certificate is signed by a live key for this device and this start (R515). -/
def certSigned (s : State) (c : BitVec 2560) : Bool :=
  let k := certFld c 2 0 2
  let key := certBytes c 0x60 97
  !s.tc.otp.dbgRevoked.getLsbD k && s.tc.otp.dbgKey.getD k 0 == Config.sha384 key &&
    Config.ecdsaVerify (BitVec.ofNat 776 (beNat key)) (Config.sha384 (certBytes c 0 0xE0))
      (BitVec.ofNat 768 (beNat (certBytes c 0xE0 96))) &&
    certFld c 0x10 0 128 == s.tc.otp.serial.toNat && certFld c 0x20 0 64 == s.tc.bootCount

/-- The transitions that exist (R503). -/
def transitionTo (now : LcState) (target : Nat) : Option LcState :=
  match now, target with
  | .blank, 1 => some .test
  | .blank, 5 => some .scrap
  | .test, 2 => some .provisioned
  | .test, 5 => some .scrap
  | .provisioned, 3 => some .production
  | .provisioned, 5 => some .scrap
  | .production, 4 => some .return_
  | _, _ => none

/-- The result of a load. -/
def certResult (st : Status) (s : State) : State := { s with tc := { s.tc with certStatus := st } }

/-- The checks of R515 in order; a certificate that passes opens debug rights, or programs the target codeword's added bits,
which the next start decodes (R504). -/
def certTake (cert : CertBytes) (s : State) : State :=
  match cert with
  | none => certResult .timeout s
  | some c =>
    if certFld c 1 0 8 ≠ 1 then certResult .version s
    else if !certShape c then certResult .reservedNonzero s
    else if !certSigned s c then certResult .rights s
    else if certFld c 0 0 8 = 1 then
      certResult .ok { s with tc := { s.tc with cert := some (certFld c 0x30 32 32, certFld c 0x30 0 32) } }
    else
      match transitionTo s.tc.lc (certFld c 3 0 3) with
      | none => certResult .stateConflict s
      | some t =>
        let otp := { s.tc.otp with codeword := s.tc.otp.codeword ||| lcWord t }
        certResult .ok { s with tc := { s.tc with otp := otp } }

/-- CERT_CHECK_DONE: the running load ends. -/
def certDoneSt (cert : CertBytes) (s : State) : State :=
  if !s.bnd.powered || !s.tc.certBusy then s
  else certTake cert { s with tc := { s.tc with certBusy := false } }

/-- CERT_CHECK_DONE. -/
def execCertCheckDone (cert : CertBytes) (s : State) : Host.Outcome State Fault Refusal := .next (settle (certDoneSt cert s))

/-! ### Attestation reports (R521, R522) -/

/-- One measurement block in the SPDM format: index, specification 0x01, size, value type, value size, value (R522). -/
def measBlock (index type : Nat) (value : List Byte) : List Byte :=
  leBytes index 1 ++ leBytes 1 1 ++ leBytes (value.length + 3) 2 ++ leBytes type 1 ++ leBytes value.length 2 ++ value

/-- PLAN_DIGEST of the active plan, zero for the empty plan (R123, R522). -/
def activeDigest (s : State) : Digest := if s.ps.staged then planDigest s.ps.active else 0

/-- The life-cycle block's value (R522). -/
def lcValue (s : State) : List Byte :=
  let open_ := s.tc.lc = .blank || s.tc.lc = .test
  leBytes s.tc.otp.codeword.toNat 4 ++ leBytes (lcCode s.tc.lc) 1 ++ leBytes (b2n open_ + b2n s.tc.cert.isSome * 2) 1 ++
    leBytes 0 2 ++ leBytes s.tc.bootCount 8

/-- A measurement register's value. -/
def measValue (m : Meas) : List Byte := leBytes m.count 4 ++ beBytes m.value.toNat 48

/-- A measurement block by index (R522); an index not in the table has none. -/
def blockAt (s : State) (i : Nat) : List Byte :=
  let n := (i - 0x10) / 3
  if i = 1 then measBlock i 0x85 (lcValue s)
  else if i = 2 then measBlock i 0x00 (beBytes s.tc.romDigest.toNat 48)
  else if i = 3 then measBlock i 0x01 (beBytes s.tc.serviceDigest.toNat 48)
  else if i = 4 then measBlock i 0x01 (beBytes s.tc.microDigest.toNat 48)
  else if i = 5 then measBlock i 0x03 (beBytes (activeDigest s).toNat 48)
  else if i < 0x10 ∨ 0x70 ≤ i then []
  else if (i - 0x10) % 3 = 0 then measBlock i 0x82 (leBytes (handFld s.ps.active n 0 0 8192) 1024)
  else if (i - 0x10) % 3 = 1 then measBlock i 0x81 (measValue (tget {} s.tc.kernels n))
  else measBlock i 0x83 (measValue (tget {} s.tc.tables n))

/-- An attestation report but for its signature (R521). -/
def reportBody (s : State) (n : Nat) (nonce : BitVec 256) : List Byte :=
  let img := s.ps.active
  let blocks := ([1, 2, 3, 4, 5, 0x10 + 3 * n, 0x11 + 3 * n, 0x12 + 3 * n].map (blockAt s)).flatten
  leBytes 1 1 ++ leBytes n 1 ++ leBytes (b2n (hasHand img n) * 2 + b2n (hConf img n)) 1 ++ leBytes 8 1 ++
    leBytes (0x50 + blocks.length + 96) 4 ++ leBytes s.tc.otp.serial.toNat 16 ++ leBytes nonce.toNat 32 ++
    leBytes (s.tb.tick % 2 ^ 48) 8 ++ leBytes (planId img) 8 ++ leBytes (tget 0 s.ps.epochs n) 4 ++ leBytes 1 1 ++ leBytes 0 3 ++
    blocks

/-- A signature by the signing key; its nonce is a free value. -/
def signWith (bs : List Byte) (s : State) : Signature × State :=
  let (r, s) := fresh 64 s
  (Config.ecdsaSign s.tc.signKey (Config.sha384 bs) r, s)

/-- A report of partition `n` as bytes, counted. -/
def makeReport (n : Nat) (nonce : BitVec 256) (s : State) : List Byte × State :=
  let body := reportBody s n nonce
  let (sig, s) := signWith body s
  let s := emit (.report n nonce sig) { s with tc := { s.tc with signed := satAdd 64 s.tc.signed 1 } }
  (body ++ beBytes sig.toNat 96, s)

/-! ### Tenant sessions (R142, R527 to R532) -/

/-- A new session number: one that no session and no half-open agreement has (R142). -/
def sessionFree (s : State) (id : Nat) : Bool :=
  id ≠ 0 && !(s.rie.sessions.any fun x => x.id == id) && !s.tc.half.any fun a => a.session == id

/-- The number the device assigns: a free value, the next free number above it when it is taken. -/
def pickSession (s : State) (r : Nat) : Nat :=
  (((List.range 8300).map fun i => (r + i) % 2 ^ 32).find? (sessionFree s)).getD 0

/-- A session message of a type in a datagram for the session port, as SESSION, the rest of its header's reserved bits and its
body; none where it is no such message: another version or type, or a body that is not LENGTH bytes long or not its type's
(R527; log 120). -/
def sessionMsg (type len : Nat) (bs : List Byte) : Option (Nat × Bool × List Byte) :=
  if wireFld bs 0 1 ≠ 16 + type ∨ wireFld bs 2 2 ≠ len ∨ bs.length ≠ 8 + len then none
  else some (wireFld bs 4 4, wireZero bs 1 1, bs.drop 8)

/-- A datagram for the Trust Core's session port; one to another port, while sessions are disabled, or that is no session message
of the type is dropped and counted at its port (R383, R537; log 120). -/
def sessionRow (m : Datagram) (type len : Nat) (k : Nat → Bool → List Byte → State → State) (s : State) : State :=
  if !live s || !s.tc.enable || m.dst ≠ s.tc.udpPort then dropAt m.port s
  else
    fromPort m.port m.parity none (fun s =>
      match sessionMsg type len m.bytes with
      | none => dropAt m.port s
      | some (id, zero, body) => k id zero body s) s

/-- Reserved fields of an S_HELLO and its SESSION are zero (R527, R529). -/
def helloShape (session : Nat) (zero : Bool) (body : List Byte) : Bool :=
  session == 0 && zero && wireBits body 0 1 5 3 == 0 && wireZero body 1 3 && wireZero body 0x85 3 && wireZero body 0xE9 7

/-- S_HELLO (R527 to R529): refused with S_DONE, or answered with S_REPORT and a half-open agreement. -/
def helloSt (m : Datagram) (session : Nat) (zero : Bool) (body : List Byte) (s : State) : State :=
  let n := wireBits body 0 1 0 5
  let refuse := fun (st : Status) => sDone m.port m.addr m.udp 0 st s
  if !helloShape session zero body then refuse .reservedNonzero
  else if !hasHand s.ps.active n then refuse .refusedCapacity
  else if 64 ≤ s.tc.half.length || 8192 ≤ s.rie.sessions.length then refuse .refusedCapacity
  else if s.tc.chain.isNone then refuse .stateConflict
  else
    let (r, s) := fresh 32 s
    let id := pickSession s r
    let (x, s) := fresh 384 s
    let scalar := BitVec.ofNat 384 x
    let eph := keyBytes (Config.ecdsaPub scalar)
    let nonce := BitVec.ofNat 256 (leNat ((beBytes (Config.sha384 (body ++ eph)).toNat 48).take 32))
    let (report, s) := makeReport n nonce s
    let answer := eph ++ List.replicate 7 0 ++ report
    let a : Agreement := { session := id, part := n, epoch := tget 0 s.ps.epochs n,
                           nonceT := BitVec.ofNat 256 (wireFld body 4 32),
                           ephemeralT := BitVec.ofNat 776 (wireFld body 0x24 97),
                           tenantKey := BitVec.ofNat 776 (wireFld body 0x88 97), port := m.port, addr := m.addr, udp := m.udp,
                           transcript := body ++ answer, scalar := scalar }
    emit (.datagram m.port m.addr m.udp (sessionBytes 2 id answer)) { s with tc := { s.tc with half := s.tc.half ++ [a] } }

/-- S_HELLO. -/
def execSHello (msg : Datagram) (s : State) : Host.Outcome State Fault Refusal :=
  .next (settle (sessionRow msg 1 0xF0 (helloSt msg) s))

/-- S_FINISH (R530). -/
def execSFinish (msg : FinishMsg) (s : State) : Host.Outcome State Fault Refusal :=
  .next (settle (sessionRow msg.toDatagram 3 0x60 (fun session _ body s =>
    agreementSt session (BitVec.ofNat 768 (wireFld body 0 96)) msg.host s) s))

/-- AGREEMENT_TIMEOUT (R530). -/
def execAgreementTimeout (session : Nat) (s : State) : Host.Outcome State Fault Refusal :=
  .next (settle { s with tc := { s.tc with half := s.tc.half.filter fun x => x.session ≠ session } })

/-- The Trust window of a virtual function changed. -/
def modVfTc (n : Nat) (f : VfTc → VfTc) (s : State) : State := { s with tc := { s.tc with vfs := tmod {} s.tc.vfs n f } }

/-- Every session of a partition ends (R142). -/
def endSessions (n : Nat) (s : State) : State :=
  { s with rie := { s.rie with sessions := s.rie.sessions.filter fun x => x.part ≠ n } }

/-- TENANT_KEYS_WRITE: TENANT_KEYS at 0x1030, TENANT_KEY_COUNT at 0x1038 (R532, R538, R562). -/
def tenantWriteSt (n off size : Nat) (v : Word) (s : State) : State :=
  let t := tget {} s.tc.vfs n
  if !vfReady s n then s
  else if (off = 0x1030 && (size = 8 || size = 4)) || (off = 0x1034 && size = 4) then
    endSessions n (modVfTc n (fun x => { x with tenantKeys := write64 t.tenantKeys 0x1030 off size v % 2 ^ 57 }) s)
  else if off = 0x1038 && size = 4 then
    endSessions n (modVfTc n (fun x => { x with tenantCount := v.toNat % 2 ^ 7 }) s)
  else s

/-- TENANT_KEYS_WRITE. -/
def execTenantKeysWrite (part off size : Nat) (value : Word) (s : State) (tbit : Bool := false) : Host.Outcome State Fault Refusal :=
  .next (settle (atBar (.vf part) tbit (tenantWriteSt part off size value) s))

/-! ### Signed copies of the hand report page (R533, R536) -/

/-- The hand report page of partition `n` as 4,096 bytes (R533). -/
def pageBytes (n : Nat) (p : HrPage) : List Byte :=
  let c := p.shown
  let head := leBytes 1 1 ++ leBytes n 1 ++ leBytes p.flags 1 ++ leBytes p.gen 1 ++ leBytes p.update 4 ++ leBytes p.planId 8 ++
    leBytes p.dealTick 8 ++ leBytes p.epoch 4 ++ leBytes p.planMargin 4 ++ leBytes p.snapTick 8 ++ leBytes p.sinceTick 8
  let mid := leBytes c.framesUsed 8 ++ leBytes c.admits 8 ++ leBytes c.refuseCap 8 ++ leBytes c.refuseDl 8 ++
    leBytes c.killsBe 8 ++ leBytes c.kills 8 ++ leBytes c.lcOverruns 4 ++ leBytes c.residueFails 4 ++ leBytes c.ceMem 8 ++
    leBytes c.ceTileLink 4 ++ leBytes c.uFaults 4
  let pad := fun (l : List Byte) (len : Nat) => (l ++ List.replicate len (0 : Byte)).take len
  pad head 0x100 ++ pad mid 0x100 ++ pad (leBytes p.fenced.toNat 40) 0x200 ++ leBytes p.hand.toNat 1024 ++
    List.replicate 0x800 0

/-- HR_CTL.SIGN (R536): a snapshot at the next tick; dropped with CMD_ERR while BUSY. -/
def signSt (n : Nat) (s : State) : State :=
  if !vfReady s n then s
  else modVfTc n (fun t => if t.busy then { t with cmdErr := true } else { t with busy := true, snap := none }) s

/-- SIGN. -/
def execSign (part : Nat) (s : State) (tbit : Bool := false) : Host.Outcome State Fault Refusal :=
  .next (settle (atBar (.vf part) tbit (signSt part) s))

/-- The range of the signed copy (R536). -/
def signRange (s : State) (n : Nat) : Rng := { dva := (tget {} s.tc.vfs n).signAddr, size := 4256, w := true }

/-- The translations of the signed copy's 4,256 bytes with right W, where every line may be written (R295, R536). -/
def signArea (s : State) (n : Nat) (host : HostView) : Option (List Xlat) :=
  let a := (tget {} s.tc.vfs n).signAddr
  if isHost a then none
  else
    match walkRange s n host (signRange s n) with
    | .ok xs =>
      let ok := (lineParts a 4256).all fun p =>
        match (xlatDpa xs p.1).bind fun d => (homeLine s n d).map fun k => (d, k) with
        | some (d, k) => keyCheck s (linePc k) (lineNo k) (dpaKey d) != .refuse
        | none => false
      if ok then some xs else none
    | _ => none

/-- The signed part of the copy (R536). -/
def signedBytes (s : State) (n : Nat) (p : HrPage) : List Byte :=
  pageBytes n p ++ leBytes (tget {} s.tc.vfs n).nonce.toNat 32 ++ leBytes s.tc.otp.serial.toNat 16 ++
    leBytes s.tc.otp.codeword.toNat 4 ++ List.replicate 12 0

/-- SIGNED_COPY_COMPLETE (R536). -/
def signedCopySt (n : Nat) (host : HostView) (s : State) : State :=
  let t := tget {} s.tc.vfs n
  if !s.bnd.powered || !t.busy then s
  else
    match t.snap with
    | none => s
    | some p =>
      let done := fun (st : Status) (s : State) => modVfTc n (fun x => { x with busy := false, snap := none, status := st }) s
      let area := signArea s n host
      let s := if isHost t.signAddr then s else countWalks n host [signRange s n] s
      match area with
      | none => done .rights s
      | some xs =>
        if s.tc.chain.isNone then done .stateConflict s
        else
          let body := signedBytes s n p
          let (sig, s) := signWith body s
          let s := writeDva n xs t.signAddr (body ++ beBytes sig.toNat 96) false none s
          done .ok { s with tc := { s.tc with signed := satAdd 64 s.tc.signed 1 } }

/-- SIGNED_COPY_COMPLETE. -/
def execSignedCopyComplete (part : Nat) (host : HostView) (s : State) : Host.Outcome State Fault Refusal :=
  .next (settle (signedCopySt part host s))

/-! ### SPDM (R513, R522, R523) -/

/-- The response to an SPDM request: its code with bit 7 clear. The codes are those of the public standard. PRESUMED. -/
def spdmOk (code : Nat) (payload : List Nat) (s : State) : State := emit (.spdm (code - 0x80) .ok payload) s
/-- The SPDM ERROR response. -/
def spdmErr (st : Status) (s : State) : State := emit (.spdm 0x7F st []) s

/-- The mailbox answers once configuration requests are served (R30). -/
def spdmUp (s : State) : Bool := s.bnd.powered && !s.bnd.cfgRetry

/-- A request that the connection has reached; a request out of order is an error. -/
def inOrder (ok : Bool) (f : State → State) (s : State) : State :=
  if !spdmUp s then s else if ok then f s else spdmErr .stateConflict s

/-- The connection. -/
def setSpdm (x : Spdm) (s : State) : State := { s with tc := { s.tc with spdm := x } }

/-- GET_VERSION: SPDM 1.3; the connection starts again. -/
def getVersionSt (s : State) : State :=
  let restart := fun (s : State) =>
    { s with tc := { s.tc with spdm := .version, spdmKey := none, spdmSession := false } }
  inOrder true (fun s => spdmOk 0x84 [0x13] (restart s)) s

/-- GET_VERSION. -/
def execGetVersion (s : State) : Host.Outcome State Fault Refusal := .next (settle (getVersionSt s))

/-- GET_CAPABILITIES. -/
def execGetCapabilities (s : State) : Host.Outcome State Fault Refusal :=
  .next (settle (inOrder (s.tc.spdm == .version) (fun s => spdmOk 0xE1 [] (setSpdm .capabilities s)) s))

/-- NEGOTIATE_ALGORITHMS: the requester must offer the four algorithms that the TC offers (R523). -/
def execNegotiateAlgorithms (ecdsa sha group aead : Bool) (s : State) : Host.Outcome State Fault Refusal :=
  .next (settle (inOrder (s.tc.spdm == .capabilities && ecdsa && sha && group && aead)
    (fun s => spdmOk 0xE3 [] (setSpdm .algorithms s)) s))

/-- A request served from the certificate chain: refused with STATE_CONFLICT when no chain matches (R513). -/
def withChain (f : PubKey → State → State) (s : State) : State :=
  inOrder (s.tc.spdm == .algorithms) (fun s =>
    match s.tc.chain with
    | none => spdmErr .stateConflict s
    | some c => f c s) s

/-- GET_DIGESTS: the digest of the chain's bytes, which the state does not hold, is a free value. -/
def getDigestsSt (s : State) : State :=
  withChain (fun _ s =>
    let (d, s) := fresh 384 s
    spdmOk 0x81 [d] s) s

/-- GET_DIGESTS. -/
def execGetDigests (s : State) : Host.Outcome State Fault Refusal := .next (settle (getDigestsSt s))

/-- GET_CERTIFICATE: slot 0 only; the chain is shown by its leaf key. -/
def getCertSt (slot : Nat) (s : State) : State :=
  withChain (fun c s => if slot = 0 then spdmOk 0x82 [c.toNat] s else spdmErr .stateConflict s) s

/-- GET_CERTIFICATE. -/
def execGetCertificate (slot : Nat) (s : State) : Host.Outcome State Fault Refusal := .next (settle (getCertSt slot s))

/-- A signed answer over the requester's nonce and `bs`. -/
def signedAnswer (code : Nat) (r : SpdmReq) (bs : List Byte) (s : State) : State :=
  let (sig, s) := signWith (leBytes r.nonce.toNat 32 ++ bs) s
  spdmOk code (bs.map (fun b => b.toNat) ++ [sig.toNat]) s

/-- CHALLENGE. -/
def challengeSt (slot : Nat) (r : SpdmReq) (s : State) : State :=
  withChain (fun c s => if slot = 0 then signedAnswer 0x83 r (keyBytes c) s else spdmErr .stateConflict s) s

/-- CHALLENGE. -/
def execChallenge (slot : Nat) (r : SpdmReq) (s : State) : Host.Outcome State Fault Refusal :=
  .next (settle (challengeSt slot r s))

/-- GET_MEASUREMENTS serves every index of R522 for every partition (R523): 0 gives the number of blocks, 0xFF them all. -/
def measurementsSt (r : SpdmReq) (s : State) : State :=
  withChain (fun _ s =>
    let bs := if r.index = 0 then [BitVec.ofNat 8 101]
      else if r.index = 0xFF then ([1, 2, 3, 4, 5] ++ (List.range 96).map fun i => 0x10 + i).flatMap (blockAt s)
      else blockAt s r.index
    if bs = [] then spdmErr .stateConflict s else signedAnswer 0xE0 r bs s) s

/-- GET_MEASUREMENTS. -/
def execGetMeasurements (r : SpdmReq) (s : State) : Host.Outcome State Fault Refusal := .next (settle (measurementsSt r s))

/-- KEY_EXCHANGE: a session key from an ephemeral scalar, which is a free value. -/
def keyExchangeSt (r : SpdmReq) (s : State) : State :=
  withChain (fun _ s =>
    let (x, s) := fresh 384 s
    let scalar := BitVec.ofNat 384 x
    let s := { s with tc := { s.tc with spdmKey := some (Config.ecdh scalar r.keyShare), spdmSession := false } }
    signedAnswer 0xE4 r (keyBytes (Config.ecdsaPub scalar)) s) s

/-- KEY_EXCHANGE. -/
def execKeyExchange (r : SpdmReq) (s : State) : Host.Outcome State Fault Refusal := .next (settle (keyExchangeSt r s))

/-- The verify data that FINISH must carry, as a function of the session key. PRESUMED: the public standard gives it. -/
def verifyData (k : BitVec 384) : BitVec 384 := BitVec.ofNat 384 (leNat (Config.hkdf (beBytes k.toNat 48) [] [] 48))

/-- FINISH. -/
def spdmFinishSt (r : SpdmReq) (s : State) : State :=
  inOrder s.tc.spdmKey.isSome (fun s =>
    if s.tc.spdmKey.any fun k => verifyData k == r.verify then
      spdmOk 0xE5 [] { s with tc := { s.tc with spdmSession := true } }
    else spdmErr .rights { s with tc := { s.tc with spdmKey := none, spdmSession := false } }) s

/-- FINISH. -/
def execFinish (r : SpdmReq) (s : State) : Host.Outcome State Fault Refusal := .next (settle (spdmFinishSt r s))

/-- END_SESSION. -/
def execEndSession (s : State) : Host.Outcome State Fault Refusal :=
  .next (settle (inOrder s.tc.spdmSession
    (fun s => spdmOk 0xEC [] { s with tc := { s.tc with spdmKey := none, spdmSession := false } }) s))

/-! ### IDE and TDISP (R524 to R526) -/

/-- The streams of the host link: 0 the link stream, 1 to 8 the selective ones (R524). -/
def ideStreams : Nat := 9

/-- IDE_KM within a secured session: a stream whose key has been programmed comes into use with its functions, or ends. -/
def ideKm (r : IdeKm) (s : State) : State :=
  match r with
  | .query => spdmOk 0xFE [ideStreams] s
  | .keyProg k =>
    if k < ideStreams then spdmOk 0xFE [] { s with tc := { s.tc with ideKeyed := k :: s.tc.ideKeyed.filter fun x => x ≠ k } }
    else spdmErr .stateConflict s
  | .kSetGo k l =>
    if s.tc.ideKeyed.contains k then spdmOk 0xFE [] { s with tc := { s.tc with ide := tput s.tc.ide k l } }
    else spdmErr .stateConflict s
  | .kSetStop k =>
    spdmOk 0xFE [] { s with tc := { s.tc with ide := tdel s.tc.ide k, ideKeyed := s.tc.ideKeyed.filter fun x => x ≠ k } }

/-- VENDOR_DEFINED_REQUEST. -/
def execVendorDefinedRequest (r : IdeKm) (s : State) : Host.Outcome State Fault Refusal :=
  .next (settle (inOrder s.tc.spdmSession (ideKm r) s))

/-- An IDE stream in use covers virtual function `n`. -/
def ideCovers (s : State) (n : Nat) : Bool := s.tc.ide.any fun p => p.2.contains n

/-- The state of interface `n` set. -/
def setTdi (n : Nat) (x : Tdi) (s : State) : State := { s with tc := { s.tc with tdi := tput s.tc.tdi n x } }

/-- A TDISP request of an interface: granted with the state it moves to, or answered with an error. -/
def tdispSt (n : Nat) (ok : Bool) (x : Tdi) (s : State) : State :=
  if !spdmUp s then s else if ok then emit (.tdisp true) (setTdi n x s) else emit (.tdisp false) s

/-- LOCK_INTERFACE_REQUEST: from CONFIG_UNLOCKED, the hand confidential and an IDE stream over the function (R525). -/
def execLockInterfaceRequest (n : Nat) (s : State) : Host.Outcome State Fault Refusal :=
  .next (settle (tdispSt n (hConf s.ps.active n && ideCovers s n && tdiOf s n == .unlocked) .locked s))

/-- START_INTERFACE_REQUEST: from CONFIG_LOCKED to RUN. -/
def execStartInterfaceRequest (n : Nat) (s : State) : Host.Outcome State Fault Refusal :=
  .next (settle (tdispSt n (hConf s.ps.active n && tdiOf s n == .locked) .run s))

/-- STOP_INTERFACE_REQUEST: to CONFIG_UNLOCKED (R526). -/
def execStopInterfaceRequest (n : Nat) (s : State) : Host.Outcome State Fault Refusal :=
  .next (settle (tdispSt n (n < 32) .unlocked s))

end Sys2Proof.Machine
end

