-- ==== Sys2Proof/Machine/Network.lean ====
section
/-!
DEFINITION. The Network Unit: links, peers, Foanaosh messages, jobs, remote gathers and export tables (R383 to R418, R199,
R439, R452, R484).
-/
namespace Sys2Proof.Machine
open Sys2Proof

/-! ### Links and ingress (R34, R383 to R385, R391, R415) -/

/-- An enabled entry negotiates, unless it is INCOMPATIBLE, which only ENABLE ends (R391). -/
def renegotiate (x : Peer) : Peer :=
  if x.enable && x.state ≠ .incompatible then { x with state := .negotiating, version := 0 } else x

/-- LINK_UP: an enabled port's link comes up from stage TIME on; its peers negotiate (R34, R391). -/
def linkUpSt (p : Nat) (s : State) : State :=
  if !s.bnd.powered || !(s.bnd.stage = .time || s.bnd.stage = .ready) || 8 ≤ p || !(port s p).enable || (port s p).linkUp then s
  else
    let s := modPort p (fun x => { x with linkUp := true }) s
    { s with nu := { s.nu with peers := s.nu.peers.map fun e => if e.2.port = p then (e.1, renegotiate e.2) else e } }

/-- LINK_UP. -/
def execLinkUp (port : Nat) (s : State) : Host.Outcome State Fault Refusal := .next (settle (linkUpSt port s))

/-- LINK_DOWN (R415). -/
def linkDownSt (p : Nat) (s : State) : State :=
  if !s.bnd.powered || 8 ≤ p then s else modPort p (fun x => { x with linkUp := false }) s

/-- LINK_DOWN. -/
def execLinkDown (port : Nat) (s : State) : Host.Outcome State Fault Refusal := .next (settle (linkDownSt port s))

/-- INGRESS_DROP. -/
def execIngressDrop (port : Nat) (s : State) : Host.Outcome State Fault Refusal := .next (settle (dropAt port s))

/-! ### Receiving (R383, R384, R389, R392, R395, R396, R414) -/

/-- A datagram for Foanaosh arrives: one to another UDP port, while Foanaosh is disabled, or that is no Foanaosh message is dropped
and counted at its port; else `k` has the header and the message. -/
def foaRow (m : Datagram) (k : FoaHead → FoaMsg → State → State) (s : State) : State :=
  if !live s || !s.nu.enable || m.dst ≠ s.nu.udpPort then dropAt m.port s
  else
    let r := foaParse m.bytes
    fromPort m.port m.parity (r.map fun x => x.1.dstPart) (fun s =>
      match r with
      | none => dropAt m.port s
      | some (h, b) => k h b s) s

/-- A message arrives: counted; one for another chip is dropped. -/
def foaIn (h : FoaHead) (k : State → State) (s : State) : State :=
  let s := { s with nu := { s.nu with rxMsgs := satAdd 64 s.nu.rxMsgs 1 } }
  if h.dstChip = s.nu.chipId then k s else s

/-- A message of a version above the agreed one is dropped and counted (R392). -/
def versionDrop (s : State) : State := { s with nu := { s.nu with versionDrops := satAdd 64 s.nu.versionDrops 1 } }

/-- A message other than HELLO, HELLO_ACK and HEARTBEAT: dropped from a peer that is not UP or in a version above the agreed
one (R392). -/
def fromUp (h : FoaHead) (k : State → State) (s : State) : State :=
  foaIn h (fun s =>
    let p := peer s h.srcChip
    if p.state ≠ .up then s else if p.version < h.version then versionDrop s else k s) s

/-- The header of the answer to a message. -/
def backHead (h : FoaHead) (version : Nat) : FoaHead :=
  { h with version := version, rsv := false, srcChip := h.dstChip, dstChip := h.srcChip, srcPart := h.dstPart,
           dstPart := h.srcPart, roleEpoch := h.srcEpoch, srcEpoch := h.roleEpoch }

/-! ### Negotiation, heartbeats, loss (R390 to R394) -/

/-- The highest version in both ranges; the device's is version 1 alone (R391). -/
def agreedVersion (minV maxV : Nat) : Option Nat := if minV ≤ 1 && 1 ≤ maxV then some 1 else none

/-- A peer after a HELLO or HELLO_ACK with a range: UP under the agreed version, or INCOMPATIBLE (R391). -/
def agree (minV maxV tick : Nat) (x : Peer) : Peer :=
  if x.state = .incompatible then { x with heard := tick }
  else
    match agreedVersion minV maxV with
    | some v => { x with state := .up, version := v, heard := tick }
    | none => { x with state := .incompatible, version := 0, heard := tick }

/-- A negotiation message: a reserved field or a DISABLED entry drops it, as does a version above the agreed one. -/
def fromPeer (h : FoaHead) (k : Peer → State → State) (s : State) : State :=
  foaIn h (fun s =>
    let p := peer s h.srcChip
    if h.rsv || !p.enable then s
    else if p.state = .up && p.version < h.version then versionDrop s
    else k p s) s

/-- HELLO: answered with HELLO_ACK; a LOST entry negotiates again (R391). -/
def helloMsgSt (h : FoaHead) (minV maxV : Nat) (s : State) : State :=
  fromPeer h (fun p s =>
    let s := sendChip h.srcChip 1 (.helloAck 1 1 ((agreedVersion minV maxV).getD 0)) s
    setPeer h.srcChip (agree minV maxV s.tb.tick p) s) s

/-- HELLO. -/
def execHello (port addr : Nat) (msg : UdpDatagram) (s : State) : Host.Outcome State Fault Refusal :=
  .next (settle (foaRow { msg with port := port, addr := addr } (fun h b s =>
    match b with
    | .hello lo hi => helloMsgSt h lo hi s
    | _ => s) s))

/-- HELLO_ACK; only a HELLO brings a LOST entry back. -/
def helloAckSt (h : FoaHead) (minV maxV : Nat) (s : State) : State :=
  fromPeer h (fun p s => if p.state = .lost then s else setPeer h.srcChip (agree minV maxV s.tb.tick p) s) s

/-- HELLO_ACK; both sides compute the agreed version from the ranges. -/
def execHelloAck (port addr udp : Nat) (msg : UdpData) (s : State) : Host.Outcome State Fault Refusal :=
  .next (settle (foaRow { msg with port := port, addr := addr, udp := udp } (fun h b s =>
    match b with
    | .helloAck lo hi _ => helloAckSt h lo hi s
    | _ => s) s))

/-- HEARTBEAT: the peer has been heard in this frame (R393, R394). -/
def heartbeatSt (h : FoaHead) (s : State) : State :=
  fromPeer h (fun p s => setPeer h.srcChip { p with heard := s.tb.tick } s) s

/-- HEARTBEAT. -/
def execHeartbeat (port addr udp : Nat) (msg : UdpData) (s : State) : Host.Outcome State Fault Refusal :=
  .next (settle (foaRow { msg with port := port, addr := addr, udp := udp } (fun h b s =>
    match b with
    | .heartbeat _ _ _ => heartbeatSt h s
    | _ => s) s))

/-- An ACTIVE job is aborted at a stated tick (R394, R402). -/
def abortJobOn (n slot : Nat) (reason : Status) (at_ : Nat) (s : State) : State :=
  let j := tget {} s.nu.jobs (pkey 5 n slot)
  if j.state ≠ .active then s
  else
    let j := { j with state := .aborting, abortAt := at_, reason := reason }
    sendAborts n slot reason s.nu.chipId { s with nu := { s.nu with jobs := tput s.nu.jobs (pkey 5 n slot) j } }

/-- PEER_LOSS: an UP peer not heard in the four frames before this one (R394). -/
def peerLossSt (c : Nat) (s : State) : State :=
  let p := peer s c
  if !live s || p.state ≠ .up || s.tb.tick ≤ p.heard + 4 then s
  else
    let s := setPeer c { p with state := .lost, version := 0, lostTick := s.tb.tick } s
    let s := { s with nu := { s.nu with peerLost := true, peerLosses := satAdd 32 s.nu.peerLosses 1 } }
    let s := msix .pf 61 (event 0x810 .peerLost none c s)
    let l := s.nu.jobs.filter fun j => j.2.state == .active && j.2.list.any fun m => m.chip == c
    l.foldl (fun s j => abortJobOn (j.1 / 32) (j.1 % 32) .peerLost (s.tb.tick + 1) s) s

/-- PEER_LOSS. -/
def execPeerLoss (chip : Nat) (s : State) : Host.Outcome State Fault Refusal := .next (settle (peerLossSt chip s))

/-- PEER_ENABLE: a write of a peer entry's ENABLE and PORT (R391, R416); while ENABLE is 1, PORT is kept and a write that
would change it sets CFG_ERR. -/
def peerEnableSt (c : Nat) (v : Word) (s : State) : State :=
  let p := peer s c
  let on := bitAt v.toNat 31
  let pt := fld v.toNat 24 3
  if !live s || 4096 ≤ c then s
  else
    let s := if p.enable && pt ≠ p.port then { s with nu := { s.nu with cfgErr := true } } else s
    let p := if p.enable then p else { p with port := pt }
    if on && !p.enable then setPeer c { p with enable := true, state := .negotiating, version := 0 } s
    else if on then setPeer c p s
    else setPeer c { p with enable := false, state := .disabled, version := 0 } s

/-- PEER_ENABLE. -/
def execPeerEnable (chip : Nat) (value : Word) (s : State) : Host.Outcome State Fault Refusal :=
  .next (settle (peerEnableSt chip value s))

/-! ### Serving a GATHER_REQ (R397, R408) -/

/-- The ACTIVE job slot of a partition with a job and generation. -/
def activeSlot (s : State) (n id gen : Nat) : Option Nat :=
  (List.range 32).find? fun j =>
    let x := tget {} s.nu.jobs (pkey 5 n j)
    x.state == .active && x.id == id && x.gen == gen

/-- Where a chip and partition stand in a job's member list. -/
def memberIndex (j : Job) (chip part : Nat) : Option Nat :=
  let i := (j.list.map fun m => (m.chip, m.part)).idxOf (chip, part)
  if i < j.list.length then some i else none

/-- The request fits the export: bound to the job, its DIM, row count and rows (R397 check 7). -/
def exportFits (e : ExportEnt) (slot : Nat) (b : GatherBody) : Bool :=
  let count := b.index.length
  e.valid && e.job == slot && b.dim == e.dim && 1 ≤ count && count ≤ (if b.op = 2 then 680 else 1021) &&
    (b.op ≠ 2 || b.weight.length == count) && b.index.all fun r => r < e.rows

/-- The slot of the present frame into which a served step is booked (R158, R408): the first allowed slot after this one, not
slot 15, that has room for one request of the class, whose RATE_CAP is not used up. -/
def servedSlot (s : State) (n c : Nat) : Option Nat :=
  let k := hClass s.ps.active n c
  let used := tget 0 s.ac.frameAdmits (16 * n + c)
  if s.ps.hold.getLsbD n || s.ps.newParts.getLsbD n || s.rc.inReset.getLsbD n || k.rateCap ≤ used ||
      slotLen s.tb.periodUs < infl s k.stepNs then none
  else
    (allowedSlots s n).find? fun j =>
      s.tb.slot < j && j ≠ 15 && fitsSlot s (ledger s) n s.tb.tick j (chargeOf s k)

/-- The served step (R408). -/
def servedStep (s : State) (h : FoaHead) (b : GatherBody) (e : ExportEnt) (slot : Nat) : Step :=
  { id := s.nextId, queue := 0x7FF, part := h.dstPart, ctx := 0xFFFF, opcode := 0x41, index := 0, raw := 0, cls := e.cls,
    be := false, frameScoped := false, frame := s.tb.tick, slot := slot, gather := some (h, b), xlats := e.xlats,
    order := s.nextId }

/-- An accepted request is booked and waits for its slot. -/
def serve (h : FoaHead) (b : GatherBody) (e : ExportEnt) (slot : Nat) (s : State) : State :=
  let n := h.dstPart
  let t := servedStep s h b e slot
  let bs := slotCharges n s.tb.tick slot (chargeOf s (hClass s.ps.active n e.cls))
  { s with steps := s.steps ++ [t], nextId := s.nextId + 1,
           ac := { s.ac with served := s.ac.served ++ bs, frameAdmits := tmod 0 s.ac.frameAdmits (16 * n + e.cls) (· + 1) } }

/-- GATHER_REQ: the checks of R397 in order. -/
def gatherReqSt (h : FoaHead) (b : GatherBody) (s : State) : State :=
  fromUp h (fun s =>
    let n := h.dstPart
    let nak := fun (st : Status) (epoch : Nat) (s : State) => nakTo h b.tag st 0x10 epoch s
    if h.rsv || b.rsv then nak .reservedNonzero 0 s
    else if !hasHand s.ps.active n || h.roleEpoch ≠ tget 0 s.ps.epochs n then
      nak .staleRole (tget 0 s.ps.epochs n) { s with nu := { s.nu with staleRole := satAdd 64 s.nu.staleRole 1 } }
    else
      match activeSlot s n h.jobId h.jobGen with
      | none => nak .jobAborted 0 s
      | some j =>
        if (memberIndex (tget {} s.nu.jobs (pkey 5 n j)) h.srcChip h.srcPart).isNone then nak .rights 0 s
        else if !s.tb.locked || b.execTick ≠ s.tb.tick then nak .stateConflict 0 s
        else
          match (exportOf s n b.exportNo).filter fun e => exportFits e j b with
          | none => nak .rights 0 s
          | some e =>
            match servedSlot s n e.cls with
            | none => nak .refusedCapacity 0 s
            | some k => serve h b e k s) s

/-- GATHER_REQ. -/
def execGatherReq (port : Nat) (msg : Packet) (s : State) : Host.Outcome State Fault Refusal :=
  .next (settle (foaRow { msg with port := port } (fun h b s =>
    match b with
    | .gatherReq b => gatherReqSt h b s
    | _ => s) s))

/-! ### Replies (R398, R409, R410) -/

/-- An answer is accepted when its ROLE_EPOCH is the present epoch of the partition it is addressed to (R398). -/
def freshAnswer (h : FoaHead) (k : State → State) (s : State) : State :=
  if h.roleEpoch = tget 0 s.ps.epochs h.dstPart then k s
  else { s with nu := { s.nu with staleReplies := satAdd 64 s.nu.staleReplies 1 } }

/-- The unanswered request of a tag to a peer. -/
def findOut (s : State) (h : FoaHead) (tag : Nat) : Option OutReq :=
  s.nu.out.find? fun o => o.tag == tag && o.body.isSome && o.chip == h.srcChip && o.head.srcPart == h.dstPart

/-- A request changed. -/
def modOut (tag : Nat) (f : OutReq → OutReq) (s : State) : State :=
  { s with nu := { s.nu with out := modFirst (fun o => o.tag == tag) f s.nu.out } }

/-- The partial of a request is complete: it is merged into its step, which may finish (R195, R410). -/
def gatherDone (o : OutReq) (terms : Nat) (s : State) : State :=
  let s := { s with nu := { s.nu with out := s.nu.out.filter fun x => x.tag ≠ o.tag,
                                      merged := s.nu.merged ++ [(o.step, o.bag, o.got, terms)] } }
  let s := modStep o.step (fun t => { t with waitTags := t.waitTags.filter fun x => x ≠ o.tag }) s
  tryFinish o.step s

/-- Columns fail R199: counted, and the step re-runs as for a residue failure, or ends with KILLED at the third (R440). -/
def columnFail (id count : Nat) (s : State) : State :=
  let s := { s with lre := { s.lre with psumRejects := satAdd 64 s.lre.psumRejects count } }
  match findStep s id with
  | none => s
  | some t =>
    let s := modStep id (fun t => { t with residueFails := t.residueFails + 1 }) s
    if 2 ≤ t.residueFails then killStep (if t.judge then .silent else .complete .killed) id s else restart 320 id s

/-- A reply's columns join the partial of its request. -/
def replyBody (o : OutReq) (dim : Nat) (b : ReplyBody) (s : State) : State :=
  let fits := b.elemFirst + b.columns.length ≤ dim && (o.terms.all fun t => t == b.terms)
  let bad := (b.columns.filter fun c => !fits || !columnOk c b.terms).length
  if !fits || 0 < bad then columnFail o.step bad s
  else
    let got := (b.columns.zipIdx b.elemFirst).foldl (fun g p => tput g p.2 p.1) o.got
    let o := { o with got := got, terms := some b.terms }
    if got.length = dim then gatherDone o b.terms s else modOut o.tag (fun _ => o) s

/-- GATHER_REPLY; a duplicate is ignored (R399). -/
def gatherReplySt (h : FoaHead) (b : ReplyBody) (s : State) : State :=
  fromUp h (fun s =>
    if h.rsv then s
    else freshAnswer h (fun s =>
      match findOut s h b.tag with
      | none => s
      | some o =>
        match o.body with
        | none => s
        | some g => fillBe h.dstPart (replyBody o g.dim b s)) s) s

/-- GATHER_REPLY. -/
def execGatherReply (port : Nat) (msg : Packet) (s : State) : Host.Outcome State Fault Refusal :=
  .next (settle (foaRow { msg with port := port } (fun h b s =>
    match b with
    | .gatherReply b => gatherReplySt h b s
    | _ => s) s))

/-- A refusal ends the sending step with its status: its other requests are given up (R410). -/
def refuseGather (o : OutReq) (st : Status) (s : State) : State :=
  let s := { s with nu := { s.nu with out := s.nu.out.filter fun x => !(x.body.isSome && x.step == o.step) } }
  let s := modStep o.step (fun t => { t with waitTags := [], fail := if t.fail.isSome then t.fail else some st }) s
  tryFinish o.step s

/-- NAK; one that carries STALE_ROLE is noted in NU_LAST_STALE (R398). -/
def nakSt (h : FoaHead) (tag : Nat) (st : Status) (epoch : Nat) (s : State) : State :=
  fromUp h (fun s =>
    if h.rsv then s
    else freshAnswer h (fun s =>
      match findOut s h tag with
      | none => s
      | some o =>
        let note := fun (v : VfNu) => { v with staleEpoch := epoch, stalePart := h.srcPart, staleChip := h.srcChip }
        let s := if st = .staleRole then { s with nu := { s.nu with vfs := tmod {} s.nu.vfs h.dstPart note } } else s
        fillBe h.dstPart (refuseGather o st s)) s) s

/-- NAK. -/
def execNak (port addr udp dst : Nat) (msg : Payload) (s : State) : Host.Outcome State Fault Refusal :=
  .next (settle (foaRow { msg with port := port, addr := addr, udp := udp, dst := dst } (fun h b s =>
    match b with
    | .nak tag st _ epoch => nakSt h tag st epoch s
    | _ => s) s))

/-- RETRANSMIT: an unanswered GATHER_REQ or JOB_ABORT is sent again, at most three times (R399). -/
def retransmitSt (tag : Nat) (s : State) : State :=
  match s.nu.out.find? fun o => o.tag == tag with
  | none => s
  | some o =>
    if !live s || 3 ≤ o.resends || !foaUp s o.chip then s
    else
      let s := modOut tag (fun o => { o with resends := o.resends + 1 }) s
      let s := { s with nu := { s.nu with retransmits := satAdd 64 s.nu.retransmits 1 } }
      let m : FoaMsg := match o.body with
        | some b => .gatherReq b
        | none => .jobAbort o.abortTick o.reason o.origin
      foaSend o.chip o.head m s

/-- RETRANSMIT. -/
def execRetransmit (tag : Nat) (s : State) : Host.Outcome State Fault Refusal := .next (settle (retransmitSt tag s))

/-! ### Digest notes (R397, R411, R452, R453) -/

/-- A note reaches the comparison of its key: an entry of the partition's job slot, which it may open. -/
def noteSt (n slot who : Nat) (b : NoteBody) (s : State) : State :=
  if (findCmp s n slot b.rangeId b.periodTick).isSome then addDigest n slot b.rangeId b.periodTick (who + 1) b.digest s
  else if s.fc.closed.contains (n, slot, b.rangeId, b.periodTick) then
    { s with fc := { s.fc with lateNotes := satAdd 64 s.fc.lateNotes 1 } }
  else if cmpFree s n then
    let e : CmpEntry := { part := n, slot := slot, rangeId := b.rangeId, periodTick := b.periodTick, digests := [],
                          members := (tget {} s.nu.jobs (pkey 5 n slot)).count }
    addDigest n slot b.rangeId b.periodTick (who + 1) b.digest { s with fc := { s.fc with cmps := s.fc.cmps ++ [e] } }
  else { s with fc := { s.fc with noEntry := satAdd 64 s.fc.noEntry 1 } }

/-- DIGEST_NOTE: dropped where checks 1 or 3 of R397 would refuse a request, and where it names no job or member. -/
def digestNoteSt (h : FoaHead) (b : NoteBody) (s : State) : State :=
  fromUp h (fun s =>
    let n := h.dstPart
    if h.rsv || b.rsv || b.canon ≠ 1 || !hasHand s.ps.active n || h.roleEpoch ≠ tget 0 s.ps.epochs n then s
    else
      match activeSlot s n h.jobId h.jobGen with
      | none => s
      | some j =>
        match memberIndex (tget {} s.nu.jobs (pkey 5 n j)) h.srcChip h.srcPart with
        | none => s
        | some i => if (tget {} s.nu.jobs (pkey 5 n j)).count ≤ 15 then noteSt n j i b s
            else { s with fc := { s.fc with noEntry := satAdd 64 s.fc.noEntry 1 } }) s

/-- DIGEST_NOTE. -/
def execDigestNote (port : Nat) (msg : Packet) (s : State) : Host.Outcome State Fault Refusal :=
  .next (settle (foaRow { msg with port := port } (fun h b s =>
    match b with
    | .digestNote b => digestNoteSt h b s
    | _ => s) s))

/-! ### Aborts (R399, R402 to R405) -/

/-- JOB_ABORT: always acknowledged; the ACTIVE slot it names enters ABORTING, at the next tick when its own has passed
(R403). -/
def jobAbortSt (h : FoaHead) (abortTick : Nat) (reason : Status) (s : State) : State :=
  fromUp h (fun s =>
    if h.rsv then s
    else
      let p := peer s h.srcChip
      let s := if s.cu.halted then s
        else foaSend h.srcChip (backHead h p.version) .abortAck s
      match activeSlot s h.dstPart h.jobId h.jobGen with
      | none => s
      | some k =>
        let late := abortTick ≤ s.tb.tick
        let j := tget {} s.nu.jobs (pkey 5 h.dstPart k)
        let s := setJob h.dstPart k { j with state := .aborting, reason := reason,
                                             abortAt := if late then s.tb.tick + 1 else abortTick } s
        if late then { s with nu := { s.nu with lateAbort := true, lateAborts := satAdd 32 s.nu.lateAborts 1 } } else s) s

/-- JOB_ABORT; ORIGIN is not used at the receiver. -/
def execJobAbort (port addr udp : Nat) (msg : UdpData) (s : State) : Host.Outcome State Fault Refusal :=
  .next (settle (foaRow { msg with port := port, addr := addr, udp := udp } (fun h b s =>
    match b with
    | .jobAbort at_ st _ => jobAbortSt h at_ st s
    | _ => s) s))

/-- ABORT_ACK stops the resends of the JOB_ABORT it answers (R399). -/
def abortAckSt (h : FoaHead) (s : State) : State :=
  fromUp h (fun s =>
    let mine := fun (o : OutReq) => o.body.isNone && o.chip == h.srcChip && o.head.jobId == h.jobId &&
      o.head.jobGen == h.jobGen && o.head.srcPart == h.dstPart && o.head.dstPart == h.srcPart
    if h.rsv then s else { s with nu := { s.nu with out := s.nu.out.filter fun o => !mine o } }) s

/-- ABORT_ACK. -/
def execAbortAck (msg : Datagram) (s : State) : Host.Outcome State Fault Refusal :=
  .next (settle (foaRow msg (fun h b s =>
    match b with
    | .abortAck => abortAckSt h s
    | _ => s) s))

/-- JOB_SLOT_ABORT: a write of ABORT to an ACTIVE slot (R402). -/
def slotAbortSt (n slot : Nat) (s : State) : State :=
  if vfReady s n && slot < 32 then abortJob n slot .jobAborted s.nu.chipId s else s

/-- JOB_SLOT_ABORT. -/
def execJobSlotAbort (part slot : Nat) (s : State) (tbit : Bool := false) : Host.Outcome State Fault Refusal :=
  .next (settle (atBar (.vf part) tbit (slotAbortSt part slot) s))

/-- A served step belongs to a job. -/
def servedFor (j : Job) (n : Nat) (t : Step) : Bool :=
  t.part == n && t.gather.any fun g => g.1.jobId == j.id && g.1.jobGen == j.gen

/-- A queue's held command names a job slot. -/
def heldNames (slot : Nat) (q : Queue) : Bool := q.miss.any fun h => namesJob h.opcode h.raw slot

/-- ABORT_TICK: at or after the abort tick, once no commit is in progress, the job's uncommitted steps are killed, its other
commands complete with the reason, and the slot becomes ABORTED (R405). -/
def abortTickSt (n slot : Nat) (s : State) : State :=
  let j := tget {} s.nu.jobs (pkey 5 n slot)
  if !live s || j.state ≠ .aborting || s.tb.tick < j.abortAt || s.cu.open_.isSome then s
  else
    let s := setJob n slot { j with state := .aborted, status := j.reason, tick := j.abortAt } s
    let s := killAll (fun t => t.part == n && t.gather.isNone && namesJob t.opcode t.raw slot) (.complete j.reason) s
    let s := killAll (servedFor j n) .silent s
    let qs := s.qu.qs.filter fun q => q.2.part == n && heldNames slot q.2
    qs.foldl (fun s q => touchQueue q.1 (dropHeld q.1 (some j.reason) s)) s

/-- ABORT_TICK. -/
def execAbortTick (part slot : Nat) (s : State) : Host.Outcome State Fault Refusal := .next (settle (abortTickSt part slot s))

/-! ### Job slots and exports (R401, R406, R484) -/

/-- JOB_LOAD. -/
def execJobLoad (part slot : Nat) (host : HostView) (s : State) (tbit : Bool := false) : Host.Outcome State Fault Refusal :=
  .next (settle (atBar (.vf part) tbit (jobLoadSt part slot host) s))

/-- JOB_CLOSE: an ACTIVE or ABORTED slot becomes FREE once no uncompleted command names it (R401, R484). -/
def jobCloseSt (n slot : Nat) (s : State) : State :=
  let j := tget {} s.nu.jobs (pkey 5 n slot)
  if !vfReady s n || 32 ≤ slot || !(j.state = .active || j.state = .aborted) then s
  else setJob n slot { j with closing := true } s

/-- JOB_CLOSE. -/
def execJobClose (part slot : Nat) (s : State) (tbit : Bool := false) : Host.Outcome State Fault Refusal :=
  .next (settle (atBar (.vf part) tbit (jobCloseSt part slot) s))

/-- EXPORT_LOAD. -/
def execExportLoad (part count : Nat) (host : HostView) (s : State) (tbit : Bool := false) : Host.Outcome State Fault Refusal :=
  .next (settle (atBar (.vf part) tbit (exportLoadSt part count host) s))

end Sys2Proof.Machine
end

