-- ==== Sys2Proof/Machine/Ptp.lean ====
section
/-!
DEFINITION. PTP messages and the discipline of the time base (R52, R58 to R60, R383, R386, R387, R439).
-/
namespace Sys2Proof.Machine
open Sys2Proof

/-- The PTP engine takes a message: it runs on its port and domain, from stage TIME on (R386, R414). -/
def ptpTakes (s : State) (p domain : Nat) : Bool :=
  s.bnd.powered && s.tb.running && s.nu.ptpEn && p == s.nu.ptpPort && domain == s.nu.ptpDomain

/-- The lock state after a filtered offset: 16 in a row within 25 ns lock it, 4 in a row beyond 40 ns unlock it (R58). -/
def relock (f : Int) (t : TimeBase) : TimeBase :=
  let a := f.natAbs
  let inRun := if a ≤ 25 then t.inRun + 1 else 0
  let outRun := if 40 < a then t.outRun + 1 else 0
  { t with offset := f, inRun := inRun, outRun := outRun, slewing := f ≠ 0,
           locked := if t.locked then outRun < 4 else 16 ≤ inRun }

/-- The first offset within the lock window under the empty plan moves the time base to PTP time (R59). -/
def stepTime (f : Int) (t : TimeBase) : TimeBase :=
  regrid { t with now := ((t.now : Int) - f).toNat, stepped := true, slewing := false }

/-- One sample of the offset from the grandmaster (R58 to R60, R387). -/
def offsetSample (raw : Int) (s : State) : State :=
  let f := Config.ptpFilter s.tb.offset raw
  let t := relock f s.tb
  { s with tb := if !s.ps.staged && !t.stepped && f.natAbs ≤ 25 then stepTime f t else t }

/-- The timestamp that a port gives an event message now: the time base, to within 4 ns either way; the error is a free value
(R387). -/
def stamp (s : State) : Int × State :=
  let (r, s) := fresh 8 s
  ((s.tb.now : Int) + (r % 9 : Nat) - 4, s)

/-- A Sync's arrival and precise origin are known: one sample of the offset, and a Delay_Req leaves (R386, R387; when it leaves is
the model's choice, log 123). -/
def syncSample (arrival origin : Int) (s : State) : State :=
  let s := offsetSample (arrival - origin - s.tb.delay)
    { s with tb := { s.tb with syncArrival := none, syncDiff := arrival - origin } }
  let (t, s) := stamp s
  emit (.delayReq s.nu.ptpPort s.nu.ptpDomain) { s with tb := { s.tb with delayReq := some t } }

/-- A PTP message arrives, its data `parity` times in a row damaged as it leaves the buffer of its port: on another port or domain, or
while PTP does not run, it is dropped and counted there (R383, R386, R439). -/
def ptpRow (p domain parity : Nat) (k : State → State) (s : State) : State :=
  if ptpTakes s p domain then fromPort p parity none k s else dropAt p s

/-- PTP_SYNC: a one-step Sync gives a sample, a two-step one waits for its Follow_Up (R386). -/
def syncMsgSt (twoStep : Bool) (origin : Int) (s : State) : State :=
  let (arrival, s) := stamp s
  if twoStep then { s with tb := { s.tb with syncArrival := some arrival } } else syncSample arrival origin s

/-- PTP_SYNC. -/
def execPtpSync (port domain : Nat) (twoStep : Bool) (origin : Int) (parity : Nat) (s : State) :
    Host.Outcome State Fault Refusal := .next (settle (ptpRow port domain parity (syncMsgSt twoStep origin) s))

/-- PTP_FOLLOW_UP: the precise origin of the Sync that waits (R386). -/
def followUpSt (origin : Int) (s : State) : State :=
  match s.tb.syncArrival with
  | none => s
  | some a => syncSample a origin s

/-- PTP_FOLLOW_UP. -/
def execPtpFollowUp (port domain : Nat) (origin : Int) (s : State) (parity : Nat := 0) : Host.Outcome State Fault Refusal :=
  .next (settle (ptpRow port domain parity (followUpSt origin) s))

/-- PTP_DELAY_RESP: the grandmaster's receive timestamp completes the measurement; the path delay is half the sum of the two
directions' differences (R386; log 123). One that answers no Delay_Req is dropped. -/
def delayRespSt (received : Int) (s : State) : State :=
  match s.tb.delayReq with
  | none => s
  | some t => { s with tb := { s.tb with delay := (s.tb.syncDiff + (received - t)) / 2, delayReq := none } }

/-- PTP_DELAY_RESP. -/
def execPtpDelayResp (port domain : Nat) (received : Int) (s : State) (parity : Nat := 0) : Host.Outcome State Fault Refusal :=
  .next (settle (ptpRow port domain parity (delayRespSt received) s))

end Sys2Proof.Machine
end

