-- ==== Sys2Proof/Machine/Intake.lean ====
section
/-!
DEFINITION. Request intake: the decision on a REQUEST, its admission into a request context, and an LC request whose deadline
arrives (R141 to R154).
-/
namespace Sys2Proof.Machine
open Sys2Proof

/-! ### Sessions (R141, R142) -/

/-- A SEQ that repeats an accepted one of the session, or lies more than 1,024 below the highest accepted (R141). -/
def seqStale (x : Session) (seq : Nat) : Bool :=
  x.seen.contains seq || x.highest.any fun h => seq + 1024 < h

/-- A SEQ accepted: only those within 1,024 of the highest can still be told from repeats (R141). -/
def acceptSeq (seq : Nat) (x : Session) : Session :=
  let h := max seq (x.highest.getD 0)
  { x with highest := some h, seen := (seq :: x.seen).filter fun q => h ≤ q + 1024 }

/-- A session changed. -/
def modSession (id : Nat) (f : Session → Session) (s : State) : State :=
  { s with rie := { s.rie with sessions := modFirst (fun x => x.id == id) f s.rie.sessions } }

/-! ### The decision (R146 to R148) -/

/-- The queue that serves a class (R163). -/
def hasServer (s : State) (n c : Nat) : Bool :=
  s.qu.qs.any fun p => p.2.live && p.2.kind == .intake && p.2.part == n && p.2.cls == c && p.2.state ≠ .lost &&
    p.2.state ≠ .destroying

/-- The intake area, whole (R150). -/
def areaRange (s : State) (n : Nat) : Rng :=
  { dva := tget 0 s.rie.areaBase n, size := hQuota s.ps.active n 0 * 0x4000, r := true, w := true }

/-- The batch area, one page (R164). -/
def batchRange (s : State) (n : Nat) : Rng := { dva := tget 0 s.rie.batchBase n, size := 2 ^ 25, r := true, w := true }

/-- The walks of an area that is set (R348). -/
def walkArea (n : Nat) (host : HostView) (g : Rng) (s : State) : State :=
  if g.dva = 0 ∨ isHost g.dva then s else countWalks n host [g] s

/-- The mapping of the intake area, whole, with rights R and W; none when it is unset, unmapped or not writable (R147,
R150). -/
def intakeArea (s : State) (n : Nat) (host : HostView) : Option (List Xlat) :=
  let base := tget 0 s.rie.areaBase n
  if base = 0 ∨ isHost base then none
  else
    match walkRange s n host (areaRange s n) with
    | .ok xs => some xs
    | _ => none

/-- The mapping of the batch area: its one page, with rights R and W, or nothing (R164). -/
def batchArea (s : State) (n : Nat) (host : HostView) : List Xlat :=
  let base := tget 0 s.rie.batchBase n
  if base = 0 ∨ isHost base then []
  else
    match walkRange s n host (batchRange s n) with
    | .ok xs => xs
    | _ => []

/-- What the decision gives: a refusal, or the placements and the area's mapping. -/
inductive Decision where
  | refuse (st : Status)
  | grant (places : List Placement) (xs : List Xlat)
  deriving DecidableEq, Repr

/-- The rows of R147 that R158 decides for an LC class, and the last row. -/
def decideBooking (s : State) (n : Nat) (m : IntakeMsg) (q : IntakeReq) (xs : List Xlat) : Decision :=
  let c := hClass s.ps.active n q.cls
  let late := fun (ps : List Placement) => if m.inTime then Decision.grant ps xs else .refuse .refusedCapacity
  if c.be then late []
  else if c.rateCap ≤ tget 0 s.ac.frameAdmits (16 * n + q.cls) then .refuse .refusedCapacity
  else
    match book s n c (tget 0 s.ac.classOrder (16 * n + q.cls)) s.tb.tick with
    | (.ok, ps) => late ps
    | (st, _) => .refuse st

/-- The rows of R147 before the intake area is looked at: the status of the first that refuses a request of partition `n`. -/
def firstRows (s : State) (n : Nat) (q : IntakeReq) : Option Status :=
  if q.version ≠ 1 then some .version
  else if q.type ≠ 1 then some .badOpcode
  else if q.rsv then some .reservedNonzero
  else if q.length < 16 ∨ 8144 < q.length then some .refusedCapacity
  else if !hasHand s.ps.active n || s.rc.inReset.getLsbD n || s.ps.hold.getLsbD n then some .refusedCapacity
  else if !(hClass s.ps.active n q.cls).valid then some .stateConflict
  else if !hasServer s n q.cls then some .refusedCapacity
  else none

/-- The rows of R147 in order, for a request of partition `n`. -/
def decideReq (s : State) (n : Nat) (m : IntakeMsg) (q : IntakeReq) : Decision :=
  match firstRows s n q with
  | some st => .refuse st
  | none =>
    match intakeArea s n m.host with
    | none => .refuse .refusedCapacity
    | some xs =>
      if hQuota s.ps.active n 0 ≤ reqCount s n then .refuse .refusedCapacity else decideBooking s n m q xs

/-- A reply of a type under the device's next SEQ of the session, encrypted, out of the request's port to its source (R141,
R142, R145). A session that ends by its count sends no more. -/
def intakeReply (m : IntakeMsg) (session type : Nat) (payload : List Byte) (s : State) : State :=
  match takeSeq session s with
  | (none, s) => s
  | (some x, s) => emit (.datagram m.port m.addr m.udp (sealIntake x type x.nextSeq payload)) s

/-- A refusal, counted for the chip and the partition (R144, R174, R533). REQ_ID is zero when the payload is too short to
hold it. -/
def refuseReq (n : Nat) (m : IntakeMsg) (q : IntakeReq) (st : Status) (s : State) : State :=
  let cap := b2n (st == .refusedCapacity)
  let dl := b2n (st == .refusedDeadline)
  let s := { s with ac := { s.ac with refuseCap := satAdd 64 s.ac.refuseCap cap, refuseDl := satAdd 64 s.ac.refuseDl dl } }
  let s := modHr n (fun h => { h with refuseCap := satAdd 64 h.refuseCap cap, refuseDl := satAdd 64 h.refuseDl dl }) s
  intakeReply m q.session 3 (refusalBytes (if q.length < 8 then 0 else q.reqId) st s.tb.tick) s

/-! ### Admission (R149 to R151) -/

/-- The lowest free local index (R149). -/
def freeIndex (s : State) (n : Nat) : Nat :=
  ((List.range (reqCount s n + 1)).find? fun i => (findReq s n i).isNone).getD 0

/-- The input header of a slot (R149). -/
def slotHeader (q : IntakeReq) (admitTick deadline : Nat) : List Byte :=
  leBytes q.reqId 8 ++ leBytes q.cls 1 ++ [0] ++ leBytes (q.length - 16) 2 ++ leBytes 0 4 ++ leBytes admitTick 8 ++
    leBytes deadline 8 ++ List.replicate 32 0

/-- The RIE's writes of a slot: header and input; the bytes past INPUT_LEN are free values (R149, R150). -/
def writeSlot (n i : Nat) (q : IntakeReq) (deadline : Nat) (s : State) : State :=
  let len := q.input.length
  let (r, s) := fresh (8 * (0x1FC0 - len)) s
  writeDva n (tget [] s.rie.areaXlat n) (slotBase s n i)
    (slotHeader q s.tb.tick deadline ++ q.input ++ leBytes r (0x1FC0 - len)) false none s

/-- The templates of the queue that serves a class: the steps of a request of a BE class (R165, R366). -/
def servedSteps (s : State) (n c : Nat) : Nat :=
  ((s.qu.qs.find? fun p => p.2.live && p.2.kind == .intake && p.2.part == n && p.2.cls == c).map fun p =>
    p.2.templates.length).getD 0

/-- A request admitted: its context, its slot, its counts, and ADMITTED where ACK asks for it (R144, R149 to R151, R158,
R165). -/
def admitReq (n : Nat) (m : IntakeMsg) (q : IntakeReq) (places : List Placement) (xs : List Xlat) (s : State) : State :=
  let c := hClass s.ps.active n q.cls
  let i := freeIndex s n
  let deadline := if c.be then 0 else s.tb.tick + c.deadline + 1
  let r : ReqCtx := { part := n, index := i, reqId := q.reqId, cls := q.cls, be := c.be, state := .admitted, next := 0,
                      steps := if c.be then servedSteps s n q.cls else c.steps + c.fsteps, admitTick := s.tb.tick,
                      deadline := deadline, places := places, session := q.session, port := m.port, addr := m.addr,
                      udp := m.udp, order := s.nextId }
  let key := 16 * n + q.cls
  let area := tput s.rie.areaXlat n (xs ++ batchArea s n m.host)
  let s := walkArea n m.host (batchRange s n) s
  let s := { s with rie := { s.rie with areaXlat := area }, nextId := s.nextId + 1,
                    ac := { s.ac with reqs := s.ac.reqs ++ [r], admits := satAdd 64 s.ac.admits 1,
                                      frameAdmits := tmod 0 s.ac.frameAdmits key (· + 1) } }
  let s := modHr n (fun h => { h with admits := satAdd 64 h.admits 1 }) s
  let s := writeSlot n i q deadline s
  if q.ack then intakeReply m q.session 2 (admittedBytes q.reqId deadline) s else s

/-- REQUEST: a datagram to another port is none of intake's and is dropped at its port (R383); one to the intake port is dropped
uncounted while intake is disabled (R171), counted when no session authenticates it or its SEQ is stale (R141), and else
decided (R146, R147). -/
def requestSt (m : IntakeMsg) (s : State) : State :=
  if !live s || m.dst ≠ s.rie.udpPort then dropAt m.port s
  else if !s.rie.enable then s
  else
    let h := intakeHead m.bytes
    let x := findSession s h.session
    fromPort m.port m.parity (x.map fun x => x.part) (fun s =>
    let drop := { s with rie := { s.rie with authDrops := satAdd 64 s.rie.authDrops 1 } }
    match x with
    | none => drop
    | some x =>
      match openIntake x m.bytes with
      | none => drop
      | some pl =>
        if seqStale x h.seq then { s with rie := { s.rie with replayDrops := satAdd 64 s.rie.replayDrops 1 } }
        else
          let q := intakeReq h pl
          let s := modSession h.session (acceptSeq h.seq) { s with rie := { s.rie with requests := satAdd 64 s.rie.requests 1 } }
          let s := if (firstRows s x.part q).isNone then walkArea x.part m.host (areaRange s x.part) s else s
          match decideReq s x.part m q with
          | .refuse st => refuseReq x.part m q st s
          | .grant ps xs => admitReq x.part m q ps xs s) s

/-- REQUEST. -/
def execRequest (msg : IntakeMsg) (s : State) : Host.Outcome State Fault Refusal := .next (settle (requestSt msg s))

/-! ### Deadlines (R153, R154) -/

/-- The deadline tick of an LC request has come, or comes at the end of the present slot: its TIMEOUT then leaves in the
trick of that tick (R153, R154). -/
def deadlineDue (s : State) (r : ReqCtx) : Bool :=
  !r.be && r.state ≠ .done && (r.deadline ≤ s.tb.tick || (r.deadline = s.tb.tick + 1 && s.tb.slot = 15))

/-- DEADLINE_EXPIRY. -/
def deadlineSt (n i : Nat) (s : State) : State :=
  match findReq s n i with
  | none => s
  | some r => if live s && deadlineDue s r then failReq n .timeout s i else s

/-- DEADLINE_EXPIRY. -/
def execDeadlineExpiry (part index : Nat) (s : State) : Host.Outcome State Fault Refusal :=
  .next (settle (deadlineSt part index s))

end Sys2Proof.Machine
end

