-- ==== Sys2Proof/Machine/Checks.lean ====
section
/-!
DEFINITION. Injected checks and engine fencing as registers command them: FC_INJECT.ARM and CANCEL, FC_ENGINE_FENCED (R434 to
R436, R443, R461, R462, R548).
-/
namespace Sys2Proof.Machine
open Sys2Proof

/-! ### Injection (R434 to R436) -/

/-- A checker code suits a target (R434). -/
def checkerSuits (code target : Nat) : Bool :=
  let slice := (unitSlice target).isSome
  let engine := (unitEngine target).isSome
  if code ≤ 4 || code = 8 then slice
  else if code = 5 || code = 6 then engine
  else if code = 7 then
    slice || engine || (unitTile target).isSome || (unitPort target).isSome || (unitCp target).isSome
  else false

/-- The partitions that a target serves (R436). -/
def targetServes (img : Image) (u : Nat) : List Nat :=
  (hands img).filter fun n =>
    (unitPort u).isSome || (unitSlice u).any (fun x => (sliceList img n).contains x) ||
      (unitEngine u).any (fun e => (hEngines img n).getLsbD e) || (unitTile u).any (fun t => (hTiles img n).getLsbD t) ||
      (unitCp u).any fun c => hCp img n == c

/-- What an ARM of the fields in FC_INJECT completes with (R436). -/
def armStatus (s : State) : Status :=
  let i := s.fc.inj
  let img := s.ps.active
  if i.remaining ≠ 0 || !checkerSuits i.checker i.target || i.count = 0 then .stateConflict
  else if i.pvalid && hConf img i.part then .rights
  else if !i.pvalid && (targetServes img i.target).any (fun n => hConf img n) then .rights
  else .ok

/-- An ARM (R434, R436). -/
def armInject (s : State) : State :=
  let st := armStatus s
  let i := { s.fc.inj with status := st }
  let i := if st = .ok then
      { i with remaining := i.count, runChecker := i.checker, runTarget := i.target,
               runPart := if i.pvalid then some i.part else none }
    else i
  { s with fc := { s.fc with inj := i } }

/-- A write of FC_INJECT: its fields, then CANCEL, then ARM (R434, R461). -/
def injectWrite (v : Nat) (s : State) : State :=
  let i := { s.fc.inj with count := fld v 48 16, checker := fld v 40 4, pvalid := bitAt v 37, part := fld v 32 5,
                           target := fld v 16 12 }
  let i := if bitAt v 1 then { i with remaining := 0 } else i
  let s := { s with fc := { s.fc with inj := i } }
  if bitAt v 0 then armInject s else s

/-- INJECT_ARM. -/
def execInjectArm (value : Word) (s : State) : Host.Outcome State Fault Refusal :=
  .next (settle (if live s then injectWrite (value ||| 1).toNat s else s))

/-- INJECT_CANCEL. -/
def execInjectCancel (value : Word) (s : State) : Host.Outcome State Fault Refusal :=
  .next (settle (if live s then injectWrite (value ||| 2).toNat s else s))

/-! ### Fencing (R443, R462, R548) -/

/-- The written ones of FC_ENGINE_FENCED(i) unfence their engines, but for the engine under test. -/
def unfenceWrite (i v : Nat) (s : State) : State :=
  let test := fun (e : Nat) => s.hm.testing.any fun f => f.engine == e
  let es := ((List.range 64).filter fun b => bitAt v b).map fun b => 64 * i + b
  let es := es.filter fun e => !test e
  { s with fc := { s.fc with fenced := es.foldl (fun v e => setBit v e false) s.fc.fenced } }

/-- UNFENCE. -/
def execUnfence (index : Nat) (value : Word) (s : State) : Host.Outcome State Fault Refusal :=
  .next (settle (if live s && index < 5 then unfenceWrite index value.toNat s else s))

end Sys2Proof.Machine
end

