-- ==== Sys2Proof/Machine/Health.lean ====
section
/-!
DEFINITION. The Health Monitor's commands: the target clock, field tests and pattern packages (R545 to R553).
-/
namespace Sys2Proof.Machine
open Sys2Proof

/-! ### The target clock (R545, R552) -/

/-- A write of HM_CLOCK: HELD is cleared by a one; a target in range is taken, and one below the present clock counts in the
margin from the next tick on. -/
def clockWrite (v : Nat) (s : State) : State :=
  let s := if bitAt v 11 then { s with hm := { s.hm with heldRaise := false } } else s
  let t := fld v 0 11
  if t < 1280 || 1600 < t || t % 32 ≠ 0 then { s with hm := { s.hm with cfgErr := true } }
  else
    let s := { s with hm := { s.hm with targetMhz := t } }
    if t < s.hm.presentMhz then { s with hm := { s.hm with targetTick := s.tb.tick + 1 } } else s

/-- TARGET_MHZ. -/
def execTargetMhz (value : Word) (s : State) : Host.Outcome State Fault Refusal :=
  .next (settle (if live s then clockWrite value.toNat s else s))

/-! ### Field tests (R546 to R549, R553) -/

/-- A START's status (R546). An engine number that names no engine is none of the cases: its status is a free value (log
64). -/
def startStatus (s : State) : Status :=
  let e := s.hm.target
  if s.hm.testing.isSome || s.hm.rescanning || (engine s e).state == .inReset then .stateConflict
  else if (engineOwner s.ps.active e).isSome && !s.fc.fenced.getLsbD e then .stateConflict
  else if !s.hm.pkgEngines then .stateConflict
  else if 60 < s.hm.vOffset || 3 < s.hm.fBoost then .reservedNonzero
  else if e < 320 then .ok
  else statusOf (Config.freeNat s.freeCount % 2 ^ 16)

/-- A test starts: an engine that is not fenced is fenced and counted (R546, R462). -/
def startTest (s : State) : State :=
  let e := s.hm.target
  let s := { s with hm := { s.hm with testing := some { engine := e, set := s.hm.pkgSet } } }
  if s.fc.fenced.getLsbD e then s
  else
    modEngine e (fun x => { x with state := .fenced, groups := 0, luts := [] })
      { s with fc := { s.fc with fenced := setBit s.fc.fenced e true, fenceEvents := satAdd 32 s.fc.fenceEvents 1 } }

/-- A write of HM_FT_CTL: its fields, then ABORT, then START (R546, R548, R553). -/
def ftWrite (v : Nat) (s : State) : State :=
  let s := { s with hm := { s.hm with tempMin := fld v 48 16, vOffset := fld v 36 6, fBoost := fld v 34 2,
                                      target := fld v 16 9 } }
  let s := if bitAt v 1 then endAborted s else s
  if !bitAt v 0 then s
  else
    let st := startStatus s
    let s := { s with hm := { s.hm with ftStatus := st }, freeCount := s.freeCount + 1 }
    if st = .ok && s.hm.target < 320 then startTest s else s

/-- FIELD_TEST_START. -/
def execFieldTestStart (value : Word) (s : State) : Host.Outcome State Fault Refusal :=
  .next (settle (if live s then ftWrite (value ||| 1).toNat s else s))

/-- FIELD_TEST_ABORT: a write of ABORT alone. -/
def execFieldTestAbort (s : State) : Host.Outcome State Fault Refusal := .next (settle (if live s then endAborted s else s))

/-- FIELD_TEST_END (R547, R549): PASS unfences the engine, which enters service at the next tick; FAIL makes a record. The
index of a pattern that failed none is a free value (log 142). -/
def testEndSt (fail : Bool) (failIndex failChains : Nat) (tempShort : Bool) (s : State) : State :=
  match s.bnd.powered, s.hm.testing with
  | true, some f =>
    let (r, s) := fresh 16 s
    let index := if fail then failIndex % 2 ^ 16 else r
    let s := { s with hm := { s.hm with testing := none, resultSet := f.set, failIndex := index, tempShort := tempShort,
                                        result := b2n fail, tests := satAdd 32 s.hm.tests 1 } }
    let s := modEngine f.engine (fun x => { x with groups := 0, luts := [] }) s
    if fail then
      let detail := f.set * 2 ^ 48 + index * 2 ^ 32 + failChains % 2 ^ 16 * 2 ^ 16 + 2 ^ 8 + b2n tempShort
      report { source := 0xCFF, kind := 0x61, address := engineUnit f.engine, detail := detail,
               part := engineOwner s.ps.active f.engine }
        { s with hm := { s.hm with testFails := satAdd 32 s.hm.testFails 1 } }
    else { s with fc := { s.fc with fenced := setBit s.fc.fenced f.engine false } }
  | _, _ => s

/-- FIELD_TEST_END. -/
def execFieldTestEnd (fail : Bool) (failIndex failChains : Nat) (tempShort : Bool) (s : State) :
    Host.Outcome State Fault Refusal := .next (settle (testEndSt fail failIndex failChains tempShort s))

/-! ### Pattern packages (R550, R551) -/

/-- RESCAN runs only while no test runs. -/
def rescanSt (s : State) : State :=
  if !live s || s.hm.testing.isSome then s else { s with hm := { s.hm with rescanning := true } }

/-- RESCAN. -/
def execRescan (s : State) : Host.Outcome State Fault Refusal := .next (settle (rescanSt s))

/-- RESCAN_END: the valid package with the higher version is selected. -/
def rescanEndSt (p q : Option Package) (s : State) : State :=
  if !s.bnd.powered || !s.hm.rescanning then s
  else selectPackage p q { s with hm := { s.hm with rescanning := false } }

/-- RESCAN_END. -/
def execRescanEnd (pkgP pkgQ : Option Package) (s : State) : Host.Outcome State Fault Refusal :=
  .next (settle (rescanEndSt pkgP pkgQ s))

end Sys2Proof.Machine
end

