-- ==== Sys2Proof/Machine/Registers.lean ====
section
/-!
DEFINITION. The register map: every register of the physical function's BAR and of a virtual function's BAR, what it reads as
and what a write of it does (R6 to R10, R31, R33, R558, R560 to R566 and the register tables of every chapter).
-/
namespace Sys2Proof.Machine
open Sys2Proof

/-- A write as its register sees it (R562): the written bits at their places, zero elsewhere; the register's value with the
written half replaced; the size of the access. -/
structure RegIn where
  bits : Nat
  val : Nat
  size : Nat
  deriving DecidableEq, Repr

/-- A register, or `count` of them `stride` bytes apart: its offset in the BAR, its width in bytes, what register `i` reads
as, and what a write of it does. A register without a write is read-only. -/
structure RegDef where
  off : Nat
  width : Nat
  count : Nat := 1
  stride : Nat := 8
  read : State → Nat → Nat
  write : Nat → RegIn → State → State := fun _ _ s => s

/-- A register whose offset, and so whose reading, is one number. -/
def counter (off width : Nat) (f : State → Nat) : RegDef := { off := off, width := width, read := fun s _ => f s }

/-! ### Boundary and administration windows (R41 to R44, R380, R563 to R565) -/

/-- DRV_VERSION and CAP0 to CAP3 (R563). -/
def capRegs (base : Nat) : List RegDef :=
  [counter base 8 fun _ => 0x00111101, counter (base + 0x08) 8 fun _ => 0x4008014028008020,
   counter (base + 0x10) 8 fun _ => 0x0400100040000000, counter (base + 0x18) 8 fun _ => 0x0002000005002010,
   counter (base + 0x20) 8 fun _ => 0x0003FFFF]

/-- The boundary window. -/
def boundaryRegs : List RegDef :=
  [counter 0x000 4 bootStatus, counter 0x008 4 fun s => s.bnd.stackExcluded.toNat, counter 0x010 8 fun s => s.bnd.fabric.toNat,
   { off := 0x018, width := 4, read := fun s _ => errpinCtl s,
     write := fun _ w s => if bitAt w.bits 2 then errpinClearSt s else s }] ++ capRegs 0x100 ++
  [{ off := 0x140, width := 4, read := fun s _ => b2n s.bnd.locked * 2,
     write := fun _ w s => if bitAt w.bits 0 then lockFields s else s },
   counter 0x148 8 fun s => s.bnd.lockTick, counter 0x150 8 fun s => s.bnd.badAccess]

/-- The state word of a queue (R379). -/
def queueWord (s : State) (q : Nat) : Nat :=
  let x := queue s q
  if x.live then lastStatus x * 2 ^ 48 + qStateCode x.state * 2 ^ 32 + x.head % 2 ^ 32 else 0

/-- A write of an administration register is dropped with CFG_ERR while ENABLE is 1, or when it is out of range (R380). -/
def admWrite (fn : Fn) (ok : Bool) (f : Admq → Admq) (s : State) : State :=
  if (admOf s fn).enable || !ok then modAdm fn (fun w => { w with cfgErr := true }) s else modAdm fn f s

/-- An administration queue holds uncompleted commands (R380, R467). -/
def admBusy (s : State) (fn : Fn) : Bool :=
  let x := queue s (0x400 + admKey fn)
  x.outstanding ≠ 0 || x.head ≠ x.tail || x.miss.isSome

/-- A write of ADMQ_CTL (R380). -/
def admCtl (fn : Fn) (v : Nat) (s : State) : State :=
  let s := if bitAt v 1 then modAdm fn (fun w => { w with cfgErr := false }) s else s
  if bitAt v 0 then admqSt fn s
  else if !(admOf s fn).enable then s
  else if admBusy s fn then modAdm fn (fun w => { w with cfgErr := true }) s
  else
    let x := queue s (0x400 + admKey fn)
    freeQueue (0x400 + admKey fn) (modAdm fn (fun w => { w with enable := false, cqHead := x.cqHead, cqTail := x.records }) s)

/-- The administration window of a function. -/
def admRegs (base : Nat) (fn : Fn) : List RegDef :=
  let q := 0x400 + admKey fn
  let ok := fun (v : Nat) => 4 ≤ fld v 0 4
  [{ off := base, width := 8, read := fun s _ => (admOf s fn).ringBase + (admOf s fn).ringLog2,
     write := fun _ w s =>
       admWrite fn (ok w.val) (fun x => { x with ringBase := fld w.val 12 44 * 4096, ringLog2 := fld w.val 0 4 }) s },
   { off := base + 0x08, width := 8, read := fun s _ => (admOf s fn).cqBase + (admOf s fn).cqLog2,
     write := fun _ w s =>
       admWrite fn (ok w.val) (fun x => { x with cqBase := fld w.val 12 44 * 4096, cqLog2 := fld w.val 0 4 }) s },
   { off := base + 0x10, width := 4, read := fun s _ => b2n (admOf s fn).cfgErr * 2 + b2n (admOf s fn).enable,
     write := fun _ w s => admCtl fn w.bits s },
   { off := base + 0x18, width := 8, read := fun _ _ => 0,
     write := fun _ w s => doorbellSt fn q w.size (BitVec.ofNat 64 w.bits) s },
   counter (base + 0x20) 8 fun s => queueWord s q,
   { off := base + 0x28, width := 4,
     read := fun s _ => if (admOf s fn).enable then (queue s q).cqHead else (admOf s fn).cqHead,
     write := fun _ w s => cqHeadSt fn q (BitVec.ofNat 32 w.bits) s },
   counter (base + 0x2C) 4 fun s =>
     (if (admOf s fn).enable then (queue s q).records else (admOf s fn).cqTail) % 2 ^ 32,
   { off := base + 0x30, width := 4, read := fun s _ => (admOf s fn).vector,
     write := fun _ w s => admWrite fn true (fun x => { x with vector := fld w.bits 0 6 }) s }]

/-! ### Frame Scheduler window (R82 to R88, R130 to R140, R174, R175) -/

/-- TG_STATUS (R86). -/
def tgStatus (s : State) : Nat :=
  ofSigned 16 (max (-32767) (min 32767 s.tb.offset)) * 2 ^ 8 + b2n s.tb.cfgErr * 8 + b2n s.tb.slewing * 4 +
    b2n s.tb.stepped * 2 + b2n s.tb.locked

/-- PS_STATUS (R133). -/
def psStatus (s : State) : Nat :=
  b2n s.ps.cmdErr * 32 + b2n s.ps.marginLow * 16 + b2n s.ps.dealt * 8 + b2n s.ps.done * 4 + b2n s.ps.armed * 2 +
    b2n s.ps.busy

/-- Written ones clear the flags of PS_STATUS (R133). -/
def psStatusWrite (v : Nat) (s : State) : State :=
  { s with ps := { s.ps with cmdErr := s.ps.cmdErr && !bitAt v 5, marginLow := s.ps.marginLow && !bitAt v 4,
                             dealt := s.ps.dealt && !bitAt v 3, done := s.ps.done && !bitAt v 2 } }

/-- A write of PS_CMD (R105, R108, R132). -/
def psCmd (v : Nat) (s : State) : State :=
  if bitAt v 0 then checkSt (bitAt v 1) (bitAt v 2) s
  else if bitAt v 2 then cancelSt (bitAt v 1) s
  else { s with ps := { s.ps with deal := bitAt v 1 } }

/-- PS_VERDICT (R134). -/
def verdictWord (v : Verdict) : Nat :=
  v.item % 2 ^ 16 * 2 ^ 32 + v.hand * 2 ^ 24 + v.reason * 2 ^ 16 + statusCode v.status

/-- The window at offset 0x2000. -/
def frameRegs : List RegDef :=
  [{ off := 0x2000, width := 4, read := fun s _ => s.tb.periodUs, write := fun _ w s => periodSt (BitVec.ofNat 64 w.bits) s },
   { off := 0x2008, width := 8, read := fun s _ => s.tb.originNs,
     write := fun _ w s => originSt 0x008 8 (BitVec.ofNat 64 w.val) s },
   counter 0x2010 8 fun s => s.tb.now, counter 0x2018 8 fun s => s.tb.slot * 2 ^ 48 + s.tb.tick,
   { off := 0x2020, width := 4, read := fun s _ => tgStatus s,
     write := fun _ w s => { s with tb := { s.tb with cfgErr := s.tb.cfgErr && !bitAt w.bits 3 } } },
   counter 0x2040 4 fun s => b2n s.cu.halted, counter 0x2048 8 fun s => s.cu.beKills,
   counter 0x2050 4 fun s => s.cu.lcOverruns, counter 0x2058 8 fun s => s.cu.tricks,
   { off := 0x2100, width := 8, read := fun s _ => s.ps.imageAddr,
     write := fun _ w s => { s with ps := { s.ps with imageAddr := w.val / 64 * 64 } } },
   { off := 0x2108, width := 8, read := fun s _ => s.ps.resultAddr,
     write := fun _ w s => { s with ps := { s.ps with resultAddr := w.val / 64 * 64 } } },
   { off := 0x2110, width := 4, read := fun s _ => b2n s.ps.deal * 2, write := fun _ w s => psCmd w.bits s },
   { off := 0x2118, width := 4, read := fun s _ => psStatus s, write := fun _ w s => psStatusWrite w.bits s },
   counter 0x2120 8 fun s => verdictWord s.ps.verdict, counter 0x2128 8 fun s => s.ps.dealTick,
   { off := 0x2130, width := 4, read := fun s _ => s.ps.hold.toNat,
     write := fun _ w s => psHoldSt (BitVec.ofNat 32 w.bits) s },
   counter 0x2138 4 fun s => (bitsOf 32 ((List.range 32).filter (partIdle s))).toNat,
   counter 0x2140 4 fun s => planMargin s.ps.active * 2 ^ 16 + s.ps.ageMargin,
   { off := 0x2148, width := 4, read := fun s _ => s.ps.gap,
     write := fun _ w s => thresholdWritten s { s with ps := { s.ps with gap := fld w.bits 0 11 } } },
   counter 0x2150 4 fun s => (bitList s.ps.pendWays).length * 2 ^ 16 + (bitList s.ps.pendPcs).length,
   counter 0x2158 8 fun s => s.ps.checks, counter 0x2160 8 fun s => s.ps.refusals, counter 0x2168 8 fun s => s.ps.deals,
   counter 0x2170 4 fun s => s.ps.lowEvents,
   { off := 0x2200, width := 4, count := 32, stride := 4, read := fun s n => tget 0 s.ps.epochs n },
   counter 0x2300 8 fun s => s.ac.admits, counter 0x2308 8 fun s => s.ac.refuseCap, counter 0x2310 8 fun s => s.ac.refuseDl,
   { off := 0x2318, width := 4, read := fun s _ => s.ac.beMinNs,
     write := fun _ w s => { s with ac := { s.ac with beMinNs := fld w.bits 0 16 } } },
   counter 0x2320 4 fun s => s.ac.giveups,
   { off := 0x2400, width := 4, count := 512, stride := 4, read := fun s i => tget 0 s.ac.classOrder i,
     write := fun i w s => { s with ac := { s.ac with classOrder := tput s.ac.classOrder i (fld w.bits 0 19) } } }]

/-! ### Request Intake and Coherence windows (R171 to R173, R274 to R278) -/

/-- A write of an enable register with a UDP port: the port is taken while ENABLE is 0 (R171, R414, R537). -/
def portIf (enabled : Bool) (old v : Nat) : Nat := if enabled then old else fld v 16 16

/-- A write of RIE_AREA_BASE or RIE_BATCH_BASE of a partition: dropped with CFG_ERR while a request context is in use or a
queue is marked for intake (R173). -/
def areaWrite (n : Nat) (f : Intake → Intake) (s : State) : State :=
  let serving := s.qu.qs.any fun p => p.2.live && p.2.kind == .intake && p.2.part == n
  if s.ac.reqs.any (fun r => r.part == n) || serving then { s with rie := { s.rie with cfgErr := true } }
  else { s with rie := f s.rie }

/-- A base address of 32 MiB alignment below 2^57 (R173). -/
def areaOf (v : Nat) : Nat := fld v 25 32 * 2 ^ 25

/-- The window at offset 0x3000. -/
def intakeRegs : List RegDef :=
  [{ off := 0x3000, width := 4,
     read := fun s _ => s.rie.udpPort * 2 ^ 16 + b2n s.rie.cfgErr * 2 + b2n s.rie.enable,
     write := fun _ w s =>
       { s with rie := { s.rie with udpPort := portIf s.rie.enable s.rie.udpPort w.bits,
                                    cfgErr := s.rie.cfgErr && !bitAt w.bits 1, enable := bitAt w.bits 0 } } },
   counter 0x3008 4 fun s => s.rie.sessions.length, counter 0x3010 8 fun s => s.rie.requests,
   counter 0x3018 8 fun s => s.rie.authDrops, counter 0x3020 8 fun s => s.rie.replayDrops,
   counter 0x3028 8 fun s => s.rie.responses,
   { off := 0x3100, width := 8, count := 32, stride := 16, read := fun s n => tget 0 s.rie.areaBase n,
     write := fun n w s => areaWrite n (fun x => { x with areaBase := tput x.areaBase n (areaOf w.val) }) s },
   { off := 0x3108, width := 8, count := 32, stride := 16, read := fun s n => tget 0 s.rie.batchBase n,
     write := fun n w s => areaWrite n (fun x => { x with batchBase := tput x.batchBase n (areaOf w.val) }) s }]

/-- The window at offset 0x4000. -/
def coherenceRegs : List RegDef :=
  [{ off := 0x4000, width := 4, read := fun s _ => s.coh.snpTimeout,
     write := fun _ w s =>
       let v := fld w.bits 0 10
       if v < 4 || 1000 < v then { s with coh := { s.coh with cfgErr := true } }
       else { s with coh := { s.coh with snpTimeout := v } } },
   { off := 0x4008, width := 4, read := fun s _ => b2n s.coh.cfgErr * 2 + b2n (s.coh.walk ≠ 0),
     write := fun _ w s => { s with coh := { s.coh with cfgErr := s.coh.cfgErr && !bitAt w.bits 1 } } },
   counter 0x4010 8 fun s => s.coh.dead.toNat, counter 0x4040 8 fun s => s.coh.snoops,
   counter 0x4048 8 fun s => s.coh.stashOffers, counter 0x4050 8 fun s => s.coh.stashDeclines,
   counter 0x4058 8 fun s => s.coh.stashDropped, counter 0x4060 8 fun s => s.coh.atomsHome,
   counter 0x4068 8 fun s => s.coh.atomsMemory, counter 0x4070 4 fun s => s.coh.poisonedLines,
   counter 0x4078 4 fun s => s.coh.dirUe, counter 0x4080 4 fun s => s.coh.protocolErrs,
   { off := 0x4100, width := 4, count := 64, stride := 4, read := fun s t => tget 0 s.coh.stale t }]

/-! ### Translation, Trust and Health windows (R348, R537, R552 to R555) -/

/-- The window at offset 0x5000. -/
def translationRegs : List RegDef :=
  [counter 0x5000 8 fun s => s.tu.walks, counter 0x5008 8 fun s => s.tu.misses, counter 0x5010 8 fun s => s.tu.atsRequests,
   counter 0x5018 8 fun s => s.tu.pageRequests, counter 0x5020 8 fun s => s.tu.invalidates,
   counter 0x5028 8 fun s => s.tu.gone, counter 0x5030 8 fun s => s.tu.answerDrops,
   counter 0x5038 8 fun s => s.tu.retainIgnored]

/-- TC_LC_STATE (R537). -/
def lcWordReg (s : State) : Nat :=
  let open_ := s.tc.lc = .blank || s.tc.lc = .test
  s.tc.otp.codeword.toNat * 2 ^ 32 + b2n s.tc.cert.isSome * 2 ^ 9 + b2n open_ * 2 ^ 8 + lcCode s.tc.lc

/-- A write of TC_CMD (R514 to R516). -/
def certCmd (v : Nat) (s : State) : State :=
  if bitAt v 0 then certLoadSt (bitAt v 1) s
  else if bitAt v 1 then { s with tc := { s.tc with cert := none } }
  else s

/-- The window at offset 0x6000. -/
def trustRegs : List RegDef :=
  [counter 0x6000 8 lcWordReg, counter 0x6008 8 fun s => fld s.tc.otp.serial.toNat 64 64,
   counter 0x6010 8 fun s => fld s.tc.otp.serial.toNat 0 64, counter 0x6018 8 fun s => s.tc.bootCount,
   { off := 0x6020, width := 8, read := fun s _ => s.tc.certAddr,
     write := fun _ w s => { s with tc := { s.tc with certAddr := w.val / 64 * 64 } } },
   { off := 0x6028, width := 4, read := fun _ _ => 0, write := fun _ w s => certCmd w.bits s },
   counter 0x6030 4 fun s => b2n s.tc.certBusy * 2 ^ 16 + statusCode s.tc.certStatus,
   counter 0x6038 8 fun s => (effectiveRights s).1 * 2 ^ 32 + (effectiveRights s).2,
   counter 0x6040 4 fun s => (bitList s.tc.otp.svnFloor).length, counter 0x6048 8 fun s => s.tc.imageVersion,
   counter 0x6050 4 fun s => b2n s.tc.slotB,
   { off := 0x6058, width := 4, read := fun s _ => s.tc.udpPort * 2 ^ 16 + b2n s.tc.enable,
     write := fun _ w s =>
       { s with tc := { s.tc with udpPort := portIf s.tc.enable s.tc.udpPort w.bits, enable := bitAt w.bits 0 } } },
   counter 0x6080 8 fun s => s.tc.agreed, counter 0x6088 8 fun s => s.tc.fails, counter 0x6090 8 fun s => s.tc.signed]

/-- A write of HM_CTL, field by field (R552). -/
def hmCtl (v : Nat) (s : State) : State :=
  let low := fld v 8 8
  let target := fld v 0 8
  let lowOk := 5 ≤ low && low ≤ 150
  let h := s.hm
  { s with hm := { h with allowMin := fld v 16 8, reserveLow := if lowOk then low else h.reserveLow,
                          slackTarget := if 8 ≤ target then target else h.slackTarget,
                          cfgErr := h.cfgErr || !lowOk || target < 8 } }

/-- HM_STATUS (R552). RAIL_MV and RESERVE_MV read zero until the rail is on. -/
def hmStatus (s : State) : Nat :=
  let h := s.hm
  h.allow % 2 ^ 10 * 2 ^ 48 + (if h.rail = 0 then 0 else 850 - h.rail) * 2 ^ 32 + h.rail * 2 ^ 16 + b2n h.cfgErr * 8 +
    b2n h.overdraw * 4 + b2n (h.rail ≠ 0 && reserveLow s) * 2 + b2n (h.testing.isSome || h.rescanning)

/-- HM_FT_RESULT (R553). -/
def ftResult (h : Health) : Nat :=
  h.resultSet * 2 ^ 48 + h.failIndex * 2 ^ 32 + b2n h.tempShort * 2 ^ 23 + h.result * 2 ^ 16 + statusCode h.ftStatus

/-- The window at offset 0x7000. Monitors and sensors show the reading of the last tick (R554; log 141). -/
def healthRegs : List RegDef :=
  [{ off := 0x7000, width := 4, read := fun s _ => s.hm.allowMin * 2 ^ 16 + s.hm.reserveLow * 2 ^ 8 + s.hm.slackTarget,
     write := fun _ w s => thresholdWritten s (hmCtl w.bits s) },
   { off := 0x7008, width := 8, read := fun s _ => hmStatus s,
     write := fun _ w s => { s with hm := { s.hm with cfgErr := s.hm.cfgErr && !bitAt w.bits 3,
                                                      overdraw := s.hm.overdraw && !bitAt w.bits 2 } } },
   { off := 0x7010, width := 4,
     read := fun s _ => s.hm.presentMhz * 2 ^ 16 + b2n s.hm.heldRaise * 2 ^ 11 + s.hm.targetMhz,
     write := fun _ w s => clockWrite w.bits s },
   { off := 0x7040, width := 8,
     read := fun s _ => s.hm.tempMin * 2 ^ 48 + s.hm.vOffset * 2 ^ 36 + s.hm.fBoost * 2 ^ 34 + s.hm.target * 2 ^ 16,
     write := fun _ w s => ftWrite w.val s },
   counter 0x7048 8 fun s => ftResult s.hm,
   { off := 0x7050, width := 8, read := fun s _ => b2n s.hm.pkgQ * 2,
     write := fun _ w s => if bitAt w.bits 0 then rescanSt s else s },
   counter 0x7058 8 fun s => s.hm.pkgVersion, counter 0x7080 8 fun s => s.hm.stretchNs,
   counter 0x7088 4 fun s => s.hm.overdraws, counter 0x7090 4 fun s => s.hm.voltSteps, counter 0x7098 4 fun s => s.hm.tests,
   counter 0x70A0 4 fun s => s.hm.testFails,
   { off := 0x7400, width := 4, count := 160, stride := 4,
     read := fun s i => let m := tget (0, 0) s.hm.mons i; ofSigned 16 m.2 * 2 ^ 16 + ofSigned 16 m.1 },
   { off := 0x7700, width := 4, count := 32, stride := 4,
     read := fun s j => ofSigned 16 (tget 0 s.hm.sensors j) }]

/-! ### Lookup-Reduce and Memory Integrity windows (R217 to R219, R312 to R316) -/

/-- LRE_STATUS (R217). -/
def lreStatus (s : State) (e : Nat) : Nat :=
  let x := engine s e
  let o := engineOwner s.ps.active e
  x.gen * 2 ^ 32 + b2n o.isSome * 2 ^ 23 + o.getD 0 * 2 ^ 16 + x.groups * 2 ^ 4 + engCode x.state

/-- The window at offset 0x8000. -/
def lreRegs : List RegDef :=
  [{ off := 0x8000, width := 8, count := 320, read := lreStatus },
   { off := 0x9000, width := 4, count := 320, stride := 4, read := fun s e => (engine s e).fails },
   counter 0xA000 8 fun s => s.lre.rangeEvents, counter 0xA008 8 fun s => s.lre.updates,
   counter 0xA010 8 fun s => s.lre.updateSkips, counter 0xA018 8 fun s => s.lre.badIndex,
   counter 0xA020 8 fun s => s.lre.psumRejects, counter 0xA028 8 fun s => s.lre.atomErrors]

/-- State codes of key IDs (R307). -/
def keyCode : KeyState → Nat
  | .clean => 0
  | .held => 1
  | .dirty => 2
  | .flushing => 3
  | .flushed => 4
  | .retiring => 5
  | .kept => 6
  | .device => 7

/-- KEYID_STATE (R315). -/
def keyidState (s : State) (k : Nat) : Nat :=
  let r := tget {} s.mi.keys k
  if k = 0 then 7
  else
    let holds := r.state == .held || r.state == .kept
    b2n (holds && r.conf) * 2 ^ 15 + (if r.state = .clean then 0 else r.part * 2 ^ 8) + keyCode r.state

/-- SWEEP codes (R316). -/
def sweepCode : SweepKind → Nat
  | .rekey => 1
  | .scrub => 2
  | .retire _ => 3
  | .cold => 4

/-- MI_PC_STATUS (R316). -/
def pcStatus (s : State) (p : Nat) : Nat :=
  let x := pcState s p
  x.gen * 2 ^ 48 + ((x.sweep.map fun w => w.boundary).getD 0) % 2 ^ 18 * 2 ^ 30 + x.keeper * 2 ^ 8 + b2n x.kept * 2 ^ 7 +
    b2n (!mirrored s p) * 2 ^ 6 + b2n x.exhausted * 2 ^ 5 + (x.sweep.map fun w => sweepCode w.kind).getD 0

/-- The window at offset 0xC000. -/
def integrityRegs : List RegDef :=
  [{ off := 0xC000, width := 4,
     read := fun s _ => b2n (s.mi.pcs.any fun p => p.2.sweep.isSome) * 8 + b2n s.mi.exhaustedBit * 4 + b2n s.mi.treeLostBit * 2,
     write := fun _ w s => { s with mi := { s.mi with exhaustedBit := s.mi.exhaustedBit && !bitAt w.bits 2,
                                                      treeLostBit := s.mi.treeLostBit && !bitAt w.bits 1 } } },
   counter 0xC008 4 fun s => b2n s.mi.exhaustCause * 2 ^ 16 + s.mi.exhaustPc, counter 0xC010 4 fun s => s.mi.epoch,
   counter 0xC020 8 fun s => fld s.mi.exhaustKeys.toNat 0 64, counter 0xC028 8 fun s => fld s.mi.exhaustKeys.toNat 64 64,
   counter 0xC040 8 fun s => s.mi.minorOverflows, counter 0xC048 4 fun s => s.mi.rekeys, counter 0xC050 4 fun s => s.mi.scrubs,
   counter 0xC058 8 fun s => s.mi.claims, counter 0xC060 8 fun s => s.mi.keyMismatch,
   counter 0xC068 8 fun s => s.mi.poisonWrites, counter 0xC070 4 fun s => s.mi.treeRepairs,
   counter 0xC078 4 fun s => s.mi.treeLost, counter 0xC080 4 fun s => s.mi.exhaustEvents,
   { off := 0xC200, width := 4, count := 128, stride := 4, read := keyidState },
   { off := 0xD000, width := 8, count := 1280, read := pcStatus }]

/-! ### Queue and Recovery windows (R381, R382, R498, R499) -/

/-- Q_INFO (R381). -/
def qInfo (s : State) (q : Nat) : Nat :=
  let x := queue s q
  x.wdog * 2 ^ 48 + x.owner * 2 ^ 32 + b2n x.live * 2 ^ 31 + kindCode x.kind * 2 ^ 29 + x.part * 2 ^ 24 + x.cls * 2 ^ 20 +
    qStateCode x.state * 2 ^ 16 + x.weight * 2 ^ 8 + min 4 x.overflow.length

/-- The window at offset 0x1_0000. REARM is the row REARM's, which says which writes succeed. -/
def queueRegs : List RegDef :=
  [{ off := 0x10000, width := 8, count := 1024, stride := 16, read := qInfo },
   { off := 0x10008, width := 4, count := 1024, stride := 16, read := fun s q => b2n (s.qu.stalled.getLsbD q) * 2,
     write := fun q w s =>
       if bitAt w.bits 1 then { s with qu := { s.qu with stalled := setBit s.qu.stalled q false } } else s },
   counter 0x14000 8 fun s => s.qu.dbDrops, counter 0x14008 8 fun s => s.qu.earlyEvents,
   counter 0x14010 4 fun s => s.qu.stallEvents, counter 0x14018 8 fun s => s.qu.rejects,
   counter 0x14020 8 fun s => s.qu.accepts]

/-- OUTSTANDING and LAST_TICK of a queue (R467, R499). -/
def progressWord (s : State) (q : Nat) : Nat :=
  let x := queue s q
  min 0xFFFF (x.outstanding + if streams x then x.tail - x.head else 0) * 2 ^ 48 + x.lastTick

/-- RC_STATUS (R498). -/
def rcStatus (s : State) : Nat :=
  let e := (s.rc.replay.map fun p => p.engine).getD 0
  e * 2 ^ 16 + b2n s.rc.replay.isSome * 2 + b2n (s.rc.current.isSome || s.rc.capture.isSome)

/-- The window at offset 0x1_8000. -/
def recoveryRegs : List RegDef :=
  [{ off := 0x18000, width := 4, read := fun s _ => s.rc.replayFrames,
     write := fun _ w s =>
       if fld w.bits 0 4 = 0 then s else { s with rc := { s.rc with replayFrames := fld w.bits 0 4 } } },
   counter 0x18008 4 rcStatus, counter 0x18040 8 fun s => s.rc.contextResets, counter 0x18048 8 fun s => s.rc.engineResets,
   counter 0x18050 8 fun s => s.rc.partitionResets, counter 0x18058 4 fun s => s.rc.chipResets,
   counter 0x18060 8 fun s => s.rc.staleDrops, counter 0x18068 4 fun s => s.rc.colTimeouts,
   counter 0x18070 4 fun s => s.rc.replayLost,
   { off := 0x19000, width := 8, count := 0x421, stride := 16, read := progressWord },
   { off := 0x19008, width := 8, count := 0x421, stride := 16, read := fun s q => (queue s q).completed }]

/-! ### Network window (R414 to R417) -/

/-- A write of NU_CTL (R8, R389, R414). -/
def nuCtl (v : Nat) (s : State) : State :=
  { s with nu := { s.nu with udpPort := portIf s.nu.enable s.nu.udpPort v,
                             chipId := if s.bnd.locked then s.nu.chipId else fld v 4 12,
                             cfgErr := s.nu.cfgErr && !bitAt v 1, enable := bitAt v 0 } }

/-- A write of NU_RETRY (R414). -/
def nuRetry (v : Nat) (s : State) : State :=
  if 5 ≤ v && v ≤ 1000 then { s with nu := { s.nu with retryUs := v } } else { s with nu := { s.nu with cfgErr := true } }

/-- A write of a port's control register (R415). -/
def portCtl (p v : Nat) (s : State) : State :=
  let mtu := fld v 16 14
  let s := modPort p (fun x => { x with enable := bitAt v 0 }) s
  if 1280 ≤ mtu && mtu ≤ 9216 then modPort p (fun x => { x with mtu := mtu }) s
  else { s with nu := { s.nu with cfgErr := true } }

/-- A write of half a peer's address: dropped with CFG_ERR while ENABLE is 1 (R416). -/
def peerAddr (c : Nat) (f : Peer → Peer) (s : State) : State :=
  if (peer s c).enable then { s with nu := { s.nu with cfgErr := true } } else setPeer c (f (peer s c)) s

/-- State codes of peers (R390). -/
def peerCode : PeerState → Nat
  | .disabled => 0
  | .negotiating => 1
  | .up => 2
  | .lost => 3
  | .incompatible => 4

/-- A peer's control word (R416). -/
def peerWord (p : Peer) : Nat :=
  b2n p.enable * 2 ^ 31 + p.port * 2 ^ 24 + (if p.state = .up then p.version else 0) * 2 ^ 20 + peerCode p.state * 2 ^ 16

/-- The window at offset 0x4_0000. -/
def networkRegs : List RegDef :=
  [{ off := 0x40000, width := 4,
     read := fun s _ => s.nu.udpPort * 2 ^ 16 + s.nu.chipId * 2 ^ 4 + b2n s.nu.cfgErr * 2 + b2n s.nu.enable,
     write := fun _ w s => nuCtl w.bits s },
   { off := 0x40008, width := 4, read := fun s _ => s.nu.retryUs, write := fun _ w s => nuRetry (fld w.bits 0 10) s },
   { off := 0x40010, width := 4, read := fun s _ => s.nu.ptpDomain * 2 ^ 8 + s.nu.ptpPort * 2 + b2n s.nu.ptpEn,
     write := fun _ w s =>
       { s with nu := { s.nu with ptpDomain := fld w.bits 8 8, ptpPort := fld w.bits 1 3, ptpEn := bitAt w.bits 0 } } },
   { off := 0x40018, width := 4, read := fun s _ => b2n s.nu.lateAbort * 2 + b2n s.nu.peerLost,
     write := fun _ w s => { s with nu := { s.nu with lateAbort := s.nu.lateAbort && !bitAt w.bits 1,
                                                      peerLost := s.nu.peerLost && !bitAt w.bits 0 } } },
   { off := 0x40100, width := 4, count := 8, stride := 0x40,
     read := fun s p => (port s p).mtu * 2 ^ 16 + b2n (port s p).linkUp * 2 + b2n (port s p).enable,
     write := fun p w s => portCtl p w.bits s },
   { off := 0x40108, width := 8, count := 8, stride := 0x40, read := fun s p => (port s p).mac,
     write := fun p w s => modPort p (fun x => { x with mac := fld w.val 0 48 }) s },
   { off := 0x40110, width := 8, count := 8, stride := 0x40, read := fun s p => (port s p).ipHi.toNat,
     write := fun p w s => modPort p (fun x => { x with ipHi := BitVec.ofNat 64 w.val }) s },
   { off := 0x40118, width := 8, count := 8, stride := 0x40, read := fun s p => (port s p).ipLo.toNat,
     write := fun p w s => modPort p (fun x => { x with ipLo := BitVec.ofNat 64 w.val }) s },
   { off := 0x40120, width := 8, count := 8, stride := 0x40, read := fun s p => (port s p).rxDrops },
   counter 0x40800 8 fun s => s.nu.txMsgs, counter 0x40808 8 fun s => s.nu.rxMsgs, counter 0x40810 8 fun s => s.nu.retransmits,
   counter 0x40818 8 fun s => s.nu.naksSent, counter 0x40820 8 fun s => s.nu.staleRole,
   counter 0x40828 8 fun s => s.nu.staleReplies, counter 0x40830 8 fun s => s.nu.versionDrops,
   counter 0x40838 8 fun s => s.nu.gatherTimeouts, counter 0x40840 4 fun s => s.nu.lateAborts,
   counter 0x40848 4 fun s => s.nu.peerLosses,
   { off := 0x50000, width := 8, count := 4096, stride := 32, read := fun s c => (peer s c).addrHi.toNat,
     write := fun c w s => peerAddr c (fun x => { x with addrHi := BitVec.ofNat 64 w.val }) s },
   { off := 0x50008, width := 8, count := 4096, stride := 32, read := fun s c => (peer s c).addrLo.toNat,
     write := fun c w s => peerAddr c (fun x => { x with addrLo := BitVec.ofNat 64 w.val }) s },
   { off := 0x50010, width := 4, count := 4096, stride := 32, read := fun s c => peerWord (peer s c),
     write := fun c w s => peerEnableSt c (BitVec.ofNat 64 w.bits) s },
   { off := 0x50018, width := 8, count := 4096, stride := 32, read := fun s c => (peer s c).lostTick }]

/-! ### Fault window (R428, R460 to R465) -/

/-- A field with a range, in a window whose dropped writes set FC_STATUS.CFG_ERR (R460, R462). -/
def fcRange (ok : Bool) (f : FaultCol → FaultCol) (s : State) : State :=
  if ok then { s with fc := f s.fc } else { s with fc := { s.fc with cfgErr := true } }

/-- FC_INJECT as it reads (R461). -/
def injectWord (i : Inject) : Nat :=
  i.count * 2 ^ 48 + i.checker * 2 ^ 40 + b2n i.pvalid * 2 ^ 37 + i.part * 2 ^ 32 + i.target * 2 ^ 16

/-- FC_SRC (R464). -/
def srcWord (r : Src) : Nat :=
  r.count * 2 ^ 48 + r.stepF * 2 ^ 37 + r.stepU * 2 ^ 34 + r.stepC * 2 ^ 31 + b2n r.inFault * 2 ^ 30 + b2n r.pendF * 2 ^ 29 +
    b2n r.pendU * 2 ^ 28 + b2n r.pendC * 2 ^ 27 + r.reactF * 2 ^ 9 + r.reactU * 2 ^ 6 + r.reactC * 2 ^ 3

/-- A write of FC_SRC: written ones acknowledge, base steps in range are taken, others set CFG_ERR (R428, R429, R464). -/
def srcWrite (u : Nat) (w : RegIn) (s : State) : State :=
  if !unitAssigned u then s
  else
    let f := fld w.val 9 3
    let u_ := fld w.val 6 3
    let c := fld w.val 3 3
    let okF := 4 ≤ f && f ≤ 5
    let okU := 1 ≤ u_ && u_ ≤ 4
    let okC := c ≤ 2
    let set := fun (r : Src) =>
      { r with pendF := r.pendF && !bitAt w.bits 29, pendU := r.pendU && !bitAt w.bits 28, pendC := r.pendC && !bitAt w.bits 27,
               reactF := if okF then f else r.reactF, reactU := if okU then u_ else r.reactU,
               reactC := if okC then c else r.reactC }
    { s with fc := { s.fc with src := tmod {} s.fc.src u set, cfgErr := s.fc.cfgErr || !(okF && okU && okC) } }

/-- The window at offset 0x8_0000, but for BBR_RECORD. -/
def faultRegs : List RegDef :=
  [{ off := 0x80000, width := 4, read := fun s _ => s.fc.quietS,
     write := fun _ w s => fcRange (fld w.bits 0 16 ≠ 0) (fun x => { x with quietS := fld w.bits 0 16 }) s },
   { off := 0x80008, width := 4, read := fun s _ => fcStatus s,
     write := fun _ w s => { s with fc := { s.fc with cfgErr := s.fc.cfgErr && !bitAt w.bits 3 } } },
   counter 0x80010 4 fun s => s.fc.recoveries, counter 0x80018 8 fun s => s.fc.records,
   { off := 0x80020, width := 4, read := fun s _ => s.fc.thresh,
     write := fun _ w s => { s with fc := { s.fc with thresh := fld w.bits 0 32 } } },
   counter 0x80028 4 fun s => s.fc.fenceEvents,
   { off := 0x80040, width := 8, read := fun s _ => injectWord s.fc.inj, write := fun _ w s => injectWrite w.val s },
   counter 0x80048 8 fun s => s.fc.inj.remaining * 2 ^ 48 + statusCode s.fc.inj.status,
   counter 0x80060 8 fun s => s.fc.newest,
   counter 0x80068 4 fun s => b2n s.fc.noMirror * 4 + b2n s.fc.copy640 * 2 + b2n s.fc.copy0,
   { off := 0x80080, width := 4, read := fun s _ => s.fc.closeFrames,
     write := fun _ w s =>
       let v := fld w.bits 0 13
       fcRange (1 ≤ v && v ≤ 4096) (fun x => { x with closeFrames := v }) s },
   counter 0x80088 4 fun s => s.fc.cmps.length, counter 0x80090 8 fun s => s.fc.decided,
   counter 0x80098 8 fun s => s.fc.lateNotes, counter 0x800A0 8 fun s => s.fc.noEntry,
   { off := 0x800A8, width := 4, read := fun s _ => s.fc.periodFrames,
     write := fun _ w s =>
       let v := fld w.bits 0 13
       fcRange (1 ≤ v && v ≤ 4096) (fun x => { x with periodFrames := v }) s },
   { off := 0x80100, width := 4, count := 32, stride := 4, read := fun s n => tget 0 s.fc.redMask n,
     write := fun n w s => { s with fc := { s.fc with redMask := tput s.fc.redMask n (fld w.bits 0 16) } } },
   { off := 0x80200, width := 8, count := 5, read := fun s i => fld s.fc.fenced.toNat (64 * i) 64,
     write := fun i w s => unfenceWrite i w.bits s },
   { off := 0x80300, width := 8, count := 12, read := fun s i => tget 0 s.fc.ceLlc i }, counter 0x80360 8 fun s => s.fc.ceHost,
   { off := 0x80380, width := 4, count := 20, stride := 4, read := fun s i => tget 0 s.fc.ceStack i },
   { off := 0x80400, width := 4, count := 64, stride := 4, read := fun s t => tget 0 s.fc.ceTile t },
   { off := 0x81000, width := 4, count := 1280, stride := 4, read := fun s p => tget 0 s.fc.ceMem p },
   { off := 0x88000, width := 8, count := 4096,
     read := fun s u => if unitAssigned u then srcWord (tget {} s.fc.src u) else 0, write := srcWrite }]

/-- The physical function's registers, but for BBR_RECORD (R558, R566). -/
def pfRegs : List RegDef :=
  boundaryRegs ++ admRegs 0x1000 .pf ++ frameRegs ++ intakeRegs ++ coherenceRegs ++ translationRegs ++ trustRegs ++
    healthRegs ++ lreRegs ++ integrityRegs ++ queueRegs ++ recoveryRegs ++ networkRegs ++ faultRegs

/-! ### The virtual functions' windows (R347, R379, R418, R500, R538, R561) -/

/-- The doorbell window of virtual function `n`: offsets 0x00, 0x08, 0x10 and 0x14 of each slot. -/
def slotRegs (n : Nat) : List RegDef :=
  let mine := fun (s : State) (q : Nat) => showsQueue s (.vf n) q
  [{ off := 0x00, width := 8, count := 1024, stride := 64, read := fun _ _ => 0,
     write := fun q w s => doorbellSt (.vf n) q w.size (BitVec.ofNat 64 w.bits) s },
   { off := 0x08, width := 8, count := 1024, stride := 64, read := fun s q => if mine s q then queueWord s q else 0,
     write := fun q _ s => if mine s q then s else dropDoorbell s },
   { off := 0x10, width := 4, count := 1024, stride := 64, read := fun s q => if mine s q then (queue s q).cqHead else 0,
     write := fun q w s => cqHeadSt (.vf n) q (BitVec.ofNat 32 w.bits) s },
   { off := 0x14, width := 4, count := 1024, stride := 64,
     read := fun s q => if mine s q then (queue s q).records % 2 ^ 32 else 0,
     write := fun q _ s => if mine s q then s else dropDoorbell s }]

/-- A write of a Translation register: dropped with CFG_ERR unless allowed (R347). -/
def tuWrite (n : Nat) (ok : Bool) (f : VfTu → VfTu) (s : State) : State :=
  modVfTu n (fun t => if ok then f t else { t with cfgErr := true }) s

/-- The Translation window of virtual function `n`. A TU_ANSWER that says retry is the row TU_ANSWER_RETRY's, which says what
the retry reads. -/
def vfTuRegs (n : Nat) : List RegDef :=
  let free := fun (s : State) => queueCount s n == 0
  [{ off := 0x11000, width := 8, read := fun s _ => (vfTu s n).ptRoot,
     write := fun _ w s => tuWrite n (free s) (fun t => { t with ptRoot := fld w.val 11 45 * 2 ^ 11 }) s },
   { off := 0x11008, width := 8, read := fun s _ => (vfTu s n).objBase,
     write := fun _ w s => tuWrite n (free s) (fun t => { t with objBase := fld w.val 12 44 * 2 ^ 12 }) s },
   { off := 0x11010, width := 4, read := fun s _ => (vfTu s n).objCount,
     write := fun _ w s =>
       let v := fld w.bits 0 21
       tuWrite n (free s && v ≤ 2 ^ 20) (fun t => { t with objCount := v }) s },
   { off := 0x11018, width := 8, read := fun s _ => (vfTu s n).syncArea,
     write := fun _ w s =>
       tuWrite n (syncCount s n == 0 && !bitAt w.val 56) (fun t => { t with syncArea := fld w.val 12 45 * 2 ^ 12, syncXlat := [] })
         s },
   { off := 0x11020, width := 8, read := fun s _ => (vfTu s n).evqBase + (vfTu s n).evqLog2,
     write := fun _ w s =>
       let l := fld w.val 0 5
       tuWrite n (free s && 6 ≤ l && l ≤ 16) (fun t => { t with evqBase := fld w.val 12 44 * 2 ^ 12, evqLog2 := l }) s },
   { off := 0x11028, width := 4, read := fun s _ => (vfTu s n).evqHead,
     write := fun _ w s => evqHeadSt n (BitVec.ofNat 32 w.bits) s },
   counter 0x1102C 4 fun s => (vfTu s n).evqTail,
   { off := 0x11030, width := 8, read := fun _ _ => 0,
     write := fun _ w s => if w.size = 8 && bitAt w.bits 63 then answerFailSt n (fld w.bits 0 48) s else s },
   { off := 0x11038, width := 4, read := fun s _ => b2n (!(vfTu s n).waiting.isEmpty) * 2 + b2n (vfTu s n).cfgErr,
     write := fun _ w s => modVfTu n (fun t => { t with cfgErr := t.cfgErr && !bitAt w.bits 0 }) s },
   counter 0x11040 4 fun s => (pinned s n).length, counter 0x11044 4 fun s => pinLimit s n]

/-- A job slot's record. -/
def jobOf (s : State) (n j : Nat) : Job := tget {} s.nu.jobs (pkey 5 n j)

/-- A write of a job's field is dropped while the slot is ACTIVE or ABORTING (R401). -/
def jobField (n j : Nat) (f : Job → Job) (s : State) : State :=
  let x := jobOf s n j
  if x.state = .active || x.state = .aborting then s else setJob n j (f x) s

/-- State codes of job slots (R418). -/
def jobCode : JobState → Nat
  | .free => 0
  | .active => 1
  | .aborting => 2
  | .aborted => 3

/-- The Network window of a virtual function changed. -/
def modVfNu (n : Nat) (f : VfNu → VfNu) (s : State) : State := { s with nu := { s.nu with vfs := tmod {} s.nu.vfs n f } }

/-- The Network window of virtual function `n`. LOAD of a job or of an export table is its row's, which says what the load
reads. -/
def vfNuRegs (n : Nat) : List RegDef :=
  let v := fun (s : State) => (tget {} s.nu.vfs n : VfNu)
  [{ off := 0x12000, width := 4, count := 32, stride := 32, read := fun s j => (jobOf s n j).id,
     write := fun j w s => jobField n j (fun x => { x with id := fld w.bits 0 32 }) s },
   { off := 0x12004, width := 4, count := 32, stride := 32, read := fun s j => (jobOf s n j).gen,
     write := fun j w s => jobField n j (fun x => { x with gen := fld w.bits 0 16 }) s },
   { off := 0x12008, width := 8, count := 32, stride := 32, read := fun s j => (jobOf s n j).members,
     write := fun j w s => jobField n j (fun x => { x with members := fld w.val 0 57 }) s },
   { off := 0x12010, width := 4, count := 32, stride := 32, read := fun s j => (jobOf s n j).count,
     write := fun j w s => jobField n j (fun x => { x with count := fld w.bits 0 13 }) s },
   { off := 0x12014, width := 4, count := 32, stride := 32, read := fun s j => jobCode (jobOf s n j).state * 8,
     write := fun j w s =>
       let s := if bitAt w.bits 1 then slotAbortSt n j s else s
       if bitAt w.bits 2 then jobCloseSt n j s else s },
   { off := 0x12018, width := 8, count := 32, stride := 32,
     read := fun s j => statusCode (jobOf s n j).status * 2 ^ 48 + (jobOf s n j).tick },
   { off := 0x12400, width := 8, read := fun s _ => (v s).exportBase,
     write := fun _ w s => modVfNu n (fun x => { x with exportBase := fld w.val 0 57 }) s },
   { off := 0x12408, width := 4,
     read := fun s _ => statusCode (v s).exportStatus * 2 ^ 16 + (v s).exportIndex * 2 ^ 8 + (v s).exportCount,
     write := fun _ w s => modVfNu n (fun x => { x with exportCount := fld w.bits 0 7 }) s },
   counter 0x12410 8 fun s => (v s).staleEpoch * 2 ^ 32 + (v s).stalePart * 2 ^ 24 + (v s).staleChip]

/-- The Identity window of virtual function `n` (R561). -/
def identityRegs (n : Nat) : List RegDef :=
  capRegs 0x13000 ++
  [counter 0x13040 4 fun s => b2n (hasHand s.ps.active n) * 32 + n,
   { off := 0x13048, width := 4,
     read := fun s _ => b2n (tget (false, 0) s.qu.evqCtl n).1 * 64 + (tget (false, 0) s.qu.evqCtl n).2,
     write := fun _ w s => { s with qu := { s.qu with evqCtl := tput s.qu.evqCtl n (bitAt w.bits 6, fld w.bits 0 6) } } }]

/-- The Trust window of virtual function `n`, but for the hand report page (R538). -/
def vfTcRegs (n : Nat) : List RegDef :=
  let t := fun (s : State) => (tget {} s.tc.vfs n : VfTc)
  [{ off := 0x15000, width := 8, read := fun s _ => (t s).signAddr,
     write := fun _ w s => modVfTc n (fun x => { x with signAddr := fld w.val 0 57 }) s },
   { off := 0x15008, width := 8, count := 4, read := fun s i => fld (t s).nonce.toNat (64 * i) 64,
     write := fun i w s =>
       modVfTc n (fun x => { x with nonce := BitVec.ofNat 256 (setFld x.nonce.toNat (64 * i) 64 w.val) }) s },
   { off := 0x15028, width := 4,
     read := fun s _ => statusCode (t s).status * 2 ^ 16 + b2n (t s).cmdErr * 4 + b2n (t s).busy * 2,
     write := fun _ w s =>
       let s := modVfTc n (fun x => { x with cmdErr := x.cmdErr && !bitAt w.bits 2 }) s
       if bitAt w.bits 0 then signSt n s else s },
   { off := 0x15030, width := 8, read := fun s _ => (t s).tenantKeys,
     write := fun _ w s => tenantWriteSt n 0x1030 8 (BitVec.ofNat 64 w.val) s },
   { off := 0x15038, width := 4, read := fun s _ => (t s).tenantCount,
     write := fun _ w s => tenantWriteSt n 0x1038 4 (BitVec.ofNat 64 w.bits) s }]

/-- The Recovery window of virtual function `n` (R500). A write of RC_DUMP_BASE is the row DUMP_BASE_WRITE's, which says what
its walk reads. -/
def vfRcRegs (n : Nat) : List RegDef :=
  let mine := fun (s : State) (q : Nat) => (queue s q).live && (queue s q).part == n && (q < 1024 || q == 0x400 + n)
  [counter 0x18000 8 fun s => tget 0 s.rc.dumpBase n,
   counter 0x18008 8 fun s => statusCode (tget .ok s.rc.dumpStatus n) * 2 ^ 48 + tget 0 s.rc.dumpTick n,
   { off := 0x19000, width := 8, count := 0x421, stride := 16, read := fun s q => if mine s q then progressWord s q else 0 },
   { off := 0x19008, width := 8, count := 0x421, stride := 16,
     read := fun s q => if mine s q then (queue s q).completed else 0 }]

/-- Virtual function `n`'s registers, but for the hand report page (R560, R566). -/
def vfRegs (n : Nat) : List RegDef :=
  slotRegs n ++ admRegs 0x10000 (.vf n) ++ vfTuRegs n ++ vfNuRegs n ++ identityRegs n ++ vfTcRegs n ++ vfRcRegs n

/-- A function's registers. -/
def regsOf : Fn → List RegDef
  | .pf => pfRegs
  | .vf n => vfRegs n

/-! ### Access (R31, R33, R562) -/

/-- The register that holds the byte at an offset, its index, and the byte's place in it. -/
def regAt (l : List RegDef) (off : Nat) : Option (RegDef × Nat × Nat) :=
  l.findSome? fun r =>
    let d := off - r.off
    if r.off ≤ off && d / r.stride < r.count && d % r.stride < r.width then some (r, d / r.stride, d % r.stride) else none

/-- An access that R562 allows: a whole register, or a half of a 64-bit one. -/
def accessFits (r : RegDef) (o size : Nat) : Bool :=
  (o == 0 && size == r.width) || (r.width == 8 && size == 4 && (o == 0 || o == 4))

/-- Some byte of an access lies in a register. -/
def touchesReg (l : List RegDef) (off size : Nat) : Bool := (List.range size).any fun i => (regAt l (off + i)).isSome

/-- The window without access rules of size: BBR_RECORD, and a hand report page (R465, R533, R562). -/
def inRecords (fn : Fn) (off : Nat) : Bool :=
  match fn with
  | .pf => 0x90000 ≤ off && off < 0xD0000
  | .vf _ => 0x14000 ≤ off && off < 0x15000

/-- BAR_BAD_ACCESS counts an access (R562, R563). -/
def countBadAccess (s : State) : State := { s with bnd := { s.bnd with badAccess := satAdd 64 s.bnd.badAccess 1 } }

/-- A write as a register sees it. -/
def regIn (old o size : Nat) (v : Word) : RegIn :=
  let bits := v.toNat % 2 ^ (8 * size) * 2 ^ (8 * o)
  { bits := bits, val := setFld old (8 * o) (8 * size) v.toNat, size := size }

/-- A write that reaches the BAR of a ready function. -/
def writeReg (fn : Fn) (off size : Nat) (v : Word) (s : State) : State :=
  let l := regsOf fn
  if inRecords fn off then s
  else
    match regAt l off with
    | some (r, i, o) =>
      if accessFits r o size then r.write i (regIn (r.read s i) o size v) s else countBadAccess s
    | none =>
      if touchesReg l off size then countBadAccess s
      else if fn ≠ .pf && off < 0x10000 && !showsQueue s fn (off / 64) then dropDoorbell s
      else s

/-- The offset is a doorbell's: DOORBELL of a slot, or ADMQ_DOORBELL (R379, R380). -/
def isDoorbell (fn : Fn) (off : Nat) : Bool :=
  match fn with
  | .pf => 0x1018 ≤ off && off < 0x1020
  | .vf _ => (off < 0x10000 && off % 64 < 8) || (0x10018 ≤ off && off < 0x10020)

/-- REGISTER_WRITE: a write to a BAR (R31, R33, R562). While the function is not ready it is dropped, and a doorbell write is
counted. -/
def registerSt (fn : Fn) (off size : Nat) (v : Word) (s : State) : State :=
  if !s.bnd.powered || !fnExists s fn then s
  else if fnReady s fn then writeReg fn off size v s
  else if isDoorbell fn off then dropDoorbell s
  else s

/-- REGISTER_WRITE. -/
def execRegisterWrite (fn : Fn) (off size : Nat) (value : Word) (s : State) (tbit : Bool := false) : Host.Outcome State Fault Refusal :=
  .next (settle (atBar fn tbit (registerSt fn off size value) s))

/-! ### Reads -/

/-- All ones, as many bytes as were asked for (R31, R562). -/
def allOnes (size : Nat) : Nat := 2 ^ (8 * size) - 1

/-- Bytes of BBR_RECORD or of a hand report page (R465, R533). -/
def recordBytes (s : State) (fn : Fn) (off size : Nat) : Nat :=
  match fn with
  | .pf =>
    let i := (off - 0x90000) / 64
    match s.fc.bbr.find? fun r => r.seq % 4096 == i with
    | none => 0
    | some r => leNat (((recBytes r).drop (off % 64)).take size)
  | .vf n => leNat (((pageBytes n (tget {} s.tc.hr n)).drop (off - 0x14000)).take size)

/-- What a BAR read returns, and the state after it: a refused access is counted (R31, R33, R562). No row of the table is a
register read; this is what software sees. -/
def barRead (s : State) (fn : Fn) (off size : Nat) : Nat × State :=
  let early := fn = .pf && (off = 0x000 || off = 0x008) && size = 4
  if !fnExists s fn || !(fnReady s fn || early) then (allOnes size, s)
  else if inRecords fn off then
    if off % 64 + size ≤ 64 then (recordBytes s fn off size, s) else (allOnes size, countBadAccess s)
  else
    match regAt (regsOf fn) off with
    | some (r, i, o) =>
      if accessFits r o size then (fld (r.read s i) (8 * o) (8 * size), s) else (allOnes size, countBadAccess s)
    | none => if touchesReg (regsOf fn) off size then (allOnes size, countBadAccess s) else (0, s)

end Sys2Proof.Machine
end

