-- ==== Sys2Proof/Machine/Dispatch.lean ====
section
/-!
DEFINITION. What each command does: one arm per constructor of `Instr`, each one call of its meaning.
-/
namespace Sys2Proof.Machine
open Sys2Proof

def exec (i : Instr) (s : State) : Host.Outcome State Fault Refusal :=
  match i with
  | .powerUp => Sys2Proof.Machine.execPowerUp s
  | .powerRemoved => Sys2Proof.Machine.execPowerRemoved s
  | .fundamentalReset => Sys2Proof.Machine.execFundamentalReset s
  | .configurationRequest op => Sys2Proof.Machine.execConfigurationRequest op s
  | .tcBoot romDigest => Sys2Proof.Machine.execTcBoot romDigest s
  | .fwVerify flash => Sys2Proof.Machine.execFwVerify flash s
  | .keys selfTestOk chains => Sys2Proof.Machine.execKeys selfTestOk chains s
  | .memTrain failed held retentionOk bbrOk mirrorOk => Sys2Proof.Machine.execMemTrain failed held retentionOk bbrOk mirrorOk s
  | .memInit mismatch => Sys2Proof.Machine.execMemInit mismatch s
  | .dirInit diesOk dirOk => Sys2Proof.Machine.execDirInit diesOk dirOk s
  | .time => Sys2Proof.Machine.execTime s
  | .stageBoundExpiry check => Sys2Proof.Machine.execStageBoundExpiry check s
  | .chipReset => Sys2Proof.Machine.execChipReset s
  | .preparationTimeout => Sys2Proof.Machine.execPreparationTimeout s
  | .getBootStatus => Sys2Proof.Machine.execGetBootStatus s
  | .getFaultSummary => Sys2Proof.Machine.execGetFaultSummary s
  | .clearErrPin => Sys2Proof.Machine.execClearErrPin s
  | .requestChipReset => Sys2Proof.Machine.execRequestChipReset s
  | .ackPowerCycle => Sys2Proof.Machine.execAckPowerCycle s
  | .mctpOtherCode code => Sys2Proof.Machine.execMctpOtherCode code s
  | .powerCycleRequestRepeat => Sys2Proof.Machine.execPowerCycleRequestRepeat s
  | .errpinClear => Sys2Proof.Machine.execErrpinClear s
  | .functionLevelResetVf n => Sys2Proof.Machine.execFunctionLevelResetVf n s
  | .functionLevelResetPf => Sys2Proof.Machine.execFunctionLevelResetPf s
  | .registerWrite fn off size value tbit => Sys2Proof.Machine.execRegisterWrite fn off size value s tbit
  | .tgPeriod value => Sys2Proof.Machine.execTgPeriod value s
  | .tickOrigin off size value => Sys2Proof.Machine.execTickOrigin off size value s
  | .lock => Sys2Proof.Machine.execLock s
  | .tick health => Sys2Proof.Machine.execTick health s
  | .fabricPresentRise => Sys2Proof.Machine.execFabricPresentRise s
  | .slotBoundary => Sys2Proof.Machine.execSlotBoundary s
  | .commit differ => Sys2Proof.Machine.execCommit differ s
  | .sweepVisit visit => Sys2Proof.Machine.execSweepVisit visit s
  | .scrubEnd pc => Sys2Proof.Machine.execScrubEnd pc s
  | .waySweepEnd slice way => Sys2Proof.Machine.execWaySweepEnd slice way s
  | .flushWalkEnd => Sys2Proof.Machine.execFlushWalkEnd s
  | .memoryDataReturn pc block step uncorrectable way parity => Sys2Proof.Machine.execMemoryDataReturn pc block step uncorrectable way parity s
  | .verificationDone pc block result => Sys2Proof.Machine.execVerificationDone pc block result s
  | .faultStateExit unit => Sys2Proof.Machine.execFaultStateExit unit s
  | .engineShareComplete step engine share => Sys2Proof.Machine.execEngineShareComplete step engine share s
  | .ptpSync port domain twoStep origin parity => Sys2Proof.Machine.execPtpSync port domain twoStep origin parity s
  | .ptpFollowUp port domain origin parity => Sys2Proof.Machine.execPtpFollowUp port domain origin s parity
  | .ptpDelayResp port domain received parity => Sys2Proof.Machine.execPtpDelayResp port domain received s parity
  | .check deal cancel => Sys2Proof.Machine.execCheck deal cancel s
  | .cancel deal => Sys2Proof.Machine.execCancel deal s
  | .planCheckDone image resultOk => Sys2Proof.Machine.execPlanCheckDone image resultOk s
  | .psHold value => Sys2Proof.Machine.execPsHold value s
  | .holdRecall part => Sys2Proof.Machine.execHoldRecall part s
  | .request msg => Sys2Proof.Machine.execRequest msg s
  | .deadlineExpiry part index => Sys2Proof.Machine.execDeadlineExpiry part index s
  | .sHello msg => Sys2Proof.Machine.execSHello msg s
  | .sFinish msg => Sys2Proof.Machine.execSFinish msg s
  | .agreementTimeout session => Sys2Proof.Machine.execAgreementTimeout session s
  | .tenantKeysWrite part off size value tbit => Sys2Proof.Machine.execTenantKeysWrite part off size value s tbit
  | .doorbell fn queue size value tbit => Sys2Proof.Machine.execDoorbell fn queue size value s tbit
  | .tagReread queue tag => Sys2Proof.Machine.execTagReread queue tag s
  | .descriptorReadFail queue poisoned => Sys2Proof.Machine.execDescriptorReadFail queue poisoned s
  | .unassignedOpcode f => Sys2Proof.Machine.execUnassignedOpcode f s
  | .nop f => Sys2Proof.Machine.execNop f s
  | .cond f => Sys2Proof.Machine.execCond f s
  | .loop f => Sys2Proof.Machine.execLoop f s
  | .jump f => Sys2Proof.Machine.execJump f s
  | .waitSync f => Sys2Proof.Machine.execWaitSync f s
  | .signalSync f => Sys2Proof.Machine.execSignalSync f s
  | .loadParam f => Sys2Proof.Machine.execLoadParam f s
  | .tileStep f => Sys2Proof.Machine.execTileStep f s
  | .lrePool f => Sys2Proof.Machine.execLrePool f s
  | .lrePqscan f => Sys2Proof.Machine.execLrePqscan f s
  | .lreUpdate f => Sys2Proof.Machine.execLreUpdate f s
  | .copy f => Sys2Proof.Machine.execCopy f s
  | .prefetch f => Sys2Proof.Machine.execPrefetch f s
  | .advise f => Sys2Proof.Machine.execAdvise f s
  | .remoteGather f => Sys2Proof.Machine.execRemoteGather f s
  | .digest f => Sys2Proof.Machine.execDigest f s
  | .map f => Sys2Proof.Machine.execMap f s
  | .unmap f => Sys2Proof.Machine.execUnmap f s
  | .objRef f => Sys2Proof.Machine.execObjRef f s
  | .objUnref f => Sys2Proof.Machine.execObjUnref f s
  | .ckpt f => Sys2Proof.Machine.execCkpt f s
  | .createQueue f => Sys2Proof.Machine.execCreateQueue f s
  | .destroyQueue f => Sys2Proof.Machine.execDestroyQueue f s
  | .contextRevoke f => Sys2Proof.Machine.execContextRevoke f s
  | .resetContext f => Sys2Proof.Machine.execResetContext f s
  | .resetEngine f => Sys2Proof.Machine.execResetEngine f s
  | .resetPartition f => Sys2Proof.Machine.execResetPartition f s
  | .resetChip f => Sys2Proof.Machine.execResetChip f s
  | .flushKeyid f => Sys2Proof.Machine.execFlushKeyid f s
  | .retireKeyid f => Sys2Proof.Machine.execRetireKeyid f s
  | .dump f => Sys2Proof.Machine.execDump f s
  | .captureComplete => Sys2Proof.Machine.execCaptureComplete s
  | .colReadTimeout unit => Sys2Proof.Machine.execColReadTimeout unit s
  | .killAckTimeout => Sys2Proof.Machine.execKillAckTimeout s
  | .recallWalkEnd part => Sys2Proof.Machine.execRecallWalkEnd part s
  | .quietIntervalEnd => Sys2Proof.Machine.execQuietIntervalEnd s
  | .replayHang => Sys2Proof.Machine.execReplayHang s
  | .dumpBaseWrite part off size value host tbit => Sys2Proof.Machine.execDumpBaseWrite part off size value host s tbit
  | .completionWriteFail queue => Sys2Proof.Machine.execCompletionWriteFail queue s
  | .rearm queue writesOk => Sys2Proof.Machine.execRearm queue writesOk s
  | .cqHeadWrite fn queue value tbit => Sys2Proof.Machine.execCqHeadWrite fn queue value s tbit
  | .admqEnable fn tbit => Sys2Proof.Machine.execAdmqEnable fn s tbit
  | .evqHeadWrite part value tbit => Sys2Proof.Machine.execEvqHeadWrite part value s tbit
  | .tuAnswerRetry part seq host ats tbit => Sys2Proof.Machine.execTuAnswerRetry part seq host ats s tbit
  | .tuAnswerFail part seq tbit => Sys2Proof.Machine.execTuAnswerFail part seq s tbit
  | .atsTranslationCompletion queue answer host => Sys2Proof.Machine.execAtsTranslationCompletion queue answer host s
  | .pageRequestGroupResponse queue success => Sys2Proof.Machine.execPageRequestGroupResponse queue success s
  | .atsInvalidateRequest fn base size => Sys2Proof.Machine.execAtsInvalidateRequest fn base size s
  | .invalidateCompletion fn base size => Sys2Proof.Machine.execInvalidateCompletion fn base size s
  | .rds m => Sys2Proof.Machine.execRds m s
  | .rdu m => Sys2Proof.Machine.execRdu m s
  | .upg m => Sys2Proof.Machine.execUpg m s
  | .atom m data step parity => Sys2Proof.Machine.execAtom m data step parity s
  | .wbm m data parity => Sys2Proof.Machine.execWbm m data parity s
  | .wbc m data parity => Sys2Proof.Machine.execWbc m data parity s
  | .respI m => Sys2Proof.Machine.execRespI m s
  | .respS m => Sys2Proof.Machine.execRespS m s
  | .respIData m data parity => Sys2Proof.Machine.execRespIData m data parity s
  | .respSData m data parity => Sys2Proof.Machine.execRespSData m data parity s
  | .stashAck fields addr => Sys2Proof.Machine.execStashAck fields addr s
  | .stepCompletion tile gen step status => Sys2Proof.Machine.execStepCompletion tile gen step status s
  | .killAcknowledgement unit gen step => Sys2Proof.Machine.execKillAcknowledgement unit gen step s
  | .snoopTimeout tile => Sys2Proof.Machine.execSnoopTimeout tile s
  | .hostMemoryRead a => Sys2Proof.Machine.execHostMemoryRead a s
  | .hostMemoryWrite a data stash => Sys2Proof.Machine.execHostMemoryWrite a data stash s
  | .pcieAtomicOp a kind wide quad operand compare => Sys2Proof.Machine.execPcieAtomicOp a kind wide quad operand compare s
  | .debugRequest cap part dpa data => Sys2Proof.Machine.execDebugRequest cap part dpa data s
  | .linkUp port => Sys2Proof.Machine.execLinkUp port s
  | .ingressDrop port => Sys2Proof.Machine.execIngressDrop port s
  | .hello port addr msg => Sys2Proof.Machine.execHello port addr msg s
  | .helloAck port addr udp msg => Sys2Proof.Machine.execHelloAck port addr udp msg s
  | .heartbeat port addr udp msg => Sys2Proof.Machine.execHeartbeat port addr udp msg s
  | .peerLoss chip => Sys2Proof.Machine.execPeerLoss chip s
  | .peerEnable chip value => Sys2Proof.Machine.execPeerEnable chip value s
  | .gatherReq port msg => Sys2Proof.Machine.execGatherReq port msg s
  | .gatherReply port msg => Sys2Proof.Machine.execGatherReply port msg s
  | .digestNote port msg => Sys2Proof.Machine.execDigestNote port msg s
  | .jobAbort port addr udp msg => Sys2Proof.Machine.execJobAbort port addr udp msg s
  | .abortAck msg => Sys2Proof.Machine.execAbortAck msg s
  | .nak port addr udp dst msg => Sys2Proof.Machine.execNak port addr udp dst msg s
  | .retransmit tag => Sys2Proof.Machine.execRetransmit tag s
  | .jobLoad part slot host tbit => Sys2Proof.Machine.execJobLoad part slot host s tbit
  | .jobClose part slot tbit => Sys2Proof.Machine.execJobClose part slot s tbit
  | .jobSlotAbort part slot tbit => Sys2Proof.Machine.execJobSlotAbort part slot s tbit
  | .abortTick part slot => Sys2Proof.Machine.execAbortTick part slot s
  | .exportLoad part count host tbit => Sys2Proof.Machine.execExportLoad part count host s tbit
  | .comparisonClose part slot rangeId periodTick => Sys2Proof.Machine.execComparisonClose part slot rangeId periodTick s
  | .injectArm value => Sys2Proof.Machine.execInjectArm value s
  | .injectCancel value => Sys2Proof.Machine.execInjectCancel value s
  | .unfence index value => Sys2Proof.Machine.execUnfence index value s
  | .certLoad revoke => Sys2Proof.Machine.execCertLoad revoke s
  | .certCheckDone cert => Sys2Proof.Machine.execCertCheckDone cert s
  | .certRevoke => Sys2Proof.Machine.execCertRevoke s
  | .sign part tbit => Sys2Proof.Machine.execSign part s tbit
  | .signedCopyComplete part host => Sys2Proof.Machine.execSignedCopyComplete part host s
  | .getVersion => Sys2Proof.Machine.execGetVersion s
  | .getCapabilities => Sys2Proof.Machine.execGetCapabilities s
  | .negotiateAlgorithms ecdsa sha group aead => Sys2Proof.Machine.execNegotiateAlgorithms ecdsa sha group aead s
  | .getDigests => Sys2Proof.Machine.execGetDigests s
  | .getCertificate slot => Sys2Proof.Machine.execGetCertificate slot s
  | .challenge slot r => Sys2Proof.Machine.execChallenge slot r s
  | .getMeasurements r => Sys2Proof.Machine.execGetMeasurements r s
  | .keyExchange r => Sys2Proof.Machine.execKeyExchange r s
  | .finish r => Sys2Proof.Machine.execFinish r s
  | .endSession => Sys2Proof.Machine.execEndSession s
  | .vendorDefinedRequest r => Sys2Proof.Machine.execVendorDefinedRequest r s
  | .lockInterfaceRequest n => Sys2Proof.Machine.execLockInterfaceRequest n s
  | .stopInterfaceRequest n => Sys2Proof.Machine.execStopInterfaceRequest n s
  | .targetMhz value => Sys2Proof.Machine.execTargetMhz value s
  | .fieldTestStart value => Sys2Proof.Machine.execFieldTestStart value s
  | .fieldTestAbort => Sys2Proof.Machine.execFieldTestAbort s
  | .fieldTestEnd fail failIndex failChains tempShort => Sys2Proof.Machine.execFieldTestEnd fail failIndex failChains tempShort s
  | .rescan => Sys2Proof.Machine.execRescan s
  | .rescanEnd pkgP pkgQ => Sys2Proof.Machine.execRescanEnd pkgP pkgQ s
  | .startInterfaceRequest n => Sys2Proof.Machine.execStartInterfaceRequest n s
  | .linkDown port => Sys2Proof.Machine.execLinkDown port s

end Sys2Proof.Machine
end

