-- ==== Sys2Proof/Machine/Stored.lean ====
section
/-!
DEFINITION. What external memory holds beside plaintext, as functions of the state: ciphertext and block tags, and the
places of tags and of mirrored fault records (R282, R285, R286, R458).
-/
namespace Sys2Proof.Machine
open Sys2Proof

/-- The 64 stored bytes of line `k`: ciphertext, or zeros for a poisoned line (R284, R285). -/
def storedLine (s : State) (k : Nat) : Line :=
  let p := linePc k
  let i := lineNo k
  let b := cblock s p (groupOf i)
  let m := tget 0 b.minors (i % 64)
  if m = 0x7F then 0
  else
    let key := dataKey s (granuleKey b i) p b.gen
    let pad := (List.range 4).flatMap fun q => beBytes (Config.aes256 key (ctrInput b.major m i q)).toNat 16
    plainLine s k ^^^ lineOf pad

/-- The tag of block `block` of PC `p` (R286). -/
def blockTag (s : State) (p block : Nat) : Nat :=
  let b := cblock s p (groupOf (4 * block))
  let k := granuleKey b (4 * block)
  let bytes := (List.range 4).flatMap fun j => lineBytes (storedLine s (lineKey p (4 * block + j)))
  let ws := (List.range 32).map fun n => leNat ((bytes.drop (8 * n)).take 8)
  polyHash (hashKey s k p b.gen) ws ^^^ (Config.aes256 (padKey s k p b.gen) (tagNonce b block)).toNat % 2 ^ 64

/-- Where the tag of a block stands (R282). -/
def tagLoc (p block : Nat) : Nat := memLoc p (0x3C000000 + 8 * block)

/-- Where the mirror of a fault record stands in PC `p`, 0 or 640, and its 64 bytes there, in plaintext (R282, R458). -/
def bbrMirrorAt (p : Nat) (r : FRec) : Nat × List Byte := (memLoc p (0x3F300000 + 64 * (r.seq % 4096)), recBytes r)

end Sys2Proof.Machine
end

