-- ==== Sys2Proof/Safety.lean ====
section
/-!
DEFINITION. What a safe run is: no step stops, so a run is safe when every step of it answers a next state. Then what
every step keeps: the legal machine (the ranges the register pages and chapters 2, 11, 14 and 15 set, memory in its
canonical form, OTP that only gains bits) and the groups of state that only named commands change.
-/
namespace Sys2Proof

/-- The step of `s` answers a next state. -/
def goesOn (s : Machine.State) : Bool :=
  match Machine.step s with
  | .next _ => true
  | .fault _ => false
  | .refused _ => false

namespace Machine

/-- A context stands for something: LIVE, it has an object or a queue or command; revoked, it has an object (R333, R377). -/
def contextStands (s : State) (i : Nat) : Bool :=
  match ctxState s (i / 2 ^ 16) (i % 2 ^ 16) with
  | .live => ownsObject s (i / 2 ^ 16) (i % 2 ^ 16) || ctxBusy s (i / 2 ^ 16) (i % 2 ^ 16)
  | .revoked => ownsObject s (i / 2 ^ 16) (i % 2 ^ 16)
  | _ => true

/-- Nothing follows at once from what has happened: no reset, destroy or revoke is in progress or waits, no request of a tile, no
load, no OUTPUT and no step waits for what is in, no lost context still has a step, a signal or a queue, no retirement runs, no
context stands without anything left, and no job slot is closing (R258, R307, R333, R334, R401, R475). -/
structure Quiet (s : State) : Prop where
  /-- No reset is in progress. -/
  current : s.rc.current = none
  /-- No reset waits. -/
  waiting : s.rc.waiting = []
  /-- No destroy or revoke is in progress. -/
  works : s.rc.works = []
  /-- Lost contexts have no step left to kill. -/
  steps : s.steps.all (fun t => !isLost s t.part t.ctx || t.judge || t.gather.isSome || t.phase == .killed) = true
  /-- Lost contexts have no signal left. -/
  signals : s.qu.signals.all (fun g => g.gone || !isLost s g.part g.ref.ctx) = true
  /-- Persistent and intake queues of lost contexts have stopped. -/
  queues : s.qu.qs.all (fun p => !(p.2.live && (p.2.kind == .persistent || p.2.kind == .intake) && p.2.state != .lost &&
    p.2.state != .destroying && !p.2.stopping && isLost s p.2.part p.2.owner)) = true
  /-- No job slot is closing. -/
  jobs : s.nu.jobs.any (fun p => p.2.closing) = false
  /-- No request of a tile was back-pressured. -/
  backed : s.coh.backed = []
  /-- No step's awaited lines are all in. -/
  awaiting : s.steps.any (fun t => t.awaiting && t.asked == []) = false
  /-- No request's OUTPUT is being read. -/
  outputs : s.ac.reqs.any (fun r => r.reading && r.state != .done) = false
  /-- No load waits. -/
  loads : s.loads = []
  /-- No key ID is RETIRING. -/
  keys : s.mi.keys.all (fun p => p.2.state != .retiring) = true
  /-- Every context stands for something. -/
  contexts : s.tu.ctxs.all (fun p => contextStands s p.1) = true

/-- The fields of the state that a rule bounds. -/
structure View where
  /-- The trust controller's one-time-programmable memory. -/
  otp : Otp
  /-- Device memory. -/
  mem : List Host.Cell
  /-- How many records the black-box ring holds (R457). -/
  bbr : Nat
  /-- The slot of the frame (R54). -/
  slot : Nat
  /-- The frame period in microseconds (R57). -/
  periodUs : Nat
  /-- The frame counter runs. -/
  running : Bool
  /-- The core rail in millivolts (R540). -/
  rail : Nat
  /-- The target of the core clock, in MHz (R545). -/
  targetMhz : Nat
  /-- The present clock, in MHz (R545). -/
  presentMhz : Nat
  /-- The snoop timeout in microseconds (R274). -/
  snp : Nat
  /-- The resend interval in microseconds (R414). -/
  retry : Nat
  /-- The frames that a judge run may take (R495). -/
  replay : Nat
  /-- The quiet period of a source in seconds (R432). -/
  quiet : Nat
  /-- The frames after which a comparison closes (R453). -/
  close : Nat
  /-- The frames of a digest period (R448). -/
  per : Nat
  /-- The target slack, in 1/1,024 of the period (R540). -/
  slack : Nat
  /-- The low-reserve threshold in millivolts (R541). -/
  reserve : Nat

/-- The view of a state. -/
@[reducible] def view (s : State) : View :=
  { otp := s.tc.otp, mem := s.mi.mem, bbr := s.fc.bbr.length, slot := s.tb.slot,
    periodUs := s.tb.periodUs, running := s.tb.running, rail := s.hm.rail, targetMhz := s.hm.targetMhz,
    presentMhz := s.hm.presentMhz, snp := s.coh.snpTimeout, retry := s.nu.retryUs, replay := s.rc.replayFrames,
    quiet := s.fc.quietS, close := s.fc.closeFrames, per := s.fc.periodFrames, slack := s.hm.slackTarget,
    reserve := s.hm.reserveLow }

/-- `v` keeps every bound, and its OTP is that of `r` with at most further bits
of the life-cycle codeword and of the version floor burnt. -/
structure LegalV (r : View) (v : View) : Prop where
  mem : Memory.wf v.mem = true
  bbr : v.bbr ≤ 4096
  slot : v.slot < 16
  period : 32 ≤ v.periodUs ∧ v.periodUs ≤ 4000
  rail : v.rail ≤ 850 ∧ v.rail % 5 = 0 ∧ (v.running = true → 700 ≤ v.rail)
  target : 1280 ≤ v.targetMhz ∧ v.targetMhz ≤ 1600 ∧ v.targetMhz % 32 = 0
  present : 1280 ≤ v.presentMhz ∧ v.presentMhz ≤ 1600 ∧ v.presentMhz % 32 = 0
  snp : 4 ≤ v.snp ∧ v.snp ≤ 1000
  retry : 5 ≤ v.retry ∧ v.retry ≤ 1000
  replay : 1 ≤ v.replay ∧ v.replay ≤ 15
  quiet : 1 ≤ v.quiet
  close : 1 ≤ v.close ∧ v.close ≤ 4096
  per : 1 ≤ v.per ∧ v.per ≤ 4096
  slack : 8 ≤ v.slack
  reserve : 5 ≤ v.reserve ∧ v.reserve ≤ 150
  serial : v.otp.serial = r.otp.serial ∧ v.otp.testRoot = r.otp.testRoot ∧ v.otp.identityRoot = r.otp.identityRoot ∧
    v.otp.memoryRoot = r.otp.memoryRoot ∧ v.otp.rmaRoot = r.otp.rmaRoot ∧ v.otp.fwKey = r.otp.fwKey ∧
    v.otp.fwRevoked = r.otp.fwRevoked ∧ v.otp.dbgKey = r.otp.dbgKey ∧ v.otp.dbgRevoked = r.otp.dbgRevoked
  codeword : v.otp.codeword &&& r.otp.codeword = r.otp.codeword
  floor : v.otp.svnFloor &&& r.otp.svnFloor = r.otp.svnFloor

/-- The message of a tile that a command carries on a coherence channel, with its opcode (R250). -/
def tileMsgOf : Instr → Option (Nat × TileMsg)
  | .rds m => some (0x01, m)
  | .rdu m => some (0x02, m)
  | .upg m => some (0x03, m)
  | .atom m _ _ _ => some (0x04, m)
  | .wbm m _ _ => some (0x05, m)
  | .wbc m _ _ => some (0x06, m)
  | .respI m => some (0x21, m)
  | .respS m => some (0x22, m)
  | .respIData m _ _ => some (0x23, m)
  | .respSData m _ _ => some (0x24, m)
  | .stashAck f a => some (0x25, { head := f ++ a })
  | _ => none

/-- A message of tile `t` under generation `gen` passes its Tile Port: FABRIC_PRESENT is high, the tile is not dead, and the
generation is the present one (R22, R24, R270). -/
structure AtPort (s : State) (t gen : Nat) : Prop where
  up : fabricOn s = true
  fabric : s.bnd.fabric.getLsbD t = true
  alive : s.coh.dead.getLsbD t = false
  gen : gen = domainGen s t

/-- A tile message passes its Tile Port as one of opcode `op`: the opcode is `op` and no reserved bit is set, and no injection
runs (R250, R434). -/
structure Passes (s : State) (op : Nat) (m : TileMsg) : Prop extends AtPort s m.tile m.gen where
  legal : m.legal op = true
  inject : s.fc.inj.remaining = 0

/-- It reaches the home of line `k` of hand `n`, which has a tracker for it; its entry and its copy read correctly (R248, R252,
R258). -/
structure Reaches (s : State) (op : Nat) (m : TileMsg) (n k : Nat) : Prop extends Passes s op m where
  home : homeOf s m = some (n, k)
  room : trackers s (sliceOf (linePc k)) < 256
  turn : behind s m (sliceOf (linePc k)) = false
  entry : m.entryLost = false
  copy : m.copyLost = false

/-- Line `k` of hand `n` is resident and stable with nothing waiting, its entry is good, no commit is pending on it and no
injection runs (R248, R258). -/
structure Stable (s : State) (n k : Nat) : Prop where
  resident : (llc s k).hstate ≠ .i
  trans : (llc s k).trans = none
  wait : (llc s k).wait = []
  owner : pcOwner s.ps.active (linePc k) = some (llc s k).ptag
  hand : (llc s k).ptag = n
  commit : commitPending s k = false
  inject : s.fc.inj.remaining = 0

/-- The request `m` of a tile of hand `n` for line `k` comes under a key ID that the granule records and with the right `bit`; no
recall walk runs (R242, R273, R295). -/
structure MayServe (s : State) (op : Nat) (m : TileMsg) (bit n k : Nat) : Prop extends Reaches s op m n k where
  walk : s.coh.walk.getLsbD n = false
  grant : tileGrant s m.tile m.dpa bit = true
  key : keyCheck s (linePc k) (lineNo k) (dpaKey (m.dpa / 64 * 64)) = .match_
  line : Stable s n k

/-- A datagram for Foanaosh arrives whole at a port: Foanaosh is enabled, it comes to the Foanaosh port and carries the message `b`
under the header `h` for this chip (R384, R389, R395, R439). -/
structure Hears (s : State) (m : Datagram) (h : FoaHead) (b : FoaMsg) : Prop where
  live : live s = true
  enable : s.nu.enable = true
  port : m.dst = s.nu.udpPort
  message : foaParse m.bytes = some (h, b)
  chip : h.dstChip = s.nu.chipId
  parity : m.parity = 0
  inject : s.fc.inj.remaining = 0

/-- A session message of a type, with its SESSION, whether the rest of its header is zero, and its body, arrives whole at the Trust
Core's session port while sessions are enabled (R439, R527, R537). -/
structure HearsSession (s : State) (m : Datagram) (type len session : Nat) (zero : Bool) (body : List Byte) : Prop where
  live : live s = true
  enable : s.tc.enable = true
  port : m.dst = s.tc.udpPort
  message : sessionMsg type len m.bytes = some (session, zero, body)
  parity : m.parity = 0
  inject : s.fc.inj.remaining = 0

/-- The Command Processor fetches descriptor `f` at the head of its queue now, its opcode is `op`, and it passes checks 1 to
10 of R359; its line of the ring is in and it arrives undamaged; it is no template, is not skipped, was not accepted on an
earlier lap, and its queue has not lost the context of its owner. -/
structure Accepts (s : State) (op : Nat) (f : CreateFetch) : Prop where
  fetch : fetchable s f.queue = true
  opcode : dOpcode f.raw = op
  ring : ringHolds (queue s f.queue) f.raw s = (true, s)
  whole : f.parity = 0
  inject : s.fc.inj.remaining = 0
  going : (queue s f.queue).stopping = false
  tag : dTag f.raw = (queue s f.queue).head % 65536
  skip : (queue s f.queue).skip = 0
  serve : ((queue s f.queue).kind == .intake && dServe f.raw) = false
  fresh : acceptedBefore (queue s f.queue) f.raw = false
  checks : headCheck (advanceHead f.queue s) f.queue (queue s f.queue) (applyPatch (queue s f.queue) f.raw) = none

/-- The command of a fetched descriptor. -/
def cmdOf (s : State) (f : CreateFetch) (extra : Nat) : Cmd :=
  { q := f.queue, part := (queue s f.queue).part, ref := refAt f.queue (queue s f.queue) f.raw,
    raw := applyPatch (queue s f.queue) f.raw, f := f, extra := extra }

/-- Check 11 of R359 passes for a command: it goes on with the translations `xs` taken in `s1`. -/
def Translates (c : Cmd) (n : Nat) (rngs hosts : List Rng) (s : State) (xs : List Xlat) (s1 : State) : Prop :=
  ∀ k : List Xlat → State → State, check11 c n rngs hosts k s = k xs s1

/-- Groups of state that a statement asks to stay as they were. -/
structure Groups where
  /-- The whole time base (chapter 2). -/
  tb : Bool
  /-- The active plan, whether software staged it, and the role epochs (chapter 3). -/
  plan : Bool
  /-- Power, the boot stage and READY (chapter 1). -/
  boot : Bool
  /-- OTP and the life-cycle state (chapter 14). -/
  life : Bool
  deriving DecidableEq, Repr

/-- The groups of `K` are in `s` as in `r`, and the same commands wait. -/
structure Same (K : Groups) (r s : State) : Prop where
  pending : s.pending = r.pending
  tb : K.tb = true → s.tb = r.tb
  plan : K.plan = true → s.ps.active = r.ps.active ∧ s.ps.staged = r.ps.staged ∧ s.ps.epochs = r.ps.epochs
  boot : K.boot = true → s.bnd.powered = r.bnd.powered ∧ s.bnd.stage = r.bnd.stage ∧ s.bnd.ready = r.bnd.ready
  life : K.life = true → s.tc.otp = r.tc.otp ∧ s.tc.lc = r.tc.lc

/-- What a command leaves as it was. The time base changes at a tick, at a slot boundary, by the three registers of the grid,
by PTP, at the start of time and at a reset (R53, R54, R56, R58); the active plan and the role epochs change at a tick and at
a reset alone (R107); power, the stage and READY by the rows of start-up, by the first tick and by a reset (R46, R49, R483);
OTP and the life-cycle state by the boot ROM, by a certificate, at the first tick of a start and with power (R501, R504, R511). -/
def keeps : Instr → Groups
  | .powerRemoved | .tick _ => { tb := false, plan := false, boot := false, life := false }
  | .chipReset => { tb := false, plan := false, boot := false, life := true }
  | .time => { tb := false, plan := true, boot := false, life := true }
  | .registerWrite _ _ _ _ _ | .tgPeriod _ | .tickOrigin _ _ _ | .slotBoundary | .ptpSync _ _ _ _ _ | .ptpFollowUp _ _ _ _
  | .ptpDelayResp _ _ _ _ => { tb := false, plan := true, boot := true, life := true }
  | .tcBoot _ => { tb := true, plan := true, boot := false, life := false }
  | .powerUp | .fwVerify _ | .keys _ _ | .memTrain _ _ _ _ _ | .memInit _ | .dirInit _ _ | .stageBoundExpiry _ =>
    { tb := true, plan := true, boot := false, life := true }
  | .certCheckDone _ => { tb := true, plan := true, boot := true, life := false }
  | _ => { tb := true, plan := true, boot := true, life := true }

end Machine
end Sys2Proof
end

