-- ==== Sys2Proof/Certificates/Slice0/Obligations.lean ====
section
/-!
DEFINITION. The statements for the provers, in the order of OBLIGATIONS.json. Each docstring names the rules of spec/ that its
clauses rest on, and the log entry where a clause is the model's choice.
-/
open Sys2Proof Sys2Proof.Machine

/-- A step runs the command at the front of the queue, alone, on the state with the queue's rest. On an empty queue the block
idles: only the instant moves on, by one nanosecond, and not to the next edge, which TICK and SLOT_BOUNDARY take; out of
reset the Trust Core starts from ROM, which enters stage TC_BOOT (log 11). No word spells a command, since no row of the
opcode table has bits. -/
def Obligations.StepRunsTheFrontCommand : Prop :=
  (∀ c rest (s : State), s.pending = c :: rest → step s = exec c { s with pending := rest }) ∧
  (∀ s : State, s.pending = [] → s.bnd.powered = true → s.tb.running = true → s.tb.now + 1 < nextEdge s.tb →
    step s = .next { s with tb := { s.tb with now := s.tb.now + 1 } }) ∧
  (∀ s : State, s.pending = [] → s.bnd.powered = true → s.bnd.stage = .reset → s.tb.running = false →
    step s = .next { s with bnd := { s.bnd with stage := .tcBoot } }) ∧
  (∀ s : State, s.pending = [] → s.bnd.powered = false ∨
      ((s.tb.running = false ∨ nextEdge s.tb ≤ s.tb.now + 1) ∧ s.bnd.stage ≠ .reset) → step s = .next s) ∧
  (∀ (s : State) nbits w, decodeTableWord nbits w = none ∧ s.withFetchWord nbits w = s)

/-- What reset leaves, in the values that the spec gives (R47, R57, R82, R274, R414, R448, R460, R462, R483, R498, R552): stage
RESET, nothing present, no record, no session, no queue, no step, the frame period of 250 µs, and the set-up registers at
their reset values. Every bound of those registers holds, and memory lists nothing. -/
def Obligations.ResetIsLegal : Prop :=
  LegalV (view State.reset) (view State.reset) ∧ State.reset.bnd.stage = .reset ∧ State.reset.bnd.ready = false ∧
  State.reset.bnd.fabric = 0 ∧ State.reset.bnd.locked = false ∧ State.reset.tb.periodUs = 250 ∧
  State.reset.coh.snpTimeout = 20 ∧ State.reset.nu.retryUs = 40 ∧ State.reset.fc.quietS = 10 ∧
  State.reset.fc.closeFrames = 128 ∧ State.reset.fc.periodFrames = 64 ∧ State.reset.rc.replayFrames = 4 ∧
  State.reset.hm.slackTarget = 32 ∧ State.reset.hm.reserveLow = 20 ∧ State.reset.hm.targetMhz = 1600 ∧
  State.reset.steps = [] ∧ State.reset.fc.bbr = [] ∧ State.reset.rie.sessions = [] ∧ State.reset.qu.qs = [] ∧
  State.reset.mi.mem = [] ∧ State.reset.coh.lines = [] ∧ State.reset.ps.armed = false ∧ State.reset.pending = []

/-- Every step answers a next state and keeps the legal machine: the slot and the period in their ranges, memory canonical, the
recorder within its 4,096 places, every set-up register within the range of its rule, the rail and the clocks on their
grids; of the one-time-programmable array nothing changes but bits of the codeword and of the version floor, which are only
programmed (R54, R57, R274, R414, R448, R453, R457, R495, R501, R540, R541, R545). -/
def Obligations.StepKeepsTheLegalMachine : Prop :=
  ∀ s : State, LegalV (view s) (view s) → ∃ t, step s = .next t ∧ LegalV (view s) (view t)

/-- Every command goes on and leaves what it does not name: the waiting commands in every case, and the time base, the active
plan with its role epochs, power with the boot stage, and the one-time-programmable array with the life-cycle state but for
the commands that `keeps` lists (R54, R107, R501). -/
def Obligations.CommandsKeepTheGroups : Prop :=
  ∀ c (s : State), ∃ t, exec c s = .next t ∧ Same (keeps c) s t

/-- What follows at once from a command is nothing on a quiet state. -/
def Obligations.QuietStateSettled : Prop :=
  ∀ s : State, Quiet s → settle s = s

/-- Little-endian byte strings (R12): a number in n bytes reads back, bytes read as a number give the bytes back, and the byte
of weight 256^i is byte i. A message that a session's holder seals opens to what it sealed (R141, R143): under the receiving
keys equal to the sending ones, with fields that fit the header. -/
def Obligations.BytesReadBack : Prop :=
  (∀ v n, (leBytes v n).length = n) ∧ (∀ v n, v < 256 ^ n → leNat (leBytes v n) = v) ∧
  (∀ bs : List Byte, leBytes (leNat bs) bs.length = bs ∧ leNat bs < 256 ^ bs.length) ∧
  (∀ v n i, i < n → (leBytes v n)[i]? = some (BitVec.ofNat 8 (v / 256 ^ i))) ∧
  (∀ (x : Session) type seq p, x.keyIn = x.keyOut → x.saltIn = x.saltOut → x.id < 2 ^ 32 → type < 16 → seq < 2 ^ 64 →
    p.length < 2 ^ 16 → openIntake x (sealIntake x type seq p) = some p ∧
    intakeHead (sealIntake x type seq p) =
      { version := 1, type := type, rsv := false, session := x.id, seq := seq, length := p.length })

/-- Power, the configuration space and the end of Request Retry Status (R30, R37, R483, R509, R557): POWER_UP draws the high
half of BOOT_COUNT; POWER_REMOVED keeps the one-time-programmable array and loses memory, recorder and queues of the
machine; FUNDAMENTAL_RESET brings back Request Retry Status, under which a configuration request changes nothing, until
stage TC_BOOT has ended. What a fundamental reset does to the configuration space and where BOOT_COUNT's half comes from are
the model's choice (logs 1, 8, 12). -/
def Obligations.PowerAndConfiguration : Prop :=
  (∀ s : State, s.bnd.powered = false →
    exec .powerUp s = .next { s with bnd := { s.bnd with powered := true }
                                     tc := { s.tc with bootCount := Config.freeNat s.freeCount % 2 ^ 32 * 2 ^ 32 }
                                     freeCount := s.freeCount + 1 }) ∧
  (∀ s : State, s.bnd.powered = true → ∃ t, exec .powerRemoved s = .next t ∧ t.bnd.powered = false ∧ t.bnd.ready = false ∧
    t.bnd.fabric = 0 ∧ t.bnd.errAsserted = false ∧ t.tc = { State.reset.tc with otp := s.tc.otp } ∧ t.mi = State.reset.mi ∧
    t.fc = State.reset.fc ∧ t.qu = State.reset.qu ∧ t.coh = State.reset.coh ∧ t.steps = [] ∧ t.pending = s.pending) ∧
  (∀ s : State, s.bnd.powered = true →
    exec .fundamentalReset s = .next { s with
      bnd := { s.bnd with cfgRetry := !tcBootEnded s, vfEnable := false, numVfs := 0, atsEnable := [], priEnable := false } }) ∧
  (∀ op (s : State), s.bnd.powered = true → s.bnd.cfgRetry = true →
    exec (.configurationRequest op) s = .next { s with out := .cfg true 0 :: s.out }) ∧
  (∀ en n (s : State), s.bnd.powered = true → s.bnd.cfgRetry = false →
    exec (.configurationRequest (.writeVfs en n)) s =
      .next { s with bnd := { s.bnd with vfEnable := en, numVfs := min n 32 }, out := .cfg false 0 :: s.out }) ∧
  (∀ (s : State), s.bnd.powered = true → s.bnd.cfgRetry = false →
    exec (.configurationRequest .readClassCode) s = .next { s with out := .cfg false 0x120000 :: s.out })

/-- The stages of start-up, each while STAGE shows it, and the stage that STAGE shows next (R46, R47, R48, R53, R138, R472,
R502, R505, R509, R511). A bound that passes ends start-up with the code of the stage's failing check; of a stage without
one the code is a free value (log 17). -/
def Obligations.StartUpStages : Prop :=
  (∀ rom (s : State), s.bnd.powered = true → (s.bnd.stage = .reset ∨ s.bnd.stage = .tcBoot) → ∃ t, exec (.tcBoot rom) s = .next t ∧
    t.tc = { s.tc with lc := lcDecode s.tc.otp.codeword, romDigest := rom,
                       bootCount := s.tc.bootCount / 2 ^ 32 * 2 ^ 32 + (s.tc.bootCount + 1) % 2 ^ 32 } ∧
    t.bnd.cfgRetry = false ∧
    t.bnd.stage = (if lcDecode s.tc.otp.codeword = .invalid ∨ lcDecode s.tc.otp.codeword = .scrap then .invalidLc else .fwVerify) ∧
    (lcDecode s.tc.otp.codeword = .invalid → t.bnd.errAsserted = true) ∧
    (lcDecode s.tc.otp.codeword = .scrap → t.bnd.errAsserted = false) ∧
    { t with bnd := s.bnd, tc := s.tc } = s) ∧
  (∀ flash (s : State), s.bnd.powered = true → s.bnd.stage = .fwVerify → ∃ t, exec (.fwVerify flash) s = .next t ∧
    (∀ a, flash.slotA.filter (imageOk s.tc.otp) = some a →
      t.bnd.stage = .keys ∧ t.tc.slotB = false ∧ t.tc.imageVersion = hdrFld a.header 8 0 64) ∧
    (∀ b, flash.slotA.filter (imageOk s.tc.otp) = none → flash.slotB.filter (imageOk s.tc.otp) = some b →
      t.bnd.stage = .keys ∧ t.tc.slotB = true ∧ t.tc.imageVersion = hdrFld b.header 8 0 64) ∧
    (flash.slotA.filter (imageOk s.tc.otp) = none → flash.slotB.filter (imageOk s.tc.otp) = none →
      t.bnd.stage = .bootFail ∧ t.bnd.failCode = 0x01 ∧ t.bnd.errAsserted = true) ∧
    { t with bnd := s.bnd, tc := s.tc, hm := s.hm } = s) ∧
  (∀ chains (s : State), s.bnd.powered = true → s.bnd.stage = .keys → s.bnd.retentionValid = true →
    s.tc.lcKept = some s.tc.lc → ∃ t, exec (.keys true chains) s = .next t ∧ t.bnd.stage = .memTrain ∧ t.tc.signKey = signScalar s ∧
    t.mi.epoch = s.mi.epoch ∧ t.mi.nonce = s.mi.nonce ∧ { t with bnd := s.bnd, tc := s.tc, mi := s.mi } = s) ∧
  (∀ failed held mirrors (s : State), s.bnd.powered = true → s.bnd.stage = .memTrain → s.bnd.retentionValid = true →
    s.tc.lcKept = some s.tc.lc → s.bnd.epochOpened = false → failed ≠ 0xFFFFF → (failed ||| held) = 0xFFFFF →
    ∃ t, exec (.memTrain failed held true true mirrors) s = .next t ∧ t.bnd.stage = .memInit ∧ t.bnd.stackExcluded = failed ∧
    t.bnd.epochOpened = false ∧ t.mi = s.mi ∧ t.fc.bbr = s.fc.bbr ∧ t.rc = s.rc) ∧
  (∀ (s : State), s.bnd.powered = true → s.bnd.stage = .memInit → s.bnd.epochOpened = false →
    exec (.memInit []) s = .next { s with
      bnd := { s.bnd with stage := .dirInit, warm := true }
      ps := { s.ps with pendPcs := scrubbing s }
      mi := { s.mi with keys := s.mi.keys.map fun p => (p.1, keptKey p.2) } }) ∧
  (∀ bad (s : State), s.bnd.powered = true → s.bnd.stage = .memInit → s.bnd.epochOpened = true →
    exec (.memInit bad) s = .next { s with
      bnd := { s.bnd with stage := .dirInit }
      mi := { s.mi with pcs := [], counters := [], keys := [], nodes := [], mirrors := [],
                        mem := s.mi.mem.filter fun c => !pcUsable s (c.1 / 2 ^ 30) } }) ∧
  (∀ (s : State), s.bnd.powered = true → s.bnd.stage = .dirInit → ∃ t, exec (.dirInit 0xF true) s = .next t ∧
    t.bnd.stage = .time ∧ t.coh.lines = [] ∧ t.bnd.fabric = BitVec.allOnes 64 ∧
    (∀ n, n < 32 → partGen t n = (partGen s n + 1) % 256) ∧ (∀ k, k < 64 → stockGen t k = (stockGen s k + 1) % 256) ∧
    (∀ e, e < 320 → (engine t e).gen = ((engine s e).gen + 1) % 256) ∧ t.mi = s.mi ∧ t.tc = s.tc) ∧
  (∀ (s : State), s.bnd.powered = true → s.bnd.stage = .time → ∃ t, exec .time s = .next t ∧ t.bnd.stage = .ready ∧ t.bnd.ready = s.bnd.ready ∧
    t.tb.running = true ∧ t.tb.now = 0 ∧ t.tb.tick = 0 ∧ t.tb.slot = 0 ∧ t.tb.periodUs = s.tb.periodUs ∧
    700 ≤ t.hm.rail ∧ t.hm.rail ≤ 850 ∧ t.hm.rail % 5 = 0 ∧ t.mi = s.mi) ∧
  (∀ c (s : State), s.bnd.powered = true → s.bnd.stage = checkStage c →
    exec (.stageBoundExpiry c) s = .next { s with
      bnd := { s.bnd with stage := .bootFail, failCode := checkCode c, errAsserted := true, errInvalid := true } }) ∧
  (∀ (s : State), s.bnd.powered = true → s.bnd.stage ∈ [Stage.reset, .tcBoot, .memInit, .time] →
    ∃ t, exec (.stageBoundExpiry none) s = .next t ∧ t.bnd.stage = .bootFail ∧ t.bnd.errAsserted = true ∧ t.bnd.errInvalid = true ∧
      { t with bnd := s.bnd, freeCount := s.freeCount } = s)

/-- A start that cannot have a full directory, or has no memory at all, ends in BOOT_FAIL (R28, R29). -/
def Obligations.StacksAndDiesThatFail : Prop :=
  (∀ held a b c (s : State), s.bnd.powered = true → s.bnd.stage = .memTrain →
    exec (.memTrain 0xFFFFF held a b c) s = .next { s with
      bnd := { s.bnd with stage := .bootFail, failCode := 0x03, stackExcluded := 0xFFFFF, errAsserted := true,
                          errInvalid := true } }) ∧
  (∀ dies ok (s : State), s.bnd.powered = true → s.bnd.stage = .dirInit → dies ≠ 0xF →
    exec (.dirInit dies ok) s = .next { s with
      bnd := { s.bnd with stage := .bootFail, failCode := 0x02, errAsserted := true, errInvalid := true } })

/-- The tray controller's messages (R36, R37, R39): each answer, and nothing else changes. -/
def Obligations.TrayController : Prop :=
  (∀ (s : State), mctpUp s = true →
    exec .getBootStatus s = .next { s with out := .mctp 0x01 .ok [bootStatus s, s.bnd.stackExcluded.toNat, lcCode s.tc.lc] :: s.out }) ∧
  (∀ (s : State), mctpUp s = true → s.tc.lc ≠ .invalid → ∃ w,
    exec .getFaultSummary s = .next { s with
      out := .mctp 0x02 .ok (w :: (s.fc.bbr.take 16).map fun r => leNat (recBytes r)) :: s.out }) ∧
  (∀ (s : State), mctpUp s = true → s.tc.lc ≠ .invalid → s.bnd.errInvalid = false →
    (s.bnd.errSource.all fun u => acknowledged s u) = true →
    exec .clearErrPin s = .next { s with
      bnd := { s.bnd with errAsserted := false, errInvalid := false, errSource := none }, out := .mctp 0x03 .ok [] :: s.out }) ∧
  (∀ (s : State), mctpUp s = true → s.tc.lc ≠ .invalid → s.bnd.errAsserted = true → releasable s = false →
    exec .clearErrPin s = .next { s with out := .mctp 0x03 .stateConflict [] :: s.out }) ∧
  (∀ (s : State), mctpUp s = true → s.tc.lc ≠ .invalid → s.tb.running = true →
    exec .requestChipReset s = .next { s with bnd := { s.bnd with resetAtTick := true }, out := .mctp 0x04 .ok [] :: s.out }) ∧
  (∀ (s : State), mctpUp s = true →
    exec .ackPowerCycle s = .next { s with bnd := { s.bnd with powerCycle := none }, out := .mctp 0x05 .ok [] :: s.out }) ∧
  (∀ code (s : State), mctpUp s = true → (code = 0 ∨ 5 < code) →
    exec (.mctpOtherCode code) s = .next { s with out := .mctp code .badOpcode [] :: s.out }) ∧
  (∀ (s : State) p, s.bnd.powered = true → s.bnd.powerCycle = some p → p.copies < 10 →
    exec .powerCycleRequestRepeat s = .next { s with
      bnd := { s.bnd with powerCycle := some { p with copies := p.copies + 1 } }
      out := .powerCycleRequest 0x81 (beBytes p.reason 1 ++ [0] ++ beBytes p.seq 8) :: s.out }) ∧
  (∀ (s : State) p, s.bnd.powerCycle = some p → 10 ≤ p.copies → exec .powerCycleRequestRepeat s = .next s)

/-- ERRPIN_CTL.CLEAR (R37, R45): it releases ERR_N, and has no effect while the asserting fault is unacknowledged or
SOURCE_INVALID is 1. The clear of a pin that no fault holds is the model's choice (log 110). With them the encodings of
STAGE and the FAIL_CODE in BOOT_STATUS. -/
def Obligations.ErrPinClear : Prop :=
  (∀ (s : State), live s = true → s.bnd.errAsserted = true → s.bnd.errInvalid = false →
    (s.bnd.errSource.all fun u => acknowledged s u) = true →
    exec .errpinClear s = .next { s with bnd := { s.bnd with errAsserted := false, errInvalid := false, errSource := none } }) ∧
  (∀ (s : State) u, s.bnd.errSource = some u → acknowledged s u = false → exec .errpinClear s = .next s) ∧
  (∀ (s : State), s.bnd.errInvalid = true → exec .errpinClear s = .next s) ∧
  [Stage.reset, .tcBoot, .fwVerify, .keys, .memTrain, .memInit, .dirInit, .time, .ready, .invalidLc, .bootFail].map stageCode =
    [0, 1, 2, 3, 4, 5, 6, 7, 8, 0xE, 0xF] ∧
  (∀ (s : State), fld (bootStatus s) 0 4 = stageCode s.bnd.stage ∧ bootStatus s / 2 ^ 16 = s.bnd.failCode)

/-- Chip reset and function-level resets (R480, R482, R483, R557). A chip reset of a halted device has no preparation: where no
write waits for a re-key (R292), it keeps external memory, counters, the counter trees, key states, the recorder with one
RESET record more and the one-time-programmable array, and everything else has its reset value. -/
def Obligations.ChipResetAndFlr : Prop :=
  (∀ (s : State) p, s.bnd.powered = true → s.bnd.prep = some p → s.cu.halted = true →
    (∀ x ∈ s.mi.pcs, x.2.parked = []) → ∃ t r, exec .chipReset s = .next t ∧
    t.bnd.stage = .reset ∧ t.bnd.ready = false ∧ t.bnd.fabric = 0 ∧ t.bnd.prep = none ∧ t.bnd.cfgRetry = s.bnd.cfgRetry ∧
    t.bnd.errAsserted = s.bnd.errAsserted ∧ t.mi.mem = s.mi.mem ∧ t.mi.counters = s.mi.counters ∧ t.mi.nodes = s.mi.nodes ∧
    t.mi.mirrors = s.mi.mirrors ∧ t.mi.keys = s.mi.keys ∧
    t.mi.epoch = s.mi.epoch ∧ t.mi.nonce = s.mi.nonce ∧ t.fc.bbr = (r :: s.fc.bbr).take 4096 ∧ r.type = .reset ∧
    r.seq = s.fc.newest + 1 ∧ t.fc.newest = s.fc.newest + 1 ∧ t.fc.fenced = s.fc.fenced ∧
    t.rc = { State.reset.rc with partGen := s.rc.partGen, stockGen := s.rc.stockGen, chipResets := satAdd 32 s.rc.chipResets 1 } ∧
    t.tc = { State.reset.tc with otp := s.tc.otp, lc := s.tc.lc, lcKept := s.tc.lcKept, bootCount := s.tc.bootCount } ∧
    t.qu = State.reset.qu ∧ t.tu = State.reset.tu ∧ t.coh = State.reset.coh ∧ t.ps = State.reset.ps ∧ t.ac = State.reset.ac ∧
    t.nu = State.reset.nu ∧ t.hm = State.reset.hm ∧ t.steps = [] ∧ t.pending = s.pending) ∧
  (∀ (s : State) p, s.bnd.prep = some p →
    exec .preparationTimeout s = .next { s with bnd := { s.bnd with prep := some { p with abandoned := true } } }) ∧
  (∀ n (s : State), live s = true → vfExists s n = true → s.rc.current = none →
    exec (.functionLevelResetVf n) s = .next (settle { s with
      tc := { s.tc with tdi := tput s.tc.tdi n .error }
      rc := { s.rc with waiting := s.rc.waiting ++ [{ domain := .partition n, flr := true }] } })) ∧
  (∀ (s : State), s.bnd.powered = true → s.bnd.prep = none →
    exec .functionLevelResetPf s = .next { s with bnd := { s.bnd with prep := some { cause := .command } } })

/-- The tick grid (R8, R54, R56, R57, R564, R565): TG_PERIOD and TICK_ORIGIN take the value written and put the present instant
on the new grid; a period out of range only sets CFG_ERR; locked fields drop the write; LOCK locks once. The slot of an
instant is the sixteenth of the frame that it lies in. The discipline of the time base (R58, R59, R386, R387, R439): an
event message is stamped within 4 ns; a one-step Sync, and a two-step one with its Follow_Up, give one filtered offset and a
Delay_Req leaves, whose Delay_Resp gives the path delay; 16 in a row within 25 ns lock, 4 in a row beyond 40 ns unlock;
messages on another port or in another domain, and one damaged twice, are dropped (R439). The filter is the
implementation's, the stamp's error is free, and that a Delay_Req follows each Sync is the model's choice (log 123). -/
def Obligations.TickGridAndPtp : Prop :=
  (∀ v (s : State), live s = true → s.bnd.locked = false → 32 ≤ fld v.toNat 0 12 → fld v.toNat 0 12 ≤ 4000 →
    exec (.tgPeriod v) s = .next (settle { s with tb := regrid { s.tb with periodUs := fld v.toNat 0 12 } })) ∧
  (∀ v (s : State), live s = true → s.bnd.locked = false → fld v.toNat 0 12 < 32 ∨ 4000 < fld v.toNat 0 12 →
    exec (.tgPeriod v) s = .next (settle { s with tb := { s.tb with cfgErr := true } })) ∧
  (∀ v (s : State), live s = true → s.bnd.locked = false →
    exec (.tickOrigin 8 8 v) s = .next (settle { s with tb := regrid { s.tb with originNs := v.toNat } })) ∧
  (∀ v off size (s : State), live s = true → s.bnd.locked = true →
    exec (.tgPeriod v) s = .next (settle s) ∧ exec (.tickOrigin off size v) s = .next (settle s) ∧
    exec .lock s = .next (settle s)) ∧
  (∀ s : State, live s = true → s.bnd.locked = false →
    exec .lock s = .next (settle { s with bnd := { s.bnd with locked := true, lockTick := s.tb.tick } })) ∧
  (∀ t : TimeBase, 32 ≤ t.periodUs → (regrid t).slot < 16 ∧ (regrid t).slot * periodNs t / 16 ≤ intoFrame t ∧
    intoFrame t < ((regrid t).slot + 1) * periodNs t / 16 ∧
    ((regrid t).tick : Int) = ((t.now : Int) - t.originNs) / periodNs t % 2 ^ 48) ∧
  (∀ p d o a par (s0 s s1 : State), ptpTakes s0 p d = true → transfer (0x800 + p) none par s0 = (false, s) → stamp s = (a, s1) →
    exec (.ptpSync p d false o par) s0 = .next (settle (syncSample a o s1)) ∧
    exec (.ptpSync p d true o par) s0 = .next (settle { s1 with tb := { s1.tb with syncArrival := some a } })) ∧
  (∀ (s : State), (stamp s).2 = { s with freeCount := s.freeCount + 1 } ∧ (s.tb.now : Int) - 4 ≤ (stamp s).1 ∧
    (stamp s).1 ≤ s.tb.now + 4) ∧
  (∀ a o t (s s1 : State), stamp (offsetSample (a - o - s.tb.delay)
      { s with tb := { s.tb with syncArrival := none, syncDiff := a - o } }) = (t, s1) →
    syncSample a o s = { s1 with tb := { s1.tb with delayReq := some t }
                                 out := .delayReq s.nu.ptpPort s.nu.ptpDomain :: s1.out }) ∧
  (∀ p d o par (s0 s : State), ptpTakes s0 p d = true → transfer (0x800 + p) none par s0 = (false, s) →
    (∀ a, s.tb.syncArrival = some a → exec (.ptpFollowUp p d o par) s0 = .next (settle (syncSample a o s))) ∧
    (s.tb.syncArrival = none → exec (.ptpFollowUp p d o par) s0 = .next (settle s)) ∧
    (∀ t, s.tb.delayReq = some t → exec (.ptpDelayResp p d o par) s0 = .next (settle { s with
      tb := { s.tb with delay := (s.tb.syncDiff + (o - t)) / 2, delayReq := none } })) ∧
    (s.tb.delayReq = none → exec (.ptpDelayResp p d o par) s0 = .next (settle s))) ∧
  (∀ u n (s : State), s.fc.inj.remaining = 0 → transfer u n 0 s = (false, s)) ∧
  (∀ p d two o par (s0 s : State), ptpTakes s0 p d = true → transfer (0x800 + p) none par s0 = (true, s) →
    ∀ i ∈ [Instr.ptpSync p d two o par, .ptpFollowUp p d o par, .ptpDelayResp p d o par],
      exec i s0 = .next (settle (dropAt p s))) ∧
  (∀ p d two o par (s : State), ptpTakes s p d = false → s.bnd.powered = true → p < 8 → (port s p).linkUp = true → ∃ t,
    t = modPort p (fun x => { x with rxDrops := satAdd 64 x.rxDrops 1 }) s ∧
    exec (.ptpSync p d two o par) s = .next (settle t) ∧ exec (.ptpFollowUp p d o par) s = .next (settle t) ∧
    exec (.ptpDelayResp p d o par) s = .next (settle t)) ∧
  (∀ r (s : State), s.ps.staged = true → (offsetSample r s).tb.now = s.tb.now ∧ (offsetSample r s).tb.tick = s.tb.tick ∧
    (offsetSample r s).tb.slot = s.tb.slot ∧ (offsetSample r s).tb.offset = Config.ptpFilter s.tb.offset r) ∧
  (∀ f (t : TimeBase), ((relock f t).locked = true → t.locked = true ∨ (f.natAbs ≤ 25 ∧ 15 ≤ t.inRun)) ∧
    (t.locked = true → (relock f t).locked = false → 40 < f.natAbs ∧ 3 ≤ t.outRun) ∧
    (f.natAbs ≤ 25 → 15 ≤ t.inRun → t.locked = false → (relock f t).locked = true))

/-- SLOT_BOUNDARY (R54, R64, R66): slots 0 to 14 end there. What still runs is killed, its commit begins, and the next slot
starts; the slot does not end while a commit is in progress, and slot 15 ends at the tick. The tick grid and the active plan
stay otherwise. Where nothing runs and nothing waits to start, the commit begins and the slot advances, and nothing else.
COMMIT (R66, R67, R70, R71, R211, R264, R370): a halted device commits nothing, and a commit waits for every line that a
step of the slot read, a killed one included, to be verified. A slot in which no step finished commits nothing; its end lets
the work that waited for it go on. The step that finished in its slot and qualifies has its logged write applied and
completes with OK when no tile owes an answer for an updated line; one that failed has nothing applied. -/
def Obligations.SlotsEndAndCommit : Prop :=
  (∀ s : State, s.bnd.powered = true → s.tb.running = true → s.tb.slot < 15 → s.cu.open_ = none →
    exec .slotBoundary s =
      .next (settle (startSlot { endSlot s with tb := { s.tb with slot := s.tb.slot + 1, now := nextEdge s.tb } })) ∧
    ∃ t, exec .slotBoundary s = .next t ∧ t.tb = { s.tb with slot := s.tb.slot + 1, now := nextEdge s.tb } ∧
      t.ps.active = s.ps.active ∧ t.tc.otp = s.tc.otp ∧ t.bnd.ready = s.bnd.ready ∧ t.pending = s.pending) ∧
  (∀ s : State, s.bnd.powered = true → s.tb.running = true → s.tb.slot < 15 → s.cu.open_ = none → s.bnd.ready = true →
    s.cu.halted = false → Quiet s → s.steps = [] → s.ac.reqs = [] → s.rc.replay = none →
    exec .slotBoundary s = .next { s with
      lre := { s.lre with slotUpdates := [] }, cu := { s.cu with open_ := some (s.tb.tick, s.tb.slot) },
      tb := { s.tb with slot := s.tb.slot + 1, now := nextEdge s.tb } }) ∧
  (∀ s : State, overdue s = [] → s.bnd.ready = true → s.cu.halted = false →
    endSlot s = { s with lre := { s.lre with slotUpdates := [] }, cu := { s.cu with open_ := some (s.tb.tick, s.tb.slot) } }) ∧
  (∀ s : State, s.tb.slot = 15 ∨ s.cu.open_.isSome = true → exec .slotBoundary s = .next (settle s)) ∧
  (∀ d (s : State), s.cu.open_ = none ∨ s.cu.halted = true → exec (.commit d) s = .next (settle s)) ∧
  (∀ d f k t (s : State), s.cu.open_ = some (f, k) → t ∈ s.steps → t.phase = .finished → t.frame = f → t.slot = k →
    t.unverified ≠ [] → exec (.commit d) s = .next (settle s)) ∧
  (∀ d f k b (s : State), s.cu.open_ = some (f, k) → (f, k, b) ∈ s.cu.blocks → exec (.commit d) s = .next (settle s)) ∧
  (∀ d f k (s : State), s.bnd.powered = true → s.cu.halted = false → s.cu.open_ = some (f, k) → s.steps = [] →
    s.qu.signals = [] → (∀ x ∈ s.coh.lines, x.2.wait = []) → (∀ x ∈ s.cu.blocks, x.1 ≠ f ∨ x.2.1 ≠ k) →
    updatesWait s = false →
    exec (.commit d) s = .next (settle ((hands s.ps.active).foldl (fun s n => fillBe n s)
      { s with cu := { s.cu with open_ := none, applied := false, differ := [] } }))) ∧
  (∀ d f k t dva bs (s : State), s.bnd.powered = true → s.cu.halted = false → s.cu.open_ = some (f, k) →
    s.cu.applied = false → s.steps = [t] → t.phase = .finished → t.frame = f → t.slot = k → t.unverified = [] → t.units = [] →
    t.log = [.write dva bs] → qualifies d t = true → (∀ x ∈ s.cu.blocks, x.1 ≠ f ∨ x.2.1 ≠ k) →
    exec (.commit d) s = .next (settle (endCommit f k (writeDva t.part t.xlats dva bs true (stashOf t.raw)
      { s with cu := { s.cu with applied := true, differ := d }, steps := [{ t with log := [] }] })))) ∧
  (∀ d f k t e (s : State), s.bnd.powered = true → s.cu.halted = false → s.cu.open_ = some (f, k) →
    s.cu.applied = false → s.steps = [t] → t.phase = .finished → t.frame = f → t.slot = k → t.unverified = [] → t.units = [] →
    t.fail = some e → (∀ x ∈ s.cu.blocks, x.1 ≠ f ∨ x.2.1 ≠ k) →
    exec (.commit d) s = .next (settle (endCommit f k
      { s with cu := { s.cu with applied := true, differ := d }, steps := [{ t with log := [] }] }))) ∧
  (∀ f k t u v (s : State), updatesWait s = false → s.steps = [t] → s.qu.signals = [] → t.phase = .finished → t.frame = f →
    t.slot = k → qualifies s.cu.differ t = true →
    u = finishStep t { st := .ok, skipped := t.skipped, range := t.range } (commitCounts s t) →
    v = afterCommit { u with cu := { u.cu with open_ := none, applied := false, differ := [] } } →
    endCommit f k s = (hands v.ps.active).foldl (fun s n => fillBe n s) v) ∧
  (∀ f k (s : State), updatesWait s = true → endCommit f k s = s) ∧
  (∀ t dva bs (s : State), applyEffect t s (.write dva bs) = writeDva t.part t.xlats dva bs true (stashOf t.raw) s) ∧
  (∀ d (t : Step), qualifies d t = true ↔
    t.fail = none ∧ t.poisoned = false ∧ ¬(t.redundant = true ∧ ∃ x ∈ d, x.step = t.id))

/-- TICK (R49, R53, R54, R66, R107, R109): it waits for a commit in progress and, once READY, for slot 15. It starts slot 0 of
the next frame. Without an armed deal the active plan stays. The first tick of a start sets READY. -/
def Obligations.TickStartsAFrame : Prop :=
  (∀ h (s : State), s.bnd.powered = true → s.tb.running = true → s.cu.open_ = none → s.bnd.ready = true → s.tb.slot = 15 →
    ∃ t, exec (.tick h) s = .next t ∧
      t.tb = { s.tb with now := nextTick s.tb, tick := (s.tb.tick + 1) % 2 ^ 48, slot := 0 } ∧
      (s.ps.armed = false → t.ps.active = s.ps.active ∧ t.ps.staged = s.ps.staged) ∧ t.tc.otp = s.tc.otp ∧ t.tc.lc = s.tc.lc ∧
      t.bnd.ready = true ∧ t.bnd.stage = s.bnd.stage ∧ t.pending = s.pending) ∧
  (∀ h (s : State), s.bnd.powered = true → s.tb.running = true → s.cu.open_ = none → s.bnd.ready = false →
    ∃ t, exec (.tick h) s = .next t ∧ t.bnd.ready = true ∧ t.bnd.stage = .ready ∧
      t.tb = { s.tb with now := nextTick s.tb, tick := (s.tb.tick + 1) % 2 ^ 48, slot := 0 } ∧
      t.tc.otp.codeword = s.tc.otp.codeword ∧
      t.tc.otp.svnFloor = (match s.tc.commitSvn with
        | some v => s.tc.otp.svnFloor ||| bitsOf 64 (List.range (min v 64))
        | none => s.tc.otp.svnFloor)) ∧
  (∀ h (s : State), s.cu.open_.isSome = true ∨ (s.bnd.ready = true ∧ s.tb.slot ≠ 15) → exec (.tick h) s = .next (settle s))

/-- The armed deal of a tick (R106, R107, R109, R111, R112, R125): at the tick the checks run again on the state of that tick; a
plan that passes becomes active as a whole, with the role epoch of every changed partition; a plan that fails has no part of
it applied, and its verdict replaces the earlier one. The generation of every created, reshaped or withdrawn partition
rises, and no other. FABRIC_PRESENT_RISE (R21, R23, R126, R270): the tiles whose DOMAIN_GEN changed at the deal are present
again, and no other tile changes; steps that waited for a tile are started. -/
def Obligations.DealIsAtomic : Prop :=
  (∀ img (s : State), s.ps.armed = true → s.ps.shadow = some img → (checkPlan img (planView s)).status = .ok →
    (armedDeal s).ps.active = img ∧ (armedDeal s).ps.staged = true ∧
    (armedDeal s).ps.epochs = dealEpochs s.ps.active img s.ps.epochs) ∧
  (∀ img (s : State), s.ps.armed = true → s.ps.shadow = some img → (checkPlan img (planView s)).status ≠ .ok →
    (armedDeal s).ps.active = s.ps.active ∧ (armedDeal s).ps.epochs = s.ps.epochs ∧ (armedDeal s).ps.armed = false ∧
    (armedDeal s).ps.done = true ∧ (armedDeal s).ps.verdict = checkPlan img (planView s) ∧ (armedDeal s).rc = s.rc ∧
    (armedDeal s).mi = s.mi ∧ (armedDeal s).lre = s.lre) ∧
  (∀ s : State, s.ps.armed = false → armedDeal s = s) ∧
  (∀ (h : HealthIn) (s : State), s.bnd.powered = true → s.tb.running = true → s.cu.open_ = none → s.bnd.ready = true →
    s.tb.slot = 15 → ∃ t, exec (.tick h) s = .next t ∧
      t.ps.active = (armedDeal (releaseTrick (nextFrame (countCorrected h.corrected (frameHealth h (endSlot s)))))).ps.active ∧
      t.ps.epochs = (armedDeal (releaseTrick (nextFrame (countCorrected h.corrected (frameHealth h (endSlot s)))))).ps.epochs) ∧
  (∀ a b n (s : State), n < 32 → partGen (dealGens a b s) n =
    if changeKind a b n ∈ [Change.created, .reshaped, .withdrawn] then (partGen s n + 1) % 256 else partGen s n) ∧
  (∀ a b n (t : Tab Nat), n < 32 → tget 0 (dealEpochs a b t) n =
    if changeKind a b n = .unchanged then tget 0 t n else if hasHand b n then hEpoch b n else tget 0 t n + 1) ∧
  (∀ s : State, s.bnd.powered = true → live s = true → s.cu.halted = false →
    exec .fabricPresentRise s = .next (settle (startWaiting (fabricRise (bitList s.bnd.rising) s)))) ∧
  ∀ s : State, s.bnd.powered = true → Quiet s → s.steps = [] → s.ac.reqs = [] →
  ∃ t, exec .fabricPresentRise s = .next t ∧ t.bnd.rising = 0 ∧ t.bnd.fabric = s.bnd.fabric ||| s.bnd.rising ∧
    (∀ n, n < 64 → t.coh.dead.getLsbD n = (s.coh.dead.getLsbD n && !s.bnd.rising.getLsbD n)) ∧
    { t with bnd := s.bnd, coh := s.coh, out := s.out } = s

/-- CHECK and CANCEL (R105, R106, R108): a CHECK while a check runs or a deal is armed is dropped and sets CMD_ERR; a CANCEL
disarms, and in one write it goes before the CHECK; in the cycle of the deal the CANCEL has no effect on it and the CHECK of
the same write is dropped and sets CMD_ERR. PS_HOLD and HOLD_RECALL (R113, R271): the written partitions are on hold, those
released dispatch again; the recall invalidates the lines of a held partition without a dispatched step, and leaves any
other as it is. A line that no tile holds stays, one that tiles hold is invalidated at them, and one in a transient state is
recalled after its transaction. PLAN_CHECK_DONE (R103, R104, R106, R117, R123, R139): the verdict is that of the algorithm
on the image and the state record; OK arms the deal if DEAL was 1; an image that could not be read gives TIMEOUT and leaves
the shadow set empty. -/
def Obligations.PlanStore : Prop :=
  (∀ d c (s : State), live s = true → s.ps.busy = false → s.ps.armed = false ∨ c = true → c = false ∨ dealing s = false →
    exec (.check d c) s = .next (settle { s with ps := { s.ps with armed := false, deal := d, busy := true, checkDeal := d } })) ∧
  (∀ d (s : State), live s = true → s.ps.busy = true ∨ s.ps.armed = true →
    exec (.check d false) s = .next (settle { s with ps := { s.ps with deal := d, cmdErr := true } })) ∧
  (∀ d (s : State), live s = true → s.ps.busy = true ∨ dealing s = true →
    exec (.check d true) s = .next (settle { s with ps := { s.ps with armed := false, deal := d, cmdErr := true } })) ∧
  (∀ s : State, dealing s = true ↔ s.ps.dealNs = some s.tb.now ∧ s.ps.dealTick = s.tb.tick) ∧
  (∀ d (s : State), live s = true →
    exec (.cancel d) s = .next (settle { s with ps := { s.ps with armed := false, deal := d } })) ∧
  (∀ v (s : State), live s = true → (∀ n, s.ps.hold.getLsbD n = true → v.getLsbD n = true) →
    exec (.psHold v) s = .next (settle { s with ps := { s.ps with hold := v } })) ∧
  (∀ n (s : State), s.ps.hold.getLsbD n = false ∨ (∃ t ∈ s.steps, t.part = n ∧ t.phase ≠ .queued) →
    exec (.holdRecall n) s = .next (settle s)) ∧
  (∀ n (s : State), live s = true → s.ps.hold.getLsbD n = true → s.steps = [] →
    exec (.holdRecall n) s = .next (settle ((linesOf s n).foldl (fun s k => recallLine k s) s))) ∧
  (∀ k (s : State), (llc s k).trans = none → (llc s k).hstate = .i ∨ (llc s k).hstate = .l → recallLine k s = s) ∧
  (∀ k (s : State), (llc s k).trans = none → (llc s k).hstate = .s ∨ (llc s k).hstate = .o →
    recallLine k s = invalidate k { kind := .recall } (bitList (llc s k).presence) s) ∧
  (∀ k (s : State), (llc s k).trans ≠ none →
    recallLine k s = setLlc k { llc s k with wait := (llc s k).wait ++ [{ kind := .recall }] } s) ∧
  (∀ img (s : State), live s = true → s.ps.busy = true → s.cu.halted = false →
    exec (.planCheckDone (some img) true) s = .next (settle { s with
      ps := { s.ps with busy := false, shadow := some img, verdict := checkPlan img (planView s), done := true,
                        armed := decide ((checkPlan img (planView s)).status = .ok) && s.ps.checkDeal
                        checks := satAdd 64 s.ps.checks 1
                        refusals := if (checkPlan img (planView s)).status = .ok then s.ps.refusals
                          else satAdd 64 s.ps.refusals 1 }
      out := .msix .pf 63 :: .hostWrite .pf (s.ps.resultAddr + 0x40) (viewBytes (planView s)) ::
        .hostWrite .pf s.ps.resultAddr (verdictBytes (checkPlan img (planView s)) (planDigest img)) ::
        .verdictRec (checkPlan img (planView s)) (planDigest img) :: s.out })) ∧
  (∀ (s : State), live s = true → s.ps.busy = true →
    exec (.planCheckDone none false) s = .next (settle { s with
      ps := { s.ps with busy := false, shadow := none, verdict := { status := .timeout, tick := s.tb.tick }, done := true,
                        checks := satAdd 64 s.ps.checks 1, refusals := satAdd 64 s.ps.refusals 1 }
      freeCount := s.freeCount + 1, out := .msix .pf 63 :: s.out })) ∧
  (∀ img v, planVersion img ≠ 1 → checkPlan img v = { status := .version, item := 0, tick := v.tick }) ∧
  (∀ img v, (checkPlan img v).status = .ok → planVersion img = 1 ∧ archLevel img = 1 ∧ reservedByte img = none ∧
    planPeriod img = v.period ∧ 1024 ≤ planMargin img ∧ v.age ≤ planMargin img ∧
    (∀ h ∈ hands img, ∀ p ∈ pcList img h, v.excluded.getLsbD (stackOf p) = false ∧ ∀ g ∈ hands img, g ≠ h → p ∉ pcList img g) ∧
    (∀ h ∈ hands img, ∀ e ∈ bitList (hEngines img h), v.fenced.getLsbD e = false) ∧
    (∀ h ∈ hands img, (hKeys img h).getLsbD 0 = false))

/-- REQUEST, what is dropped (R141, R171, R383): a datagram that is not for the intake port is dropped at its port; one while
intake is disabled changes nothing; one without a session or whose authentication fails counts in RIE_AUTH_DROPS, and one
whose SEQ repeats or is too old in RIE_REPLAY_DROPS. No reply leaves. That a SEQ above the newest 1,024 is judged by
repetition alone is the reading of log 41. REQUEST, the decision (R141, R146 to R151): the first row of the table that the
request meets names the status; a request that meets none is granted. A refusal leaves as a REFUSAL with the tick of the
decision, an admission takes a context. A refusal and the numbering of replies (R141 to R144, R174): it counts by its
status, takes no context, and leaves encrypted under the device's next SEQ of the session, which no other message of the
session has carried; the session ends with its last number. -/
def Obligations.RequestsAreDecided : Prop :=
  (∀ m (s : State), live s = false ∨ m.dst ≠ s.rie.udpPort → exec (.request m) s = .next (settle (dropAt m.port s))) ∧
  (∀ m (s : State), live s = true → m.dst = s.rie.udpPort → s.rie.enable = false → exec (.request m) s = .next (settle s)) ∧
  (∀ m (s : State), live s = true → s.rie.enable = true → m.dst = s.rie.udpPort → m.parity = 0 → s.fc.inj.remaining = 0 →
    (findSession s (intakeHead m.bytes).session = none ∨
      ∃ x, findSession s (intakeHead m.bytes).session = some x ∧ openIntake x m.bytes = none) →
    exec (.request m) s = .next (settle { s with rie := { s.rie with authDrops := satAdd 64 s.rie.authDrops 1 } })) ∧
  (∀ m x pl (s : State), live s = true → s.rie.enable = true → m.dst = s.rie.udpPort → m.parity = 0 → s.fc.inj.remaining = 0 →
    findSession s (intakeHead m.bytes).session = some x → openIntake x m.bytes = some pl →
    ((intakeHead m.bytes).seq ∈ x.seen ∨ ∃ h, x.highest = some h ∧ (intakeHead m.bytes).seq + 1024 < h) →
    exec (.request m) s = .next (settle { s with rie := { s.rie with replayDrops := satAdd 64 s.rie.replayDrops 1 } })) ∧
  (∀ m x pl q s0 s1 (s : State), live s = true → s.rie.enable = true → m.dst = s.rie.udpPort → m.parity = 0 →
    s.fc.inj.remaining = 0 → findSession s (intakeHead m.bytes).session = some x → openIntake x m.bytes = some pl →
    seqStale x (intakeHead m.bytes).seq = false → q = intakeReq (intakeHead m.bytes) pl →
    s0 = modSession (intakeHead m.bytes).session (acceptSeq (intakeHead m.bytes).seq)
      { s with rie := { s.rie with requests := satAdd 64 s.rie.requests 1 } } →
    s1 = (if (firstRows s0 x.part q).isNone then walkArea x.part m.host (areaRange s0 x.part) s0 else s0) →
    (∀ st, decideReq s1 x.part m q = .refuse st → exec (.request m) s = .next (settle (refuseReq x.part m q st s1))) ∧
    (∀ ps xs, decideReq s1 x.part m q = .grant ps xs →
      exec (.request m) s = .next (settle (admitReq x.part m q ps xs s1)))) ∧
  (∀ n m (q : IntakeReq) (s : State), q.version ≠ 1 → decideReq s n m q = .refuse .version) ∧
  (∀ n m (q : IntakeReq) (s : State), q.version = 1 → q.type ≠ 1 → decideReq s n m q = .refuse .badOpcode) ∧
  (∀ n m (q : IntakeReq) (s : State), q.version = 1 → q.type = 1 → q.rsv = true → decideReq s n m q = .refuse .reservedNonzero) ∧
  (∀ n m (q : IntakeReq) (s : State), q.version = 1 → q.type = 1 → q.rsv = false →
    q.length < 16 ∨ 8144 < q.length ∨ hasHand s.ps.active n = false ∨ s.rc.inReset.getLsbD n = true ∨
      s.ps.hold.getLsbD n = true → decideReq s n m q = .refuse .refusedCapacity) ∧
  (∀ n m (q : IntakeReq) ps xs (s : State), decideReq s n m q = .grant ps xs ↔
    q.version = 1 ∧ q.type = 1 ∧ q.rsv = false ∧ 16 ≤ q.length ∧ q.length ≤ 8144 ∧ hasHand s.ps.active n = true ∧
    s.rc.inReset.getLsbD n = false ∧ s.ps.hold.getLsbD n = false ∧ (hClass s.ps.active n q.cls).valid = true ∧
    hasServer s n q.cls = true ∧ intakeArea s n m.host = some xs ∧ reqCount s n < hQuota s.ps.active n 0 ∧ m.inTime = true ∧
    ((hClass s.ps.active n q.cls).be = true → ps = []) ∧
    ((hClass s.ps.active n q.cls).be = false →
      tget 0 s.ac.frameAdmits (16 * n + q.cls) < (hClass s.ps.active n q.cls).rateCap ∧
      book s n (hClass s.ps.active n q.cls) (tget 0 s.ac.classOrder (16 * n + q.cls)) s.tb.tick = (.ok, ps))) ∧
  (∀ n m q st x (s : State), findSession s q.session = some x →
    (refuseReq n m q st s).ac.reqs = s.ac.reqs ∧
    (refuseReq n m q st s).ac.refuseCap = satAdd 64 s.ac.refuseCap (if st = .refusedCapacity then 1 else 0) ∧
    (refuseReq n m q st s).ac.refuseDl = satAdd 64 s.ac.refuseDl (if st = .refusedDeadline then 1 else 0) ∧
    (refuseReq n m q st s).out = .datagram m.port m.addr m.udp
      (sealIntake x 3 x.nextSeq (refusalBytes (if q.length < 8 then 0 else q.reqId) st s.tb.tick)) :: s.out ∧
    (refuseReq n m q st s).rie.sessions = if 2 ^ 63 ≤ x.nextSeq + 1 then s.rie.sessions.filter (fun y => y.id ≠ q.session)
      else modFirst (fun y => y.id == q.session) (fun y => { y with nextSeq := y.nextSeq + 1 }) s.rie.sessions) ∧
  (∀ x type seq p, (sealIntake x type seq p).length = 40 + p.length ∧
    (sealIntake x type seq p).take 24 = intakeHeadBytes type x.id seq p.length)

/-- Booking (R156, R158): every step is placed, in order and at strictly later slots, in the frames after the admission frame up
to the deadline's, in slots of SLOT_MASK; each placement fits what is left there; the last step is slot-scoped and not in
slot 15. The shares of a charge add up to it, and the slot budgets of a frame to the proven capacity (R155, R157). -/
def Obligations.BookingKeepsTheDeadline : Prop :=
  (∀ (s : State) n c order a ps, book s n c order a = (.ok, ps) →
    ps.map (fun p => p.step) = List.range (c.steps + c.fsteps) ∧
    (∀ p ∈ ps, a < p.frame ∧ p.frame ≤ a + c.deadline ∧ p.slot ∈ allowedSlots s n ∧ p.frameScoped = bitAt order p.step ∧
      (p.step + 1 = c.steps + c.fsteps → p.frameScoped = false ∧ p.slot ≠ 15)) ∧
    ps.Pairwise (fun p q => p.frame < q.frame ∨ (p.frame = q.frame ∧ p.slot < q.slot)) ∧
    (∀ p ∈ ps, if p.frameScoped then fitsFrame s (ledger s) n p.frame ((chargeOf s c).part (c.steps + c.fsteps) p.step) = true
      else fitsSlot s (ledger s) n p.frame p.slot ((chargeOf s c).part (c.steps + c.fsteps) p.step) = true)) ∧
  (∀ x n, 0 < n → ((List.range n).map (share x n)).sum = x) ∧
  (∀ (s : State) n, (allowedSlots s n) ≠ [] →
    ((List.range (allowedSlots s n).length).map (slotBudget s n)).sum =
      (allowedSlots s n).length * slotLen s.tb.periodUs * hLcCap s.ps.active n / 64)

/-- DEADLINE_EXPIRY (R151, R153, R154, R160): an LC request whose deadline tick has come and that is not DONE fails with
TIMEOUT: it is DONE, its bookings leave the ledger, and its response joins the trick of the next tick. Any other request is
left. That the expiry may be judged in the last slot before the deadline tick is the reading of log 42. -/
def Obligations.DeadlinesExpire : Prop :=
  (∀ n i r x (s : State), live s = true → findReq s n i = some r → r.be = false → r.state ≠ .done →
    r.deadline ≤ s.tb.tick → s.cu.halted = false → findSession s r.session = some x →
    x.nextSeq + 1 < 2 ^ 63 →
    exec (.deadlineExpiry n i) s = .next (settle { s with
      ac := { s.ac with
        reqs := modFirst (fun r => r.part == n && r.index == i) (fun r => { r with state := .done, places := [] }) s.ac.reqs }
      rie := { s.rie with
        sessions := modFirst (fun y => y.id == r.session) (fun y => { y with nextSeq := y.nextSeq + 1 }) s.rie.sessions }
      cu := { s.cu with
        trick := s.cu.trick ++ [{ part := n, index := i, session := r.session, port := r.port, addr := r.addr, udp := r.udp,
                                  reqId := r.reqId, status := .timeout, output := [], tick := s.tb.tick + 1,
                                  seq := x.nextSeq,
                                  bytes := sealIntake x 4 x.nextSeq (responseBytes r.reqId .timeout [] (s.tb.tick + 1)) }] } })) ∧
  (∀ n i r (s : State), findReq s n i = some r → r.be = true ∨ r.state = .done ∨ s.tb.tick + 1 < r.deadline →
    exec (.deadlineExpiry n i) s = .next (settle s))

/-- ENGINE_SHARE_COMPLETE (R166, R189, R435, R439, R440, R445, R469, R470): a share that ends without a residue failure counts
for its engine alone, and the step finishes with its last share; a failed share counts for its engine, and the step runs
again or is killed; data damaged on its way to the engine kills the step, which runs again once. A unit that runs A and then
B of a redundant step is done after B. An answer under another generation is dropped and counted, and a share that is not
running changes nothing. -/
def Obligations.EngineSharesEnd : Prop :=
  (∀ id e t (s : State), live s = true → findStep s id = some t → t.phase = .running → e < 320 →
    t.units.contains (engineUnit e) = true → t.unitsDone.contains (engineUnit e) = false → s.fc.inj.remaining = 0 →
    exec (.engineShareComplete id e ⟨(engine s e).gen, none, false⟩) s =
      .next (settle (fillBe t.part (tryFinish id (touchEngine (modStep id (shareDone (engineUnit e)) s) (engineUnit e))))) ∧
    (∀ p, exec (.engineShareComplete id e ⟨(engine s e).gen, some p, false⟩) s =
      .next (settle (fillBe t.part (residueFail t e p false s)))) ∧
    (∀ r, exec (.engineShareComplete id e ⟨(engine s e).gen, r, true⟩) s =
      .next (settle (fillBe t.part (killStep (if t.judge then .silent else if t.parityFails = 0 then .rerun else .complete .killed) id
        (reportParity (if t.parityFails = 0 then 0x0A else 0x0B)
          { source := engineUnit e, kind := 0, part := some t.part, ctx := t.ctx, queue := t.queue, op := t.opcode,
            status := if t.parityFails = 0 then .ok else .killed }
          (modStep id (fun t => { t with parityFails := t.parityFails + 1 }) s))))))) ∧
  (∀ id e g r p (s : State), live s = true → g ≠ (engine s e).gen → exec (.engineShareComplete id e ⟨g, r, p⟩) s =
    .next (settle { s with rc := { s.rc with staleDrops := satAdd 64 s.rc.staleDrops 1 } })) ∧
  (∀ id e r p t (s : State), findStep s id = some t →
    (t.phase ≠ .running ∨ t.units.contains (engineUnit e) = false ∨ t.unitsDone.contains (engineUnit e) = true) →
    exec (.engineShareComplete id e ⟨(engine s e).gen, r, p⟩) s = .next (settle s)) ∧
  (∀ u (t : Step), t.second.contains u = false → shareDone u t = { t with unitsDone := t.unitsDone ++ [u] }) ∧
  (∀ u (t : Step), t.second.contains u = true → (shareDone u t).unitsDone = t.unitsDone ∧ (shareDone u t).second.contains u = false) ∧
  (∀ e inj (s : State), (engine (countFail e inj s) e).fails = satAdd 32 (engine s e).fails 1 ∧
    (countFail e inj s).steps = s.steps ∧ (countFail e inj s).mi = s.mi)

/-- Exact sums (R178, R184, R185, R195): the accumulator of a list of terms does not depend on their order, and the merge of the
accumulators of two parts is that of the whole, for SUM, MEAN and WSUM and for MAX. 2^24 terms of magnitude at most 2^128
stay inside the accumulator's window (R184, R186). -/
def Obligations.ExactSumsIgnoreOrder : Prop :=
  (∀ l m : List Dec, l.Perm m → l.foldl Acc.add {} = m.foldl Acc.add {}) ∧
  (∀ l m : List Dec, (l ++ m).foldl Acc.add {} = (l.foldl Acc.add {}).merge (m.foldl Acc.add {})) ∧
  (∀ l m : List Dec, l.Perm m → l.foldl Acc.max {} = m.foldl Acc.max {}) ∧
  (∀ l m : List Dec, (l ++ m).foldl Acc.max {} = (l.foldl Acc.max {}).maxMerge (m.foldl Acc.max {})) ∧
  (∀ l : List Dec, l.length ≤ 2 ^ 24 → (l.foldl Acc.add {}).fits = true ∧ (l.foldl Acc.add {}).terms = l.length)

/-- Exact lines (R196, R214): an accumulator written as an exact line reads back as it was, and the line passes the checks that
an atomic makes. Compressed columns (R197, R198, R199): the column of an accumulator is canonical, passes the receiver's
checks, and gives the accumulator back with its term count. -/
def Obligations.ExactFormsReadBack : Prop :=
  (∀ (a : Acc) (row : Nat), a.fits = true → a.terms ≤ 2 ^ 24 → row < 2 ^ 40 →
    lineAcc (exactLine a row) = a ∧ lineOk (exactLine a row) = true ∧ fld (exactLine a row).toNat 384 40 = row) ∧
  (∀ a : Acc, a.fits = true → a.terms ≤ 2 ^ 24 → columnOk (compress a) a.terms = true ∧ columnAcc (compress a) a.terms = a)

/-- Conversion (R187, R224, R239, R240): a value that its target holds exactly is returned unchanged in every rounding mode;
NaNs become the canonical NaN, infinities keep their sign, an integer target saturates. -/
def Obligations.ConversionRoundsOnce : Prop :=
  (∀ f mode x, f ∈ [fp32, bf16, fp16] → mode < 4 → x < 2 ^ (1 + f.e + f.m) → decodeFloat f x ≠ .nan →
    x ≠ 2 ^ (f.e + f.m) → convert (.float f) mode (({} : Acc).add (decodeFloat f x)) 1 = x) ∧
  (∀ f mode x, decodeFloat f x = .nan → convert (.float f) mode (({} : Acc).add (decodeFloat f x)) 1 = canonNan f) ∧
  (∀ w mode x, w ∈ [8, 16, 32] → mode < 4 → x < 2 ^ w →
    convert (.int w) mode (({} : Acc).add (decodeInt w x)) 1 = x) ∧
  (∀ w mode c (a : Acc), 1 ≤ w → 0 < c → convert (.int w) mode a c < 2 ^ w)

/-- LRE_UPDATE and the table's sequence (R208, R209, R210): at or below LAST_SEQ it does nothing, above LAST_SEQ + 1 it fails
with STATE_CONFLICT, and at LAST_SEQ + 1 its last write sets LAST_SEQ. -/
def Obligations.UpdatesAreSequenced : Prop :=
  ∀ (s : State) (t : Step) bs, readRange s t.part t.xlats (dfld t.raw 0x10 0 57) 8 = some (bs, none) →
    (dfld t.raw 0x30 0 64 ≤ leNat bs → (runUpdate s t).skipped = true ∧ (runUpdate s t).writes = [] ∧ (runUpdate s t).fail = none) ∧
    (leNat bs + 1 < dfld t.raw 0x30 0 64 →
      (runUpdate s t).skipped = false ∧ (runUpdate s t).writes = [] ∧ (runUpdate s t).fail = some .stateConflict) ∧
    (dfld t.raw 0x30 0 64 = leNat bs + 1 → (runUpdate s t).skipped = false ∧
      (runUpdate s t).writes.getLast? = some (dfld t.raw 0x10 0 57, leBytes (dfld t.raw 0x30 0 64) 8))

/-- The Atomic Unit (R213, R214): a refused atomic leaves its line; two EXACT_ADDs give the same line in either order; the
integer operations give the value of the table at its place and leave every other byte of the line. -/
def Obligations.AtomicsAtTheHome : Prop :=
  (∀ op off l, (atomUnit op off l).status ≠ .ok → (atomUnit op off l).line = l) ∧
  (∀ op off l, 0xC < op.code → (atomUnit op off l).status = .badOpcode) ∧
  (∀ a b l, a.code = 0xB → b.code = 0xB → (atomUnit a 0 l).status = .ok → (atomUnit b 0 l).status = .ok →
    (atomUnit b 0 (atomUnit a 0 l).line).status = .ok → (atomUnit a 0 (atomUnit b 0 l).line).status = .ok →
    (atomUnit b 0 (atomUnit a 0 l).line).line = (atomUnit a 0 (atomUnit b 0 l).line).line) ∧
  (∀ op off l, op.code < 0xA → op.wide = true → off % 8 = 0 → off < 64 →
    (atomUnit op off l).status = .ok ∧ (atomUnit op off l).old = fld l.toNat (8 * off) 64 ∧
    fld (atomUnit op off l).line.toNat (8 * off) 64 =
      atomInt op.code 64 (fld l.toNat (8 * off) 64) op.operand.toNat op.compare.toNat ∧
    (∀ i, i < 512 → i < 8 * off ∨ 8 * off + 64 ≤ i → (atomUnit op off l).line.toNat.testBit i = l.toNat.testBit i)) ∧
  (∀ op off l, op.code < 0xB → off % 4 ≠ 0 → (atomUnit op off l).status ≠ .ok)

/-- What a Tile Port keeps out (R22, R24, R249, R250, R260, R270): a message while FABRIC_PRESENT is low or from a dead tile
changes nothing; a stale generation is dropped and counted; an impossible message is dropped, counted in COH_PROTOCOL_ERRS
and reported with the sending Tile Port as source, and no line changes. Impossible is a message with a reserved opcode or
field, an answer that nothing awaits, and a completion or acknowledgement of a step that the tile does not hold. -/
def Obligations.TileMessagesDropped : Prop :=
  (∀ i op m (s : State), tileMsgOf i = some (op, m) →
    (fabricOn s = false ∨ s.bnd.fabric.getLsbD m.tile = false ∨ s.coh.dead.getLsbD m.tile = true →
      exec i s = .next (settle s)) ∧
    (fabricOn s = true → s.bnd.fabric.getLsbD m.tile = true → s.coh.dead.getLsbD m.tile = false → m.gen ≠ domainGen s m.tile →
      exec i s = .next (settle { s with coh := { s.coh with stale := tcount 32 s.coh.stale m.tile 1 } })) ∧
    (AtPort s m.tile m.gen → m.legal op = false → exec i s = .next (settle (impossible m.tile m.head s)))) ∧
  (∀ m d (s : State), homeOf s m = none →
    (Passes s 0x21 m → exec (.respI m) s = .next (settle (impossible m.tile m.head s))) ∧
    (Passes s 0x22 m → exec (.respS m) s = .next (settle (impossible m.tile m.head s))) ∧
    (Passes s 0x23 m → exec (.respIData m d 0) s = .next (settle (impossible m.tile m.head s))) ∧
    (Passes s 0x24 m → exec (.respSData m d 0) s = .next (settle (impossible m.tile m.head s)))) ∧
  (∀ m n k (s : State), homeOf s m = some (n, k) → (∀ x, (llc s k).trans = some x → m.tile ∉ x.await ∨ x.tag ≠ m.tag) →
    (Passes s 0x21 m → exec (.respI m) s = .next (settle (impossible m.tile m.head s))) ∧
    (Passes s 0x22 m → exec (.respS m) s = .next (settle (impossible m.tile m.head s)))) ∧
  (∀ f a (m : TileMsg) (s : State), m = { head := f ++ a } → Passes s 0x25 m →
    (∀ n k x, homeOf s m = some (n, k) → (llc s k).trans = some x → m.tile ∉ x.await ∨ x.tag ≠ m.tag) →
    exec (.stashAck f a) s = .next (settle (impossible m.tile m.head s))) ∧
  (∀ t gen id st (s : State), AtPort s t gen → (∀ x, findStep s id = some x →
      tileUnit t ∉ x.units ∨ tileUnit t ∈ x.unitsDone ∨ (x.phase ≠ .running ∧ ¬(x.phase = .killed ∧ tileUnit t ∈ x.unacked))) →
    exec (.stepCompletion t gen id st) s = .next (settle (strangeStep t gen s)) ∧
    ((∀ x, findStep s id = some x → ¬(x.phase = .killed ∧ tileUnit t ∈ x.unacked)) → (t, id) ∉ s.coh.owed → t < 64 →
      exec (.killAcknowledgement (tileUnit t) gen id) s = .next (settle (strangeStep t gen s)))) ∧
  (∀ t gen id st (s : State), fabricOn s = true → t < 64 → s.bnd.fabric.getLsbD t = true → s.coh.dead.getLsbD t = false →
    gen ≠ domainGen s t → ∀ i ∈ [Instr.stepCompletion t gen id st, .killAcknowledgement (tileUnit t) gen id],
      exec i s = .next (settle { s with coh := { s.coh with stale := tcount 32 s.coh.stale t 1 } })) ∧
  (∀ t head (s : State),
    (impossible t head s).coh = { s.coh with protocolErrs := satAdd 32 s.coh.protocolErrs 1 } ∧
    (impossible t head s).mi = s.mi ∧ (impossible t head s).steps = s.steps ∧
    ∃ r ∈ (impossible t head s).fc.bbr, r.type = .fault ∧ r.cls = .u ∧ r.source = tileUnit t ∧ r.kind = 0x21)

/-- A home serves a request only within its domain and its rights (R242, R252, R258, R273): a tile in the stock, a line that the
hand does not reach, and a step without the right are answered with RspErr carrying RIGHTS, and no line changes; requests
are discarded while a recall walk runs, and back-pressured while no tracker is free. -/
def Obligations.RequestsNeedRights : Prop :=
  (∀ m d step (s : State), homeOf s m = none →
    (Passes s 0x01 m → exec (.rds m) s = .next (settle (rspErr m.tile m.tag m.dpa .rights s))) ∧
    (Passes s 0x02 m → exec (.rdu m) s = .next (settle (rspErr m.tile m.tag m.dpa .rights s))) ∧
    (Passes s 0x03 m → exec (.upg m) s = .next (settle (rspErr m.tile m.tag m.dpa .rights s))) ∧
    (Passes s 0x04 m → exec (.atom m d step 0) s = .next (settle (rspErr m.tile m.tag m.dpa .rights s)))) ∧
  (∀ m d step n k (s : State), s.coh.walk.getLsbD n = false →
    (Reaches s 0x01 m n k → tileGrant s m.tile m.dpa 2 = false →
      exec (.rds m) s = .next (settle (rspErr m.tile m.tag m.dpa .rights s))) ∧
    (Reaches s 0x02 m n k → tileGrant s m.tile m.dpa 1 = false →
      exec (.rdu m) s = .next (settle (rspErr m.tile m.tag m.dpa .rights s))) ∧
    (Reaches s 0x03 m n k → tileGrant s m.tile m.dpa 1 = false →
      exec (.upg m) s = .next (settle (rspErr m.tile m.tag m.dpa .rights s))) ∧
    (Reaches s 0x04 m n k → tileGrant s m.tile m.dpa 0 = false →
      exec (.atom m d step 0) s = .next (settle (rspErr m.tile m.tag m.dpa .rights s)))) ∧
  (∀ m d step n k (s : State), s.coh.walk.getLsbD n = true →
    (Reaches s 0x01 m n k → exec (.rds m) s = .next (settle s)) ∧ (Reaches s 0x02 m n k → exec (.rdu m) s = .next (settle s)) ∧
    (Reaches s 0x03 m n k → exec (.upg m) s = .next (settle s)) ∧
    (Reaches s 0x04 m n k → exec (.atom m d step 0) s = .next (settle s))) ∧
  (∀ m n k (s : State), Passes s 0x01 m → homeOf s m = some (n, k) →
    256 ≤ trackers s (sliceOf (linePc k)) ∨ behind s m (sliceOf (linePc k)) = true →
    exec (.rds m) s = .next (settle { s with coh := { s.coh with backed := s.coh.backed ++ [{ m := m, kind := .rds }] } })) ∧
  (∀ t tag dpa st (s : State), rspErr t tag dpa st s = { s with
    out := .tile t (homeHead (.rspErr st) (domainGen s t) t tag (dpa / 64 * 64) false) none :: s.out })

/-- Requests at a resident line (R259, R262): the line's new directory state and the message that leaves, for each stable state
of the home. -/
def Obligations.RequestsAtTheHome : Prop :=
  (∀ m n k (s : State), MayServe s 0x01 m 2 n k →
    ((llc s k).hstate = .l → exec (.rds m) s =
      .next (settle (toTile m.tile .dataE m.tag k
        (setLlc k { llc s k with hstate := .o, presence := BitVec.ofNat 64 (2 ^ m.tile) } s)))) ∧
    ((llc s k).hstate = .s → exec (.rds m) s =
      .next (settle (toTile m.tile .dataS m.tag k
        (setLlc k { llc s k with presence := setBit (llc s k).presence m.tile true } s)))) ∧
    ((llc s k).hstate = .o → (llc s k).presence.getLsbD m.tile = true →
      exec (.rds m) s = .next (settle (toTile m.tile .dataE m.tag k s))) ∧
    ((llc s k).hstate = .o → (llc s k).presence.getLsbD m.tile = false → s.coh.dead.getLsbD (ownerOf (llc s k)) = false →
      exec (.rds m) s = .next (settle (snoopAll k .ss (reqItem { m := m, kind := .rds }) [ownerOf (llc s k)] s)))) ∧
  (∀ m n k (s : State), MayServe s 0x02 m 1 n k →
    ((llc s k).hstate = .l → exec (.rdu m) s =
      .next (settle (toTile m.tile .dataE m.tag k
        (setLlc k { llc s k with hstate := .o, presence := BitVec.ofNat 64 (2 ^ m.tile) } s)))) ∧
    ((llc s k).hstate = .s ∨ ((llc s k).hstate = .o ∧ (llc s k).presence.getLsbD m.tile = false) →
      others (llc s k) m.tile ≠ [] → (∀ t ∈ others (llc s k) m.tile, s.coh.dead.getLsbD t = false) →
      exec (.rdu m) s = .next (settle (snoopAll k .si (reqItem { m := m, kind := .rdu }) (others (llc s k) m.tile) s))) ∧
    ((llc s k).hstate = .o → (llc s k).presence.getLsbD m.tile = true →
      exec (.rdu m) s = .next (settle (toTile m.tile .dataE m.tag k s)))) ∧
  (∀ m n k (s : State), MayServe s 0x03 m 1 n k →
    ((llc s k).hstate = .l → exec (.upg m) s =
      .next (settle (toTile m.tile .dataE m.tag k
        (setLlc k { llc s k with hstate := .o, presence := BitVec.ofNat 64 (2 ^ m.tile) } s)))) ∧
    ((llc s k).hstate = .s → others (llc s k) m.tile = [] → (llc s k).presence.getLsbD m.tile = true →
      exec (.upg m) s = .next (settle (toTile m.tile .grantE m.tag k
        (setLlc k { llc s k with hstate := .o, presence := BitVec.ofNat 64 (2 ^ m.tile) } s)))) ∧
    ((llc s k).hstate = .s ∨ ((llc s k).hstate = .o ∧ (llc s k).presence.getLsbD m.tile = false) →
      others (llc s k) m.tile ≠ [] → (∀ t ∈ others (llc s k) m.tile, s.coh.dead.getLsbD t = false) →
      exec (.upg m) s = .next (settle (snoopAll k .si
        { reqItem { m := m, kind := .upg } with near := (llc s k).presence.getLsbD m.tile } (others (llc s k) m.tile) s))) ∧
    ((llc s k).hstate = .o → (llc s k).presence.getLsbD m.tile = true →
      exec (.upg m) s = .next (settle (strange 0x03 (reqItem { m := m, kind := .upg }) s)))) ∧
  (∀ m d id t n k (s : State), MayServe s 0x04 m 0 n k → findStep s id = some t → t.phase = .running →
    t.units.contains (tileUnit m.tile) = true → (∀ u ∈ s.steps, ∀ a ∈ stepAtoms u k, a.2.ret = false) →
    unverified s k = false →
    ((llc s k).hstate = .l → stepAtoms t k = [] →
      (atomUnit (m.atomOp d) (m.dpa % 64) (llc s k).data).status = .ok → (llc s k).poison = false →
      exec (.atom m d (some id) 0) s = .next (settle (modStep id
        (fun t => { t with log := t.log ++ [.atomic k (m.dpa % 64) s.coh.atomSeq (m.atomOp d)] })
        (sendTile m.tile (.atomResp .ok) m.tag (m.dpa / 64 * 64)
          (BitVec.ofNat 512 (if (m.atomOp d).ret then (atomUnit (m.atomOp d) (m.dpa % 64) (llc s k).data).old else 0)) false
          { s with coh := { s.coh with atomsHome := satAdd 64 s.coh.atomsHome 1, atomSeq := s.coh.atomSeq + 1 } })))) ∧
    ((llc s k).hstate = .s ∨ (llc s k).hstate = .o → bitList (llc s k).presence ≠ [] →
      (∀ t ∈ bitList (llc s k).presence, s.coh.dead.getLsbD t = false) →
      exec (.atom m d (some id) 0) s = .next (settle (snoopAll k .si
        (reqItem { m := m, kind := .atom, step := some id, data := d }) (bitList (llc s k).presence) s))))

/-- Lines are set and read alone (R243, R249, R252, R258): a line set reads back, no other line changes, a message carries the
line's data and mark, and snoops go only to the tiles named, at most 8 at a time from a slice to a tile. Write-backs and
answers of tiles (R247, R250, R252, R259): only the owner's data is taken, and it makes the copy dirty; a write-back of any
other tile is acknowledged and its data discarded; the answer that a transaction waits for ends it, and makes room for the
next snoop of the slice to the tile. -/
def Obligations.WriteBacksAndAnswers : Prop :=
  (∀ k (l : LlcLine) (s : State), l.hstate ≠ .i ∨ l.trans ≠ none ∨ l.wait ≠ [] → llc (setLlc k l s) k = l) ∧
  (∀ k j (l : LlcLine) (s : State), j ≠ k → llc (setLlc k l s) j = llc s j) ∧
  (∀ t m tag k (s : State), (toTile t m tag k s).coh = s.coh ∧ (toTile t m tag k s).mi = s.mi ∧
    (toTile t m tag k s).out = .tile t (homeHead m (domainGen s t) t tag (llc s k).dpa (llc s k).poison)
      (if carries m then some (llc s k).data else none) :: s.out) ∧
  (∀ k kind i ts (s : State), (snoopAll k kind i ts s).mi = s.mi ∧
    (∀ j, j ≠ k → llc (snoopAll k kind i ts s) j = llc s j) ∧
    ∀ e ∈ (snoopAll k kind i ts s).out, e ∈ s.out ∨ ∃ t ∈ ts, ∃ h d, e = .tile t h d) ∧
  (∀ k t (s : State), 8 ≤ outstanding s (sliceOf (linePc k)) t → trySnoop k s t = s) ∧
  (∀ k i (s : State) j, j ≠ k → llc (performAtom k i true (llc s k).data (llc s k).poison s) j = llc s j) ∧
  (∀ m d n k (s : State), Stable s n k →
    ((llc s k).hstate = .o → (llc s k).presence.getLsbD m.tile = true →
      (Reaches s 0x05 m n k → exec (.wbm m d 0) s = .next (settle (sendTile m.tile .wbAck m.tag (m.dpa / 64 * 64) 0 false (setLlc k
        { llc s k with hstate := .l, presence := 0, data := d, poison := m.poison, dirty := true } s)))) ∧
      (Reaches s 0x06 m n k → exec (.wbc m d 0) s = .next (settle (sendTile m.tile .wbAck m.tag (m.dpa / 64 * 64) 0 false (setLlc k
        { llc s k with data := d, poison := m.poison, dirty := true } s))))) ∧
    ((llc s k).hstate = .l ∨ (llc s k).presence.getLsbD m.tile = false →
      (Reaches s 0x05 m n k → exec (.wbm m d 0) s = .next (settle (sendTile m.tile .wbAck m.tag (m.dpa / 64 * 64) 0 false s))) ∧
      (Reaches s 0x06 m n k → exec (.wbc m d 0) s = .next (settle (sendTile m.tile .wbAck m.tag (m.dpa / 64 * 64) 0 false s))))) ∧
  (∀ m d n k (s : State), llc s k = {} →
    (Reaches s 0x05 m n k → exec (.wbm m d 0) s = .next (settle (sendTile m.tile .wbAck m.tag (m.dpa / 64 * 64) 0 false s))) ∧
    (Reaches s 0x06 m n k → exec (.wbc m d 0) s = .next (settle (sendTile m.tile .wbAck m.tag (m.dpa / 64 * 64) 0 false s)))) ∧
  (∀ m d n k x (s : State), homeOf s m = some (n, k) → (llc s k).trans = some x → x.await = [m.tile] → x.unsent = [] →
    x.tag = m.tag →
    (x.kind = .ss ∨ x.kind = .si →
      (Passes s 0x21 m → exec (.respI m) s = .next (settle (nextSnoop (sliceOf (linePc k)) m.tile
        (drainAll k (finishItem k x.item x.kind none (setLlc k { llc s k with trans := some { x with await := [] } } s)))))) ∧
      (Passes s 0x23 m → exec (.respIData m d 0) s = .next (settle (nextSnoop (sliceOf (linePc k)) m.tile
        (drainAll k (finishItem k x.item x.kind none (setLlc k
          { llc s k with data := d, poison := m.poison, dirty := true, trans := some { x with await := [] } } s))))))) ∧
    (x.kind = .ss →
      (Passes s 0x22 m → exec (.respS m) s = .next (settle (nextSnoop (sliceOf (linePc k)) m.tile
        (drainAll k (finishItem k x.item .ss (some m.tile)
          (setLlc k { llc s k with trans := some { x with await := [] } } s)))))) ∧
      (Passes s 0x24 m → exec (.respSData m d 0) s = .next (settle (nextSnoop (sliceOf (linePc k)) m.tile
        (drainAll k (finishItem k x.item .ss (some m.tile) (setLlc k
          { llc s k with data := d, poison := m.poison, dirty := true, trans := some { x with await := [] } } s)))))))) ∧
  (∀ i k (l : LlcLine) (s : State), i.kind = .rds → l.trans ≠ none →
    finishItem k i .ss none (setLlc k l s) = toTile i.tile .dataS i.tag k (setLlc k
      { l with trans := none, hstate := .s, presence := BitVec.ofNat 64 (2 ^ i.tile) } s) ∧
    (∀ o, finishItem k i .ss (some o) (setLlc k l s) = toTile i.tile .dataS i.tag k (setLlc k
      { l with trans := none, hstate := .s, presence := setBit (BitVec.ofNat 64 (2 ^ i.tile)) o true } s))) ∧
  (∀ i k kept (l : LlcLine) (s : State), i.kind = .rdu ∨ i.kind = .upg → l.trans ≠ none →
    finishItem k i .si kept (setLlc k l s) =
      toTile i.tile (if i.kind = .upg ∧ i.near = true then .grantE else .dataE) i.tag k (setLlc k
        { l with trans := none, hstate := .o, presence := BitVec.ofNat 64 (2 ^ i.tile) } s))

/-- Stash offers, kills and the snoop timeout (R266, R267, R269, R270, R365, R468): an accepted stash makes the tile owner, a
declined one leaves the line in L and is counted; a tile that lets the timeout expire is dead and reported with
COH_AGENT_DEAD; a completion and an acknowledgement count for the step they name, and a completion that crosses a kill for
none. -/
def Obligations.TilesAnswer : Prop :=
  (∀ f a (m : TileMsg) n k x (s : State), m = { head := f ++ a } → Passes s 0x25 m → homeOf s m = some (n, k) →
    (llc s k).trans = some x → x.kind = .st →
    m.tile ∈ x.await → x.tag = m.tag →
    (m.accept = true → exec (.stashAck f a) s = .next (settle (nextSnoop (sliceOf (linePc k)) m.tile (drainAll k (setLlc k
      { llc s k with trans := none, hstate := .o, presence := BitVec.ofNat 64 (2 ^ m.tile) } s))))) ∧
    (m.accept = false → exec (.stashAck f a) s = .next (settle (nextSnoop (sliceOf (linePc k)) m.tile (drainAll k (setLlc k
      { llc s k with trans := none, hstate := .l }
      { s with coh := { s.coh with stashDeclines := satAdd 64 s.coh.stashDeclines 1 } })))))) ∧
  (∀ u gen id t st (s : State), AtPort s u gen → findStep s id = some t → t.units.contains (tileUnit u) = true →
    t.unitsDone.contains (tileUnit u) = false →
    (t.phase = .running → exec (.stepCompletion u gen id st) s = .next (settle (fillBe t.part (modStep id
      (fun t => { t with phase := .finished, unitsDone := t.units,
                         fail := if t.fail.isSome then t.fail else if st = .ok then none else some st }) s)))) ∧
    (t.phase = .killed → t.unacked.contains (tileUnit u) = true → exec (.stepCompletion u gen id st) s =
      .next (settle (modStep id (fun t => { t with unitsDone := tileUnit u :: t.unitsDone }) s)))) ∧
  (∀ u gen id t (s : State), AtPort s u gen → findStep s id = some t → t.phase = .killed → u < 64 →
    t.unacked.contains (tileUnit u) = true →
    exec (.killAcknowledgement (tileUnit u) gen id) s = .next (settle (fillBe t.part (ackKill (tileUnit u) id s)))) ∧
  (∀ u gen id (s : State), AtPort s u gen → findStep s id = none → u < 64 → (u, id) ∈ s.coh.owed →
    exec (.killAcknowledgement (tileUnit u) gen id) s =
      .next (settle { s with coh := { s.coh with owed := s.coh.owed.filter fun o => o ≠ (u, id) } })) ∧
  (∀ e gen id t (s : State), live s = true → e < 320 → (engine s e).gen = gen → findStep s id = some t → t.phase = .killed →
    t.unacked.contains (engineUnit e) = true →
    exec (.killAcknowledgement (engineUnit e) gen id) s = .next (settle (fillBe t.part (ackKill (engineUnit e) id s)))) ∧
  (∀ e gen id (s : State), live s = true → e < 320 → (engine s e).gen ≠ gen →
    exec (.killAcknowledgement (engineUnit e) gen id) s = .next (settle { s with
      rc := { s.rc with staleDrops := satAdd 64 s.rc.staleDrops 1 } })) ∧
  (∀ t (s : State), live s = true → t < 64 → awaitLines s t ≠ [] → awaitsVerdict s t = false → s.coh.dead.getLsbD t = false →
    ∃ u, exec (.snoopTimeout t) s = .next (settle u) ∧ u.coh.dead = setBit s.coh.dead t true ∧
      ∃ r ∈ u.fc.bbr, r.source = tileUnit t ∧ r.kind = 0x22 ∧ r.cls = .u) ∧
  (∀ t (s : State), awaitLines s t = [] ∨ awaitsVerdict s t = true → exec (.snoopTimeout t) s = .next (settle s))

/-- Host accesses to partition memory (R33, R215, R247, R261, R263, R295, R310, R348): a function that does not serve them
answers all ones, drops writes and rejects AtomicOps; a resident line in L answers a read with its bytes and takes a write
dirty; an AtomicOp runs on it and returns the old value; a granule under another key ID refuses. The walks of the access are
counted. -/
def Obligations.HostAccessesPartitionMemory : Prop :=
  (∀ a kind w q x y bs st (s : State), s.bnd.powered = true → hostServed s a = false →
    exec (.hostMemoryRead a) s = .next (settle { s with
      out := .hostData a.part .rights (List.replicate a.len 0xFF) false :: s.out }) ∧
    exec (.hostMemoryWrite a bs st) s = .next (settle s) ∧
    exec (.pcieAtomicOp a kind w q x y) s = .next (settle { s with out := .atomicResult .rights 0 false true :: s.out })) ∧
  (∀ a kind w x y (s : State), s.bnd.powered = true →
    exec (.pcieAtomicOp a kind w true x y) s = .next (settle { s with out := .atomicResult .rights 0 false true :: s.out })) ∧
  (∀ a g xs d k (s0 s : State), hostServed s0 a = true → isHost a.dva = false → g = { dva := a.dva, size := a.len, r := true } →
    s = countWalks a.part a.host [g] s0 → hostXlat s a g = .ok xs →
    0 < a.len → a.dva % 64 + a.len ≤ 64 → xlatDpa xs a.dva = some d → homeLine s a.part d = some k → d % 64 = a.dva % 64 →
    (keyCheck s (linePc k) (lineNo k) (dpaKey (d / 64 * 64)) = .match_ → Stable s a.part k → unverified s k = false →
      s.coh.walk.getLsbD a.part = false → a.entryLost = false → a.copyLost = false → (llc s k).hstate = .l ∨ (llc s k).hstate = .s →
      exec (.hostMemoryRead a) s0 = .next (settle { s with
        out := .hostData a.part .ok (((lineBytes (llc s k).data).drop (a.dva % 64)).take a.len) (llc s k).poison :: s.out })) ∧
    (keyCheck s (linePc k) (lineNo k) (dpaKey (d / 64 * 64)) = .refuse →
      exec (.hostMemoryRead a) s0 = .next (settle { s with
        mi := { s.mi with keyMismatch := satAdd 64 s.mi.keyMismatch 1 }
        out := .hostData a.part .rights [] false :: s.out }))) ∧
  (∀ a g xs d k b bs (s0 s : State), hostServed s0 a = true → isHost a.dva = false →
    g = { dva := a.dva, size := (b :: bs).length, w := true } → s = countWalks a.part a.host [g] s0 → hostXlat s a g = .ok xs →
    a.dva % 64 + (b :: bs).length ≤ 64 → xlatDpa xs a.dva = some d → homeLine s a.part d = some k → d % 64 = a.dva % 64 →
    keyCheck s (linePc k) (lineNo k) (dpaKey (d / 64 * 64)) = .match_ → Stable s a.part k → (llc s k).hstate = .l →
    (llc s k).presence = 0 → s.coh.walk.getLsbD a.part = false → a.entryLost = false → a.copyLost = false → a.parity = 0 →
    exec (.hostMemoryWrite a (b :: bs) none) s0 = .next (settle (setLlc k { llc s k with
      dirty := true, data := lineMerge (llc s k).data (a.dva % 64) (b :: bs),
      poison := (llc s k).poison && (b :: bs).length != 64 } s))) ∧
  (∀ a g xs d k kind w x y r (s0 s : State), hostServed s0 a = true → isHost a.dva = false →
    g = { dva := a.dva, size := if w then 8 else 4, a := true } → s = countWalks a.part a.host [g] s0 → hostXlat s a g = .ok xs →
    xlatDpa xs a.dva = some d → homeLine s a.part d = some k →
    keyCheck s (linePc k) (lineNo k) (dpaKey (d / 64 * 64)) = .match_ → Stable s a.part k →
    unverified s k = false → (llc s k).hstate = .l → (∀ u ∈ s.steps, stepAtoms u k = []) →
    s.coh.walk.getLsbD a.part = false → a.entryLost = false → a.copyLost = false → a.parity = 0 →
    r = atomUnit { code := pcieOp kind, wide := w, operand := x, compare := y, ret := true } (d % 64) (llc s k).data →
    r.status = .ok →
    exec (.pcieAtomicOp a kind w false x y) s0 = .next (settle (setLlc k { llc s k with
      data := r.line, dirty := (llc s k).dirty ||
        atomWrites { code := pcieOp kind, wide := w, operand := x, compare := y, ret := true } r.old }
      { s with
        coh := { s.coh with atomsHome := satAdd 64 s.coh.atomsHome 1 }
        out := .atomicResult .ok (BitVec.ofNat 64 r.old) (llc s k).poison false :: s.out })))

/-- External memory (R268, R284, R291, R297, R300, R302, R305): a line written back reads as written and no other line of memory
changes; a poisoned one reads zeros marked poisoned; a write whose group waits for a visit is held in the write buffer and
read from there; an exhausted PC drops the write and reads poison. The byte list keeps its canonical form, a byte written
reads back, and no other byte changes. -/
def Obligations.MemoryReadsBack : Prop :=
  (∀ (m : List Host.Cell) k v, Memory.wf m = true → Memory.wf (memPut m k v) = true ∧ memGet (memPut m k v) k = v ∧
    ∀ j, j ≠ k → memGet (memPut m k v) j = memGet m j) ∧
  (∀ k d (s : State), (pcState s (linePc k)).exhausted = false → groupWaits s (linePc k) (groupOf (lineNo k)) = false →
    tget 0 (cblock s (linePc k) (groupOf (lineNo k))).minors (lineNo k % 64) < 0x7E → parkedAt s k = none →
    Memory.wf s.mi.mem = true → readMem (writeMem k d false s) k = (d, false) ∧
    ∀ j, j ≠ k → readMem (writeMem k d false s) j = readMem s j) ∧
  (∀ k d (s : State), (pcState s (linePc k)).exhausted = false → groupWaits s (linePc k) (groupOf (lineNo k)) = false →
    tget 0 (cblock s (linePc k) (groupOf (lineNo k))).minors (lineNo k % 64) ≠ 0x7E → parkedAt s k = none →
    Memory.wf s.mi.mem = true → readMem (writeMem k d true s) k = (0, true) ∧
    (writeMem k d true s).mi.poisonWrites = satAdd 64 s.mi.poisonWrites 1 ∧
    ∀ j, j ≠ k → readMem (writeMem k d true s) j = readMem s j) ∧
  (∀ k d p (s : State), (pcState s (linePc k)).exhausted = false → groupWaits s (linePc k) (groupOf (lineNo k)) = true →
    writeMem k d p s = park k d p s ∧
    (groupLost s (linePc k) (groupOf (lineNo k)) = false →
      readMem (park k d p s) k = if p then (0, true) else (d, false)) ∧
    ∀ j, j ≠ k → readMem (park k d p s) j = readMem s j) ∧
  (∀ k d p (s : State), (pcState s (linePc k)).exhausted = true → writeMem k d p s = s ∧ readMem s k = (0, true)) ∧
  (∀ k (s : State), groupLost s (linePc k) (groupOf (lineNo k)) = true → readMem s k = (0, true)) ∧
  (∀ k d (s : State), (writeMem k d false s).coh = s.coh ∧ (writeMem k d false s).steps = s.steps ∧
    (writeMem k d false s).qu.qs = s.qu.qs)

/-- Counters (R284, R301, R302, R304): a write-back moves its minor on; an overflow below the largest MAJOR raises it by one,
restarts the minors of the group and keeps the poisoned ones, and is counted; at the largest MAJOR the PC is re-keyed to the
next generation, the group first, and the write waits for that visit. Claims and the key-ID check (R294, R295, R305): the
first access to an unclaimed granule records its key ID, rewrites its 32 lines as zeros and counts; on an exhausted PC it
records nothing; an access under another key ID is refused, counted, and reaches no memory. -/
def Obligations.CountersAndClaims : Prop :=
  (∀ k d b m (s : State), (pcState s (linePc k)).exhausted = false → groupWaits s (linePc k) (groupOf (lineNo k)) = false →
    b = cblock s (linePc k) (groupOf (lineNo k)) → m = tget 0 b.minors (lineNo k % 64) →
    (m < 0x7E → cblock (writeMem k d false s) (linePc k) (groupOf (lineNo k)) =
      { b with minors := tput b.minors (lineNo k % 64) (m + 1) }) ∧
    (m ≠ 0x7E → cblock (writeMem k d true s) (linePc k) (groupOf (lineNo k)) =
      { b with minors := tput b.minors (lineNo k % 64) 0x7F }) ∧
    (m = 0x7E ∨ m = 0x7F → b.major < 0xFFFFFFFF →
      cblock (writeMem k d false s) (linePc k) (groupOf (lineNo k)) =
        { b with major := b.major + 1, minors := tdel (freshMinors b.minors) (lineNo k % 64) } ∧
      (writeMem k d false s).mi.minorOverflows = satAdd 64 s.mi.minorOverflows 1) ∧
    (m = 0x7E → b.major < 0xFFFFFFFF → cblock (writeMem k d true s) (linePc k) (groupOf (lineNo k)) =
      { b with major := b.major + 1, minors := tput (freshMinors b.minors) (lineNo k % 64) 0x7F }) ∧
    (m = 0x7E ∨ m = 0x7F → b.major = 0xFFFFFFFF → genOf s (linePc k) < 0xFFFF → (pcState s (linePc k)).sweep = none →
      cblock (writeMem k d false s) (linePc k) (groupOf (lineNo k)) = b ∧
      (pcState (writeMem k d false s) (linePc k)).sweep =
        some { kind := .rekey, target := genOf s (linePc k) + 1, first := [groupOf (lineNo k)] } ∧
      readMem (writeMem k d false s) k = (d, false))) ∧
  (∀ p line k (s : State), keyCheck s p line k = .claim → (pcState s p).exhausted = false → (access p line k s).1 = true ∧
    granuleKey (cblock (access p line k s).2 p (groupOf line)) line = k ∧
    (access p line k s).2.mi.claims = satAdd 64 s.mi.claims 1) ∧
  (∀ p line k (s : State), keyCheck s p line k = .claim → (pcState s p).exhausted = true → access p line k s = (true, s)) ∧
  (∀ p line k (s : State), keyCheck s p line k = .refuse →
    access p line k s = (false, { s with mi := { s.mi with keyMismatch := satAdd 64 s.mi.keyMismatch 1 } })) ∧
  (∀ p line k (s : State), keyCheck s p line k = .match_ → access p line k s = (true, s)) ∧
  (∀ p line k (s : State), k ≠ 0 → (keyCheck s p line k = .refuse ↔
    granuleKey (cblock s p (groupOf line)) line ≠ 0 ∧ granuleKey (cblock s p (groupOf line)) line ≠ k))

/-- Sweeps (R128, R302, R304, R306, R309): a visit verifies and re-keys the group at the boundary and moves on past groups that
have the new generation already, and the last one gives the PC its new generation; a scrub leaves the PC zero, unclaimed and
ready; a way becomes ready; a key ID whose lines have left the LLC is FLUSHED. Nothing happens where no such work runs. -/
def Obligations.SweepsAndWalksEnd : Prop :=
  (∀ p w a r u x v (s : State), live s = true → (pcState s p).sweep = some w → w.kind = .rekey → w.first = [] → w.lost = [] →
    groupLost s p w.boundary = false → checkVisit p w.boundary [] a r s = (.good, u) →
    x = stepBoundary p (visitRekey p w.boundary w u) → v = skipDone p (x.mi.counters.length + 1) x →
    exec (.sweepVisit ⟨p, [], a, r⟩) s = .next (settle
      (if (pcState v p).sweep.any rekeyOver then nextSweep p (endRekey p w.target v) else v))) ∧
  (∀ p g a (s : State), s.fc.inj.remaining = 0 → (checkVisit p g [] a .agree s).1 = .good ∧
    (checkVisit p g [] a .agree s).2.mi.mem = s.mi.mem ∧ (checkVisit p g [] a .agree s).2.mi.counters = s.mi.counters ∧
    (checkVisit p g [] a .agree s).2.mi.pcs = s.mi.pcs) ∧
  (∀ p w a (s : State), live s = true → s.fc.inj.remaining = 0 → (pcState s p).sweep = some w → w.kind = .rekey → w.first = [] →
    w.lost = [] → w.boundary + 1 = groupCount → (pcState s p).queued = [] → (pcState s p).parked = [] →
    ∃ t, exec (.sweepVisit ⟨p, [], a, .agree⟩) s = .next (settle t) ∧
      genOf t p = w.target ∧ (pcState t p).sweep = none ∧ t.mi.rekeys = satAdd 32 s.mi.rekeys 1 ∧ t.mi.mem = s.mi.mem) ∧
  (∀ p g w (s : State), groupLost s p g = false → g ∉ w.lost → (∀ x ∈ (pcState s p).parked, groupOf x.line ≠ g) →
    (visitRekey p g w s).mi.mem = s.mi.mem ∧ (visitRekey p g w s).coh = s.coh ∧
    ((cblock s p g).gen ≠ w.target → cblock (visitRekey p g w s) p g =
      { cblock s p g with gen := w.target, major := 0, minors := freshMinors (cblock s p g).minors })) ∧
  (∀ p l a r (s : State), (pcState s p).sweep = none → exec (.sweepVisit ⟨p, l, a, r⟩) s = .next (settle s) ∧
    exec (.scrubEnd p) s = .next (settle s)) ∧
  (∀ p w (s : State), live s = true → (pcState s p).sweep = some w → w.kind = .scrub → p < 1280 →
    ∃ t, exec (.scrubEnd p) s = .next (settle t) ∧ genOf t p = w.target ∧ (pcState t p).present = 0 ∧
      (pcState t p).sweep = none ∧ t.mi.scrubs = satAdd 32 s.mi.scrubs 1 ∧ t.ps.pendPcs.getLsbD p = false ∧
      (∀ g, g < 2 ^ 18 → cblock t p g = { gen := w.target }) ∧
      (∀ a, a / 2 ^ 30 = p → memGet t.mi.mem a = 0) ∧ (∀ a, a / 2 ^ 30 ≠ p → memGet t.mi.mem a = memGet s.mi.mem a)) ∧
  (∀ sl way (s : State), live s = true → sl < 40 → way < 32 → exec (.waySweepEnd sl way) s =
    .next (settle { s with ps := { s.ps with pendWays := setBit s.ps.pendWays (32 * sl + way) false } })) ∧
  (∀ k r c (s : State), live s = true → k ≠ 0 → s.mi.keys = [(k, r)] → r.state = .flushing → s.coh.lines = [] →
    s.mi.flushCmd = [(k, c)] →
    exec .flushWalkEnd s = .next (settle (complete c { st := .ok } { s with
      mi := { s.mi with keys := [(k, { r with state := .flushed })], flushCmd := [] } })))

/-- Reads that return (R65, R67, R259, R290, R296): the data goes to whom it serves; a step's block is noted as not yet
verified; an uncorrectable line poisons it and is reported with MEM_UE; a line that waited in F is answered; a return that
serves nothing changes nothing. Verification (R65, R68, R288, R289, R296, R297, R298, R303): a block that agrees lets the
steps that read it commit, and what was fetched for the check is trusted; a mismatch halts the device, is reported with
MAC_FAIL, and marks the retention SRAM invalid; lost metadata re-keys the PC and halts nothing below the last step of the
ladder; a node that reads badly is taken from its mirror; a foreign generation is reported with META_STATE and halts. A
level whose entry was trusted is not read, and cannot fail. -/
def Obligations.ReadsAreVerified : Prop :=
  (∀ pc b st way (s : State), live s = true → s.fc.inj.remaining = 0 → readServes s pc b st = true →
    exec (.memoryDataReturn pc b st 0 way 0) s = .next (settle (deliver pc b st false (blockDpa s pc b) way s))) ∧
  (∀ pc b id dpa way (s : State), (∀ k ∈ blockLines pc b, awaits s k = false ∧ (llc s k).hstate ≠ .i) →
    deliver pc b (some id) false dpa way s = modStep id (fun t => { t with unverified := t.unverified ++ [(pc, b)] })
      { s with mi := { s.mi with reads := s.mi.reads ++ [{ pc := pc, block := b, poisoned := false, step := some id }] } }) ∧
  (∀ pc b st unc way par (s : State), readServes s pc b st = false → ownReads s pc b = false →
    exec (.memoryDataReturn pc b st unc way par) s = .next (settle s)) ∧
  (∀ pc b id unc way (s : State), live s = true → readServes s pc b (some id) = true → unc ≠ 0 → s.fc.inj.remaining = 0 →
    (∀ k ∈ blockLines pc b, awaits s k = false ∧ (llc s k).hstate ≠ .i) →
    ∃ t, exec (.memoryDataReturn pc b (some id) unc way 0) s = .next (settle t) ∧
      (∃ x, findStep t id = some x ∧ x.poisoned = true ∧ (pc, b) ∈ x.unverified) ∧
      ∃ r ∈ t.fc.bbr, r.kind = 0x10 ∧ r.cls = .u ∧ r.source = sliceUnit (sliceOf pc)) ∧
  (∀ k i (s : State), (llc s k).hstate = .i → (llc s k).wait = [] → i.kind = .rds ∨ i.kind = .rdu →
    (llc s k).trans = some { kind := .f, item := i } → finishFetch k false s = toTile i.tile .dataE i.tag k
      (setLlc k { llc s k with trans := none, data := (readMem s k).1, poison := (readMem s k).2, hstate := .o,
                               presence := BitVec.ofNat 64 (2 ^ i.tile) } s)) ∧
  (∀ pc b u (s : State), live s = true → s.fc.inj.remaining = 0 → s.mi.debugs = [] →
    (∃ r ∈ s.mi.reads, r.pc = pc ∧ r.block = b ∧ r.poisoned = false) → (∀ k ∈ blockLines pc b, awaits s k = false) →
    u = fillPath pc b s →
    exec (.verificationDone pc b .agree) s = .next (settle { u with
      mi := { u.mi with reads := s.mi.reads.filter fun r => !(r.pc == pc && r.block == b) }
      cu := { s.cu with blocks := s.cu.blocks.filter fun x => x.2.2 ≠ (pc, b) }
      steps := s.steps.map fun t => { t with unverified := t.unverified.filter fun x => x ≠ (pc, b) } })) ∧
  (∀ pc b g (s : State), live s = true → s.fc.inj.remaining = 0 → g = groupOf (4 * b) →
    (∃ r ∈ s.mi.reads, r.pc = pc ∧ r.block = b ∧ r.poisoned = false) →
    (∀ r, r = none ∨ (∃ l, r = some l ∧ l ∈ checkPath s pc g) →
      ∃ t, exec (.verificationDone pc b (.mismatch r)) s = .next (settle t) ∧ t.cu.halted = true ∧ t.bnd.retentionValid = false ∧
        t.mi.reads = s.mi.reads ∧ ∃ r ∈ t.fc.bbr, r.kind = 0x12 ∧ r.cls = .f ∧ r.source = sliceUnit (sliceOf pc)) ∧
    (∀ l, l ∈ checkPath s pc g → (pcState s pc).sweep = none → (pcState s pc).exhausted = false → genOf s pc < 0xFFFF →
      (∀ k ∈ blockLines pc b, awaits s k = false) → ladderStep (tget {} s.fc.src (sliceUnit (sliceOf pc))) 0x14 < 5 →
      ∃ t, exec (.verificationDone pc b (.metadataLost l)) s = .next (settle t) ∧ t.mi.treeLostBit = true ∧
        (pcState t pc).sweep =
          some { kind := .rekey, target := genOf s pc + 1, lost := coveredGroups l g } ∧
        t.mi.treeLost = satAdd 32 s.mi.treeLost 1 ∧ t.cu.halted = s.cu.halted ∧
        t.bnd.retentionValid = s.bnd.retentionValid) ∧
    (∀ l, l ∈ checkPath s pc g → l ≠ 0 → mirrored s pc = true → (∀ k ∈ blockLines pc b, awaits s k = false) →
      ladderStep (tget {} s.fc.src (sliceUnit (sliceOf pc))) 0x13 < 5 →
      ∃ t, exec (.verificationDone pc b (.treeRepaired l)) s = .next (settle t) ∧ t.cu.halted = s.cu.halted ∧
        t.mi.treeRepairs = satAdd 32 s.mi.treeRepairs 1 ∧ t.mi.counters = s.mi.counters ∧
        ∃ r ∈ t.fc.bbr, r.kind = 0x13 ∧ r.source = sliceUnit (sliceOf pc)) ∧
    (∀ n, 0 ∈ checkPath s pc g → n ≠ genOf s pc → (∀ w, (pcState s pc).sweep = some w → w.kind ≠ .rekey ∨ w.target ≠ n) →
      ∃ t, exec (.verificationDone pc b (.badGen n)) s = .next (settle t) ∧ t.cu.halted = true ∧ t.bnd.retentionValid = false ∧
        ∃ r ∈ t.fc.bbr, r.kind = 0x15 ∧ r.cls = .f ∧ r.source = sliceUnit (sliceOf pc)) ∧
    (∀ l, l ∉ checkPath s pc g → ∀ v ∈ [VerifyResult.mismatch (some l), .metadataLost l, .treeRepaired l],
      exec (.verificationDone pc b v) s = exec (.verificationDone pc b .agree) s)) ∧
  (∀ pc b v (s : State), s.mi.reads = [] → exec (.verificationDone pc b v) s = .next (settle s))

/-- A source enters the fault state with its first FAULT record and leaves it QUIET_S after its last one, not before (R432):
EVENT and RESET records neither enter nor extend it; leaving clears the pending flags and the memory of the last steps,
counts in FC_RECOVERIES, and changes nothing else, ERR_N included; a halted device leaves no fault state. -/
def Obligations.FaultStateEnds : Prop :=
  (∀ m (s : State), coalesces s m = false → (tget {} (report m s).fc.src m.source).inFault = true ∧
    (tget {} (report m s).fc.src m.source).lastNs = s.tb.now) ∧
  (∀ src st part detail u (s : State), (tget {} (event src st part detail s).fc.src u).inFault = (tget {} s.fc.src u).inFault ∧
    (tget {} (event src st part detail s).fc.src u).lastNs = (tget {} s.fc.src u).lastNs) ∧
  (∀ sc i g c k a part u (s : State),
    (tget {} (resetRecord sc i g c k a part s).fc.src u).inFault = (tget {} s.fc.src u).inFault ∧
    (tget {} (resetRecord sc i g c k a part s).fc.src u).lastNs = (tget {} s.fc.src u).lastNs) ∧
  (∀ u r (s : State), s.bnd.powered = true → s.tb.running = true → r = tget {} s.fc.src u →
    (s.cu.halted = false → r.inFault = true → r.lastNs + s.fc.quietS * 10 ^ 9 ≤ s.tb.now →
      exec (.faultStateExit u) s = .next (settle { s with fc := { s.fc with
        src := tput s.fc.src u { r with inFault := false, pendF := false, pendU := false, pendC := false, stepF := 0, stepU := 0,
                                        stepC := 0 }
        recoveries := satAdd 32 s.fc.recoveries 1 } })) ∧
    (s.cu.halted = true ∨ r.inFault = false ∨ s.tb.now < r.lastNs + s.fc.quietS * 10 ^ 9 →
      exec (.faultStateExit u) s = .next (settle s)))

/-- Check 11 (R324, R325, R327, R328): translation decides; a miss holds the command and writes a MISS record, a failure
completes it, and the limit of pinned pages refuses it. -/
def Obligations.TranslationAtEnqueue : Prop :=
  (∀ (c : Cmd) n rngs xs (s s1 : State), c.again = false → s1 = countWalks n c.f.host rngs s →
    walkRanges s1 n c.f.host rngs = .ok xs → pinFits s1 n xs = true → Translates c n rngs [] s (dedupX xs) s1) ∧
  (∀ (c : Cmd) n rngs xs k (s s1 : State), c.again = false → s1 = countWalks n c.f.host rngs s →
    walkRanges s1 n c.f.host rngs = .ok xs → pinFits s1 n xs = false →
    check11 c n rngs [] k s = refuse c.ref .stateConflict 0 s1) ∧
  (∀ (c : Cmd) n rngs hosts k l dva (s s1 : State), c.again = false → s1 = countWalks n c.f.host rngs s →
    walkRanges s1 n c.f.host rngs = .miss l dva → check11 c n rngs hosts k s = holdMiss c n l dva s1) ∧
  (∀ (c : Cmd) n rngs hosts k st dva (s s1 : State), c.again = false → s1 = countWalks n c.f.host rngs s →
    walkRanges s1 n c.f.host rngs = .fail st dva → check11 c n rngs hosts k s = refuse c.ref st dva s1) ∧
  (∀ s n v g dva last x, checkPage s n v g dva last = .ok [x] →
    (memObj s n x.obj).state = .live ∧ (g.r = true → x.r = true) ∧ (g.w = true → x.w = true) ∧ (g.a = true → x.a = true) ∧
    x.keyId ≠ 0 ∧ (hKeys s.ps.active n).getLsbD x.keyId = true ∧ (memObj s n x.obj).base ≤ x.dva ∧
    x.dva + x.size ≤ (memObj s n x.obj).base + (memObj s n x.obj).size) ∧
  (∀ s n v g, 2 ^ 56 < g.dva + g.size → walkRange s n v g = .fail .rights g.dva) ∧
  (∀ s n v dva, (tget {} s.tu.vfs n).ptRoot = 0 → walk s n v dva = .miss 3) ∧
  (∀ n k i j (s : State), i ≠ j → memObj (setObj n i k s) n j = memObj s n j) ∧
  (∀ n low key (s : State), reaches s.ps.active n low key = true →
    (route s.ps.active n low).1 ∈ pcList s.ps.active n ∧ (route s.ps.active n low).2 < 0x3C000000)

/-- Doorbells and fetch (R353, R354, R355, R356, R567): a valid doorbell moves TAIL and restarts a parked queue, any other is
dropped and counted; the eighth stale re-read parks the queue in DOORBELL_EARLY with no record; a stale tag in a program
completes with STATE_CONFLICT; a ring read that fails completes its position. -/
def Obligations.DoorbellsAndTags : Prop :=
  (∀ fn q v tb t (s : State), s.bnd.powered = true → fnExists s fn = true → barServes s fn tb = true →
    doorbellTail s fn q v = some t → exec (.doorbell fn q 8 v tb) s = .next (settle (touchQueue q (modQueue q (fun x => { x with
      tail := t, rereads := 0, state := if x.state = .early then .idle else x.state }) s)))) ∧
  (∀ fn q v tb (s : State), s.bnd.powered = true → fnExists s fn = true → barServes s fn tb = true →
    doorbellTail s fn q v = none → exec (.doorbell fn q 8 v tb) s = .next (settle { s with qu := { s.qu with dbDrops := satAdd 64 s.qu.dbDrops 1 } })) ∧
  (∀ fn q v t (s : State), doorbellTail s fn q v = some t →
    t % 2 ^ 32 = v.toNat % 2 ^ 32 ∧ (queue s q).head ≤ t ∧ t ≤ (queue s q).head + 2 ^ (queue s q).ringLog2 ∧
    (queue s q).tail ≤ t ∧ v.toNat / 2 ^ 48 = (t + 65535) % 65536 ∧ ownsQueue s fn q = true ∧ streams (queue s q) = true) ∧
  (∀ q tag (s : State), fetchable s q = true → streams (queue s q) = true → tag.toNat ≠ (queue s q).head % 65536 →
    ((queue s q).rereads < 7 → exec (.tagReread q tag) s =
      .next (settle (modQueue q (fun x => { x with rereads := x.rereads + 1 }) s))) ∧
    ((queue s q).rereads = 7 → exec (.tagReread q tag) s =
      .next (settle (modQueue q (fun x => { x with rereads := 0, state := .early })
        { s with qu := { s.qu with earlyEvents := satAdd 64 s.qu.earlyEvents 1 } })))) ∧
  (∀ q p (s : State), fetchable s q = true → exec (.descriptorReadFail q p) s = .next (settle (touchQueue q (closePos
    { queue := q, index := (queue s q).head, ctx := 0xFFFF, opcode := 0, cmpl := true, irq := false }
    (if p then .poison else .rights) (if p then 0 else (queue s q).ring + 64 * ((queue s q).head % 2 ^ (queue s q).ringLog2))
    (modQueue q (fun x => { x with skip := x.skip - 1 }) (advanceHead q s)))))) ∧
  (∀ (f : Fetch) op (s : State), fetchable s f.queue = true → streams (queue s f.queue) = false → dOpcode f.raw = op →
    ringHolds (queue s f.queue) f.raw s = (true, s) → f.parity = 0 → s.fc.inj.remaining = 0 → dTag f.raw ≠ (queue s f.queue).head % 65536 →
    (gate (fun o => o == op) { toFetch := f } 0 s) = (none, touchQueue f.queue (closePos (refAt f.queue (queue s f.queue) f.raw)
      .stateConflict 0 (modQueue f.queue (fun x => { x with skip := x.skip - 1 }) (advanceHead f.queue s)))))

/-- Acceptance (R11, R16, R17, R334, R358, R359): the checks in their order, each with its status, before any effect; a
descriptor with an unassigned opcode completes with BAD_OPCODE; one that passes goes on as its command. -/
def Obligations.AcceptanceInOrder : Prop :=
  (∀ s q x raw, dVersion raw ≠ 1 → headCheck s q x raw = some .version) ∧
  (∀ s q x raw, dVersion raw = 1 → 0x06 < dOpcode raw ∧ dOpcode raw < 0x40 ∨ 0x48 < dOpcode raw ∧ dOpcode raw < 0x80 ∨
    0x84 < dOpcode raw ∧ dOpcode raw < 0xC0 ∨ 0xC9 < dOpcode raw → headCheck s q x raw = some .badOpcode) ∧
  (∀ s q x raw, headCheck s q x raw = none → dVersion raw = 1 ∧ reservedOk (dOpcode raw) (2 ^ x.ringLog2) raw = true ∧
    (dCtx raw = 0xFFFF ↔ x.kind = .admin) ∧ isLost s x.part (dCtx raw) = false ∧ ctxFits s x.part (dCtx raw) = true ∧
    (0xC0 ≤ dOpcode raw → x.kind = .admin) ∧ (0xC4 ≤ dOpcode raw → dOpcode raw ≤ 0xC8 → q = 0x420) ∧
    (x.kind = .admin → dOpcode raw = 0 ∨ 0xC0 ≤ dOpcode raw)) ∧
  (∀ op f extra (s : State), Accepts s op f →
    gate (fun o => o == op) f extra s = (some (cmdOf s f extra), advanceHead f.queue s)) ∧
  (∀ (f : Fetch) q x (s : State), q = f.queue → x = queue s q → fetchable s q = true → (0x06 < dOpcode f.raw ∧ dOpcode f.raw < 0x40 ∨
      0x48 < dOpcode f.raw ∧ dOpcode f.raw < 0x80 ∨ 0x84 < dOpcode f.raw ∧ dOpcode f.raw < 0xC0 ∨ 0xC9 < dOpcode f.raw) →
    ringHolds x f.raw s = (true, s) → f.parity = 0 → s.fc.inj.remaining = 0 → dTag f.raw = x.head % 65536 → x.skip = 0 →
    (x.kind == .intake && dServe f.raw) = false → x.stopping = false → acceptedBefore x f.raw = false →
    (headCheck (advanceHead q s) q x (applyPatch x f.raw) = some .badOpcode → exec (.unassignedOpcode f) s =
      .next (settle (touchQueue q (reject (refAt q x f.raw) .badOpcode 0 (advanceHead q s))))) ∧
    (dVersion f.raw = 1 → dPatch f.raw = false → exec (.unassignedOpcode f) s =
      .next (settle (touchQueue q (reject (refAt q x f.raw) .badOpcode 0 (advanceHead q s)))))) ∧
  (∀ (f : Fetch) op q x (s : State), q = f.queue → x = queue s q → fetchable s q = true → dOpcode f.raw = op →
    ringHolds x f.raw s = (true, s) → f.parity = 0 → s.fc.inj.remaining = 0 → dTag f.raw = x.head % 65536 → x.skip = 0 →
    (x.kind == .intake && dServe f.raw) = false → x.stopping = false → acceptedBefore x f.raw = true →
    isLost (advanceHead q s) x.part (dCtx f.raw) = true → gate (fun o => o == op) { toFetch := f } 0 s =
      (none, refuse (refAt q x f.raw) .contextLost 0 (advanceHead q s))) ∧
  (∀ (f : Fetch) op body (s : State), fetchable s f.queue = false → fetchDo op f body s = s)

/-- The control commands (R342, R343, R358, R361, R362, R363): what each does to its queue, and its completion. How ANY and NONE
of COND read their operands is the reading that a log entry names. -/
def Obligations.ControlCommands : Prop :=
  ∀ (f : Fetch) q c (s : State), q = f.queue → c = cmdOf s { toFetch := f } 0 →
    (Accepts s 0x00 { toFetch := f } → exec (.nop f) s =
      .next (settle (touchQueue q (instant c [] { st := .ok } (advanceHead q s))))) ∧
    (Accepts s 0x01 { toFetch := f } → ∃ a, a = tget 0 (queue s q).params (dfld c.raw 0x09 0 4) ∧
      (condHolds (dfld c.raw 0x08 0 3) a (dfld c.raw 0x10 0 64) = true → exec (.cond f) s =
        .next (settle (touchQueue q (instant c [] { st := .ok } (advanceHead q s))))) ∧
      (condHolds (dfld c.raw 0x08 0 3) a (dfld c.raw 0x10 0 64) = false → exec (.cond f) s =
        .next (settle (touchQueue q (instant c [] { st := .ok }
          (modQueue q (fun x => { x with skip := dfld c.raw 0x0A 0 16 }) (advanceHead q s))))))) ∧
    (Accepts s 0x02 { toFetch := f } →
      (dfld c.raw 0x0C 0 32 = 0 → exec (.loop f) s = .next (settle (touchQueue q (instant c [] { st := .ok }
        (modQueue q (fun x => { x with head := dfld c.raw 0x10 0 15 }) (advanceHead q s)))))) ∧
      (∀ v, v = (if tget 0 (queue s q).loops (dfld c.raw 0x08 0 2) = 0 then dfld c.raw 0x0C 0 32
          else tget 0 (queue s q).loops (dfld c.raw 0x08 0 2)) - 1 → dfld c.raw 0x0C 0 32 ≠ 0 →
        (v = 0 → exec (.loop f) s = .next (settle (touchQueue q (instant c [] { st := .ok }
          (modQueue q (fun x => { x with loops := tput x.loops (dfld c.raw 0x08 0 2) 0 }) (advanceHead q s)))))) ∧
        (v ≠ 0 → exec (.loop f) s = .next (settle (touchQueue q (instant c [] { st := .ok }
          (modQueue q (fun x => { x with head := dfld c.raw 0x10 0 15 })
            (modQueue q (fun x => { x with loops := tput x.loops (dfld c.raw 0x08 0 2) v }) (advanceHead q s))))))))) ∧
    (Accepts s 0x03 { toFetch := f } → exec (.jump f) s = .next (settle (touchQueue q (instant c [] { st := .ok }
      (modQueue q (fun x => { x with head := dfld c.raw 0x10 0 15 }) (advanceHead q s)))))) ∧
    (waitsAtHead f s = true → exec (.waitSync f) s = .next (settle s) ∧ exec (.loadParam f) s = .next (settle s) ∧
      exec (.ckpt f) s = .next (settle s)) ∧
    (Accepts s 0x04 { toFetch := f } → waitsAtHead f s = false → dfld c.raw 0x0C 0 20 < hQuota s.ps.active c.part 3 →
      (syncObj s c.part (dfld c.raw 0x0C 0 20)).state = .live →
      ∃ w s0 s1 s2, s0 = takeSyncRef c.part (dfld c.raw 0x0C 0 20) (acceptCmd c [] (advanceHead q s)) ∧
        w = { obj := dfld c.raw 0x0C 0 20, target := dfld c.raw 0x10 0 63, ref := c.ref, held := held s0 c } ∧
        s1 = (if held s0 c then modQueue q (fun x => { x with syncAt := tput x.syncAt c.ref.index w.obj }) s0 else s0) ∧
        s2 = modQueue q (fun x => { x with waiting := some w }) s1 ∧
        exec (.waitSync f) s = .next (settle (touchQueue q
          (if w.target ≤ (syncObj s2 c.part w.obj).value then endWait c.part q w s2 else s2)))) ∧
    (Accepts s 0x05 { toFetch := f } → dfld c.raw 0x0C 0 20 < hQuota s.ps.active c.part 3 →
      (syncObj s c.part (dfld c.raw 0x0C 0 20)).state = .live →
      ∃ g s0 s1, s0 = takeSyncRef c.part (dfld c.raw 0x0C 0 20) (acceptCmd c [] (advanceHead q s)) ∧
        s1 = (if held s0 c then modQueue q (fun x => { x with syncAt := tput x.syncAt c.ref.index g.obj }) s0 else s0) ∧
        g.part = c.part ∧ g.obj = dfld c.raw 0x0C 0 20 ∧ g.operand = dfld c.raw 0x10 0 63 ∧
        g.add = (dfld c.raw 0x08 0 1 == 1) ∧ exec (.signalSync f) s = .next (settle (touchQueue q { s1 with
          qu := { s1.qu with signals := s1.qu.signals ++ [g] }
          nextId := s1.nextId + 1 }))) ∧
    (Accepts s 0x06 { toFetch := f } → waitsAtHead f s = false → s.cu.open_ = none →
      (∀ s1, bringIn (cpNeeds c s) s = (false, s1) → exec (.loadParam f) s = .next (settle s1)) ∧
      (∀ s1, bringIn (cpNeeds c s) s = (true, s1) → Accepts s1 0x06 { toFetch := f } → waitsAtHead f s1 = false →
        s1.cu.open_ = none → bringIn (cpNeeds (cmdOf s1 { toFetch := f } 0) s1) s1 = (true, s1) →
        exec (.loadParam f) s = exec (.loadParam f) s1) ∧
      (bringIn (cpNeeds c s) s = (true, s) → ∀ xs s1 s2 r,
        Translates c c.part (rangesOf 0x06 c.raw) [] (advanceHead q s) xs s1 →
        cpRead c.part xs (dfld c.raw 0x10 0 57) (8 * dfld c.raw 0x09 0 5) s1 = (r, s2) →
        (r = none → exec (.loadParam f) s = .next (settle (touchQueue q (instant c xs { st := .rights } s2)))) ∧
        (∀ bs d, r = some (bs, some d) → exec (.loadParam f) s =
          .next (settle (touchQueue q (instant c xs { st := .poison } s2)))) ∧
        (∀ bs, r = some (bs, none) → ∃ t, exec (.loadParam f) s = .next (settle (touchQueue q (instant c xs { st := .ok } t))) ∧
          t = modQueue q (fun x => { x with params := (List.range (dfld c.raw 0x09 0 5)).foldl (fun p i =>
              tput p (dfld c.raw 0x08 0 4 + i) ((numsOf 8 (dfld c.raw 0x09 0 5) bs).getD i 0)) x.params }) s2)))

/-- The work commands (R62, R325, R361, R366): a command that passes check 11 joins its queue as a step that nothing has run
yet, and one reference is taken on each object; engine, tile and other work alike. -/
def Obligations.WorkJoinsItsQueue : Prop :=
  (∀ (f : Fetch) op i q c xs (s s1 : State), q = f.queue → c = cmdOf s { toFetch := f } 0 →
    (op, i) ∈ [(0x41, Instr.lrePool f), (0x42, .lrePqscan f), (0x43, .lreUpdate f), (0x45, .prefetch f), (0x46, .advise f)] →
    Accepts s op { toFetch := f } → Translates c c.part (rangesOf op c.raw) [] (advanceHead q s) xs s1 →
    exec i s = .next (settle (touchQueue q (startWork c xs [] s1)))) ∧
  (∀ (f : Fetch) q c xs (s s1 : State), q = f.queue → c = cmdOf s { toFetch := f } 0 →
    (Accepts s 0x84 { toFetch := f } → waitsAtHead f s = false →
      Translates c c.part (rangesOf 0x84 c.raw) [] (advanceHead q s) xs s1 →
      exec (.ckpt f) s = .next (settle (touchQueue q (startWork c xs [] s1)))) ∧
    (Accepts s 0x44 { toFetch := f } → copyRanges c.raw ≠ [] →
      Translates c c.part (copyRanges c.raw) (hostRangeOf c.raw) (advanceHead q s) xs s1 →
      exec (.copy f) s = .next (settle (touchQueue q (startWork c xs [] s1)))) ∧
    (Accepts s 0x44 { toFetch := f } → copyRanges c.raw = [] →
      exec (.copy f) s = .next (settle (touchQueue q (refuse c.ref .rights (dfld c.raw 0x08 0 57) (advanceHead q s))))) ∧
    (Accepts s 0x47 { toFetch := f } → Translates c c.part (rangesOf 0x47 c.raw) [] (advanceHead q s) xs s1 →
      exec (.remoteGather f) s = .next (settle (touchQueue q (if jobIn s1 c.part 0x47 c.raw .aborted
        then refuse c.ref .jobAborted 0 s1 else startWork c xs [] s1)))) ∧
    (Accepts s 0x48 { toFetch := f } → Translates c c.part (rangesOf 0x48 c.raw) [] (advanceHead q s) xs s1 →
      jobIn s1 c.part 0x48 c.raw .aborted = false → digestOk s1 c.part c.raw = true →
      exec (.digest f) s = .next (settle (touchQueue q (startWork c xs []
        (if dfld c.raw 0x08 1 1 = 1 ∧ dfld c.raw 0x08 3 1 = 1 then openCmp c.part c.raw s1 else s1))))) ∧
    (Accepts s 0x48 { toFetch := f } → Translates c c.part (rangesOf 0x48 c.raw) [] (advanceHead q s) xs s1 →
      jobIn s1 c.part 0x48 c.raw .aborted = false → digestOk s1 c.part c.raw = false →
      exec (.digest f) s = .next (settle (touchQueue q (refuse c.ref .stateConflict 0 s1))))) ∧
  (∀ (f : TileFetch) q c xs ys es (s s1 s2 s3 : State), q = f.queue → c = cmdOf s { toFetch := f.toFetch } f.kernelLen →
    Accepts s 0x40 { toFetch := f.toFetch } → s.cu.open_ = none → bringIn (cpNeeds c s) s = (true, s) →
    Translates c c.part (rangesOf 0x40 c.raw) [] (advanceHead q s) xs s1 → readTable c.part xs c.raw s1 = (.ok es, s2) →
    Translates c c.part (rangesOf 0x40 c.raw ++ kernelRng c.raw c.extra :: es.map entryRng) [] s2 ys s3 →
    exec (.tileStep f) s = .next (settle (touchQueue q (startWork c ys (kernelGrant c.raw c.extra :: es)
      (if held s3 c then modQueue q (fun x => { x with
        tableAt := tput x.tableAt c.ref.index (kernelGrant c.raw c.extra :: es) }) s3 else s3))))) ∧
  (∀ (f : TileFetch) c (s s1 : State), c = cmdOf s { toFetch := f.toFetch } f.kernelLen →
    Accepts s 0x40 { toFetch := f.toFetch } → s.cu.open_ = none → bringIn (cpNeeds c s) s = (false, s1) →
    exec (.tileStep f) s = .next (settle s1)) ∧
  (∀ (f : TileFetch) (s s1 : State), Accepts s 0x40 { toFetch := f.toFetch } → s.cu.open_ = none →
    bringIn (cpNeeds (cmdOf s { toFetch := f.toFetch } f.kernelLen) s) s = (true, s1) → Accepts s1 0x40 { toFetch := f.toFetch } →
    s1.cu.open_ = none → bringIn (cpNeeds (cmdOf s1 { toFetch := f.toFetch } f.kernelLen) s1) s1 = (true, s1) →
    exec (.tileStep f) s = exec (.tileStep f) s1) ∧
  (∀ c xs rs (s : State), startWork c xs rs s = fillBe c.part { (if held (acceptCmd c xs s) c then acceptCmd c xs s
      else takeRefs c.part xs (acceptCmd c xs s)) with
    steps := s.steps ++ [workStep (acceptCmd c xs s) c xs rs],
    nextId := s.nextId + 1 }) ∧
  (∀ c xs rs (s : State), (workStep s c xs rs).phase = .queued ∧ (workStep s c xs rs).log = [] ∧
    ((workStep s c xs rs).frameScoped = true ↔ c.ref.opcode = 0x44 ∨ c.ref.opcode = 0x47 ∨ c.ref.opcode = 0x84))

/-- The object commands (R335, R337, R338, R341): what each needs, its effect on the object's record, and the status it gives
otherwise; an object with no reference left is FREE. -/
def Obligations.ObjectCommands : Prop :=
  ∀ (f : Fetch) q c j o (s s1 : State), q = f.queue → c = cmdOf s { toFetch := f } 0 → j = dfld c.raw 0x0C 0 20 →
    s1 = advanceHead q s → o = memObj s c.part j →
    (Accepts s 0x80 { toFetch := f } → dfld c.raw 0x10 0 57 + dfld c.raw 0x18 0 64 ≤ 2 ^ 56 → j ≠ 0 →
      j < (vfTu s c.part).objCount → o.state = .free →
      objOverlap s c.part (dfld c.raw 0x10 0 57) (dfld c.raw 0x18 0 64) = false → exec (.map f) s =
        .next (settle (touchQueue q (instant c [] { st := .ok } (setObj c.part j
          { state := .live, owner := c.ref.ctx, hostRefs := 1, mapped := true, base := dfld c.raw 0x10 0 57
            size := dfld c.raw 0x18 0 64 } s1))))) ∧
    (Accepts s 0x80 { toFetch := f } → dfld c.raw 0x10 0 57 + dfld c.raw 0x18 0 64 ≤ 2 ^ 56 → o.state ≠ .free →
      exec (.map f) s = .next (settle (touchQueue q (refuse c.ref .stateConflict 0 s1)))) ∧
    (Accepts s 0x81 { toFetch := f } → o.state = .live → o.mapped = true → exec (.unmap f) s = .next (settle (touchQueue q
      (instant c [] { st := .ok } (countObj c.part j { o with mapped := false, hostRefs := o.hostRefs - 1 } s1))))) ∧
    (Accepts s 0x81 { toFetch := f } → o.state = .free →
      exec (.unmap f) s = .next (settle (touchQueue q (refuse c.ref .objectGone 0 s1)))) ∧
    (Accepts s 0x82 { toFetch := f } → dfld c.raw 0x08 1 1 = 0 → dfld c.raw 0x08 0 1 = 0 → o.state = .live →
      exec (.objRef f) s = .next (settle (touchQueue q (instant c [] { st := .ok }
        (setObj c.part j { o with hostRefs := o.hostRefs + 1 } s1))))) ∧
    (Accepts s 0x82 { toFetch := f } → dfld c.raw 0x08 1 1 = 1 → ∀ xs, syncArea s1 c.part c.f.host = some xs →
      j < hQuota s.ps.active c.part 3 → (syncObj s c.part j).state = .free →
      exec (.objRef f) s = .next (settle (touchQueue q (instant c [] { st := .ok } (setSync c.part j
        { state := .live, value := dfld c.raw 0x10 0 63, owner := c.ref.ctx, hostRefs := 1 }
        (modVfTu c.part (fun t => { t with syncXlat := xs })
          (countWalks c.part c.f.host [syncRange s1 c.part] s1))))))) ∧
    (Accepts s 0x82 { toFetch := f } → dfld c.raw 0x08 1 1 = 0 → dfld c.raw 0x08 0 1 = 1 → ∀ y, y = syncObj s c.part j →
      (y.state = .live → exec (.objRef f) s = .next (settle (touchQueue q (instant c [] { st := .ok }
        (setSync c.part j { y with hostRefs := y.hostRefs + 1 } s1))))) ∧
      (y.state ≠ .live → exec (.objRef f) s = .next (settle (touchQueue q (refuse c.ref .objectGone 0 s1))))) ∧
    (Accepts s 0x83 { toFetch := f } → dfld c.raw 0x08 0 1 = 1 → ∀ y, y = syncObj s c.part j → y.state = .live →
      exec (.objUnref f) s = .next (settle (touchQueue q (instant c [] { st := .ok }
        (countSync c.part j { y with hostRefs := y.hostRefs - 1 } s1))))) ∧
    (Accepts s 0x83 { toFetch := f } → dfld c.raw 0x08 0 1 = 0 → o.state = .live →
      exec (.objUnref f) s = .next (settle (touchQueue q (instant c [] { st := .ok }
        (countObj c.part j { o with hostRefs := o.hostRefs - 1 } s1))))) ∧
    (Accepts s 0x83 { toFetch := f } → dfld c.raw 0x08 0 1 = 0 → o.state ≠ .live →
      exec (.objUnref f) s = .next (settle (touchQueue q (refuse c.ref .objectGone 0 s1)))) ∧
    (∀ n k p, p.hostRefs = 0 → p.devRefs = 0 → (memObj (countObj n k p s) n k).state = .free) ∧
    (∀ n k p, p.hostRefs = 0 → p.devRefs ≠ 0 → memObj (countObj n k p s) n k = { p with state := .released })

/-- CREATE_QUEUE (R163, R333, R366, R374, R375): a queue that meets every condition is live under its number with the fields of
its descriptor, at the checkpoint's HEAD if one is named; STATE_CONFLICT otherwise. -/
def Obligations.QueuesAreCreated : Prop :=
  (∀ f c n q (s : State), c = cmdOf s f 0 → n = dfld c.raw 0x2C 0 5 → q = dfld c.raw 0x0A 0 10 → Accepts s 0xC0 f →
    (∀ s1, bringIn (createNeeds c s) s = (false, s1) → exec (.createQueue f) s = .next (settle s1)) ∧
    (bringIn (createNeeds c s) s = (true, s) → ∀ xs s1,
      Translates c n (createRanges c.raw) (createHosts c.raw) (advanceHead f.queue s) xs s1 →
      (∀ st s2, ckptOf n xs c s1 = (.error st, s2) → exec (.createQueue f) s =
        .next (settle (touchQueue f.queue (refuse c.ref st 0 s2)))) ∧
      (∀ ck s2, ckptOf n xs c s1 = (.ok ck, s2) →
        (createOk s2 n c.raw ck = false → exec (.createQueue f) s =
          .next (settle (touchQueue f.queue (refuse c.ref .stateConflict 0 s2)))) ∧
        (createOk s2 n c.raw ck = true → dfld c.raw 0x08 6 2 < 2 → ∃ s3,
          s3 = (if ctxState s2 n (dfld c.raw 0x0C 0 16) = .unused then setCtx n (dfld c.raw 0x0C 0 16) .live s2 else s2) ∧
          exec (.createQueue f) s = .next (settle (touchQueue f.queue (touchQueue q
            (modQueue q (fun _ => newQueue n c.raw xs ck s2) (instant c [] { st := .ok } s3)))))) ∧
        (createOk s2 n c.raw ck = true → dfld c.raw 0x08 6 2 = 2 →
          (∀ st s3, ringOf n xs c s2 = (.error st, s3) → exec (.createQueue f) s =
            .next (settle (touchQueue f.queue (refuse c.ref st 0 s3)))) ∧
          (∀ ds s3 s4, ringOf n xs c s2 = (.ok ds, s3) →
            s4 = (if ctxState s3 n (dfld c.raw 0x0C 0 16) = .unused then setCtx n (dfld c.raw 0x0C 0 16) .live s3 else s3) →
            (∀ p, takeTemplates c n (newQueue n c.raw xs ck s2) ds s4 = .error p → exec (.createQueue f) s =
              .next (settle (touchQueue f.queue (refuse c.ref .stateConflict p s3)))) ∧
            (∀ ts s5, takeTemplates c n (newQueue n c.raw xs ck s2) ds s4 = .ok (ts, s5) → exec (.createQueue f) s =
              .next (settle (touchQueue f.queue (touchQueue q (modQueue q
                (fun _ => { newQueue n c.raw xs ck s2 with templates := ts }) (instant c [] { st := .ok } s5))))))))))) ∧
  (∀ n d xs ck (s : State), (newQueue n d xs ck s).live = true ∧ (newQueue n d xs ck s).part = n ∧
    (newQueue n d xs ck s).owner = dfld d 0x0C 0 16 ∧ (newQueue n d xs ck s).weight = dfld d 0x09 0 8 ∧
    (newQueue n d xs ck s).ringLog2 = dfld d 0x0E 0 5 ∧ (newQueue n d xs ck s).wdog = dfld d 0x28 0 16 ∧
    (ck = none → (newQueue n d xs ck s).head = 0 ∧ ∀ i, i < 16 → tget 0 (newQueue n d xs ck s).params i = 0) ∧
    (∀ r, ck = some r → (newQueue n d xs ck s).head = fld r 128 64 ∧
      ∀ i, i < 16 → tget 0 (newQueue n d xs ck s).params i = fld r (512 + 64 * i) 64)) ∧
  (∀ n d ck (s : State), createOk s n d ck = true → (queue s (dfld d 0x0A 0 10)).live = false ∧
    queueCount s n < hQuota s.ps.active n 1 ∧ (hClass s.ps.active n (dfld d 0x08 0 4)).valid = true ∧
    ((hClass s.ps.active n (dfld d 0x08 0 4)).be = true ∨ dfld d 0x08 6 2 = 2) ∧ isLost s n (dfld d 0x0C 0 16) = false)

/-- The other administration commands (R307, R309, R376, R377, R473 to R480, R492): each is accepted and asks for its work, a
state that it needs and does not find gives STATE_CONFLICT with nothing done. -/
def Obligations.AdministrationCommands : Prop :=
  ∀ (f : Fetch) q c n k j (s s1 : State), q = f.queue → c = cmdOf s { toFetch := f } 0 → n = dfld c.raw 0x2C 0 5 →
    k = dfld c.raw 0x0C 0 16 → j = dfld c.raw 0x0A 0 10 → s1 = advanceHead q s →
    (Accepts s 0xC1 { toFetch := f } →
      ((queue s1 j).live = true → (queue s1 j).state ≠ .destroying → (queue s1 j).part = n → exec (.destroyQueue f) s =
        .next (settle (touchQueue q (startKills { domain := .destroy j, cmd := some c.ref
                                                  counts := openCounts s1 fun p _ => p == j } (acceptCmd c [] s1))))) ∧
      ((queue s1 j).live = false ∨ (queue s1 j).state = .destroying ∨ (queue s1 j).part ≠ n → exec (.destroyQueue f) s =
        .next (settle (touchQueue q (refuse c.ref .stateConflict 0 s1))))) ∧
    (Accepts s 0xC2 { toFetch := f } →
      (ctxState s1 n k ≠ .unused → exec (.contextRevoke f) s = .next (settle (touchQueue q (startKills
        { domain := .revoke n k, cmd := some c.ref
          counts := openCounts s1 fun p x => (queue s1 p).part == n && (x == k || (queue s1 p).owner == k) }
        (acceptCmd c [] s1))))) ∧
      (ctxState s1 n k = .unused → exec (.contextRevoke f) s =
        .next (settle (touchQueue q (refuse c.ref .stateConflict 0 s1))))) ∧
    (Accepts s 0xC3 { toFetch := f } →
      (ctxState s1 n k ≠ .unused → exec (.resetContext f) s = .next (settle (touchQueue q (askReset
        { domain := .context n k, cmd := some c.ref, dump := dfld c.raw 0x08 0 1 == 1 } (acceptCmd c [] s1))))) ∧
      (ctxState s1 n k = .unused → exec (.resetContext f) s =
        .next (settle (touchQueue q (refuse c.ref .stateConflict 0 s1))))) ∧
    (∀ e, e = dfld c.raw 0x0C 0 9 → Accepts s 0xC4 { toFetch := f } →
      ((∀ p, s.rc.replay = some p → p.engine ≠ e) → exec (.resetEngine f) s = .next (settle (touchQueue q (askReset
        { domain := .engine e, cmd := some c.ref, dump := dfld c.raw 0x08 0 1 == 1, replay := dfld c.raw 0x08 1 1 == 1 }
        (acceptCmd c [] s1))))) ∧
      (∀ p, s.rc.replay = some p → p.engine = e → exec (.resetEngine f) s =
        .next (settle (touchQueue q (refuse c.ref .stateConflict 0 s1))))) ∧
    (Accepts s 0xC5 { toFetch := f } → exec (.resetPartition f) s = .next (settle (touchQueue q (askReset
      { domain := .partition n, cmd := some c.ref, dump := dfld c.raw 0x08 0 1 == 1 } (acceptCmd c [] s1))))) ∧
    (Accepts s 0xC6 { toFetch := f } → exec (.resetChip f) s = .next (settle (touchQueue q (askChipReset
      { cause := .command, dump := dfld c.raw 0x08 0 1 == 1, power := dfld c.raw 0x08 1 1 == 1, cmd := some c.ref }
      (acceptCmd c [] s1))))) ∧
    (∀ key, key = dfld c.raw 0x08 0 7 → Accepts s 0xC7 { toFetch := f } →
      ((keyRec s key).state = .dirty → ∃ s2, s2 = setKey key .flushing (acceptCmd c [] s1) ∧
        exec (.flushKeyid f) s = .next (settle (touchQueue q ((keyLines s2 key).foldl (fun s i => evict i s)
          { s2 with mi := { s2.mi with flushCmd := tput s2.mi.flushCmd key c.ref } })))) ∧
      ((keyRec s key).state ≠ .dirty → exec (.flushKeyid f) s =
        .next (settle (touchQueue q (refuse c.ref .stateConflict 0 s1))))) ∧
    (∀ key, key = dfld c.raw 0x08 0 7 → Accepts s 0xC8 { toFetch := f } →
      ((keyRec s key).state = .flushed → ∃ s2, s2 = setKey key .retiring (acceptCmd c [] s1) ∧
        exec (.retireKeyid f) s = .next (settle (touchQueue q ((retirePcs s2 key).foldl
          (fun s p => startRetire key p s) { s2 with mi := { s2.mi with retireCmd := tput s2.mi.retireCmd key c.ref } })))) ∧
      ((keyRec s key).state ≠ .flushed → exec (.retireKeyid f) s =
        .next (settle (touchQueue q (refuse c.ref .stateConflict 0 s1))))) ∧
    (Accepts s 0xC9 { toFetch := f } →
      (tget 0 s.rc.dumpBase n ≠ 0 → exec (.dump f) s = .next (settle (touchQueue q
        (askReset { domain := .dump n, cmd := some c.ref, dump := true } (acceptCmd c [] s1))))) ∧
      (tget 0 s.rc.dumpBase n = 0 → exec (.dump f) s =
        .next (settle (touchQueue q (refuse c.ref .stateConflict 0 s1)))))

/-- Completion records and their rings (R369, R370, R371, R372, R373, R379, R380): OK without CMPL writes no record and returns
its slot, any other completion writes one; a failed write stalls the queue and keeps the record, REARM replays what it keeps
with REPLAY set; CQ_HEAD frees slots; ADMQ_ENABLE makes the administration queue live at index 0. -/
def Obligations.CompletionRings : Prop :=
  (∀ c d x (s : State), s.cu.halted = false → x = queue s c.queue → x.overflow = [] → (d.st ≠ .ok ∨ c.cmpl = true) →
    ∃ r ∈ (queue (complete c d s) c.queue).written, r.status = d.st ∧ r.opcode = c.opcode ∧ r.index = c.index ∧
      r.ctx = c.ctx ∧ r.detail = d.detail ∧ r.tick = s.tb.tick ∧ r.phase = ((x.records / 2 ^ x.cqLog2 + 1) % 2 == 1) ∧
      (queue (complete c d s) c.queue).records = x.records + 1) ∧
  (∀ c d (s : State), d.st = .ok → c.cmpl = false →
    (queue (complete c d s) c.queue).written = (queue s c.queue).written ∧
    (queue (complete c d s) c.queue).records = (queue s c.queue).records ∧
    (queue (complete c d s) c.queue).reserved = (queue s c.queue).reserved - 1) ∧
  (∀ q r rest (s : State), (queue s q).live = true → q < 1024 → (queue s q).written = r :: rest → (queue s q).overflow = [] →
    ∃ t, exec (.completionWriteFail q) s = .next (settle t) ∧ (queue t q).overflow = [r] ∧ (queue t q).written = rest ∧
      (queue t q).records = (queue s q).records - 1 ∧ t.qu.stalled.getLsbD q = true ∧
      t.qu.stallEvents = satAdd 32 s.qu.stallEvents 1) ∧
  (∀ q r rest (s : State), (queue s q).live = true → q < 1024 → (queue s q).written = r :: rest → (queue s q).overflow.length = 4 →
    ∃ t, exec (.completionWriteFail q) s = .next (settle t) ∧ (queue t q).overflow = r :: (queue s q).overflow.take 3 ∧
      (queue t q).written = rest ∧ ((queue s q).owner ≠ 0xFFFF → isLost t (queue s q).part (queue s q).owner = true)) ∧
  (∀ q r (s : State), s.bnd.ready = true → (queue s q).live = true → (queue s q).state ≠ .destroying → s.cu.halted = false →
    (queue s q).overflow = [r] → exec (.rearm q 1) s = .next (settle (touchQueue q (ringRec q { r with replay := true }
      (modQueue q (fun x => { x with overflow := [] }) s))))) ∧
  (∀ q k (s : State), (queue s q).overflow = [] → exec (.rearm q k) s = .next (settle s)) ∧
  (∀ fn q v tb (s : State), fnReady s fn = true → barServes s fn tb = true → showsQueue s fn q = true → exec (.cqHeadWrite fn q v tb) s =
    .next (settle (touchQueue q (modQueue q (fun x => { x with cqHead := v.toNat }) s)))) ∧
  (∀ fn tb (s : State), fnReady s fn = true → barServes s fn tb = true → (admOf s fn).enable = false →
    ∃ t, exec (.admqEnable fn tb) s = .next (settle t) ∧
    (admOf t fn).enable = true ∧ (queue t (0x400 + admKey fn)).live = true ∧ (queue t (0x400 + admKey fn)).head = 0 ∧
    (queue t (0x400 + admKey fn)).tail = 0 ∧ (queue t (0x400 + admKey fn)).records = 0 ∧
    (queue t (0x400 + admKey fn)).ring = (admOf s fn).ringBase ∧ (∀ p, p ≠ 0x400 + admKey fn → queue t p = queue s p)) ∧
  (∀ fn tb (s : State), (admOf s fn).enable = true → exec (.admqEnable fn tb) s = .next (settle s))

/-- Held misses, the event ring and the host window (R328 to R331, R347): TU_ANSWER retries or fails the command it names, one
that names none is counted; waiting records leave while the ring has room; a Translation Completion and a Page Request Group
Response go on with the held command; an invalidation takes the translations away at once and completes when no access is in
flight. -/
def Obligations.AnswersAndInvalidations : Prop :=
  (∀ n seq q h hv ats tb (s : State), vfReady s n = true → barServes s (.vf n) tb = true → missOf s n seq = some (q, h) →
    exec (.tuAnswerRetry n seq hv ats tb) s = .next (settle (resumeHeld q h hv ats s)) ∧
    exec (.tuAnswerFail n seq tb) s = .next (settle (refuse (heldCmd s q h [] []).ref .rights h.dva
      (modQueue q (fun x => { x with miss := none }) s)))) ∧
  (∀ n seq hv ats tb (s : State), vfReady s n = true → barServes s (.vf n) tb = true → missOf s n seq = none →
    exec (.tuAnswerRetry n seq hv ats tb) s = .next (settle { s with
      tu := { s.tu with answerDrops := satAdd 64 s.tu.answerDrops 1 } }) ∧
    exec (.tuAnswerFail n seq tb) s = .next (settle { s with
      tu := { s.tu with answerDrops := satAdd 64 s.tu.answerDrops 1 } })) ∧
  (∀ n v tb (s : State), vfReady s n = true → barServes s (.vf n) tb = true → (vfTu s n).waiting = [] → exec (.evqHeadWrite n v tb) s =
    .next (settle (modVfTu n (fun t => { t with evqHead := v.toNat % 2 ^ 17 }) s))) ∧
  (∀ n v r t tb (s : State), vfReady s n = true → barServes s (.vf n) tb = true → t = vfTu s n → t.waiting = [r] →
    evqFull { t with evqHead := v.toNat % 2 ^ 17 } = false → ∃ u, exec (.evqHeadWrite n v tb) s = .next (settle u) ∧
      (vfTu u n).waiting = [] ∧ (vfTu u n).evqTail = (t.evqTail + 1) % 2 ^ 17 ∧ 
      Out.eventRec n (t.evqBase + 32 * (t.evqTail % 2 ^ t.evqLog2)) (evBytes r) ∈ u.out) ∧
  (∀ n r (s : State), (vfTu (evPush n r s) n).nextSeq = (vfTu s n).nextSeq + 1) ∧
  (∀ q a h hv (s : State), (queue s q).miss = some h → h.seq = 0 →
    exec (.atsTranslationCompletion q a hv) s = .next (settle (resumeHeld q h hv [a] s)) ∧
    exec (.pageRequestGroupResponse q false) s = .next (settle (refuse (heldCmd s q h [] []).ref .rights h.dva
      (modQueue q (fun x => { x with miss := none }) s))) ∧
    ∃ s1, s1 = (if h.opcode = 0xC0 then createHosts h.raw else hostRangeOf h.raw).foldl
        (fun s g => dropAtc (.vf h.part) (g.dva % 2 ^ 56) g.size s) s ∧
      exec (.pageRequestGroupResponse q true) s = .next (settle (resumeHeld q h h.fetch.host [] s1))) ∧
  (∀ q a hv t (s : State), (queue s q).miss = none →
    s.steps.find? (fun t => t.queue == q && t.atsWait && t.phase == .running) = some t →
    exec (.atsTranslationCompletion q a hv) s = .next (settle (answerCopy t a s))) ∧
  (∀ fn b z (s : State), s.bnd.powered = true → exec (.atsInvalidateRequest fn b z) s = .next (settle { s with
    tu := { s.tu with atc := s.tu.atc.filter fun e => !(decide (e.fn = fn) && overlaps e.base e.size b z)
                      invalidating := s.tu.invalidating ++ [(fn, b, z)] } })) ∧
  (∀ fn b z (s : State), (fn, b, z) ∈ s.tu.invalidating →
    (hostInFlight s fn b z = false → exec (.invalidateCompletion fn b z) s = .next (settle { s with
      tu := { s.tu with invalidating := s.tu.invalidating.erase (fn, b, z), invalidates := satAdd 64 s.tu.invalidates 1 }
      out := .invalidateDone fn b z :: s.out })) ∧
    (hostInFlight s fn b z = true → exec (.invalidateCompletion fn b z) s = .next (settle s)))

/-- Links and peers (R34, R383, R390 to R394, R415, R416): a link that comes up makes its enabled peers negotiate; ENABLE starts
and ends an entry, whose PORT it keeps; a HELLO or HELLO_ACK within both ranges makes the peer UP under version 1, and
INCOMPATIBLE otherwise; a HEARTBEAT is noted; a peer not heard for four frames is LOST. -/
def Obligations.PeersAgreeOrAreLost : Prop :=
  (∀ p (s : State), s.bnd.powered = true → s.bnd.stage = .time ∨ s.bnd.stage = .ready → p < 8 → (port s p).enable = true →
    (port s p).linkUp = false → ∃ t, exec (.linkUp p) s = .next (settle t) ∧ (port t p).linkUp = true ∧
      t.nu.peers = s.nu.peers.map fun e => if e.2.port = p then (e.1, renegotiate e.2) else e) ∧
  (∀ p (s : State), s.bnd.powered = true → p < 8 →
    exec (.linkDown p) s = .next (settle (modPort p (fun x => { x with linkUp := false }) s)) ∧
    ((port s p).linkUp = true →
      exec (.ingressDrop p) s = .next (settle (modPort p (fun x => { x with rxDrops := satAdd 64 x.rxDrops 1 }) s)))) ∧
  (∀ c (v : Word) (s : State), live s = true → c < 4096 →
    (v.getLsbD 31 = true → (peer s c).enable = false → exec (.peerEnable c v) s = .next (settle (setPeer c { peer s c with
      enable := true, port := fld v.toNat 24 3, state := .negotiating, version := 0 } s))) ∧
    (v.getLsbD 31 = true → (peer s c).enable = true → fld v.toNat 24 3 ≠ (peer s c).port → exec (.peerEnable c v) s =
      .next (settle (setPeer c (peer s c) { s with nu := { s.nu with cfgErr := true } }))) ∧
    (v.getLsbD 31 = false → fld v.toNat 24 3 = (peer s c).port → exec (.peerEnable c v) s =
      .next (settle (setPeer c { peer s c with enable := false, state := .disabled, version := 0 } s)))) ∧
  (∀ m (h : FoaHead) lo hi g (s s1 : State), h.rsv = false → (peer s h.srcChip).enable = true →
    (peer s h.srcChip).state = .negotiating → s1 = { s with nu := { s.nu with rxMsgs := satAdd 64 s.nu.rxMsgs 1 } } →
    (lo ≤ 1 → 1 ≤ hi →
      (Hears s m h (.hello lo hi) → exec (.hello m.port m.addr m.toUdpDatagram) s = .next (settle (setPeer h.srcChip
        { peer s h.srcChip with state := .up, version := 1, heard := s.tb.tick } (sendChip h.srcChip 1 (.helloAck 1 1 1) s1)))) ∧
      (Hears s m h (.helloAck lo hi g) → exec (.helloAck m.port m.addr m.udp m.toUdpData) s = .next (settle (setPeer h.srcChip
        { peer s h.srcChip with state := .up, version := 1, heard := s.tb.tick } s1)))) ∧
    (1 < lo ∨ hi < 1 →
      (Hears s m h (.hello lo hi) → exec (.hello m.port m.addr m.toUdpDatagram) s = .next (settle (setPeer h.srcChip
        { peer s h.srcChip with state := .incompatible, version := 0, heard := s.tb.tick }
        (sendChip h.srcChip 1 (.helloAck 1 1 0) s1)))) ∧
      (Hears s m h (.helloAck lo hi g) → exec (.helloAck m.port m.addr m.udp m.toUdpData) s = .next (settle (setPeer h.srcChip
        { peer s h.srcChip with state := .incompatible, version := 0, heard := s.tb.tick } s1))))) ∧
  (∀ m (h : FoaHead) t r l (s : State), Hears s m h (.heartbeat t r l) → h.rsv = false → (peer s h.srcChip).enable = true →
    ((peer s h.srcChip).state ≠ .up ∨ h.version ≤ (peer s h.srcChip).version) → exec (.heartbeat m.port m.addr m.udp m.toUdpData) s =
      .next (settle (setPeer h.srcChip { peer s h.srcChip with heard := s.tb.tick }
        { s with nu := { s.nu with rxMsgs := satAdd 64 s.nu.rxMsgs 1 } }))) ∧
  (∀ c (s : State), live s = true → (peer s c).state = .up → (peer s c).heard + 4 < s.tb.tick → ∃ t,
    exec (.peerLoss c) s = .next (settle t) ∧ peer t c = { peer s c with state := .lost, version := 0, lostTick := s.tb.tick } ∧
    t.nu.peerLost = true ∧ t.nu.peerLosses = satAdd 32 s.nu.peerLosses 1 ∧ t.steps = s.steps) ∧
  (∀ c (s : State), s.tb.tick ≤ (peer s c).heard + 4 → exec (.peerLoss c) s = .next (settle s))

/-- GATHER_REQ (R397, R408): the first check that fails names the NAK; a request that passes all is booked as one served step of
a later slot of the present frame, not slot 15. Messages from a peer that is not UP are only counted. Answers to a gather,
notes and resends (R398, R399, R409, R410, R411): an answer under another epoch is dropped and counted; a NAK ends the step
with its status and STALE_ROLE is noted; a complete partial is merged; a request without an answer is sent again at most
three times; a note that passes the checks reaches its comparison. -/
def Obligations.Gathers : Prop :=
  (∀ m (h : FoaHead) (b : GatherBody) n (s s1 : State), Hears s m h (.gatherReq b) → n = h.dstPart →
    s1 = { s with nu := { s.nu with rxMsgs := satAdd 64 s.nu.rxMsgs 1 } } →
    ((peer s h.srcChip).state ≠ .up → exec (.gatherReq m.port m.toPacket) s = .next (settle s1)) ∧
    ((peer s h.srcChip).state = .up → (peer s h.srcChip).version < h.version → exec (.gatherReq m.port m.toPacket) s =
      .next (settle { s1 with nu := { s1.nu with versionDrops := satAdd 64 s.nu.versionDrops 1 } })) ∧
    ((peer s h.srcChip).state = .up → h.version ≤ (peer s h.srcChip).version →
      (h.rsv = true ∨ b.rsv = true →
        exec (.gatherReq m.port m.toPacket) s = .next (settle (nakTo h b.tag .reservedNonzero 0x10 0 s1))) ∧
      (h.rsv = false → b.rsv = false →
        (hasHand s.ps.active n = false ∨ h.roleEpoch ≠ tget 0 s.ps.epochs n → exec (.gatherReq m.port m.toPacket) s =
          .next (settle (nakTo h b.tag .staleRole 0x10 (tget 0 s.ps.epochs n)
            { s1 with nu := { s1.nu with staleRole := satAdd 64 s.nu.staleRole 1 } }))) ∧
        (hasHand s.ps.active n = true → h.roleEpoch = tget 0 s.ps.epochs n →
          (activeSlot s n h.jobId h.jobGen = none →
            exec (.gatherReq m.port m.toPacket) s = .next (settle (nakTo h b.tag .jobAborted 0x10 0 s1))) ∧
          (∀ j, activeSlot s n h.jobId h.jobGen = some j →
            (memberIndex (tget {} s.nu.jobs (pkey 5 n j)) h.srcChip h.srcPart = none →
              exec (.gatherReq m.port m.toPacket) s = .next (settle (nakTo h b.tag .rights 0x10 0 s1))) ∧
            (∀ i, memberIndex (tget {} s.nu.jobs (pkey 5 n j)) h.srcChip h.srcPart = some i →
              (s.tb.locked = false ∨ b.execTick ≠ s.tb.tick →
                exec (.gatherReq m.port m.toPacket) s = .next (settle (nakTo h b.tag .stateConflict 0x10 0 s1))) ∧
              (s.tb.locked = true → b.execTick = s.tb.tick →
                (exportOf s n b.exportNo = none → exec (.gatherReq m.port m.toPacket) s = .next (settle (nakTo h b.tag .rights 0x10 0 s1))) ∧
                (∀ e, exportOf s n b.exportNo = some e →
                  (exportFits e j b = false → exec (.gatherReq m.port m.toPacket) s = .next (settle (nakTo h b.tag .rights 0x10 0 s1))) ∧
                  (exportFits e j b = true → servedSlot s n e.cls = none →
                    exec (.gatherReq m.port m.toPacket) s = .next (settle (nakTo h b.tag .refusedCapacity 0x10 0 s1))) ∧
                  (∀ k, exportFits e j b = true → servedSlot s n e.cls = some k →
                    exec (.gatherReq m.port m.toPacket) s = .next (settle (serve h b e k s1)) ∧
                    s.tb.slot < k ∧ k < 15 ∧ k ∈ allowedSlots s n ∧
                    tget 0 s.ac.frameAdmits (16 * n + e.cls) < (hClass s.ps.active n e.cls).rateCap))))))))) ∧
  (∀ m (h : FoaHead) b (s s1 : State), Hears s m h (.gatherReply b) → h.rsv = false → (peer s h.srcChip).state = .up →
    h.version ≤ (peer s h.srcChip).version → s1 = { s with nu := { s.nu with rxMsgs := satAdd 64 s.nu.rxMsgs 1 } } →
    (h.roleEpoch ≠ tget 0 s.ps.epochs h.dstPart → exec (.gatherReply m.port m.toPacket) s =
      .next (settle { s1 with nu := { s1.nu with staleReplies := satAdd 64 s.nu.staleReplies 1 } })) ∧
    (h.roleEpoch = tget 0 s.ps.epochs h.dstPart → findOut s h b.tag = none → exec (.gatherReply m.port m.toPacket) s = .next (settle s1)) ∧
    (h.roleEpoch = tget 0 s.ps.epochs h.dstPart → ∀ o g, findOut s h b.tag = some o → o.body = some g → o.got = [] →
      o.terms = none → b.elemFirst = 0 → b.columns.length = g.dim → 0 < g.dim →
      b.columns.all (fun c => columnOk c b.terms) = true → ∃ o', o'.tag = o.tag ∧ o'.step = o.step ∧ o'.bag = o.bag ∧
        (∀ i c, b.columns[i]? = some c → tfind o'.got i = some c) ∧
        exec (.gatherReply m.port m.toPacket) s = .next (settle (fillBe h.dstPart (gatherDone o' b.terms s1))))) ∧
  (∀ m (h : FoaHead) tag st ty ep (s s1 : State), Hears s m h (.nak tag st ty ep) → h.rsv = false →
    (peer s h.srcChip).state = .up → h.version ≤ (peer s h.srcChip).version →
    s1 = { s with nu := { s.nu with rxMsgs := satAdd 64 s.nu.rxMsgs 1 } } →
    (h.roleEpoch ≠ tget 0 s.ps.epochs h.dstPart → exec (.nak m.port m.addr m.udp m.dst m.toPayload) s =
      .next (settle { s1 with nu := { s1.nu with staleReplies := satAdd 64 s.nu.staleReplies 1 } })) ∧
    (h.roleEpoch = tget 0 s.ps.epochs h.dstPart → findOut s h tag = none → exec (.nak m.port m.addr m.udp m.dst m.toPayload) s = .next (settle s1)) ∧
    (h.roleEpoch = tget 0 s.ps.epochs h.dstPart → ∀ o, findOut s h tag = some o →
      (st ≠ .staleRole → exec (.nak m.port m.addr m.udp m.dst m.toPayload) s = .next (settle (fillBe h.dstPart (refuseGather o st s1)))) ∧
      (st = .staleRole → exec (.nak m.port m.addr m.udp m.dst m.toPayload) s = .next (settle (fillBe h.dstPart (refuseGather o .staleRole { s1 with
        nu := { s1.nu with vfs := tmod {} s.nu.vfs h.dstPart fun v =>
          { v with staleEpoch := ep, stalePart := h.srcPart, staleChip := h.srcChip } } })))))) ∧
  (∀ tag o (s : State), live s = true → s.nu.out.find? (fun o => o.tag == tag) = some o → foaUp s o.chip = true →
    o.resends < 3 → ∃ m, exec (.retransmit tag) s = .next (settle (foaSend o.chip o.head m { s with
      nu := { s.nu with
        out := modFirst (fun o => o.tag == tag) (fun o => { o with resends := o.resends + 1 }) s.nu.out
        retransmits := satAdd 64 s.nu.retransmits 1 } })) ∧
      (∀ b, o.body = some b → m = .gatherReq b) ∧ (o.body = none → m = .jobAbort o.abortTick o.reason o.origin)) ∧
  (∀ tag o (s : State), s.nu.out.find? (fun o => o.tag == tag) = some o → 3 ≤ o.resends →
    exec (.retransmit tag) s = .next (settle s)) ∧
  (∀ m (h : FoaHead) (b : NoteBody) j i (s : State), Hears s m h (.digestNote b) → h.rsv = false →
    (peer s h.srcChip).state = .up → h.version ≤ (peer s h.srcChip).version → b.rsv = false → b.canon = 1 →
    hasHand s.ps.active h.dstPart = true → h.roleEpoch = tget 0 s.ps.epochs h.dstPart →
    activeSlot s h.dstPart h.jobId h.jobGen = some j →
    memberIndex (tget {} s.nu.jobs (pkey 5 h.dstPart j)) h.srcChip h.srcPart = some i →
    (tget {} s.nu.jobs (pkey 5 h.dstPart j)).count ≤ 15 → exec (.digestNote m.port m.toPacket) s =
      .next (settle (noteSt h.dstPart j i b { s with nu := { s.nu with rxMsgs := satAdd 64 s.nu.rxMsgs 1 } })))

/-- Jobs (R400, R401, R402, R403, R405): a LOAD whose list is read makes the slot ACTIVE with its members, or fails with the
first status and leaves the slot; an abort puts the slot in ABORTING under its abort tick and at that tick it is ABORTED
with the reason; JOB_ABORT is acknowledged in every case. EXPORT_LOAD (R406): a table that is read and valid replaces the
previous load at the next tick; a failed load reports its status with the entry's index and leaves the load in force. That
COUNT above 64 gives STATE_CONFLICT is the model's reading (log 75). -/
def Obligations.JobsAndExports : Prop :=
  (∀ n j host tb x (s : State), vfReady s n = true → barServes s (.vf n) tb = true → j < 32 → x = tget {} s.nu.jobs (pkey 5 n j) →
    (loadBarred s n j = true → exec (.jobLoad n j host tb) s =
      .next (settle (setJob n j { x with status := .stateConflict } s))) ∧
    (loadBarred s n j = false → ∀ t,
      (readRight n host x.members (8 * x.count) s = (.refused, t) → exec (.jobLoad n j host tb) s =
        .next (settle (endLoad n j (.rights, []) t))) ∧
      (readRight n host x.members (8 * x.count) s = (.wait, t) → exec (.jobLoad n j host tb) s =
        .next (settle (waitLoad (.job n j host) t))) ∧
      (∀ bs p, readRight n host x.members (8 * x.count) s = (.got bs p, t) → exec (.jobLoad n j host tb) s =
        .next (settle (endLoad n j (loadMembers t x.count bs) t)))) ∧
    (x.state = .active ∨ x.state = .aborted →
      exec (.jobClose n j tb) s = .next (settle (setJob n j { x with closing := true } s))) ∧
    (x.state = .active → loadBarred s n j = true ∧
      ∃ t, exec (.jobSlotAbort n j tb) s = .next (settle t) ∧ (tget {} t.nu.jobs (pkey 5 n j)).state = .aborting ∧
        (tget {} t.nu.jobs (pkey 5 n j)).reason = .jobAborted ∧ s.tb.tick < (tget {} t.nu.jobs (pkey 5 n j)).abortAt ∧
        (tget {} t.nu.jobs (pkey 5 n j)).abortAt ≤ s.tb.tick + 2)) ∧
  (∀ n j st l x (s : State), x = tget {} s.nu.jobs (pkey 5 n j) →
    (st = .ok → endLoad n j (st, l) s = setJob n j
      { x with state := .active, status := .ok, tick := 0, list := l, closing := false } s) ∧
    (st ≠ .ok → endLoad n j (st, l) s = setJob n j { x with status := st } s)) ∧
  (∀ n j x (s : State), x = tget {} s.nu.jobs (pkey 5 n j) → loadBarred s n j = false → s.tb.locked = true ∧ 0 < x.count ∧
    x.count ≤ 4096 ∧ x.id ≠ 0 ∧ x.state ≠ .active ∧ x.state ≠ .aborting) ∧
  (∀ count bs l (s : State), loadMembers s count bs = (.ok, l) → l.length = count ∧
    ∀ m ∈ l, (peer s m.chip).state = .up ∧ m.chip ≠ s.nu.chipId) ∧
  (∀ n j x (s : State), live s = true → x = tget {} s.nu.jobs (pkey 5 n j) → x.state = .aborting → x.abortAt ≤ s.tb.tick →
    s.cu.open_ = none → ∃ s1, s1 = killAll (servedFor x n) .silent (killAll
        (fun t => t.part == n && t.gather.isNone && namesJob t.opcode t.raw j) (.complete x.reason)
        (setJob n j { x with state := .aborted, status := x.reason, tick := x.abortAt } s)) ∧
      exec (.abortTick n j) s = .next (settle ((s1.qu.qs.filter fun q => q.2.part == n && heldNames j q.2).foldl
        (fun s q => touchQueue q.1 (dropHeld q.1 (some x.reason) s)) s1)) ∧
      (s.steps = [] → s.qu.qs = [] → exec (.abortTick n j) s = .next (settle (setJob n j
        { x with state := .aborted, status := x.reason, tick := x.abortAt } s)))) ∧
  (∀ n j (s : State), s.tb.tick < (tget {} s.nu.jobs (pkey 5 n j)).abortAt →
    exec (.abortTick n j) s = .next (settle s)) ∧
  (∀ m (h : FoaHead) at_ r org (s s1 : State), Hears s m h (.jobAbort at_ r org) → h.rsv = false →
    (peer s h.srcChip).state = .up → h.version ≤ (peer s h.srcChip).version →
    s.cu.halted = false →
    s1 = foaSend h.srcChip (backHead h (peer s h.srcChip).version) .abortAck
      { s with nu := { s.nu with rxMsgs := satAdd 64 s.nu.rxMsgs 1 } } →
    (activeSlot s h.dstPart h.jobId h.jobGen = none → exec (.jobAbort m.port m.addr m.udp m.toUdpData) s = .next (settle s1)) ∧
    (∀ k, activeSlot s h.dstPart h.jobId h.jobGen = some k → s.tb.tick < at_ → exec (.jobAbort m.port m.addr m.udp m.toUdpData) s =
      .next (settle (setJob h.dstPart k { tget {} s.nu.jobs (pkey 5 h.dstPart k) with
        state := .aborting, reason := r, abortAt := at_ } s1))) ∧
    (∀ k, activeSlot s h.dstPart h.jobId h.jobGen = some k → at_ ≤ s.tb.tick → ∃ t, exec (.jobAbort m.port m.addr m.udp m.toUdpData) s =
      .next (settle t) ∧ (tget {} t.nu.jobs (pkey 5 h.dstPart k)).abortAt = s.tb.tick + 1 ∧ t.nu.lateAbort = true ∧
      t.nu.lateAborts = satAdd 32 s.nu.lateAborts 1)) ∧
  (∀ m (h : FoaHead) (s : State), Hears s m h .abortAck → h.rsv = false → (peer s h.srcChip).state = .up →
    h.version ≤ (peer s h.srcChip).version →
    ∃ out, (∀ o ∈ out, o ∈ s.nu.out) ∧ (∀ o ∈ s.nu.out, o.body.isSome = true → o ∈ out) ∧ exec (.abortAck m) s =
      .next (settle { s with nu := { s.nu with rxMsgs := satAdd 64 s.nu.rxMsgs 1, out := out } })) ∧
  (∀ n count host tb (s : State), vfReady s n = true → barServes s (.vf n) tb = true →
    (64 < count → exec (.exportLoad n count host tb) s =
      .next (settle (endExports n count (.error (0, .stateConflict)) s))) ∧
    (count ≤ 64 → ∀ t,
      (readRight n host (tget {} s.nu.vfs n).exportBase (32 * count) s = (.refused, t) → exec (.exportLoad n count host tb) s =
        .next (settle (endExports n count (.error (0, .rights)) t))) ∧
      (readRight n host (tget {} s.nu.vfs n).exportBase (32 * count) s = (.wait, t) → exec (.exportLoad n count host tb) s =
        .next (settle (waitLoad (.exports n count host) t))) ∧
      (∀ bs p t1, readRight n host (tget {} s.nu.vfs n).exportBase (32 * count) s = (.got bs p, t) →
        t1 = countWalks n host (walkedExports t n bs count) t → exec (.exportLoad n count host tb) s =
          .next (settle (endExports n count (exportTable t1 n count host bs) t1))))) ∧
  (∀ n count l (s : State), ∃ t, t = endExports n count (.ok l) s ∧ (tget {} t.nu.vfs n).nextExports = some l ∧
    (tget {} t.nu.vfs n).exports = (tget {} s.nu.vfs n).exports ∧ (tget {} t.nu.vfs n).exportStatus = .ok) ∧
  (∀ n count i st (s : State), endExports n count (.error (i, st)) s = { s with nu := { s.nu with vfs := tmod {} s.nu.vfs n fun v =>
    { v with exportStatus := st, exportIndex := i, exportCount := count % 128 } } }) ∧
  (∀ n count host bs l (s : State), exportTable s n count host bs = .ok l → l.length = count ∧
    ∀ i e, l[i]? = some e → loadExport s n host ((bs.drop (32 * i)).take 32) = .ok e)

/-- Fault messages and their records (R423, R427, R429, R432, R433, R435, R457): a message that repeats its source's newest
record of the same frame only raises its REPEATS. Any other makes one record, with the next SEQ, and sets the pending flag
of its class; the record carries the step of the ladder, which is none while the device is halted and at most INTERRUPT for
an injected fatal one. A repeat takes one step above the last, within the cap of its class, and no fault less than its base
step and its kind's floor. FAULT_STATE_EXIT waits for QUIET_S without a record. -/
def Obligations.FaultRecords : Prop :=
  (∀ m (s : State), coalesces s m = false → ∃ r, (report m s).fc.bbr = (r :: s.fc.bbr).take 4096 ∧
    (report m s).fc.newest = s.fc.newest + 1 ∧ r.seq = s.fc.newest + 1 ∧ r.type = .fault ∧ r.source = m.source ∧
    r.kind = m.kind ∧ r.cls = kindClass m.kind ∧ r.address = m.address ∧ r.injected = m.injected ∧
    r.ladder = (if s.cu.halted || m.quiet then 0
      else if m.injected && kindClass m.kind = .f then min (ladderStep (tget {} s.fc.src m.source) m.kind) 1
      else ladderStep (tget {} s.fc.src m.source) m.kind) ∧
    pendOf (tget {} (report m s).fc.src m.source) (kindClass m.kind) = true ∧
    (tget {} (report m s).fc.src m.source).inFault = true ∧
    (∀ u, u ≠ m.source → tget {} (report m s).fc.src u = tget {} s.fc.src u) ∧
    (s.cu.halted = true → (report m s).cu = s.cu ∧ (report m s).bnd = s.bnd ∧ (report m s).rc = s.rc)) ∧
  (∀ m (s : State), coalesces s m = true → ∃ bbr r x, s.fc.bbr.find? (fun r => r.source == m.source) = some r ∧
    x = { r with repeats := satAdd 16 r.repeats 1 } ∧ bbr.find? (fun r => r.source == m.source) = some x ∧
    bbr.length = s.fc.bbr.length ∧ report m s = { s with fc := toMirrors x { s.fc with bbr := bbr } }) ∧
  (∀ (r : Src) k, pendOf r (kindClass k) = true → ladderStep r k ≤ capOf (kindClass k) ∧
    min (capOf (kindClass k)) (lastStep r (kindClass k) + 1) ≤ ladderStep r k) ∧
  (∀ (r : Src) k, pendOf r (kindClass k) = false → ladderStep r k = max (baseStep r (kindClass k)) (kindFloor k)) ∧
  (∀ src st part detail (s : State), (event src st part detail s).fc.newest = s.fc.newest + 1 ∧
    (∀ u k, pendOf (tget {} (event src st part detail s).fc.src u) k = pendOf (tget {} s.fc.src u) k) ∧
    (event src st part detail s).cu = s.cu ∧ (event src st part detail s).bnd = s.bnd ∧
    (event src st part detail s).rc = s.rc)

/-- Injection and fencing by register (R434, R436, R443, R548): an ARM that a rule turns away injects nothing and shows why; one
that passes runs for COUNT checks; CANCEL ends an injection. Written ones of FC_ENGINE_FENCED unfence their engines, but for
the engine under test. -/
def Obligations.InjectionAndFencing : Prop :=
  (∀ v (s : State), live s = true → exec (.injectArm v) s = .next (settle (injectWrite (v ||| 1).toNat s)) ∧
    exec (.injectCancel v) s = .next (settle (injectWrite (v ||| 2).toNat s))) ∧
  (∀ v (s : State), bitAt v 0 = false → bitAt v 1 = true → (injectWrite v s).fc.inj.remaining = 0) ∧
  (∀ v (s : State), ∃ i, injectWrite v s = { s with fc := { s.fc with inj := i } }) ∧
  (∀ s : State, s.fc.inj.remaining ≠ 0 ∨ checkerSuits s.fc.inj.checker s.fc.inj.target = false ∨ s.fc.inj.count = 0 →
    armInject s = { s with fc := { s.fc with inj := { s.fc.inj with status := .stateConflict } } }) ∧
  (∀ s : State, s.fc.inj.remaining = 0 → checkerSuits s.fc.inj.checker s.fc.inj.target = true → s.fc.inj.count ≠ 0 →
    (s.fc.inj.pvalid = true ∧ hConf s.ps.active s.fc.inj.part = true) ∨
      (s.fc.inj.pvalid = false ∧ ∃ n ∈ targetServes s.ps.active s.fc.inj.target, hConf s.ps.active n = true) →
    armInject s = { s with fc := { s.fc with inj := { s.fc.inj with status := .rights } } }) ∧
  (∀ s : State, s.fc.inj.remaining = 0 → checkerSuits s.fc.inj.checker s.fc.inj.target = true → s.fc.inj.count ≠ 0 →
    (∀ n, hConf s.ps.active n = false) → (armInject s).fc.inj.remaining = s.fc.inj.count ∧ (armInject s).fc.inj.status = .ok ∧
      (armInject s).fc.inj.runChecker = s.fc.inj.checker ∧ (armInject s).fc.inj.runTarget = s.fc.inj.target) ∧
  (∀ i v (s : State), live s = true → i < 5 → exec (.unfence i v) s = .next (settle (unfenceWrite i v.toNat s))) ∧
  (∀ i v e (s : State), i < 5 → e < 320 → (unfenceWrite i v s).fc.fenced.getLsbD e =
    (s.fc.fenced.getLsbD e && !(e / 64 == i && bitAt v (e % 64) && !s.hm.testing.any fun f => f.engine == e)))

/-- Replica comparison (R452 to R455): an entry decides at PERIOD_TICK + CLOSE_FRAMES and not before. The reference is held by
more than half of the members; the bitmaps name its holders, the others and the missing ones, so that every member either
holds the reference or is odd. The local partition is placed on hold when it is odd or no reference exists, and only then. -/
def Obligations.ComparisonsDecide : Prop :=
  (∀ n j r p e (s : State), live s = true → s.fc.cmps.find? (isCmp n j r p) = some e → p + s.fc.closeFrames ≤ s.tb.tick →
    exec (.comparisonClose n j r p) s = .next (settle (decide_ e s))) ∧
  (∀ n j r p (s : State), s.fc.cmps.find? (isCmp n j r p) = none ∨ s.tb.tick < p + s.fc.closeFrames →
    exec (.comparisonClose n j r p) s = .next (settle s)) ∧
  (∀ e (s : State), ∀ c ∈ (decide_ e s).fc.cmps, isCmp e.part e.slot e.rangeId e.periodTick c = false) ∧
  (∀ e d, cmpReference e = some d → 1 + e.members < 2 * (e.digests.filter fun p => p.2 == d).length) ∧
  (∀ e d i, cmpReference e = some d → e.members ≤ 15 → i < 16 →
    bitAt (cmpDetail e).1 i = (decide (i ≤ e.members) && tfind e.digests i == some d) ∧
    bitAt (cmpDetail e).2.1 i = (decide (i ≤ e.members) && tfind e.digests i != some d) ∧
    bitAt (cmpDetail e).2.2 i = (decide (i ≤ e.members) && (tfind e.digests i).isNone)) ∧
  (∀ e d (s : State), cmpReference e = some d → tfind e.digests 0 = some d → (decide_ e s).ps = s.ps) ∧
  (∀ e d (s : State), cmpReference e = some d → tfind e.digests 0 ≠ some d → e.part < 32 →
    (decide_ e s).ps.hold = setBit s.ps.hold e.part true) ∧
  (∀ e (s : State), cmpReference e = none → e.part < 32 → (decide_ e s).ps.hold = setBit s.ps.hold e.part true)

/-- Captures (R485 to R488, R492, R500): a read that times out names its unit once and is counted; a capture that ends shows OK
and the present tick and lets its DUMP complete or its reset go on with the kills. The header is 256 bytes whose COMPLETE
byte is 1. RC_DUMP_BASE takes an area that is mapped with rights R and W and fits the pin limit; any other write leaves it
at zero with the status. -/
def Obligations.CapturesAndTheDumpArea : Prop :=
  (∀ c r u (s : State), s.rc.capture = some c → s.rc.current = some r → u ∈ captureUnits s c → u ∉ c.silent →
    exec (.colReadTimeout u) s = .next (settle (report { source := 0xA02, kind := 0x60, address := u, part := some c.part }
      { s with rc := { s.rc with capture := some { c with silent := c.silent ++ [u] },
                                 colTimeouts := satAdd 32 s.rc.colTimeouts 1 } }))) ∧
  (∀ u (s : State), s.rc.capture = none → s.bnd.prep = none → exec (.colReadTimeout u) s = .next (settle s)) ∧
  (∀ c r n (s : State), s.rc.capture = some c → s.rc.current = some r → r.domain = .dump n → ∃ w, w = writeCapture c s ∧
    exec .captureComplete s =
      .next (settle (endCmd r.cmd { st := .ok } { w with rc := { w.rc with capture := none, current := none } }))) ∧
  (∀ c r (s : State), s.rc.capture = some c → s.rc.current = some r → (∀ n, r.domain ≠ .dump n) →
    ∃ w, w = writeCapture c s ∧ exec .captureComplete s =
      .next (settle (startKills { r with captured := true } { w with rc := { w.rc with capture := none } }))) ∧
  (∀ c (s : State), (dumpHeader s c).length = 256 ∧ (dumpHeader s c)[0x30]? = some 1 ∧
    (dumpHeader s c).take 2 = [1, BitVec.ofNat 8 c.scope]) ∧
  (∀ c (s : State), (captureUnits s c).Pairwise (· < ·)) ∧
  (∀ n sz v h tb b (s s1 : State), vfReady s n = true → barServes s (.vf n) tb = true → sz = 4 ∨ sz = 8 →
    b = fld (if sz = 8 then v.toNat else tget 0 s.rc.dumpBase n / 2 ^ 32 * 2 ^ 32 + v.toNat % 2 ^ 32) 12 45 * 4096 →
    s1 = countWalks n h [{ dva := b, size := 2 ^ 20, r := true, w := true }] s →
    (b = 0 → exec (.dumpBaseWrite n 0 sz v h tb) s = .next (settle { s with
      rc := { s.rc with dumpBase := tdel s.rc.dumpBase n, dumpXlat := tdel s.rc.dumpXlat n
                        dumpStatus := tput s.rc.dumpStatus n .ok } })) ∧
    (b ≠ 0 → isHost b = true → exec (.dumpBaseWrite n 0 sz v h tb) s = .next (settle { s with
      rc := { s.rc with dumpBase := tdel s.rc.dumpBase n, dumpXlat := tdel s.rc.dumpXlat n
                        dumpStatus := tput s.rc.dumpStatus n .rights } })) ∧
    (b ≠ 0 → isHost b = false →
      (∀ xs, walkRange s1 n h { dva := b, size := 2 ^ 20, r := true, w := true } = .ok xs → pinFits s1 n xs = true →
        exec (.dumpBaseWrite n 0 sz v h tb) s = .next (settle { s1 with
          rc := { s1.rc with dumpBase := tput s1.rc.dumpBase n b, dumpXlat := tput s1.rc.dumpXlat n (dedupX xs)
                             dumpStatus := tput s1.rc.dumpStatus n .ok } })) ∧
      (∀ st, (∃ xs, walkRange s1 n h { dva := b, size := 2 ^ 20, r := true, w := true } = .ok xs ∧ pinFits s1 n xs = false ∧
            st = .stateConflict) ∨
          (∃ x, walkRange s1 n h { dva := b, size := 2 ^ 20, r := true, w := true } = .fail st x) ∨
          (∃ l x, walkRange s1 n h { dva := b, size := 2 ^ 20, r := true, w := true } = .miss l x ∧ st = .translationPending) →
        exec (.dumpBaseWrite n 0 sz v h tb) s = .next (settle { s1 with
          rc := { s1.rc with dumpBase := tdel s1.rc.dumpBase n, dumpXlat := tdel s1.rc.dumpXlat n
                             dumpStatus := tput s1.rc.dumpStatus n st } }))))

/-- Resets go on (R470, R471, R476, R478, R479, R483): the wait for kills names the first silent unit; a reset's generation
rises by one modulo 256, and no other engine's or partition's; the quiet interval ends it, and the engine is back in service
unless it is fenced. A partition reset leaves no queue and no LIVE context of its partition. Replays (R494, R495): a judge
run has REPLAY_FRAMES frames. At the first suspect that hangs again the engine is reset with a new generation and the
suspect's context is LOST; at the second the engine is fenced and nothing more is replayed. -/
def Obligations.ResetsGoOn : Prop :=
  (∀ r u l (s : State), s.rc.current = some r → r.stage = .kills → r.firstSilent = none →
    owed s (inDomain s r.domain) = u :: l →
    exec .killAckTimeout s = .next (settle { s with rc := { s.rc with current := some { r with firstSilent := some u } } })) ∧
  (∀ (s : State), s.rc.current = none → s.rc.works = [] → exec .killAckTimeout s = .next (settle s)) ∧
  (∀ n r w (s : State), s.rc.current = some r → r.domain = .partition n → r.stage = .walk → s.coh.walk.getLsbD n = true →
    walkOpen s n = false → w = raisePart n (fabricFall (bitList (hTiles s.ps.active n)) (endWalk n s)) →
    exec (.recallWalkEnd n) s = .next (settle { w with rc := { w.rc with current := some { r with stage := .quiet } } })) ∧
  (∀ n (s : State), walkOpen s n = true → exec (.recallWalkEnd n) s = .next (settle s)) ∧
  (∀ n k (s : State), n < 32 → k < 32 → partGen (raisePart n s) k = if k = n then (partGen s n + 1) % 256 else partGen s k) ∧
  (∀ n e (s : State), e < 320 → engine (raisePart n s) e =
    if (hEngines s.ps.active n).getLsbD e
    then { engine s e with gen := ((engine s e).gen + 1) % 256, state := .inReset, groups := 0, luts := [] }
    else engine s e) ∧
  (∀ e r (s : State), s.rc.current = some r → r.domain = .engine e → r.stage = .quiet → s.rc.replay = none → r.replay = false →
    exec .quietIntervalEnd s = .next (settle (closeReset r (serveEngine e s)))) ∧
  (∀ n r (s : State), s.rc.current = some r → r.domain = .partition n → r.stage = .quiet → r.flr = false →
    exec .quietIntervalEnd s = .next (settle (closeReset { r with
      lostCtxs := ((usedCtxs s n).filter fun c => ctxState s n c = .live).length } (endPartition n s)))) ∧
  (∀ t r (s : State), s.rc.current = some r → r.domain = .stockTile t → r.stage = .quiet →
    exec .quietIntervalEnd s = .next (settle (closeReset r (fabricRise [t] s)))) ∧
  (∀ e (s : State), (engine (serveEngine e s) e).state = if s.fc.fenced.getLsbD e then .fenced else .idle) ∧
  (∀ n q (s : State), (queue (endPartition n s) q).live = true → q < 1024 → (queue (endPartition n s) q).part ≠ n) ∧
  (∀ n c (s : State), c < 2 ^ 16 → ctxState (endPartition n s) n c ≠ .live) ∧
  (∀ p id f (s : State), s.rc.replay = some p → p.running = some (id, f) → s.tb.tick < f + s.rc.replayFrames →
    exec .replayHang s = .next (settle s)) ∧
  (∀ p r id f t l w (s : State), s.rc.replay = some p → s.rc.current = some r → r.stage = .replay → p.running = some (id, f) →
    p.todo = t :: l → p.hung = 0 → f + s.rc.replayFrames ≤ s.tb.tick →
    w = loseCtx t.part t.ctx (resetAgain p.engine (dropStep id s)) →
    exec .replayHang s = .next (settle { w with
      rc := { w.rc with
        replay := some { p with
          todo := p.todo.filter fun x => !(x.part == t.part && x.ctx == t.ctx)
          running := none
          hung := 1
          firstHang := s.tb.tick
          lost := p.lost + 1 }
        replayLost := satAdd 32 w.rc.replayLost 1
        current := some { r with stage := .quiet } } })) ∧
  (∀ p r id f t l w (s : State), s.rc.replay = some p → s.rc.current = some r → r.stage = .replay → p.running = some (id, f) →
    p.todo = t :: l → p.hung ≠ 0 → f + s.rc.replayFrames ≤ s.tb.tick → w = fenceEngine p.engine p.firstHang (dropStep id s) →
    exec .replayHang s = .next (settle { w with
      rc := { w.rc with replay := some { p with todo := [], running := none, hung := 2 } } })) ∧
  (∀ e (s : State), e < 320 → (engine (resetAgain e s) e).gen = ((engine s e).gen + 1) % 256 ∧
    (engine (resetAgain e s) e).state = .inReset) ∧
  (∀ e d (s : State), e < 320 → (fenceEngine e d s).fc.fenced.getLsbD e = true) ∧
  (∀ n c (s : State), c < 0xFFFF → ctxState s n c = .live → ctxState (loseCtx n c s) n c = .lost)

/-- Tenant sessions (R142, R527 to R532): an S_HELLO that a rule turns away is answered with S_DONE of that rule's status; any
other leaves a half-open agreement with the partition's present role epoch and is answered with S_REPORT. An S_FINISH
without an agreement is dropped; any other, once the tenant keys are read, takes its agreement away, installs a session only
for a listed key, a signature that verifies and the report's role epoch, and is answered with S_DONE. A write of the
tenant-key registers ends every session of its partition and no other. Signed copies of the hand report page (R533, R536):
SIGN sets BUSY, and one while BUSY is 1 is dropped with CMD_ERR. A copy whose address is not mapped with right W ends with
RIGHTS, one without a certificate chain with STATE_CONFLICT, and any other with OK. The page is 4,096 bytes and the signed
part 4,160. -/
def Obligations.TenantSessionsAndReports : Prop :=
  (∀ m id zero body n (s : State), HearsSession s m 1 0xF0 id zero body → n = wireBits body 0 1 0 5 →
    (helloShape id zero body = false →
      exec (.sHello m) s = .next (settle (sDone m.port m.addr m.udp 0 .reservedNonzero s))) ∧
    (helloShape id zero body = true →
      hasHand s.ps.active n = false ∨ 64 ≤ s.tc.half.length ∨ 8192 ≤ s.rie.sessions.length →
      exec (.sHello m) s = .next (settle (sDone m.port m.addr m.udp 0 .refusedCapacity s))) ∧
    (helloShape id zero body = true → hasHand s.ps.active n = true → s.tc.half.length < 64 →
      s.rie.sessions.length < 8192 → s.tc.chain = none →
      exec (.sHello m) s = .next (settle (sDone m.port m.addr m.udp 0 .stateConflict s))) ∧
    (∀ c, helloShape id zero body = true → hasHand s.ps.active n = true → s.tc.half.length < 64 →
      s.rie.sessions.length < 8192 → s.tc.chain = some c →
      ∃ t a eph nonce sig answer, exec (.sHello m) s = .next (settle t) ∧ t.tc.half = s.tc.half ++ [a] ∧ a.part = n ∧
        a.epoch = tget 0 s.ps.epochs n ∧ a.tenantKey = BitVec.ofNat 776 (wireFld body 0x88 97) ∧ a.session ≠ 0 ∧
        s.rie.sessions.any (fun x => x.id == a.session) = false ∧ s.tc.half.any (fun x => x.session == a.session) = false ∧
        eph = keyBytes (Config.ecdsaPub a.scalar) ∧
        nonce = BitVec.ofNat 256 (leNat ((beBytes (Config.sha384 (body ++ eph)).toNat 48).take 32)) ∧
        answer = eph ++ List.replicate 7 0 ++ (reportBody s n nonce ++ beBytes sig.toNat 96) ∧ a.transcript = body ++ answer ∧
        t.out = .datagram m.port m.addr m.udp (sessionBytes 2 a.session answer) :: .report n nonce sig :: s.out ∧
        t.rie = s.rie ∧ t.tc.signed = satAdd 64 s.tc.signed 1)) ∧
  (∀ (m : FinishMsg) id zero body sig (s : State), HearsSession s m.toDatagram 3 0x60 id zero body →
    sig = BitVec.ofNat 768 (wireFld body 0 96) →
    (s.tc.half.find? (fun a => a.session == id) = none → exec (.sFinish m) s = .next (settle s)) ∧
    (∀ a x, s.tc.half.find? (fun a => a.session == id) = some a → x = tget {} s.tc.vfs a.part → ∀ t,
      (readRight a.part m.host x.tenantKeys (48 * x.tenantCount) s = (.refused, t) →
        exec (.sFinish m) s = .next (settle (endFinish a sig none t))) ∧
      (readRight a.part m.host x.tenantKeys (48 * x.tenantCount) s = (.wait, t) →
        exec (.sFinish m) s = .next (settle (waitLoad (.finish id sig m.host) t))) ∧
      (∀ bs p, readRight a.part m.host x.tenantKeys (48 * x.tenantCount) s = (.got bs p, t) →
        exec (.sFinish m) s = .next (settle (endFinish a sig (some ((List.range x.tenantCount).map fun i =>
          BitVec.ofNat 384 (beNat ((bs.drop (48 * i)).take 48)))) t))))) ∧
  (∀ a sig keys (s s1 : State), s1 = { s with tc := { s.tc with half := s.tc.half.filter fun x => x.session ≠ a.session } } →
    (∀ l, keys = some l → l.contains (Config.sha384 (keyBytes a.tenantKey)) = true →
      Config.ecdsaVerify a.tenantKey (Config.sha384 a.transcript) sig = true →
      (tget 0 s.ps.epochs a.part = a.epoch → endFinish a sig keys s = sDone a.port a.addr a.udp a.session .ok { s1 with
        rie := { s1.rie with sessions := s1.rie.sessions ++ [sessionOf a] }
        tc := { s1.tc with agreed := satAdd 64 s1.tc.agreed 1 } }) ∧
      (tget 0 s.ps.epochs a.part ≠ a.epoch →
        endFinish a sig keys s = sDone a.port a.addr a.udp a.session .staleRole s1)) ∧
    (keys = none ∨ (∃ l, keys = some l ∧ l.contains (Config.sha384 (keyBytes a.tenantKey)) = false) ∨
        Config.ecdsaVerify a.tenantKey (Config.sha384 a.transcript) sig = false →
      endFinish a sig keys s = sDone a.port a.addr a.udp a.session .rights s1)) ∧
  (∀ p ad u id st (s : State), ∃ f, sDone p ad u id st s = { s with
      tc := { s.tc with fails := f }
      out := .datagram p ad u (sessionBytes 4 id (beBytes (statusCode st) 2 ++ beBytes 0 6)) :: s.out } ∧
    f = if st = .ok then s.tc.fails else satAdd 64 s.tc.fails 1) ∧
  (∀ id (s : State), exec (.agreementTimeout id) s =
    .next (settle { s with tc := { s.tc with half := s.tc.half.filter fun x => x.session ≠ id } })) ∧
  (∀ n off sz v tb (s : State), vfReady s n = true → barServes s (.vf n) tb = true →
    ((off, sz) ∈ [(0x1030, 8), (0x1030, 4), (0x1034, 4)] → exec (.tenantKeysWrite n off sz v tb) s =
      .next (settle (endSessions n (modVfTc n (fun x => { x with
        tenantKeys := write64 (tget {} s.tc.vfs n : VfTc).tenantKeys 0x1030 off sz v % 2 ^ 57 }) s)))) ∧
    exec (.tenantKeysWrite n 0x1038 4 v tb) s =
      .next (settle (endSessions n (modVfTc n (fun x => { x with tenantCount := v.toNat % 2 ^ 7 }) s)))) ∧
  (∀ n (s : State), (endSessions n s).rie.sessions = s.rie.sessions.filter fun x => x.part ≠ n) ∧
  (∀ n tb (s : State), vfReady s n = true → barServes s (.vf n) tb = true → (tget {} s.tc.vfs n : VfTc).busy = false →
    exec (.sign n tb) s = .next (settle
    { s with tc := { s.tc with vfs := tput s.tc.vfs n { (tget {} s.tc.vfs n : VfTc) with busy := true, snap := none } } })) ∧
  (∀ n tb (s : State), vfReady s n = true → barServes s (.vf n) tb = true → (tget {} s.tc.vfs n : VfTc).busy = true →
    exec (.sign n tb) s = .next (settle
    { s with tc := { s.tc with vfs := tput s.tc.vfs n { (tget {} s.tc.vfs n : VfTc) with cmdErr := true } } })) ∧
  (∀ n h (s : State), (tget {} s.tc.vfs n : VfTc).busy = false ∨ (tget {} s.tc.vfs n : VfTc).snap = none →
    exec (.signedCopyComplete n h) s = .next (settle s)) ∧
  (∀ n h p x (s s1 : State), s.bnd.powered = true → x = (tget {} s.tc.vfs n : VfTc) → x.busy = true → x.snap = some p →
    s1 = (if isHost x.signAddr then s else countWalks n h [signRange s n] s) →
    (signArea s n h = none → exec (.signedCopyComplete n h) s = .next (settle (modVfTc n
      (fun x => { x with busy := false, snap := none, status := .rights }) s1))) ∧
    (∀ xs, signArea s n h = some xs →
      (s.tc.chain = none → exec (.signedCopyComplete n h) s = .next (settle (modVfTc n
        (fun x => { x with busy := false, snap := none, status := .stateConflict }) s1))) ∧
      (∀ c w sig, s.tc.chain = some c →
        sig = Config.ecdsaSign s.tc.signKey (Config.sha384 (signedBytes s n p)) (Config.freeNat s.freeCount % 2 ^ 64) →
        w = writeDva n xs x.signAddr (signedBytes s n p ++ beBytes sig.toNat 96) false none
          { s1 with freeCount := s.freeCount + 1 } →
        exec (.signedCopyComplete n h) s = .next (settle (modVfTc n
          (fun x => { x with busy := false, snap := none, status := .ok })
          { w with tc := { w.tc with signed := satAdd 64 w.tc.signed 1 } }))))) ∧
  (∀ n p (s : State), (pageBytes n p).length = 4096 ∧ (signedBytes s n p).length = 4160)

/-- Certificates (R503, R504, R515, R516): a LOAD while BUSY is 1 is dropped, and REVOKE unloads. The checks go in order, and
the first that fails sets the status alone; a DEBUG certificate replaces the loaded one; a transition burns the bits of an
allowed target over the present codeword and leaves the present state. The debug port (R310, R514, R517, R518): a request
without its capability, and every request for a confidential partition but SC_DEBUG, is refused with RIGHTS and changes
nothing. In BLANK and TEST every capability holds without a certificate. A read that is allowed returns the line as the home
has it, once it is verified, a write goes to the home, and UNIT_STATUS gives four words of a unit that serves the partition. -/
def Obligations.CertificatesAndDebug : Prop :=
  (∀ (s : State), live s = true → s.tc.certBusy = false → exec (.certLoad false) s =
    .next (settle { s with tc := { s.tc with certBusy := true } })) ∧
  (∀ (s : State), s.tc.certBusy = true → exec (.certLoad false) s = .next (settle s)) ∧
  (∀ (s : State), live s = true → exec .certRevoke s = .next (settle { s with tc := { s.tc with cert := none } })) ∧
  (∀ (s : State), s.bnd.powered = true → s.tc.certBusy = true → exec (.certCheckDone none) s =
    .next (settle { s with tc := { s.tc with certBusy := false, certStatus := .timeout } })) ∧
  (∀ c (s : State), s.bnd.powered = true → s.tc.certBusy = true → certFld c 1 0 8 ≠ 1 → exec (.certCheckDone (some c)) s =
    .next (settle { s with tc := { s.tc with certBusy := false, certStatus := .version } })) ∧
  (∀ c (s : State), s.bnd.powered = true → s.tc.certBusy = true → certFld c 1 0 8 = 1 → certShape c = false →
    exec (.certCheckDone (some c)) s =
      .next (settle { s with tc := { s.tc with certBusy := false, certStatus := .reservedNonzero } })) ∧
  (∀ c (s : State), s.bnd.powered = true → s.tc.certBusy = true → certFld c 1 0 8 = 1 → certShape c = true →
    certSigned s c = false → exec (.certCheckDone (some c)) s =
      .next (settle { s with tc := { s.tc with certBusy := false, certStatus := .rights } })) ∧
  (∀ c (s : State), s.bnd.powered = true → s.tc.certBusy = true → certFld c 1 0 8 = 1 → certShape c = true →
    certSigned s c = true → certFld c 0 0 8 = 1 → exec (.certCheckDone (some c)) s =
      .next (settle { s with tc := { s.tc with
        certBusy := false
        certStatus := .ok
        cert := some (certFld c 0x30 32 32, certFld c 0x30 0 32) } })) ∧
  (∀ c (s : State), s.bnd.powered = true → s.tc.certBusy = true → certFld c 1 0 8 = 1 → certShape c = true →
    certSigned s c = true → certFld c 0 0 8 = 2 → exec (.certCheckDone (some c)) s =
      .next (settle { s with tc := { s.tc with
        certBusy := false
        certStatus := if (transitionTo s.tc.lc (certFld c 3 0 3)).isSome then .ok else .stateConflict
        otp := match transitionTo s.tc.lc (certFld c 3 0 3) with
          | some x => { s.tc.otp with codeword := s.tc.otp.codeword ||| lcWord x }
          | none => s.tc.otp } })) ∧
  (∀ a n b, transitionTo a n = some b → n = lcCode b ∧ lcWord a &&& lcWord b = lcWord a ∧ lcDecode (lcWord a ||| lcWord b) = b ∧
    a ≠ .return_ ∧ a ≠ .scrap ∧ a ≠ .invalid) ∧
  (∀ c n dpa d (s : State), s.bnd.powered = true → debugAllowed s c n = false →
    exec (.debugRequest c n dpa d) s = .next (settle { s with out := .debug .rights [] :: s.out })) ∧
  (∀ c n (s : State), n < 32 → hConf s.ps.active n = true → c ≠ .scDebug → debugAllowed s c n = false) ∧
  (∀ c n (s : State), s.tc.lc = .blank ∨ s.tc.lc = .test → n < 32 → hConf s.ps.active n = false → debugAllowed s c n = true) ∧
  (∀ c n (s : State), s.tc.lc ≠ .blank → s.tc.lc ≠ .test → s.tc.cert = none → debugAllowed s c n = false) ∧
  (∀ n dpa d k (s : State), s.bnd.powered = true → debugAllowed s .memRead n = true → homeLine s n dpa = some k →
    (keyCheck s (linePc k) (lineNo k) (dpaKey dpa) = .match_ →
      ((llc s k).hstate ≠ .i → unverified s k = false → exec (.debugRequest .memRead n dpa d) s = .next (settle { s with
        out := .debug (if (rawView s k).2 then .poison else .ok) (lineBytes (rawView s k).1) :: s.out })) ∧
      ((llc s k).hstate = .i ∨ unverified s k = true → exec (.debugRequest .memRead n dpa d) s = .next (settle { s with
        mi := { s.mi with debugs := s.mi.debugs ++ [{ key := k, dpa := dpa }] } }))) ∧
    (keyCheck s (linePc k) (lineNo k) (dpaKey dpa) = .refuse →
      ∀ c ∈ [DebugCap.memRead, .memWrite], debugAllowed s c n = true → exec (.debugRequest c n dpa d) s = .next (settle { s with
        mi := { s.mi with keyMismatch := satAdd 64 s.mi.keyMismatch 1 }
        out := .debug .rights [] :: s.out }))) ∧
  (∀ c ∈ [DebugCap.memRead, .memWrite], ∀ n dpa d (s : State), s.bnd.powered = true → debugAllowed s c n = true →
    homeLine s n dpa = none → exec (.debugRequest c n dpa d) s = .next (settle { s with out := .debug .rights [] :: s.out })) ∧
  (∀ n dpa d k (s : State), s.bnd.powered = true → debugAllowed s .memWrite n = true → homeLine s n dpa = some k →
    keyCheck s (linePc k) (lineNo k) (dpaKey dpa) ≠ .refuse → ∃ w,
      w = (writeLine n dpa (dpa % 64) (d.take (64 - dpa % 64)) false false none s).2 ∧
      exec (.debugRequest .memWrite n dpa d) s = .next (settle { w with out := .debug .ok [] :: w.out })) ∧
  (∀ n dpa d (s : State), s.bnd.powered = true → debugAllowed s .unitStatus n = true →
    (dpa ∉ partUnits s n → exec (.debugRequest .unitStatus n dpa d) s =
      .next (settle { s with out := .debug .rights [] :: s.out })) ∧
    (dpa ∈ partUnits s n → ∃ bs, bs.length = 16 ∧ (∃ b, bs[0]? = some b ∧ b.toNat % 16 = unitCode s n dpa % 16) ∧
      exec (.debugRequest .unitStatus n dpa d) s =
        .next (settle { s with freeCount := s.freeCount + 4, out := .debug .ok bs :: s.out }))) ∧
  (∀ c n dpa d (s : State), s.bnd.powered = true → debugAllowed s c n = true → c ∉ [DebugCap.memRead, .memWrite, .unitStatus] →
    exec (.debugRequest c n dpa d) s = .next (settle { s with out := .debug .ok [] :: s.out }))

/-- SPDM over the DOE mailbox (R513, R523): each request in its order is answered with its response, the four that use the
certificate chain only when a chain matches, and only slot 0; a session opens with KEY_EXCHANGE and FINISH and ends with
END_SESSION; IDE_KM requests are served within a session. The response codes, the order of requests and the verify data are
those of the public standard, which the spec does not give (log 51). TDISP interfaces (R525, R526): LOCK succeeds only when
hand n is confidential and an IDE stream covers the function, START leads to RUN and STOP back to CONFIG_UNLOCKED; a request
that is refused is answered with an error and changes nothing. That LOCK needs CONFIG_UNLOCKED and START CONFIG_LOCKED is
the public standard's (log 51). A virtual function whose hand is not confidential serves whatever the TDISP state. -/
def Obligations.SpdmAndTdisp : Prop :=
  (∀ (s : State), spdmUp s = true → exec .getVersion s = .next (settle { s with
    tc := { s.tc with spdm := .version, spdmKey := none, spdmSession := false }, out := .spdm 0x04 .ok [0x13] :: s.out })) ∧
  (∀ (s : State), spdmUp s = true → s.tc.spdm = .version → exec .getCapabilities s = .next (settle { s with
    tc := { s.tc with spdm := .capabilities }, out := .spdm 0x61 .ok [] :: s.out })) ∧
  (∀ (s : State), spdmUp s = true → s.tc.spdm = .capabilities → exec (.negotiateAlgorithms true true true true) s =
    .next (settle { s with tc := { s.tc with spdm := .algorithms }, out := .spdm 0x63 .ok [] :: s.out })) ∧
  (∀ a b c d (s : State), spdmUp s = true → (a && b && c && d) = false → exec (.negotiateAlgorithms a b c d) s =
    .next (settle { s with out := .spdm 0x7F .stateConflict [] :: s.out })) ∧
  (∀ k (s : State), spdmUp s = true → s.tc.spdm = .algorithms → s.tc.chain = some k →
    (∃ d, exec .getDigests s =
      .next (settle { s with freeCount := s.freeCount + 1, out := .spdm 0x01 .ok [d] :: s.out })) ∧
    exec (.getCertificate 0) s = .next (settle { s with out := .spdm 0x02 .ok [k.toNat] :: s.out }) ∧
    (∀ n, n ≠ 0 → exec (.getCertificate n) s = .next (settle { s with out := .spdm 0x7F .stateConflict [] :: s.out })) ∧
    (∀ r, exec (.challenge 0 r) s = .next (settle (signedAnswer 0x83 r (keyBytes k) s))) ∧
    (∀ r, r.index ≠ 0 → r.index ≠ 0xFF → blockAt s r.index ≠ [] →
      exec (.getMeasurements r) s = .next (settle (signedAnswer 0xE0 r (blockAt s r.index) s))) ∧
    (∀ r, ∃ t x, exec (.keyExchange r) s = .next (settle t) ∧ t.tc.spdmKey = some (Config.ecdh x r.keyShare) ∧
      t.tc.spdmSession = false ∧ t.tc.spdm = .algorithms)) ∧
  (∀ r (s : State), spdmUp s = true → s.tc.spdm = .algorithms → s.tc.chain = none →
    let t := settle { s with out := .spdm 0x7F .stateConflict [] :: s.out }
    exec .getDigests s = .next t ∧ exec (.getCertificate 0) s = .next t ∧ exec (.challenge 0 r) s = .next t ∧
    exec (.getMeasurements r) s = .next t ∧ exec (.keyExchange r) s = .next t) ∧
  (∀ r k (s : State), spdmUp s = true → s.tc.spdmKey = some k → verifyData k = r.verify → exec (.finish r) s =
    .next (settle { s with tc := { s.tc with spdmSession := true }, out := .spdm 0x65 .ok [] :: s.out })) ∧
  (∀ (s : State), spdmUp s = true → s.tc.spdmSession = true → exec .endSession s = .next (settle { s with
    tc := { s.tc with spdmKey := none, spdmSession := false }, out := .spdm 0x6C .ok [] :: s.out })) ∧
  (∀ k l (s : State), spdmUp s = true → s.tc.spdmSession = true → k < 9 → k ∈ s.tc.ideKeyed →
    exec (.vendorDefinedRequest (.kSetGo k l)) s = .next (settle { s with
      tc := { s.tc with ide := tput s.tc.ide k l }, out := .spdm 0x7E .ok [] :: s.out })) ∧
  (∀ r (s : State), spdmUp s = true → s.tc.spdmSession = false → exec (.vendorDefinedRequest r) s =
    .next (settle { s with out := .spdm 0x7F .stateConflict [] :: s.out })) ∧
  (∀ i ∈ [1, 2, 3, 4, 5], ∀ s : State, blockAt s i ≠ []) ∧
  (∀ n, n < 32 → ∀ j ∈ [0x10, 0x11, 0x12], ∀ s : State, blockAt s (j + 3 * n) ≠ []) ∧
  (∀ n (s : State), spdmUp s = true → hConf s.ps.active n = true → ideCovers s n = true → tdiOf s n = .unlocked →
    exec (.lockInterfaceRequest n) s =
      .next (settle { s with tc := { s.tc with tdi := tput s.tc.tdi n .locked }, out := .tdisp true :: s.out })) ∧
  (∀ n (s : State), spdmUp s = true → hConf s.ps.active n = false ∨ ideCovers s n = false →
    exec (.lockInterfaceRequest n) s = .next (settle { s with out := .tdisp false :: s.out })) ∧
  (∀ n (s : State), spdmUp s = true → hConf s.ps.active n = true → tdiOf s n = .locked →
    exec (.startInterfaceRequest n) s =
      .next (settle { s with tc := { s.tc with tdi := tput s.tc.tdi n .run }, out := .tdisp true :: s.out })) ∧
  (∀ n (s : State), spdmUp s = true → hConf s.ps.active n = true → tdiOf s n ≠ .locked →
    exec (.startInterfaceRequest n) s = .next (settle { s with out := .tdisp false :: s.out })) ∧
  (∀ n (s : State), spdmUp s = true → n < 32 → exec (.stopInterfaceRequest n) s =
    .next (settle { s with tc := { s.tc with tdi := tput s.tc.tdi n .unlocked }, out := .tdisp true :: s.out })) ∧
  (∀ n (s : State), hConf s.ps.active n = true → tdiOf s n ≠ .run → vfReady s n = false) ∧
  (∀ n x (s : State), hConf s.ps.active n = false →
    vfReady { s with tc := { s.tc with tdi := tput s.tc.tdi n x } } n = vfReady s n) ∧
  (∀ n (s : State), tdiOf (endPartition n s) n = .error)

/-- The Health Monitor's commands (R545 to R549, R551): a target clock out of range only sets CFG_ERR, and one below the present
clock counts from the next tick. A field test starts only when no row of R546 refuses it, and then fences its engine; ABORT
and the end of the test end it once and count it; PASS unfences the engine, FAIL makes one record. The FAIL_INDEX of a test
that found no failing pattern, and TEMP_SHORT of an aborted one, are free values (log 142). A rescan starts only while no
test runs and selects the valid package with the higher version. -/
def Obligations.ClockAndFieldTests : Prop :=
  (∀ v (s : State), live s = true → bitAt v.toNat 11 = false → 1280 ≤ fld v.toNat 0 11 → fld v.toNat 0 11 ≤ 1600 →
    fld v.toNat 0 11 % 32 = 0 → exec (.targetMhz v) s = .next (settle { s with hm := { s.hm with
      targetMhz := fld v.toNat 0 11
      targetTick := if fld v.toNat 0 11 < s.hm.presentMhz then s.tb.tick + 1 else s.hm.targetTick } })) ∧
  (∀ v (s : State), live s = true → bitAt v.toNat 11 = false → (fld v.toNat 0 11 < 1280 ∨ 1600 < fld v.toNat 0 11 ∨
    fld v.toNat 0 11 % 32 ≠ 0) → exec (.targetMhz v) s = .next (settle { s with hm := { s.hm with cfgErr := true } })) ∧
  (∀ v (s : State), live s = true → exec (.fieldTestStart v) s = .next (settle (ftWrite (v ||| 1).toNat s))) ∧
  (∀ v w (s : State), bitAt v 0 = true → bitAt v 1 = false →
    w = { s with hm := { s.hm with tempMin := fld v 48 16, vOffset := fld v 36 6, fBoost := fld v 34 2, target := fld v 16 9 } } →
    startStatus w ≠ .ok → ftWrite v s = { w with hm := { w.hm with ftStatus := startStatus w }, freeCount := w.freeCount + 1 }) ∧
  (∀ s : State, s.hm.testing.isSome = true ∨ s.hm.rescanning = true → startStatus s = .stateConflict) ∧
  (∀ s : State, (engineOwner s.ps.active s.hm.target).isSome = true → s.fc.fenced.getLsbD s.hm.target = false →
    startStatus s = .stateConflict) ∧
  (∀ s : State, startStatus s = .ok → s.hm.target < 320 → (startTest s).fc.fenced.getLsbD s.hm.target = true ∧
    (startTest s).hm.testing = some { engine := s.hm.target, set := s.hm.pkgSet } ∧
    (startTest s).fc.fenceEvents = if s.fc.fenced.getLsbD s.hm.target then s.fc.fenceEvents else satAdd 32 s.fc.fenceEvents 1) ∧
  (∀ f (s : State), live s = true → s.hm.testing = some f → ∃ i b, i < 2 ^ 16 ∧
    exec .fieldTestAbort s = .next (settle { s with
      freeCount := s.freeCount + 2
      hm := { s.hm with testing := none, result := 2, resultSet := f.set, failIndex := i, tempShort := b,
                        tests := satAdd 32 s.hm.tests 1 } })) ∧
  (∀ (s : State), s.hm.testing = none → exec .fieldTestAbort s = .next (settle s)) ∧
  (∀ f i c b (s : State), s.bnd.powered = true → s.hm.testing = some f → ∃ j w, j < 2 ^ 16 ∧
    w = modEngine f.engine (fun x => { x with groups := 0, luts := [] }) { s with
      freeCount := s.freeCount + 1
      hm := { s.hm with testing := none, resultSet := f.set, failIndex := j, tempShort := b, result := 0,
                        tests := satAdd 32 s.hm.tests 1 } } ∧
    exec (.fieldTestEnd false i c b) s = .next (settle { w with
      fc := { w.fc with fenced := setBit w.fc.fenced f.engine false } })) ∧
  (∀ f i c b w (s : State), s.bnd.powered = true → s.hm.testing = some f → i < 2 ^ 16 → c < 2 ^ 16 →
    w = modEngine f.engine (fun x => { x with groups := 0, luts := [] }) { s with
      freeCount := s.freeCount + 1
      hm := { s.hm with testing := none, resultSet := f.set, failIndex := i, tempShort := b, result := 1,
                        tests := satAdd 32 s.hm.tests 1 } } →
    exec (.fieldTestEnd true i c b) s = .next (settle (report { source := 0xCFF, kind := 0x61, address := engineUnit f.engine
                                                                detail := f.set * 2 ^ 48 + i * 2 ^ 32 + c * 2 ^ 16 + 2 ^ 8 + b2n b
                                                                part := engineOwner w.ps.active f.engine }
      { w with hm := { w.hm with testFails := satAdd 32 s.hm.testFails 1 } }))) ∧
  (∀ (s : State), live s = true → s.hm.testing = none →
    exec .rescan s = .next (settle { s with hm := { s.hm with rescanning := true } })) ∧
  (∀ (s : State), s.hm.testing.isSome = true → exec .rescan s = .next (settle s)) ∧
  (∀ p q (s : State), s.bnd.powered = true → s.hm.rescanning = true →
    exec (.rescanEnd p q) s = .next (settle (selectPackage p q { s with hm := { s.hm with rescanning := false } }))) ∧
  (∀ x y (s : State), packageOk s.tc.otp x = true → packageOk s.tc.otp y = true →
    (selectPackage (some x) (some y) s).hm.pkgVersion = max (pkgVer x) (pkgVer y) ∧
    (selectPackage (some x) (some y) s).hm.pkgQ = decide (pkgVer x < pkgVer y) ∧
    (selectPackage (some x) none s).hm.pkgQ = false ∧ (selectPackage none (some y) s).hm.pkgQ = true ∧
    (selectPackage none none s).hm.pkgVersion = 0)

/-- The register map (R10, R31, R33, R558, R560, R562, R563): a write to a function that is not ready is dropped, a doorbell
write counted; a write that fits a register is what the register's own rule makes of it; a reserved offset drops the write,
which is counted only where it is the doorbell slot of no live queue; an access that fits no register's width only counts in
BAR_BAD_ACCESS. A read of a function that is not ready returns all ones, but for BOOT_STATUS and STACK_EXCLUDED of the
physical function; a read of a reserved offset zero; a read changes nothing but that counter. -/
def Obligations.RegisterAccess : Prop :=
  (∀ fn off size v tb (s : State), s.bnd.powered = true → barServes s fn tb = true → fnExists s fn = true →
    fnReady s fn = false → exec (.registerWrite fn off size v tb) s =
      .next (settle (if isDoorbell fn off then dropDoorbell s else s))) ∧
  (∀ off, isDoorbell .pf off = true ↔ 0x1018 ≤ off ∧ off < 0x1020) ∧
  (∀ n off, isDoorbell (.vf n) off = true ↔ (off < 0x10000 ∧ off % 64 < 8) ∨ (0x10018 ≤ off ∧ off < 0x10020)) ∧
  (∀ fn off size v tb (s : State), s.bnd.powered = true → barServes s fn tb = true → fnExists s fn = true →
    fnReady s fn = true → exec (.registerWrite fn off size v tb) s = .next (settle (writeReg fn off size v s))) ∧
  (∀ fn off size v tb (s : State), barServes s fn tb = false →
    exec (.registerWrite fn off size v tb) s = .next (settle s)) ∧
  (∀ fn off size v r i o (s : State), inRecords fn off = false → regAt (regsOf fn) off = some (r, i, o) →
    writeReg fn off size v s = if accessFits r o size then r.write i (regIn (r.read s i) o size v) s else countBadAccess s) ∧
  (∀ fn off size v (s : State), inRecords fn off = true → writeReg fn off size v s = s) ∧
  (∀ off size v (s : State), inRecords .pf off = false → regAt pfRegs off = none →
    writeReg .pf off size v s = if touchesReg pfRegs off size then countBadAccess s else s) ∧
  (∀ n off size v (s : State), inRecords (.vf n) off = false → regAt (vfRegs n) off = none →
    touchesReg (vfRegs n) off size = false → writeReg (.vf n) off size v s =
      if off < 0x10000 ∧ showsQueue s (.vf n) (off / 64) = false then dropDoorbell s else s) ∧
  (∀ fn off size (s : State), fnReady s fn = false → ¬(fn = .pf ∧ (off = 0 ∨ off = 8) ∧ size = 4) →
    barRead s fn off size = (2 ^ (8 * size) - 1, s)) ∧
  (∀ (s : State), (barRead s .pf 0 4).1 = bootStatus s % 2 ^ 32 ∧ (barRead s .pf 8 4).1 = s.bnd.stackExcluded.toNat) ∧
  (∀ fn off size (s : State), (barRead s fn off size).2 = s ∨ (barRead s fn off size).2 = countBadAccess s) ∧
  (∀ off size (s : State), s.bnd.ready = true → 0x20000 ≤ off → off < 0x40000 → (size = 4 ∨ size = 8) → off % size = 0 →
    barRead s .pf off size = (0, s) ∧ ∀ v, writeReg .pf off size v s = s) ∧
  (∀ (s : State), s.bnd.ready = true → (barRead s .pf 0x100 8).1 = 0x00111101 ∧ (barRead s .pf 0x108 8).1 = 0x4008014028008020 ∧
    (barRead s .pf 0x110 8).1 = 0x0400100040000000 ∧ (barRead s .pf 0x118 8).1 = 0x0002000005002010 ∧
    (barRead s .pf 0x120 8).1 = 0x0003FFFF) ∧
  (∀ n v (s : State), n < 5 → s.bnd.ready = true → writeReg .pf (0x80200 + 8 * n) 8 v s = unfenceWrite n v.toNat s) ∧
  (∀ v (s : State), writeReg .pf 0x2148 4 v s = thresholdWritten s { s with ps := { s.ps with gap := v.toNat % 2 ^ 11 } })
end

