-- ==== Sys2Proof/Laws/Keeps.lean ====
section
/-! SUPPORT. Every function over State keeps the legal machine of Safety.lean and the groups of state it does not name:
one lemma per function, `<function>_inv`; `Inv` says both at once. -/
set_option linter.style.nameCheck false

namespace Sys2Proof.Machine
open Sys2Proof

/-- What an invariant proof asks to keep: groups of state, and whether the machine is legal. -/
structure Goals extends Groups where
  /-- The legal machine is kept. -/
  legal : Bool
  /-- Whether a deal is armed, and the shadow image. -/
  arm : Bool

/-- The groups of `K` are in `s` as in `r`, and the armed deal if `K` asks it. -/
structure Kept (K : Goals) (r s : State) : Prop extends Same K.toGroups r s where
  arm : K.arm = true → s.ps.armed = r.ps.armed ∧ s.ps.shadow = r.ps.shadow

/-- The state is legal beside `r` if `K` asks it, and the groups of `K` are in it as in `r`. -/
@[irreducible] def Inv (K : Goals) (r s : State) : Prop := (K.legal = true → LegalV (view r) (view s)) ∧ Kept K r s

theorem Inv.upd {K : Goals} {ρ t : State} {bnd tb cu steps ps ac rie lre coh mi tu qu nu fc rc tc hm loads out fcn nid pend}
    (e0 : pend = t.pending) (e1 : tb.slot = t.tb.slot) (e2 : tb.periodUs = t.tb.periodUs) (e3 : tb.running = t.tb.running)
    (e4 : coh.snpTimeout = t.coh.snpTimeout) (e5 : mi.mem = t.mi.mem) (e6 : nu.retryUs = t.nu.retryUs)
    (e7 : fc.bbr.length = t.fc.bbr.length) (e8 : fc.quietS = t.fc.quietS) (e9 : fc.closeFrames = t.fc.closeFrames)
    (e10 : fc.periodFrames = t.fc.periodFrames) (e11 : rc.replayFrames = t.rc.replayFrames) (e12 : tc.otp = t.tc.otp)
    (e13 : hm.rail = t.hm.rail) (e14 : hm.targetMhz = t.hm.targetMhz) (e15 : hm.presentMhz = t.hm.presentMhz)
    (e16 : hm.slackTarget = t.hm.slackTarget) (e17 : hm.reserveLow = t.hm.reserveLow)
    (g1 : K.tb = true → tb = t.tb) (g2 : K.plan = true → ps.active = t.ps.active ∧ ps.staged = t.ps.staged ∧ ps.epochs = t.ps.epochs)
    (g3 : K.boot = true → bnd.powered = t.bnd.powered ∧ bnd.stage = t.bnd.stage ∧ bnd.ready = t.bnd.ready)
    (g4 : K.life = true → tc.lc = t.tc.lc) (g5 : K.arm = true → ps.armed = t.ps.armed ∧ ps.shadow = t.ps.shadow) (h : Inv K ρ t) :
    Inv K ρ ⟨bnd, tb, cu, steps, ps, ac, rie, lre, coh, mi, tu, qu, nu, fc, rc, tc, hm, loads, out, fcn, nid, pend⟩ := by
  unfold Inv at *
  refine ⟨?_, ?_⟩
  · have e : view ⟨bnd, tb, cu, steps, ps, ac, rie, lre, coh, mi, tu, qu, nu, fc, rc, tc, hm, loads, out, fcn, nid, pend⟩ = view t := by
      simp only [view, e1, e2, e3, e4, e5, e6, e7, e8, e9, e10, e11, e12, e13, e14, e15, e16, e17]
    rw [e]; exact h.1
  · obtain ⟨-, ⟨k0, k1, k3, k4, k5⟩, k6⟩ := h
    refine ⟨⟨e0.trans k0, fun k => (g1 k).trans (k1 k), fun k => ?_, fun k => ?_, fun k => ?_⟩, fun k => ?_⟩
    · exact ⟨(g2 k).1.trans (k3 k).1, (g2 k).2.1.trans (k3 k).2.1, (g2 k).2.2.trans (k3 k).2.2⟩
    · exact ⟨(g3 k).1.trans (k4 k).1, (g3 k).2.1.trans (k4 k).2.1, (g3 k).2.2.trans (k4 k).2.2⟩
    · exact ⟨e12.trans (k5 k).1, (g4 k).trans (k5 k).2⟩
    · exact ⟨(g5 k).1.trans (k6 k).1, (g5 k).2.trans (k6 k).2⟩

/-- An update outside every ruled field and every group. -/
theorem Inv.put {K : Goals} {ρ t : State} {bnd tb cu steps ps ac rie lre coh mi tu qu nu fc rc tc hm loads out fcn nid pend}
    (e0 : pend = t.pending) (e1 : tb = t.tb)
    (e4 : coh.snpTimeout = t.coh.snpTimeout) (e5 : mi.mem = t.mi.mem) (e6 : nu.retryUs = t.nu.retryUs)
    (e7 : fc.bbr.length = t.fc.bbr.length) (e8 : fc.quietS = t.fc.quietS) (e9 : fc.closeFrames = t.fc.closeFrames)
    (e10 : fc.periodFrames = t.fc.periodFrames) (e11 : rc.replayFrames = t.rc.replayFrames) (e12 : tc.otp = t.tc.otp)
    (e13 : hm.rail = t.hm.rail) (e14 : hm.targetMhz = t.hm.targetMhz) (e15 : hm.presentMhz = t.hm.presentMhz)
    (e16 : hm.slackTarget = t.hm.slackTarget) (e17 : hm.reserveLow = t.hm.reserveLow)
    (g2 : ps.active = t.ps.active ∧ ps.staged = t.ps.staged ∧ ps.epochs = t.ps.epochs ∧ ps.armed = t.ps.armed ∧
      ps.shadow = t.ps.shadow)
    (g4 : bnd.powered = t.bnd.powered) (g5 : bnd.stage = t.bnd.stage) (g6 : bnd.ready = t.bnd.ready)
    (g7 : tc.lc = t.tc.lc) (h : Inv K ρ t) :
    Inv K ρ ⟨bnd, tb, cu, steps, ps, ac, rie, lre, coh, mi, tu, qu, nu, fc, rc, tc, hm, loads, out, fcn, nid, pend⟩ :=
  Inv.upd e0 (by rw [e1]) (by rw [e1]) (by rw [e1]) e4 e5 e6 e7 e8 e9 e10 e11 e12 e13 e14 e15 e16 e17
    (fun _ => e1) (fun _ => ⟨g2.1, g2.2.1, g2.2.2.1⟩) (fun _ => ⟨g4, g5, g6⟩) (fun _ => g7) (fun _ => ⟨g2.2.2.2.1, g2.2.2.2.2⟩) h

theorem Inv.foldl {K : Goals} {r : State} {α : Type} {f : State → α → State} (l : List α) {s : State}
    (hf : ∀ s a, Inv K r s → Inv K r (f s a)) (h : Inv K r s) : Inv K r (l.foldl f s) := by
  induction l generalizing s with
  | nil => exact h
  | cons a l ih => exact ih (hf s a h)

theorem Inv.foldl2 {K : Goals} {r : State} {α β : Type} {f : β × State → α → β × State} (l : List α) {s : β × State}
    (hf : ∀ s a, Inv K r s.2 → Inv K r (f s a).2) (h : Inv K r s.2) : Inv K r (l.foldl f s).2 := by
  induction l generalizing s with
  | nil => exact h
  | cons a l ih => exact ih (hf s a h)

/-! ### Memory in its canonical form -/

theorem memAbove_mono {a b : Option Nat} {m : List Host.Cell} (hab : ∀ x ∈ a, ∃ y ∈ b, x ≤ y) (h : memAbove b m = true) :
    memAbove a m = true := by
  cases m with
  | nil => rfl
  | cons c r =>
    obtain ⟨k, v⟩ := c
    simp only [memAbove, Bool.and_eq_true, Option.all_eq_true] at h ⊢
    refine ⟨⟨fun x hx => ?_, h.1.2⟩, h.2⟩
    obtain ⟨y, hy, hxy⟩ := hab x hx
    have hk := of_decide_eq_true (h.1.1 y hy)
    exact decide_eq_true (by omega)

theorem memAbove_none {a : Option Nat} {m : List Host.Cell} (h : memAbove a m = true) : memAbove none m = true :=
  memAbove_mono (by simp) h

theorem memPut_above {a : Option Nat} {m : List Host.Cell} {k : Nat} {v : Byte} (ha : ∀ x ∈ a, x < k)
    (h : memAbove a m = true) : memAbove a (memPut m k v) = true := by
  induction m generalizing a with
  | nil =>
    unfold memPut
    split
    · rfl
    · rename_i hv
      simp only [memAbove, Bool.and_eq_true, Option.all_eq_true, bne_iff_ne, ne_eq, and_true]
      exact ⟨fun x hx => decide_eq_true (ha x hx), hv⟩
  | cons c r ih =>
    obtain ⟨i, b⟩ := c
    simp only [memAbove, Bool.and_eq_true, Option.all_eq_true, bne_iff_ne, ne_eq] at h
    obtain ⟨⟨h1, h2⟩, h3⟩ := h
    unfold memPut
    split
    · rename_i hik
      simp only [memAbove, Bool.and_eq_true, Option.all_eq_true, bne_iff_ne, ne_eq]
      exact ⟨⟨h1, h2⟩, ih (by intro x hx; cases hx; exact hik) h3⟩
    · rename_i hik
      split
      · rename_i he
        subst he
        split
        · refine memAbove_mono ?_ h3
          intro x hx
          exact ⟨i, rfl, Nat.le_of_lt (ha x hx)⟩
        · rename_i hv
          simp only [memAbove, Bool.and_eq_true, Option.all_eq_true, bne_iff_ne, ne_eq]
          exact ⟨⟨h1, hv⟩, h3⟩
      · rename_i hne
        split
        · simp only [memAbove, Bool.and_eq_true, Option.all_eq_true, bne_iff_ne, ne_eq]
          exact ⟨⟨h1, h2⟩, h3⟩
        · rename_i hv
          simp only [memAbove, Bool.and_eq_true, Option.all_eq_true, bne_iff_ne, ne_eq]
          refine ⟨⟨fun x hx => decide_eq_true (ha x hx), hv⟩, ⟨?_, h2⟩, h3⟩
          intro x hx
          cases hx
          exact decide_eq_true (by omega)

/-- A byte's write keeps the canonical form. -/
theorem memPut_wf {m : List Host.Cell} {k : Nat} {v : Byte} (h : Memory.wf m = true) : Memory.wf (memPut m k v) = true :=
  memPut_above (by simp) h

/-- A write of consecutive bytes keeps the canonical form. -/
theorem memPutAll_wf {m : List Host.Cell} {k : Nat} {bs : List Byte} (h : Memory.wf m = true) :
    Memory.wf (memPutAll m k bs) = true := by
  induction bs generalizing m k with
  | nil => exact h
  | cons b bs ih => exact ih (memPut_wf h)

theorem memAbove_filter {a : Option Nat} {m : List Host.Cell} (p : Host.Cell → Bool) (h : memAbove a m = true) :
    memAbove a (m.filter p) = true := by
  induction m generalizing a with
  | nil => rfl
  | cons c r ih =>
    obtain ⟨i, b⟩ := c
    simp only [memAbove, Bool.and_eq_true, Option.all_eq_true, bne_iff_ne, ne_eq] at h
    obtain ⟨⟨h1, h2⟩, h3⟩ := h
    rw [List.filter_cons]
    split
    · simp only [memAbove, Bool.and_eq_true, Option.all_eq_true, bne_iff_ne, ne_eq]
      exact ⟨⟨h1, h2⟩, ih h3⟩
    · refine ih (memAbove_mono ?_ h3)
      intro x hx
      exact ⟨i, rfl, Nat.le_of_lt (of_decide_eq_true (h1 x hx))⟩

/-- Dropping bytes keeps the canonical form. -/
theorem filter_wf {m : List Host.Cell} (p : Host.Cell → Bool) (h : Memory.wf m = true) : Memory.wf (m.filter p) = true :=
  memAbove_filter p h

/-! ### Updates of the ruled fields -/

/-- One change keeps the invariant if it keeps both its halves. -/
theorem Inv.step {K : Goals} {ρ s t : State} (h : Inv K ρ s) (hl : LegalV (view ρ) (view s) → LegalV (view ρ) (view t))
    (hs : Kept K ρ s → Kept K ρ t) : Inv K ρ t := by
  unfold Inv at *
  exact ⟨fun k => hl (h.1 k), hs h.2⟩

theorem Inv.legal {K : Goals} {ρ s : State} (h : Inv K ρ s) (k : K.legal = true) : LegalV (view ρ) (view s) := by
  unfold Inv at h
  exact h.1 k

theorem Inv.same {K : Goals} {ρ s : State} (h : Inv K ρ s) : Same K.toGroups ρ s := by
  unfold Inv at h
  exact h.2.toSame

theorem Inv.armed {K : Goals} {ρ s : State} (h : Inv K ρ s) (k : K.arm = true) :
    s.ps.armed = ρ.ps.armed ∧ s.ps.shadow = ρ.ps.shadow := by
  unfold Inv at h
  exact h.2.arm k

/-- Every state keeps itself. -/
theorem Inv.refl (K : Goals) (s : State) (h : K.legal = true → LegalV (view s) (view s)) : Inv K s s := by
  unfold Inv
  exact ⟨h, ⟨rfl, fun _ => rfl, fun _ => ⟨rfl, rfl, rfl⟩, fun _ => ⟨rfl, rfl, rfl⟩, fun _ => ⟨rfl, rfl⟩⟩, fun _ => ⟨rfl, rfl⟩⟩

theorem Inv.intro {K : Goals} {ρ s : State} (h : K.legal = true → LegalV (view ρ) (view s)) (k : Kept K ρ s) :
    Inv K ρ s := by
  unfold Inv
  exact ⟨h, k⟩

theorem Groups.no {b : Bool} {p : Prop} (h : b = false) (k : b = true) : p := by
  rw [h] at k
  cases k

theorem Inv.setMem {K : Goals} {ρ s : State} {m : List Host.Cell} (h : Inv K ρ s)
    (hm : LegalV (view ρ) (view s) → Memory.wf m = true) : Inv K ρ { s with mi := { s.mi with mem := m } } :=
  h.step (fun l => { l with mem := hm l }) fun k => { k with }

theorem Inv.putAll {K : Goals} {ρ s : State} (k : Nat) (bs : List Byte) (h : Inv K ρ s) :
    Inv K ρ { s with mi := { s.mi with mem := memPutAll s.mi.mem k bs } } :=
  h.setMem fun l => memPutAll_wf l.mem

theorem Inv.setTb {K : Goals} {ρ s : State} {t : TimeBase} (htb : K.tb = false) (h : Inv K ρ s)
    (hl : LegalV (view ρ) (view s) → t.slot < 16 ∧ (32 ≤ t.periodUs ∧ t.periodUs ≤ 4000) ∧ (t.running = true → 700 ≤ s.hm.rail)) :
    Inv K ρ { s with tb := t } :=
  h.step (fun l => { l with slot := (hl l).1, period := (hl l).2.1, rail := ⟨l.rail.1, l.rail.2.1, (hl l).2.2⟩ })
    fun k => { k with tb := Groups.no htb }

theorem Inv.setFc {K : Goals} {ρ s : State} {t : FaultCol} (h : Inv K ρ s)
    (hl : LegalV (view ρ) (view s) → t.bbr.length ≤ 4096 ∧ 1 ≤ t.quietS ∧ (1 ≤ t.closeFrames ∧ t.closeFrames ≤ 4096) ∧
      1 ≤ t.periodFrames ∧ t.periodFrames ≤ 4096) : Inv K ρ { s with fc := t } :=
  h.step (fun l => { l with bbr := (hl l).1, quiet := (hl l).2.1, close := (hl l).2.2.1, per := (hl l).2.2.2 }) fun k => { k with }

theorem Inv.setHm {K : Goals} {ρ s : State} {t : Health} (h : Inv K ρ s)
    (hl : LegalV (view ρ) (view s) → (t.rail ≤ 850 ∧ t.rail % 5 = 0 ∧ (s.tb.running = true → 700 ≤ t.rail)) ∧
      (1280 ≤ t.targetMhz ∧ t.targetMhz ≤ 1600 ∧ t.targetMhz % 32 = 0) ∧
      (1280 ≤ t.presentMhz ∧ t.presentMhz ≤ 1600 ∧ t.presentMhz % 32 = 0) ∧
      8 ≤ t.slackTarget ∧ 5 ≤ t.reserveLow ∧ t.reserveLow ≤ 150) : Inv K ρ { s with hm := t } :=
  h.step (fun l => { l with
    rail := (hl l).1, target := (hl l).2.1, present := (hl l).2.2.1, slack := (hl l).2.2.2.1, reserve := (hl l).2.2.2.2 })
    fun k => { k with }

theorem or_keeps {n : Nat} {a r : BitVec n} (w : BitVec n) (h : a &&& r = r) : (a ||| w) &&& r = r := by
  refine BitVec.eq_of_getLsbD_eq fun i _ => ?_
  have hi := congrArg (fun x => x.getLsbD i) h
  simp only [BitVec.getLsbD_and, BitVec.getLsbD_or] at hi ⊢
  revert hi
  generalize a.getLsbD i = x, r.getLsbD i = y, w.getLsbD i = z
  cases x <;> cases y <;> cases z <;> simp

theorem Inv.setCodeword {K : Goals} {ρ s : State} (w : BitVec 32) (hlife : K.life = false) (h : Inv K ρ s) :
    Inv K ρ { s with tc := { s.tc with otp := { s.tc.otp with codeword := s.tc.otp.codeword ||| w } } } :=
  h.step (fun l => { l with codeword := or_keeps w l.codeword }) fun k => { k with life := Groups.no hlife }

theorem Inv.setFloor {K : Goals} {ρ s : State} (w : BitVec 64) (hlife : K.life = false) (h : Inv K ρ s) :
    Inv K ρ { s with tc := { s.tc with otp := { s.tc.otp with svnFloor := s.tc.otp.svnFloor ||| w } } } :=
  h.step (fun l => { l with floor := or_keeps w l.floor }) fun k => { k with life := Groups.no hlife }

theorem modFirst_length {α : Type} (p : α → Bool) (f : α → α) (l : List α) : (modFirst p f l).length = l.length := by
  induction l with
  | nil => rfl
  | cons a l ih =>
    unfold modFirst
    split
    · rfl
    · simp only [List.length_cons, ih]

/-- A slot number is below 16. -/
theorem regrid_slot (t : TimeBase) : (regrid t).slot < 16 := by
  unfold regrid
  dsimp only
  have := List.length_filter_le (fun k => k * periodNs t / 16 ≤ intoFrame t) (List.range 16)
  rw [List.length_range] at this
  omega

theorem dealClock_legal (s : State) (h1 : 1280 ≤ s.hm.presentMhz ∧ s.hm.presentMhz ≤ 1600 ∧ s.hm.presentMhz % 32 = 0)
    (h2 : 1280 ≤ s.hm.targetMhz ∧ s.hm.targetMhz ≤ 1600 ∧ s.hm.targetMhz % 32 = 0) :
    1280 ≤ dealClock s ∧ dealClock s ≤ 1600 ∧ dealClock s % 32 = 0 := by
  unfold dealClock
  repeat' split
  all_goals assumption

theorem foldl_except {ε α β : Type} {P : State → Prop} {f : Except ε (α × State) → β → Except ε (α × State)} (l : List β)
    (x : Except ε (α × State)) (hf : ∀ acc b, (∀ a u, acc = Except.ok (a, u) → P u) → ∀ a u, f acc b = Except.ok (a, u) → P u)
    (hx : ∀ a u, x = Except.ok (a, u) → P u) : ∀ a u, l.foldl f x = Except.ok (a, u) → P u := by
  induction l generalizing x with
  | nil => exact hx
  | cons b l ih => exact ih (f x b) (hf x b hx)

/-- Reset is legal. -/
theorem reset_legal : LegalV (view State.reset) (view State.reset) where
  mem := rfl
  bbr := by decide
  slot := by decide
  period := by decide
  rail := by decide
  target := by decide
  present := by decide
  snp := by decide
  retry := by decide
  replay := by decide
  quiet := by decide
  close := by decide
  per := by decide
  slack := by decide
  reserve := by decide
  serial := ⟨rfl, rfl, rfl, rfl, rfl, rfl, rfl, rfl, rfl⟩
  codeword := by decide
  floor := by decide

/-- Every register of a list keeps the rule when it is written. -/
def RegsKeep (K : Goals) (ρ : State) (l : List RegDef) : Prop := ∀ r ∈ l, ∀ i w s, Inv K ρ s → Inv K ρ (r.write i w s)

theorem RegsKeep.nil {K : Goals} {ρ : State} : RegsKeep K ρ [] := by
  intro r hr
  cases hr

theorem RegsKeep.cons {K : Goals} {ρ : State} {r : RegDef} {l : List RegDef} (h : ∀ i w s, Inv K ρ s → Inv K ρ (r.write i w s))
    (hl : RegsKeep K ρ l) : RegsKeep K ρ (r :: l) := by
  intro x hx
  rcases List.mem_cons.mp hx with rfl | hx
  · exact h
  · exact hl x hx

theorem RegsKeep.append {K : Goals} {ρ : State} {l m : List RegDef} (hl : RegsKeep K ρ l) (hm : RegsKeep K ρ m) : RegsKeep K ρ (l ++ m) := by
  intro x hx
  rcases List.mem_append.mp hx with hx | hx
  · exact hl x hx
  · exact hm x hx

theorem RegsKeep.counter {K : Goals} {ρ : State} {off w : Nat} {f : State → Nat} {l : List RegDef} (hl : RegsKeep K ρ l) :
    RegsKeep K ρ (counter off w f :: l) := .cons (fun _ _ _ h => h) hl

theorem fld_lt (v lo w : Nat) : fld v lo w < 2 ^ w := Nat.mod_lt _ (Nat.two_pow_pos w)

theorem Inv.setCoh {K : Goals} {ρ s : State} {v : Nat} (h : Inv K ρ s)
    (h1 : ¬((decide (v < 4) || decide (1000 < v)) = true)) : Inv K ρ { s with coh := { s.coh with snpTimeout := v } } := by
  simp only [Bool.or_eq_true, decide_eq_true_eq, not_or, Nat.not_lt] at h1
  exact h.step (fun l => { l with snp := h1 }) fun k => { k with }

theorem Inv.setReplay {K : Goals} {ρ s : State} {v : Nat} (h : Inv K ρ s) (h1 : ¬fld v 0 4 = 0) :
    Inv K ρ { s with rc := { s.rc with replayFrames := fld v 0 4 } } :=
  h.step (fun l => { l with replay := ⟨Nat.pos_of_ne_zero h1, Nat.le_of_lt_succ (fld_lt v 0 4)⟩ }) fun k => { k with }

theorem Inv.setRetry {K : Goals} {ρ s : State} {v : Nat} (h : Inv K ρ s) (h1 : 5 ≤ v ∧ v ≤ 1000) :
    Inv K ρ { s with nu := { s.nu with retryUs := v } } := h.step (fun l => { l with retry := h1 }) fun k => { k with }

theorem Inv.setQuiet {K : Goals} {ρ s : State} {v : Nat} (h : Inv K ρ s) (h1 : decide (v ≠ 0) = true) :
    Inv K ρ { s with fc := { s.fc with quietS := v } } :=
  h.step (fun l => { l with quiet := Nat.pos_of_ne_zero (of_decide_eq_true h1) }) fun k => { k with }

theorem Inv.setClose {K : Goals} {ρ s : State} {v : Nat} (h : Inv K ρ s) (h1 : (decide (1 ≤ v) && decide (v ≤ 4096)) = true) :
    Inv K ρ { s with fc := { s.fc with closeFrames := v } } := by
  simp only [Bool.and_eq_true, decide_eq_true_eq] at h1
  exact h.step (fun l => { l with close := h1 }) fun k => { k with }

theorem Inv.setPeriod {K : Goals} {ρ s : State} {v : Nat} (h : Inv K ρ s)
    (h1 : (decide (1 ≤ v) && decide (v ≤ 4096)) = true) : Inv K ρ { s with fc := { s.fc with periodFrames := v } } := by
  simp only [Bool.and_eq_true, decide_eq_true_eq] at h1
  exact h.step (fun l => { l with per := h1 }) fun k => { k with }

theorem emit_inv {K : Goals} {ρ : State} (o : Out) (s : State)  (hI : Inv K ρ s) : Inv K ρ (emit o s) := by
  unfold emit
  repeat' first
    | with_reducible assumption
    | with_reducible refine Inv.foldl _ (fun _ _ _ => ?_) ?_
    | with_reducible refine Inv.foldl2 _ (fun _ _ _ => ?_) ?_
    | with_reducible apply hK
    | with_reducible intro _
    | split
    | fail_if_no_progress (with_reducible (refine Inv.put rfl rfl rfl rfl rfl rfl rfl rfl rfl rfl rfl rfl rfl rfl rfl rfl ⟨rfl, rfl, rfl, rfl, rfl⟩ rfl rfl rfl rfl ?_))

theorem fresh_inv {K : Goals} {ρ : State} (w : Nat) (s : State)  (hI : Inv K ρ s) : Inv K ρ (fresh w s).2 := by
  unfold fresh
  repeat' first
    | with_reducible assumption
    | with_reducible refine Inv.foldl _ (fun _ _ _ => ?_) ?_
    | with_reducible refine Inv.foldl2 _ (fun _ _ _ => ?_) ?_
    | with_reducible apply hK
    | with_reducible intro _
    | split
    | fail_if_no_progress (with_reducible (refine Inv.put rfl rfl rfl rfl rfl rfl rfl rfl rfl rfl rfl rfl rfl rfl rfl rfl ⟨rfl, rfl, rfl, rfl, rfl⟩ rfl rfl rfl rfl ?_))

theorem fresh_invE {K : Goals} {ρ : State} {w : Nat} {s : State} {xa xu} (hE : fresh w s = (xa, xu))  (hI : Inv K ρ s) : Inv K ρ xu := by
  have h := fresh_inv w s  hI
  rw [hE] at h
  exact h

theorem atBar_inv {K : Goals} {ρ : State} (fn : Fn) (tbit : Bool) (k : State → State) (s : State) (hK : ∀ t, Inv K ρ t → Inv K ρ (k t)) (hI : Inv K ρ s) : Inv K ρ (atBar fn tbit k s) := by
  unfold atBar
  repeat' first
    | with_reducible assumption
    | with_reducible refine Inv.foldl _ (fun _ _ _ => ?_) ?_
    | with_reducible refine Inv.foldl2 _ (fun _ _ _ => ?_) ?_
    | with_reducible apply hK
    | with_reducible intro _
    | split

theorem msix_inv {K : Goals} {ρ : State} (fn : Fn) (v : Nat) (s : State)  (hI : Inv K ρ s) : Inv K ρ (msix fn v s) := by
  unfold msix
  repeat' first
    | with_reducible assumption
    | with_reducible apply emit_inv
    | with_reducible refine Inv.foldl _ (fun _ _ _ => ?_) ?_
    | with_reducible refine Inv.foldl2 _ (fun _ _ _ => ?_) ?_
    | with_reducible apply hK
    | with_reducible intro _
    | split

theorem modEngine_inv {K : Goals} {ρ : State} (e : Nat) (f : Engine → Engine) (s : State)  (hI : Inv K ρ s) : Inv K ρ (modEngine e f s) := by
  unfold modEngine
  repeat' first
    | with_reducible assumption
    | with_reducible refine Inv.foldl _ (fun _ _ _ => ?_) ?_
    | with_reducible refine Inv.foldl2 _ (fun _ _ _ => ?_) ?_
    | with_reducible apply hK
    | with_reducible intro _
    | split
    | fail_if_no_progress (with_reducible (refine Inv.put rfl rfl rfl rfl rfl rfl rfl rfl rfl rfl rfl rfl rfl rfl rfl rfl ⟨rfl, rfl, rfl, rfl, rfl⟩ rfl rfl rfl rfl ?_))

theorem modQueue_inv {K : Goals} {ρ : State} (q : Nat) (f : Queue → Queue) (s : State)  (hI : Inv K ρ s) : Inv K ρ (modQueue q f s) := by
  unfold modQueue
  repeat' first
    | with_reducible assumption
    | with_reducible refine Inv.foldl _ (fun _ _ _ => ?_) ?_
    | with_reducible refine Inv.foldl2 _ (fun _ _ _ => ?_) ?_
    | with_reducible apply hK
    | with_reducible intro _
    | split
    | fail_if_no_progress (with_reducible (refine Inv.put rfl rfl rfl rfl rfl rfl rfl rfl rfl rfl rfl rfl rfl rfl rfl rfl ⟨rfl, rfl, rfl, rfl, rfl⟩ rfl rfl rfl rfl ?_))

theorem setCtx_inv {K : Goals} {ρ : State} (n c : Nat) (v : CtxState) (s : State)  (hI : Inv K ρ s) : Inv K ρ (setCtx n c v s) := by
  unfold setCtx
  repeat' first
    | with_reducible assumption
    | with_reducible refine Inv.foldl _ (fun _ _ _ => ?_) ?_
    | with_reducible refine Inv.foldl2 _ (fun _ _ _ => ?_) ?_
    | with_reducible apply hK
    | with_reducible intro _
    | split
    | fail_if_no_progress (with_reducible (refine Inv.put rfl rfl rfl rfl rfl rfl rfl rfl rfl rfl rfl rfl rfl rfl rfl rfl ⟨rfl, rfl, rfl, rfl, rfl⟩ rfl rfl rfl rfl ?_))

theorem modStep_inv {K : Goals} {ρ : State} (id : Nat) (f : Step → Step) (s : State)  (hI : Inv K ρ s) : Inv K ρ (modStep id f s) := by
  unfold modStep
  repeat' first
    | with_reducible assumption
    | with_reducible refine Inv.foldl _ (fun _ _ _ => ?_) ?_
    | with_reducible refine Inv.foldl2 _ (fun _ _ _ => ?_) ?_
    | with_reducible apply hK
    | with_reducible intro _
    | split
    | fail_if_no_progress (with_reducible (refine Inv.put rfl rfl rfl rfl rfl rfl rfl rfl rfl rfl rfl rfl rfl rfl rfl rfl ⟨rfl, rfl, rfl, rfl, rfl⟩ rfl rfl rfl rfl ?_))

theorem dropStep_inv {K : Goals} {ρ : State} (id : Nat) (s : State)  (hI : Inv K ρ s) : Inv K ρ (dropStep id s) := by
  unfold dropStep
  repeat' first
    | with_reducible assumption
    | with_reducible refine Inv.foldl _ (fun _ _ _ => ?_) ?_
    | with_reducible refine Inv.foldl2 _ (fun _ _ _ => ?_) ?_
    | with_reducible apply hK
    | with_reducible intro _
    | split
    | fail_if_no_progress (with_reducible (refine Inv.put rfl rfl rfl rfl rfl rfl rfl rfl rfl rfl rfl rfl rfl rfl rfl rfl ⟨rfl, rfl, rfl, rfl, rfl⟩ rfl rfl rfl rfl ?_))

theorem modHr_inv {K : Goals} {ρ : State} (n : Nat) (f : HrCount → HrCount) (s : State)  (hI : Inv K ρ s) : Inv K ρ (modHr n f s) := by
  unfold modHr
  repeat' first
    | with_reducible assumption
    | with_reducible refine Inv.foldl _ (fun _ _ _ => ?_) ?_
    | with_reducible refine Inv.foldl2 _ (fun _ _ _ => ?_) ?_
    | with_reducible apply hK
    | with_reducible intro _
    | split
    | fail_if_no_progress (with_reducible (refine Inv.put rfl rfl rfl rfl rfl rfl rfl rfl rfl rfl rfl rfl rfl rfl rfl rfl ⟨rfl, rfl, rfl, rfl, rfl⟩ rfl rfl rfl rfl ?_))

theorem record_inv {K : Goals} {ρ : State} (r : FRec) (s : State) (hI : Inv K ρ s) : Inv K ρ (record r s) := by
  unfold record
  split
  rename_i a u hu
  split
  rename_i b w hw
  have h := fresh_invE hw (fresh_invE hu hI)
  exact h.setFc fun l => ⟨by simp only [toMirrors, List.length_take]; omega, l.quiet, l.close, l.per⟩

theorem assertErr_inv {K : Goals} {ρ : State} (src : Nat) (cl : FClass) (s : State)  (hI : Inv K ρ s) : Inv K ρ (assertErr src cl s) := by
  unfold assertErr
  repeat' first
    | with_reducible assumption
    | with_reducible refine Inv.foldl _ (fun _ _ _ => ?_) ?_
    | with_reducible refine Inv.foldl2 _ (fun _ _ _ => ?_) ?_
    | with_reducible apply hK
    | with_reducible intro _
    | split
    | fail_if_no_progress (with_reducible (refine Inv.put rfl rfl rfl rfl rfl rfl rfl rfl rfl rfl rfl rfl rfl rfl rfl rfl ⟨rfl, rfl, rfl, rfl, rfl⟩ rfl rfl rfl rfl ?_))

theorem askChipReset_inv {K : Goals} {ρ : State} (p : Prep) (s : State)  (hI : Inv K ρ s) : Inv K ρ (askChipReset p s) := by
  unfold askChipReset
  repeat' first
    | with_reducible assumption
    | with_reducible refine Inv.foldl _ (fun _ _ _ => ?_) ?_
    | with_reducible refine Inv.foldl2 _ (fun _ _ _ => ?_) ?_
    | with_reducible apply hK
    | with_reducible intro _
    | split
    | fail_if_no_progress (with_reducible (refine Inv.put rfl rfl rfl rfl rfl rfl rfl rfl rfl rfl rfl rfl rfl rfl rfl rfl ⟨rfl, rfl, rfl, rfl, rfl⟩ rfl rfl rfl rfl ?_))

theorem askReset_inv {K : Goals} {ρ : State} (r : Reset) (s : State)  (hI : Inv K ρ s) : Inv K ρ (askReset r s) := by
  unfold askReset
  repeat' first
    | with_reducible assumption
    | with_reducible refine Inv.foldl _ (fun _ _ _ => ?_) ?_
    | with_reducible refine Inv.foldl2 _ (fun _ _ _ => ?_) ?_
    | with_reducible apply hK
    | with_reducible intro _
    | split
    | fail_if_no_progress (with_reducible (refine Inv.put rfl rfl rfl rfl rfl rfl rfl rfl rfl rfl rfl rfl rfl rfl rfl rfl ⟨rfl, rfl, rfl, rfl, rfl⟩ rfl rfl rfl rfl ?_))

theorem blockReset_inv {K : Goals} {ρ : State} (m : FMsg) (s : State)  (hI : Inv K ρ s) : Inv K ρ (blockReset m s) := by
  unfold blockReset
  repeat' first
    | with_reducible assumption
    | with_reducible apply askReset_inv
    | with_reducible apply askChipReset_inv
    | with_reducible refine Inv.foldl _ (fun _ _ _ => ?_) ?_
    | with_reducible refine Inv.foldl2 _ (fun _ _ _ => ?_) ?_
    | with_reducible apply hK
    | with_reducible intro _
    | split

theorem haltDevice_inv {K : Goals} {ρ : State} (s : State)  (hI : Inv K ρ s) : Inv K ρ (haltDevice s) := by
  unfold haltDevice
  repeat' first
    | with_reducible assumption
    | with_reducible refine Inv.foldl _ (fun _ _ _ => ?_) ?_
    | with_reducible refine Inv.foldl2 _ (fun _ _ _ => ?_) ?_
    | with_reducible apply hK
    | with_reducible intro _
    | split
    | fail_if_no_progress (with_reducible (refine Inv.put rfl rfl rfl rfl rfl rfl rfl rfl rfl rfl rfl rfl rfl rfl rfl rfl ⟨rfl, rfl, rfl, rfl, rfl⟩ rfl rfl rfl rfl ?_))

theorem react_inv {K : Goals} {ρ : State} (m : FMsg) (step : Nat) (s : State)  (hI : Inv K ρ s) : Inv K ρ (react m step s) := by
  unfold react
  repeat' first
    | with_reducible assumption
    | with_reducible apply msix_inv
    | with_reducible apply emit_inv
    | with_reducible apply blockReset_inv
    | with_reducible apply askChipReset_inv
    | with_reducible apply haltDevice_inv
    | with_reducible apply assertErr_inv
    | with_reducible refine Inv.foldl _ (fun _ _ _ => ?_) ?_
    | with_reducible refine Inv.foldl2 _ (fun _ _ _ => ?_) ?_
    | with_reducible apply hK
    | with_reducible intro _
    | split

theorem report_inv {K : Goals} {ρ : State} (m : FMsg) (s : State) (hI : Inv K ρ s) : Inv K ρ (report m s) := by
  unfold report
  split
  · refine hI.setFc fun l => ?_
    dsimp only
    split
    · exact ⟨by simp only [toMirrors]; rw [modFirst_length]; exact l.bbr, l.quiet, l.close, l.per⟩
    · exact ⟨by dsimp only; rw [modFirst_length]; exact l.bbr, l.quiet, l.close, l.per⟩
  · repeat' first
      | with_reducible assumption
      | with_reducible apply record_inv
      | with_reducible apply modHr_inv
      | with_reducible apply react_inv
      | with_reducible refine Inv.foldl _ (fun _ _ _ => ?_) ?_
      | with_reducible refine Inv.foldl2 _ (fun _ _ _ => ?_) ?_
      | with_reducible apply hK
      | with_reducible intro _
      | split
      | fail_if_no_progress (with_reducible (refine Inv.put rfl rfl rfl rfl rfl rfl rfl rfl rfl rfl rfl rfl rfl rfl rfl rfl ⟨rfl, rfl, rfl, rfl, rfl⟩ rfl rfl rfl rfl ?_))

theorem event_inv {K : Goals} {ρ : State} (source : Nat) (st : Status) (part : Option Nat) (detail : Nat) (s : State)  (hI : Inv K ρ s) : Inv K ρ (event source st part detail s) := by
  unfold event
  repeat' first
    | with_reducible assumption
    | with_reducible apply record_inv
    | with_reducible refine Inv.foldl _ (fun _ _ _ => ?_) ?_
    | with_reducible refine Inv.foldl2 _ (fun _ _ _ => ?_) ?_
    | with_reducible apply hK
    | with_reducible intro _
    | split
    | fail_if_no_progress (with_reducible (refine Inv.put rfl rfl rfl rfl rfl rfl rfl rfl rfl rfl rfl rfl rfl rfl rfl rfl ⟨rfl, rfl, rfl, rfl, rfl⟩ rfl rfl rfl rfl ?_))

theorem resetRecord_inv {K : Goals} {ρ : State} (scope index gen : Nat) (cause : Cause) (skipped abandoned : Bool) (part : Option Nat) (s : State)  (hI : Inv K ρ s) : Inv K ρ (resetRecord scope index gen cause skipped abandoned part s) := by
  unfold resetRecord
  repeat' first
    | with_reducible assumption
    | with_reducible apply record_inv
    | with_reducible refine Inv.foldl _ (fun _ _ _ => ?_) ?_
    | with_reducible refine Inv.foldl2 _ (fun _ _ _ => ?_) ?_
    | with_reducible apply hK
    | with_reducible intro _
    | split
    | fail_if_no_progress (with_reducible (refine Inv.put rfl rfl rfl rfl rfl rfl rfl rfl rfl rfl rfl rfl rfl rfl rfl rfl ⟨rfl, rfl, rfl, rfl, rfl⟩ rfl rfl rfl rfl ?_))

theorem ceRate_inv {K : Goals} {ρ : State} (owner offset a b : Nat) (s : State)  (hI : Inv K ρ s) : Inv K ρ (ceRate owner offset a b s) := by
  unfold ceRate
  repeat' first
    | with_reducible assumption
    | with_reducible apply report_inv
    | with_reducible refine Inv.foldl _ (fun _ _ _ => ?_) ?_
    | with_reducible refine Inv.foldl2 _ (fun _ _ _ => ?_) ?_
    | with_reducible apply hK
    | with_reducible intro _
    | split

theorem ceArray_inv {K : Goals} {ρ : State} (s : State) (x : Nat × Nat)  (hI : Inv K ρ s) : Inv K ρ (ceArray s x) := by
  unfold ceArray
  repeat' first
    | with_reducible assumption
    | with_reducible apply ceRate_inv
    | with_reducible refine Inv.foldl _ (fun _ _ _ => ?_) ?_
    | with_reducible refine Inv.foldl2 _ (fun _ _ _ => ?_) ?_
    | with_reducible apply hK
    | with_reducible intro _
    | split
    | fail_if_no_progress (with_reducible (refine Inv.put rfl rfl rfl rfl rfl rfl rfl rfl rfl rfl rfl rfl rfl rfl rfl rfl ⟨rfl, rfl, rfl, rfl, rfl⟩ rfl rfl rfl rfl ?_))

theorem ceHostLink_inv {K : Goals} {ρ : State} (n : Nat) (s : State)  (hI : Inv K ρ s) : Inv K ρ (ceHostLink n s) := by
  unfold ceHostLink
  repeat' first
    | with_reducible assumption
    | with_reducible apply ceRate_inv
    | with_reducible refine Inv.foldl _ (fun _ _ _ => ?_) ?_
    | with_reducible refine Inv.foldl2 _ (fun _ _ _ => ?_) ?_
    | with_reducible apply hK
    | with_reducible intro _
    | split
    | fail_if_no_progress (with_reducible (refine Inv.put rfl rfl rfl rfl rfl rfl rfl rfl rfl rfl rfl rfl rfl rfl rfl rfl ⟨rfl, rfl, rfl, rfl, rfl⟩ rfl rfl rfl rfl ?_))

theorem ceStackLink_inv {K : Goals} {ρ : State} (s : State) (x : Nat × Nat)  (hI : Inv K ρ s) : Inv K ρ (ceStackLink s x) := by
  unfold ceStackLink
  repeat' first
    | with_reducible assumption
    | with_reducible apply ceRate_inv
    | with_reducible refine Inv.foldl _ (fun _ _ _ => ?_) ?_
    | with_reducible refine Inv.foldl2 _ (fun _ _ _ => ?_) ?_
    | with_reducible apply hK
    | with_reducible intro _
    | split
    | fail_if_no_progress (with_reducible (refine Inv.put rfl rfl rfl rfl rfl rfl rfl rfl rfl rfl rfl rfl rfl rfl rfl rfl ⟨rfl, rfl, rfl, rfl, rfl⟩ rfl rfl rfl rfl ?_))

theorem ceTileLink_inv {K : Goals} {ρ : State} (s : State) (x : Nat × Nat)  (hI : Inv K ρ s) : Inv K ρ (ceTileLink s x) := by
  unfold ceTileLink
  repeat' first
    | with_reducible assumption
    | with_reducible apply modHr_inv
    | with_reducible apply ceRate_inv
    | with_reducible refine Inv.foldl _ (fun _ _ _ => ?_) ?_
    | with_reducible refine Inv.foldl2 _ (fun _ _ _ => ?_) ?_
    | with_reducible apply hK
    | with_reducible intro _
    | split
    | fail_if_no_progress (with_reducible (refine Inv.put rfl rfl rfl rfl rfl rfl rfl rfl rfl rfl rfl rfl rfl rfl rfl rfl ⟨rfl, rfl, rfl, rfl, rfl⟩ rfl rfl rfl rfl ?_))

theorem ceMem_inv {K : Goals} {ρ : State} (s : State) (x : Nat × Nat)  (hI : Inv K ρ s) : Inv K ρ (ceMem s x) := by
  unfold ceMem
  repeat' first
    | with_reducible assumption
    | with_reducible apply modHr_inv
    | with_reducible apply ceRate_inv
    | with_reducible refine Inv.foldl _ (fun _ _ _ => ?_) ?_
    | with_reducible refine Inv.foldl2 _ (fun _ _ _ => ?_) ?_
    | with_reducible apply hK
    | with_reducible intro _
    | split
    | fail_if_no_progress (with_reducible (refine Inv.put rfl rfl rfl rfl rfl rfl rfl rfl rfl rfl rfl rfl rfl rfl rfl rfl ⟨rfl, rfl, rfl, rfl, rfl⟩ rfl rfl rfl rfl ?_))

theorem countCorrected_inv {K : Goals} {ρ : State} (c : Corrected) (s : State)  (hI : Inv K ρ s) : Inv K ρ (countCorrected c s) := by
  unfold countCorrected
  repeat' first
    | with_reducible assumption
    | with_reducible apply ceHostLink_inv
    | with_reducible apply ceArray_inv
    | with_reducible apply ceMem_inv
    | with_reducible apply ceTileLink_inv
    | with_reducible apply ceStackLink_inv
    | with_reducible refine Inv.foldl _ (fun _ _ _ => ?_) ?_

theorem injected_inv {K : Goals} {ρ : State} (checker unit : Nat) (part : Option Nat) (s : State) (hI : Inv K ρ s) :
    Inv K ρ (injected checker unit part s).2 := by
  unfold injected
  extract_lets i conf match_
  split
  · exact Inv.put (t := s) rfl rfl rfl rfl rfl rfl rfl rfl rfl rfl rfl rfl rfl rfl rfl rfl ⟨rfl, rfl, rfl, rfl, rfl⟩ rfl rfl rfl rfl hI
  · exact hI

theorem injected_invE {K : Goals} {ρ : State} {checker unit : Nat} {part : Option Nat} {s : State} {xa xu} (hE : injected checker unit part s = (xa, xu))  (hI : Inv K ρ s) : Inv K ρ xu := by
  have h := injected_inv checker unit part s  hI
  rw [hE] at h
  exact h

theorem parityCheck_inv {K : Goals} {ρ : State} (u : Nat) (part : Option Nat) (bad : Bool) (s : State)  (hI : Inv K ρ s) : Inv K ρ (parityCheck u part bad s).2 := by
  unfold parityCheck
  repeat' first
    | with_reducible assumption
    | with_reducible refine injected_invE (by assumption) ?_
    | with_reducible apply injected_inv

theorem parityCheck_invE {K : Goals} {ρ : State} {u : Nat} {part : Option Nat} {bad : Bool} {s : State} {xa xu} (hE : parityCheck u part bad s = (xa, xu))  (hI : Inv K ρ s) : Inv K ρ xu := by
  have h := parityCheck_inv u part bad s  hI
  rw [hE] at h
  exact h

theorem reportParity_inv {K : Goals} {ρ : State} (kind : Nat) (m : FMsg) (s : State)  (hI : Inv K ρ s) : Inv K ρ (reportParity kind m s) := by
  unfold reportParity
  repeat' first
    | with_reducible assumption
    | with_reducible refine fresh_invE (by assumption) ?_
    | with_reducible apply fresh_inv
    | with_reducible apply report_inv

theorem transfer_inv {K : Goals} {ρ : State} (u : Nat) (part : Option Nat) (errs : Nat) (s : State)  (hI : Inv K ρ s) : Inv K ρ (transfer u part errs s).2 := by
  unfold transfer
  repeat' first
    | with_reducible assumption
    | with_reducible refine parityCheck_invE (by assumption) ?_
    | with_reducible apply parityCheck_inv
    | with_reducible apply reportParity_inv
    | with_reducible refine Inv.foldl _ (fun _ _ _ => ?_) ?_
    | with_reducible refine Inv.foldl2 _ (fun _ _ _ => ?_) ?_
    | with_reducible apply hK
    | with_reducible intro _
    | split

theorem transfer_invE {K : Goals} {ρ : State} {u : Nat} {part : Option Nat} {errs : Nat} {s : State} {xa xu} (hE : transfer u part errs s = (xa, xu))  (hI : Inv K ρ s) : Inv K ρ xu := by
  have h := transfer_inv u part errs s  hI
  rw [hE] at h
  exact h

theorem modPc_inv {K : Goals} {ρ : State} (p : Nat) (f : PcState → PcState) (s : State)  (hI : Inv K ρ s) : Inv K ρ (modPc p f s) := by
  unfold modPc
  repeat' first
    | with_reducible assumption
    | with_reducible refine Inv.foldl _ (fun _ _ _ => ?_) ?_
    | with_reducible refine Inv.foldl2 _ (fun _ _ _ => ?_) ?_
    | with_reducible apply hK
    | with_reducible intro _
    | split
    | fail_if_no_progress (with_reducible (refine Inv.put rfl rfl rfl rfl rfl rfl rfl rfl rfl rfl rfl rfl rfl rfl rfl rfl ⟨rfl, rfl, rfl, rfl, rfl⟩ rfl rfl rfl rfl ?_))

theorem putNode_inv {K : Goals} {ρ : State} (p l j : Nat) (bs : List Byte) (s : State)  (hI : Inv K ρ s) : Inv K ρ (putNode p l j bs s) := by
  unfold putNode
  repeat' first
    | with_reducible assumption
    | with_reducible apply modPc_inv
    | with_reducible refine Inv.foldl _ (fun _ _ _ => ?_) ?_
    | with_reducible refine Inv.foldl2 _ (fun _ _ _ => ?_) ?_
    | with_reducible apply hK
    | with_reducible intro _
    | split
    | fail_if_no_progress (with_reducible (refine Inv.put rfl rfl rfl rfl rfl rfl rfl rfl rfl rfl rfl rfl rfl rfl rfl rfl ⟨rfl, rfl, rfl, rfl, rfl⟩ rfl rfl rfl rfl ?_))

theorem putPath_inv {K : Goals} {ρ : State} (p n l c : Nat) (bs : List Byte) (s : State) (hI : Inv K ρ s) : Inv K ρ (putPath p n l c bs s) := by
  induction n generalizing l c bs s with
  | zero => exact hI
  | succ n ih =>
    rw [putPath]
    repeat' first
      | with_reducible assumption
      | with_reducible apply ih
      | with_reducible apply putNode_inv

theorem setBlock_inv {K : Goals} {ρ : State} (p g : Nat) (b : CounterBlock) (s : State)  (hI : Inv K ρ s) : Inv K ρ (setBlock p g b s) := by
  unfold setBlock
  repeat' first
    | with_reducible assumption
    | with_reducible apply putPath_inv
    | with_reducible refine Inv.foldl _ (fun _ _ _ => ?_) ?_
    | with_reducible refine Inv.foldl2 _ (fun _ _ _ => ?_) ?_
    | with_reducible apply hK
    | with_reducible intro _
    | split
    | fail_if_no_progress (with_reducible (refine Inv.put rfl rfl rfl rfl rfl rfl rfl rfl rfl rfl rfl rfl rfl rfl rfl rfl ⟨rfl, rfl, rfl, rfl, rfl⟩ rfl rfl rfl rfl ?_))

theorem rebuildTree_inv {K : Goals} {ρ : State} (p : Nat) (s : State)  (hI : Inv K ρ s) : Inv K ρ (rebuildTree p s) := by
  unfold rebuildTree
  repeat' first
    | with_reducible assumption
    | with_reducible apply modPc_inv
    | with_reducible apply putPath_inv
    | with_reducible refine Inv.foldl _ (fun _ _ _ => ?_) ?_
    | with_reducible refine Inv.foldl2 _ (fun _ _ _ => ?_) ?_
    | with_reducible apply hK
    | with_reducible intro _
    | split
    | fail_if_no_progress (with_reducible (refine Inv.put rfl rfl rfl rfl rfl rfl rfl rfl rfl rfl rfl rfl rfl rfl rfl rfl ⟨rfl, rfl, rfl, rfl, rfl⟩ rfl rfl rfl rfl ?_))

theorem repairNode_inv {K : Goals} {ρ : State} (p l j : Nat) (s : State)  (hI : Inv K ρ s) : Inv K ρ (repairNode p l j s) := by
  unfold repairNode
  repeat' first
    | with_reducible assumption
    | with_reducible refine Inv.foldl _ (fun _ _ _ => ?_) ?_
    | with_reducible refine Inv.foldl2 _ (fun _ _ _ => ?_) ?_
    | with_reducible apply hK
    | with_reducible intro _
    | split
    | fail_if_no_progress (with_reducible (refine Inv.put rfl rfl rfl rfl rfl rfl rfl rfl rfl rfl rfl rfl rfl rfl rfl rfl ⟨rfl, rfl, rfl, rfl, rfl⟩ rfl rfl rfl rfl ?_))

theorem fillMeta_inv {K : Goals} {ρ : State} (s : State) (e : MetaEntry)  (hI : Inv K ρ s) : Inv K ρ (fillMeta s e) := by
  unfold fillMeta
  repeat' first
    | with_reducible assumption
    | with_reducible refine fresh_invE (by assumption) ?_
    | with_reducible apply fresh_inv
    | with_reducible refine Inv.foldl _ (fun _ _ _ => ?_) ?_
    | with_reducible refine Inv.foldl2 _ (fun _ _ _ => ?_) ?_
    | with_reducible apply hK
    | with_reducible intro _
    | split
    | fail_if_no_progress (with_reducible (refine Inv.put rfl rfl rfl rfl rfl rfl rfl rfl rfl rfl rfl rfl rfl rfl rfl rfl ⟨rfl, rfl, rfl, rfl, rfl⟩ rfl rfl rfl rfl ?_))
    | dsimp only

theorem fillPath_inv {K : Goals} {ρ : State} (p block : Nat) (s : State)  (hI : Inv K ρ s) : Inv K ρ (fillPath p block s) := by
  unfold fillPath
  repeat' first
    | with_reducible assumption
    | with_reducible apply fillMeta_inv
    | with_reducible refine Inv.foldl _ (fun _ _ _ => ?_) ?_

theorem ownRead_inv {K : Goals} {ρ : State} (p : Nat) (s : State) (block : Nat)  (hI : Inv K ρ s) : Inv K ρ (ownRead p s block) := by
  unfold ownRead
  repeat' first
    | with_reducible assumption
    | with_reducible refine Inv.foldl _ (fun _ _ _ => ?_) ?_
    | with_reducible refine Inv.foldl2 _ (fun _ _ _ => ?_) ?_
    | with_reducible apply hK
    | with_reducible intro _
    | split
    | fail_if_no_progress (with_reducible (refine Inv.put rfl rfl rfl rfl rfl rfl rfl rfl rfl rfl rfl rfl rfl rfl rfl rfl ⟨rfl, rfl, rfl, rfl, rfl⟩ rfl rfl rfl rfl ?_))

theorem fetchMeta_inv {K : Goals} {ρ : State} (p block : Nat) (s : State)  (hI : Inv K ρ s) : Inv K ρ (fetchMeta p block s) := by
  unfold fetchMeta
  repeat' first
    | with_reducible assumption
    | with_reducible apply ownRead_inv
    | with_reducible refine Inv.foldl _ (fun _ _ _ => ?_) ?_
    | with_reducible refine Inv.foldl2 _ (fun _ _ _ => ?_) ?_
    | with_reducible apply hK
    | with_reducible intro _
    | split

theorem exhaustPc_inv {K : Goals} {ρ : State} (p : Nat) (rekey : Bool) (s : State)  (hI : Inv K ρ s) : Inv K ρ (exhaustPc p rekey s) := by
  unfold exhaustPc
  repeat' first
    | with_reducible assumption
    | with_reducible apply modPc_inv
    | with_reducible apply event_inv
    | with_reducible apply report_inv
    | with_reducible refine Inv.foldl _ (fun _ _ _ => ?_) ?_
    | with_reducible refine Inv.foldl2 _ (fun _ _ _ => ?_) ?_
    | with_reducible apply hK
    | with_reducible intro _
    | split
    | fail_if_no_progress (with_reducible (refine Inv.put rfl rfl rfl rfl rfl rfl rfl rfl rfl rfl rfl rfl rfl rfl rfl rfl ⟨rfl, rfl, rfl, rfl, rfl⟩ rfl rfl rfl rfl ?_))

theorem dropFirst_inv {K : Goals} {ρ : State} (p g : Nat) (s : State)  (hI : Inv K ρ s) : Inv K ρ (dropFirst p g s) := by
  unfold dropFirst
  repeat' first
    | with_reducible assumption
    | with_reducible apply modPc_inv

theorem rebuildGroup_inv {K : Goals} {ρ : State} (p g target : Nat) (s : State) (hI : Inv K ρ s) : Inv K ρ (rebuildGroup p g target s) := by
  unfold rebuildGroup
  refine Inv.putAll _ _ ?_
  repeat' first
    | with_reducible assumption
    | with_reducible apply setBlock_inv

theorem rekeyGroup_inv {K : Goals} {ρ : State} (p g target : Nat) (s : State)  (hI : Inv K ρ s) : Inv K ρ (rekeyGroup p g target s) := by
  unfold rekeyGroup
  repeat' first
    | with_reducible assumption
    | with_reducible apply setBlock_inv
    | with_reducible refine Inv.foldl _ (fun _ _ _ => ?_) ?_
    | with_reducible refine Inv.foldl2 _ (fun _ _ _ => ?_) ?_
    | with_reducible apply hK
    | with_reducible intro _
    | split
    | fail_if_no_progress (with_reducible (refine Inv.put rfl rfl rfl rfl rfl rfl rfl rfl rfl rfl rfl rfl rfl rfl rfl rfl ⟨rfl, rfl, rfl, rfl, rfl⟩ rfl rfl rfl rfl ?_))
    | dsimp only

theorem startRekey_inv {K : Goals} {ρ : State} (p : Nat) (first lost : List Nat) (s : State)  (hI : Inv K ρ s) : Inv K ρ (startRekey p first lost s) := by
  unfold startRekey
  repeat' first
    | with_reducible assumption
    | with_reducible apply modPc_inv
    | with_reducible apply exhaustPc_inv
    | with_reducible refine Inv.foldl _ (fun _ _ _ => ?_) ?_
    | with_reducible refine Inv.foldl2 _ (fun _ _ _ => ?_) ?_
    | with_reducible apply hK
    | with_reducible intro _
    | split
    | fail_if_no_progress (with_reducible (refine Inv.put rfl rfl rfl rfl rfl rfl rfl rfl rfl rfl rfl rfl rfl rfl rfl rfl ⟨rfl, rfl, rfl, rfl, rfl⟩ rfl rfl rfl rfl ?_))
    | dsimp only

theorem putLine_inv {K : Goals} {ρ : State} (k : Nat) (d : Line) (s : State) (hI : Inv K ρ s) : Inv K ρ (putLine k d s) := by
  unfold putLine
  refine Inv.putAll _ _ ?_
  repeat' first
    | with_reducible assumption
    | with_reducible apply modPc_inv
    | with_reducible refine Inv.foldl _ (fun _ _ _ => ?_) ?_
    | with_reducible refine Inv.foldl2 _ (fun _ _ _ => ?_) ?_
    | with_reducible apply hK
    | with_reducible intro _
    | split

theorem park_inv {K : Goals} {ρ : State} (k : Nat) (d : Line) (poison : Bool) (s : State)  (hI : Inv K ρ s) : Inv K ρ (park k d poison s) := by
  unfold park
  repeat' first
    | with_reducible assumption
    | with_reducible apply modPc_inv

theorem storeMem_inv {K : Goals} {ρ : State} (k : Nat) (d : Line) (poison : Bool) (s : State)  (hI : Inv K ρ s) : Inv K ρ (storeMem k d poison s) := by
  unfold storeMem
  repeat' first
    | with_reducible assumption
    | with_reducible apply setBlock_inv
    | with_reducible apply putLine_inv
    | with_reducible refine Inv.foldl _ (fun _ _ _ => ?_) ?_
    | with_reducible refine Inv.foldl2 _ (fun _ _ _ => ?_) ?_
    | with_reducible apply hK
    | with_reducible intro _
    | split
    | fail_if_no_progress (with_reducible (refine Inv.put rfl rfl rfl rfl rfl rfl rfl rfl rfl rfl rfl rfl rfl rfl rfl rfl ⟨rfl, rfl, rfl, rfl, rfl⟩ rfl rfl rfl rfl ?_))

theorem countOverflow_inv {K : Goals} {ρ : State} (p g : Nat) (s : State)  (hI : Inv K ρ s) : Inv K ρ (countOverflow p g s) := by
  unfold countOverflow
  repeat' first
    | with_reducible assumption
    | with_reducible apply ownRead_inv
    | with_reducible refine Inv.foldl _ (fun _ _ _ => ?_) ?_
    | with_reducible refine Inv.foldl2 _ (fun _ _ _ => ?_) ?_
    | with_reducible apply hK
    | with_reducible intro _
    | split
    | fail_if_no_progress (with_reducible (refine Inv.put rfl rfl rfl rfl rfl rfl rfl rfl rfl rfl rfl rfl rfl rfl rfl rfl ⟨rfl, rfl, rfl, rfl, rfl⟩ rfl rfl rfl rfl ?_))

theorem writeMem_inv {K : Goals} {ρ : State} (k : Nat) (d : Line) (poison : Bool) (s : State)  (hI : Inv K ρ s) : Inv K ρ (writeMem k d poison s) := by
  unfold writeMem
  repeat' first
    | with_reducible assumption
    | with_reducible apply park_inv
    | with_reducible apply fetchMeta_inv
    | with_reducible apply storeMem_inv
    | with_reducible apply countOverflow_inv
    | with_reducible apply startRekey_inv
    | with_reducible refine Inv.foldl _ (fun _ _ _ => ?_) ?_
    | with_reducible refine Inv.foldl2 _ (fun _ _ _ => ?_) ?_
    | with_reducible apply hK
    | with_reducible intro _
    | split
    | fail_if_no_progress (with_reducible (refine Inv.put rfl rfl rfl rfl rfl rfl rfl rfl rfl rfl rfl rfl rfl rfl rfl rfl ⟨rfl, rfl, rfl, rfl, rfl⟩ rfl rfl rfl rfl ?_))
    | dsimp only

theorem unpark_inv {K : Goals} {ρ : State} (p g : Nat) (s : State)  (hI : Inv K ρ s) : Inv K ρ (unpark p g s) := by
  unfold unpark
  repeat' first
    | with_reducible assumption
    | with_reducible apply modPc_inv
    | with_reducible apply writeMem_inv
    | with_reducible refine Inv.foldl _ (fun _ _ _ => ?_) ?_

theorem visitRekey_inv {K : Goals} {ρ : State} (p g : Nat) (w : Sweep) (s : State)  (hI : Inv K ρ s) : Inv K ρ (visitRekey p g w s) := by
  unfold visitRekey
  repeat' first
    | with_reducible assumption
    | with_reducible apply rebuildGroup_inv
    | with_reducible apply rekeyGroup_inv
    | with_reducible apply unpark_inv
    | with_reducible apply dropFirst_inv
    | with_reducible refine Inv.foldl _ (fun _ _ _ => ?_) ?_
    | with_reducible refine Inv.foldl2 _ (fun _ _ _ => ?_) ?_
    | with_reducible apply hK
    | with_reducible intro _
    | split

theorem flushParked_inv {K : Goals} {ρ : State} (p : Nat) (s : State)  (hI : Inv K ρ s) : Inv K ρ (flushParked p s) := by
  unfold flushParked
  repeat' first
    | with_reducible assumption
    | with_reducible apply visitRekey_inv
    | with_reducible apply putLine_inv
    | with_reducible apply setBlock_inv
    | with_reducible apply modPc_inv
    | with_reducible refine Inv.foldl _ (fun _ _ _ => ?_) ?_
    | with_reducible refine Inv.foldl2 _ (fun _ _ _ => ?_) ?_
    | with_reducible apply hK
    | with_reducible intro _
    | split
    | fail_if_no_progress (with_reducible (refine Inv.put rfl rfl rfl rfl rfl rfl rfl rfl rfl rfl rfl rfl rfl rfl rfl rfl ⟨rfl, rfl, rfl, rfl, rfl⟩ rfl rfl rfl rfl ?_))
    | dsimp only

theorem claim_inv {K : Goals} {ρ : State} (p line k : Nat) (s : State)  (hI : Inv K ρ s) : Inv K ρ (claim p line k s) := by
  unfold claim
  repeat' first
    | with_reducible assumption
    | with_reducible apply writeMem_inv
    | with_reducible apply setBlock_inv
    | with_reducible apply modPc_inv
    | with_reducible refine Inv.foldl _ (fun _ _ _ => ?_) ?_
    | with_reducible refine Inv.foldl2 _ (fun _ _ _ => ?_) ?_
    | with_reducible apply hK
    | with_reducible intro _
    | split
    | fail_if_no_progress (with_reducible (refine Inv.put rfl rfl rfl rfl rfl rfl rfl rfl rfl rfl rfl rfl rfl rfl rfl rfl ⟨rfl, rfl, rfl, rfl, rfl⟩ rfl rfl rfl rfl ?_))

theorem access_inv {K : Goals} {ρ : State} (p line k : Nat) (s : State)  (hI : Inv K ρ s) : Inv K ρ (access p line k s).2 := by
  unfold access
  repeat' first
    | with_reducible assumption
    | with_reducible apply claim_inv
    | with_reducible refine Inv.foldl _ (fun _ _ _ => ?_) ?_
    | with_reducible refine Inv.foldl2 _ (fun _ _ _ => ?_) ?_
    | with_reducible apply hK
    | with_reducible intro _
    | split
    | fail_if_no_progress (with_reducible (refine Inv.put rfl rfl rfl rfl rfl rfl rfl rfl rfl rfl rfl rfl rfl rfl rfl rfl ⟨rfl, rfl, rfl, rfl, rfl⟩ rfl rfl rfl rfl ?_))

theorem access_invE {K : Goals} {ρ : State} {p line k : Nat} {s : State} {xa xu} (hE : access p line k s = (xa, xu))  (hI : Inv K ρ s) : Inv K ρ xu := by
  have h := access_inv p line k s  hI
  rw [hE] at h
  exact h

theorem startScrub_inv {K : Goals} {ρ : State} (p : Nat) (s : State)  (hI : Inv K ρ s) : Inv K ρ (startScrub p s) := by
  unfold startScrub
  repeat' first
    | with_reducible assumption
    | with_reducible apply exhaustPc_inv
    | with_reducible apply modPc_inv
    | with_reducible refine Inv.foldl _ (fun _ _ _ => ?_) ?_
    | with_reducible refine Inv.foldl2 _ (fun _ _ _ => ?_) ?_
    | with_reducible apply hK
    | with_reducible intro _
    | split
    | fail_if_no_progress (with_reducible (refine Inv.put rfl rfl rfl rfl rfl rfl rfl rfl rfl rfl rfl rfl rfl rfl rfl rfl ⟨rfl, rfl, rfl, rfl, rfl⟩ rfl rfl rfl rfl ?_))
    | dsimp only

theorem clearPc_inv {K : Goals} {ρ : State} (p gen : Nat) (s : State) (hI : Inv K ρ s) : Inv K ρ (clearPc p gen s) := by
  unfold clearPc
  have h := modPc_inv p (fun x => { x with gen := gen, present := 0, sweep := none, queued := [], parked := [], junk := none, sure := [] }) s hI
  refine rebuildTree_inv _ _ ?_
  exact h.step (fun l => { l with mem := filter_wf _ l.mem }) fun k => { k with }

theorem endRekey_inv {K : Goals} {ρ : State} (p target : Nat) (s : State)  (hI : Inv K ρ s) : Inv K ρ (endRekey p target s) := by
  unfold endRekey
  repeat' first
    | with_reducible assumption
    | with_reducible apply modPc_inv
    | with_reducible apply rebuildTree_inv
    | with_reducible refine Inv.foldl _ (fun _ _ _ => ?_) ?_
    | with_reducible refine Inv.foldl2 _ (fun _ _ _ => ?_) ?_
    | with_reducible apply hK
    | with_reducible intro _
    | split
    | fail_if_no_progress (with_reducible (refine Inv.put rfl rfl rfl rfl rfl rfl rfl rfl rfl rfl rfl rfl rfl rfl rfl rfl ⟨rfl, rfl, rfl, rfl, rfl⟩ rfl rfl rfl rfl ?_))

theorem nextSweep_inv {K : Goals} {ρ : State} (p : Nat) (s : State)  (hI : Inv K ρ s) : Inv K ρ (nextSweep p s) := by
  unfold nextSweep
  repeat' first
    | with_reducible assumption
    | with_reducible apply modPc_inv
    | with_reducible apply startRekey_inv
    | with_reducible refine Inv.foldl _ (fun _ _ _ => ?_) ?_
    | with_reducible refine Inv.foldl2 _ (fun _ _ _ => ?_) ?_
    | with_reducible apply hK
    | with_reducible intro _
    | split

theorem putLlc_inv {K : Goals} {ρ : State} (k : Nat) (l : LlcLine) (s : State)  (hI : Inv K ρ s) : Inv K ρ (putLlc k l s) := by
  unfold putLlc
  repeat' first
    | with_reducible assumption
    | with_reducible refine Inv.foldl _ (fun _ _ _ => ?_) ?_
    | with_reducible refine Inv.foldl2 _ (fun _ _ _ => ?_) ?_
    | with_reducible apply hK
    | with_reducible intro _
    | split
    | fail_if_no_progress (with_reducible (refine Inv.put rfl rfl rfl rfl rfl rfl rfl rfl rfl rfl rfl rfl rfl rfl rfl rfl ⟨rfl, rfl, rfl, rfl, rfl⟩ rfl rfl rfl rfl ?_))

theorem setLlc_inv {K : Goals} {ρ : State} (k : Nat) (l : LlcLine) (s : State)  (hI : Inv K ρ s) : Inv K ρ (setLlc k l s) := by
  unfold setLlc
  repeat' first
    | with_reducible assumption
    | with_reducible refine Inv.foldl _ (fun _ _ _ => ?_) ?_
    | with_reducible refine Inv.foldl2 _ (fun _ _ _ => ?_) ?_
    | with_reducible apply hK
    | with_reducible intro _
    | split
    | fail_if_no_progress (with_reducible (refine Inv.put rfl rfl rfl rfl rfl rfl rfl rfl rfl rfl rfl rfl rfl rfl rfl rfl ⟨rfl, rfl, rfl, rfl, rfl⟩ rfl rfl rfl rfl ?_))

theorem noteRead_inv {K : Goals} {ρ : State} (t k : Nat) (s : State)  (hI : Inv K ρ s) : Inv K ρ (noteRead t k s) := by
  unfold noteRead
  repeat' first
    | with_reducible assumption
    | with_reducible refine Inv.foldl _ (fun _ _ _ => ?_) ?_
    | with_reducible refine Inv.foldl2 _ (fun _ _ _ => ?_) ?_
    | with_reducible apply hK
    | with_reducible intro _
    | split
    | fail_if_no_progress (with_reducible (refine Inv.put rfl rfl rfl rfl rfl rfl rfl rfl rfl rfl rfl rfl rfl rfl rfl rfl ⟨rfl, rfl, rfl, rfl, rfl⟩ rfl rfl rfl rfl ?_))

theorem sendTile_inv {K : Goals} {ρ : State} (t : Nat) (m : HomeMsg) (tag addr : Nat) (data : Line) (poison : Bool) (s : State)  (hI : Inv K ρ s) : Inv K ρ (sendTile t m tag addr data poison s) := by
  unfold sendTile
  repeat' first
    | with_reducible assumption
    | with_reducible apply emit_inv

theorem toTile_inv {K : Goals} {ρ : State} (t : Nat) (m : HomeMsg) (tag k : Nat) (s : State)  (hI : Inv K ρ s) : Inv K ρ (toTile t m tag k s) := by
  unfold toTile
  repeat' first
    | with_reducible assumption
    | with_reducible apply sendTile_inv
    | with_reducible apply noteRead_inv
    | with_reducible refine Inv.foldl _ (fun _ _ _ => ?_) ?_
    | with_reducible refine Inv.foldl2 _ (fun _ _ _ => ?_) ?_
    | with_reducible apply hK
    | with_reducible intro _
    | split

theorem rspErr_inv {K : Goals} {ρ : State} (t tag dpa : Nat) (st : Status) (s : State)  (hI : Inv K ρ s) : Inv K ρ (rspErr t tag dpa st s) := by
  unfold rspErr
  repeat' first
    | with_reducible assumption
    | with_reducible apply sendTile_inv

theorem sendSnoop_inv {K : Goals} {ρ : State} (k : Nat) (s : State) (t : Nat)  (hI : Inv K ρ s) : Inv K ρ (sendSnoop k s t) := by
  unfold sendSnoop
  repeat' first
    | with_reducible assumption
    | with_reducible apply setLlc_inv
    | with_reducible apply toTile_inv
    | with_reducible refine Inv.foldl _ (fun _ _ _ => ?_) ?_
    | with_reducible refine Inv.foldl2 _ (fun _ _ _ => ?_) ?_
    | with_reducible apply hK
    | with_reducible intro _
    | split
    | fail_if_no_progress (with_reducible (refine Inv.put rfl rfl rfl rfl rfl rfl rfl rfl rfl rfl rfl rfl rfl rfl rfl rfl ⟨rfl, rfl, rfl, rfl, rfl⟩ rfl rfl rfl rfl ?_))
    | dsimp only

theorem trySnoop_inv {K : Goals} {ρ : State} (k : Nat) (s : State) (t : Nat)  (hI : Inv K ρ s) : Inv K ρ (trySnoop k s t) := by
  unfold trySnoop
  repeat' first
    | with_reducible assumption
    | with_reducible apply sendSnoop_inv
    | with_reducible refine Inv.foldl _ (fun _ _ _ => ?_) ?_
    | with_reducible refine Inv.foldl2 _ (fun _ _ _ => ?_) ?_
    | with_reducible apply hK
    | with_reducible intro _
    | split

theorem nextSnoop_inv {K : Goals} {ρ : State} (sl t : Nat) (s : State)  (hI : Inv K ρ s) : Inv K ρ (nextSnoop sl t s) := by
  unfold nextSnoop
  repeat' first
    | with_reducible assumption
    | with_reducible apply trySnoop_inv
    | with_reducible refine Inv.foldl _ (fun _ _ _ => ?_) ?_
    | with_reducible refine Inv.foldl2 _ (fun _ _ _ => ?_) ?_
    | with_reducible apply hK
    | with_reducible intro _
    | split

theorem snoopAll_inv {K : Goals} {ρ : State} (k : Nat) (kind : TransKind) (i : HomeItem) (ts : List Nat) (s : State)  (hI : Inv K ρ s) : Inv K ρ (snoopAll k kind i ts s) := by
  unfold snoopAll
  repeat' first
    | with_reducible assumption
    | with_reducible apply setLlc_inv
    | with_reducible apply trySnoop_inv
    | with_reducible refine Inv.foldl _ (fun _ _ _ => ?_) ?_
    | with_reducible refine Inv.foldl2 _ (fun _ _ _ => ?_) ?_
    | with_reducible apply hK
    | with_reducible intro _
    | split
    | fail_if_no_progress (with_reducible (refine Inv.put rfl rfl rfl rfl rfl rfl rfl rfl rfl rfl rfl rfl rfl rfl rfl rfl ⟨rfl, rfl, rfl, rfl, rfl⟩ rfl rfl rfl rfl ?_))

theorem impossible_inv {K : Goals} {ρ : State} (t : Nat) (head : BitVec 128) (s : State)  (hI : Inv K ρ s) : Inv K ρ (impossible t head s) := by
  unfold impossible
  repeat' first
    | with_reducible assumption
    | with_reducible apply report_inv
    | with_reducible refine Inv.foldl _ (fun _ _ _ => ?_) ?_
    | with_reducible refine Inv.foldl2 _ (fun _ _ _ => ?_) ?_
    | with_reducible apply hK
    | with_reducible intro _
    | split
    | fail_if_no_progress (with_reducible (refine Inv.put rfl rfl rfl rfl rfl rfl rfl rfl rfl rfl rfl rfl rfl rfl rfl rfl ⟨rfl, rfl, rfl, rfl, rfl⟩ rfl rfl rfl rfl ?_))

theorem atomAnswer_inv {K : Goals} {ρ : State} (i : HomeItem) (st : Status) (old : Nat) (poison : Bool) (s : State)  (hI : Inv K ρ s) : Inv K ρ (atomAnswer i st old poison s) := by
  unfold atomAnswer
  repeat' first
    | with_reducible assumption
    | with_reducible apply emit_inv
    | with_reducible apply sendTile_inv
    | with_reducible refine Inv.foldl _ (fun _ _ _ => ?_) ?_
    | with_reducible refine Inv.foldl2 _ (fun _ _ _ => ?_) ?_
    | with_reducible apply hK
    | with_reducible intro _
    | split

theorem performAtom_inv {K : Goals} {ρ : State} (k : Nat) (i : HomeItem) (home : Bool) (d : Line) (poison : Bool) (s : State)  (hI : Inv K ρ s) : Inv K ρ (performAtom k i home d poison s) := by
  unfold performAtom
  repeat' first
    | with_reducible assumption
    | with_reducible apply modStep_inv
    | with_reducible apply atomAnswer_inv
    | with_reducible apply setLlc_inv
    | with_reducible apply writeMem_inv
    | with_reducible refine Inv.foldl _ (fun _ _ _ => ?_) ?_
    | with_reducible refine Inv.foldl2 _ (fun _ _ _ => ?_) ?_
    | with_reducible apply hK
    | with_reducible intro _
    | split
    | fail_if_no_progress (with_reducible (refine Inv.put rfl rfl rfl rfl rfl rfl rfl rfl rfl rfl rfl rfl rfl rfl rfl rfl ⟨rfl, rfl, rfl, rfl, rfl⟩ rfl rfl rfl rfl ?_))
    | dsimp only

theorem retainLine_inv {K : Goals} {ρ : State} (n k : Nat) (s : State)  (hI : Inv K ρ s) : Inv K ρ (retainLine n k s) := by
  unfold retainLine
  repeat' first
    | with_reducible assumption
    | with_reducible apply setLlc_inv
    | with_reducible refine Inv.foldl _ (fun _ _ _ => ?_) ?_
    | with_reducible refine Inv.foldl2 _ (fun _ _ _ => ?_) ?_
    | with_reducible apply hK
    | with_reducible intro _
    | split
    | fail_if_no_progress (with_reducible (refine Inv.put rfl rfl rfl rfl rfl rfl rfl rfl rfl rfl rfl rfl rfl rfl rfl rfl ⟨rfl, rfl, rfl, rfl, rfl⟩ rfl rfl rfl rfl ?_))
    | dsimp only

theorem offerStash_inv {K : Goals} {ρ : State} (k : Nat) (i : HomeItem) (s : State)  (hI : Inv K ρ s) : Inv K ρ (offerStash k i s) := by
  unfold offerStash
  repeat' first
    | with_reducible assumption
    | with_reducible apply snoopAll_inv
    | with_reducible refine Inv.foldl _ (fun _ _ _ => ?_) ?_
    | with_reducible refine Inv.foldl2 _ (fun _ _ _ => ?_) ?_
    | with_reducible apply hK
    | with_reducible intro _
    | split
    | fail_if_no_progress (with_reducible (refine Inv.put rfl rfl rfl rfl rfl rfl rfl rfl rfl rfl rfl rfl rfl rfl rfl rfl ⟨rfl, rfl, rfl, rfl, rfl⟩ rfl rfl rfl rfl ?_))
    | dsimp only

theorem stepGot_inv {K : Goals} {ρ : State} (k id : Nat) (s : State)  (hI : Inv K ρ s) : Inv K ρ (stepGot k id s) := by
  unfold stepGot
  repeat' first
    | with_reducible assumption
    | with_reducible apply modStep_inv
    | with_reducible apply retainLine_inv
    | with_reducible refine Inv.foldl _ (fun _ _ _ => ?_) ?_
    | with_reducible refine Inv.foldl2 _ (fun _ _ _ => ?_) ?_
    | with_reducible apply hK
    | with_reducible intro _
    | split
    | fail_if_no_progress (with_reducible (refine Inv.put rfl rfl rfl rfl rfl rfl rfl rfl rfl rfl rfl rfl rfl rfl rfl rfl ⟨rfl, rfl, rfl, rfl, rfl⟩ rfl rfl rfl rfl ?_))
    | dsimp only

theorem answerRead_inv {K : Goals} {ρ : State} (k : Nat) (i : HomeItem) (s : State)  (hI : Inv K ρ s) : Inv K ρ (answerRead k i s) := by
  unfold answerRead
  repeat' first
    | with_reducible assumption
    | with_reducible apply emit_inv
    | with_reducible apply stepGot_inv
    | with_reducible refine Inv.foldl _ (fun _ _ _ => ?_) ?_
    | with_reducible refine Inv.foldl2 _ (fun _ _ _ => ?_) ?_
    | with_reducible apply hK
    | with_reducible intro _
    | split

theorem applyWrite_inv {K : Goals} {ρ : State} (k : Nat) (i : HomeItem) (s : State)  (hI : Inv K ρ s) : Inv K ρ (applyWrite k i s) := by
  unfold applyWrite
  repeat' first
    | with_reducible assumption
    | with_reducible apply setLlc_inv
    | with_reducible apply offerStash_inv

theorem dropLine_inv {K : Goals} {ρ : State} (k : Nat) (s : State)  (hI : Inv K ρ s) : Inv K ρ (dropLine k s) := by
  unfold dropLine
  repeat' first
    | with_reducible assumption
    | with_reducible apply writeMem_inv
    | with_reducible apply setLlc_inv
    | with_reducible refine Inv.foldl _ (fun _ _ _ => ?_) ?_
    | with_reducible refine Inv.foldl2 _ (fun _ _ _ => ?_) ?_
    | with_reducible apply hK
    | with_reducible intro _
    | split

theorem endRecover_inv {K : Goals} {ρ : State} (k : Nat) (s : State)  (hI : Inv K ρ s) : Inv K ρ (endRecover k s) := by
  unfold endRecover
  repeat' first
    | with_reducible assumption
    | with_reducible apply writeMem_inv
    | with_reducible apply setLlc_inv
    | with_reducible apply report_inv
    | with_reducible refine Inv.foldl _ (fun _ _ _ => ?_) ?_
    | with_reducible refine Inv.foldl2 _ (fun _ _ _ => ?_) ?_
    | with_reducible apply hK
    | with_reducible intro _
    | split
    | fail_if_no_progress (with_reducible (refine Inv.put rfl rfl rfl rfl rfl rfl rfl rfl rfl rfl rfl rfl rfl rfl rfl rfl ⟨rfl, rfl, rfl, rfl, rfl⟩ rfl rfl rfl rfl ?_))

theorem finishItem_inv {K : Goals} {ρ : State} (k : Nat) (i : HomeItem) (kind : TransKind) (kept : Option Nat) (s : State)  (hI : Inv K ρ s) : Inv K ρ (finishItem k i kind kept s) := by
  unfold finishItem
  repeat' first
    | with_reducible assumption
    | with_reducible apply toTile_inv
    | with_reducible apply setLlc_inv
    | with_reducible apply performAtom_inv
    | with_reducible apply answerRead_inv
    | with_reducible apply applyWrite_inv
    | with_reducible apply putLlc_inv
    | with_reducible apply dropLine_inv
    | with_reducible apply endRecover_inv
    | with_reducible refine Inv.foldl _ (fun _ _ _ => ?_) ?_
    | with_reducible refine Inv.foldl2 _ (fun _ _ _ => ?_) ?_
    | with_reducible apply hK
    | with_reducible intro _
    | split

theorem invalidate_inv {K : Goals} {ρ : State} (k : Nat) (i : HomeItem) (ts : List Nat) (s : State)  (hI : Inv K ρ s) : Inv K ρ (invalidate k i ts s) := by
  unfold invalidate
  repeat' first
    | with_reducible assumption
    | with_reducible apply setLlc_inv
    | with_reducible apply finishItem_inv
    | with_reducible apply snoopAll_inv
    | with_reducible refine Inv.foldl _ (fun _ _ _ => ?_) ?_
    | with_reducible refine Inv.foldl2 _ (fun _ _ _ => ?_) ?_
    | with_reducible apply hK
    | with_reducible intro _
    | split
    | fail_if_no_progress (with_reducible (refine Inv.put rfl rfl rfl rfl rfl rfl rfl rfl rfl rfl rfl rfl rfl rfl rfl rfl ⟨rfl, rfl, rfl, rfl, rfl⟩ rfl rfl rfl rfl ?_))
    | dsimp only

theorem downgrade_inv {K : Goals} {ρ : State} (k : Nat) (i : HomeItem) (s : State)  (hI : Inv K ρ s) : Inv K ρ (downgrade k i s) := by
  unfold downgrade
  repeat' first
    | with_reducible assumption
    | with_reducible apply setLlc_inv
    | with_reducible apply finishItem_inv
    | with_reducible apply snoopAll_inv
    | with_reducible refine Inv.foldl _ (fun _ _ _ => ?_) ?_
    | with_reducible refine Inv.foldl2 _ (fun _ _ _ => ?_) ?_
    | with_reducible apply hK
    | with_reducible intro _
    | split
    | fail_if_no_progress (with_reducible (refine Inv.put rfl rfl rfl rfl rfl rfl rfl rfl rfl rfl rfl rfl rfl rfl rfl rfl ⟨rfl, rfl, rfl, rfl, rfl⟩ rfl rfl rfl rfl ?_))
    | dsimp only

theorem wbAck_inv {K : Goals} {ρ : State} (i : HomeItem) (s : State)  (hI : Inv K ρ s) : Inv K ρ (wbAck i s) := by
  unfold wbAck
  repeat' first
    | with_reducible assumption
    | with_reducible apply sendTile_inv

theorem fetchLine_inv {K : Goals} {ρ : State} (k : Nat) (i : HomeItem) (s : State)  (hI : Inv K ρ s) : Inv K ρ (fetchLine k i s) := by
  unfold fetchLine
  repeat' first
    | with_reducible assumption
    | with_reducible apply setLlc_inv

theorem strange_inv {K : Goals} {ρ : State} (code : Nat) (i : HomeItem) (s : State)  (hI : Inv K ρ s) : Inv K ρ (strange code i s) := by
  unfold strange
  repeat' first
    | with_reducible assumption
    | with_reducible apply impossible_inv

theorem begin__inv {K : Goals} {ρ : State} (k : Nat) (i : HomeItem) (s : State)  (hI : Inv K ρ s) : Inv K ρ (begin_ k i s) := by
  unfold begin_
  repeat' first
    | with_reducible assumption
    | with_reducible apply fetchLine_inv
    | with_reducible apply finishItem_inv
    | with_reducible apply toTile_inv
    | with_reducible apply setLlc_inv
    | with_reducible apply downgrade_inv
    | with_reducible apply invalidate_inv
    | with_reducible apply strange_inv
    | with_reducible apply performAtom_inv
    | with_reducible apply wbAck_inv
    | with_reducible apply answerRead_inv
    | with_reducible apply applyWrite_inv
    | with_reducible apply dropLine_inv
    | with_reducible refine Inv.foldl _ (fun _ _ _ => ?_) ?_
    | with_reducible refine Inv.foldl2 _ (fun _ _ _ => ?_) ?_
    | with_reducible apply hK
    | with_reducible intro _
    | split
    | fail_if_no_progress (with_reducible (refine Inv.put rfl rfl rfl rfl rfl rfl rfl rfl rfl rfl rfl rfl rfl rfl rfl rfl ⟨rfl, rfl, rfl, rfl, rfl⟩ rfl rfl rfl rfl ?_))
    | dsimp only

theorem tidyLine_inv {K : Goals} {ρ : State} (k : Nat) (s : State)  (hI : Inv K ρ s) : Inv K ρ (tidyLine k s) := by
  unfold tidyLine
  repeat' first
    | with_reducible assumption
    | with_reducible refine Inv.foldl _ (fun _ _ _ => ?_) ?_
    | with_reducible refine Inv.foldl2 _ (fun _ _ _ => ?_) ?_
    | with_reducible apply hK
    | with_reducible intro _
    | split
    | fail_if_no_progress (with_reducible (refine Inv.put rfl rfl rfl rfl rfl rfl rfl rfl rfl rfl rfl rfl rfl rfl rfl rfl ⟨rfl, rfl, rfl, rfl, rfl⟩ rfl rfl rfl rfl ?_))
    | dsimp only

theorem serveItem_inv {K : Goals} {ρ : State} (k : Nat) (i : HomeItem) (s : State)  (hI : Inv K ρ s) : Inv K ρ (serveItem k i s) := by
  unfold serveItem
  repeat' first
    | with_reducible assumption
    | with_reducible apply fetchLine_inv
    | with_reducible apply tidyLine_inv
    | with_reducible apply begin__inv
    | with_reducible refine Inv.foldl _ (fun _ _ _ => ?_) ?_
    | with_reducible refine Inv.foldl2 _ (fun _ _ _ => ?_) ?_
    | with_reducible apply hK
    | with_reducible intro _
    | split

theorem drain_inv {K : Goals} {ρ : State} (k n : Nat) (s : State) (hI : Inv K ρ s) : Inv K ρ (drain k n s) := by
  induction n generalizing s with
  | zero => exact hI
  | succ n ih =>
    unfold drain
    repeat' first
      | with_reducible assumption
      | with_reducible apply ih
      | with_reducible apply serveItem_inv
      | with_reducible apply putLlc_inv
      | with_reducible refine Inv.foldl _ (fun _ _ _ => ?_) ?_
      | with_reducible refine Inv.foldl2 _ (fun _ _ _ => ?_) ?_
      | with_reducible apply hK
      | with_reducible intro _
      | split
      | fail_if_no_progress (with_reducible (refine Inv.put rfl rfl rfl rfl rfl rfl rfl rfl rfl rfl rfl rfl rfl rfl rfl rfl ⟨rfl, rfl, rfl, rfl, rfl⟩ rfl rfl rfl rfl ?_))
      | dsimp only

theorem drainAll_inv {K : Goals} {ρ : State} (k : Nat) (s : State) (hI : Inv K ρ s) : Inv K ρ (drainAll k s) := by
  unfold drainAll
  exact drain_inv k _ s hI

theorem arrive_inv {K : Goals} {ρ : State} (k : Nat) (i : HomeItem) (s : State)  (hI : Inv K ρ s) : Inv K ρ (arrive k i s) := by
  unfold arrive
  repeat' first
    | with_reducible assumption
    | with_reducible apply setLlc_inv
    | with_reducible apply serveItem_inv
    | with_reducible refine Inv.foldl _ (fun _ _ _ => ?_) ?_
    | with_reducible refine Inv.foldl2 _ (fun _ _ _ => ?_) ?_
    | with_reducible apply hK
    | with_reducible intro _
    | split
    | fail_if_no_progress (with_reducible (refine Inv.put rfl rfl rfl rfl rfl rfl rfl rfl rfl rfl rfl rfl rfl rfl rfl rfl ⟨rfl, rfl, rfl, rfl, rfl⟩ rfl rfl rfl rfl ?_))
    | dsimp only

theorem arriveCommit_inv {K : Goals} {ρ : State} (k : Nat) (i : HomeItem) (s : State)  (hI : Inv K ρ s) : Inv K ρ (arriveCommit k i s) := by
  unfold arriveCommit
  repeat' first
    | with_reducible assumption
    | with_reducible apply serveItem_inv
    | with_reducible apply setLlc_inv
    | with_reducible refine Inv.foldl _ (fun _ _ _ => ?_) ?_
    | with_reducible refine Inv.foldl2 _ (fun _ _ _ => ?_) ?_
    | with_reducible apply hK
    | with_reducible intro _
    | split
    | fail_if_no_progress (with_reducible (refine Inv.put rfl rfl rfl rfl rfl rfl rfl rfl rfl rfl rfl rfl rfl rfl rfl rfl ⟨rfl, rfl, rfl, rfl, rfl⟩ rfl rfl rfl rfl ?_))
    | dsimp only

theorem evict_inv {K : Goals} {ρ : State} (v : Nat) (s : State)  (hI : Inv K ρ s) : Inv K ρ (evict v s) := by
  unfold evict
  repeat' first
    | with_reducible assumption
    | with_reducible apply begin__inv
    | with_reducible refine Inv.foldl _ (fun _ _ _ => ?_) ?_
    | with_reducible refine Inv.foldl2 _ (fun _ _ _ => ?_) ?_
    | with_reducible apply hK
    | with_reducible intro _
    | split
    | fail_if_no_progress (with_reducible (refine Inv.put rfl rfl rfl rfl rfl rfl rfl rfl rfl rfl rfl rfl rfl rfl rfl rfl ⟨rfl, rfl, rfl, rfl, rfl⟩ rfl rfl rfl rfl ?_))
    | dsimp only

theorem place_inv {K : Goals} {ρ : State} (k dpa way : Nat) (s : State)  (hI : Inv K ρ s) : Inv K ρ (place k dpa way s) := by
  unfold place
  repeat' first
    | with_reducible assumption
    | with_reducible apply evict_inv
    | with_reducible apply putLlc_inv
    | with_reducible refine Inv.foldl _ (fun _ _ _ => ?_) ?_
    | with_reducible refine Inv.foldl2 _ (fun _ _ _ => ?_) ?_
    | with_reducible apply hK
    | with_reducible intro _
    | split
    | fail_if_no_progress (with_reducible (refine Inv.put rfl rfl rfl rfl rfl rfl rfl rfl rfl rfl rfl rfl rfl rfl rfl rfl ⟨rfl, rfl, rfl, rfl, rfl⟩ rfl rfl rfl rfl ?_))
    | dsimp only

theorem placeZero_inv {K : Goals} {ρ : State} (k : Nat) (s : State)  (hI : Inv K ρ s) : Inv K ρ (placeZero k s) := by
  unfold placeZero
  repeat' first
    | with_reducible assumption
    | with_reducible apply setLlc_inv

theorem llcError_inv {K : Goals} {ρ : State} (k : Nat) (inj : Bool) (s : State)  (hI : Inv K ρ s) : Inv K ρ (llcError k inj s) := by
  unfold llcError
  repeat' first
    | with_reducible assumption
    | with_reducible apply report_inv
    | with_reducible apply setLlc_inv
    | with_reducible apply putLlc_inv
    | with_reducible refine Inv.foldl _ (fun _ _ _ => ?_) ?_
    | with_reducible refine Inv.foldl2 _ (fun _ _ _ => ?_) ?_
    | with_reducible apply hK
    | with_reducible intro _
    | split
    | fail_if_no_progress (with_reducible (refine Inv.put rfl rfl rfl rfl rfl rfl rfl rfl rfl rfl rfl rfl rfl rfl rfl rfl ⟨rfl, rfl, rfl, rfl, rfl⟩ rfl rfl rfl rfl ?_))
    | dsimp only

theorem reachEntry_inv {K : Goals} {ρ : State} (n k : Nat) (a : ArrayRead) (i : HomeItem) (go : Nat → HomeItem → State → State) (s : State) (hK : ∀ x0 x1 t, Inv K ρ t → Inv K ρ (go x0 x1 t)) (hI : Inv K ρ s) : Inv K ρ (reachEntry n k a i go s) := by
  unfold reachEntry
  repeat' first
    | with_reducible assumption
    | with_reducible refine injected_invE (by assumption) ?_
    | with_reducible apply injected_inv
    | with_reducible apply drainAll_inv
    | with_reducible apply begin__inv
    | with_reducible apply putLlc_inv
    | with_reducible apply llcError_inv
    | with_reducible refine Inv.foldl _ (fun _ _ _ => ?_) ?_
    | with_reducible refine Inv.foldl2 _ (fun _ _ _ => ?_) ?_
    | with_reducible apply hK
    | with_reducible intro _
    | split
    | fail_if_no_progress (with_reducible (refine Inv.put rfl rfl rfl rfl rfl rfl rfl rfl rfl rfl rfl rfl rfl rfl rfl rfl ⟨rfl, rfl, rfl, rfl, rfl⟩ rfl rfl rfl rfl ?_))
    | dsimp only

theorem openLine_inv {K : Goals} {ρ : State} (n k dpa way : Nat) (victim : Option Nat) (a : ArrayRead) (i : HomeItem) (s : State)  (hI : Inv K ρ s) : Inv K ρ (openLine n k dpa way victim a i s).2 := by
  unfold openLine
  repeat' first
    | with_reducible assumption
    | with_reducible refine access_invE (by assumption) ?_
    | with_reducible apply access_inv
    | with_reducible apply performAtom_inv
    | with_reducible apply place_inv
    | with_reducible apply reachEntry_inv
    | with_reducible apply arrive_inv
    | with_reducible apply placeZero_inv
    | with_reducible refine Inv.foldl _ (fun _ _ _ => ?_) ?_
    | with_reducible refine Inv.foldl2 _ (fun _ _ _ => ?_) ?_
    | with_reducible apply hK
    | with_reducible intro _
    | split
    | fail_if_no_progress (with_reducible (refine Inv.put rfl rfl rfl rfl rfl rfl rfl rfl rfl rfl rfl rfl rfl rfl rfl rfl ⟨rfl, rfl, rfl, rfl, rfl⟩ rfl rfl rfl rfl ?_))
    | dsimp only

theorem openLine_invE {K : Goals} {ρ : State} {n k dpa way : Nat} {victim : Option Nat} {a : ArrayRead} {i : HomeItem} {s : State} {xa xu} (hE : openLine n k dpa way victim a i s = (xa, xu))  (hI : Inv K ρ s) : Inv K ρ xu := by
  have h := openLine_inv n k dpa way victim a i s  hI
  rw [hE] at h
  exact h

theorem staleTile_inv {K : Goals} {ρ : State} (t : Nat) (s : State)  (hI : Inv K ρ s) : Inv K ρ (staleTile t s) := by
  unfold staleTile
  repeat' first
    | with_reducible assumption
    | with_reducible refine Inv.foldl _ (fun _ _ _ => ?_) ?_
    | with_reducible refine Inv.foldl2 _ (fun _ _ _ => ?_) ?_
    | with_reducible apply hK
    | with_reducible intro _
    | split
    | fail_if_no_progress (with_reducible (refine Inv.put rfl rfl rfl rfl rfl rfl rfl rfl rfl rfl rfl rfl rfl rfl rfl rfl ⟨rfl, rfl, rfl, rfl, rfl⟩ rfl rfl rfl rfl ?_))

theorem atPort_inv {K : Goals} {ρ : State} (t gen : Nat) (k : State → State) (s : State) (hK : ∀ t, Inv K ρ t → Inv K ρ (k t)) (hI : Inv K ρ s) : Inv K ρ (atPort t gen k s) := by
  unfold atPort
  repeat' first
    | with_reducible assumption
    | with_reducible apply staleTile_inv
    | with_reducible refine Inv.foldl _ (fun _ _ _ => ?_) ?_
    | with_reducible refine Inv.foldl2 _ (fun _ _ _ => ?_) ?_
    | with_reducible apply hK
    | with_reducible intro _
    | split

theorem message_inv {K : Goals} {ρ : State} (op : Nat) (m : TileMsg) (k : State → State) (s : State) (hK : ∀ t, Inv K ρ t → Inv K ρ (k t)) (hI : Inv K ρ s) : Inv K ρ (message op m k s) := by
  unfold message
  repeat' first
    | with_reducible assumption
    | with_reducible apply atPort_inv
    | with_reducible apply impossible_inv
    | with_reducible refine Inv.foldl _ (fun _ _ _ => ?_) ?_
    | with_reducible refine Inv.foldl2 _ (fun _ _ _ => ?_) ?_
    | with_reducible apply hK
    | with_reducible intro _
    | split

theorem homeRequest_inv {K : Goals} {ρ : State} (r : BackReq) (n k : Nat) (s : State)  (hI : Inv K ρ s) : Inv K ρ (homeRequest r n k s) := by
  unfold homeRequest
  repeat' first
    | with_reducible assumption
    | with_reducible apply wbAck_inv
    | with_reducible apply reachEntry_inv
    | with_reducible apply arrive_inv
    | with_reducible apply rspErr_inv
    | with_reducible refine openLine_invE (by assumption) ?_
    | with_reducible apply openLine_inv
    | with_reducible refine Inv.foldl _ (fun _ _ _ => ?_) ?_
    | with_reducible refine Inv.foldl2 _ (fun _ _ _ => ?_) ?_
    | with_reducible apply hK
    | with_reducible intro _
    | split
    | fail_if_no_progress (with_reducible (refine Inv.put rfl rfl rfl rfl rfl rfl rfl rfl rfl rfl rfl rfl rfl rfl rfl rfl ⟨rfl, rfl, rfl, rfl, rfl⟩ rfl rfl rfl rfl ?_))
    | dsimp only

theorem takeRequest_inv {K : Goals} {ρ : State} (r : BackReq) (s : State)  (hI : Inv K ρ s) : Inv K ρ (takeRequest r s) := by
  unfold takeRequest
  repeat' first
    | with_reducible assumption
    | with_reducible apply rspErr_inv
    | with_reducible apply homeRequest_inv
    | with_reducible refine Inv.foldl _ (fun _ _ _ => ?_) ?_
    | with_reducible refine Inv.foldl2 _ (fun _ _ _ => ?_) ?_
    | with_reducible apply hK
    | with_reducible intro _
    | split
    | fail_if_no_progress (with_reducible (refine Inv.put rfl rfl rfl rfl rfl rfl rfl rfl rfl rfl rfl rfl rfl rfl rfl rfl ⟨rfl, rfl, rfl, rfl, rfl⟩ rfl rfl rfl rfl ?_))
    | dsimp only

theorem retryBacked_inv {K : Goals} {ρ : State} (s : State)  (hI : Inv K ρ s) : Inv K ρ (retryBacked s) := by
  unfold retryBacked
  repeat' first
    | with_reducible assumption
    | with_reducible apply atPort_inv
    | with_reducible apply takeRequest_inv
    | with_reducible refine Inv.foldl _ (fun _ _ _ => ?_) ?_
    | with_reducible refine Inv.foldl2 _ (fun _ _ _ => ?_) ?_
    | with_reducible apply hK
    | with_reducible intro _
    | split
    | fail_if_no_progress (with_reducible (refine Inv.put rfl rfl rfl rfl rfl rfl rfl rfl rfl rfl rfl rfl rfl rfl rfl rfl ⟨rfl, rfl, rfl, rfl, rfl⟩ rfl rfl rfl rfl ?_))

theorem writeLine_inv {K : Goals} {ρ : State} (n dpa off : Nat) (bs : List Byte) (poison isStep : Bool) (stash : Option Nat) (s : State)  (hI : Inv K ρ s) : Inv K ρ (writeLine n dpa off bs poison isStep stash s).2 := by
  unfold writeLine
  repeat' first
    | with_reducible assumption
    | with_reducible refine access_invE (by assumption) ?_
    | with_reducible apply access_inv
    | with_reducible apply place_inv
    | with_reducible apply reachEntry_inv
    | with_reducible apply arriveCommit_inv
    | with_reducible apply arrive_inv
    | with_reducible refine Inv.foldl _ (fun _ _ _ => ?_) ?_
    | with_reducible refine Inv.foldl2 _ (fun _ _ _ => ?_) ?_
    | with_reducible apply hK
    | with_reducible intro _
    | split

theorem writeLine_invE {K : Goals} {ρ : State} {n dpa off : Nat} {bs : List Byte} {poison isStep : Bool} {stash : Option Nat} {s : State} {xa xu} (hE : writeLine n dpa off bs poison isStep stash s = (xa, xu))  (hI : Inv K ρ s) : Inv K ρ xu := by
  have h := writeLine_inv n dpa off bs poison isStep stash s  hI
  rw [hE] at h
  exact h

theorem applyAtom_inv {K : Goals} {ρ : State} (k off : Nat) (op : AtomOp) (s : State)  (hI : Inv K ρ s) : Inv K ρ (applyAtom k off op s) := by
  unfold applyAtom
  repeat' first
    | with_reducible assumption
    | with_reducible apply writeMem_inv
    | with_reducible apply arriveCommit_inv
    | with_reducible refine Inv.foldl _ (fun _ _ _ => ?_) ?_
    | with_reducible refine Inv.foldl2 _ (fun _ _ _ => ?_) ?_
    | with_reducible apply hK
    | with_reducible intro _
    | split
    | fail_if_no_progress (with_reducible (refine Inv.put rfl rfl rfl rfl rfl rfl rfl rfl rfl rfl rfl rfl rfl rfl rfl rfl ⟨rfl, rfl, rfl, rfl, rfl⟩ rfl rfl rfl rfl ?_))
    | dsimp only

theorem storeDva_inv {K : Goals} {ρ : State} (n : Nat) (xs : List Xlat) (dva : Nat) (bs : List Byte) (isStep : Bool) (stash : Option Nat) (s : State)  (hI : Inv K ρ s) : Inv K ρ (storeDva n xs dva bs isStep stash s).2 := by
  unfold storeDva
  repeat' first
    | with_reducible assumption
    | with_reducible refine writeLine_invE (by assumption) ?_
    | with_reducible apply writeLine_inv
    | with_reducible refine Inv.foldl _ (fun _ _ _ => ?_) ?_
    | with_reducible refine Inv.foldl2 _ (fun _ _ _ => ?_) ?_
    | with_reducible apply hK
    | with_reducible intro _
    | split

theorem storeDva_invE {K : Goals} {ρ : State} {n : Nat} {xs : List Xlat} {dva : Nat} {bs : List Byte} {isStep : Bool} {stash : Option Nat} {s : State} {xa xu} (hE : storeDva n xs dva bs isStep stash s = (xa, xu))  (hI : Inv K ρ s) : Inv K ρ xu := by
  have h := storeDva_inv n xs dva bs isStep stash s  hI
  rw [hE] at h
  exact h

theorem writeDva_inv {K : Goals} {ρ : State} (n : Nat) (xs : List Xlat) (dva : Nat) (bs : List Byte) (isStep : Bool) (stash : Option Nat) (s : State)  (hI : Inv K ρ s) : Inv K ρ (writeDva n xs dva bs isStep stash s) := by
  unfold writeDva
  repeat' first
    | with_reducible assumption
    | with_reducible refine storeDva_invE (by assumption) ?_
    | with_reducible apply storeDva_inv

theorem askLine_inv {K : Goals} {ρ : State} (id n : Nat) (s : State) (x : Nat × Nat)  (hI : Inv K ρ s) : Inv K ρ (askLine id n s x) := by
  unfold askLine
  repeat' first
    | with_reducible assumption
    | with_reducible apply modStep_inv
    | with_reducible refine openLine_invE (by assumption) ?_
    | with_reducible apply openLine_inv
    | with_reducible refine Inv.foldl _ (fun _ _ _ => ?_) ?_
    | with_reducible refine Inv.foldl2 _ (fun _ _ _ => ?_) ?_
    | with_reducible apply hK
    | with_reducible intro _
    | split
    | fail_if_no_progress (with_reducible (refine Inv.put rfl rfl rfl rfl rfl rfl rfl rfl rfl rfl rfl rfl rfl rfl rfl rfl ⟨rfl, rfl, rfl, rfl, rfl⟩ rfl rfl rfl rfl ?_))
    | dsimp only

theorem askLines_inv {K : Goals} {ρ : State} (id n : Nat) (l : List (Nat × Nat)) (s : State)  (hI : Inv K ρ s) : Inv K ρ (askLines id n l s).2 := by
  unfold askLines
  repeat' first
    | with_reducible assumption
    | with_reducible apply askLine_inv
    | with_reducible apply modStep_inv
    | with_reducible refine Inv.foldl _ (fun _ _ _ => ?_) ?_

theorem askLines_invE {K : Goals} {ρ : State} {id n : Nat} {l : List (Nat × Nat)} {s : State} {xa xu} (hE : askLines id n l s = (xa, xu))  (hI : Inv K ρ s) : Inv K ρ xu := by
  have h := askLines_inv id n l s  hI
  rw [hE] at h
  exact h

theorem controlLine_inv {K : Goals} {ρ : State} (n : Nat) (acc : Bool × State) (x : Nat × Nat) (hI : Inv K ρ acc.2) : Inv K ρ (controlLine n acc x).2 := by
  unfold controlLine
  repeat' first
    | with_reducible assumption
    | with_reducible refine openLine_invE (by assumption) ?_
    | with_reducible apply openLine_inv
    | with_reducible refine Inv.foldl _ (fun _ _ _ => ?_) ?_
    | with_reducible refine Inv.foldl2 _ (fun _ _ _ => ?_) ?_
    | with_reducible apply hK
    | with_reducible intro _
    | split
    | fail_if_no_progress (with_reducible (refine Inv.put rfl rfl rfl rfl rfl rfl rfl rfl rfl rfl rfl rfl rfl rfl rfl rfl ⟨rfl, rfl, rfl, rfl, rfl⟩ rfl rfl rfl rfl ?_))
    | dsimp only

theorem readNow_inv {K : Goals} {ρ : State} (n : Nat) (xs : List Xlat) (dva len : Nat) (s : State)  (hI : Inv K ρ s) : Inv K ρ (readNow n xs dva len s).2 := by
  unfold readNow
  repeat' first
    | with_reducible assumption
    | with_reducible apply controlLine_inv
    | with_reducible refine Inv.foldl _ (fun _ _ _ => ?_) ?_
    | with_reducible refine Inv.foldl2 _ (fun _ _ _ => ?_) ?_
    | with_reducible apply hK
    | with_reducible intro _
    | split
    | fail_if_no_progress (with_reducible (refine Inv.put rfl rfl rfl rfl rfl rfl rfl rfl rfl rfl rfl rfl rfl rfl rfl rfl ⟨rfl, rfl, rfl, rfl, rfl⟩ rfl rfl rfl rfl ?_))
    | dsimp only

theorem readNow_invE {K : Goals} {ρ : State} {n : Nat} {xs : List Xlat} {dva len : Nat} {s : State} {xa xu} (hE : readNow n xs dva len s = (xa, xu))  (hI : Inv K ρ s) : Inv K ρ xu := by
  have h := readNow_inv n xs dva len s  hI
  rw [hE] at h
  exact h

theorem bringIn_inv {K : Goals} {ρ : State} (l : List (Nat × Nat × Nat)) (s : State)  (hI : Inv K ρ s) : Inv K ρ (bringIn l s).2 := by
  unfold bringIn
  repeat' first
    | with_reducible assumption
    | with_reducible apply controlLine_inv
    | with_reducible refine Inv.foldl _ (fun _ _ _ => ?_) ?_

theorem bringIn_invE {K : Goals} {ρ : State} {l : List (Nat × Nat × Nat)} {s : State} {xa xu} (hE : bringIn l s = (xa, xu))  (hI : Inv K ρ s) : Inv K ρ xu := by
  have h := bringIn_inv l s  hI
  rw [hE] at h
  exact h

theorem countWalks_inv {K : Goals} {ρ : State} (n : Nat) (v : HostView) (rngs : List Rng) (s : State)  (hI : Inv K ρ s) : Inv K ρ (countWalks n v rngs s) := by
  unfold countWalks
  repeat' first
    | with_reducible assumption
    | with_reducible refine Inv.foldl _ (fun _ _ _ => ?_) ?_
    | with_reducible refine Inv.foldl2 _ (fun _ _ _ => ?_) ?_
    | with_reducible apply hK
    | with_reducible intro _
    | split
    | fail_if_no_progress (with_reducible (refine Inv.put rfl rfl rfl rfl rfl rfl rfl rfl rfl rfl rfl rfl rfl rfl rfl rfl ⟨rfl, rfl, rfl, rfl, rfl⟩ rfl rfl rfl rfl ?_))

theorem modVfTu_inv {K : Goals} {ρ : State} (n : Nat) (f : VfTu → VfTu) (s : State)  (hI : Inv K ρ s) : Inv K ρ (modVfTu n f s) := by
  unfold modVfTu
  repeat' first
    | with_reducible assumption
    | with_reducible refine Inv.foldl _ (fun _ _ _ => ?_) ?_
    | with_reducible refine Inv.foldl2 _ (fun _ _ _ => ?_) ?_
    | with_reducible apply hK
    | with_reducible intro _
    | split
    | fail_if_no_progress (with_reducible (refine Inv.put rfl rfl rfl rfl rfl rfl rfl rfl rfl rfl rfl rfl rfl rfl rfl rfl ⟨rfl, rfl, rfl, rfl, rfl⟩ rfl rfl rfl rfl ?_))

theorem evWrite_inv {K : Goals} {ρ : State} (n : Nat) (r : EvRec) (s : State)  (hI : Inv K ρ s) : Inv K ρ (evWrite n r s) := by
  unfold evWrite
  repeat' first
    | with_reducible assumption
    | with_reducible apply emit_inv
    | with_reducible apply modVfTu_inv
    | with_reducible apply msix_inv
    | with_reducible refine Inv.foldl _ (fun _ _ _ => ?_) ?_
    | with_reducible refine Inv.foldl2 _ (fun _ _ _ => ?_) ?_
    | with_reducible apply hK
    | with_reducible intro _
    | split
    | fail_if_no_progress (with_reducible (refine Inv.put rfl rfl rfl rfl rfl rfl rfl rfl rfl rfl rfl rfl rfl rfl rfl rfl ⟨rfl, rfl, rfl, rfl, rfl⟩ rfl rfl rfl rfl ?_))
    | dsimp only

theorem evPush_inv {K : Goals} {ρ : State} (n : Nat) (r : EvRec) (s : State)  (hI : Inv K ρ s) : Inv K ρ (evPush n r s) := by
  unfold evPush
  repeat' first
    | with_reducible assumption
    | with_reducible apply modVfTu_inv
    | with_reducible apply evWrite_inv
    | with_reducible refine Inv.foldl _ (fun _ _ _ => ?_) ?_
    | with_reducible refine Inv.foldl2 _ (fun _ _ _ => ?_) ?_
    | with_reducible apply hK
    | with_reducible intro _
    | split
    | fail_if_no_progress (with_reducible (refine Inv.put rfl rfl rfl rfl rfl rfl rfl rfl rfl rfl rfl rfl rfl rfl rfl rfl ⟨rfl, rfl, rfl, rfl, rfl⟩ rfl rfl rfl rfl ?_))
    | dsimp only

theorem evDrain_inv {K : Goals} {ρ : State} (n k : Nat) (s : State) (hI : Inv K ρ s) : Inv K ρ (evDrain n k s) := by
  induction k generalizing s with
  | zero => exact hI
  | succ k ih =>
    unfold evDrain
    repeat' first
      | with_reducible assumption
      | with_reducible apply ih
      | with_reducible apply evWrite_inv
      | with_reducible apply modVfTu_inv
      | with_reducible refine Inv.foldl _ (fun _ _ _ => ?_) ?_
      | with_reducible refine Inv.foldl2 _ (fun _ _ _ => ?_) ?_
      | with_reducible apply hK
      | with_reducible intro _
      | split
      | fail_if_no_progress (with_reducible (refine Inv.put rfl rfl rfl rfl rfl rfl rfl rfl rfl rfl rfl rfl rfl rfl rfl rfl ⟨rfl, rfl, rfl, rfl, rfl⟩ rfl rfl rfl rfl ?_))
      | dsimp only

theorem setObj_inv {K : Goals} {ρ : State} (n j : Nat) (o : MemObj) (s : State)  (hI : Inv K ρ s) : Inv K ρ (setObj n j o s) := by
  unfold setObj
  repeat' first
    | with_reducible assumption
    | with_reducible apply emit_inv
    | with_reducible refine Inv.foldl _ (fun _ _ _ => ?_) ?_
    | with_reducible refine Inv.foldl2 _ (fun _ _ _ => ?_) ?_
    | with_reducible apply hK
    | with_reducible intro _
    | split
    | fail_if_no_progress (with_reducible (refine Inv.put rfl rfl rfl rfl rfl rfl rfl rfl rfl rfl rfl rfl rfl rfl rfl rfl ⟨rfl, rfl, rfl, rfl, rfl⟩ rfl rfl rfl rfl ?_))

theorem countObj_inv {K : Goals} {ρ : State} (n j : Nat) (o : MemObj) (s : State)  (hI : Inv K ρ s) : Inv K ρ (countObj n j o s) := by
  unfold countObj
  repeat' first
    | with_reducible assumption
    | with_reducible apply evPush_inv
    | with_reducible apply setObj_inv
    | with_reducible refine Inv.foldl _ (fun _ _ _ => ?_) ?_
    | with_reducible refine Inv.foldl2 _ (fun _ _ _ => ?_) ?_
    | with_reducible apply hK
    | with_reducible intro _
    | split
    | fail_if_no_progress (with_reducible (refine Inv.put rfl rfl rfl rfl rfl rfl rfl rfl rfl rfl rfl rfl rfl rfl rfl rfl ⟨rfl, rfl, rfl, rfl, rfl⟩ rfl rfl rfl rfl ?_))
    | dsimp only

theorem takeDevRef_inv {K : Goals} {ρ : State} (n j : Nat) (s : State)  (hI : Inv K ρ s) : Inv K ρ (takeDevRef n j s) := by
  unfold takeDevRef
  repeat' first
    | with_reducible assumption
    | with_reducible apply setObj_inv

theorem dropDevRef_inv {K : Goals} {ρ : State} (n j : Nat) (s : State)  (hI : Inv K ρ s) : Inv K ρ (dropDevRef n j s) := by
  unfold dropDevRef
  repeat' first
    | with_reducible assumption
    | with_reducible apply countObj_inv
    | with_reducible refine Inv.foldl _ (fun _ _ _ => ?_) ?_
    | with_reducible refine Inv.foldl2 _ (fun _ _ _ => ?_) ?_
    | with_reducible apply hK
    | with_reducible intro _
    | split
    | fail_if_no_progress (with_reducible (refine Inv.put rfl rfl rfl rfl rfl rfl rfl rfl rfl rfl rfl rfl rfl rfl rfl rfl ⟨rfl, rfl, rfl, rfl, rfl⟩ rfl rfl rfl rfl ?_))
    | dsimp only

theorem takeRefs_inv {K : Goals} {ρ : State} (n : Nat) (xs : List Xlat) (s : State)  (hI : Inv K ρ s) : Inv K ρ (takeRefs n xs s) := by
  unfold takeRefs
  repeat' first
    | with_reducible assumption
    | with_reducible apply takeDevRef_inv
    | with_reducible refine Inv.foldl _ (fun _ _ _ => ?_) ?_

theorem dropRefs_inv {K : Goals} {ρ : State} (n : Nat) (js : List Nat) (s : State)  (hI : Inv K ρ s) : Inv K ρ (dropRefs n js s) := by
  unfold dropRefs
  repeat' first
    | with_reducible assumption
    | with_reducible apply dropDevRef_inv
    | with_reducible refine Inv.foldl _ (fun _ _ _ => ?_) ?_

theorem setSync_inv {K : Goals} {ρ : State} (n j : Nat) (o : SyncObj) (s : State)  (hI : Inv K ρ s) : Inv K ρ (setSync n j o s) := by
  unfold setSync
  repeat' first
    | with_reducible assumption
    | with_reducible apply writeDva_inv
    | with_reducible refine Inv.foldl _ (fun _ _ _ => ?_) ?_
    | with_reducible refine Inv.foldl2 _ (fun _ _ _ => ?_) ?_
    | with_reducible apply hK
    | with_reducible intro _
    | split
    | fail_if_no_progress (with_reducible (refine Inv.put rfl rfl rfl rfl rfl rfl rfl rfl rfl rfl rfl rfl rfl rfl rfl rfl ⟨rfl, rfl, rfl, rfl, rfl⟩ rfl rfl rfl rfl ?_))

theorem countSync_inv {K : Goals} {ρ : State} (n j : Nat) (o : SyncObj) (s : State)  (hI : Inv K ρ s) : Inv K ρ (countSync n j o s) := by
  unfold countSync
  repeat' first
    | with_reducible assumption
    | with_reducible apply setSync_inv
    | with_reducible refine Inv.foldl _ (fun _ _ _ => ?_) ?_
    | with_reducible refine Inv.foldl2 _ (fun _ _ _ => ?_) ?_
    | with_reducible apply hK
    | with_reducible intro _
    | split
    | fail_if_no_progress (with_reducible (refine Inv.put rfl rfl rfl rfl rfl rfl rfl rfl rfl rfl rfl rfl rfl rfl rfl rfl ⟨rfl, rfl, rfl, rfl, rfl⟩ rfl rfl rfl rfl ?_))
    | dsimp only

theorem takeSyncRef_inv {K : Goals} {ρ : State} (n j : Nat) (s : State)  (hI : Inv K ρ s) : Inv K ρ (takeSyncRef n j s) := by
  unfold takeSyncRef
  repeat' first
    | with_reducible assumption
    | with_reducible apply setSync_inv

theorem dropSyncRef_inv {K : Goals} {ρ : State} (n j : Nat) (s : State)  (hI : Inv K ρ s) : Inv K ρ (dropSyncRef n j s) := by
  unfold dropSyncRef
  repeat' first
    | with_reducible assumption
    | with_reducible apply countSync_inv
    | with_reducible refine Inv.foldl _ (fun _ _ _ => ?_) ?_
    | with_reducible refine Inv.foldl2 _ (fun _ _ _ => ?_) ?_
    | with_reducible apply hK
    | with_reducible intro _
    | split
    | fail_if_no_progress (with_reducible (refine Inv.put rfl rfl rfl rfl rfl rfl rfl rfl rfl rfl rfl rfl rfl rfl rfl rfl ⟨rfl, rfl, rfl, rfl, rfl⟩ rfl rfl rfl rfl ?_))
    | dsimp only

theorem unreserve_inv {K : Goals} {ρ : State} (q : Nat) (s : State)  (hI : Inv K ρ s) : Inv K ρ (unreserve q s) := by
  unfold unreserve
  repeat' first
    | with_reducible assumption
    | with_reducible apply modQueue_inv

theorem loseCtx_inv {K : Goals} {ρ : State} (n c : Nat) (s : State)  (hI : Inv K ρ s) : Inv K ρ (loseCtx n c s) := by
  unfold loseCtx
  repeat' first
    | with_reducible assumption
    | with_reducible apply setCtx_inv
    | with_reducible refine Inv.foldl _ (fun _ _ _ => ?_) ?_
    | with_reducible refine Inv.foldl2 _ (fun _ _ _ => ?_) ?_
    | with_reducible apply hK
    | with_reducible intro _
    | split

theorem overflowRec_inv {K : Goals} {ρ : State} (q : Nat) (r : CRec) (s : State)  (hI : Inv K ρ s) : Inv K ρ (overflowRec q r s) := by
  unfold overflowRec
  repeat' first
    | with_reducible assumption
    | with_reducible apply modQueue_inv
    | with_reducible apply loseCtx_inv
    | with_reducible refine Inv.foldl _ (fun _ _ _ => ?_) ?_
    | with_reducible refine Inv.foldl2 _ (fun _ _ _ => ?_) ?_
    | with_reducible apply hK
    | with_reducible intro _
    | split
    | fail_if_no_progress (with_reducible (refine Inv.put rfl rfl rfl rfl rfl rfl rfl rfl rfl rfl rfl rfl rfl rfl rfl rfl ⟨rfl, rfl, rfl, rfl, rfl⟩ rfl rfl rfl rfl ?_))
    | dsimp only

theorem ringRec_inv {K : Goals} {ρ : State} (q : Nat) (r : CRec) (s : State)  (hI : Inv K ρ s) : Inv K ρ (ringRec q r s) := by
  unfold ringRec
  repeat' first
    | with_reducible assumption
    | with_reducible apply emit_inv
    | with_reducible apply modQueue_inv
    | with_reducible apply msix_inv
    | with_reducible refine Inv.foldl _ (fun _ _ _ => ?_) ?_
    | with_reducible refine Inv.foldl2 _ (fun _ _ _ => ?_) ?_
    | with_reducible apply hK
    | with_reducible intro _
    | split
    | fail_if_no_progress (with_reducible (refine Inv.put rfl rfl rfl rfl rfl rfl rfl rfl rfl rfl rfl rfl rfl rfl rfl rfl ⟨rfl, rfl, rfl, rfl, rfl⟩ rfl rfl rfl rfl ?_))
    | dsimp only

theorem putRec_inv {K : Goals} {ρ : State} (q : Nat) (r : CRec) (s : State)  (hI : Inv K ρ s) : Inv K ρ (putRec q r s) := by
  unfold putRec
  repeat' first
    | with_reducible assumption
    | with_reducible apply ringRec_inv
    | with_reducible apply overflowRec_inv
    | with_reducible refine Inv.foldl _ (fun _ _ _ => ?_) ?_
    | with_reducible refine Inv.foldl2 _ (fun _ _ _ => ?_) ?_
    | with_reducible apply hK
    | with_reducible intro _
    | split

theorem progress_inv {K : Goals} {ρ : State} (q : Nat) (s : State)  (hI : Inv K ρ s) : Inv K ρ (progress q s) := by
  unfold progress
  repeat' first
    | with_reducible assumption
    | with_reducible apply modQueue_inv

theorem reapCtx_inv {K : Goals} {ρ : State} (n c : Nat) (s : State)  (hI : Inv K ρ s) : Inv K ρ (reapCtx n c s) := by
  unfold reapCtx
  repeat' first
    | with_reducible assumption
    | with_reducible apply setCtx_inv
    | with_reducible refine Inv.foldl _ (fun _ _ _ => ?_) ?_
    | with_reducible refine Inv.foldl2 _ (fun _ _ _ => ?_) ?_
    | with_reducible apply hK
    | with_reducible intro _
    | split

theorem complete_inv {K : Goals} {ρ : State} (c : CmdRef) (d : Done) (s : State)  (hI : Inv K ρ s) : Inv K ρ (complete c d s) := by
  unfold complete
  repeat' first
    | with_reducible assumption
    | with_reducible apply unreserve_inv
    | with_reducible apply progress_inv
    | with_reducible apply modQueue_inv
    | with_reducible apply putRec_inv
    | with_reducible apply modHr_inv
    | with_reducible refine Inv.foldl _ (fun _ _ _ => ?_) ?_
    | with_reducible refine Inv.foldl2 _ (fun _ _ _ => ?_) ?_
    | with_reducible apply hK
    | with_reducible intro _
    | split

theorem reject_inv {K : Goals} {ρ : State} (c : CmdRef) (st : Status) (detail : Nat) (s : State)  (hI : Inv K ρ s) : Inv K ρ (reject c st detail s) := by
  unfold reject
  repeat' first
    | with_reducible assumption
    | with_reducible apply putRec_inv
    | with_reducible apply progress_inv
    | with_reducible refine Inv.foldl _ (fun _ _ _ => ?_) ?_
    | with_reducible refine Inv.foldl2 _ (fun _ _ _ => ?_) ?_
    | with_reducible apply hK
    | with_reducible intro _
    | split
    | fail_if_no_progress (with_reducible (refine Inv.put rfl rfl rfl rfl rfl rfl rfl rfl rfl rfl rfl rfl rfl rfl rfl rfl ⟨rfl, rfl, rfl, rfl, rfl⟩ rfl rfl rfl rfl ?_))

theorem accept_inv {K : Goals} {ρ : State} (c : CmdRef) (s : State)  (hI : Inv K ρ s) : Inv K ρ (accept c s) := by
  unfold accept
  repeat' first
    | with_reducible assumption
    | with_reducible apply modQueue_inv
    | with_reducible apply setCtx_inv
    | with_reducible refine Inv.foldl _ (fun _ _ _ => ?_) ?_
    | with_reducible refine Inv.foldl2 _ (fun _ _ _ => ?_) ?_
    | with_reducible apply hK
    | with_reducible intro _
    | split
    | fail_if_no_progress (with_reducible (refine Inv.put rfl rfl rfl rfl rfl rfl rfl rfl rfl rfl rfl rfl rfl rfl rfl rfl ⟨rfl, rfl, rfl, rfl, rfl⟩ rfl rfl rfl rfl ?_))
    | dsimp only

theorem touchQueue_inv {K : Goals} {ρ : State} (q : Nat) (s : State)  (hI : Inv K ρ s) : Inv K ρ (touchQueue q s) := by
  unfold touchQueue
  repeat' first
    | with_reducible assumption
    | with_reducible apply modQueue_inv

theorem foaSend_inv {K : Goals} {ρ : State} (c : Nat) (h : FoaHead) (m : FoaMsg) (s : State)  (hI : Inv K ρ s) : Inv K ρ (foaSend c h m s) := by
  unfold foaSend
  repeat' first
    | with_reducible assumption
    | with_reducible apply emit_inv
    | with_reducible refine Inv.foldl _ (fun _ _ _ => ?_) ?_
    | with_reducible refine Inv.foldl2 _ (fun _ _ _ => ?_) ?_
    | with_reducible apply hK
    | with_reducible intro _
    | split
    | fail_if_no_progress (with_reducible (refine Inv.put rfl rfl rfl rfl rfl rfl rfl rfl rfl rfl rfl rfl rfl rfl rfl rfl ⟨rfl, rfl, rfl, rfl, rfl⟩ rfl rfl rfl rfl ?_))

theorem modReq_inv {K : Goals} {ρ : State} (n i : Nat) (f : ReqCtx → ReqCtx) (s : State)  (hI : Inv K ρ s) : Inv K ρ (modReq n i f s) := by
  unfold modReq
  repeat' first
    | with_reducible assumption
    | with_reducible refine Inv.foldl _ (fun _ _ _ => ?_) ?_
    | with_reducible refine Inv.foldl2 _ (fun _ _ _ => ?_) ?_
    | with_reducible apply hK
    | with_reducible intro _
    | split
    | fail_if_no_progress (with_reducible (refine Inv.put rfl rfl rfl rfl rfl rfl rfl rfl rfl rfl rfl rfl rfl rfl rfl rfl ⟨rfl, rfl, rfl, rfl, rfl⟩ rfl rfl rfl rfl ?_))

theorem takeSeq_inv {K : Goals} {ρ : State} (id : Nat) (s : State)  (hI : Inv K ρ s) : Inv K ρ (takeSeq id s).2 := by
  unfold takeSeq
  repeat' first
    | with_reducible assumption
    | with_reducible refine Inv.foldl _ (fun _ _ _ => ?_) ?_
    | with_reducible refine Inv.foldl2 _ (fun _ _ _ => ?_) ?_
    | with_reducible apply hK
    | with_reducible intro _
    | split
    | fail_if_no_progress (with_reducible (refine Inv.put rfl rfl rfl rfl rfl rfl rfl rfl rfl rfl rfl rfl rfl rfl rfl rfl ⟨rfl, rfl, rfl, rfl, rfl⟩ rfl rfl rfl rfl ?_))

theorem takeSeq_invE {K : Goals} {ρ : State} {id : Nat} {s : State} {xa xu} (hE : takeSeq id s = (xa, xu))  (hI : Inv K ρ s) : Inv K ρ xu := by
  have h := takeSeq_inv id s  hI
  rw [hE] at h
  exact h

theorem respond_inv {K : Goals} {ρ : State} (n i : Nat) (st : Status) (out : List Byte) (s : State)  (hI : Inv K ρ s) : Inv K ρ (respond n i st out s) := by
  unfold respond
  repeat' first
    | with_reducible assumption
    | with_reducible apply modReq_inv
    | with_reducible refine takeSeq_invE (by assumption) ?_
    | with_reducible apply takeSeq_inv
    | with_reducible refine Inv.foldl _ (fun _ _ _ => ?_) ?_
    | with_reducible refine Inv.foldl2 _ (fun _ _ _ => ?_) ?_
    | with_reducible apply hK
    | with_reducible intro _
    | split
    | fail_if_no_progress (with_reducible (refine Inv.put rfl rfl rfl rfl rfl rfl rfl rfl rfl rfl rfl rfl rfl rfl rfl rfl ⟨rfl, rfl, rfl, rfl, rfl⟩ rfl rfl rfl rfl ?_))
    | dsimp only

theorem failReq_inv {K : Goals} {ρ : State} (n : Nat) (st : Status) (s : State) (i : Nat)  (hI : Inv K ρ s) : Inv K ρ (failReq n st s i) := by
  unfold failReq
  repeat' first
    | with_reducible assumption
    | with_reducible apply respond_inv

theorem finishReq_inv {K : Goals} {ρ : State} (n i : Nat) (s : State)  (hI : Inv K ρ s) : Inv K ρ (finishReq n i s) := by
  unfold finishReq
  repeat' first
    | with_reducible assumption
    | with_reducible apply modReq_inv
    | with_reducible refine readNow_invE (by assumption) ?_
    | with_reducible apply readNow_inv
    | with_reducible apply respond_inv
    | with_reducible refine Inv.foldl _ (fun _ _ _ => ?_) ?_
    | with_reducible refine Inv.foldl2 _ (fun _ _ _ => ?_) ?_
    | with_reducible apply hK
    | with_reducible intro _
    | split
    | fail_if_no_progress (with_reducible (refine Inv.put rfl rfl rfl rfl rfl rfl rfl rfl rfl rfl rfl rfl rfl rfl rfl rfl ⟨rfl, rfl, rfl, rfl, rfl⟩ rfl rfl rfl rfl ?_))
    | dsimp only

theorem readOutputs_inv {K : Goals} {ρ : State} (s : State)  (hI : Inv K ρ s) : Inv K ρ (readOutputs s) := by
  unfold readOutputs
  repeat' first
    | with_reducible assumption
    | with_reducible apply finishReq_inv
    | with_reducible refine Inv.foldl _ (fun _ _ _ => ?_) ?_

theorem advanceReq_inv {K : Goals} {ρ : State} (n k : Nat) (s : State) (i : Nat)  (hI : Inv K ρ s) : Inv K ρ (advanceReq n k s i) := by
  unfold advanceReq
  repeat' first
    | with_reducible assumption
    | with_reducible apply finishReq_inv
    | with_reducible apply modReq_inv
    | with_reducible refine Inv.foldl _ (fun _ _ _ => ?_) ?_
    | with_reducible refine Inv.foldl2 _ (fun _ _ _ => ?_) ?_
    | with_reducible apply hK
    | with_reducible intro _
    | split

theorem failClass_inv {K : Goals} {ρ : State} (n c : Nat) (st : Status) (s : State)  (hI : Inv K ρ s) : Inv K ρ (failClass n c st s) := by
  unfold failClass
  repeat' first
    | with_reducible assumption
    | with_reducible apply failReq_inv
    | with_reducible refine Inv.foldl _ (fun _ _ _ => ?_) ?_

theorem modPort_inv {K : Goals} {ρ : State} (p : Nat) (f : Port → Port) (s : State)  (hI : Inv K ρ s) : Inv K ρ (modPort p f s) := by
  unfold modPort
  repeat' first
    | with_reducible assumption
    | with_reducible refine Inv.foldl _ (fun _ _ _ => ?_) ?_
    | with_reducible refine Inv.foldl2 _ (fun _ _ _ => ?_) ?_
    | with_reducible apply hK
    | with_reducible intro _
    | split
    | fail_if_no_progress (with_reducible (refine Inv.put rfl rfl rfl rfl rfl rfl rfl rfl rfl rfl rfl rfl rfl rfl rfl rfl ⟨rfl, rfl, rfl, rfl, rfl⟩ rfl rfl rfl rfl ?_))

theorem setPeer_inv {K : Goals} {ρ : State} (c : Nat) (x : Peer) (s : State)  (hI : Inv K ρ s) : Inv K ρ (setPeer c x s) := by
  unfold setPeer
  repeat' first
    | with_reducible assumption
    | with_reducible refine Inv.foldl _ (fun _ _ _ => ?_) ?_
    | with_reducible refine Inv.foldl2 _ (fun _ _ _ => ?_) ?_
    | with_reducible apply hK
    | with_reducible intro _
    | split
    | fail_if_no_progress (with_reducible (refine Inv.put rfl rfl rfl rfl rfl rfl rfl rfl rfl rfl rfl rfl rfl rfl rfl rfl ⟨rfl, rfl, rfl, rfl, rfl⟩ rfl rfl rfl rfl ?_))

theorem dropAt_inv {K : Goals} {ρ : State} (p : Nat) (s : State)  (hI : Inv K ρ s) : Inv K ρ (dropAt p s) := by
  unfold dropAt
  repeat' first
    | with_reducible assumption
    | with_reducible apply modPort_inv
    | with_reducible refine Inv.foldl _ (fun _ _ _ => ?_) ?_
    | with_reducible refine Inv.foldl2 _ (fun _ _ _ => ?_) ?_
    | with_reducible apply hK
    | with_reducible intro _
    | split

theorem fromPort_inv {K : Goals} {ρ : State} (p parity : Nat) (n : Option Nat) (k : State → State) (s : State) (hK : ∀ t, Inv K ρ t → Inv K ρ (k t)) (hI : Inv K ρ s) : Inv K ρ (fromPort p parity n k s) := by
  unfold fromPort
  repeat' first
    | with_reducible assumption
    | with_reducible refine transfer_invE (by assumption) ?_
    | with_reducible apply transfer_inv
    | with_reducible apply dropAt_inv
    | with_reducible refine Inv.foldl _ (fun _ _ _ => ?_) ?_
    | with_reducible refine Inv.foldl2 _ (fun _ _ _ => ?_) ?_
    | with_reducible apply hK
    | with_reducible intro _
    | split

theorem readRight_inv {K : Goals} {ρ : State} (n : Nat) (host : HostView) (dva len : Nat) (s : State)  (hI : Inv K ρ s) : Inv K ρ (readRight n host dva len s).2 := by
  unfold readRight
  repeat' first
    | with_reducible assumption
    | with_reducible refine readNow_invE (by assumption) ?_
    | with_reducible apply readNow_inv
    | with_reducible apply countWalks_inv
    | with_reducible refine Inv.foldl _ (fun _ _ _ => ?_) ?_
    | with_reducible refine Inv.foldl2 _ (fun _ _ _ => ?_) ?_
    | with_reducible apply hK
    | with_reducible intro _
    | split
    | fail_if_no_progress (with_reducible (refine Inv.put rfl rfl rfl rfl rfl rfl rfl rfl rfl rfl rfl rfl rfl rfl rfl rfl ⟨rfl, rfl, rfl, rfl, rfl⟩ rfl rfl rfl rfl ?_))
    | dsimp only

theorem readRight_invE {K : Goals} {ρ : State} {n : Nat} {host : HostView} {dva len : Nat} {s : State} {xa xu} (hE : readRight n host dva len s = (xa, xu))  (hI : Inv K ρ s) : Inv K ρ xu := by
  have h := readRight_inv n host dva len s  hI
  rw [hE] at h
  exact h

theorem waitLoad_inv {K : Goals} {ρ : State} (l : Load) (s : State)  (hI : Inv K ρ s) : Inv K ρ (waitLoad l s) := by
  unfold waitLoad
  repeat' first
    | with_reducible assumption
    | with_reducible refine Inv.foldl _ (fun _ _ _ => ?_) ?_
    | with_reducible refine Inv.foldl2 _ (fun _ _ _ => ?_) ?_
    | with_reducible apply hK
    | with_reducible intro _
    | split
    | fail_if_no_progress (with_reducible (refine Inv.put rfl rfl rfl rfl rfl rfl rfl rfl rfl rfl rfl rfl rfl rfl rfl rfl ⟨rfl, rfl, rfl, rfl, rfl⟩ rfl rfl rfl rfl ?_))

theorem setJob_inv {K : Goals} {ρ : State} (n slot : Nat) (j : Job) (s : State)  (hI : Inv K ρ s) : Inv K ρ (setJob n slot j s) := by
  unfold setJob
  repeat' first
    | with_reducible assumption
    | with_reducible refine Inv.foldl _ (fun _ _ _ => ?_) ?_
    | with_reducible refine Inv.foldl2 _ (fun _ _ _ => ?_) ?_
    | with_reducible apply hK
    | with_reducible intro _
    | split
    | fail_if_no_progress (with_reducible (refine Inv.put rfl rfl rfl rfl rfl rfl rfl rfl rfl rfl rfl rfl rfl rfl rfl rfl ⟨rfl, rfl, rfl, rfl, rfl⟩ rfl rfl rfl rfl ?_))

theorem endLoad_inv {K : Goals} {ρ : State} (n slot : Nat) (r : Status × List Member) (s : State)  (hI : Inv K ρ s) : Inv K ρ (endLoad n slot r s) := by
  unfold endLoad
  repeat' first
    | with_reducible assumption
    | with_reducible apply setJob_inv
    | with_reducible refine Inv.foldl _ (fun _ _ _ => ?_) ?_
    | with_reducible refine Inv.foldl2 _ (fun _ _ _ => ?_) ?_
    | with_reducible apply hK
    | with_reducible intro _
    | split

theorem jobLoadSt_inv {K : Goals} {ρ : State} (n slot : Nat) (host : HostView) (s : State)  (hI : Inv K ρ s) : Inv K ρ (jobLoadSt n slot host s) := by
  unfold jobLoadSt
  repeat' first
    | with_reducible assumption
    | with_reducible apply endLoad_inv
    | with_reducible refine readRight_invE (by assumption) ?_
    | with_reducible apply readRight_inv
    | with_reducible apply waitLoad_inv
    | with_reducible refine Inv.foldl _ (fun _ _ _ => ?_) ?_
    | with_reducible refine Inv.foldl2 _ (fun _ _ _ => ?_) ?_
    | with_reducible apply hK
    | with_reducible intro _
    | split
    | fail_if_no_progress (with_reducible (refine Inv.put rfl rfl rfl rfl rfl rfl rfl rfl rfl rfl rfl rfl rfl rfl rfl rfl ⟨rfl, rfl, rfl, rfl, rfl⟩ rfl rfl rfl rfl ?_))
    | dsimp only

theorem endExports_inv {K : Goals} {ρ : State} (n count : Nat) (r : Except (Nat × Status) (List ExportEnt)) (s : State)  (hI : Inv K ρ s) : Inv K ρ (endExports n count r s) := by
  unfold endExports
  repeat' first
    | with_reducible assumption
    | with_reducible apply dropRefs_inv
    | with_reducible apply takeRefs_inv
    | with_reducible refine Inv.foldl _ (fun _ _ _ => ?_) ?_
    | with_reducible refine Inv.foldl2 _ (fun _ _ _ => ?_) ?_
    | with_reducible apply hK
    | with_reducible intro _
    | split
    | fail_if_no_progress (with_reducible (refine Inv.put rfl rfl rfl rfl rfl rfl rfl rfl rfl rfl rfl rfl rfl rfl rfl rfl ⟨rfl, rfl, rfl, rfl, rfl⟩ rfl rfl rfl rfl ?_))

theorem exportLoadSt_inv {K : Goals} {ρ : State} (n count : Nat) (host : HostView) (s : State)  (hI : Inv K ρ s) : Inv K ρ (exportLoadSt n count host s) := by
  unfold exportLoadSt
  repeat' first
    | with_reducible assumption
    | with_reducible apply endExports_inv
    | with_reducible refine readRight_invE (by assumption) ?_
    | with_reducible apply readRight_inv
    | with_reducible apply waitLoad_inv
    | with_reducible apply countWalks_inv
    | with_reducible refine Inv.foldl _ (fun _ _ _ => ?_) ?_
    | with_reducible refine Inv.foldl2 _ (fun _ _ _ => ?_) ?_
    | with_reducible apply hK
    | with_reducible intro _
    | split

theorem sDone_inv {K : Goals} {ρ : State} (port addr udp session : Nat) (st : Status) (s : State)  (hI : Inv K ρ s) : Inv K ρ (sDone port addr udp session st s) := by
  unfold sDone
  repeat' first
    | with_reducible assumption
    | with_reducible apply emit_inv
    | with_reducible refine Inv.foldl _ (fun _ _ _ => ?_) ?_
    | with_reducible refine Inv.foldl2 _ (fun _ _ _ => ?_) ?_
    | with_reducible apply hK
    | with_reducible intro _
    | split
    | fail_if_no_progress (with_reducible (refine Inv.put rfl rfl rfl rfl rfl rfl rfl rfl rfl rfl rfl rfl rfl rfl rfl rfl ⟨rfl, rfl, rfl, rfl, rfl⟩ rfl rfl rfl rfl ?_))

theorem endFinish_inv {K : Goals} {ρ : State} (a : Agreement) (signature : Signature) (keys : Option (List Digest)) (s : State)  (hI : Inv K ρ s) : Inv K ρ (endFinish a signature keys s) := by
  unfold endFinish
  repeat' first
    | with_reducible assumption
    | with_reducible apply sDone_inv
    | with_reducible refine Inv.foldl _ (fun _ _ _ => ?_) ?_
    | with_reducible refine Inv.foldl2 _ (fun _ _ _ => ?_) ?_
    | with_reducible apply hK
    | with_reducible intro _
    | split
    | fail_if_no_progress (with_reducible (refine Inv.put rfl rfl rfl rfl rfl rfl rfl rfl rfl rfl rfl rfl rfl rfl rfl rfl ⟨rfl, rfl, rfl, rfl, rfl⟩ rfl rfl rfl rfl ?_))
    | dsimp only

theorem agreementSt_inv {K : Goals} {ρ : State} (session : Nat) (signature : Signature) (host : HostView) (s : State)  (hI : Inv K ρ s) : Inv K ρ (agreementSt session signature host s) := by
  unfold agreementSt
  repeat' first
    | with_reducible assumption
    | with_reducible refine readRight_invE (by assumption) ?_
    | with_reducible apply readRight_inv
    | with_reducible apply endFinish_inv
    | with_reducible apply waitLoad_inv
    | with_reducible refine Inv.foldl _ (fun _ _ _ => ?_) ?_
    | with_reducible refine Inv.foldl2 _ (fun _ _ _ => ?_) ?_
    | with_reducible apply hK
    | with_reducible intro _
    | split
    | fail_if_no_progress (with_reducible (refine Inv.put rfl rfl rfl rfl rfl rfl rfl rfl rfl rfl rfl rfl rfl rfl rfl rfl ⟨rfl, rfl, rfl, rfl, rfl⟩ rfl rfl rfl rfl ?_))
    | dsimp only

theorem runLoad_inv {K : Goals} {ρ : State} (s : State) (l : Load)  (hI : Inv K ρ s) : Inv K ρ (runLoad s l) := by
  unfold runLoad
  repeat' first
    | with_reducible assumption
    | with_reducible apply jobLoadSt_inv
    | with_reducible apply exportLoadSt_inv
    | with_reducible apply agreementSt_inv
    | with_reducible refine Inv.foldl _ (fun _ _ _ => ?_) ?_
    | with_reducible refine Inv.foldl2 _ (fun _ _ _ => ?_) ?_
    | with_reducible apply hK
    | with_reducible intro _
    | split

theorem goLoads_inv {K : Goals} {ρ : State} (s : State)  (hI : Inv K ρ s) : Inv K ρ (goLoads s) := by
  unfold goLoads
  repeat' first
    | with_reducible assumption
    | with_reducible apply runLoad_inv
    | with_reducible refine Inv.foldl _ (fun _ _ _ => ?_) ?_
    | with_reducible refine Inv.foldl2 _ (fun _ _ _ => ?_) ?_
    | with_reducible apply hK
    | with_reducible intro _
    | split
    | fail_if_no_progress (with_reducible (refine Inv.put rfl rfl rfl rfl rfl rfl rfl rfl rfl rfl rfl rfl rfl rfl rfl rfl ⟨rfl, rfl, rfl, rfl, rfl⟩ rfl rfl rfl rfl ?_))

theorem idle_inv {K : Goals} {ρ : State} (s : State)  (htb : K.tb = false) (hboot : K.boot = false) (hI : Inv K ρ s) : Inv K ρ (idle s) := by
  unfold idle
  repeat' first
    | with_reducible assumption
    | with_reducible refine Inv.foldl _ (fun _ _ _ => ?_) ?_
    | with_reducible refine Inv.foldl2 _ (fun _ _ _ => ?_) ?_
    | with_reducible apply hK
    | with_reducible intro _
    | split
    | fail_if_no_progress (with_reducible (refine Inv.put rfl rfl rfl rfl rfl rfl rfl rfl rfl rfl rfl rfl rfl rfl rfl rfl ⟨rfl, rfl, rfl, rfl, rfl⟩ rfl rfl rfl rfl ?_))
    | fail_if_no_progress (with_reducible (refine Inv.upd rfl rfl rfl rfl rfl rfl rfl rfl rfl rfl rfl rfl rfl rfl rfl rfl rfl rfl (fun k => Groups.no htb k) (fun _ => ⟨rfl, rfl, rfl⟩) (fun k => Groups.no hboot k) (fun _ => rfl) (fun _ => ⟨rfl, rfl⟩) ?_))

theorem dropServed_inv {K : Goals} {ρ : State} (t : Step) (s : State)  (hI : Inv K ρ s) : Inv K ρ (dropServed t s) := by
  unfold dropServed
  repeat' first
    | with_reducible assumption
    | with_reducible refine Inv.foldl _ (fun _ _ _ => ?_) ?_
    | with_reducible refine Inv.foldl2 _ (fun _ _ _ => ?_) ?_
    | with_reducible apply hK
    | with_reducible intro _
    | split
    | fail_if_no_progress (with_reducible (refine Inv.put rfl rfl rfl rfl rfl rfl rfl rfl rfl rfl rfl rfl rfl rfl rfl rfl ⟨rfl, rfl, rfl, rfl, rfl⟩ rfl rfl rfl rfl ?_))

theorem countBad_inv {K : Goals} {ρ : State} (t : Step) (v : Seen) (s : State)  (hI : Inv K ρ s) : Inv K ρ (countBad t v s) := by
  unfold countBad
  repeat' first
    | with_reducible assumption
    | with_reducible refine Inv.foldl _ (fun _ _ _ => ?_) ?_
    | with_reducible refine Inv.foldl2 _ (fun _ _ _ => ?_) ?_
    | with_reducible apply hK
    | with_reducible intro _
    | split
    | fail_if_no_progress (with_reducible (refine Inv.put rfl rfl rfl rfl rfl rfl rfl rfl rfl rfl rfl rfl rfl rfl rfl rfl ⟨rfl, rfl, rfl, rfl, rfl⟩ rfl rfl rfl rfl ?_))

theorem readsIn_inv {K : Goals} {ρ : State} (id : Nat) (s : State)  (hI : Inv K ρ s) : Inv K ρ (readsIn id s).2 := by
  unfold readsIn
  repeat' first
    | with_reducible assumption
    | with_reducible refine askLines_invE (by assumption) ?_
    | with_reducible apply askLines_inv
    | with_reducible refine Inv.foldl _ (fun _ _ _ => ?_) ?_
    | with_reducible refine Inv.foldl2 _ (fun _ _ _ => ?_) ?_
    | with_reducible apply hK
    | with_reducible intro _
    | split

theorem readsIn_invE {K : Goals} {ρ : State} {id : Nat} {s : State} {xa xu} (hE : readsIn id s = (xa, xu))  (hI : Inv K ρ s) : Inv K ρ xu := by
  have h := readsIn_inv id s  hI
  rw [hE] at h
  exact h

theorem loadLuts_inv {K : Goals} {ρ : State} (us : List Nat) (luts : List (List Nat)) (s : State)  (hI : Inv K ρ s) : Inv K ρ (loadLuts us luts s) := by
  unfold loadLuts
  repeat' first
    | with_reducible assumption
    | with_reducible apply modEngine_inv
    | with_reducible refine Inv.foldl _ (fun _ _ _ => ?_) ?_

theorem finishRun_inv {K : Goals} {ρ : State} (id : Nat) (s : State)  (hI : Inv K ρ s) : Inv K ρ (finishRun id s) := by
  unfold finishRun
  repeat' first
    | with_reducible assumption
    | with_reducible apply loadLuts_inv
    | with_reducible apply countBad_inv
    | with_reducible apply modStep_inv
    | with_reducible refine Inv.foldl _ (fun _ _ _ => ?_) ?_
    | with_reducible refine Inv.foldl2 _ (fun _ _ _ => ?_) ?_
    | with_reducible apply hK
    | with_reducible intro _
    | split
    | fail_if_no_progress (with_reducible (refine Inv.put rfl rfl rfl rfl rfl rfl rfl rfl rfl rfl rfl rfl rfl rfl rfl rfl ⟨rfl, rfl, rfl, rfl, rfl⟩ rfl rfl rfl rfl ?_))

theorem touchEngine_inv {K : Goals} {ρ : State} (s : State) (u : Nat)  (hI : Inv K ρ s) : Inv K ρ (touchEngine s u) := by
  unfold touchEngine
  repeat' first
    | with_reducible assumption
    | with_reducible refine fresh_invE (by assumption) ?_
    | with_reducible apply fresh_inv
    | with_reducible apply modEngine_inv
    | with_reducible refine Inv.foldl _ (fun _ _ _ => ?_) ?_
    | with_reducible refine Inv.foldl2 _ (fun _ _ _ => ?_) ?_
    | with_reducible apply hK
    | with_reducible intro _
    | split
    | fail_if_no_progress (with_reducible (refine Inv.put rfl rfl rfl rfl rfl rfl rfl rfl rfl rfl rfl rfl rfl rfl rfl rfl ⟨rfl, rfl, rfl, rfl, rfl⟩ rfl rfl rfl rfl ?_))
    | dsimp only

theorem touchAll_inv {K : Goals} {ρ : State} (us : List Nat) (s : State)  (hI : Inv K ρ s) : Inv K ρ (touchAll us s) := by
  unfold touchAll
  repeat' first
    | with_reducible assumption
    | with_reducible apply touchEngine_inv
    | with_reducible refine Inv.foldl _ (fun _ _ _ => ?_) ?_

theorem wakeLines_inv {K : Goals} {ρ : State} (t : Step) (s : State)  (hI : Inv K ρ s) : Inv K ρ (wakeLines t s) := by
  unfold wakeLines
  repeat' first
    | with_reducible assumption
    | with_reducible apply drainAll_inv
    | with_reducible refine Inv.foldl _ (fun _ _ _ => ?_) ?_

theorem releaseStep_inv {K : Goals} {ρ : State} (t : Step) (s : State)  (hI : Inv K ρ s) : Inv K ρ (releaseStep t s) := by
  unfold releaseStep
  repeat' first
    | with_reducible assumption
    | with_reducible apply touchAll_inv
    | with_reducible apply dropServed_inv
    | with_reducible apply dropStep_inv
    | with_reducible apply dropRefs_inv
    | with_reducible refine Inv.foldl _ (fun _ _ _ => ?_) ?_
    | with_reducible refine Inv.foldl2 _ (fun _ _ _ => ?_) ?_
    | with_reducible apply hK
    | with_reducible intro _
    | split
    | fail_if_no_progress (with_reducible (refine Inv.put rfl rfl rfl rfl rfl rfl rfl rfl rfl rfl rfl rfl rfl rfl rfl rfl ⟨rfl, rfl, rfl, rfl, rfl⟩ rfl rfl rfl rfl ?_))
    | dsimp only

theorem nakTo_inv {K : Goals} {ρ : State} (h : FoaHead) (tag : Nat) (st : Status) (type epoch : Nat) (s : State)  (hI : Inv K ρ s) : Inv K ρ (nakTo h tag st type epoch s) := by
  unfold nakTo
  repeat' first
    | with_reducible assumption
    | with_reducible apply foaSend_inv
    | with_reducible refine Inv.foldl _ (fun _ _ _ => ?_) ?_
    | with_reducible refine Inv.foldl2 _ (fun _ _ _ => ?_) ?_
    | with_reducible apply hK
    | with_reducible intro _
    | split
    | fail_if_no_progress (with_reducible (refine Inv.put rfl rfl rfl rfl rfl rfl rfl rfl rfl rfl rfl rfl rfl rfl rfl rfl ⟨rfl, rfl, rfl, rfl, rfl⟩ rfl rfl rfl rfl ?_))

theorem finishStep_inv {K : Goals} {ρ : State} (t : Step) (d : Done) (s : State)  (hI : Inv K ρ s) : Inv K ρ (finishStep t d s) := by
  unfold finishStep
  repeat' first
    | with_reducible assumption
    | with_reducible apply releaseStep_inv
    | with_reducible apply nakTo_inv
    | with_reducible apply complete_inv
    | with_reducible apply advanceReq_inv
    | with_reducible apply failReq_inv
    | with_reducible refine Inv.foldl _ (fun _ _ _ => ?_) ?_
    | with_reducible refine Inv.foldl2 _ (fun _ _ _ => ?_) ?_
    | with_reducible apply hK
    | with_reducible intro _
    | split

theorem endKill_inv {K : Goals} {ρ : State} (id : Nat) (s : State)  (hI : Inv K ρ s) : Inv K ρ (endKill id s) := by
  unfold endKill
  repeat' first
    | with_reducible assumption
    | with_reducible apply modStep_inv
    | with_reducible apply finishStep_inv
    | with_reducible apply releaseStep_inv
    | with_reducible refine Inv.foldl _ (fun _ _ _ => ?_) ?_
    | with_reducible refine Inv.foldl2 _ (fun _ _ _ => ?_) ?_
    | with_reducible apply hK
    | with_reducible intro _
    | split

theorem sendKill_inv {K : Goals} {ρ : State} (t : Step) (s : State) (u : Nat)  (hI : Inv K ρ s) : Inv K ρ (sendKill t s u) := by
  unfold sendKill
  repeat' first
    | with_reducible assumption
    | with_reducible apply emit_inv
    | with_reducible refine Inv.foldl _ (fun _ _ _ => ?_) ?_
    | with_reducible refine Inv.foldl2 _ (fun _ _ _ => ?_) ?_
    | with_reducible apply hK
    | with_reducible intro _
    | split

theorem killStep_inv {K : Goals} {ρ : State} (why : KillWhy) (id : Nat) (s : State)  (hI : Inv K ρ s) : Inv K ρ (killStep why id s) := by
  unfold killStep
  repeat' first
    | with_reducible assumption
    | with_reducible apply endKill_inv
    | with_reducible apply modStep_inv
    | with_reducible apply sendKill_inv
    | with_reducible apply wakeLines_inv
    | with_reducible apply touchAll_inv
    | with_reducible refine Inv.foldl _ (fun _ _ _ => ?_) ?_
    | with_reducible refine Inv.foldl2 _ (fun _ _ _ => ?_) ?_
    | with_reducible apply hK
    | with_reducible intro _
    | split
    | fail_if_no_progress (with_reducible (refine Inv.put rfl rfl rfl rfl rfl rfl rfl rfl rfl rfl rfl rfl rfl rfl rfl rfl ⟨rfl, rfl, rfl, rfl, rfl⟩ rfl rfl rfl rfl ?_))

theorem ackKill_inv {K : Goals} {ρ : State} (unit id : Nat) (s : State)  (hI : Inv K ρ s) : Inv K ρ (ackKill unit id s) := by
  unfold ackKill
  repeat' first
    | with_reducible assumption
    | with_reducible apply touchEngine_inv
    | with_reducible apply modStep_inv
    | with_reducible apply endKill_inv
    | with_reducible refine Inv.foldl _ (fun _ _ _ => ?_) ?_
    | with_reducible refine Inv.foldl2 _ (fun _ _ _ => ?_) ?_
    | with_reducible apply hK
    | with_reducible intro _
    | split
    | fail_if_no_progress (with_reducible (refine Inv.put rfl rfl rfl rfl rfl rfl rfl rfl rfl rfl rfl rfl rfl rfl rfl rfl ⟨rfl, rfl, rfl, rfl, rfl⟩ rfl rfl rfl rfl ?_))
    | dsimp only

theorem stepParity_inv {K : Goals} {ρ : State} (u id : Nat) (bad : Bool) (s : State)  (hI : Inv K ρ s) : Inv K ρ (stepParity u id bad s).2 := by
  unfold stepParity
  repeat' first
    | with_reducible assumption
    | with_reducible refine parityCheck_invE (by assumption) ?_
    | with_reducible apply parityCheck_inv
    | with_reducible apply modStep_inv
    | with_reducible apply killStep_inv
    | with_reducible apply reportParity_inv
    | with_reducible refine Inv.foldl _ (fun _ _ _ => ?_) ?_
    | with_reducible refine Inv.foldl2 _ (fun _ _ _ => ?_) ?_
    | with_reducible apply hK
    | with_reducible intro _
    | split

theorem stepParity_invE {K : Goals} {ρ : State} {u id : Nat} {bad : Bool} {s : State} {xa xu} (hE : stepParity u id bad s = (xa, xu))  (hI : Inv K ρ s) : Inv K ρ xu := by
  have h := stepParity_inv u id bad s  hI
  rw [hE] at h
  exact h

theorem sendGather_inv {K : Goals} {ρ : State} (t : Step) (job : Job) (bag : Nat) (sh : Shard) (l : List (Nat × Nat)) (s : State)  (hI : Inv K ρ s) : Inv K ρ (sendGather t job bag sh l s) := by
  unfold sendGather
  repeat' first
    | with_reducible assumption
    | with_reducible apply modStep_inv
    | with_reducible apply foaSend_inv
    | with_reducible refine Inv.foldl _ (fun _ _ _ => ?_) ?_
    | with_reducible refine Inv.foldl2 _ (fun _ _ _ => ?_) ?_
    | with_reducible apply hK
    | with_reducible intro _
    | split
    | fail_if_no_progress (with_reducible (refine Inv.put rfl rfl rfl rfl rfl rfl rfl rfl rfl rfl rfl rfl rfl rfl rfl rfl ⟨rfl, rfl, rfl, rfl, rfl⟩ rfl rfl rfl rfl ?_))

theorem startGather_inv {K : Goals} {ρ : State} (t : Step) (s : State)  (hI : Inv K ρ s) : Inv K ρ (startGather t s) := by
  unfold startGather
  repeat' first
    | with_reducible assumption
    | with_reducible refine askLines_invE (by assumption) ?_
    | with_reducible apply askLines_inv
    | with_reducible apply modStep_inv
    | with_reducible apply countBad_inv
    | with_reducible apply sendGather_inv
    | with_reducible refine Inv.foldl _ (fun _ _ _ => ?_) ?_
    | with_reducible refine Inv.foldl2 _ (fun _ _ _ => ?_) ?_
    | with_reducible apply hK
    | with_reducible intro _
    | split
    | fail_if_no_progress (with_reducible (refine Inv.put rfl rfl rfl rfl rfl rfl rfl rfl rfl rfl rfl rfl rfl rfl rfl rfl ⟨rfl, rfl, rfl, rfl, rfl⟩ rfl rfl rfl rfl ?_))
    | dsimp only

theorem crcOk_inv {K : Goals} {ρ : State} (t : Step) (s : State)  (hI : Inv K ρ s) : Inv K ρ (crcOk t s).2 := by
  unfold crcOk
  repeat' first
    | with_reducible assumption
    | with_reducible refine injected_invE (by assumption) ?_
    | with_reducible apply injected_inv
    | with_reducible apply report_inv
    | with_reducible refine Inv.foldl _ (fun _ _ _ => ?_) ?_
    | with_reducible refine Inv.foldl2 _ (fun _ _ _ => ?_) ?_
    | with_reducible apply hK
    | with_reducible intro _
    | split
    | fail_if_no_progress (with_reducible (refine Inv.put rfl rfl rfl rfl rfl rfl rfl rfl rfl rfl rfl rfl rfl rfl rfl rfl ⟨rfl, rfl, rfl, rfl, rfl⟩ rfl rfl rfl rfl ?_))
    | dsimp only

theorem crcOk_invE {K : Goals} {ρ : State} {t : Step} {s : State} {xa xu} (hE : crcOk t s = (xa, xu))  (hI : Inv K ρ s) : Inv K ρ xu := by
  have h := crcOk_inv t s  hI
  rw [hE] at h
  exact h

theorem prefetchLine_inv {K : Goals} {ρ : State} (id n : Nat) (s : State) (x : Nat × Nat)  (hI : Inv K ρ s) : Inv K ρ (prefetchLine id n s x) := by
  unfold prefetchLine
  repeat' first
    | with_reducible assumption
    | with_reducible apply askLine_inv
    | with_reducible apply modStep_inv
    | with_reducible refine Inv.foldl _ (fun _ _ _ => ?_) ?_
    | with_reducible refine Inv.foldl2 _ (fun _ _ _ => ?_) ?_
    | with_reducible apply hK
    | with_reducible intro _
    | split

theorem runPrefetch_inv {K : Goals} {ρ : State} (t : Step) (s : State)  (hI : Inv K ρ s) : Inv K ρ (runPrefetch t s) := by
  unfold runPrefetch
  repeat' first
    | with_reducible assumption
    | with_reducible apply prefetchLine_inv
    | with_reducible apply modStep_inv
    | with_reducible apply finishStep_inv
    | with_reducible refine Inv.foldl _ (fun _ _ _ => ?_) ?_
    | with_reducible refine Inv.foldl2 _ (fun _ _ _ => ?_) ?_
    | with_reducible apply hK
    | with_reducible intro _
    | split
    | fail_if_no_progress (with_reducible (refine Inv.put rfl rfl rfl rfl rfl rfl rfl rfl rfl rfl rfl rfl rfl rfl rfl rfl ⟨rfl, rfl, rfl, rfl, rfl⟩ rfl rfl rfl rfl ?_))
    | dsimp only

theorem runAdvise_inv {K : Goals} {ρ : State} (t : Step) (s : State)  (hI : Inv K ρ s) : Inv K ρ (runAdvise t s) := by
  unfold runAdvise
  repeat' first
    | with_reducible assumption
    | with_reducible apply retainLine_inv
    | with_reducible apply setLlc_inv
    | with_reducible refine Inv.foldl _ (fun _ _ _ => ?_) ?_
    | with_reducible refine Inv.foldl2 _ (fun _ _ _ => ?_) ?_
    | with_reducible apply hK
    | with_reducible intro _
    | split
    | fail_if_no_progress (with_reducible (refine Inv.put rfl rfl rfl rfl rfl rfl rfl rfl rfl rfl rfl rfl rfl rfl rfl rfl ⟨rfl, rfl, rfl, rfl, rfl⟩ rfl rfl rfl rfl ?_))
    | dsimp only

theorem endCopy_inv {K : Goals} {ρ : State} (t : Step) (s : State)  (hI : Inv K ρ s) : Inv K ρ (endCopy t s) := by
  unfold endCopy
  repeat' first
    | with_reducible assumption
    | with_reducible refine crcOk_invE (by assumption) ?_
    | with_reducible apply crcOk_inv
    | with_reducible apply finishRun_inv
    | with_reducible apply finishStep_inv
    | with_reducible apply modStep_inv
    | with_reducible refine Inv.foldl _ (fun _ _ _ => ?_) ?_
    | with_reducible refine Inv.foldl2 _ (fun _ _ _ => ?_) ?_
    | with_reducible apply hK
    | with_reducible intro _
    | split

theorem runAtOnce_inv {K : Goals} {ρ : State} (id : Nat) (s : State)  (hI : Inv K ρ s) : Inv K ρ (runAtOnce id s) := by
  unfold runAtOnce
  repeat' first
    | with_reducible assumption
    | with_reducible apply runPrefetch_inv
    | with_reducible apply finishStep_inv
    | with_reducible apply runAdvise_inv
    | with_reducible refine readsIn_invE (by assumption) ?_
    | with_reducible apply readsIn_inv
    | with_reducible apply modStep_inv
    | with_reducible apply endCopy_inv
    | with_reducible apply finishRun_inv
    | with_reducible refine Inv.foldl _ (fun _ _ _ => ?_) ?_
    | with_reducible refine Inv.foldl2 _ (fun _ _ _ => ?_) ?_
    | with_reducible apply hK
    | with_reducible intro _
    | split

theorem askHost_inv {K : Goals} {ρ : State} (t : Step) (s : State)  (hI : Inv K ρ s) : Inv K ρ (askHost t s) := by
  unfold askHost
  repeat' first
    | with_reducible assumption
    | with_reducible apply emit_inv
    | with_reducible apply modStep_inv
    | with_reducible refine Inv.foldl _ (fun _ _ _ => ?_) ?_
    | with_reducible refine Inv.foldl2 _ (fun _ _ _ => ?_) ?_
    | with_reducible apply hK
    | with_reducible intro _
    | split
    | fail_if_no_progress (with_reducible (refine Inv.put rfl rfl rfl rfl rfl rfl rfl rfl rfl rfl rfl rfl rfl rfl rfl rfl ⟨rfl, rfl, rfl, rfl, rfl⟩ rfl rfl rfl rfl ?_))

theorem startReads_inv {K : Goals} {ρ : State} (id : Nat) (s : State)  (hI : Inv K ρ s) : Inv K ρ (startReads id s) := by
  unfold startReads
  repeat' first
    | with_reducible assumption
    | with_reducible apply startGather_inv
    | with_reducible apply runAtOnce_inv
    | with_reducible refine Inv.foldl _ (fun _ _ _ => ?_) ?_
    | with_reducible refine Inv.foldl2 _ (fun _ _ _ => ?_) ?_
    | with_reducible apply hK
    | with_reducible intro _
    | split

theorem tryFinish_inv {K : Goals} {ρ : State} (id : Nat) (s : State)  (hI : Inv K ρ s) : Inv K ρ (tryFinish id s) := by
  unfold tryFinish
  repeat' first
    | with_reducible assumption
    | with_reducible apply startReads_inv
    | with_reducible apply touchAll_inv
    | with_reducible apply dropStep_inv
    | with_reducible refine readsIn_invE (by assumption) ?_
    | with_reducible apply readsIn_inv
    | with_reducible apply finishRun_inv
    | with_reducible refine Inv.foldl _ (fun _ _ _ => ?_) ?_
    | with_reducible refine Inv.foldl2 _ (fun _ _ _ => ?_) ?_
    | with_reducible apply hK
    | with_reducible intro _
    | split

theorem readsNow_inv {K : Goals} {ρ : State} (id : Nat) (s : State)  (hI : Inv K ρ s) : Inv K ρ (readsNow id s) := by
  unfold readsNow
  repeat' first
    | with_reducible assumption
    | with_reducible apply tryFinish_inv
    | with_reducible apply modStep_inv

theorem goOn_inv {K : Goals} {ρ : State} (s : State)  (hI : Inv K ρ s) : Inv K ρ (goOn s) := by
  unfold goOn
  repeat' first
    | with_reducible assumption
    | with_reducible apply tryFinish_inv
    | with_reducible refine Inv.foldl _ (fun _ _ _ => ?_) ?_

theorem enterStep_inv {K : Goals} {ρ : State} (t : Step) (s : State)  (hI : Inv K ρ s) : Inv K ρ (enterStep t s) := by
  unfold enterStep
  repeat' first
    | with_reducible assumption
    | with_reducible apply modStep_inv
    | with_reducible apply touchAll_inv
    | with_reducible refine Inv.foldl _ (fun _ _ _ => ?_) ?_
    | with_reducible refine Inv.foldl2 _ (fun _ _ _ => ?_) ?_
    | with_reducible apply hK
    | with_reducible intro _
    | split
    | fail_if_no_progress (with_reducible (refine Inv.put rfl rfl rfl rfl rfl rfl rfl rfl rfl rfl rfl rfl rfl rfl rfl rfl ⟨rfl, rfl, rfl, rfl, rfl⟩ rfl rfl rfl rfl ?_))

theorem launchStep_inv {K : Goals} {ρ : State} (t : Step) (s : State)  (hI : Inv K ρ s) : Inv K ρ (launchStep t s) := by
  unfold launchStep
  repeat' first
    | with_reducible assumption
    | with_reducible apply finishStep_inv
    | with_reducible apply emit_inv
    | with_reducible apply askHost_inv
    | with_reducible apply readsNow_inv
    | with_reducible refine Inv.foldl _ (fun _ _ _ => ?_) ?_
    | with_reducible refine Inv.foldl2 _ (fun _ _ _ => ?_) ?_
    | with_reducible apply hK
    | with_reducible intro _
    | split

theorem startStep_inv {K : Goals} {ρ : State} (t : Step) (units : List Nat) (s : State)  (hI : Inv K ρ s) : Inv K ρ (startStep t units s) := by
  unfold startStep
  repeat' first
    | with_reducible assumption
    | with_reducible apply launchStep_inv
    | with_reducible apply enterStep_inv

theorem acceptAgain_inv {K : Goals} {ρ : State} (tp : Template) (s : State)  (hI : Inv K ρ s) : Inv K ρ (acceptAgain tp s) := by
  unfold acceptAgain
  repeat' first
    | with_reducible assumption
    | with_reducible refine Inv.foldl _ (fun _ _ _ => ?_) ?_
    | with_reducible refine Inv.foldl2 _ (fun _ _ _ => ?_) ?_
    | with_reducible apply hK
    | with_reducible intro _
    | split
    | fail_if_no_progress (with_reducible (refine Inv.put rfl rfl rfl rfl rfl rfl rfl rfl rfl rfl rfl rfl rfl rfl rfl rfl ⟨rfl, rfl, rfl, rfl, rfl⟩ rfl rfl rfl rfl ?_))

theorem writeBatch_inv {K : Goals} {ρ : State} (n c k : Nat) (members : List Nat) (s : State)  (hI : Inv K ρ s) : Inv K ρ (writeBatch n c k members s).2 := by
  unfold writeBatch
  repeat' first
    | with_reducible assumption
    | with_reducible refine storeDva_invE (by assumption) ?_
    | with_reducible apply storeDva_inv
    | with_reducible refine Inv.foldl _ (fun _ _ _ => ?_) ?_
    | with_reducible refine Inv.foldl2 _ (fun _ _ _ => ?_) ?_
    | with_reducible apply hK
    | with_reducible intro _
    | split

theorem writeBatch_invE {K : Goals} {ρ : State} {n c k : Nat} {members : List Nat} {s : State} {xa xu} (hE : writeBatch n c k members s = (xa, xu))  (hI : Inv K ρ s) : Inv K ρ xu := by
  have h := writeBatch_inv n c k members s  hI
  rw [hE] at h
  exact h

theorem addStep_inv {K : Goals} {ρ : State} (t : Step) (s : State)  (hI : Inv K ρ s) : Inv K ρ (addStep t s) := by
  unfold addStep
  repeat' first
    | with_reducible assumption
    | with_reducible apply modQueue_inv
    | with_reducible refine Inv.foldl _ (fun _ _ _ => ?_) ?_
    | with_reducible refine Inv.foldl2 _ (fun _ _ _ => ?_) ?_
    | with_reducible apply hK
    | with_reducible intro _
    | split
    | fail_if_no_progress (with_reducible (refine Inv.put rfl rfl rfl rfl rfl rfl rfl rfl rfl rfl rfl rfl rfl rfl rfl rfl ⟨rfl, rfl, rfl, rfl, rfl⟩ rfl rfl rfl rfl ?_))

theorem startLc_inv {K : Goals} {ρ : State} (id : Nat) (s : State)  (hI : Inv K ρ s) : Inv K ρ (startLc id s) := by
  unfold startLc
  repeat' first
    | with_reducible assumption
    | with_reducible apply startStep_inv
    | with_reducible apply finishStep_inv
    | with_reducible refine Inv.foldl _ (fun _ _ _ => ?_) ?_
    | with_reducible refine Inv.foldl2 _ (fun _ _ _ => ?_) ?_
    | with_reducible apply hK
    | with_reducible intro _
    | split

theorem runTemplate_inv {K : Goals} {ρ : State} (q : Nat) (tp : Template) (s : State)  (hI : Inv K ρ s) : Inv K ρ (runTemplate q tp s) := by
  unfold runTemplate
  repeat' first
    | with_reducible assumption
    | with_reducible apply failReq_inv
    | with_reducible apply finishStep_inv
    | with_reducible apply addStep_inv
    | with_reducible refine writeBatch_invE (by assumption) ?_
    | with_reducible apply writeBatch_inv
    | with_reducible apply acceptAgain_inv
    | with_reducible apply startLc_inv
    | with_reducible refine Inv.foldl _ (fun _ _ _ => ?_) ?_
    | with_reducible refine Inv.foldl2 _ (fun _ _ _ => ?_) ?_
    | with_reducible apply hK
    | with_reducible intro _
    | split
    | fail_if_no_progress (with_reducible (refine Inv.put rfl rfl rfl rfl rfl rfl rfl rfl rfl rfl rfl rfl rfl rfl rfl rfl ⟨rfl, rfl, rfl, rfl, rfl⟩ rfl rfl rfl rfl ?_))
    | dsimp only

theorem startOrEnd_inv {K : Goals} {ρ : State} (t : Step) (us : List Nat) (s : State)  (hI : Inv K ρ s) : Inv K ρ (startOrEnd t us s) := by
  unfold startOrEnd
  repeat' first
    | with_reducible assumption
    | with_reducible apply finishStep_inv
    | with_reducible apply startStep_inv
    | with_reducible refine Inv.foldl _ (fun _ _ _ => ?_) ?_
    | with_reducible refine Inv.foldl2 _ (fun _ _ _ => ?_) ?_
    | with_reducible apply hK
    | with_reducible intro _
    | split

theorem dispatchBe_inv {K : Goals} {ρ : State} (q : Nat) (b : BeNext) (s : State)  (hI : Inv K ρ s) : Inv K ρ (dispatchBe q b s) := by
  unfold dispatchBe
  repeat' first
    | with_reducible assumption
    | with_reducible apply startOrEnd_inv
    | with_reducible apply finishStep_inv
    | with_reducible apply addStep_inv
    | with_reducible apply acceptAgain_inv
    | with_reducible apply modQueue_inv
    | with_reducible refine Inv.foldl _ (fun _ _ _ => ?_) ?_
    | with_reducible refine Inv.foldl2 _ (fun _ _ _ => ?_) ?_
    | with_reducible apply hK
    | with_reducible intro _
    | split

theorem startBe_inv {K : Goals} {ρ : State} (n k : Nat) (s : State) (hI : Inv K ρ s) : Inv K ρ (startBe n k s) := by
  induction k generalizing s with
  | zero => exact hI
  | succ k ih =>
    unfold startBe
    repeat' first
      | with_reducible assumption
      | with_reducible apply ih
      | with_reducible apply dispatchBe_inv
      | with_reducible refine Inv.foldl _ (fun _ _ _ => ?_) ?_
      | with_reducible refine Inv.foldl2 _ (fun _ _ _ => ?_) ?_
      | with_reducible apply hK
      | with_reducible intro _
      | split

theorem fillBe_inv {K : Goals} {ρ : State} (n : Nat) (s : State)  (hI : Inv K ρ s) : Inv K ρ (fillBe n s) := by
  unfold fillBe
  repeat' first
    | with_reducible assumption
    | with_reducible apply startBe_inv

theorem startDue_inv {K : Goals} {ρ : State} (n : Nat) (s : State)  (hI : Inv K ρ s) : Inv K ρ (startDue n s) := by
  unfold startDue
  repeat' first
    | with_reducible assumption
    | with_reducible apply startLc_inv
    | with_reducible refine Inv.foldl _ (fun _ _ _ => ?_) ?_

theorem startLcAll_inv {K : Goals} {ρ : State} (n : Nat) (s : State)  (hI : Inv K ρ s) : Inv K ρ (startLcAll n s) := by
  unfold startLcAll
  repeat' first
    | with_reducible assumption
    | with_reducible apply startLc_inv
    | with_reducible apply runTemplate_inv
    | with_reducible refine Inv.foldl _ (fun _ _ _ => ?_) ?_
    | with_reducible refine Inv.foldl2 _ (fun _ _ _ => ?_) ?_
    | with_reducible apply hK
    | with_reducible intro _
    | split

theorem startReruns_inv {K : Goals} {ρ : State} (n : Nat) (s : State)  (hI : Inv K ρ s) : Inv K ρ (startReruns n s) := by
  unfold startReruns
  repeat' first
    | with_reducible assumption
    | with_reducible apply finishStep_inv
    | with_reducible apply startStep_inv
    | with_reducible refine Inv.foldl _ (fun _ _ _ => ?_) ?_
    | with_reducible refine Inv.foldl2 _ (fun _ _ _ => ?_) ?_
    | with_reducible apply hK
    | with_reducible intro _
    | split

theorem arbitrate_inv {K : Goals} {ρ : State} (s : State)  (hI : Inv K ρ s) : Inv K ρ (arbitrate s) := by
  unfold arbitrate
  repeat' first
    | with_reducible assumption
    | with_reducible apply fillBe_inv
    | with_reducible apply startReruns_inv
    | with_reducible apply startLcAll_inv
    | with_reducible refine Inv.foldl _ (fun _ _ _ => ?_) ?_
    | with_reducible refine Inv.foldl2 _ (fun _ _ _ => ?_) ?_
    | with_reducible apply hK
    | with_reducible intro _
    | split

theorem endWait_inv {K : Goals} {ρ : State} (n q : Nat) (w : Wait) (s : State)  (hI : Inv K ρ s) : Inv K ρ (endWait n q w s) := by
  unfold endWait
  repeat' first
    | with_reducible assumption
    | with_reducible apply modQueue_inv
    | with_reducible apply complete_inv
    | with_reducible apply touchQueue_inv
    | with_reducible apply dropSyncRef_inv
    | with_reducible refine Inv.foldl _ (fun _ _ _ => ?_) ?_
    | with_reducible refine Inv.foldl2 _ (fun _ _ _ => ?_) ?_
    | with_reducible apply hK
    | with_reducible intro _
    | split

theorem wakeWaiters_inv {K : Goals} {ρ : State} (n j : Nat) (s : State)  (hI : Inv K ρ s) : Inv K ρ (wakeWaiters n j s) := by
  unfold wakeWaiters
  repeat' first
    | with_reducible assumption
    | with_reducible apply endWait_inv
    | with_reducible refine Inv.foldl _ (fun _ _ _ => ?_) ?_
    | with_reducible refine Inv.foldl2 _ (fun _ _ _ => ?_) ?_
    | with_reducible apply hK
    | with_reducible intro _
    | split

theorem raiseSync_inv {K : Goals} {ρ : State} (n j v : Nat) (err : Bool) (s : State)  (hI : Inv K ρ s) : Inv K ρ (raiseSync n j v err s) := by
  unfold raiseSync
  repeat' first
    | with_reducible assumption
    | with_reducible apply wakeWaiters_inv
    | with_reducible apply setSync_inv

theorem applySignal_inv {K : Goals} {ρ : State} (g : Signal) (s : State)  (hI : Inv K ρ s) : Inv K ρ (applySignal g s) := by
  unfold applySignal
  repeat' first
    | with_reducible assumption
    | with_reducible apply raiseSync_inv
    | with_reducible apply complete_inv
    | with_reducible apply dropSyncRef_inv
    | with_reducible refine Inv.foldl _ (fun _ _ _ => ?_) ?_
    | with_reducible refine Inv.foldl2 _ (fun _ _ _ => ?_) ?_
    | with_reducible apply hK
    | with_reducible intro _
    | split

theorem advanceSyncs_inv {K : Goals} {ρ : State} (n : Nat) (owner : Option Nat) (keep : Bool) (s : State)  (hI : Inv K ρ s) : Inv K ρ (advanceSyncs n owner keep s) := by
  unfold advanceSyncs
  repeat' first
    | with_reducible assumption
    | with_reducible apply raiseSync_inv
    | with_reducible apply countSync_inv
    | with_reducible refine Inv.foldl _ (fun _ _ _ => ?_) ?_
    | with_reducible refine Inv.foldl2 _ (fun _ _ _ => ?_) ?_
    | with_reducible apply hK
    | with_reducible intro _
    | split

theorem dropOwned_inv {K : Goals} {ρ : State} (n c : Nat) (s : State)  (hI : Inv K ρ s) : Inv K ρ (dropOwned n c s) := by
  unfold dropOwned
  repeat' first
    | with_reducible assumption
    | with_reducible apply countObj_inv
    | with_reducible refine Inv.foldl _ (fun _ _ _ => ?_) ?_

theorem loseWait_inv {K : Goals} {ρ : State} (q : Nat) (s : State)  (hI : Inv K ρ s) : Inv K ρ (loseWait q s) := by
  unfold loseWait
  repeat' first
    | with_reducible assumption
    | with_reducible apply unreserve_inv
    | with_reducible apply modQueue_inv
    | with_reducible refine Inv.foldl _ (fun _ _ _ => ?_) ?_
    | with_reducible refine Inv.foldl2 _ (fun _ _ _ => ?_) ?_
    | with_reducible apply hK
    | with_reducible intro _
    | split

theorem dropHeld_inv {K : Goals} {ρ : State} (q : Nat) (st : Option Status) (s : State)  (hI : Inv K ρ s) : Inv K ρ (dropHeld q st s) := by
  unfold dropHeld
  repeat' first
    | with_reducible assumption
    | with_reducible apply complete_inv
    | with_reducible apply modQueue_inv
    | with_reducible apply loseWait_inv
    | with_reducible apply dropSyncRef_inv
    | with_reducible apply reject_inv
    | with_reducible refine Inv.foldl _ (fun _ _ _ => ?_) ?_
    | with_reducible refine Inv.foldl2 _ (fun _ _ _ => ?_) ?_
    | with_reducible apply hK
    | with_reducible intro _
    | split
    | fail_if_no_progress (with_reducible (refine Inv.put rfl rfl rfl rfl rfl rfl rfl rfl rfl rfl rfl rfl rfl rfl rfl rfl ⟨rfl, rfl, rfl, rfl, rfl⟩ rfl rfl rfl rfl ?_))
    | dsimp only

theorem dropSignals_inv {K : Goals} {ρ : State} (p : Signal → Bool) (st : Option Status) (s : State)  (hI : Inv K ρ s) : Inv K ρ (dropSignals p st s) := by
  unfold dropSignals
  repeat' first
    | with_reducible assumption
    | with_reducible apply dropSyncRef_inv
    | with_reducible apply complete_inv
    | with_reducible apply unreserve_inv
    | with_reducible apply modQueue_inv
    | with_reducible refine Inv.foldl _ (fun _ _ _ => ?_) ?_
    | with_reducible refine Inv.foldl2 _ (fun _ _ _ => ?_) ?_
    | with_reducible apply hK
    | with_reducible intro _
    | split
    | fail_if_no_progress (with_reducible (refine Inv.put rfl rfl rfl rfl rfl rfl rfl rfl rfl rfl rfl rfl rfl rfl rfl rfl ⟨rfl, rfl, rfl, rfl, rfl⟩ rfl rfl rfl rfl ?_))

theorem discardSignals_inv {K : Goals} {ρ : State} (p : Signal → Bool) (s : State)  (hI : Inv K ρ s) : Inv K ρ (discardSignals p s) := by
  unfold discardSignals
  repeat' first
    | with_reducible assumption
    | with_reducible apply unreserve_inv
    | with_reducible apply modQueue_inv
    | with_reducible refine Inv.foldl _ (fun _ _ _ => ?_) ?_
    | with_reducible refine Inv.foldl2 _ (fun _ _ _ => ?_) ?_
    | with_reducible apply hK
    | with_reducible intro _
    | split
    | fail_if_no_progress (with_reducible (refine Inv.put rfl rfl rfl rfl rfl rfl rfl rfl rfl rfl rfl rfl rfl rfl rfl rfl ⟨rfl, rfl, rfl, rfl, rfl⟩ rfl rfl rfl rfl ?_))

theorem killAll_inv {K : Goals} {ρ : State} (p : Step → Bool) (why : KillWhy) (s : State)  (hI : Inv K ρ s) : Inv K ρ (killAll p why s) := by
  unfold killAll
  repeat' first
    | with_reducible assumption
    | with_reducible apply killStep_inv
    | with_reducible refine Inv.foldl _ (fun _ _ _ => ?_) ?_

theorem stopQueue_inv {K : Goals} {ρ : State} (q : Nat) (reqSt : Status) (s : State)  (hI : Inv K ρ s) : Inv K ρ (stopQueue q reqSt s) := by
  unfold stopQueue
  repeat' first
    | with_reducible assumption
    | with_reducible apply modQueue_inv
    | with_reducible apply loseWait_inv
    | with_reducible apply discardSignals_inv
    | with_reducible apply killAll_inv
    | with_reducible apply failClass_inv
    | with_reducible apply reqSt_inv
    | with_reducible refine Inv.foldl _ (fun _ _ _ => ?_) ?_
    | with_reducible refine Inv.foldl2 _ (fun _ _ _ => ?_) ?_
    | with_reducible apply hK
    | with_reducible intro _
    | split
    | fail_if_no_progress (with_reducible (refine Inv.put rfl rfl rfl rfl rfl rfl rfl rfl rfl rfl rfl rfl rfl rfl rfl rfl ⟨rfl, rfl, rfl, rfl, rfl⟩ rfl rfl rfl rfl ?_))
    | dsimp only

theorem freeQueue_inv {K : Goals} {ρ : State} (q : Nat) (s : State)  (hI : Inv K ρ s) : Inv K ρ (freeQueue q s) := by
  unfold freeQueue
  repeat' first
    | with_reducible assumption
    | with_reducible apply dropSignals_inv
    | with_reducible apply dropRefs_inv
    | with_reducible apply dropSyncRef_inv
    | with_reducible refine Inv.foldl _ (fun _ _ _ => ?_) ?_
    | with_reducible refine Inv.foldl2 _ (fun _ _ _ => ?_) ?_
    | with_reducible apply hK
    | with_reducible intro _
    | split
    | fail_if_no_progress (with_reducible (refine Inv.put rfl rfl rfl rfl rfl rfl rfl rfl rfl rfl rfl rfl rfl rfl rfl rfl ⟨rfl, rfl, rfl, rfl, rfl⟩ rfl rfl rfl rfl ?_))

theorem loseQueue_inv {K : Goals} {ρ : State} (q : Nat) (s : State)  (hI : Inv K ρ s) : Inv K ρ (loseQueue q s) := by
  unfold loseQueue
  repeat' first
    | with_reducible assumption
    | with_reducible apply dropHeld_inv
    | with_reducible apply failClass_inv
    | with_reducible apply touchQueue_inv
    | with_reducible apply modQueue_inv
    | with_reducible refine Inv.foldl _ (fun _ _ _ => ?_) ?_
    | with_reducible refine Inv.foldl2 _ (fun _ _ _ => ?_) ?_
    | with_reducible apply hK
    | with_reducible intro _
    | split

theorem sweepLost_inv {K : Goals} {ρ : State} (s : State)  (hI : Inv K ρ s) : Inv K ρ (sweepLost s) := by
  unfold sweepLost
  repeat' first
    | with_reducible assumption
    | with_reducible apply killAll_inv
    | with_reducible apply dropSignals_inv
    | with_reducible apply loseQueue_inv
    | with_reducible refine Inv.foldl _ (fun _ _ _ => ?_) ?_

theorem endCmd_inv {K : Goals} {ρ : State} (c : Option CmdRef) (d : Done) (s : State)  (hI : Inv K ρ s) : Inv K ρ (endCmd c d s) := by
  unfold endCmd
  repeat' first
    | with_reducible assumption
    | with_reducible apply complete_inv
    | with_reducible refine Inv.foldl _ (fun _ _ _ => ?_) ?_
    | with_reducible refine Inv.foldl2 _ (fun _ _ _ => ?_) ?_
    | with_reducible apply hK
    | with_reducible intro _
    | split

theorem closeReset_inv {K : Goals} {ρ : State} (r : Reset) (s : State)  (hI : Inv K ρ s) : Inv K ρ (closeReset r s) := by
  unfold closeReset
  repeat' first
    | with_reducible assumption
    | with_reducible apply resetRecord_inv
    | with_reducible apply endCmd_inv
    | with_reducible refine Inv.foldl _ (fun _ _ _ => ?_) ?_
    | with_reducible refine Inv.foldl2 _ (fun _ _ _ => ?_) ?_
    | with_reducible apply hK
    | with_reducible intro _
    | split
    | fail_if_no_progress (with_reducible (refine Inv.put rfl rfl rfl rfl rfl rfl rfl rfl rfl rfl rfl rfl rfl rfl rfl rfl ⟨rfl, rfl, rfl, rfl, rfl⟩ rfl rfl rfl rfl ?_))

theorem sendAborts_inv {K : Goals} {ρ : State} (n slot : Nat) (reason : Status) (origin : Nat) (s : State)  (hI : Inv K ρ s) : Inv K ρ (sendAborts n slot reason origin s) := by
  unfold sendAborts
  repeat' first
    | with_reducible assumption
    | with_reducible apply foaSend_inv
    | with_reducible refine Inv.foldl _ (fun _ _ _ => ?_) ?_
    | with_reducible refine Inv.foldl2 _ (fun _ _ _ => ?_) ?_
    | with_reducible apply hK
    | with_reducible intro _
    | split
    | fail_if_no_progress (with_reducible (refine Inv.put rfl rfl rfl rfl rfl rfl rfl rfl rfl rfl rfl rfl rfl rfl rfl rfl ⟨rfl, rfl, rfl, rfl, rfl⟩ rfl rfl rfl rfl ?_))

theorem abortJob_inv {K : Goals} {ρ : State} (n slot : Nat) (reason : Status) (origin : Nat) (s : State)  (hI : Inv K ρ s) : Inv K ρ (abortJob n slot reason origin s) := by
  unfold abortJob
  repeat' first
    | with_reducible assumption
    | with_reducible apply sendAborts_inv
    | with_reducible refine Inv.foldl _ (fun _ _ _ => ?_) ?_
    | with_reducible refine Inv.foldl2 _ (fun _ _ _ => ?_) ?_
    | with_reducible apply hK
    | with_reducible intro _
    | split
    | fail_if_no_progress (with_reducible (refine Inv.put rfl rfl rfl rfl rfl rfl rfl rfl rfl rfl rfl rfl rfl rfl rfl rfl ⟨rfl, rfl, rfl, rfl, rfl⟩ rfl rfl rfl rfl ?_))
    | dsimp only

theorem abortJobs_inv {K : Goals} {ρ : State} (n : Nat) (reason : Status) (s : State)  (hI : Inv K ρ s) : Inv K ρ (abortJobs n reason s) := by
  unfold abortJobs
  repeat' first
    | with_reducible assumption
    | with_reducible apply abortJob_inv
    | with_reducible refine Inv.foldl _ (fun _ _ _ => ?_) ?_

theorem startWalk_inv {K : Goals} {ρ : State} (n : Nat) (s : State)  (hI : Inv K ρ s) : Inv K ρ (startWalk n s) := by
  unfold startWalk
  repeat' first
    | with_reducible assumption
    | with_reducible apply setLlc_inv
    | with_reducible apply drainAll_inv
    | with_reducible apply tidyLine_inv
    | with_reducible apply begin__inv
    | with_reducible apply putLlc_inv
    | with_reducible refine Inv.foldl _ (fun _ _ _ => ?_) ?_
    | with_reducible refine Inv.foldl2 _ (fun _ _ _ => ?_) ?_
    | with_reducible apply hK
    | with_reducible intro _
    | split
    | fail_if_no_progress (with_reducible (refine Inv.put rfl rfl rfl rfl rfl rfl rfl rfl rfl rfl rfl rfl rfl rfl rfl rfl ⟨rfl, rfl, rfl, rfl, rfl⟩ rfl rfl rfl rfl ?_))
    | dsimp only

theorem endWalk_inv {K : Goals} {ρ : State} (n : Nat) (s : State)  (hI : Inv K ρ s) : Inv K ρ (endWalk n s) := by
  unfold endWalk
  repeat' first
    | with_reducible assumption
    | with_reducible apply drainAll_inv
    | with_reducible refine Inv.foldl _ (fun _ _ _ => ?_) ?_
    | with_reducible refine Inv.foldl2 _ (fun _ _ _ => ?_) ?_
    | with_reducible apply hK
    | with_reducible intro _
    | split
    | fail_if_no_progress (with_reducible (refine Inv.put rfl rfl rfl rfl rfl rfl rfl rfl rfl rfl rfl rfl rfl rfl rfl rfl ⟨rfl, rfl, rfl, rfl, rfl⟩ rfl rfl rfl rfl ?_))

theorem fabricFall_inv {K : Goals} {ρ : State} (ts : List Nat) (s : State)  (hI : Inv K ρ s) : Inv K ρ (fabricFall ts s) := by
  unfold fabricFall
  repeat' first
    | with_reducible assumption
    | with_reducible apply emit_inv
    | with_reducible refine Inv.foldl _ (fun _ _ _ => ?_) ?_
    | with_reducible refine Inv.foldl2 _ (fun _ _ _ => ?_) ?_
    | with_reducible apply hK
    | with_reducible intro _
    | split
    | fail_if_no_progress (with_reducible (refine Inv.put rfl rfl rfl rfl rfl rfl rfl rfl rfl rfl rfl rfl rfl rfl rfl rfl ⟨rfl, rfl, rfl, rfl, rfl⟩ rfl rfl rfl rfl ?_))

theorem fabricRise_inv {K : Goals} {ρ : State} (ts : List Nat) (s : State)  (hI : Inv K ρ s) : Inv K ρ (fabricRise ts s) := by
  unfold fabricRise
  repeat' first
    | with_reducible assumption
    | with_reducible apply emit_inv
    | with_reducible refine Inv.foldl _ (fun _ _ _ => ?_) ?_
    | with_reducible refine Inv.foldl2 _ (fun _ _ _ => ?_) ?_
    | with_reducible apply hK
    | with_reducible intro _
    | split
    | fail_if_no_progress (with_reducible (refine Inv.put rfl rfl rfl rfl rfl rfl rfl rfl rfl rfl rfl rfl rfl rfl rfl rfl ⟨rfl, rfl, rfl, rfl, rfl⟩ rfl rfl rfl rfl ?_))

theorem takeEngine_inv {K : Goals} {ρ : State} (e : Nat) (s : State)  (hI : Inv K ρ s) : Inv K ρ (takeEngine e s) := by
  unfold takeEngine
  repeat' first
    | with_reducible assumption
    | with_reducible apply modEngine_inv

theorem raiseEngine_inv {K : Goals} {ρ : State} (e : Nat) (s : State)  (hI : Inv K ρ s) : Inv K ρ (raiseEngine e s) := by
  unfold raiseEngine
  repeat' first
    | with_reducible assumption
    | with_reducible apply modEngine_inv

theorem serveEngine_inv {K : Goals} {ρ : State} (e : Nat) (s : State)  (hI : Inv K ρ s) : Inv K ρ (serveEngine e s) := by
  unfold serveEngine
  repeat' first
    | with_reducible assumption
    | with_reducible apply modEngine_inv

theorem forgetAcks_inv {K : Goals} {ρ : State} (u : Nat) (s : State)  (hI : Inv K ρ s) : Inv K ρ (forgetAcks u s) := by
  unfold forgetAcks
  repeat' first
    | with_reducible assumption
    | with_reducible apply ackKill_inv
    | with_reducible refine Inv.foldl _ (fun _ _ _ => ?_) ?_

theorem endAborted_inv {K : Goals} {ρ : State} (s : State)  (hI : Inv K ρ s) : Inv K ρ (endAborted s) := by
  unfold endAborted
  repeat' first
    | with_reducible assumption
    | with_reducible refine fresh_invE (by assumption) ?_
    | with_reducible apply fresh_inv
    | with_reducible refine Inv.foldl _ (fun _ _ _ => ?_) ?_
    | with_reducible refine Inv.foldl2 _ (fun _ _ _ => ?_) ?_
    | with_reducible apply hK
    | with_reducible intro _
    | split
    | fail_if_no_progress (with_reducible (refine Inv.put rfl rfl rfl rfl rfl rfl rfl rfl rfl rfl rfl rfl rfl rfl rfl rfl ⟨rfl, rfl, rfl, rfl, rfl⟩ rfl rfl rfl rfl ?_))

theorem abortTest_inv {K : Goals} {ρ : State} (e : Nat) (s : State)  (hI : Inv K ρ s) : Inv K ρ (abortTest e s) := by
  unfold abortTest
  repeat' first
    | with_reducible assumption
    | with_reducible apply endAborted_inv
    | with_reducible refine Inv.foldl _ (fun _ _ _ => ?_) ?_
    | with_reducible refine Inv.foldl2 _ (fun _ _ _ => ?_) ?_
    | with_reducible apply hK
    | with_reducible intro _
    | split

theorem markKills_inv {K : Goals} {ρ : State} (d : Domain) (s : State)  (hI : Inv K ρ s) : Inv K ρ (markKills d s) := by
  unfold markKills
  repeat' first
    | with_reducible assumption
    | with_reducible refine Inv.foldl _ (fun _ _ _ => ?_) ?_
    | with_reducible refine Inv.foldl2 _ (fun _ _ _ => ?_) ?_
    | with_reducible apply hK
    | with_reducible intro _
    | split
    | fail_if_no_progress (with_reducible (refine Inv.put rfl rfl rfl rfl rfl rfl rfl rfl rfl rfl rfl rfl rfl rfl rfl rfl ⟨rfl, rfl, rfl, rfl, rfl⟩ rfl rfl rfl rfl ?_))

theorem startKills_inv {K : Goals} {ρ : State} (r : Reset) (s : State)  (hI : Inv K ρ s) : Inv K ρ (startKills r s) := by
  unfold startKills
  repeat' first
    | with_reducible assumption
    | with_reducible apply markKills_inv
    | with_reducible apply killAll_inv
    | with_reducible apply touchQueue_inv
    | with_reducible apply dropHeld_inv
    | with_reducible apply modQueue_inv
    | with_reducible apply stopQueue_inv
    | with_reducible apply abortTest_inv
    | with_reducible apply takeEngine_inv
    | with_reducible apply forgetAcks_inv
    | with_reducible apply abortJobs_inv
    | with_reducible apply dropSignals_inv
    | with_reducible apply fabricFall_inv
    | with_reducible apply discardSignals_inv
    | with_reducible apply setCtx_inv
    | with_reducible apply loseWait_inv
    | with_reducible refine Inv.foldl _ (fun _ _ _ => ?_) ?_
    | with_reducible refine Inv.foldl2 _ (fun _ _ _ => ?_) ?_
    | with_reducible apply hK
    | with_reducible intro _
    | split
    | fail_if_no_progress (with_reducible (refine Inv.put rfl rfl rfl rfl rfl rfl rfl rfl rfl rfl rfl rfl rfl rfl rfl rfl ⟨rfl, rfl, rfl, rfl, rfl⟩ rfl rfl rfl rfl ?_))
    | dsimp only

theorem stripRefs_inv {K : Goals} {ρ : State} (d : Domain) (s : State)  (hI : Inv K ρ s) : Inv K ρ (stripRefs d s) := by
  unfold stripRefs
  repeat' first
    | with_reducible assumption
    | with_reducible apply dropRefs_inv
    | with_reducible apply modStep_inv
    | with_reducible refine Inv.foldl _ (fun _ _ _ => ?_) ?_
    | with_reducible refine Inv.foldl2 _ (fun _ _ _ => ?_) ?_
    | with_reducible apply hK
    | with_reducible intro _
    | split

theorem dropAccepted_inv {K : Goals} {ρ : State} (n c : Nat) (s : State) (q : Nat)  (hI : Inv K ρ s) : Inv K ρ (dropAccepted n c s q) := by
  unfold dropAccepted
  repeat' first
    | with_reducible assumption
    | with_reducible apply dropRefs_inv
    | with_reducible apply dropSyncRef_inv
    | with_reducible apply modQueue_inv
    | with_reducible refine Inv.foldl _ (fun _ _ _ => ?_) ?_

theorem endContext_inv {K : Goals} {ρ : State} (n c : Nat) (s : State)  (hI : Inv K ρ s) : Inv K ρ (endContext n c s) := by
  unfold endContext
  repeat' first
    | with_reducible assumption
    | with_reducible apply freeQueue_inv
    | with_reducible apply advanceSyncs_inv
    | with_reducible apply dropSignals_inv
    | with_reducible apply stripRefs_inv
    | with_reducible apply setCtx_inv
    | with_reducible refine Inv.foldl _ (fun _ _ _ => ?_) ?_

theorem raisePart_inv {K : Goals} {ρ : State} (n : Nat) (s : State)  (hI : Inv K ρ s) : Inv K ρ (raisePart n s) := by
  unfold raisePart
  repeat' first
    | with_reducible assumption
    | with_reducible apply raiseEngine_inv
    | with_reducible apply abortTest_inv
    | with_reducible apply takeEngine_inv
    | with_reducible refine Inv.foldl _ (fun _ _ _ => ?_) ?_
    | with_reducible refine Inv.foldl2 _ (fun _ _ _ => ?_) ?_
    | with_reducible apply hK
    | with_reducible intro _
    | split
    | fail_if_no_progress (with_reducible (refine Inv.put rfl rfl rfl rfl rfl rfl rfl rfl rfl rfl rfl rfl rfl rfl rfl rfl ⟨rfl, rfl, rfl, rfl, rfl⟩ rfl rfl rfl rfl ?_))

theorem endPartition_inv {K : Goals} {ρ : State} (n : Nat) (s : State)  (hI : Inv K ρ s) : Inv K ρ (endPartition n s) := by
  unfold endPartition
  repeat' first
    | with_reducible assumption
    | with_reducible apply advanceSyncs_inv
    | with_reducible apply setCtx_inv
    | with_reducible apply countObj_inv
    | with_reducible apply countSync_inv
    | with_reducible apply serveEngine_inv
    | with_reducible apply fabricRise_inv
    | with_reducible refine Inv.foldl _ (fun _ _ _ => ?_) ?_
    | with_reducible refine Inv.foldl2 _ (fun _ _ _ => ?_) ?_
    | with_reducible apply hK
    | with_reducible intro _
    | split
    | fail_if_no_progress (with_reducible (refine Inv.put rfl rfl rfl rfl rfl rfl rfl rfl rfl rfl rfl rfl rfl rfl rfl rfl ⟨rfl, rfl, rfl, rfl, rfl⟩ rfl rfl rfl rfl ?_))

theorem summary_inv {K : Goals} {ρ : State} (r : Reset) (s : State)  (hI : Inv K ρ s) : Inv K ρ (summary r s) := by
  unfold summary
  repeat' first
    | with_reducible assumption
    | with_reducible apply unreserve_inv
    | with_reducible apply progress_inv
    | with_reducible apply modQueue_inv
    | with_reducible apply putRec_inv
    | with_reducible refine Inv.foldl _ (fun _ _ _ => ?_) ?_
    | with_reducible refine Inv.foldl2 _ (fun _ _ _ => ?_) ?_
    | with_reducible apply hK
    | with_reducible intro _
    | split

theorem endWork_inv {K : Goals} {ρ : State} (r : Reset) (s : State)  (hI : Inv K ρ s) : Inv K ρ (endWork r s) := by
  unfold endWork
  repeat' first
    | with_reducible assumption
    | with_reducible apply stripRefs_inv
    | with_reducible apply summary_inv
    | with_reducible apply dropSyncRef_inv
    | with_reducible apply freeQueue_inv
    | with_reducible apply advanceSyncs_inv
    | with_reducible apply dropOwned_inv
    | with_reducible apply dropSignals_inv
    | with_reducible apply dropAccepted_inv
    | with_reducible refine Inv.foldl _ (fun _ _ _ => ?_) ?_
    | with_reducible refine Inv.foldl2 _ (fun _ _ _ => ?_) ?_
    | with_reducible apply hK
    | with_reducible intro _
    | split
    | fail_if_no_progress (with_reducible (refine Inv.put rfl rfl rfl rfl rfl rfl rfl rfl rfl rfl rfl rfl rfl rfl rfl rfl ⟨rfl, rfl, rfl, rfl, rfl⟩ rfl rfl rfl rfl ?_))

theorem afterKills_inv {K : Goals} {ρ : State} (r : Reset) (s : State)  (hI : Inv K ρ s) : Inv K ρ (afterKills r s) := by
  unfold afterKills
  repeat' first
    | with_reducible assumption
    | with_reducible apply closeReset_inv
    | with_reducible apply endContext_inv
    | with_reducible apply raiseEngine_inv
    | with_reducible apply startWalk_inv
    | with_reducible refine Inv.foldl _ (fun _ _ _ => ?_) ?_
    | with_reducible refine Inv.foldl2 _ (fun _ _ _ => ?_) ?_
    | with_reducible apply hK
    | with_reducible intro _
    | split
    | fail_if_no_progress (with_reducible (refine Inv.put rfl rfl rfl rfl rfl rfl rfl rfl rfl rfl rfl rfl rfl rfl rfl rfl ⟨rfl, rfl, rfl, rfl, rfl⟩ rfl rfl rfl rfl ?_))

theorem advanceKills_inv {K : Goals} {ρ : State} (s : State)  (hI : Inv K ρ s) : Inv K ρ (advanceKills s) := by
  unfold advanceKills
  repeat' first
    | with_reducible assumption
    | with_reducible apply endWork_inv
    | with_reducible apply afterKills_inv
    | with_reducible refine Inv.foldl _ (fun _ _ _ => ?_) ?_
    | with_reducible refine Inv.foldl2 _ (fun _ _ _ => ?_) ?_
    | with_reducible apply hK
    | with_reducible intro _
    | split
    | fail_if_no_progress (with_reducible (refine Inv.put rfl rfl rfl rfl rfl rfl rfl rfl rfl rfl rfl rfl rfl rfl rfl rfl ⟨rfl, rfl, rfl, rfl, rfl⟩ rfl rfl rfl rfl ?_))
    | dsimp only

theorem endReplay_inv {K : Goals} {ρ : State} (r : Reset) (p : Replay) (s : State)  (hI : Inv K ρ s) : Inv K ρ (endReplay r p s) := by
  unfold endReplay
  repeat' first
    | with_reducible assumption
    | with_reducible apply serveEngine_inv
    | with_reducible apply closeReset_inv
    | with_reducible refine Inv.foldl _ (fun _ _ _ => ?_) ?_
    | with_reducible refine Inv.foldl2 _ (fun _ _ _ => ?_) ?_
    | with_reducible apply hK
    | with_reducible intro _
    | split
    | fail_if_no_progress (with_reducible (refine Inv.put rfl rfl rfl rfl rfl rfl rfl rfl rfl rfl rfl rfl rfl rfl rfl rfl ⟨rfl, rfl, rfl, rfl, rfl⟩ rfl rfl rfl rfl ?_))

theorem advanceReplay_inv {K : Goals} {ρ : State} (s : State)  (hI : Inv K ρ s) : Inv K ρ (advanceReplay s) := by
  unfold advanceReplay
  repeat' first
    | with_reducible assumption
    | with_reducible apply endReplay_inv
    | with_reducible refine Inv.foldl _ (fun _ _ _ => ?_) ?_
    | with_reducible refine Inv.foldl2 _ (fun _ _ _ => ?_) ?_
    | with_reducible apply hK
    | with_reducible intro _
    | split
    | fail_if_no_progress (with_reducible (refine Inv.put rfl rfl rfl rfl rfl rfl rfl rfl rfl rfl rfl rfl rfl rfl rfl rfl ⟨rfl, rfl, rfl, rfl, rfl⟩ rfl rfl rfl rfl ?_))
    | dsimp only

theorem startJudge_inv {K : Goals} {ρ : State} (s : State)  (hI : Inv K ρ s) : Inv K ρ (startJudge s) := by
  unfold startJudge
  repeat' first
    | with_reducible assumption
    | with_reducible refine Inv.foldl _ (fun _ _ _ => ?_) ?_
    | with_reducible refine Inv.foldl2 _ (fun _ _ _ => ?_) ?_
    | with_reducible apply hK
    | with_reducible intro _
    | split
    | fail_if_no_progress (with_reducible (refine Inv.put rfl rfl rfl rfl rfl rfl rfl rfl rfl rfl rfl rfl rfl rfl rfl rfl ⟨rfl, rfl, rfl, rfl, rfl⟩ rfl rfl rfl rfl ?_))

theorem startCapture_inv {K : Goals} {ρ : State} (n : Nat) (r : Reset) (s : State)  (hI : Inv K ρ s) : Inv K ρ (startCapture n r s) := by
  unfold startCapture
  repeat' first
    | with_reducible assumption
    | with_reducible apply writeDva_inv
    | with_reducible refine Inv.foldl _ (fun _ _ _ => ?_) ?_
    | with_reducible refine Inv.foldl2 _ (fun _ _ _ => ?_) ?_
    | with_reducible apply hK
    | with_reducible intro _
    | split
    | fail_if_no_progress (with_reducible (refine Inv.put rfl rfl rfl rfl rfl rfl rfl rfl rfl rfl rfl rfl rfl rfl rfl rfl ⟨rfl, rfl, rfl, rfl, rfl⟩ rfl rfl rfl rfl ?_))

theorem startReset_inv {K : Goals} {ρ : State} (r : Reset) (s : State)  (hI : Inv K ρ s) : Inv K ρ (startReset r s) := by
  unfold startReset
  repeat' first
    | with_reducible assumption
    | with_reducible apply startKills_inv
    | with_reducible apply startCapture_inv
    | with_reducible apply endCmd_inv
    | with_reducible refine Inv.foldl _ (fun _ _ _ => ?_) ?_
    | with_reducible refine Inv.foldl2 _ (fun _ _ _ => ?_) ?_
    | with_reducible apply hK
    | with_reducible intro _
    | split

theorem stopNarrow_inv {K : Goals} {ρ : State} (s : State)  (hI : Inv K ρ s) : Inv K ρ (stopNarrow s) := by
  unfold stopNarrow
  repeat' first
    | with_reducible assumption
    | with_reducible apply endCmd_inv
    | with_reducible apply serveEngine_inv
    | with_reducible apply fabricRise_inv
    | with_reducible refine Inv.foldl _ (fun _ _ _ => ?_) ?_
    | with_reducible refine Inv.foldl2 _ (fun _ _ _ => ?_) ?_
    | with_reducible apply hK
    | with_reducible intro _
    | split
    | fail_if_no_progress (with_reducible (refine Inv.put rfl rfl rfl rfl rfl rfl rfl rfl rfl rfl rfl rfl rfl rfl rfl rfl ⟨rfl, rfl, rfl, rfl, rfl⟩ rfl rfl rfl rfl ?_))

theorem stopAll_inv {K : Goals} {ρ : State} (s : State)  (hI : Inv K ρ s) : Inv K ρ (stopAll s) := by
  unfold stopAll
  repeat' first
    | with_reducible assumption
    | with_reducible apply endCmd_inv
    | with_reducible refine Inv.foldl _ (fun _ _ _ => ?_) ?_
    | with_reducible refine Inv.foldl2 _ (fun _ _ _ => ?_) ?_
    | with_reducible apply hK
    | with_reducible intro _
    | split
    | fail_if_no_progress (with_reducible (refine Inv.put rfl rfl rfl rfl rfl rfl rfl rfl rfl rfl rfl rfl rfl rfl rfl rfl ⟨rfl, rfl, rfl, rfl, rfl⟩ rfl rfl rfl rfl ?_))

theorem nextReset_inv {K : Goals} {ρ : State} (s : State)  (hI : Inv K ρ s) : Inv K ρ (nextReset s) := by
  unfold nextReset
  repeat' first
    | with_reducible assumption
    | with_reducible apply stopNarrow_inv
    | with_reducible apply startReset_inv
    | with_reducible refine Inv.foldl _ (fun _ _ _ => ?_) ?_
    | with_reducible refine Inv.foldl2 _ (fun _ _ _ => ?_) ?_
    | with_reducible apply hK
    | with_reducible intro _
    | split
    | fail_if_no_progress (with_reducible (refine Inv.put rfl rfl rfl rfl rfl rfl rfl rfl rfl rfl rfl rfl rfl rfl rfl rfl ⟨rfl, rfl, rfl, rfl, rfl⟩ rfl rfl rfl rfl ?_))
    | dsimp only

theorem settleN_inv {K : Goals} {ρ : State} (k : Nat) (s : State) (hI : Inv K ρ s) : Inv K ρ (settleN k s) := by
  induction k generalizing s with
  | zero => exact hI
  | succ k ih =>
    unfold settleN
    repeat' first
      | with_reducible assumption
      | with_reducible apply ih
      | with_reducible apply nextReset_inv
      | with_reducible apply advanceReplay_inv
      | with_reducible apply advanceKills_inv
      | with_reducible apply sweepLost_inv

theorem closeJobs_inv {K : Goals} {ρ : State} (s : State)  (hI : Inv K ρ s) : Inv K ρ (closeJobs s) := by
  unfold closeJobs
  repeat' first
    | with_reducible assumption
    | with_reducible refine Inv.foldl _ (fun _ _ _ => ?_) ?_
    | with_reducible refine Inv.foldl2 _ (fun _ _ _ => ?_) ?_
    | with_reducible apply hK
    | with_reducible intro _
    | split
    | fail_if_no_progress (with_reducible (refine Inv.put rfl rfl rfl rfl rfl rfl rfl rfl rfl rfl rfl rfl rfl rfl rfl rfl ⟨rfl, rfl, rfl, rfl, rfl⟩ rfl rfl rfl rfl ?_))

theorem setKey_inv {K : Goals} {ρ : State} (k : Nat) (v : KeyState) (s : State)  (hI : Inv K ρ s) : Inv K ρ (setKey k v s) := by
  unfold setKey
  repeat' first
    | with_reducible assumption
    | with_reducible refine Inv.foldl _ (fun _ _ _ => ?_) ?_
    | with_reducible refine Inv.foldl2 _ (fun _ _ _ => ?_) ?_
    | with_reducible apply hK
    | with_reducible intro _
    | split
    | fail_if_no_progress (with_reducible (refine Inv.put rfl rfl rfl rfl rfl rfl rfl rfl rfl rfl rfl rfl rfl rfl rfl rfl ⟨rfl, rfl, rfl, rfl, rfl⟩ rfl rfl rfl rfl ?_))

theorem endRetire_inv {K : Goals} {ρ : State} (k : Nat) (s : State)  (hI : Inv K ρ s) : Inv K ρ (endRetire k s) := by
  unfold endRetire
  repeat' first
    | with_reducible assumption
    | with_reducible apply endCmd_inv
    | with_reducible apply setKey_inv
    | with_reducible refine Inv.foldl _ (fun _ _ _ => ?_) ?_
    | with_reducible refine Inv.foldl2 _ (fun _ _ _ => ?_) ?_
    | with_reducible apply hK
    | with_reducible intro _
    | split
    | fail_if_no_progress (with_reducible (refine Inv.put rfl rfl rfl rfl rfl rfl rfl rfl rfl rfl rfl rfl rfl rfl rfl rfl ⟨rfl, rfl, rfl, rfl, rfl⟩ rfl rfl rfl rfl ?_))
    | dsimp only

theorem endRetires_inv {K : Goals} {ρ : State} (s : State)  (hI : Inv K ρ s) : Inv K ρ (endRetires s) := by
  unfold endRetires
  repeat' first
    | with_reducible assumption
    | with_reducible apply endRetire_inv
    | with_reducible refine Inv.foldl _ (fun _ _ _ => ?_) ?_

theorem reapAll_inv {K : Goals} {ρ : State} (s : State)  (hI : Inv K ρ s) : Inv K ρ (reapAll s) := by
  unfold reapAll
  repeat' first
    | with_reducible assumption
    | with_reducible apply reapCtx_inv
    | with_reducible refine Inv.foldl _ (fun _ _ _ => ?_) ?_

theorem settle_inv {K : Goals} {ρ : State} (s : State)  (hI : Inv K ρ s) : Inv K ρ (settle s) := by
  unfold settle
  repeat' first
    | with_reducible assumption
    | with_reducible apply reapAll_inv
    | with_reducible apply closeJobs_inv
    | with_reducible apply endRetires_inv
    | with_reducible apply settleN_inv
    | with_reducible apply goLoads_inv
    | with_reducible apply readOutputs_inv
    | with_reducible apply goOn_inv
    | with_reducible apply retryBacked_inv

theorem advanceHead_inv {K : Goals} {ρ : State} (q : Nat) (s : State)  (hI : Inv K ρ s) : Inv K ρ (advanceHead q s) := by
  unfold advanceHead
  repeat' first
    | with_reducible assumption
    | with_reducible apply modQueue_inv

theorem setHead_inv {K : Goals} {ρ : State} (q p : Nat) (s : State)  (hI : Inv K ρ s) : Inv K ρ (setHead q p s) := by
  unfold setHead
  repeat' first
    | with_reducible assumption
    | with_reducible apply modQueue_inv

theorem ringHolds_inv {K : Goals} {ρ : State} (x : Queue) (raw : Desc) (s : State)  (hI : Inv K ρ s) : Inv K ρ (ringHolds x raw s).2 := by
  unfold ringHolds
  repeat' first
    | with_reducible assumption
    | with_reducible refine readNow_invE (by assumption) ?_
    | with_reducible apply readNow_inv
    | with_reducible refine Inv.foldl _ (fun _ _ _ => ?_) ?_
    | with_reducible refine Inv.foldl2 _ (fun _ _ _ => ?_) ?_
    | with_reducible apply hK
    | with_reducible intro _
    | split

theorem ringHolds_invE {K : Goals} {ρ : State} {x : Queue} {raw : Desc} {s : State} {xa xu} (hE : ringHolds x raw s = (xa, xu))  (hI : Inv K ρ s) : Inv K ρ xu := by
  have h := ringHolds_inv x raw s  hI
  rw [hE] at h
  exact h

theorem closePos_inv {K : Goals} {ρ : State} (c : CmdRef) (st : Status) (detail : Nat) (s : State)  (hI : Inv K ρ s) : Inv K ρ (closePos c st detail s) := by
  unfold closePos
  repeat' first
    | with_reducible assumption
    | with_reducible apply putRec_inv
    | with_reducible apply progress_inv

theorem refuse_inv {K : Goals} {ρ : State} (c : CmdRef) (st : Status) (detail : Nat) (s : State)  (hI : Inv K ρ s) : Inv K ρ (refuse c st detail s) := by
  unfold refuse
  repeat' first
    | with_reducible assumption
    | with_reducible apply touchQueue_inv
    | with_reducible apply reject_inv
    | with_reducible refine Inv.foldl _ (fun _ _ _ => ?_) ?_
    | with_reducible refine Inv.foldl2 _ (fun _ _ _ => ?_) ?_
    | with_reducible apply hK
    | with_reducible intro _
    | split
    | fail_if_no_progress (with_reducible (refine Inv.put rfl rfl rfl rfl rfl rfl rfl rfl rfl rfl rfl rfl rfl rfl rfl rfl ⟨rfl, rfl, rfl, rfl, rfl⟩ rfl rfl rfl rfl ?_))

theorem failPos_inv {K : Goals} {ρ : State} (q : Nat) (poisoned : Bool) (s : State)  (hI : Inv K ρ s) : Inv K ρ (failPos q poisoned s) := by
  unfold failPos
  repeat' first
    | with_reducible assumption
    | with_reducible apply modQueue_inv
    | with_reducible apply advanceHead_inv
    | with_reducible apply touchQueue_inv
    | with_reducible apply closePos_inv
    | with_reducible refine Inv.foldl _ (fun _ _ _ => ?_) ?_
    | with_reducible refine Inv.foldl2 _ (fun _ _ _ => ?_) ?_
    | with_reducible apply hK
    | with_reducible intro _
    | split

theorem gate_inv {K : Goals} {ρ : State} (isOp : Nat → Bool) (f : CreateFetch) (extra : Nat) (s : State)  (hI : Inv K ρ s) : Inv K ρ (gate isOp f extra s).2 := by
  unfold gate
  repeat' first
    | with_reducible assumption
    | with_reducible refine ringHolds_invE (by assumption) ?_
    | with_reducible apply ringHolds_inv
    | with_reducible refine transfer_invE (by assumption) ?_
    | with_reducible apply transfer_inv
    | with_reducible apply failPos_inv
    | with_reducible apply touchQueue_inv
    | with_reducible apply closePos_inv
    | with_reducible apply modQueue_inv
    | with_reducible apply advanceHead_inv
    | with_reducible apply refuse_inv
    | with_reducible refine Inv.foldl _ (fun _ _ _ => ?_) ?_
    | with_reducible refine Inv.foldl2 _ (fun _ _ _ => ?_) ?_
    | with_reducible apply hK
    | with_reducible intro _
    | split
    | fail_if_no_progress (with_reducible (refine Inv.put rfl rfl rfl rfl rfl rfl rfl rfl rfl rfl rfl rfl rfl rfl rfl rfl ⟨rfl, rfl, rfl, rfl, rfl⟩ rfl rfl rfl rfl ?_))
    | dsimp only

theorem gate_invE {K : Goals} {ρ : State} {isOp : Nat → Bool} {f : CreateFetch} {extra : Nat} {s : State} {xa xu} (hE : gate isOp f extra s = (xa, xu))  (hI : Inv K ρ s) : Inv K ρ xu := by
  have h := gate_inv isOp f extra s  hI
  rw [hE] at h
  exact h

theorem fetchDo_inv {K : Goals} {ρ : State} (op : Nat) (f : Fetch) (body : Cmd → State → State) (s : State) (hK : ∀ x0 t, Inv K ρ t → Inv K ρ (body x0 t)) (hI : Inv K ρ s) : Inv K ρ (fetchDo op f body s) := by
  unfold fetchDo
  repeat' first
    | with_reducible assumption
    | with_reducible refine gate_invE (by assumption) ?_
    | with_reducible apply gate_inv
    | with_reducible apply touchQueue_inv
    | with_reducible refine Inv.foldl _ (fun _ _ _ => ?_) ?_
    | with_reducible refine Inv.foldl2 _ (fun _ _ _ => ?_) ?_
    | with_reducible apply hK
    | with_reducible intro _
    | split

theorem hold_inv {K : Goals} {ρ : State} (c : Cmd) (seq part dva : Nat) (s : State)  (hI : Inv K ρ s) : Inv K ρ (hold c seq part dva s) := by
  unfold hold
  repeat' first
    | with_reducible assumption
    | with_reducible apply touchQueue_inv
    | with_reducible apply modQueue_inv

theorem holdMiss_inv {K : Goals} {ρ : State} (c : Cmd) (n level dva : Nat) (s : State)  (hI : Inv K ρ s) : Inv K ρ (holdMiss c n level dva s) := by
  unfold holdMiss
  repeat' first
    | with_reducible assumption
    | with_reducible apply hold_inv
    | with_reducible apply evPush_inv

theorem atcRoom_inv {K : Goals} {ρ : State} (n : Nat) (s : State) (hI : Inv K ρ s) : ∀ u, atcRoom n s = some u → Inv K ρ u := by
  unfold atcRoom
  intro u
  split
  · rintro ⟨⟩
    exact hI
  · split
    · intro h
      cases h
    · rintro ⟨⟩
      repeat' first
        | with_reducible assumption
        | with_reducible refine Inv.foldl _ (fun _ _ _ => ?_) ?_
        | with_reducible refine Inv.foldl2 _ (fun _ _ _ => ?_) ?_
        | with_reducible apply hK
        | with_reducible intro _
        | split
        | fail_if_no_progress (with_reducible (refine Inv.put rfl rfl rfl rfl rfl rfl rfl rfl rfl rfl rfl rfl rfl rfl rfl rfl ⟨rfl, rfl, rfl, rfl, rfl⟩ rfl rfl rfl rfl ?_))

theorem atcRoom_invE {K : Goals} {ρ : State} {n : Nat} {s : State} {u} (hE : atcRoom n s = some u)  (hI : Inv K ρ s) : Inv K ρ u := atcRoom_inv n s  hI _ hE

theorem pageOrFail_inv {K : Goals} {ρ : State} (n : Nat) (g : Rng) (s : State)  (hI : Inv K ρ s) : Inv K ρ (pageOrFail n g s).2 := by
  unfold pageOrFail
  repeat' first
    | with_reducible assumption
    | with_reducible apply emit_inv
    | with_reducible refine Inv.foldl _ (fun _ _ _ => ?_) ?_
    | with_reducible refine Inv.foldl2 _ (fun _ _ _ => ?_) ?_
    | with_reducible apply hK
    | with_reducible intro _
    | split
    | fail_if_no_progress (with_reducible (refine Inv.put rfl rfl rfl rfl rfl rfl rfl rfl rfl rfl rfl rfl rfl rfl rfl rfl ⟨rfl, rfl, rfl, rfl, rfl⟩ rfl rfl rfl rfl ?_))

theorem pageOrFail_invE {K : Goals} {ρ : State} {n : Nat} {g : Rng} {s : State} {xa xu} (hE : pageOrFail n g s = (xa, xu))  (hI : Inv K ρ s) : Inv K ρ xu := by
  have h := pageOrFail_inv n g s  hI
  rw [hE] at h
  exact h

theorem judgeEntry_inv {K : Goals} {ρ : State} (n : Nat) (g : Rng) (s : State)  (hI : Inv K ρ s) : Inv K ρ (judgeEntry n g s).2 := by
  unfold judgeEntry
  repeat' first
    | with_reducible assumption
    | with_reducible refine pageOrFail_invE (by assumption) ?_
    | with_reducible apply pageOrFail_inv
    | with_reducible refine Inv.foldl _ (fun _ _ _ => ?_) ?_
    | with_reducible refine Inv.foldl2 _ (fun _ _ _ => ?_) ?_
    | with_reducible apply hK
    | with_reducible intro _
    | split

theorem judgeEntry_invE {K : Goals} {ρ : State} {n : Nat} {g : Rng} {s : State} {xa xu} (hE : judgeEntry n g s = (xa, xu))  (hI : Inv K ρ s) : Inv K ρ xu := by
  have h := judgeEntry_inv n g s  hI
  rw [hE] at h
  exact h

theorem hostOne_inv {K : Goals} {ρ : State} (n ctx : Nat) (g : Rng) (answers : List AtsAnswer) (s : State) (hI : Inv K ρ s) :
    Inv K ρ (hostOne n ctx g answers s).2.2 := by
  unfold hostOne
  split
  · exact hI
  · split
    · exact hI
    · split
      · exact judgeEntry_inv _ _ _ hI
      · split
        · exact hI
        · rename_i t ht
          have ht := atcRoom_invE ht hI
          have h1 : Inv K ρ (emit (.ats (.vf n) (g.dva % 2 ^ 56) g.size)
              { t with tu := { t.tu with atsRequests := satAdd 64 t.tu.atsRequests 1 } }) := by
            repeat' first
              | with_reducible assumption
              | with_reducible refine judgeEntry_invE (by assumption) ?_
              | with_reducible apply judgeEntry_inv
              | with_reducible refine atcRoom_invE (by assumption) ?_
              | with_reducible apply emit_inv
              | with_reducible refine Inv.foldl _ (fun _ _ _ => ?_) ?_
              | with_reducible refine Inv.foldl2 _ (fun _ _ _ => ?_) ?_
              | with_reducible apply hK
              | with_reducible intro _
              | split
              | fail_if_no_progress (with_reducible (refine Inv.put rfl rfl rfl rfl rfl rfl rfl rfl rfl rfl rfl rfl rfl rfl rfl rfl ⟨rfl, rfl, rfl, rfl, rfl⟩ rfl rfl rfl rfl ?_))
          split
          · exact h1
          · refine judgeEntry_inv _ _ _ ?_
            exact Inv.put rfl rfl rfl rfl rfl rfl rfl rfl rfl rfl rfl rfl rfl rfl rfl rfl ⟨rfl, rfl, rfl, rfl, rfl⟩ rfl rfl rfl rfl h1

theorem hostOne_invE {K : Goals} {ρ : State} {n ctx : Nat} {g : Rng} {answers : List AtsAnswer} {s : State} {xa xb xu} (hE : hostOne n ctx g answers s = (xa, xb, xu))  (hI : Inv K ρ s) : Inv K ρ xu := by
  have h := hostOne_inv n ctx g answers s  hI
  rw [hE] at h
  exact h

theorem hostAll_inv {K : Goals} {ρ : State} (n ctx : Nat) (l : List Rng) (answers : List AtsAnswer) (s : State) (hI : Inv K ρ s) :
    Inv K ρ (hostAll n ctx l answers s).2 := by
  induction l generalizing answers s with
  | nil => exact hI
  | cons g gs ih =>
    unfold hostAll
    split
    · rename_i hu
      exact ih _ _ (hostOne_invE hu hI)
    · rename_i hu
      exact hostOne_invE hu hI

theorem hostAll_invE {K : Goals} {ρ : State} {n ctx : Nat} {l : List Rng} {answers : List AtsAnswer} {s : State} {xa xu} (hE : hostAll n ctx l answers s = (xa, xu)) (hI : Inv K ρ s) : Inv K ρ xu := by
  have h := hostAll_inv n ctx l answers s hI
  rw [hE] at h
  exact h

theorem check11_inv {K : Goals} {ρ : State} (c : Cmd) (n : Nat) (rngs hosts : List Rng) (k : List Xlat → State → State) (s : State) (hK : ∀ x0 t, Inv K ρ t → Inv K ρ (k x0 t)) (hI : Inv K ρ s) : Inv K ρ (check11 c n rngs hosts k s) := by
  unfold check11
  repeat' first
    | with_reducible assumption
    | with_reducible apply countWalks_inv
    | with_reducible apply holdMiss_inv
    | with_reducible apply refuse_inv
    | with_reducible refine hostAll_invE (by assumption) ?_
    | with_reducible apply hostAll_inv
    | with_reducible apply hold_inv
    | with_reducible refine Inv.foldl _ (fun _ _ _ => ?_) ?_
    | with_reducible refine Inv.foldl2 _ (fun _ _ _ => ?_) ?_
    | with_reducible apply hK
    | with_reducible intro _
    | split
    | fail_if_no_progress (with_reducible (refine Inv.put rfl rfl rfl rfl rfl rfl rfl rfl rfl rfl rfl rfl rfl rfl rfl rfl ⟨rfl, rfl, rfl, rfl, rfl⟩ rfl rfl rfl rfl ?_))
    | dsimp only

theorem withReads_inv {K : Goals} {ρ : State} (isOp : Nat → Bool) (f : CreateFetch) (extra : Nat) (needs : Cmd → State → List (Nat × Nat × Nat)) (run : State → State) (s : State) (hK : ∀ t, Inv K ρ t → Inv K ρ (run t)) (hI : Inv K ρ s) : Inv K ρ (withReads isOp f extra needs run s) := by
  unfold withReads
  repeat' first
    | with_reducible assumption
    | with_reducible refine gate_invE (by assumption) ?_
    | with_reducible apply gate_inv
    | with_reducible refine bringIn_invE (by assumption) ?_
    | with_reducible apply bringIn_inv
    | with_reducible refine Inv.foldl _ (fun _ _ _ => ?_) ?_
    | with_reducible refine Inv.foldl2 _ (fun _ _ _ => ?_) ?_
    | with_reducible apply hK
    | with_reducible intro _
    | split

theorem cpRead_inv {K : Goals} {ρ : State} (n : Nat) (xs : List Xlat) (dva len : Nat) (s : State)  (hI : Inv K ρ s) : Inv K ρ (cpRead n xs dva len s).2 := by
  unfold cpRead
  repeat' first
    | with_reducible assumption
    | with_reducible refine readNow_invE (by assumption) ?_
    | with_reducible apply readNow_inv
    | with_reducible refine Inv.foldl _ (fun _ _ _ => ?_) ?_
    | with_reducible refine Inv.foldl2 _ (fun _ _ _ => ?_) ?_
    | with_reducible apply hK
    | with_reducible intro _
    | split

theorem cpRead_invE {K : Goals} {ρ : State} {n : Nat} {xs : List Xlat} {dva len : Nat} {s : State} {xa xu} (hE : cpRead n xs dva len s = (xa, xu))  (hI : Inv K ρ s) : Inv K ρ xu := by
  have h := cpRead_inv n xs dva len s  hI
  rw [hE] at h
  exact h

theorem reserveSlot_inv {K : Goals} {ρ : State} (q : Nat) (s : State)  (hI : Inv K ρ s) : Inv K ρ (reserveSlot q s) := by
  unfold reserveSlot
  repeat' first
    | with_reducible assumption
    | with_reducible apply modQueue_inv

theorem acceptCmd_inv {K : Goals} {ρ : State} (c : Cmd) (xs : List Xlat) (s : State)  (hI : Inv K ρ s) : Inv K ρ (acceptCmd c xs s) := by
  unfold acceptCmd
  repeat' first
    | with_reducible assumption
    | with_reducible apply reserveSlot_inv
    | with_reducible apply accept_inv
    | with_reducible apply modQueue_inv
    | with_reducible apply takeRefs_inv
    | with_reducible refine Inv.foldl _ (fun _ _ _ => ?_) ?_
    | with_reducible refine Inv.foldl2 _ (fun _ _ _ => ?_) ?_
    | with_reducible apply hK
    | with_reducible intro _
    | split
    | fail_if_no_progress (with_reducible (refine Inv.put rfl rfl rfl rfl rfl rfl rfl rfl rfl rfl rfl rfl rfl rfl rfl rfl ⟨rfl, rfl, rfl, rfl, rfl⟩ rfl rfl rfl rfl ?_))
    | dsimp only

theorem instant_inv {K : Goals} {ρ : State} (c : Cmd) (xs : List Xlat) (d : Done) (s : State)  (hI : Inv K ρ s) : Inv K ρ (instant c xs d s) := by
  unfold instant
  repeat' first
    | with_reducible assumption
    | with_reducible apply complete_inv
    | with_reducible apply acceptCmd_inv

theorem unassignedSt_inv {K : Goals} {ρ : State} (f : Fetch) (s : State)  (hI : Inv K ρ s) : Inv K ρ (unassignedSt f s) := by
  unfold unassignedSt
  repeat' first
    | with_reducible assumption
    | with_reducible refine gate_invE (by assumption) ?_
    | with_reducible apply gate_inv

theorem nopBody_inv {K : Goals} {ρ : State} (c : Cmd) (s : State)  (hI : Inv K ρ s) : Inv K ρ (nopBody c s) := by
  unfold nopBody
  repeat' first
    | with_reducible assumption
    | with_reducible apply instant_inv

theorem condBody_inv {K : Goals} {ρ : State} (c : Cmd) (s : State)  (hI : Inv K ρ s) : Inv K ρ (condBody c s) := by
  unfold condBody
  repeat' first
    | with_reducible assumption
    | with_reducible apply modQueue_inv
    | with_reducible apply instant_inv
    | with_reducible refine Inv.foldl _ (fun _ _ _ => ?_) ?_
    | with_reducible refine Inv.foldl2 _ (fun _ _ _ => ?_) ?_
    | with_reducible apply hK
    | with_reducible intro _
    | split

theorem loopBody_inv {K : Goals} {ρ : State} (c : Cmd) (s : State)  (hI : Inv K ρ s) : Inv K ρ (loopBody c s) := by
  unfold loopBody
  repeat' first
    | with_reducible assumption
    | with_reducible apply setHead_inv
    | with_reducible apply modQueue_inv
    | with_reducible apply instant_inv
    | with_reducible refine Inv.foldl _ (fun _ _ _ => ?_) ?_
    | with_reducible refine Inv.foldl2 _ (fun _ _ _ => ?_) ?_
    | with_reducible apply hK
    | with_reducible intro _
    | split
    | fail_if_no_progress (with_reducible (refine Inv.put rfl rfl rfl rfl rfl rfl rfl rfl rfl rfl rfl rfl rfl rfl rfl rfl ⟨rfl, rfl, rfl, rfl, rfl⟩ rfl rfl rfl rfl ?_))
    | dsimp only

theorem jumpBody_inv {K : Goals} {ρ : State} (c : Cmd) (s : State)  (hI : Inv K ρ s) : Inv K ρ (jumpBody c s) := by
  unfold jumpBody
  repeat' first
    | with_reducible assumption
    | with_reducible apply instant_inv
    | with_reducible apply setHead_inv

theorem takeSync_inv {K : Goals} {ρ : State} (c : Cmd) (k : Bool → State → State) (s : State) (hK : ∀ x0 t, Inv K ρ t → Inv K ρ (k x0 t)) (hI : Inv K ρ s) : Inv K ρ (takeSync c k s) := by
  unfold takeSync
  repeat' first
    | with_reducible assumption
    | with_reducible apply acceptCmd_inv
    | with_reducible apply refuse_inv
    | with_reducible apply takeSyncRef_inv
    | with_reducible apply modQueue_inv
    | with_reducible refine Inv.foldl _ (fun _ _ _ => ?_) ?_
    | with_reducible refine Inv.foldl2 _ (fun _ _ _ => ?_) ?_
    | with_reducible apply hK
    | with_reducible intro _
    | split
    | fail_if_no_progress (with_reducible (refine Inv.put rfl rfl rfl rfl rfl rfl rfl rfl rfl rfl rfl rfl rfl rfl rfl rfl ⟨rfl, rfl, rfl, rfl, rfl⟩ rfl rfl rfl rfl ?_))
    | dsimp only

theorem waitBody_inv {K : Goals} {ρ : State} (c : Cmd) (s : State)  (hI : Inv K ρ s) : Inv K ρ (waitBody c s) := by
  unfold waitBody
  repeat' first
    | with_reducible assumption
    | with_reducible apply takeSync_inv
    | with_reducible apply modQueue_inv
    | with_reducible apply endWait_inv
    | with_reducible refine Inv.foldl _ (fun _ _ _ => ?_) ?_
    | with_reducible refine Inv.foldl2 _ (fun _ _ _ => ?_) ?_
    | with_reducible apply hK
    | with_reducible intro _
    | split
    | fail_if_no_progress (with_reducible (refine Inv.put rfl rfl rfl rfl rfl rfl rfl rfl rfl rfl rfl rfl rfl rfl rfl rfl ⟨rfl, rfl, rfl, rfl, rfl⟩ rfl rfl rfl rfl ?_))
    | dsimp only

theorem waitSt_inv {K : Goals} {ρ : State} (f : Fetch) (s : State)  (hI : Inv K ρ s) : Inv K ρ (waitSt f s) := by
  unfold waitSt
  repeat' first
    | with_reducible assumption
    | with_reducible apply fetchDo_inv
    | with_reducible apply waitBody_inv
    | with_reducible refine Inv.foldl _ (fun _ _ _ => ?_) ?_
    | with_reducible refine Inv.foldl2 _ (fun _ _ _ => ?_) ?_
    | with_reducible apply hK
    | with_reducible intro _
    | split

theorem signalBody_inv {K : Goals} {ρ : State} (c : Cmd) (s : State)  (hI : Inv K ρ s) : Inv K ρ (signalBody c s) := by
  unfold signalBody
  repeat' first
    | with_reducible assumption
    | with_reducible apply takeSync_inv
    | with_reducible refine Inv.foldl _ (fun _ _ _ => ?_) ?_
    | with_reducible refine Inv.foldl2 _ (fun _ _ _ => ?_) ?_
    | with_reducible apply hK
    | with_reducible intro _
    | split
    | fail_if_no_progress (with_reducible (refine Inv.put rfl rfl rfl rfl rfl rfl rfl rfl rfl rfl rfl rfl rfl rfl rfl rfl ⟨rfl, rfl, rfl, rfl, rfl⟩ rfl rfl rfl rfl ?_))

theorem loadBody_inv {K : Goals} {ρ : State} (c : Cmd) (s : State)  (hI : Inv K ρ s) : Inv K ρ (loadBody c s) := by
  unfold loadBody
  repeat' first
    | with_reducible assumption
    | with_reducible apply check11_inv
    | with_reducible refine cpRead_invE (by assumption) ?_
    | with_reducible apply cpRead_inv
    | with_reducible apply instant_inv
    | with_reducible apply modQueue_inv
    | with_reducible refine Inv.foldl _ (fun _ _ _ => ?_) ?_
    | with_reducible refine Inv.foldl2 _ (fun _ _ _ => ?_) ?_
    | with_reducible apply hK
    | with_reducible intro _
    | split

theorem loadSt_inv {K : Goals} {ρ : State} (f : Fetch) (s : State)  (hI : Inv K ρ s) : Inv K ρ (loadSt f s) := by
  unfold loadSt
  repeat' first
    | with_reducible assumption
    | with_reducible apply withReads_inv
    | with_reducible apply fetchDo_inv
    | with_reducible apply loadBody_inv
    | with_reducible refine Inv.foldl _ (fun _ _ _ => ?_) ?_
    | with_reducible refine Inv.foldl2 _ (fun _ _ _ => ?_) ?_
    | with_reducible apply hK
    | with_reducible intro _
    | split

theorem startWork_inv {K : Goals} {ρ : State} (c : Cmd) (xs : List Xlat) (ranges : List (Nat × Nat × Nat)) (s : State)  (hI : Inv K ρ s) : Inv K ρ (startWork c xs ranges s) := by
  unfold startWork
  repeat' first
    | with_reducible assumption
    | with_reducible apply acceptCmd_inv
    | with_reducible apply takeRefs_inv
    | with_reducible apply fillBe_inv
    | with_reducible refine Inv.foldl _ (fun _ _ _ => ?_) ?_
    | with_reducible refine Inv.foldl2 _ (fun _ _ _ => ?_) ?_
    | with_reducible apply hK
    | with_reducible intro _
    | split
    | fail_if_no_progress (with_reducible (refine Inv.put rfl rfl rfl rfl rfl rfl rfl rfl rfl rfl rfl rfl rfl rfl rfl rfl ⟨rfl, rfl, rfl, rfl, rfl⟩ rfl rfl rfl rfl ?_))

theorem workBody_inv {K : Goals} {ρ : State} (c : Cmd) (s : State)  (hI : Inv K ρ s) : Inv K ρ (workBody c s) := by
  unfold workBody
  repeat' first
    | with_reducible assumption
    | with_reducible apply check11_inv
    | with_reducible apply startWork_inv
    | with_reducible refine Inv.foldl _ (fun _ _ _ => ?_) ?_
    | with_reducible refine Inv.foldl2 _ (fun _ _ _ => ?_) ?_
    | with_reducible apply hK
    | with_reducible intro _

theorem readTable_inv {K : Goals} {ρ : State} (n : Nat) (xs : List Xlat) (d : Desc) (s : State)  (hI : Inv K ρ s) : Inv K ρ (readTable n xs d s).2 := by
  unfold readTable
  repeat' first
    | with_reducible assumption
    | with_reducible refine cpRead_invE (by assumption) ?_
    | with_reducible apply cpRead_inv
    | with_reducible refine Inv.foldl _ (fun _ _ _ => ?_) ?_
    | with_reducible refine Inv.foldl2 _ (fun _ _ _ => ?_) ?_
    | with_reducible apply hK
    | with_reducible intro _
    | split
    | fail_if_no_progress (with_reducible (refine Inv.put rfl rfl rfl rfl rfl rfl rfl rfl rfl rfl rfl rfl rfl rfl rfl rfl ⟨rfl, rfl, rfl, rfl, rfl⟩ rfl rfl rfl rfl ?_))
    | dsimp only

theorem readTable_invE {K : Goals} {ρ : State} {n : Nat} {xs : List Xlat} {d : Desc} {s : State} {xa xu} (hE : readTable n xs d s = (xa, xu))  (hI : Inv K ρ s) : Inv K ρ xu := by
  have h := readTable_inv n xs d s  hI
  rw [hE] at h
  exact h

theorem tileBody_inv {K : Goals} {ρ : State} (c : Cmd) (s : State)  (hI : Inv K ρ s) : Inv K ρ (tileBody c s) := by
  unfold tileBody
  repeat' first
    | with_reducible assumption
    | with_reducible apply startWork_inv
    | with_reducible apply check11_inv
    | with_reducible refine readTable_invE (by assumption) ?_
    | with_reducible apply readTable_inv
    | with_reducible apply refuse_inv
    | with_reducible apply modQueue_inv
    | with_reducible refine Inv.foldl _ (fun _ _ _ => ?_) ?_
    | with_reducible refine Inv.foldl2 _ (fun _ _ _ => ?_) ?_
    | with_reducible apply hK
    | with_reducible intro _
    | split

theorem tileSt_inv {K : Goals} {ρ : State} (f : TileFetch) (s : State)  (hI : Inv K ρ s) : Inv K ρ (tileSt f s) := by
  unfold tileSt
  repeat' first
    | with_reducible assumption
    | with_reducible apply withReads_inv
    | with_reducible refine gate_invE (by assumption) ?_
    | with_reducible apply gate_inv
    | with_reducible apply touchQueue_inv
    | with_reducible apply tileBody_inv
    | with_reducible refine Inv.foldl _ (fun _ _ _ => ?_) ?_
    | with_reducible refine Inv.foldl2 _ (fun _ _ _ => ?_) ?_
    | with_reducible apply hK
    | with_reducible intro _
    | split

theorem copyBody_inv {K : Goals} {ρ : State} (c : Cmd) (s : State)  (hI : Inv K ρ s) : Inv K ρ (copyBody c s) := by
  unfold copyBody
  repeat' first
    | with_reducible assumption
    | with_reducible apply refuse_inv
    | with_reducible apply check11_inv
    | with_reducible apply startWork_inv
    | with_reducible refine Inv.foldl _ (fun _ _ _ => ?_) ?_
    | with_reducible refine Inv.foldl2 _ (fun _ _ _ => ?_) ?_
    | with_reducible apply hK
    | with_reducible intro _
    | split

theorem gatherBody_inv {K : Goals} {ρ : State} (c : Cmd) (s : State)  (hI : Inv K ρ s) : Inv K ρ (gatherBody c s) := by
  unfold gatherBody
  repeat' first
    | with_reducible assumption
    | with_reducible apply check11_inv
    | with_reducible apply refuse_inv
    | with_reducible apply startWork_inv
    | with_reducible refine Inv.foldl _ (fun _ _ _ => ?_) ?_
    | with_reducible refine Inv.foldl2 _ (fun _ _ _ => ?_) ?_
    | with_reducible apply hK
    | with_reducible intro _
    | split

theorem openCmp_inv {K : Goals} {ρ : State} (n : Nat) (d : Desc) (s : State)  (hI : Inv K ρ s) : Inv K ρ (openCmp n d s) := by
  unfold openCmp
  repeat' first
    | with_reducible assumption
    | with_reducible refine Inv.foldl _ (fun _ _ _ => ?_) ?_
    | with_reducible refine Inv.foldl2 _ (fun _ _ _ => ?_) ?_
    | with_reducible apply hK
    | with_reducible intro _
    | split
    | fail_if_no_progress (with_reducible (refine Inv.put rfl rfl rfl rfl rfl rfl rfl rfl rfl rfl rfl rfl rfl rfl rfl rfl ⟨rfl, rfl, rfl, rfl, rfl⟩ rfl rfl rfl rfl ?_))
    | dsimp only

theorem digestBody_inv {K : Goals} {ρ : State} (c : Cmd) (s : State)  (hI : Inv K ρ s) : Inv K ρ (digestBody c s) := by
  unfold digestBody
  repeat' first
    | with_reducible assumption
    | with_reducible apply check11_inv
    | with_reducible apply refuse_inv
    | with_reducible apply openCmp_inv
    | with_reducible apply startWork_inv
    | with_reducible refine Inv.foldl _ (fun _ _ _ => ?_) ?_
    | with_reducible refine Inv.foldl2 _ (fun _ _ _ => ?_) ?_
    | with_reducible apply hK
    | with_reducible intro _
    | split

theorem ckptSt_inv {K : Goals} {ρ : State} (f : Fetch) (s : State)  (hI : Inv K ρ s) : Inv K ρ (ckptSt f s) := by
  unfold ckptSt
  repeat' first
    | with_reducible assumption
    | with_reducible apply fetchDo_inv
    | with_reducible apply workBody_inv
    | with_reducible refine Inv.foldl _ (fun _ _ _ => ?_) ?_
    | with_reducible refine Inv.foldl2 _ (fun _ _ _ => ?_) ?_
    | with_reducible apply hK
    | with_reducible intro _
    | split

theorem createRead_inv {K : Goals} {ρ : State} (n : Nat) (xs : List Xlat) (dva len : Nat) (s : State)  (hI : Inv K ρ s) : Inv K ρ (createRead n xs dva len s).2 := by
  unfold createRead
  repeat' first
    | with_reducible assumption
    | with_reducible refine cpRead_invE (by assumption) ?_
    | with_reducible apply cpRead_inv
    | with_reducible refine Inv.foldl _ (fun _ _ _ => ?_) ?_
    | with_reducible refine Inv.foldl2 _ (fun _ _ _ => ?_) ?_
    | with_reducible apply hK
    | with_reducible intro _
    | split

theorem createRead_invE {K : Goals} {ρ : State} {n : Nat} {xs : List Xlat} {dva len : Nat} {s : State} {xa xu} (hE : createRead n xs dva len s = (xa, xu))  (hI : Inv K ρ s) : Inv K ρ xu := by
  have h := createRead_inv n xs dva len s  hI
  rw [hE] at h
  exact h

theorem ckptOf_inv {K : Goals} {ρ : State} (n : Nat) (xs : List Xlat) (c : Cmd) (s : State)  (hI : Inv K ρ s) : Inv K ρ (ckptOf n xs c s).2 := by
  unfold ckptOf
  repeat' first
    | with_reducible assumption
    | with_reducible refine createRead_invE (by assumption) ?_
    | with_reducible apply createRead_inv
    | with_reducible refine Inv.foldl _ (fun _ _ _ => ?_) ?_
    | with_reducible refine Inv.foldl2 _ (fun _ _ _ => ?_) ?_
    | with_reducible apply hK
    | with_reducible intro _
    | split
    | fail_if_no_progress (with_reducible (refine Inv.put rfl rfl rfl rfl rfl rfl rfl rfl rfl rfl rfl rfl rfl rfl rfl rfl ⟨rfl, rfl, rfl, rfl, rfl⟩ rfl rfl rfl rfl ?_))
    | dsimp only

theorem ckptOf_invE {K : Goals} {ρ : State} {n : Nat} {xs : List Xlat} {c : Cmd} {s : State} {xa xu} (hE : ckptOf n xs c s = (xa, xu))  (hI : Inv K ρ s) : Inv K ρ xu := by
  have h := ckptOf_inv n xs c s  hI
  rw [hE] at h
  exact h

theorem ringOf_inv {K : Goals} {ρ : State} (n : Nat) (xs : List Xlat) (c : Cmd) (s : State)  (hI : Inv K ρ s) : Inv K ρ (ringOf n xs c s).2 := by
  unfold ringOf
  repeat' first
    | with_reducible assumption
    | with_reducible refine createRead_invE (by assumption) ?_
    | with_reducible apply createRead_inv
    | with_reducible refine Inv.foldl _ (fun _ _ _ => ?_) ?_
    | with_reducible refine Inv.foldl2 _ (fun _ _ _ => ?_) ?_
    | with_reducible apply hK
    | with_reducible intro _
    | split

theorem ringOf_invE {K : Goals} {ρ : State} {n : Nat} {xs : List Xlat} {c : Cmd} {s : State} {xa xu} (hE : ringOf n xs c s = (xa, xu))  (hI : Inv K ρ s) : Inv K ρ xu := by
  have h := ringOf_inv n xs c s  hI
  rw [hE] at h
  exact h

theorem takeTemplate_inv {K : Goals} {ρ : State} (c : Cmd) (n : Nat) (x : Queue) (pos : Nat) (raw0 : Desc) (s : State) (hI : Inv K ρ s) :
    ∀ a u, takeTemplate c n x pos raw0 s = some (a, u) → Inv K ρ u := by
  unfold takeTemplate
  intro a u
  dsimp only
  split
  · rintro ⟨⟩
  · split
    · rintro ⟨⟩
    · split
      · split
        · rename_i hu
          have ht := hostAll_invE hu (countWalks_inv _ _ _ _ hI)
          split
          · rintro ⟨⟩
          · rintro ⟨⟩
            repeat' first
              | with_reducible assumption
              | with_reducible apply countWalks_inv
              | with_reducible refine hostAll_invE (by assumption) ?_
              | with_reducible apply hostAll_inv
              | with_reducible apply takeRefs_inv
              | with_reducible apply setCtx_inv
              | with_reducible refine Inv.foldl _ (fun _ _ _ => ?_) ?_
              | with_reducible refine Inv.foldl2 _ (fun _ _ _ => ?_) ?_
              | with_reducible apply hK
              | with_reducible intro _
              | split
              | fail_if_no_progress (with_reducible (refine Inv.put rfl rfl rfl rfl rfl rfl rfl rfl rfl rfl rfl rfl rfl rfl rfl rfl ⟨rfl, rfl, rfl, rfl, rfl⟩ rfl rfl rfl rfl ?_))
        · rintro ⟨⟩
      · rintro ⟨⟩

theorem takeTemplate_invE {K : Goals} {ρ : State} {c : Cmd} {n : Nat} {x : Queue} {pos : Nat} {raw0 : Desc} {s : State} {a u} (hE : takeTemplate c n x pos raw0 s = some (a, u))  (hI : Inv K ρ s) : Inv K ρ u := takeTemplate_inv c n x pos raw0 s  hI _ _ hE

theorem takeTemplates_inv {K : Goals} {ρ : State} (c : Cmd) (n : Nat) (x : Queue) (ds : List Desc) (s : State) (hI : Inv K ρ s) :
    ∀ a u, takeTemplates c n x ds s = Except.ok (a, u) → Inv K ρ u := by
  unfold takeTemplates
  extract_lets order k l count r
  have hr : ∀ a u, r = Except.ok (a, u) → Inv K ρ u := by
    refine foldl_except _ _ ?_ ?_
    · intro acc p hacc a u
      split
      · rintro ⟨⟩
      · rename_i ts v
        have hv := hacc ts v rfl
        extract_lets op step
        by_cases hc : (decide (count ≤ step) || ts.any (fun t => t.step == step) || !opWork op || opFrame op != bitAt order step) = true
        · rw [if_pos hc]
          rintro ⟨⟩
        · rw [if_neg hc]
          cases hu : takeTemplate c n x p.1 p.2 v with
          | none => rintro ⟨⟩
          | some z =>
            obtain ⟨t, w⟩ := z
            rintro ⟨⟩
            exact takeTemplate_invE hu hv
    · rintro a u ⟨⟩
      exact hI
  intro a u
  clear_value r
  match r, hr with
  | .error e, _ => rintro ⟨⟩
  | .ok (ts, v), hr =>
    dsimp only
    by_cases hc : ts.length = count
    · rw [if_pos hc]
      rintro ⟨⟩
      exact hr ts _ rfl
    · rw [if_neg hc]
      rintro ⟨⟩

theorem takeTemplates_invE {K : Goals} {ρ : State} {c : Cmd} {n : Nat} {x : Queue} {ds : List Desc} {s : State} {a u} (hE : takeTemplates c n x ds s = Except.ok (a, u))  (hI : Inv K ρ s) : Inv K ρ u := takeTemplates_inv c n x ds s  hI _ _ hE

theorem createBody_inv {K : Goals} {ρ : State} (c : Cmd) (s : State)  (hI : Inv K ρ s) : Inv K ρ (createBody c s) := by
  unfold createBody
  repeat' first
    | with_reducible assumption
    | with_reducible apply check11_inv
    | with_reducible refine ckptOf_invE (by assumption) ?_
    | with_reducible apply ckptOf_inv
    | with_reducible apply refuse_inv
    | with_reducible apply setCtx_inv
    | with_reducible apply touchQueue_inv
    | with_reducible apply modQueue_inv
    | with_reducible apply instant_inv
    | with_reducible refine ringOf_invE (by assumption) ?_
    | with_reducible apply ringOf_inv
    | with_reducible refine takeTemplates_invE (by assumption) ?_
    | with_reducible refine Inv.foldl _ (fun _ _ _ => ?_) ?_
    | with_reducible refine Inv.foldl2 _ (fun _ _ _ => ?_) ?_
    | with_reducible apply hK
    | with_reducible intro _
    | split
    | fail_if_no_progress (with_reducible (refine Inv.put rfl rfl rfl rfl rfl rfl rfl rfl rfl rfl rfl rfl rfl rfl rfl rfl ⟨rfl, rfl, rfl, rfl, rfl⟩ rfl rfl rfl rfl ?_))
    | dsimp only

theorem createSt_inv {K : Goals} {ρ : State} (f : CreateFetch) (s : State)  (hI : Inv K ρ s) : Inv K ρ (createSt f s) := by
  unfold createSt
  repeat' first
    | with_reducible assumption
    | with_reducible apply withReads_inv
    | with_reducible refine gate_invE (by assumption) ?_
    | with_reducible apply gate_inv
    | with_reducible apply touchQueue_inv
    | with_reducible apply createBody_inv
    | with_reducible refine Inv.foldl _ (fun _ _ _ => ?_) ?_
    | with_reducible refine Inv.foldl2 _ (fun _ _ _ => ?_) ?_
    | with_reducible apply hK
    | with_reducible intro _
    | split

theorem destroyBody_inv {K : Goals} {ρ : State} (c : Cmd) (s : State)  (hI : Inv K ρ s) : Inv K ρ (destroyBody c s) := by
  unfold destroyBody
  repeat' first
    | with_reducible assumption
    | with_reducible apply refuse_inv
    | with_reducible apply startKills_inv
    | with_reducible apply acceptCmd_inv
    | with_reducible refine Inv.foldl _ (fun _ _ _ => ?_) ?_
    | with_reducible refine Inv.foldl2 _ (fun _ _ _ => ?_) ?_
    | with_reducible apply hK
    | with_reducible intro _
    | split
    | fail_if_no_progress (with_reducible (refine Inv.put rfl rfl rfl rfl rfl rfl rfl rfl rfl rfl rfl rfl rfl rfl rfl rfl ⟨rfl, rfl, rfl, rfl, rfl⟩ rfl rfl rfl rfl ?_))
    | dsimp only

theorem revokeBody_inv {K : Goals} {ρ : State} (c : Cmd) (s : State)  (hI : Inv K ρ s) : Inv K ρ (revokeBody c s) := by
  unfold revokeBody
  repeat' first
    | with_reducible assumption
    | with_reducible apply refuse_inv
    | with_reducible apply startKills_inv
    | with_reducible apply acceptCmd_inv
    | with_reducible refine Inv.foldl _ (fun _ _ _ => ?_) ?_
    | with_reducible refine Inv.foldl2 _ (fun _ _ _ => ?_) ?_
    | with_reducible apply hK
    | with_reducible intro _
    | split
    | fail_if_no_progress (with_reducible (refine Inv.put rfl rfl rfl rfl rfl rfl rfl rfl rfl rfl rfl rfl rfl rfl rfl rfl ⟨rfl, rfl, rfl, rfl, rfl⟩ rfl rfl rfl rfl ?_))
    | dsimp only

theorem resetContextBody_inv {K : Goals} {ρ : State} (c : Cmd) (s : State)  (hI : Inv K ρ s) : Inv K ρ (resetContextBody c s) := by
  unfold resetContextBody
  repeat' first
    | with_reducible assumption
    | with_reducible apply refuse_inv
    | with_reducible apply askReset_inv
    | with_reducible apply acceptCmd_inv
    | with_reducible refine Inv.foldl _ (fun _ _ _ => ?_) ?_
    | with_reducible refine Inv.foldl2 _ (fun _ _ _ => ?_) ?_
    | with_reducible apply hK
    | with_reducible intro _
    | split
    | fail_if_no_progress (with_reducible (refine Inv.put rfl rfl rfl rfl rfl rfl rfl rfl rfl rfl rfl rfl rfl rfl rfl rfl ⟨rfl, rfl, rfl, rfl, rfl⟩ rfl rfl rfl rfl ?_))
    | dsimp only

theorem resetEngineBody_inv {K : Goals} {ρ : State} (c : Cmd) (s : State)  (hI : Inv K ρ s) : Inv K ρ (resetEngineBody c s) := by
  unfold resetEngineBody
  repeat' first
    | with_reducible assumption
    | with_reducible apply refuse_inv
    | with_reducible apply askReset_inv
    | with_reducible apply acceptCmd_inv
    | with_reducible refine Inv.foldl _ (fun _ _ _ => ?_) ?_
    | with_reducible refine Inv.foldl2 _ (fun _ _ _ => ?_) ?_
    | with_reducible apply hK
    | with_reducible intro _
    | split
    | fail_if_no_progress (with_reducible (refine Inv.put rfl rfl rfl rfl rfl rfl rfl rfl rfl rfl rfl rfl rfl rfl rfl rfl ⟨rfl, rfl, rfl, rfl, rfl⟩ rfl rfl rfl rfl ?_))
    | dsimp only

theorem resetPartitionBody_inv {K : Goals} {ρ : State} (c : Cmd) (s : State)  (hI : Inv K ρ s) : Inv K ρ (resetPartitionBody c s) := by
  unfold resetPartitionBody
  repeat' first
    | with_reducible assumption
    | with_reducible apply askReset_inv
    | with_reducible apply acceptCmd_inv

theorem resetChipBody_inv {K : Goals} {ρ : State} (c : Cmd) (s : State)  (hI : Inv K ρ s) : Inv K ρ (resetChipBody c s) := by
  unfold resetChipBody
  repeat' first
    | with_reducible assumption
    | with_reducible apply askChipReset_inv
    | with_reducible apply acceptCmd_inv

theorem flushBody_inv {K : Goals} {ρ : State} (c : Cmd) (s : State)  (hI : Inv K ρ s) : Inv K ρ (flushBody c s) := by
  unfold flushBody
  repeat' first
    | with_reducible assumption
    | with_reducible apply refuse_inv
    | with_reducible apply setKey_inv
    | with_reducible apply acceptCmd_inv
    | with_reducible apply evict_inv
    | with_reducible refine Inv.foldl _ (fun _ _ _ => ?_) ?_
    | with_reducible refine Inv.foldl2 _ (fun _ _ _ => ?_) ?_
    | with_reducible apply hK
    | with_reducible intro _
    | split
    | fail_if_no_progress (with_reducible (refine Inv.put rfl rfl rfl rfl rfl rfl rfl rfl rfl rfl rfl rfl rfl rfl rfl rfl ⟨rfl, rfl, rfl, rfl, rfl⟩ rfl rfl rfl rfl ?_))
    | dsimp only

theorem startRetire_inv {K : Goals} {ρ : State} (k p : Nat) (s : State)  (hI : Inv K ρ s) : Inv K ρ (startRetire k p s) := by
  unfold startRetire
  repeat' first
    | with_reducible assumption
    | with_reducible apply modPc_inv

theorem retireBody_inv {K : Goals} {ρ : State} (c : Cmd) (s : State)  (hI : Inv K ρ s) : Inv K ρ (retireBody c s) := by
  unfold retireBody
  repeat' first
    | with_reducible assumption
    | with_reducible apply refuse_inv
    | with_reducible apply setKey_inv
    | with_reducible apply acceptCmd_inv
    | with_reducible apply startRetire_inv
    | with_reducible refine Inv.foldl _ (fun _ _ _ => ?_) ?_
    | with_reducible refine Inv.foldl2 _ (fun _ _ _ => ?_) ?_
    | with_reducible apply hK
    | with_reducible intro _
    | split
    | fail_if_no_progress (with_reducible (refine Inv.put rfl rfl rfl rfl rfl rfl rfl rfl rfl rfl rfl rfl rfl rfl rfl rfl ⟨rfl, rfl, rfl, rfl, rfl⟩ rfl rfl rfl rfl ?_))
    | dsimp only

theorem dumpBody_inv {K : Goals} {ρ : State} (c : Cmd) (s : State)  (hI : Inv K ρ s) : Inv K ρ (dumpBody c s) := by
  unfold dumpBody
  repeat' first
    | with_reducible assumption
    | with_reducible apply refuse_inv
    | with_reducible apply askReset_inv
    | with_reducible apply acceptCmd_inv
    | with_reducible refine Inv.foldl _ (fun _ _ _ => ?_) ?_
    | with_reducible refine Inv.foldl2 _ (fun _ _ _ => ?_) ?_
    | with_reducible apply hK
    | with_reducible intro _
    | split
    | fail_if_no_progress (with_reducible (refine Inv.put rfl rfl rfl rfl rfl rfl rfl rfl rfl rfl rfl rfl rfl rfl rfl rfl ⟨rfl, rfl, rfl, rfl, rfl⟩ rfl rfl rfl rfl ?_))
    | dsimp only

theorem mapBody_inv {K : Goals} {ρ : State} (c : Cmd) (s : State)  (hI : Inv K ρ s) : Inv K ρ (mapBody c s) := by
  unfold mapBody
  repeat' first
    | with_reducible assumption
    | with_reducible apply refuse_inv
    | with_reducible apply instant_inv
    | with_reducible apply setObj_inv
    | with_reducible refine Inv.foldl _ (fun _ _ _ => ?_) ?_
    | with_reducible refine Inv.foldl2 _ (fun _ _ _ => ?_) ?_
    | with_reducible apply hK
    | with_reducible intro _
    | split
    | fail_if_no_progress (with_reducible (refine Inv.put rfl rfl rfl rfl rfl rfl rfl rfl rfl rfl rfl rfl rfl rfl rfl rfl ⟨rfl, rfl, rfl, rfl, rfl⟩ rfl rfl rfl rfl ?_))
    | dsimp only

theorem unmapBody_inv {K : Goals} {ρ : State} (c : Cmd) (s : State)  (hI : Inv K ρ s) : Inv K ρ (unmapBody c s) := by
  unfold unmapBody
  repeat' first
    | with_reducible assumption
    | with_reducible apply refuse_inv
    | with_reducible apply instant_inv
    | with_reducible apply countObj_inv
    | with_reducible refine Inv.foldl _ (fun _ _ _ => ?_) ?_
    | with_reducible refine Inv.foldl2 _ (fun _ _ _ => ?_) ?_
    | with_reducible apply hK
    | with_reducible intro _
    | split
    | fail_if_no_progress (with_reducible (refine Inv.put rfl rfl rfl rfl rfl rfl rfl rfl rfl rfl rfl rfl rfl rfl rfl rfl ⟨rfl, rfl, rfl, rfl, rfl⟩ rfl rfl rfl rfl ?_))
    | dsimp only

theorem refBody_inv {K : Goals} {ρ : State} (c : Cmd) (s : State)  (hI : Inv K ρ s) : Inv K ρ (refBody c s) := by
  unfold refBody
  repeat' first
    | with_reducible assumption
    | with_reducible apply countWalks_inv
    | with_reducible apply refuse_inv
    | with_reducible apply instant_inv
    | with_reducible apply setSync_inv
    | with_reducible apply modVfTu_inv
    | with_reducible apply setObj_inv
    | with_reducible refine Inv.foldl _ (fun _ _ _ => ?_) ?_
    | with_reducible refine Inv.foldl2 _ (fun _ _ _ => ?_) ?_
    | with_reducible apply hK
    | with_reducible intro _
    | split
    | fail_if_no_progress (with_reducible (refine Inv.put rfl rfl rfl rfl rfl rfl rfl rfl rfl rfl rfl rfl rfl rfl rfl rfl ⟨rfl, rfl, rfl, rfl, rfl⟩ rfl rfl rfl rfl ?_))
    | dsimp only

theorem unrefBody_inv {K : Goals} {ρ : State} (c : Cmd) (s : State)  (hI : Inv K ρ s) : Inv K ρ (unrefBody c s) := by
  unfold unrefBody
  repeat' first
    | with_reducible assumption
    | with_reducible apply refuse_inv
    | with_reducible apply instant_inv
    | with_reducible apply countSync_inv
    | with_reducible apply countObj_inv
    | with_reducible refine Inv.foldl _ (fun _ _ _ => ?_) ?_
    | with_reducible refine Inv.foldl2 _ (fun _ _ _ => ?_) ?_
    | with_reducible apply hK
    | with_reducible intro _
    | split
    | fail_if_no_progress (with_reducible (refine Inv.put rfl rfl rfl rfl rfl rfl rfl rfl rfl rfl rfl rfl rfl rfl rfl rfl ⟨rfl, rfl, rfl, rfl, rfl⟩ rfl rfl rfl rfl ?_))
    | dsimp only

theorem resumeBody_inv {K : Goals} {ρ : State} (c : Cmd) (s : State)  (hI : Inv K ρ s) : Inv K ρ (resumeBody c s) := by
  unfold resumeBody
  repeat' first
    | with_reducible assumption
    | with_reducible apply loadBody_inv
    | with_reducible apply tileBody_inv
    | with_reducible apply copyBody_inv
    | with_reducible apply digestBody_inv
    | with_reducible apply createBody_inv
    | with_reducible apply workBody_inv
    | with_reducible refine Inv.foldl _ (fun _ _ _ => ?_) ?_
    | with_reducible refine Inv.foldl2 _ (fun _ _ _ => ?_) ?_
    | with_reducible apply hK
    | with_reducible intro _
    | split

theorem resumeHeld_inv {K : Goals} {ρ : State} (q : Nat) (h : Held) (host : HostView) (ats : List AtsAnswer) (s : State)  (hI : Inv K ρ s) : Inv K ρ (resumeHeld q h host ats s) := by
  unfold resumeHeld
  repeat' first
    | with_reducible assumption
    | with_reducible refine bringIn_invE (by assumption) ?_
    | with_reducible apply bringIn_inv
    | with_reducible apply modQueue_inv
    | with_reducible apply refuse_inv
    | with_reducible apply touchQueue_inv
    | with_reducible apply resumeBody_inv
    | with_reducible refine Inv.foldl _ (fun _ _ _ => ?_) ?_
    | with_reducible refine Inv.foldl2 _ (fun _ _ _ => ?_) ?_
    | with_reducible apply hK
    | with_reducible intro _
    | split
    | fail_if_no_progress (with_reducible (refine Inv.put rfl rfl rfl rfl rfl rfl rfl rfl rfl rfl rfl rfl rfl rfl rfl rfl ⟨rfl, rfl, rfl, rfl, rfl⟩ rfl rfl rfl rfl ?_))
    | dsimp only

theorem failHeld_inv {K : Goals} {ρ : State} (q : Nat) (h : Held) (s : State)  (hI : Inv K ρ s) : Inv K ρ (failHeld q h s) := by
  unfold failHeld
  repeat' first
    | with_reducible assumption
    | with_reducible apply refuse_inv
    | with_reducible apply modQueue_inv

theorem dropAnswer_inv {K : Goals} {ρ : State} (s : State)  (hI : Inv K ρ s) : Inv K ρ (dropAnswer s) := by
  unfold dropAnswer
  repeat' first
    | with_reducible assumption
    | with_reducible refine Inv.foldl _ (fun _ _ _ => ?_) ?_
    | with_reducible refine Inv.foldl2 _ (fun _ _ _ => ?_) ?_
    | with_reducible apply hK
    | with_reducible intro _
    | split
    | fail_if_no_progress (with_reducible (refine Inv.put rfl rfl rfl rfl rfl rfl rfl rfl rfl rfl rfl rfl rfl rfl rfl rfl ⟨rfl, rfl, rfl, rfl, rfl⟩ rfl rfl rfl rfl ?_))

theorem retrySt_inv {K : Goals} {ρ : State} (n seq : Nat) (host : HostView) (ats : List AtsAnswer) (s : State)  (hI : Inv K ρ s) : Inv K ρ (retrySt n seq host ats s) := by
  unfold retrySt
  repeat' first
    | with_reducible assumption
    | with_reducible apply dropAnswer_inv
    | with_reducible apply resumeHeld_inv
    | with_reducible refine Inv.foldl _ (fun _ _ _ => ?_) ?_
    | with_reducible refine Inv.foldl2 _ (fun _ _ _ => ?_) ?_
    | with_reducible apply hK
    | with_reducible intro _
    | split

theorem answerFailSt_inv {K : Goals} {ρ : State} (n seq : Nat) (s : State)  (hI : Inv K ρ s) : Inv K ρ (answerFailSt n seq s) := by
  unfold answerFailSt
  repeat' first
    | with_reducible assumption
    | with_reducible apply dropAnswer_inv
    | with_reducible apply failHeld_inv
    | with_reducible refine Inv.foldl _ (fun _ _ _ => ?_) ?_
    | with_reducible refine Inv.foldl2 _ (fun _ _ _ => ?_) ?_
    | with_reducible apply hK
    | with_reducible intro _
    | split

theorem evqHeadSt_inv {K : Goals} {ρ : State} (n : Nat) (value : BitVec 32) (s : State)  (hI : Inv K ρ s) : Inv K ρ (evqHeadSt n value s) := by
  unfold evqHeadSt
  repeat' first
    | with_reducible assumption
    | with_reducible apply evDrain_inv
    | with_reducible apply modVfTu_inv
    | with_reducible refine Inv.foldl _ (fun _ _ _ => ?_) ?_
    | with_reducible refine Inv.foldl2 _ (fun _ _ _ => ?_) ?_
    | with_reducible apply hK
    | with_reducible intro _
    | split

theorem dropAtc_inv {K : Goals} {ρ : State} (fn : Fn) (base size : Nat) (s : State)  (hI : Inv K ρ s) : Inv K ρ (dropAtc fn base size s) := by
  unfold dropAtc
  repeat' first
    | with_reducible assumption
    | with_reducible refine Inv.foldl _ (fun _ _ _ => ?_) ?_
    | with_reducible refine Inv.foldl2 _ (fun _ _ _ => ?_) ?_
    | with_reducible apply hK
    | with_reducible intro _
    | split
    | fail_if_no_progress (with_reducible (refine Inv.put rfl rfl rfl rfl rfl rfl rfl rfl rfl rfl rfl rfl rfl rfl rfl rfl ⟨rfl, rfl, rfl, rfl, rfl⟩ rfl rfl rfl rfl ?_))

theorem answerCopy_inv {K : Goals} {ρ : State} (t : Step) (a : AtsAnswer) (s : State)  (hI : Inv K ρ s) : Inv K ρ (answerCopy t a s) := by
  unfold answerCopy
  repeat' first
    | with_reducible assumption
    | with_reducible apply modStep_inv
    | with_reducible refine atcRoom_invE (by assumption) ?_
    | with_reducible apply finishStep_inv
    | with_reducible apply readsNow_inv
    | with_reducible refine Inv.foldl _ (fun _ _ _ => ?_) ?_
    | with_reducible refine Inv.foldl2 _ (fun _ _ _ => ?_) ?_
    | with_reducible apply hK
    | with_reducible intro _
    | split
    | fail_if_no_progress (with_reducible (refine Inv.put rfl rfl rfl rfl rfl rfl rfl rfl rfl rfl rfl rfl rfl rfl rfl rfl ⟨rfl, rfl, rfl, rfl, rfl⟩ rfl rfl rfl rfl ?_))
    | dsimp only

theorem atsSt_inv {K : Goals} {ρ : State} (q : Nat) (a : AtsAnswer) (host : HostView) (s : State)  (hI : Inv K ρ s) : Inv K ρ (atsSt q a host s) := by
  unfold atsSt
  repeat' first
    | with_reducible assumption
    | with_reducible apply resumeHeld_inv
    | with_reducible apply answerCopy_inv
    | with_reducible refine Inv.foldl _ (fun _ _ _ => ?_) ?_
    | with_reducible refine Inv.foldl2 _ (fun _ _ _ => ?_) ?_
    | with_reducible apply hK
    | with_reducible intro _
    | split
    | fail_if_no_progress (with_reducible (refine Inv.put rfl rfl rfl rfl rfl rfl rfl rfl rfl rfl rfl rfl rfl rfl rfl rfl ⟨rfl, rfl, rfl, rfl, rfl⟩ rfl rfl rfl rfl ?_))
    | dsimp only

theorem pageSt_inv {K : Goals} {ρ : State} (q : Nat) (success : Bool) (s : State)  (hI : Inv K ρ s) : Inv K ρ (pageSt q success s) := by
  unfold pageSt
  repeat' first
    | with_reducible assumption
    | with_reducible apply dropAtc_inv
    | with_reducible apply resumeHeld_inv
    | with_reducible apply failHeld_inv
    | with_reducible refine Inv.foldl _ (fun _ _ _ => ?_) ?_
    | with_reducible refine Inv.foldl2 _ (fun _ _ _ => ?_) ?_
    | with_reducible apply hK
    | with_reducible intro _
    | split

theorem invalidateSt_inv {K : Goals} {ρ : State} (fn : Fn) (base size : Nat) (s : State)  (hI : Inv K ρ s) : Inv K ρ (invalidateSt fn base size s) := by
  unfold invalidateSt
  repeat' first
    | with_reducible assumption
    | with_reducible apply dropAtc_inv
    | with_reducible refine Inv.foldl _ (fun _ _ _ => ?_) ?_
    | with_reducible refine Inv.foldl2 _ (fun _ _ _ => ?_) ?_
    | with_reducible apply hK
    | with_reducible intro _
    | split
    | fail_if_no_progress (with_reducible (refine Inv.put rfl rfl rfl rfl rfl rfl rfl rfl rfl rfl rfl rfl rfl rfl rfl rfl ⟨rfl, rfl, rfl, rfl, rfl⟩ rfl rfl rfl rfl ?_))

theorem invalidDoneSt_inv {K : Goals} {ρ : State} (fn : Fn) (base size : Nat) (s : State)  (hI : Inv K ρ s) : Inv K ρ (invalidDoneSt fn base size s) := by
  unfold invalidDoneSt
  repeat' first
    | with_reducible assumption
    | with_reducible apply emit_inv
    | with_reducible refine Inv.foldl _ (fun _ _ _ => ?_) ?_
    | with_reducible refine Inv.foldl2 _ (fun _ _ _ => ?_) ?_
    | with_reducible apply hK
    | with_reducible intro _
    | split
    | fail_if_no_progress (with_reducible (refine Inv.put rfl rfl rfl rfl rfl rfl rfl rfl rfl rfl rfl rfl rfl rfl rfl rfl ⟨rfl, rfl, rfl, rfl, rfl⟩ rfl rfl rfl rfl ?_))
    | dsimp only

theorem dropDoorbell_inv {K : Goals} {ρ : State} (s : State)  (hI : Inv K ρ s) : Inv K ρ (dropDoorbell s) := by
  unfold dropDoorbell
  repeat' first
    | with_reducible assumption
    | with_reducible refine Inv.foldl _ (fun _ _ _ => ?_) ?_
    | with_reducible refine Inv.foldl2 _ (fun _ _ _ => ?_) ?_
    | with_reducible apply hK
    | with_reducible intro _
    | split
    | fail_if_no_progress (with_reducible (refine Inv.put rfl rfl rfl rfl rfl rfl rfl rfl rfl rfl rfl rfl rfl rfl rfl rfl ⟨rfl, rfl, rfl, rfl, rfl⟩ rfl rfl rfl rfl ?_))

theorem doorbellSt_inv {K : Goals} {ρ : State} (fn : Fn) (q size : Nat) (v : Word) (s : State)  (hI : Inv K ρ s) : Inv K ρ (doorbellSt fn q size v s) := by
  unfold doorbellSt
  repeat' first
    | with_reducible assumption
    | with_reducible apply dropDoorbell_inv
    | with_reducible apply touchQueue_inv
    | with_reducible apply modQueue_inv
    | with_reducible refine Inv.foldl _ (fun _ _ _ => ?_) ?_
    | with_reducible refine Inv.foldl2 _ (fun _ _ _ => ?_) ?_
    | with_reducible apply hK
    | with_reducible intro _
    | split

theorem tagSt_inv {K : Goals} {ρ : State} (q : Nat) (tag : BitVec 16) (s : State)  (hI : Inv K ρ s) : Inv K ρ (tagSt q tag s) := by
  unfold tagSt
  repeat' first
    | with_reducible assumption
    | with_reducible apply modQueue_inv
    | with_reducible refine Inv.foldl _ (fun _ _ _ => ?_) ?_
    | with_reducible refine Inv.foldl2 _ (fun _ _ _ => ?_) ?_
    | with_reducible apply hK
    | with_reducible intro _
    | split
    | fail_if_no_progress (with_reducible (refine Inv.put rfl rfl rfl rfl rfl rfl rfl rfl rfl rfl rfl rfl rfl rfl rfl rfl ⟨rfl, rfl, rfl, rfl, rfl⟩ rfl rfl rfl rfl ?_))
    | dsimp only

theorem readFailSt_inv {K : Goals} {ρ : State} (q : Nat) (poisoned : Bool) (s : State)  (hI : Inv K ρ s) : Inv K ρ (readFailSt q poisoned s) := by
  unfold readFailSt
  repeat' first
    | with_reducible assumption
    | with_reducible apply failPos_inv
    | with_reducible refine Inv.foldl _ (fun _ _ _ => ?_) ?_
    | with_reducible refine Inv.foldl2 _ (fun _ _ _ => ?_) ?_
    | with_reducible apply hK
    | with_reducible intro _
    | split

theorem unwrite_inv {K : Goals} {ρ : State} (q : Nat) (s : State) (hI : Inv K ρ s) : ∀ a u, unwrite q s = some (a, u) → Inv K ρ u := by
  unfold unwrite
  intro a u
  split
  · rintro ⟨⟩
  · rintro ⟨⟩
    repeat' first
      | with_reducible assumption
      | with_reducible apply modQueue_inv
      | with_reducible refine Inv.foldl _ (fun _ _ _ => ?_) ?_
      | with_reducible refine Inv.foldl2 _ (fun _ _ _ => ?_) ?_
      | with_reducible apply hK
      | with_reducible intro _
      | split
      | fail_if_no_progress (with_reducible (refine Inv.put rfl rfl rfl rfl rfl rfl rfl rfl rfl rfl rfl rfl rfl rfl rfl rfl ⟨rfl, rfl, rfl, rfl, rfl⟩ rfl rfl rfl rfl ?_))

theorem unwrite_invE {K : Goals} {ρ : State} {q : Nat} {s : State} {a u} (hE : unwrite q s = some (a, u))  (hI : Inv K ρ s) : Inv K ρ u := unwrite_inv q s  hI _ _ hE

theorem stallQueue_inv {K : Goals} {ρ : State} (q : Nat) (s : State)  (hI : Inv K ρ s) : Inv K ρ (stallQueue q s) := by
  unfold stallQueue
  repeat' first
    | with_reducible assumption
    | with_reducible apply msix_inv
    | with_reducible refine Inv.foldl _ (fun _ _ _ => ?_) ?_
    | with_reducible refine Inv.foldl2 _ (fun _ _ _ => ?_) ?_
    | with_reducible apply hK
    | with_reducible intro _
    | split
    | fail_if_no_progress (with_reducible (refine Inv.put rfl rfl rfl rfl rfl rfl rfl rfl rfl rfl rfl rfl rfl rfl rfl rfl ⟨rfl, rfl, rfl, rfl, rfl⟩ rfl rfl rfl rfl ?_))

theorem writeFailSt_inv {K : Goals} {ρ : State} (q : Nat) (s : State)  (hI : Inv K ρ s) : Inv K ρ (writeFailSt q s) := by
  unfold writeFailSt
  repeat' first
    | with_reducible assumption
    | with_reducible refine unwrite_invE (by assumption) ?_
    | with_reducible apply modQueue_inv
    | with_reducible apply loseCtx_inv
    | with_reducible apply touchQueue_inv
    | with_reducible apply stallQueue_inv
    | with_reducible refine Inv.foldl _ (fun _ _ _ => ?_) ?_
    | with_reducible refine Inv.foldl2 _ (fun _ _ _ => ?_) ?_
    | with_reducible apply hK
    | with_reducible intro _
    | split

theorem replayRecs_inv {K : Goals} {ρ : State} (q k : Nat) (s : State) (hI : Inv K ρ s) : Inv K ρ (replayRecs q k s) := by
  induction k generalizing s with
  | zero => exact hI
  | succ k ih =>
    unfold replayRecs
    repeat' first
      | with_reducible assumption
      | with_reducible apply ih
      | with_reducible apply ringRec_inv
      | with_reducible apply modQueue_inv
      | with_reducible refine Inv.foldl _ (fun _ _ _ => ?_) ?_
      | with_reducible refine Inv.foldl2 _ (fun _ _ _ => ?_) ?_
      | with_reducible apply hK
      | with_reducible intro _
      | split

theorem rearmSt_inv {K : Goals} {ρ : State} (q k : Nat) (s : State)  (hI : Inv K ρ s) : Inv K ρ (rearmSt q k s) := by
  unfold rearmSt
  repeat' first
    | with_reducible assumption
    | with_reducible apply touchQueue_inv
    | with_reducible apply replayRecs_inv
    | with_reducible refine Inv.foldl _ (fun _ _ _ => ?_) ?_
    | with_reducible refine Inv.foldl2 _ (fun _ _ _ => ?_) ?_
    | with_reducible apply hK
    | with_reducible intro _
    | split
    | fail_if_no_progress (with_reducible (refine Inv.put rfl rfl rfl rfl rfl rfl rfl rfl rfl rfl rfl rfl rfl rfl rfl rfl ⟨rfl, rfl, rfl, rfl, rfl⟩ rfl rfl rfl rfl ?_))
    | dsimp only

theorem modAdm_inv {K : Goals} {ρ : State} (fn : Fn) (f : Admq → Admq) (s : State)  (hI : Inv K ρ s) : Inv K ρ (modAdm fn f s) := by
  unfold modAdm
  repeat' first
    | with_reducible assumption
    | with_reducible refine Inv.foldl _ (fun _ _ _ => ?_) ?_
    | with_reducible refine Inv.foldl2 _ (fun _ _ _ => ?_) ?_
    | with_reducible apply hK
    | with_reducible intro _
    | split
    | fail_if_no_progress (with_reducible (refine Inv.put rfl rfl rfl rfl rfl rfl rfl rfl rfl rfl rfl rfl rfl rfl rfl rfl ⟨rfl, rfl, rfl, rfl, rfl⟩ rfl rfl rfl rfl ?_))

theorem cqHeadSt_inv {K : Goals} {ρ : State} (fn : Fn) (q : Nat) (value : BitVec 32) (s : State)  (hI : Inv K ρ s) : Inv K ρ (cqHeadSt fn q value s) := by
  unfold cqHeadSt
  repeat' first
    | with_reducible assumption
    | with_reducible apply touchQueue_inv
    | with_reducible apply modQueue_inv
    | with_reducible apply dropDoorbell_inv
    | with_reducible apply modAdm_inv
    | with_reducible refine Inv.foldl _ (fun _ _ _ => ?_) ?_
    | with_reducible refine Inv.foldl2 _ (fun _ _ _ => ?_) ?_
    | with_reducible apply hK
    | with_reducible intro _
    | split

theorem admqSt_inv {K : Goals} {ρ : State} (fn : Fn) (s : State)  (hI : Inv K ρ s) : Inv K ρ (admqSt fn s) := by
  unfold admqSt
  repeat' first
    | with_reducible assumption
    | with_reducible refine Inv.foldl _ (fun _ _ _ => ?_) ?_
    | with_reducible refine Inv.foldl2 _ (fun _ _ _ => ?_) ?_
    | with_reducible apply hK
    | with_reducible intro _
    | split
    | fail_if_no_progress (with_reducible (refine Inv.put rfl rfl rfl rfl rfl rfl rfl rfl rfl rfl rfl rfl rfl rfl rfl rfl ⟨rfl, rfl, rfl, rfl, rfl⟩ rfl rfl rfl rfl ?_))
    | dsimp only

theorem unitWords_inv {K : Goals} {ρ : State} (n u : Nat) (s : State)  (hI : Inv K ρ s) : Inv K ρ (unitWords n u s).2 := by
  unfold unitWords
  repeat' first
    | with_reducible assumption
    | with_reducible refine fresh_invE (by assumption) ?_
    | with_reducible apply fresh_inv

theorem unitWords_invE {K : Goals} {ρ : State} {n u : Nat} {s : State} {xa xu} (hE : unitWords n u s = (xa, xu))  (hI : Inv K ρ s) : Inv K ρ xu := by
  have h := unitWords_inv n u s  hI
  rw [hE] at h
  exact h

theorem readUnits_inv {K : Goals} {ρ : State} (c : Capture) (s : State)  (hI : Inv K ρ s) : Inv K ρ (readUnits c s).2 := by
  unfold readUnits
  repeat' first
    | with_reducible assumption
    | with_reducible refine unitWords_invE (by assumption) ?_
    | with_reducible apply unitWords_inv
    | with_reducible refine Inv.foldl _ (fun _ _ _ => ?_) ?_
    | with_reducible refine Inv.foldl2 _ (fun _ _ _ => ?_) ?_

theorem readUnits_invE {K : Goals} {ρ : State} {c : Capture} {s : State} {xa xu} (hE : readUnits c s = (xa, xu))  (hI : Inv K ρ s) : Inv K ρ xu := by
  have h := readUnits_inv c s  hI
  rw [hE] at h
  exact h

theorem writeCapture_inv {K : Goals} {ρ : State} (c : Capture) (s : State)  (hI : Inv K ρ s) : Inv K ρ (writeCapture c s) := by
  unfold writeCapture
  repeat' first
    | with_reducible assumption
    | with_reducible refine readUnits_invE (by assumption) ?_
    | with_reducible apply readUnits_inv
    | with_reducible apply writeDva_inv
    | with_reducible refine Inv.foldl _ (fun _ _ _ => ?_) ?_
    | with_reducible refine Inv.foldl2 _ (fun _ _ _ => ?_) ?_
    | with_reducible apply hK
    | with_reducible intro _
    | split
    | fail_if_no_progress (with_reducible (refine Inv.put rfl rfl rfl rfl rfl rfl rfl rfl rfl rfl rfl rfl rfl rfl rfl rfl ⟨rfl, rfl, rfl, rfl, rfl⟩ rfl rfl rfl rfl ?_))

theorem captureSt_inv {K : Goals} {ρ : State} (s : State)  (hI : Inv K ρ s) : Inv K ρ (captureSt s) := by
  unfold captureSt
  repeat' first
    | with_reducible assumption
    | with_reducible apply writeCapture_inv
    | with_reducible apply endCmd_inv
    | with_reducible apply startKills_inv
    | with_reducible refine Inv.foldl _ (fun _ _ _ => ?_) ?_
    | with_reducible refine Inv.foldl2 _ (fun _ _ _ => ?_) ?_
    | with_reducible apply hK
    | with_reducible intro _
    | split
    | fail_if_no_progress (with_reducible (refine Inv.put rfl rfl rfl rfl rfl rfl rfl rfl rfl rfl rfl rfl rfl rfl rfl rfl ⟨rfl, rfl, rfl, rfl, rfl⟩ rfl rfl rfl rfl ?_))

theorem unresponsive_inv {K : Goals} {ρ : State} (u : Nat) (part : Option Nat) (s : State)  (hI : Inv K ρ s) : Inv K ρ (unresponsive u part s) := by
  unfold unresponsive
  repeat' first
    | with_reducible assumption
    | with_reducible apply report_inv
    | with_reducible refine Inv.foldl _ (fun _ _ _ => ?_) ?_
    | with_reducible refine Inv.foldl2 _ (fun _ _ _ => ?_) ?_
    | with_reducible apply hK
    | with_reducible intro _
    | split
    | fail_if_no_progress (with_reducible (refine Inv.put rfl rfl rfl rfl rfl rfl rfl rfl rfl rfl rfl rfl rfl rfl rfl rfl ⟨rfl, rfl, rfl, rfl, rfl⟩ rfl rfl rfl rfl ?_))

theorem colSt_inv {K : Goals} {ρ : State} (u : Nat) (s : State)  (hI : Inv K ρ s) : Inv K ρ (colSt u s) := by
  unfold colSt
  repeat' first
    | with_reducible assumption
    | with_reducible apply unresponsive_inv
    | with_reducible refine Inv.foldl _ (fun _ _ _ => ?_) ?_
    | with_reducible refine Inv.foldl2 _ (fun _ _ _ => ?_) ?_
    | with_reducible apply hK
    | with_reducible intro _
    | split
    | fail_if_no_progress (with_reducible (refine Inv.put rfl rfl rfl rfl rfl rfl rfl rfl rfl rfl rfl rfl rfl rfl rfl rfl ⟨rfl, rfl, rfl, rfl, rfl⟩ rfl rfl rfl rfl ?_))
    | dsimp only

theorem killTimeoutSt_inv {K : Goals} {ρ : State} (s : State)  (hI : Inv K ρ s) : Inv K ρ (killTimeoutSt s) := by
  unfold killTimeoutSt
  repeat' first
    | with_reducible assumption
    | with_reducible refine Inv.foldl _ (fun _ _ _ => ?_) ?_
    | with_reducible refine Inv.foldl2 _ (fun _ _ _ => ?_) ?_
    | with_reducible apply hK
    | with_reducible intro _
    | split
    | fail_if_no_progress (with_reducible (refine Inv.put rfl rfl rfl rfl rfl rfl rfl rfl rfl rfl rfl rfl rfl rfl rfl rfl ⟨rfl, rfl, rfl, rfl, rfl⟩ rfl rfl rfl rfl ?_))
    | dsimp only

theorem walkEndSt_inv {K : Goals} {ρ : State} (n : Nat) (s : State)  (hI : Inv K ρ s) : Inv K ρ (walkEndSt n s) := by
  unfold walkEndSt
  repeat' first
    | with_reducible assumption
    | with_reducible apply fabricFall_inv
    | with_reducible apply endWalk_inv
    | with_reducible apply raisePart_inv
    | with_reducible refine Inv.foldl _ (fun _ _ _ => ?_) ?_
    | with_reducible refine Inv.foldl2 _ (fun _ _ _ => ?_) ?_
    | with_reducible apply hK
    | with_reducible intro _
    | split
    | fail_if_no_progress (with_reducible (refine Inv.put rfl rfl rfl rfl rfl rfl rfl rfl rfl rfl rfl rfl rfl rfl rfl rfl ⟨rfl, rfl, rfl, rfl, rfl⟩ rfl rfl rfl rfl ?_))

theorem clearWindows_inv {K : Goals} {ρ : State} (n : Nat) (s : State)  (hI : Inv K ρ s) : Inv K ρ (clearWindows n s) := by
  unfold clearWindows
  repeat' first
    | with_reducible assumption
    | with_reducible refine Inv.foldl _ (fun _ _ _ => ?_) ?_
    | with_reducible refine Inv.foldl2 _ (fun _ _ _ => ?_) ?_
    | with_reducible apply hK
    | with_reducible intro _
    | split
    | fail_if_no_progress (with_reducible (refine Inv.put rfl rfl rfl rfl rfl rfl rfl rfl rfl rfl rfl rfl rfl rfl rfl rfl ⟨rfl, rfl, rfl, rfl, rfl⟩ rfl rfl rfl rfl ?_))

theorem quietSt_inv {K : Goals} {ρ : State} (s : State)  (hI : Inv K ρ s) : Inv K ρ (quietSt s) := by
  unfold quietSt
  repeat' first
    | with_reducible assumption
    | with_reducible apply closeReset_inv
    | with_reducible apply serveEngine_inv
    | with_reducible apply endPartition_inv
    | with_reducible apply clearWindows_inv
    | with_reducible apply fabricRise_inv
    | with_reducible refine Inv.foldl _ (fun _ _ _ => ?_) ?_
    | with_reducible refine Inv.foldl2 _ (fun _ _ _ => ?_) ?_
    | with_reducible apply hK
    | with_reducible intro _
    | split
    | fail_if_no_progress (with_reducible (refine Inv.put rfl rfl rfl rfl rfl rfl rfl rfl rfl rfl rfl rfl rfl rfl rfl rfl ⟨rfl, rfl, rfl, rfl, rfl⟩ rfl rfl rfl rfl ?_))

theorem fenceEngine_inv {K : Goals} {ρ : State} (e detail : Nat) (s : State)  (hI : Inv K ρ s) : Inv K ρ (fenceEngine e detail s) := by
  unfold fenceEngine
  repeat' first
    | with_reducible assumption
    | with_reducible apply modEngine_inv
    | with_reducible apply report_inv
    | with_reducible refine Inv.foldl _ (fun _ _ _ => ?_) ?_
    | with_reducible refine Inv.foldl2 _ (fun _ _ _ => ?_) ?_
    | with_reducible apply hK
    | with_reducible intro _
    | split
    | fail_if_no_progress (with_reducible (refine Inv.put rfl rfl rfl rfl rfl rfl rfl rfl rfl rfl rfl rfl rfl rfl rfl rfl ⟨rfl, rfl, rfl, rfl, rfl⟩ rfl rfl rfl rfl ?_))

theorem resetAgain_inv {K : Goals} {ρ : State} (e : Nat) (s : State)  (hI : Inv K ρ s) : Inv K ρ (resetAgain e s) := by
  unfold resetAgain
  repeat' first
    | with_reducible assumption
    | with_reducible apply raiseEngine_inv
    | with_reducible apply takeEngine_inv
    | with_reducible apply resetRecord_inv
    | with_reducible refine Inv.foldl _ (fun _ _ _ => ?_) ?_
    | with_reducible refine Inv.foldl2 _ (fun _ _ _ => ?_) ?_
    | with_reducible apply hK
    | with_reducible intro _
    | split
    | fail_if_no_progress (with_reducible (refine Inv.put rfl rfl rfl rfl rfl rfl rfl rfl rfl rfl rfl rfl rfl rfl rfl rfl ⟨rfl, rfl, rfl, rfl, rfl⟩ rfl rfl rfl rfl ?_))

theorem replayHangSt_inv {K : Goals} {ρ : State} (s : State)  (hI : Inv K ρ s) : Inv K ρ (replayHangSt s) := by
  unfold replayHangSt
  repeat' first
    | with_reducible assumption
    | with_reducible apply dropStep_inv
    | with_reducible apply loseCtx_inv
    | with_reducible apply resetAgain_inv
    | with_reducible apply fenceEngine_inv
    | with_reducible refine Inv.foldl _ (fun _ _ _ => ?_) ?_
    | with_reducible refine Inv.foldl2 _ (fun _ _ _ => ?_) ?_
    | with_reducible apply hK
    | with_reducible intro _
    | split
    | fail_if_no_progress (with_reducible (refine Inv.put rfl rfl rfl rfl rfl rfl rfl rfl rfl rfl rfl rfl rfl rfl rfl rfl ⟨rfl, rfl, rfl, rfl, rfl⟩ rfl rfl rfl rfl ?_))

theorem dumpBaseSt_inv {K : Goals} {ρ : State} (n off size : Nat) (v : Word) (host : HostView) (s : State) (hI : Inv K ρ s) :
    Inv K ρ (dumpBaseSt n off size v host s) := by
  unfold dumpBaseSt
  extract_lets old raw base set
  have h : ∀ b xs st u, Inv K ρ u → Inv K ρ (set b xs st u) := by
    intro b xs st u hu
    simp only [set]
    repeat' first
      | with_reducible assumption
      | with_reducible apply countWalks_inv
      | with_reducible refine Inv.foldl _ (fun _ _ _ => ?_) ?_
      | with_reducible refine Inv.foldl2 _ (fun _ _ _ => ?_) ?_
      | with_reducible apply hK
      | with_reducible intro _
      | split
      | fail_if_no_progress (with_reducible (refine Inv.put rfl rfl rfl rfl rfl rfl rfl rfl rfl rfl rfl rfl rfl rfl rfl rfl ⟨rfl, rfl, rfl, rfl, rfl⟩ rfl rfl rfl rfl ?_))
  clear_value set
  repeat' first
    | with_reducible assumption
    | with_reducible apply h
    | with_reducible apply countWalks_inv
    | with_reducible refine Inv.foldl _ (fun _ _ _ => ?_) ?_
    | with_reducible refine Inv.foldl2 _ (fun _ _ _ => ?_) ?_
    | with_reducible apply hK
    | with_reducible intro _
    | split

theorem selectPackage_inv {K : Goals} {ρ : State} (p q : Option Package) (s : State)  (hI : Inv K ρ s) : Inv K ρ (selectPackage p q s) := by
  unfold selectPackage
  repeat' first
    | with_reducible assumption
    | with_reducible refine Inv.foldl _ (fun _ _ _ => ?_) ?_
    | with_reducible refine Inv.foldl2 _ (fun _ _ _ => ?_) ?_
    | with_reducible apply hK
    | with_reducible intro _
    | split
    | fail_if_no_progress (with_reducible (refine Inv.put rfl rfl rfl rfl rfl rfl rfl rfl rfl rfl rfl rfl rfl rfl rfl rfl ⟨rfl, rfl, rfl, rfl, rfl⟩ rfl rfl rfl rfl ?_))
    | dsimp only

theorem afterReset_inv {K : Goals} {ρ : State} (s : State) (htb : K.tb = false) (hplan : K.plan = false) (hboot : K.boot = false) (harm : K.arm = false) (hI : Inv K ρ s) : Inv K ρ (afterReset s) := by
  unfold afterReset
  have h := Inv.foldl (s.mi.pcs.map fun p => p.1) (fun t p ht => flushParked_inv p t ht) (fabricFall_inv (bitList s.bnd.fabric) s hI)
  generalize (s.mi.pcs.map fun p => p.1).foldl (fun s p => flushParked p s) (fabricFall (bitList s.bnd.fabric) s) = t at h
  exact h.step (fun l => { l with
    slot := reset_legal.slot, period := reset_legal.period, rail := reset_legal.rail, target := reset_legal.target
    present := reset_legal.present, snp := reset_legal.snp, retry := reset_legal.retry, replay := reset_legal.replay
    quiet := reset_legal.quiet, close := reset_legal.close, per := reset_legal.per, slack := reset_legal.slack
    reserve := reset_legal.reserve }) fun k => { k with
      tb := Groups.no htb, plan := Groups.no hplan, arm := Groups.no harm, boot := Groups.no hboot }

theorem prep_captures {K : Goals} {ρ : State} (p : Prep) (s : State) (hI : Inv K ρ s) :
    Inv K ρ ((prepParts s p).foldl (fun s n => writeCapture (prepCapture s p n) s) s) :=
  Inv.foldl _ (fun t n ht => writeCapture_inv (prepCapture t p n) t ht) hI
theorem prep_jobs {K : Goals} {ρ : State} (s : State) (hI : Inv K ρ s) :
    Inv K ρ ((List.range 32).foldl (fun s n => abortJobs n .jobAborted s) s) :=
  Inv.foldl _ (fun t n ht => abortJobs_inv n .jobAborted t ht) hI
theorem prep_walks {K : Goals} {ρ : State} (s : State) (hI : Inv K ρ s) :
    Inv K ρ ((hands s.ps.active).foldl (fun s n => startWalk n s) s) :=
  Inv.foldl _ (fun t n ht => startWalk_inv n t ht) hI
theorem prep_flag {K : Goals} {ρ : State} (p : Prep) (s : State) (hI : Inv K ρ s) :
    Inv K ρ { s with bnd := { s.bnd with prep := some { p with started := true } } } :=
  Inv.put (t := s) rfl rfl rfl rfl rfl rfl rfl rfl rfl rfl rfl rfl rfl rfl rfl rfl ⟨rfl, rfl, rfl, rfl, rfl⟩ rfl rfl rfl rfl hI

theorem startPrep_inv {K : Goals} {ρ : State} (p : Prep) (s : State) (hI : Inv K ρ s) : Inv K ρ (startPrep p s) := by
  unfold startPrep
  exact prep_flag p _ (prep_walks _ (prep_jobs _ (prep_captures p _ (stopAll_inv s hI))))

theorem endPrep_inv {K : Goals} {ρ : State} (p : Prep) (s : State)  (hI : Inv K ρ s) : Inv K ρ (endPrep p s) := by
  unfold endPrep
  repeat' first
    | with_reducible assumption
    | with_reducible apply endWalk_inv
    | with_reducible apply dropLine_inv
    | with_reducible refine Inv.foldl _ (fun _ _ _ => ?_) ?_
    | with_reducible refine Inv.foldl2 _ (fun _ _ _ => ?_) ?_
    | with_reducible apply hK
    | with_reducible intro _
    | split

theorem sendPower_inv {K : Goals} {ρ : State} (p : PowerCycle) (s : State)  (hI : Inv K ρ s) : Inv K ρ (sendPower p s) := by
  unfold sendPower
  repeat' first
    | with_reducible assumption
    | with_reducible apply emit_inv

theorem requestPower_inv {K : Goals} {ρ : State} (reason : Nat) (s : State)  (hI : Inv K ρ s) : Inv K ρ (requestPower reason s) := by
  unfold requestPower
  repeat' first
    | with_reducible assumption
    | with_reducible apply sendPower_inv
    | with_reducible refine Inv.foldl _ (fun _ _ _ => ?_) ?_
    | with_reducible refine Inv.foldl2 _ (fun _ _ _ => ?_) ?_
    | with_reducible apply hK
    | with_reducible intro _
    | split
    | fail_if_no_progress (with_reducible (refine Inv.put rfl rfl rfl rfl rfl rfl rfl rfl rfl rfl rfl rfl rfl rfl rfl rfl ⟨rfl, rfl, rfl, rfl, rfl⟩ rfl rfl rfl rfl ?_))
    | dsimp only

theorem beginReset_inv {K : Goals} {ρ : State} (p : Prep) (s : State)  (htb : K.tb = false) (hplan : K.plan = false) (hboot : K.boot = false) (harm : K.arm = false) (hI : Inv K ρ s) : Inv K ρ (beginReset p s) := by
  unfold beginReset
  repeat' first
    | with_reducible assumption
    | with_reducible apply resetRecord_inv
    | with_reducible apply afterReset_inv
    | with_reducible refine Inv.foldl _ (fun _ _ _ => ?_) ?_
    | with_reducible refine Inv.foldl2 _ (fun _ _ _ => ?_) ?_
    | with_reducible apply hK
    | with_reducible intro _
    | split
    | fail_if_no_progress (with_reducible (refine Inv.put rfl rfl rfl rfl rfl rfl rfl rfl rfl rfl rfl rfl rfl rfl rfl rfl ⟨rfl, rfl, rfl, rfl, rfl⟩ rfl rfl rfl rfl ?_))

theorem chipResetSt_inv {K : Goals} {ρ : State} (s : State) (htb : K.tb = false) (hplan : K.plan = false) (hboot : K.boot = false) (harm : K.arm = false) (hI : Inv K ρ s) : Inv K ρ (chipResetSt s) := by
  unfold chipResetSt
  split
  · exact hI
  · rename_i p hp
    split
    · exact hI
    · split
      · exact beginReset_inv p s htb hplan hboot harm hI
      · extract_lets u v w
        have hu : Inv K ρ u := by
          simp only [u]
          split
          · exact hI
          · exact startPrep_inv p s hI
        have hw : Inv K ρ w := endCmd_inv _ _ _ (endPrep_inv _ _ hu)
        clear_value u v w
        split
        · exact hu
        · split
          · refine requestPower_inv _ _ ?_
            repeat' first
              | with_reducible assumption
              | with_reducible apply beginReset_inv
              | with_reducible apply startPrep_inv
              | with_reducible apply endPrep_inv
              | with_reducible apply endCmd_inv
              | with_reducible apply requestPower_inv
              | with_reducible refine Inv.foldl _ (fun _ _ _ => ?_) ?_
              | with_reducible refine Inv.foldl2 _ (fun _ _ _ => ?_) ?_
              | with_reducible apply hK
              | with_reducible intro _
              | split
              | fail_if_no_progress (with_reducible (refine Inv.put rfl rfl rfl rfl rfl rfl rfl rfl rfl rfl rfl rfl rfl rfl rfl rfl ⟨rfl, rfl, rfl, rfl, rfl⟩ rfl rfl rfl rfl ?_))
          · exact beginReset_inv p w htb hplan hboot harm hw

theorem prepTimeoutSt_inv {K : Goals} {ρ : State} (s : State)  (hI : Inv K ρ s) : Inv K ρ (prepTimeoutSt s) := by
  unfold prepTimeoutSt
  repeat' first
    | with_reducible assumption
    | with_reducible refine Inv.foldl _ (fun _ _ _ => ?_) ?_
    | with_reducible refine Inv.foldl2 _ (fun _ _ _ => ?_) ?_
    | with_reducible apply hK
    | with_reducible intro _
    | split
    | fail_if_no_progress (with_reducible (refine Inv.put rfl rfl rfl rfl rfl rfl rfl rfl rfl rfl rfl rfl rfl rfl rfl rfl ⟨rfl, rfl, rfl, rfl, rfl⟩ rfl rfl rfl rfl ?_))

theorem powerUpSt_inv {K : Goals} {ρ : State} (s : State)  (hboot : K.boot = false) (hI : Inv K ρ s) : Inv K ρ (powerUpSt s) := by
  unfold powerUpSt
  repeat' first
    | with_reducible assumption
    | with_reducible refine fresh_invE (by assumption) ?_
    | with_reducible apply fresh_inv
    | with_reducible refine Inv.foldl _ (fun _ _ _ => ?_) ?_
    | with_reducible refine Inv.foldl2 _ (fun _ _ _ => ?_) ?_
    | with_reducible apply hK
    | with_reducible intro _
    | split
    | fail_if_no_progress (with_reducible (refine Inv.put rfl rfl rfl rfl rfl rfl rfl rfl rfl rfl rfl rfl rfl rfl rfl rfl ⟨rfl, rfl, rfl, rfl, rfl⟩ rfl rfl rfl rfl ?_))
    | fail_if_no_progress (with_reducible (refine Inv.upd rfl rfl rfl rfl rfl rfl rfl rfl rfl rfl rfl rfl rfl rfl rfl rfl rfl rfl (fun _ => rfl) (fun _ => ⟨rfl, rfl, rfl⟩) (fun k => Groups.no hboot k) (fun _ => rfl) (fun _ => ⟨rfl, rfl⟩) ?_))

theorem powerRemovedSt_inv {K : Goals} {ρ : State} (s : State) (htb : K.tb = false) (hplan : K.plan = false) (hboot : K.boot = false) (hlife : K.life = false) (harm : K.arm = false) (hI : Inv K ρ s) : Inv K ρ (powerRemovedSt s) := by
  unfold powerRemovedSt
  split
  · exact hI
  · have h := fabricFall_inv (bitList s.bnd.fabric) s hI
    dsimp only
    generalize fabricFall (bitList s.bnd.fabric) s = t at h
    exact h.step (fun l => { l with
      mem := reset_legal.mem, bbr := reset_legal.bbr, slot := reset_legal.slot, period := reset_legal.period
      rail := reset_legal.rail, target := reset_legal.target, present := reset_legal.present, snp := reset_legal.snp
      retry := reset_legal.retry, replay := reset_legal.replay, quiet := reset_legal.quiet, close := reset_legal.close
      per := reset_legal.per, slack := reset_legal.slack, reserve := reset_legal.reserve }) fun k => { k with
      tb := Groups.no htb, plan := Groups.no hplan, arm := Groups.no harm, boot := Groups.no hboot, life := Groups.no hlife }

theorem fundamentalSt_inv {K : Goals} {ρ : State} (s : State)  (hI : Inv K ρ s) : Inv K ρ (fundamentalSt s) := by
  unfold fundamentalSt
  repeat' first
    | with_reducible assumption
    | with_reducible refine Inv.foldl _ (fun _ _ _ => ?_) ?_
    | with_reducible refine Inv.foldl2 _ (fun _ _ _ => ?_) ?_
    | with_reducible apply hK
    | with_reducible intro _
    | split
    | fail_if_no_progress (with_reducible (refine Inv.put rfl rfl rfl rfl rfl rfl rfl rfl rfl rfl rfl rfl rfl rfl rfl rfl ⟨rfl, rfl, rfl, rfl, rfl⟩ rfl rfl rfl rfl ?_))

theorem bootFail_inv {K : Goals} {ρ : State} (code : Nat) (s : State)  (hboot : K.boot = false) (hI : Inv K ρ s) : Inv K ρ (bootFail code s) := by
  unfold bootFail
  repeat' first
    | with_reducible assumption
    | with_reducible refine Inv.foldl _ (fun _ _ _ => ?_) ?_
    | with_reducible refine Inv.foldl2 _ (fun _ _ _ => ?_) ?_
    | with_reducible apply hK
    | with_reducible intro _
    | split
    | fail_if_no_progress (with_reducible (refine Inv.put rfl rfl rfl rfl rfl rfl rfl rfl rfl rfl rfl rfl rfl rfl rfl rfl ⟨rfl, rfl, rfl, rfl, rfl⟩ rfl rfl rfl rfl ?_))
    | fail_if_no_progress (with_reducible (refine Inv.upd rfl rfl rfl rfl rfl rfl rfl rfl rfl rfl rfl rfl rfl rfl rfl rfl rfl rfl (fun _ => rfl) (fun _ => ⟨rfl, rfl, rfl⟩) (fun k => Groups.no hboot k) (fun _ => rfl) (fun _ => ⟨rfl, rfl⟩) ?_))

theorem setStage_inv {K : Goals} {ρ : State} (g : Stage) (s : State)  (hboot : K.boot = false) (hI : Inv K ρ s) : Inv K ρ (setStage g s) := by
  unfold setStage
  repeat' first
    | with_reducible assumption
    | with_reducible refine Inv.foldl _ (fun _ _ _ => ?_) ?_
    | with_reducible refine Inv.foldl2 _ (fun _ _ _ => ?_) ?_
    | with_reducible apply hK
    | with_reducible intro _
    | split
    | fail_if_no_progress (with_reducible (refine Inv.put rfl rfl rfl rfl rfl rfl rfl rfl rfl rfl rfl rfl rfl rfl rfl rfl ⟨rfl, rfl, rfl, rfl, rfl⟩ rfl rfl rfl rfl ?_))
    | fail_if_no_progress (with_reducible (refine Inv.upd rfl rfl rfl rfl rfl rfl rfl rfl rfl rfl rfl rfl rfl rfl rfl rfl rfl rfl (fun _ => rfl) (fun _ => ⟨rfl, rfl, rfl⟩) (fun k => Groups.no hboot k) (fun _ => rfl) (fun _ => ⟨rfl, rfl⟩) ?_))

theorem tcBootSt_inv {K : Goals} {ρ : State} (rom : Digest) (s : State)  (hboot : K.boot = false) (hlife : K.life = false) (hI : Inv K ρ s) : Inv K ρ (tcBootSt rom s) := by
  unfold tcBootSt
  repeat' first
    | with_reducible assumption
    | with_reducible apply setStage_inv
    | with_reducible refine Inv.foldl _ (fun _ _ _ => ?_) ?_
    | with_reducible refine Inv.foldl2 _ (fun _ _ _ => ?_) ?_
    | with_reducible apply hK
    | with_reducible intro _
    | split
    | fail_if_no_progress (with_reducible (refine Inv.put rfl rfl rfl rfl rfl rfl rfl rfl rfl rfl rfl rfl rfl rfl rfl rfl ⟨rfl, rfl, rfl, rfl, rfl⟩ rfl rfl rfl rfl ?_))
    | fail_if_no_progress (with_reducible (refine Inv.upd rfl rfl rfl rfl rfl rfl rfl rfl rfl rfl rfl rfl rfl rfl rfl rfl rfl rfl (fun _ => rfl) (fun _ => ⟨rfl, rfl, rfl⟩) (fun _ => ⟨rfl, rfl, rfl⟩) (fun k => Groups.no hlife k) (fun _ => ⟨rfl, rfl⟩) ?_))
    | dsimp only

theorem bootImage_inv {K : Goals} {ρ : State} (i : FwImage) (slotB : Bool) (s : State)  (hI : Inv K ρ s) : Inv K ρ (bootImage i slotB s) := by
  unfold bootImage
  repeat' first
    | with_reducible assumption
    | with_reducible refine Inv.foldl _ (fun _ _ _ => ?_) ?_
    | with_reducible refine Inv.foldl2 _ (fun _ _ _ => ?_) ?_
    | with_reducible apply hK
    | with_reducible intro _
    | split
    | fail_if_no_progress (with_reducible (refine Inv.put rfl rfl rfl rfl rfl rfl rfl rfl rfl rfl rfl rfl rfl rfl rfl rfl ⟨rfl, rfl, rfl, rfl, rfl⟩ rfl rfl rfl rfl ?_))

theorem fwVerifySt_inv {K : Goals} {ρ : State} (f : Flash) (s : State)  (hboot : K.boot = false) (hI : Inv K ρ s) : Inv K ρ (fwVerifySt f s) := by
  unfold fwVerifySt
  repeat' first
    | with_reducible assumption
    | with_reducible apply setStage_inv
    | with_reducible apply selectPackage_inv
    | with_reducible apply bootImage_inv
    | with_reducible apply bootFail_inv
    | with_reducible refine Inv.foldl _ (fun _ _ _ => ?_) ?_
    | with_reducible refine Inv.foldl2 _ (fun _ _ _ => ?_) ?_
    | with_reducible apply hK
    | with_reducible intro _
    | split
    | fail_if_no_progress (with_reducible (refine Inv.put rfl rfl rfl rfl rfl rfl rfl rfl rfl rfl rfl rfl rfl rfl rfl rfl ⟨rfl, rfl, rfl, rfl, rfl⟩ rfl rfl rfl rfl ?_))
    | dsimp only

theorem deriveRoot_inv {K : Goals} {ρ : State} (s : State)  (hI : Inv K ρ s) : Inv K ρ (deriveRoot s) := by
  unfold deriveRoot
  repeat' first
    | with_reducible assumption
    | with_reducible refine Inv.foldl _ (fun _ _ _ => ?_) ?_
    | with_reducible refine Inv.foldl2 _ (fun _ _ _ => ?_) ?_
    | with_reducible apply hK
    | with_reducible intro _
    | split
    | fail_if_no_progress (with_reducible (refine Inv.put rfl rfl rfl rfl rfl rfl rfl rfl rfl rfl rfl rfl rfl rfl rfl rfl ⟨rfl, rfl, rfl, rfl, rfl⟩ rfl rfl rfl rfl ?_))

theorem openEpoch_inv {K : Goals} {ρ : State} (s : State)  (hI : Inv K ρ s) : Inv K ρ (openEpoch s) := by
  unfold openEpoch
  repeat' first
    | with_reducible assumption
    | with_reducible refine fresh_invE (by assumption) ?_
    | with_reducible apply fresh_inv
    | with_reducible apply deriveRoot_inv
    | with_reducible refine Inv.foldl _ (fun _ _ _ => ?_) ?_
    | with_reducible refine Inv.foldl2 _ (fun _ _ _ => ?_) ?_
    | with_reducible apply hK
    | with_reducible intro _
    | split
    | fail_if_no_progress (with_reducible (refine Inv.put rfl rfl rfl rfl rfl rfl rfl rfl rfl rfl rfl rfl rfl rfl rfl rfl ⟨rfl, rfl, rfl, rfl, rfl⟩ rfl rfl rfl rfl ?_))

theorem keysSt_inv {K : Goals} {ρ : State} (ok : Bool) (chains : List PubKey) (s : State)  (hboot : K.boot = false) (hI : Inv K ρ s) : Inv K ρ (keysSt ok chains s) := by
  unfold keysSt
  repeat' first
    | with_reducible assumption
    | with_reducible apply setStage_inv
    | with_reducible apply bootFail_inv
    | with_reducible apply openEpoch_inv
    | with_reducible apply deriveRoot_inv
    | with_reducible refine Inv.foldl _ (fun _ _ _ => ?_) ?_
    | with_reducible refine Inv.foldl2 _ (fun _ _ _ => ?_) ?_
    | with_reducible apply hK
    | with_reducible intro _
    | split
    | fail_if_no_progress (with_reducible (refine Inv.put rfl rfl rfl rfl rfl rfl rfl rfl rfl rfl rfl rfl rfl rfl rfl rfl ⟨rfl, rfl, rfl, rfl, rfl⟩ rfl rfl rfl rfl ?_))
    | dsimp only

theorem startRecorder_inv {K : Goals} {ρ : State} (failed : BitVec 20) (kept held : Bool) (valid : BitVec 2) (s : State) (hI : Inv K ρ s) :
    Inv K ρ (startRecorder failed kept held valid s) := by
  unfold startRecorder
  dsimp only
  split
  · exact hI.setFc fun l => ⟨l.bbr, l.quiet, l.close, l.per⟩
  · exact hI.setFc fun l => ⟨by simp only [List.length_take]; omega, l.quiet, l.close, l.per⟩

theorem memTrainSt_inv {K : Goals} {ρ : State} (failed held : BitVec 20) (retentionOk bbrOk : Bool) (mirrorOk : BitVec 2) (s : State)  (hboot : K.boot = false) (hI : Inv K ρ s) : Inv K ρ (memTrainSt failed held retentionOk bbrOk mirrorOk s) := by
  unfold memTrainSt
  repeat' first
    | with_reducible assumption
    | with_reducible apply setStage_inv
    | with_reducible apply bootFail_inv
    | with_reducible apply startRecorder_inv
    | with_reducible apply openEpoch_inv
    | with_reducible refine Inv.foldl _ (fun _ _ _ => ?_) ?_
    | with_reducible refine Inv.foldl2 _ (fun _ _ _ => ?_) ?_
    | with_reducible apply hK
    | with_reducible intro _
    | split
    | fail_if_no_progress (with_reducible (refine Inv.put rfl rfl rfl rfl rfl rfl rfl rfl rfl rfl rfl rfl rfl rfl rfl rfl ⟨rfl, rfl, rfl, rfl, rfl⟩ rfl rfl rfl rfl ?_))
    | dsimp only

theorem coldInit_inv {K : Goals} {ρ : State} (s : State) (hI : Inv K ρ s) : Inv K ρ (coldInit s) := by
  unfold coldInit
  exact hI.step (fun l => { l with mem := filter_wf _ l.mem }) fun k => { k with }

theorem memInitSt_inv {K : Goals} {ρ : State} (mismatch : List Nat) (s : State)  (hboot : K.boot = false) (hI : Inv K ρ s) : Inv K ρ (memInitSt mismatch s) := by
  unfold memInitSt
  repeat' first
    | with_reducible assumption
    | with_reducible apply setStage_inv
    | with_reducible apply coldInit_inv
    | with_reducible apply report_inv
    | with_reducible apply openEpoch_inv
    | with_reducible refine Inv.foldl _ (fun _ _ _ => ?_) ?_
    | with_reducible refine Inv.foldl2 _ (fun _ _ _ => ?_) ?_
    | with_reducible apply hK
    | with_reducible intro _
    | split
    | fail_if_no_progress (with_reducible (refine Inv.put rfl rfl rfl rfl rfl rfl rfl rfl rfl rfl rfl rfl rfl rfl rfl rfl ⟨rfl, rfl, rfl, rfl, rfl⟩ rfl rfl rfl rfl ?_))
    | dsimp only

theorem raiseAll_inv {K : Goals} {ρ : State} (s : State)  (hI : Inv K ρ s) : Inv K ρ (raiseAll s) := by
  unfold raiseAll
  repeat' first
    | with_reducible assumption
    | with_reducible refine Inv.foldl _ (fun _ _ _ => ?_) ?_
    | with_reducible refine Inv.foldl2 _ (fun _ _ _ => ?_) ?_
    | with_reducible apply hK
    | with_reducible intro _
    | split
    | fail_if_no_progress (with_reducible (refine Inv.put rfl rfl rfl rfl rfl rfl rfl rfl rfl rfl rfl rfl rfl rfl rfl rfl ⟨rfl, rfl, rfl, rfl, rfl⟩ rfl rfl rfl rfl ?_))

theorem dirInitSt_inv {K : Goals} {ρ : State} (dies : BitVec 4) (dirOk : Bool) (s : State)  (hboot : K.boot = false) (hI : Inv K ρ s) : Inv K ρ (dirInitSt dies dirOk s) := by
  unfold dirInitSt
  repeat' first
    | with_reducible assumption
    | with_reducible apply setStage_inv
    | with_reducible apply bootFail_inv
    | with_reducible apply fabricRise_inv
    | with_reducible apply raiseAll_inv
    | with_reducible refine Inv.foldl _ (fun _ _ _ => ?_) ?_
    | with_reducible refine Inv.foldl2 _ (fun _ _ _ => ?_) ?_
    | with_reducible apply hK
    | with_reducible intro _
    | split
    | fail_if_no_progress (with_reducible (refine Inv.put rfl rfl rfl rfl rfl rfl rfl rfl rfl rfl rfl rfl rfl rfl rfl rfl ⟨rfl, rfl, rfl, rfl, rfl⟩ rfl rfl rfl rfl ?_))

theorem timeSt_inv {K : Goals} {ρ : State} (s : State) (htb : K.tb = false) (hboot : K.boot = false) (hI : Inv K ρ s) : Inv K ρ (timeSt s) := by
  unfold timeSt
  split
  · exact hI
  · split
    rename_i r u hu
    have h := fresh_invE hu hI
    refine setStage_inv _ _ hboot ?_
    exact h.step (fun l => { l with
      slot := Nat.zero_lt_succ _
      rail := ⟨by dsimp only; omega, by dsimp only; omega, fun _ => by dsimp only; omega⟩ }) fun k => { k with tb := Groups.no htb }

theorem stageExpirySt_inv {K : Goals} {ρ : State} (check : Option BootCheck) (s : State)  (hboot : K.boot = false) (hI : Inv K ρ s) : Inv K ρ (stageExpirySt check s) := by
  unfold stageExpirySt
  repeat' first
    | with_reducible assumption
    | with_reducible apply bootFail_inv
    | with_reducible refine fresh_invE (by assumption) ?_
    | with_reducible apply fresh_inv
    | with_reducible refine Inv.foldl _ (fun _ _ _ => ?_) ?_
    | with_reducible refine Inv.foldl2 _ (fun _ _ _ => ?_) ?_
    | with_reducible apply hK
    | with_reducible intro _
    | split

theorem cfgSt_inv {K : Goals} {ρ : State} (op : CfgOp) (s : State)  (hI : Inv K ρ s) : Inv K ρ (cfgSt op s) := by
  unfold cfgSt
  repeat' first
    | with_reducible assumption
    | with_reducible apply emit_inv
    | with_reducible refine fresh_invE (by assumption) ?_
    | with_reducible apply fresh_inv
    | with_reducible refine Inv.foldl _ (fun _ _ _ => ?_) ?_
    | with_reducible refine Inv.foldl2 _ (fun _ _ _ => ?_) ?_
    | with_reducible apply hK
    | with_reducible intro _
    | split
    | fail_if_no_progress (with_reducible (refine Inv.put rfl rfl rfl rfl rfl rfl rfl rfl rfl rfl rfl rfl rfl rfl rfl rfl ⟨rfl, rfl, rfl, rfl, rfl⟩ rfl rfl rfl rfl ?_))

theorem reply_inv {K : Goals} {ρ : State} (code : Nat) (st : Status) (ws : List Nat) (s : State)  (hI : Inv K ρ s) : Inv K ρ (reply code st ws s) := by
  unfold reply
  repeat' first
    | with_reducible assumption
    | with_reducible apply emit_inv

theorem unlessInvalid_inv {K : Goals} {ρ : State} (code : Nat) (s : State) (k : State → State) (hK : ∀ t, Inv K ρ t → Inv K ρ (k t)) (hI : Inv K ρ s) : Inv K ρ (unlessInvalid code s k) := by
  unfold unlessInvalid
  repeat' first
    | with_reducible assumption
    | with_reducible apply reply_inv
    | with_reducible refine Inv.foldl _ (fun _ _ _ => ?_) ?_
    | with_reducible refine Inv.foldl2 _ (fun _ _ _ => ?_) ?_
    | with_reducible apply hK
    | with_reducible intro _
    | split

theorem bootStatusSt_inv {K : Goals} {ρ : State} (s : State)  (hI : Inv K ρ s) : Inv K ρ (bootStatusSt s) := by
  unfold bootStatusSt
  repeat' first
    | with_reducible assumption
    | with_reducible apply reply_inv
    | with_reducible refine Inv.foldl _ (fun _ _ _ => ?_) ?_
    | with_reducible refine Inv.foldl2 _ (fun _ _ _ => ?_) ?_
    | with_reducible apply hK
    | with_reducible intro _
    | split

theorem faultSummarySt_inv {K : Goals} {ρ : State} (s : State)  (hI : Inv K ρ s) : Inv K ρ (faultSummarySt s) := by
  unfold faultSummarySt
  repeat' first
    | with_reducible assumption
    | with_reducible apply unlessInvalid_inv
    | with_reducible apply reply_inv
    | with_reducible refine Inv.foldl _ (fun _ _ _ => ?_) ?_
    | with_reducible refine Inv.foldl2 _ (fun _ _ _ => ?_) ?_
    | with_reducible apply hK
    | with_reducible intro _

theorem releaseErr_inv {K : Goals} {ρ : State} (s : State)  (hI : Inv K ρ s) : Inv K ρ (releaseErr s) := by
  unfold releaseErr
  repeat' first
    | with_reducible assumption
    | with_reducible refine Inv.foldl _ (fun _ _ _ => ?_) ?_
    | with_reducible refine Inv.foldl2 _ (fun _ _ _ => ?_) ?_
    | with_reducible apply hK
    | with_reducible intro _
    | split
    | fail_if_no_progress (with_reducible (refine Inv.put rfl rfl rfl rfl rfl rfl rfl rfl rfl rfl rfl rfl rfl rfl rfl rfl ⟨rfl, rfl, rfl, rfl, rfl⟩ rfl rfl rfl rfl ?_))

theorem clearErrSt_inv {K : Goals} {ρ : State} (s : State)  (hI : Inv K ρ s) : Inv K ρ (clearErrSt s) := by
  unfold clearErrSt
  repeat' first
    | with_reducible assumption
    | with_reducible apply unlessInvalid_inv
    | with_reducible apply reply_inv
    | with_reducible apply releaseErr_inv
    | with_reducible refine Inv.foldl _ (fun _ _ _ => ?_) ?_
    | with_reducible refine Inv.foldl2 _ (fun _ _ _ => ?_) ?_
    | with_reducible apply hK
    | with_reducible intro _
    | split

theorem requestResetSt_inv {K : Goals} {ρ : State} (s : State)  (hI : Inv K ρ s) : Inv K ρ (requestResetSt s) := by
  unfold requestResetSt
  repeat' first
    | with_reducible assumption
    | with_reducible apply unlessInvalid_inv
    | with_reducible apply reply_inv
    | with_reducible apply askChipReset_inv
    | with_reducible refine Inv.foldl _ (fun _ _ _ => ?_) ?_
    | with_reducible refine Inv.foldl2 _ (fun _ _ _ => ?_) ?_
    | with_reducible apply hK
    | with_reducible intro _
    | split
    | fail_if_no_progress (with_reducible (refine Inv.put rfl rfl rfl rfl rfl rfl rfl rfl rfl rfl rfl rfl rfl rfl rfl rfl ⟨rfl, rfl, rfl, rfl, rfl⟩ rfl rfl rfl rfl ?_))
    | dsimp only

theorem ackPowerSt_inv {K : Goals} {ρ : State} (s : State)  (hI : Inv K ρ s) : Inv K ρ (ackPowerSt s) := by
  unfold ackPowerSt
  repeat' first
    | with_reducible assumption
    | with_reducible apply reply_inv
    | with_reducible refine Inv.foldl _ (fun _ _ _ => ?_) ?_
    | with_reducible refine Inv.foldl2 _ (fun _ _ _ => ?_) ?_
    | with_reducible apply hK
    | with_reducible intro _
    | split
    | fail_if_no_progress (with_reducible (refine Inv.put rfl rfl rfl rfl rfl rfl rfl rfl rfl rfl rfl rfl rfl rfl rfl rfl ⟨rfl, rfl, rfl, rfl, rfl⟩ rfl rfl rfl rfl ?_))

theorem otherCodeSt_inv {K : Goals} {ρ : State} (code : Nat) (s : State)  (hI : Inv K ρ s) : Inv K ρ (otherCodeSt code s) := by
  unfold otherCodeSt
  repeat' first
    | with_reducible assumption
    | with_reducible apply reply_inv
    | with_reducible refine Inv.foldl _ (fun _ _ _ => ?_) ?_
    | with_reducible refine Inv.foldl2 _ (fun _ _ _ => ?_) ?_
    | with_reducible apply hK
    | with_reducible intro _
    | split

theorem powerRepeatSt_inv {K : Goals} {ρ : State} (s : State)  (hI : Inv K ρ s) : Inv K ρ (powerRepeatSt s) := by
  unfold powerRepeatSt
  repeat' first
    | with_reducible assumption
    | with_reducible apply sendPower_inv
    | with_reducible refine Inv.foldl _ (fun _ _ _ => ?_) ?_
    | with_reducible refine Inv.foldl2 _ (fun _ _ _ => ?_) ?_
    | with_reducible apply hK
    | with_reducible intro _
    | split
    | fail_if_no_progress (with_reducible (refine Inv.put rfl rfl rfl rfl rfl rfl rfl rfl rfl rfl rfl rfl rfl rfl rfl rfl ⟨rfl, rfl, rfl, rfl, rfl⟩ rfl rfl rfl rfl ?_))

theorem errpinClearSt_inv {K : Goals} {ρ : State} (s : State)  (hI : Inv K ρ s) : Inv K ρ (errpinClearSt s) := by
  unfold errpinClearSt
  repeat' first
    | with_reducible assumption
    | with_reducible apply releaseErr_inv
    | with_reducible refine Inv.foldl _ (fun _ _ _ => ?_) ?_
    | with_reducible refine Inv.foldl2 _ (fun _ _ _ => ?_) ?_
    | with_reducible apply hK
    | with_reducible intro _
    | split

theorem flrVfSt_inv {K : Goals} {ρ : State} (n : Nat) (s : State)  (hI : Inv K ρ s) : Inv K ρ (flrVfSt n s) := by
  unfold flrVfSt
  repeat' first
    | with_reducible assumption
    | with_reducible apply askReset_inv
    | with_reducible refine Inv.foldl _ (fun _ _ _ => ?_) ?_
    | with_reducible refine Inv.foldl2 _ (fun _ _ _ => ?_) ?_
    | with_reducible apply hK
    | with_reducible intro _
    | split
    | fail_if_no_progress (with_reducible (refine Inv.put rfl rfl rfl rfl rfl rfl rfl rfl rfl rfl rfl rfl rfl rfl rfl rfl ⟨rfl, rfl, rfl, rfl, rfl⟩ rfl rfl rfl rfl ?_))
    | dsimp only

theorem flrPfSt_inv {K : Goals} {ρ : State} (s : State)  (hI : Inv K ρ s) : Inv K ρ (flrPfSt s) := by
  unfold flrPfSt
  repeat' first
    | with_reducible assumption
    | with_reducible apply askChipReset_inv
    | with_reducible refine Inv.foldl _ (fun _ _ _ => ?_) ?_
    | with_reducible refine Inv.foldl2 _ (fun _ _ _ => ?_) ?_
    | with_reducible apply hK
    | with_reducible intro _
    | split

theorem holdPart_inv {K : Goals} {ρ : State} (n : Nat) (s : State)  (hI : Inv K ρ s) : Inv K ρ (holdPart n s) := by
  unfold holdPart
  repeat' first
    | with_reducible assumption
    | with_reducible refine Inv.foldl _ (fun _ _ _ => ?_) ?_
    | with_reducible refine Inv.foldl2 _ (fun _ _ _ => ?_) ?_
    | with_reducible apply hK
    | with_reducible intro _
    | split
    | fail_if_no_progress (with_reducible (refine Inv.put rfl rfl rfl rfl rfl rfl rfl rfl rfl rfl rfl rfl rfl rfl rfl rfl ⟨rfl, rfl, rfl, rfl, rfl⟩ rfl rfl rfl rfl ?_))

theorem decide__inv {K : Goals} {ρ : State} (e : CmpEntry) (s : State)  (hI : Inv K ρ s) : Inv K ρ (decide_ e s) := by
  unfold decide_
  repeat' first
    | with_reducible assumption
    | with_reducible apply report_inv
    | with_reducible apply holdPart_inv
    | with_reducible refine Inv.foldl _ (fun _ _ _ => ?_) ?_
    | with_reducible refine Inv.foldl2 _ (fun _ _ _ => ?_) ?_
    | with_reducible apply hK
    | with_reducible intro _
    | split
    | fail_if_no_progress (with_reducible (refine Inv.put rfl rfl rfl rfl rfl rfl rfl rfl rfl rfl rfl rfl rfl rfl rfl rfl ⟨rfl, rfl, rfl, rfl, rfl⟩ rfl rfl rfl rfl ?_))

theorem addDigest_inv {K : Goals} {ρ : State} (n slot rangeId period who : Nat) (d : Digest) (s : State)  (hI : Inv K ρ s) : Inv K ρ (addDigest n slot rangeId period who d s) := by
  unfold addDigest
  repeat' first
    | with_reducible assumption
    | with_reducible apply decide__inv
    | with_reducible refine Inv.foldl _ (fun _ _ _ => ?_) ?_
    | with_reducible refine Inv.foldl2 _ (fun _ _ _ => ?_) ?_
    | with_reducible apply hK
    | with_reducible intro _
    | split
    | fail_if_no_progress (with_reducible (refine Inv.put rfl rfl rfl rfl rfl rfl rfl rfl rfl rfl rfl rfl rfl rfl rfl rfl ⟨rfl, rfl, rfl, rfl, rfl⟩ rfl rfl rfl rfl ?_))
    | dsimp only

theorem sendNotes_inv {K : Goals} {ρ : State} (n slot rangeId period : Nat) (root : Digest) (s : State)  (hI : Inv K ρ s) : Inv K ρ (sendNotes n slot rangeId period root s) := by
  unfold sendNotes
  repeat' first
    | with_reducible assumption
    | with_reducible apply foaSend_inv
    | with_reducible refine Inv.foldl _ (fun _ _ _ => ?_) ?_
    | with_reducible refine Inv.foldl2 _ (fun _ _ _ => ?_) ?_
    | with_reducible apply hK
    | with_reducible intro _
    | split

theorem measure_inv {K : Goals} {ρ : State} (n rangeId : Nat) (root : Digest) (s : State)  (hI : Inv K ρ s) : Inv K ρ (measure n rangeId root s) := by
  unfold measure
  repeat' first
    | with_reducible assumption
    | with_reducible refine Inv.foldl _ (fun _ _ _ => ?_) ?_
    | with_reducible refine Inv.foldl2 _ (fun _ _ _ => ?_) ?_
    | with_reducible apply hK
    | with_reducible intro _
    | split
    | fail_if_no_progress (with_reducible (refine Inv.put rfl rfl rfl rfl rfl rfl rfl rfl rfl rfl rfl rfl rfl rfl rfl rfl ⟨rfl, rfl, rfl, rfl, rfl⟩ rfl rfl rfl rfl ?_))

theorem cmpCloseSt_inv {K : Goals} {ρ : State} (n slot rangeId period : Nat) (s : State)  (hI : Inv K ρ s) : Inv K ρ (cmpCloseSt n slot rangeId period s) := by
  unfold cmpCloseSt
  repeat' first
    | with_reducible assumption
    | with_reducible apply decide__inv
    | with_reducible refine Inv.foldl _ (fun _ _ _ => ?_) ?_
    | with_reducible refine Inv.foldl2 _ (fun _ _ _ => ?_) ?_
    | with_reducible apply hK
    | with_reducible intro _
    | split

theorem lcOverrun_inv {K : Goals} {ρ : State} (t : Step) (s : State)  (hI : Inv K ρ s) : Inv K ρ (lcOverrun t s) := by
  unfold lcOverrun
  repeat' first
    | with_reducible assumption
    | with_reducible apply modHr_inv
    | with_reducible apply report_inv
    | with_reducible refine Inv.foldl _ (fun _ _ _ => ?_) ?_
    | with_reducible refine Inv.foldl2 _ (fun _ _ _ => ?_) ?_
    | with_reducible apply hK
    | with_reducible intro _
    | split
    | fail_if_no_progress (with_reducible (refine Inv.put rfl rfl rfl rfl rfl rfl rfl rfl rfl rfl rfl rfl rfl rfl rfl rfl ⟨rfl, rfl, rfl, rfl, rfl⟩ rfl rfl rfl rfl ?_))

theorem overrun_inv {K : Goals} {ρ : State} (s : State) (t : Step)  (hI : Inv K ρ s) : Inv K ρ (overrun s t) := by
  unfold overrun
  repeat' first
    | with_reducible assumption
    | with_reducible apply killStep_inv
    | with_reducible apply modHr_inv
    | with_reducible apply modStep_inv
    | with_reducible apply lcOverrun_inv
    | with_reducible refine Inv.foldl _ (fun _ _ _ => ?_) ?_
    | with_reducible refine Inv.foldl2 _ (fun _ _ _ => ?_) ?_
    | with_reducible apply hK
    | with_reducible intro _
    | split
    | fail_if_no_progress (with_reducible (refine Inv.put rfl rfl rfl rfl rfl rfl rfl rfl rfl rfl rfl rfl rfl rfl rfl rfl ⟨rfl, rfl, rfl, rfl, rfl⟩ rfl rfl rfl rfl ?_))

theorem endSlot_inv {K : Goals} {ρ : State} (s : State)  (hI : Inv K ρ s) : Inv K ρ (endSlot s) := by
  unfold endSlot
  repeat' first
    | with_reducible assumption
    | with_reducible apply overrun_inv
    | with_reducible refine Inv.foldl _ (fun _ _ _ => ?_) ?_
    | with_reducible refine Inv.foldl2 _ (fun _ _ _ => ?_) ?_
    | with_reducible apply hK
    | with_reducible intro _
    | split
    | fail_if_no_progress (with_reducible (refine Inv.put rfl rfl rfl rfl rfl rfl rfl rfl rfl rfl rfl rfl rfl rfl rfl rfl ⟨rfl, rfl, rfl, rfl, rfl⟩ rfl rfl rfl rfl ?_))
    | dsimp only

theorem startSlot_inv {K : Goals} {ρ : State} (s : State)  (hI : Inv K ρ s) : Inv K ρ (startSlot s) := by
  unfold startSlot
  repeat' first
    | with_reducible assumption
    | with_reducible apply arbitrate_inv
    | with_reducible apply startJudge_inv
    | with_reducible refine Inv.foldl _ (fun _ _ _ => ?_) ?_
    | with_reducible refine Inv.foldl2 _ (fun _ _ _ => ?_) ?_
    | with_reducible apply hK
    | with_reducible intro _
    | split

theorem slotSt_inv {K : Goals} {ρ : State} (s : State) (htb : K.tb = false) (hI : Inv K ρ s) : Inv K ρ (slotSt s) := by
  unfold slotSt
  split
  · exact hI
  · rename_i hc
    have hs : s.tb.slot < 15 := by
      simp only [Bool.or_eq_true, decide_eq_true_eq, not_or] at hc
      omega
    have h := endSlot_inv s hI
    refine startSlot_inv _ ?_
    exact h.setTb htb fun l => ⟨Nat.succ_lt_succ hs, l.period, l.rail.2.2⟩

theorem tellTile_inv {K : Goals} {ρ : State} (differ : List Differ) (s : State) (t : Step)  (hI : Inv K ρ s) : Inv K ρ (tellTile differ s t) := by
  unfold tellTile
  repeat' first
    | with_reducible assumption
    | with_reducible apply emit_inv
    | with_reducible refine Inv.foldl _ (fun _ _ _ => ?_) ?_
    | with_reducible refine Inv.foldl2 _ (fun _ _ _ => ?_) ?_
    | with_reducible apply hK
    | with_reducible intro _
    | split
    | fail_if_no_progress (with_reducible (refine Inv.put rfl rfl rfl rfl rfl rfl rfl rfl rfl rfl rfl rfl rfl rfl rfl rfl ⟨rfl, rfl, rfl, rfl, rfl⟩ rfl rfl rfl rfl ?_))

theorem sendReply_inv {K : Goals} {ρ : State} (h : FoaHead) (b : ReplyBody) (s : State)  (hI : Inv K ρ s) : Inv K ρ (sendReply h b s) := by
  unfold sendReply
  repeat' first
    | with_reducible assumption
    | with_reducible apply foaSend_inv
    | with_reducible refine Inv.foldl _ (fun _ _ _ => ?_) ?_
    | with_reducible refine Inv.foldl2 _ (fun _ _ _ => ?_) ?_
    | with_reducible apply hK
    | with_reducible intro _
    | split

theorem applyEffect_inv {K : Goals} {ρ : State} (t : Step) (s : State) (e : Effect)  (hI : Inv K ρ s) : Inv K ρ (applyEffect t s e) := by
  unfold applyEffect
  repeat' first
    | with_reducible assumption
    | with_reducible apply writeDva_inv
    | with_reducible apply emit_inv
    | with_reducible apply sendReply_inv
    | with_reducible apply measure_inv
    | with_reducible apply addDigest_inv
    | with_reducible apply sendNotes_inv
    | with_reducible apply modQueue_inv
    | with_reducible refine Inv.foldl _ (fun _ _ _ => ?_) ?_
    | with_reducible refine Inv.foldl2 _ (fun _ _ _ => ?_) ?_
    | with_reducible apply hK
    | with_reducible intro _
    | split
    | fail_if_no_progress (with_reducible (refine Inv.put rfl rfl rfl rfl rfl rfl rfl rfl rfl rfl rfl rfl rfl rfl rfl rfl ⟨rfl, rfl, rfl, rfl, rfl⟩ rfl rfl rfl rfl ?_))

theorem commitCounts_inv {K : Goals} {ρ : State} (s : State) (t : Step)  (hI : Inv K ρ s) : Inv K ρ (commitCounts s t) := by
  unfold commitCounts
  repeat' first
    | with_reducible assumption
    | with_reducible refine Inv.foldl _ (fun _ _ _ => ?_) ?_
    | with_reducible refine Inv.foldl2 _ (fun _ _ _ => ?_) ?_
    | with_reducible apply hK
    | with_reducible intro _
    | split
    | fail_if_no_progress (with_reducible (refine Inv.put rfl rfl rfl rfl rfl rfl rfl rfl rfl rfl rfl rfl rfl rfl rfl rfl ⟨rfl, rfl, rfl, rfl, rfl⟩ rfl rfl rfl rfl ?_))

theorem mismatch_inv {K : Goals} {ρ : State} (t : Step) (d : Differ) (s : State)  (hI : Inv K ρ s) : Inv K ρ (mismatch t d s) := by
  unfold mismatch
  repeat' first
    | with_reducible assumption
    | with_reducible apply finishStep_inv
    | with_reducible apply report_inv
    | with_reducible apply modStep_inv
    | with_reducible apply touchAll_inv
    | with_reducible refine Inv.foldl _ (fun _ _ _ => ?_) ?_
    | with_reducible refine Inv.foldl2 _ (fun _ _ _ => ?_) ?_
    | with_reducible apply hK
    | with_reducible intro _
    | split

theorem markPoison_inv {K : Goals} {ρ : State} (s : State) (t : Step)  (hI : Inv K ρ s) : Inv K ρ (markPoison s t) := by
  unfold markPoison
  repeat' first
    | with_reducible assumption
    | with_reducible apply loseCtx_inv
    | with_reducible apply report_inv
    | with_reducible refine Inv.foldl _ (fun _ _ _ => ?_) ?_
    | with_reducible refine Inv.foldl2 _ (fun _ _ _ => ?_) ?_
    | with_reducible apply hK
    | with_reducible intro _
    | split

theorem failStep_inv {K : Goals} {ρ : State} (differ : List Differ) (s : State) (t : Step)  (hI : Inv K ρ s) : Inv K ρ (failStep differ s t) := by
  unfold failStep
  repeat' first
    | with_reducible assumption
    | with_reducible apply finishStep_inv
    | with_reducible apply mismatch_inv
    | with_reducible refine Inv.foldl _ (fun _ _ _ => ?_) ?_
    | with_reducible refine Inv.foldl2 _ (fun _ _ _ => ?_) ?_
    | with_reducible apply hK
    | with_reducible intro _
    | split

theorem endOne_inv {K : Goals} {ρ : State} (differ : List Differ) (s : State) (e : Ending)  (hI : Inv K ρ s) : Inv K ρ (endOne differ s e) := by
  unfold endOne
  repeat' first
    | with_reducible assumption
    | with_reducible apply finishStep_inv
    | with_reducible apply failStep_inv
    | with_reducible apply applySignal_inv
    | with_reducible refine Inv.foldl _ (fun _ _ _ => ?_) ?_
    | with_reducible refine Inv.foldl2 _ (fun _ _ _ => ?_) ?_
    | with_reducible apply hK
    | with_reducible intro _
    | split

theorem afterCommit_inv {K : Goals} {ρ : State} (s : State)  (hI : Inv K ρ s) : Inv K ρ (afterCommit s) := by
  unfold afterCommit
  repeat' first
    | with_reducible assumption
    | with_reducible apply drainAll_inv
    | with_reducible apply tryFinish_inv
    | with_reducible refine Inv.foldl _ (fun _ _ _ => ?_) ?_

theorem endCommit_inv {K : Goals} {ρ : State} (f k : Nat) (s : State)  (hI : Inv K ρ s) : Inv K ρ (endCommit f k s) := by
  unfold endCommit
  repeat' first
    | with_reducible assumption
    | with_reducible apply commitCounts_inv
    | with_reducible apply markPoison_inv
    | with_reducible apply endOne_inv
    | with_reducible apply afterCommit_inv
    | with_reducible apply fillBe_inv
    | with_reducible refine Inv.foldl _ (fun _ _ _ => ?_) ?_
    | with_reducible refine Inv.foldl2 _ (fun _ _ _ => ?_) ?_
    | with_reducible apply hK
    | with_reducible intro _
    | split
    | fail_if_no_progress (with_reducible (refine Inv.put rfl rfl rfl rfl rfl rfl rfl rfl rfl rfl rfl rfl rfl rfl rfl rfl ⟨rfl, rfl, rfl, rfl, rfl⟩ rfl rfl rfl rfl ?_))

theorem applyCommit_inv {K : Goals} {ρ : State} (f k : Nat) (differ : List Differ) (s : State)  (hI : Inv K ρ s) : Inv K ρ (applyCommit f k differ s) := by
  unfold applyCommit
  repeat' first
    | with_reducible assumption
    | with_reducible apply tellTile_inv
    | with_reducible apply applyEffect_inv
    | with_reducible apply applyAtom_inv
    | with_reducible refine Inv.foldl _ (fun _ _ _ => ?_) ?_
    | with_reducible refine Inv.foldl2 _ (fun _ _ _ => ?_) ?_
    | with_reducible apply hK
    | with_reducible intro _
    | split
    | fail_if_no_progress (with_reducible (refine Inv.put rfl rfl rfl rfl rfl rfl rfl rfl rfl rfl rfl rfl rfl rfl rfl rfl ⟨rfl, rfl, rfl, rfl, rfl⟩ rfl rfl rfl rfl ?_))

theorem commitSt_inv {K : Goals} {ρ : State} (differ : List Differ) (s : State)  (hI : Inv K ρ s) : Inv K ρ (commitSt differ s) := by
  unfold commitSt
  repeat' first
    | with_reducible assumption
    | with_reducible apply endCommit_inv
    | with_reducible apply applyCommit_inv
    | with_reducible refine Inv.foldl _ (fun _ _ _ => ?_) ?_
    | with_reducible refine Inv.foldl2 _ (fun _ _ _ => ?_) ?_
    | with_reducible apply hK
    | with_reducible intro _
    | split

theorem disarm_inv {K : Goals} {ρ : State} (s : State)  (harm : K.arm = false) (hI : Inv K ρ s) : Inv K ρ (disarm s) := by
  unfold disarm
  repeat' first
    | with_reducible assumption
    | with_reducible refine Inv.foldl _ (fun _ _ _ => ?_) ?_
    | with_reducible refine Inv.foldl2 _ (fun _ _ _ => ?_) ?_
    | with_reducible apply hK
    | with_reducible intro _
    | split
    | fail_if_no_progress (with_reducible (refine Inv.put rfl rfl rfl rfl rfl rfl rfl rfl rfl rfl rfl rfl rfl rfl rfl rfl ⟨rfl, rfl, rfl, rfl, rfl⟩ rfl rfl rfl rfl ?_))
    | fail_if_no_progress (with_reducible (refine Inv.upd rfl rfl rfl rfl rfl rfl rfl rfl rfl rfl rfl rfl rfl rfl rfl rfl rfl rfl (fun _ => rfl) (fun _ => ⟨rfl, rfl, rfl⟩) (fun _ => ⟨rfl, rfl, rfl⟩) (fun _ => rfl) (fun k => Groups.no harm k) ?_))

theorem checkSt_inv {K : Goals} {ρ : State} (deal cancel : Bool) (s : State)  (harm : K.arm = false) (hI : Inv K ρ s) : Inv K ρ (checkSt deal cancel s) := by
  unfold checkSt
  repeat' first
    | with_reducible assumption
    | with_reducible apply disarm_inv
    | with_reducible apply deal_inv
    | with_reducible refine Inv.foldl _ (fun _ _ _ => ?_) ?_
    | with_reducible refine Inv.foldl2 _ (fun _ _ _ => ?_) ?_
    | with_reducible apply hK
    | with_reducible intro _
    | split
    | fail_if_no_progress (with_reducible (refine Inv.put rfl rfl rfl rfl rfl rfl rfl rfl rfl rfl rfl rfl rfl rfl rfl rfl ⟨rfl, rfl, rfl, rfl, rfl⟩ rfl rfl rfl rfl ?_))
    | dsimp only

theorem cancelSt_inv {K : Goals} {ρ : State} (deal : Bool) (s : State)  (harm : K.arm = false) (hI : Inv K ρ s) : Inv K ρ (cancelSt deal s) := by
  unfold cancelSt
  repeat' first
    | with_reducible assumption
    | with_reducible apply disarm_inv
    | with_reducible apply deal_inv
    | with_reducible refine Inv.foldl _ (fun _ _ _ => ?_) ?_
    | with_reducible refine Inv.foldl2 _ (fun _ _ _ => ?_) ?_
    | with_reducible apply hK
    | with_reducible intro _
    | split
    | fail_if_no_progress (with_reducible (refine Inv.put rfl rfl rfl rfl rfl rfl rfl rfl rfl rfl rfl rfl rfl rfl rfl rfl ⟨rfl, rfl, rfl, rfl, rfl⟩ rfl rfl rfl rfl ?_))

theorem putVerdict_inv {K : Goals} {ρ : State} (v : Verdict) (view : PlanView) (digest : Digest) (resultOk : Bool) (s : State)  (hI : Inv K ρ s) : Inv K ρ (putVerdict v view digest resultOk s) := by
  unfold putVerdict
  repeat' first
    | with_reducible assumption
    | with_reducible apply emit_inv
    | with_reducible apply msix_inv
    | with_reducible refine Inv.foldl _ (fun _ _ _ => ?_) ?_
    | with_reducible refine Inv.foldl2 _ (fun _ _ _ => ?_) ?_
    | with_reducible apply hK
    | with_reducible intro _
    | split
    | fail_if_no_progress (with_reducible (refine Inv.put rfl rfl rfl rfl rfl rfl rfl rfl rfl rfl rfl rfl rfl rfl rfl rfl ⟨rfl, rfl, rfl, rfl, rfl⟩ rfl rfl rfl rfl ?_))

theorem checkDoneSt_inv {K : Goals} {ρ : State} (image : Option Image) (resultOk : Bool) (s : State)  (harm : K.arm = false) (hI : Inv K ρ s) : Inv K ρ (checkDoneSt image resultOk s) := by
  unfold checkDoneSt
  repeat' first
    | with_reducible assumption
    | with_reducible refine fresh_invE (by assumption) ?_
    | with_reducible apply fresh_inv
    | with_reducible apply putVerdict_inv
    | with_reducible refine Inv.foldl _ (fun _ _ _ => ?_) ?_
    | with_reducible refine Inv.foldl2 _ (fun _ _ _ => ?_) ?_
    | with_reducible apply hK
    | with_reducible intro _
    | split
    | fail_if_no_progress (with_reducible (refine Inv.put rfl rfl rfl rfl rfl rfl rfl rfl rfl rfl rfl rfl rfl rfl rfl rfl ⟨rfl, rfl, rfl, rfl, rfl⟩ rfl rfl rfl rfl ?_))
    | fail_if_no_progress (with_reducible (refine Inv.upd rfl rfl rfl rfl rfl rfl rfl rfl rfl rfl rfl rfl rfl rfl rfl rfl rfl rfl (fun _ => rfl) (fun _ => ⟨rfl, rfl, rfl⟩) (fun _ => ⟨rfl, rfl, rfl⟩) (fun _ => rfl) (fun k => Groups.no harm k) ?_))

theorem psHoldSt_inv {K : Goals} {ρ : State} (v : BitVec 32) (s : State)  (hI : Inv K ρ s) : Inv K ρ (psHoldSt v s) := by
  unfold psHoldSt
  repeat' first
    | with_reducible assumption
    | with_reducible apply fillBe_inv
    | with_reducible refine Inv.foldl _ (fun _ _ _ => ?_) ?_
    | with_reducible refine Inv.foldl2 _ (fun _ _ _ => ?_) ?_
    | with_reducible apply hK
    | with_reducible intro _
    | split
    | fail_if_no_progress (with_reducible (refine Inv.put rfl rfl rfl rfl rfl rfl rfl rfl rfl rfl rfl rfl rfl rfl rfl rfl ⟨rfl, rfl, rfl, rfl, rfl⟩ rfl rfl rfl rfl ?_))

theorem recallLine_inv {K : Goals} {ρ : State} (k : Nat) (s : State)  (hI : Inv K ρ s) : Inv K ρ (recallLine k s) := by
  unfold recallLine
  repeat' first
    | with_reducible assumption
    | with_reducible apply setLlc_inv
    | with_reducible apply begin__inv
    | with_reducible refine Inv.foldl _ (fun _ _ _ => ?_) ?_
    | with_reducible refine Inv.foldl2 _ (fun _ _ _ => ?_) ?_
    | with_reducible apply hK
    | with_reducible intro _
    | split
    | fail_if_no_progress (with_reducible (refine Inv.put rfl rfl rfl rfl rfl rfl rfl rfl rfl rfl rfl rfl rfl rfl rfl rfl ⟨rfl, rfl, rfl, rfl, rfl⟩ rfl rfl rfl rfl ?_))
    | dsimp only

theorem holdRecallSt_inv {K : Goals} {ρ : State} (n : Nat) (s : State)  (hI : Inv K ρ s) : Inv K ρ (holdRecallSt n s) := by
  unfold holdRecallSt
  repeat' first
    | with_reducible assumption
    | with_reducible apply recallLine_inv
    | with_reducible refine Inv.foldl _ (fun _ _ _ => ?_) ?_
    | with_reducible refine Inv.foldl2 _ (fun _ _ _ => ?_) ?_
    | with_reducible apply hK
    | with_reducible intro _
    | split

theorem periodSt_inv {K : Goals} {ρ : State} (v : Word) (s : State) (htb : K.tb = false) (hI : Inv K ρ s) : Inv K ρ (periodSt v s) := by
  unfold periodSt
  dsimp only
  split
  · exact hI
  · split
    · repeat' first
        | with_reducible assumption
        | with_reducible refine Inv.foldl _ (fun _ _ _ => ?_) ?_
        | with_reducible refine Inv.foldl2 _ (fun _ _ _ => ?_) ?_
        | with_reducible apply hK
        | with_reducible intro _
        | split
        | fail_if_no_progress (with_reducible (refine Inv.put rfl rfl rfl rfl rfl rfl rfl rfl rfl rfl rfl rfl rfl rfl rfl rfl ⟨rfl, rfl, rfl, rfl, rfl⟩ rfl rfl rfl rfl ?_))
        | fail_if_no_progress (with_reducible (refine Inv.upd rfl rfl rfl rfl rfl rfl rfl rfl rfl rfl rfl rfl rfl rfl rfl rfl rfl rfl (fun k => Groups.no htb k) (fun _ => ⟨rfl, rfl, rfl⟩) (fun _ => ⟨rfl, rfl, rfl⟩) (fun _ => rfl) (fun _ => ⟨rfl, rfl⟩) ?_))
    · rename_i hc
      simp only [Bool.or_eq_true, decide_eq_true_eq, not_or, Nat.not_lt] at hc
      exact hI.setTb htb fun l => ⟨regrid_slot _, hc, l.rail.2.2⟩

theorem originSt_inv {K : Goals} {ρ : State} (off size : Nat) (v : Word) (s : State) (htb : K.tb = false) (hI : Inv K ρ s) : Inv K ρ (originSt off size v s) := by
  unfold originSt
  split
  · exact hI
  · exact hI.setTb htb fun l => ⟨regrid_slot _, l.period, l.rail.2.2⟩

theorem lockFields_inv {K : Goals} {ρ : State} (s : State)  (hI : Inv K ρ s) : Inv K ρ (lockFields s) := by
  unfold lockFields
  repeat' first
    | with_reducible assumption
    | with_reducible refine Inv.foldl _ (fun _ _ _ => ?_) ?_
    | with_reducible refine Inv.foldl2 _ (fun _ _ _ => ?_) ?_
    | with_reducible apply hK
    | with_reducible intro _
    | split
    | fail_if_no_progress (with_reducible (refine Inv.put rfl rfl rfl rfl rfl rfl rfl rfl rfl rfl rfl rfl rfl rfl rfl rfl ⟨rfl, rfl, rfl, rfl, rfl⟩ rfl rfl rfl rfl ?_))

theorem lockSt_inv {K : Goals} {ρ : State} (s : State)  (hI : Inv K ρ s) : Inv K ρ (lockSt s) := by
  unfold lockSt
  repeat' first
    | with_reducible assumption
    | with_reducible apply lockFields_inv
    | with_reducible refine Inv.foldl _ (fun _ _ _ => ?_) ?_
    | with_reducible refine Inv.foldl2 _ (fun _ _ _ => ?_) ?_
    | with_reducible apply hK
    | with_reducible intro _
    | split

theorem sweepLines_inv {K : Goals} {ρ : State} (a b : Image) (s : State)  (hI : Inv K ρ s) : Inv K ρ (sweepLines a b s) := by
  unfold sweepLines
  repeat' first
    | with_reducible assumption
    | with_reducible apply writeMem_inv
    | with_reducible refine Inv.foldl _ (fun _ _ _ => ?_) ?_
    | with_reducible refine Inv.foldl2 _ (fun _ _ _ => ?_) ?_
    | with_reducible apply hK
    | with_reducible intro _
    | split
    | fail_if_no_progress (with_reducible (refine Inv.put rfl rfl rfl rfl rfl rfl rfl rfl rfl rfl rfl rfl rfl rfl rfl rfl ⟨rfl, rfl, rfl, rfl, rfl⟩ rfl rfl rfl rfl ?_))

theorem spoilPc_inv {K : Goals} {ρ : State} (s : State) (p : Nat)  (hI : Inv K ρ s) : Inv K ρ (spoilPc s p) := by
  unfold spoilPc
  repeat' first
    | with_reducible assumption
    | with_reducible apply modPc_inv
    | with_reducible refine Inv.foldl _ (fun _ _ _ => ?_) ?_
    | with_reducible refine Inv.foldl2 _ (fun _ _ _ => ?_) ?_
    | with_reducible apply hK
    | with_reducible intro _
    | split
    | fail_if_no_progress (with_reducible (refine Inv.put rfl rfl rfl rfl rfl rfl rfl rfl rfl rfl rfl rfl rfl rfl rfl rfl ⟨rfl, rfl, rfl, rfl, rfl⟩ rfl rfl rfl rfl ?_))

theorem returnStock_inv {K : Goals} {ρ : State} (a b : Image) (s : State)  (hI : Inv K ρ s) : Inv K ρ (returnStock a b s) := by
  unfold returnStock
  repeat' first
    | with_reducible assumption
    | with_reducible apply startScrub_inv
    | with_reducible apply sweepLines_inv
    | with_reducible refine Inv.foldl _ (fun _ _ _ => ?_) ?_
    | with_reducible refine Inv.foldl2 _ (fun _ _ _ => ?_) ?_
    | with_reducible apply hK
    | with_reducible intro _
    | split
    | fail_if_no_progress (with_reducible (refine Inv.put rfl rfl rfl rfl rfl rfl rfl rfl rfl rfl rfl rfl rfl rfl rfl rfl ⟨rfl, rfl, rfl, rfl, rfl⟩ rfl rfl rfl rfl ?_))

theorem dealGens_inv {K : Goals} {ρ : State} (a b : Image) (s : State)  (hI : Inv K ρ s) : Inv K ρ (dealGens a b s) := by
  unfold dealGens
  repeat' first
    | with_reducible assumption
    | with_reducible apply raiseEngine_inv
    | with_reducible refine Inv.foldl _ (fun _ _ _ => ?_) ?_
    | with_reducible refine Inv.foldl2 _ (fun _ _ _ => ?_) ?_
    | with_reducible apply hK
    | with_reducible intro _
    | split
    | fail_if_no_progress (with_reducible (refine Inv.put rfl rfl rfl rfl rfl rfl rfl rfl rfl rfl rfl rfl rfl rfl rfl rfl ⟨rfl, rfl, rfl, rfl, rfl⟩ rfl rfl rfl rfl ?_))

theorem newcomers_inv {K : Goals} {ρ : State} (a b : Image) (s : State)  (hI : Inv K ρ s) : Inv K ρ (newcomers a b s) := by
  unfold newcomers
  repeat' first
    | with_reducible assumption
    | with_reducible refine Inv.foldl _ (fun _ _ _ => ?_) ?_
    | with_reducible refine Inv.foldl2 _ (fun _ _ _ => ?_) ?_
    | with_reducible apply hK
    | with_reducible intro _
    | split
    | fail_if_no_progress (with_reducible (refine Inv.put rfl rfl rfl rfl rfl rfl rfl rfl rfl rfl rfl rfl rfl rfl rfl rfl ⟨rfl, rfl, rfl, rfl, rfl⟩ rfl rfl rfl rfl ?_))

theorem dealTrust_inv {K : Goals} {ρ : State} (a b : Image) (s : State)  (hI : Inv K ρ s) : Inv K ρ (dealTrust a b s) := by
  unfold dealTrust
  repeat' first
    | with_reducible assumption
    | with_reducible refine Inv.foldl _ (fun _ _ _ => ?_) ?_
    | with_reducible refine Inv.foldl2 _ (fun _ _ _ => ?_) ?_
    | with_reducible apply hK
    | with_reducible intro _
    | split
    | fail_if_no_progress (with_reducible (refine Inv.put rfl rfl rfl rfl rfl rfl rfl rfl rfl rfl rfl rfl rfl rfl rfl rfl ⟨rfl, rfl, rfl, rfl, rfl⟩ rfl rfl rfl rfl ?_))

theorem dealReports_inv {K : Goals} {ρ : State} (a b : Image) (s : State)  (hI : Inv K ρ s) : Inv K ρ (dealReports a b s) := by
  unfold dealReports
  repeat' first
    | with_reducible assumption
    | with_reducible refine Inv.foldl _ (fun _ _ _ => ?_) ?_
    | with_reducible refine Inv.foldl2 _ (fun _ _ _ => ?_) ?_
    | with_reducible apply hK
    | with_reducible intro _
    | split
    | fail_if_no_progress (with_reducible (refine Inv.put rfl rfl rfl rfl rfl rfl rfl rfl rfl rfl rfl rfl rfl rfl rfl rfl ⟨rfl, rfl, rfl, rfl, rfl⟩ rfl rfl rfl rfl ?_))

theorem markStale_inv {K : Goals} {ρ : State} (a b : Image) (s : State)  (hI : Inv K ρ s) : Inv K ρ (markStale a b s) := by
  unfold markStale
  repeat' first
    | with_reducible assumption
    | with_reducible refine Inv.foldl _ (fun _ _ _ => ?_) ?_
    | with_reducible refine Inv.foldl2 _ (fun _ _ _ => ?_) ?_
    | with_reducible apply hK
    | with_reducible intro _
    | split
    | fail_if_no_progress (with_reducible (refine Inv.put rfl rfl rfl rfl rfl rfl rfl rfl rfl rfl rfl rfl rfl rfl rfl rfl ⟨rfl, rfl, rfl, rfl, rfl⟩ rfl rfl rfl rfl ?_))

theorem dealClocks_inv {K : Goals} {ρ : State} (s : State) (hI : Inv K ρ s) : Inv K ρ (dealClocks s) := by
  unfold dealClocks
  extract_lets hm mhz held
  split
  rename_i r u hu
  have h := fresh_invE hu hI
  have hr : u.tb = s.tb := by
    simp only [fresh, Prod.mk.injEq] at hu
    rw [← hu.2]
  have hm2 : u.hm = s.hm := by
    simp only [fresh, Prod.mk.injEq] at hu
    rw [← hu.2]
  refine h.setHm fun l => ?_
  simp only [view, hm2, hr] at l
  refine ⟨?_, l.target, dealClock_legal s l.present l.target, l.slack, l.reserve⟩
  obtain ⟨l1, l2, l3⟩ := l.rail
  rw [hr]
  dsimp +zetaDelta only [view] at l1 l2 l3 ⊢
  by_cases hc : (slackShown u && decide (700 ≤ s.hm.rail)) = true
  · have : r % ((s.hm.rail - 700) / 5 + 1) ≤ (s.hm.rail - 700) / 5 := Nat.le_of_lt_succ (Nat.mod_lt _ (Nat.succ_pos _))
    rw [if_pos hc]
    simp only [Bool.and_eq_true, decide_eq_true_eq] at hc
    exact ⟨by omega, by omega, fun _ => by omega⟩
  · rw [if_neg hc]
    exact ⟨l1, l2, l3⟩

theorem deal_inv {K : Goals} {ρ : State} (b : Image) (s : State)  (hplan : K.plan = false) (harm : K.arm = false) (hI : Inv K ρ s) : Inv K ρ (deal b s) := by
  unfold deal
  repeat' first
    | with_reducible assumption
    | with_reducible apply fabricFall_inv
    | with_reducible apply lockFields_inv
    | with_reducible apply returnStock_inv
    | with_reducible apply dealGens_inv
    | with_reducible apply spoilPc_inv
    | with_reducible apply dealClocks_inv
    | with_reducible apply newcomers_inv
    | with_reducible apply markStale_inv
    | with_reducible apply dealReports_inv
    | with_reducible apply dealTrust_inv
    | with_reducible refine Inv.foldl _ (fun _ _ _ => ?_) ?_
    | with_reducible refine Inv.foldl2 _ (fun _ _ _ => ?_) ?_
    | with_reducible apply hK
    | with_reducible intro _
    | split
    | fail_if_no_progress (with_reducible (refine Inv.put rfl rfl rfl rfl rfl rfl rfl rfl rfl rfl rfl rfl rfl rfl rfl rfl ⟨rfl, rfl, rfl, rfl, rfl⟩ rfl rfl rfl rfl ?_))
    | fail_if_no_progress (with_reducible (refine Inv.upd rfl rfl rfl rfl rfl rfl rfl rfl rfl rfl rfl rfl rfl rfl rfl rfl rfl rfl (fun _ => rfl) (fun k => Groups.no hplan k) (fun _ => ⟨rfl, rfl, rfl⟩) (fun _ => rfl) (fun k => Groups.no harm k) ?_))

theorem armedDeal_inv {K : Goals} {ρ : State} (s : State)  (hplan : K.plan = false) (harm : K.arm = false) (hI : Inv K ρ s) : Inv K ρ (armedDeal s) := by
  unfold armedDeal
  repeat' first
    | with_reducible assumption
    | with_reducible apply deal_inv
    | with_reducible apply putVerdict_inv
    | with_reducible refine Inv.foldl _ (fun _ _ _ => ?_) ?_
    | with_reducible refine Inv.foldl2 _ (fun _ _ _ => ?_) ?_
    | with_reducible apply hK
    | with_reducible intro _
    | split
    | fail_if_no_progress (with_reducible (refine Inv.put rfl rfl rfl rfl rfl rfl rfl rfl rfl rfl rfl rfl rfl rfl rfl rfl ⟨rfl, rfl, rfl, rfl, rfl⟩ rfl rfl rfl rfl ?_))
    | fail_if_no_progress (with_reducible (refine Inv.upd rfl rfl rfl rfl rfl rfl rfl rfl rfl rfl rfl rfl rfl rfl rfl rfl rfl rfl (fun _ => rfl) (fun _ => ⟨rfl, rfl, rfl⟩) (fun _ => ⟨rfl, rfl, rfl⟩) (fun _ => rfl) (fun k => Groups.no harm k) ?_))
    | dsimp only

theorem takeReports_inv {K : Goals} {ρ : State} (h : HealthIn) (s : State)  (hI : Inv K ρ s) : Inv K ρ (takeReports h s) := by
  unfold takeReports
  repeat' first
    | with_reducible assumption
    | with_reducible refine Inv.foldl _ (fun _ _ _ => ?_) ?_
    | with_reducible refine Inv.foldl2 _ (fun _ _ _ => ?_) ?_
    | with_reducible apply hK
    | with_reducible intro _
    | split
    | fail_if_no_progress (with_reducible (refine Inv.put rfl rfl rfl rfl rfl rfl rfl rfl rfl rfl rfl rfl rfl rfl rfl rfl ⟨rfl, rfl, rfl, rfl, rfl⟩ rfl rfl rfl rfl ?_))

theorem raiseRail_inv {K : Goals} {ρ : State} (h : HealthIn) (s : State) (hI : Inv K ρ s) : Inv K ρ (raiseRail h s) := by
  unfold raiseRail
  split
  · rename_i hc
    simp only [Bool.and_eq_true, decide_eq_true_eq] at hc
    refine hI.setHm fun l => ?_
    obtain ⟨l1, l2, l3⟩ := l.rail
    dsimp only [view] at l1 l2 l3
    refine ⟨⟨by dsimp only; omega, by dsimp only; omega, fun hr => ?_⟩, l.target, l.present, l.slack, l.reserve⟩
    have := l3 hr
    dsimp only
    omega
  · exact hI

theorem raiseAllow_inv {K : Goals} {ρ : State} (s : State)  (hI : Inv K ρ s) : Inv K ρ (raiseAllow s) := by
  unfold raiseAllow
  repeat' first
    | with_reducible assumption
    | with_reducible refine Inv.foldl _ (fun _ _ _ => ?_) ?_
    | with_reducible refine Inv.foldl2 _ (fun _ _ _ => ?_) ?_
    | with_reducible apply hK
    | with_reducible intro _
    | split
    | fail_if_no_progress (with_reducible (refine Inv.put rfl rfl rfl rfl rfl rfl rfl rfl rfl rfl rfl rfl rfl rfl rfl rfl ⟨rfl, rfl, rfl, rfl, rfl⟩ rfl rfl rfl rfl ?_))
    | dsimp only

theorem frameHealth_inv {K : Goals} {ρ : State} (h : HealthIn) (s : State)  (hI : Inv K ρ s) : Inv K ρ (frameHealth h s) := by
  unfold frameHealth
  repeat' first
    | with_reducible assumption
    | with_reducible apply raiseRail_inv
    | with_reducible apply raiseAllow_inv
    | with_reducible apply takeReports_inv
    | with_reducible refine Inv.foldl _ (fun _ _ _ => ?_) ?_
    | with_reducible refine Inv.foldl2 _ (fun _ _ _ => ?_) ?_
    | with_reducible apply hK
    | with_reducible intro _
    | split
    | fail_if_no_progress (with_reducible (refine Inv.put rfl rfl rfl rfl rfl rfl rfl rfl rfl rfl rfl rfl rfl rfl rfl rfl ⟨rfl, rfl, rfl, rfl, rfl⟩ rfl rfl rfl rfl ?_))

theorem stampTrick_inv {K : Goals} {ρ : State} (p : Nat) (s : State)  (hI : Inv K ρ s) : Inv K ρ (stampTrick p s) := by
  unfold stampTrick
  repeat' first
    | with_reducible assumption
    | with_reducible refine fresh_invE (by assumption) ?_
    | with_reducible apply fresh_inv
    | with_reducible apply modPort_inv

theorem releaseTrick_inv {K : Goals} {ρ : State} (s : State)  (hI : Inv K ρ s) : Inv K ρ (releaseTrick s) := by
  unfold releaseTrick
  repeat' first
    | with_reducible assumption
    | with_reducible apply stampTrick_inv
    | with_reducible apply emit_inv
    | with_reducible refine Inv.foldl _ (fun _ _ _ => ?_) ?_
    | with_reducible refine Inv.foldl2 _ (fun _ _ _ => ?_) ?_
    | with_reducible apply hK
    | with_reducible intro _
    | split
    | fail_if_no_progress (with_reducible (refine Inv.put rfl rfl rfl rfl rfl rfl rfl rfl rfl rfl rfl rfl rfl rfl rfl rfl ⟨rfl, rfl, rfl, rfl, rfl⟩ rfl rfl rfl rfl ?_))

theorem firstTick_inv {K : Goals} {ρ : State} (s : State) (hboot : K.boot = false) (hlife : K.life = false) (hI : Inv K ρ s) : Inv K ρ (firstTick s) := by
  unfold firstTick
  refine Inv.foldl _ (fun _ _ _ => ?_) ?_
  · repeat' first
      | with_reducible assumption
      | with_reducible apply releaseErr_inv
      | with_reducible refine Inv.foldl _ (fun _ _ _ => ?_) ?_
      | with_reducible refine Inv.foldl2 _ (fun _ _ _ => ?_) ?_
      | with_reducible apply hK
      | with_reducible intro _
      | split
      | fail_if_no_progress (with_reducible (refine Inv.put rfl rfl rfl rfl rfl rfl rfl rfl rfl rfl rfl rfl rfl rfl rfl rfl ⟨rfl, rfl, rfl, rfl, rfl⟩ rfl rfl rfl rfl ?_))
  · refine releaseErr_inv _ ?_
    refine hI.step (fun l => { l with floor := ?_ }) fun k => { k with boot := Groups.no hboot, life := Groups.no hlife }
    cases s.tc.commitSvn with
    | none => exact l.floor
    | some v => exact or_keeps _ l.floor

theorem emptyClock_inv {K : Goals} {ρ : State} (s : State) (hI : Inv K ρ s) : Inv K ρ (emptyClock s) := by
  unfold emptyClock
  split
  · exact hI
  · exact hI.setHm fun l => ⟨l.rail, l.target, l.target, l.slack, l.reserve⟩

theorem publishMargin_inv {K : Goals} {ρ : State} (dealt : Bool) (s : State)  (hI : Inv K ρ s) : Inv K ρ (publishMargin dealt s) := by
  unfold publishMargin
  repeat' first
    | with_reducible assumption
    | with_reducible refine Inv.foldl _ (fun _ _ _ => ?_) ?_
    | with_reducible refine Inv.foldl2 _ (fun _ _ _ => ?_) ?_
    | with_reducible apply hK
    | with_reducible intro _
    | split
    | fail_if_no_progress (with_reducible (refine Inv.put rfl rfl rfl rfl rfl rfl rfl rfl rfl rfl rfl rfl rfl rfl rfl rfl ⟨rfl, rfl, rfl, rfl, rfl⟩ rfl rfl rfl rfl ?_))

theorem marginLow_inv {K : Goals} {ρ : State} (dealt overdraw : Bool) (s : State)  (hI : Inv K ρ s) : Inv K ρ (marginLow dealt overdraw s) := by
  unfold marginLow
  repeat' first
    | with_reducible assumption
    | with_reducible apply event_inv
    | with_reducible apply msix_inv
    | with_reducible refine Inv.foldl _ (fun _ _ _ => ?_) ?_
    | with_reducible refine Inv.foldl2 _ (fun _ _ _ => ?_) ?_
    | with_reducible apply hK
    | with_reducible intro _
    | split
    | fail_if_no_progress (with_reducible (refine Inv.put rfl rfl rfl rfl rfl rfl rfl rfl rfl rfl rfl rfl rfl rfl rfl rfl ⟨rfl, rfl, rfl, rfl, rfl⟩ rfl rfl rfl rfl ?_))
    | dsimp only

theorem thresholdWritten_inv {K : Goals} {ρ : State} (old s : State)  (hI : Inv K ρ s) : Inv K ρ (thresholdWritten old s) := by
  unfold thresholdWritten
  repeat' first
    | with_reducible assumption
    | with_reducible apply marginLow_inv

theorem joinBatches_inv {K : Goals} {ρ : State} (s : State)  (hI : Inv K ρ s) : Inv K ρ (joinBatches s) := by
  unfold joinBatches
  repeat' first
    | with_reducible assumption
    | with_reducible refine Inv.foldl _ (fun _ _ _ => ?_) ?_
    | with_reducible refine Inv.foldl2 _ (fun _ _ _ => ?_) ?_
    | with_reducible apply hK
    | with_reducible intro _
    | split
    | fail_if_no_progress (with_reducible (refine Inv.put rfl rfl rfl rfl rfl rfl rfl rfl rfl rfl rfl rfl rfl rfl rfl rfl ⟨rfl, rfl, rfl, rfl, rfl⟩ rfl rfl rfl rfl ?_))

theorem replenish_inv {K : Goals} {ρ : State} (s : State)  (hI : Inv K ρ s) : Inv K ρ (replenish s) := by
  unfold replenish
  repeat' first
    | with_reducible assumption
    | with_reducible refine Inv.foldl _ (fun _ _ _ => ?_) ?_
    | with_reducible refine Inv.foldl2 _ (fun _ _ _ => ?_) ?_
    | with_reducible apply hK
    | with_reducible intro _
    | split
    | fail_if_no_progress (with_reducible (refine Inv.put rfl rfl rfl rfl rfl rfl rfl rfl rfl rfl rfl rfl rfl rfl rfl rfl ⟨rfl, rfl, rfl, rfl, rfl⟩ rfl rfl rfl rfl ?_))

theorem applyMasks_inv {K : Goals} {ρ : State} (s : State)  (hI : Inv K ρ s) : Inv K ρ (applyMasks s) := by
  unfold applyMasks
  repeat' first
    | with_reducible assumption
    | with_reducible refine Inv.foldl _ (fun _ _ _ => ?_) ?_
    | with_reducible refine Inv.foldl2 _ (fun _ _ _ => ?_) ?_
    | with_reducible apply hK
    | with_reducible intro _
    | split
    | fail_if_no_progress (with_reducible (refine Inv.put rfl rfl rfl rfl rfl rfl rfl rfl rfl rfl rfl rfl rfl rfl rfl rfl ⟨rfl, rfl, rfl, rfl, rfl⟩ rfl rfl rfl rfl ?_))

theorem swapExports_inv {K : Goals} {ρ : State} (s : State)  (hI : Inv K ρ s) : Inv K ρ (swapExports s) := by
  unfold swapExports
  repeat' first
    | with_reducible assumption
    | with_reducible apply dropRefs_inv
    | with_reducible refine Inv.foldl _ (fun _ _ _ => ?_) ?_
    | with_reducible refine Inv.foldl2 _ (fun _ _ _ => ?_) ?_
    | with_reducible apply hK
    | with_reducible intro _
    | split
    | fail_if_no_progress (with_reducible (refine Inv.put rfl rfl rfl rfl rfl rfl rfl rfl rfl rfl rfl rfl rfl rfl rfl rfl ⟨rfl, rfl, rfl, rfl, rfl⟩ rfl rfl rfl rfl ?_))

theorem sendChip_inv {K : Goals} {ρ : State} (c version : Nat) (m : FoaMsg) (s : State)  (hI : Inv K ρ s) : Inv K ρ (sendChip c version m s) := by
  unfold sendChip
  repeat' first
    | with_reducible assumption
    | with_reducible apply foaSend_inv
    | with_reducible refine Inv.foldl _ (fun _ _ _ => ?_) ?_
    | with_reducible refine Inv.foldl2 _ (fun _ _ _ => ?_) ?_
    | with_reducible apply hK
    | with_reducible intro _
    | split

theorem beat_inv {K : Goals} {ρ : State} (s : State)  (hI : Inv K ρ s) : Inv K ρ (beat s) := by
  unfold beat
  repeat' first
    | with_reducible assumption
    | with_reducible apply sendChip_inv
    | with_reducible refine Inv.foldl _ (fun _ _ _ => ?_) ?_
    | with_reducible refine Inv.foldl2 _ (fun _ _ _ => ?_) ?_
    | with_reducible apply hK
    | with_reducible intro _
    | split

theorem updatePages_inv {K : Goals} {ρ : State} (s : State)  (hI : Inv K ρ s) : Inv K ρ (updatePages s) := by
  unfold updatePages
  repeat' first
    | with_reducible assumption
    | with_reducible refine Inv.foldl _ (fun _ _ _ => ?_) ?_
    | with_reducible refine Inv.foldl2 _ (fun _ _ _ => ?_) ?_
    | with_reducible apply hK
    | with_reducible intro _
    | split
    | fail_if_no_progress (with_reducible (refine Inv.put rfl rfl rfl rfl rfl rfl rfl rfl rfl rfl rfl rfl rfl rfl rfl rfl ⟨rfl, rfl, rfl, rfl, rfl⟩ rfl rfl rfl rfl ?_))

theorem nextFrame_inv {K : Goals} {ρ : State} (s : State) (htb : K.tb = false) (hI : Inv K ρ s) : Inv K ρ (nextFrame s) := by
  unfold nextFrame
  have h := hI.setTb (t := { s.tb with now := nextTick s.tb, tick := (s.tb.tick + 1) % 2 ^ 48, slot := 0 }) htb fun l =>
    ⟨Nat.zero_lt_succ _, l.period, l.rail.2.2⟩
  exact Inv.put (t := { s with tb := { s.tb with now := nextTick s.tb, tick := (s.tb.tick + 1) % 2 ^ 48, slot := 0 } }) rfl rfl rfl rfl rfl rfl rfl rfl rfl rfl rfl rfl rfl rfl rfl rfl ⟨rfl, rfl, rfl, rfl, rfl⟩ rfl rfl rfl rfl h

theorem planTick_inv {K : Goals} {ρ : State} (overdraw : Bool) (s : State)  (hplan : K.plan = false) (harm : K.arm = false) (hI : Inv K ρ s) : Inv K ρ (planTick overdraw s) := by
  unfold planTick
  repeat' first
    | with_reducible assumption
    | with_reducible apply emptyClock_inv
    | with_reducible apply armedDeal_inv
    | with_reducible apply marginLow_inv
    | with_reducible apply publishMargin_inv

theorem tickSt_inv {K : Goals} {ρ : State} (h : HealthIn) (s : State)  (htb : K.tb = false) (hplan : K.plan = false) (hboot : K.boot = false) (hlife : K.life = false) (harm : K.arm = false) (hI : Inv K ρ s) : Inv K ρ (tickSt h s) := by
  unfold tickSt
  repeat' first
    | with_reducible assumption
    | with_reducible apply countCorrected_inv
    | with_reducible apply frameHealth_inv
    | with_reducible apply endSlot_inv
    | with_reducible apply releaseTrick_inv
    | with_reducible apply nextFrame_inv
    | with_reducible apply firstTick_inv
    | with_reducible apply joinBatches_inv
    | with_reducible apply planTick_inv
    | with_reducible apply updatePages_inv
    | with_reducible apply beat_inv
    | with_reducible apply swapExports_inv
    | with_reducible apply applyMasks_inv
    | with_reducible apply replenish_inv
    | with_reducible apply startSlot_inv
    | with_reducible apply askChipReset_inv
    | with_reducible refine Inv.foldl _ (fun _ _ _ => ?_) ?_
    | with_reducible refine Inv.foldl2 _ (fun _ _ _ => ?_) ?_
    | with_reducible apply hK
    | with_reducible intro _
    | split
    | fail_if_no_progress (with_reducible (refine Inv.put rfl rfl rfl rfl rfl rfl rfl rfl rfl rfl rfl rfl rfl rfl rfl rfl ⟨rfl, rfl, rfl, rfl, rfl⟩ rfl rfl rfl rfl ?_))
    | dsimp only

theorem startWaiting_inv {K : Goals} {ρ : State} (s : State)  (hI : Inv K ρ s) : Inv K ρ (startWaiting s) := by
  unfold startWaiting
  repeat' first
    | with_reducible assumption
    | with_reducible apply fillBe_inv
    | with_reducible apply startDue_inv
    | with_reducible refine Inv.foldl _ (fun _ _ _ => ?_) ?_
    | with_reducible refine Inv.foldl2 _ (fun _ _ _ => ?_) ?_
    | with_reducible apply hK
    | with_reducible intro _
    | split

theorem riseSt_inv {K : Goals} {ρ : State} (s : State)  (hI : Inv K ρ s) : Inv K ρ (riseSt s) := by
  unfold riseSt
  repeat' first
    | with_reducible assumption
    | with_reducible apply fabricRise_inv
    | with_reducible apply startWaiting_inv
    | with_reducible refine Inv.foldl _ (fun _ _ _ => ?_) ?_
    | with_reducible refine Inv.foldl2 _ (fun _ _ _ => ?_) ?_
    | with_reducible apply hK
    | with_reducible intro _
    | split
    | fail_if_no_progress (with_reducible (refine Inv.put rfl rfl rfl rfl rfl rfl rfl rfl rfl rfl rfl rfl rfl rfl rfl rfl ⟨rfl, rfl, rfl, rfl, rfl⟩ rfl rfl rfl rfl ?_))
    | dsimp only

theorem scrubEndSt_inv {K : Goals} {ρ : State} (p : Nat) (s : State)  (hI : Inv K ρ s) : Inv K ρ (scrubEndSt p s) := by
  unfold scrubEndSt
  repeat' first
    | with_reducible assumption
    | with_reducible apply clearPc_inv
    | with_reducible refine Inv.foldl _ (fun _ _ _ => ?_) ?_
    | with_reducible refine Inv.foldl2 _ (fun _ _ _ => ?_) ?_
    | with_reducible apply hK
    | with_reducible intro _
    | split
    | fail_if_no_progress (with_reducible (refine Inv.put rfl rfl rfl rfl rfl rfl rfl rfl rfl rfl rfl rfl rfl rfl rfl rfl ⟨rfl, rfl, rfl, rfl, rfl⟩ rfl rfl rfl rfl ?_))

theorem waySweepSt_inv {K : Goals} {ρ : State} (slice way : Nat) (s : State)  (hI : Inv K ρ s) : Inv K ρ (waySweepSt slice way s) := by
  unfold waySweepSt
  repeat' first
    | with_reducible assumption
    | with_reducible refine Inv.foldl _ (fun _ _ _ => ?_) ?_
    | with_reducible refine Inv.foldl2 _ (fun _ _ _ => ?_) ?_
    | with_reducible apply hK
    | with_reducible intro _
    | split
    | fail_if_no_progress (with_reducible (refine Inv.put rfl rfl rfl rfl rfl rfl rfl rfl rfl rfl rfl rfl rfl rfl rfl rfl ⟨rfl, rfl, rfl, rfl, rfl⟩ rfl rfl rfl rfl ?_))

theorem endFlush_inv {K : Goals} {ρ : State} (s : State) (k : Nat)  (hI : Inv K ρ s) : Inv K ρ (endFlush s k) := by
  unfold endFlush
  repeat' first
    | with_reducible assumption
    | with_reducible apply dropLine_inv
    | with_reducible apply endCmd_inv
    | with_reducible apply setKey_inv
    | with_reducible refine Inv.foldl _ (fun _ _ _ => ?_) ?_
    | with_reducible refine Inv.foldl2 _ (fun _ _ _ => ?_) ?_
    | with_reducible apply hK
    | with_reducible intro _
    | split
    | fail_if_no_progress (with_reducible (refine Inv.put rfl rfl rfl rfl rfl rfl rfl rfl rfl rfl rfl rfl rfl rfl rfl rfl ⟨rfl, rfl, rfl, rfl, rfl⟩ rfl rfl rfl rfl ?_))

theorem fillLine_inv {K : Goals} {ρ : State} (k : Nat) (bad : Bool) (s : State)  (hI : Inv K ρ s) : Inv K ρ (fillLine k bad s) := by
  unfold fillLine
  repeat' first
    | with_reducible assumption
    | with_reducible apply setLlc_inv

theorem install_inv {K : Goals} {ρ : State} (n way : Nat) (bad : Bool) (s : State) (k : Nat) (hI : Inv K ρ s) : Inv K ρ (install n way bad s k) := by
  unfold install
  extract_lets l claimed
  split
  · exact hI
  · split
    · exact hI
    · exact fillLine_inv _ _ _ (place_inv _ _ _ _ hI)

theorem finishFetch_inv {K : Goals} {ρ : State} (k : Nat) (bad : Bool) (s : State)  (hI : Inv K ρ s) : Inv K ρ (finishFetch k bad s) := by
  unfold finishFetch
  repeat' first
    | with_reducible assumption
    | with_reducible apply drainAll_inv
    | with_reducible apply begin__inv
    | with_reducible apply setLlc_inv
    | with_reducible apply finishItem_inv
    | with_reducible refine Inv.foldl _ (fun _ _ _ => ?_) ?_
    | with_reducible refine Inv.foldl2 _ (fun _ _ _ => ?_) ?_
    | with_reducible apply hK
    | with_reducible intro _
    | split
    | fail_if_no_progress (with_reducible (refine Inv.put rfl rfl rfl rfl rfl rfl rfl rfl rfl rfl rfl rfl rfl rfl rfl rfl ⟨rfl, rfl, rfl, rfl, rfl⟩ rfl rfl rfl rfl ?_))
    | dsimp only

theorem poisonLines_inv {K : Goals} {ρ : State} (p first count : Nat) (s : State)  (hI : Inv K ρ s) : Inv K ρ (poisonLines p first count s) := by
  unfold poisonLines
  repeat' first
    | with_reducible assumption
    | with_reducible apply putLine_inv
    | with_reducible apply setBlock_inv
    | with_reducible refine Inv.foldl _ (fun _ _ _ => ?_) ?_

theorem deliver_inv {K : Goals} {ρ : State} (pc block : Nat) (step : Option Nat) (bad : Bool) (dpa way : Nat) (s : State)  (hI : Inv K ρ s) : Inv K ρ (deliver pc block step bad dpa way s) := by
  unfold deliver
  repeat' first
    | with_reducible assumption
    | with_reducible apply modStep_inv
    | with_reducible apply finishFetch_inv
    | with_reducible apply install_inv
    | with_reducible refine Inv.foldl _ (fun _ _ _ => ?_) ?_
    | with_reducible refine Inv.foldl2 _ (fun _ _ _ => ?_) ?_
    | with_reducible apply hK
    | with_reducible intro _
    | split
    | fail_if_no_progress (with_reducible (refine Inv.put rfl rfl rfl rfl rfl rfl rfl rfl rfl rfl rfl rfl rfl rfl rfl rfl ⟨rfl, rfl, rfl, rfl, rfl⟩ rfl rfl rfl rfl ?_))

theorem poisonOwn_inv {K : Goals} {ρ : State} (pc block : Nat) (s : State)  (hI : Inv K ρ s) : Inv K ρ (poisonOwn pc block s) := by
  unfold poisonOwn
  repeat' first
    | with_reducible assumption
    | with_reducible apply poisonLines_inv
    | with_reducible refine Inv.foldl _ (fun _ _ _ => ?_) ?_
    | with_reducible refine Inv.foldl2 _ (fun _ _ _ => ?_) ?_
    | with_reducible apply hK
    | with_reducible intro _
    | split
    | fail_if_no_progress (with_reducible (refine Inv.put rfl rfl rfl rfl rfl rfl rfl rfl rfl rfl rfl rfl rfl rfl rfl rfl ⟨rfl, rfl, rfl, rfl, rfl⟩ rfl rfl rfl rfl ?_))

theorem blockParity_inv {K : Goals} {ρ : State} (pc block : Nat) (step : Option Nat) (errs : Nat) (s : State)  (hI : Inv K ρ s) : Inv K ρ (blockParity pc block step errs s).2.2 := by
  unfold blockParity
  repeat' first
    | with_reducible assumption
    | with_reducible refine transfer_invE (by assumption) ?_
    | with_reducible apply transfer_inv
    | with_reducible refine stepParity_invE (by assumption) ?_
    | with_reducible apply stepParity_inv
    | with_reducible refine Inv.foldl _ (fun _ _ _ => ?_) ?_
    | with_reducible refine Inv.foldl2 _ (fun _ _ _ => ?_) ?_
    | with_reducible apply hK
    | with_reducible intro _
    | split

theorem blockParity_invE {K : Goals} {ρ : State} {pc block : Nat} {step : Option Nat} {errs : Nat} {s : State} {xa xb xu} (hE : blockParity pc block step errs s = (xa, xb, xu))  (hI : Inv K ρ s) : Inv K ρ xu := by
  have h := blockParity_inv pc block step errs s  hI
  rw [hE] at h
  exact h

theorem dataReturnSt_inv {K : Goals} {ρ : State} (pc block : Nat) (step : Option Nat) (unc : BitVec 4) (way parity : Nat) (s : State)  (hI : Inv K ρ s) : Inv K ρ (dataReturnSt pc block step unc way parity s) := by
  unfold dataReturnSt
  repeat' first
    | with_reducible assumption
    | with_reducible refine blockParity_invE (by assumption) ?_
    | with_reducible apply blockParity_inv
    | with_reducible refine injected_invE (by assumption) ?_
    | with_reducible apply injected_inv
    | with_reducible apply report_inv
    | with_reducible apply poisonOwn_inv
    | with_reducible apply deliver_inv
    | with_reducible refine Inv.foldl _ (fun _ _ _ => ?_) ?_
    | with_reducible refine Inv.foldl2 _ (fun _ _ _ => ?_) ?_
    | with_reducible apply hK
    | with_reducible intro _
    | split
    | fail_if_no_progress (with_reducible (refine Inv.put rfl rfl rfl rfl rfl rfl rfl rfl rfl rfl rfl rfl rfl rfl rfl rfl ⟨rfl, rfl, rfl, rfl, rfl⟩ rfl rfl rfl rfl ?_))
    | dsimp only

theorem poisonRead_inv {K : Goals} {ρ : State} (pc block dpa : Nat) (s : State)  (hI : Inv K ρ s) : Inv K ρ (poisonRead pc block dpa s) := by
  unfold poisonRead
  repeat' first
    | with_reducible assumption
    | with_reducible apply setLlc_inv
    | with_reducible refine Inv.foldl _ (fun _ _ _ => ?_) ?_
    | with_reducible refine Inv.foldl2 _ (fun _ _ _ => ?_) ?_
    | with_reducible apply hK
    | with_reducible intro _
    | split
    | fail_if_no_progress (with_reducible (refine Inv.put rfl rfl rfl rfl rfl rfl rfl rfl rfl rfl rfl rfl rfl rfl rfl rfl ⟨rfl, rfl, rfl, rfl, rfl⟩ rfl rfl rfl rfl ?_))
    | dsimp only

theorem endDebug_inv {K : Goals} {ρ : State} (bad : Bool) (s : State) (d : DebugRead)  (hI : Inv K ρ s) : Inv K ρ (endDebug bad s d) := by
  unfold endDebug
  repeat' first
    | with_reducible assumption
    | with_reducible apply emit_inv

theorem endReads_inv {K : Goals} {ρ : State} (pc block : Nat) (s : State)  (hI : Inv K ρ s) : Inv K ρ (endReads pc block s) := by
  unfold endReads
  repeat' first
    | with_reducible assumption
    | with_reducible apply endDebug_inv
    | with_reducible apply finishFetch_inv
    | with_reducible refine Inv.foldl _ (fun _ _ _ => ?_) ?_
    | with_reducible refine Inv.foldl2 _ (fun _ _ _ => ?_) ?_
    | with_reducible apply hK
    | with_reducible intro _
    | split
    | fail_if_no_progress (with_reducible (refine Inv.put rfl rfl rfl rfl rfl rfl rfl rfl rfl rfl rfl rfl rfl rfl rfl rfl ⟨rfl, rfl, rfl, rfl, rfl⟩ rfl rfl rfl rfl ?_))
    | dsimp only

theorem memoryHalt_inv {K : Goals} {ρ : State} (m : FMsg) (s : State)  (hI : Inv K ρ s) : Inv K ρ (memoryHalt m s) := by
  unfold memoryHalt
  repeat' first
    | with_reducible assumption
    | with_reducible apply haltDevice_inv
    | with_reducible apply report_inv
    | with_reducible refine Inv.foldl _ (fun _ _ _ => ?_) ?_
    | with_reducible refine Inv.foldl2 _ (fun _ _ _ => ?_) ?_
    | with_reducible apply hK
    | with_reducible intro _
    | split
    | fail_if_no_progress (with_reducible (refine Inv.put rfl rfl rfl rfl rfl rfl rfl rfl rfl rfl rfl rfl rfl rfl rfl rfl ⟨rfl, rfl, rfl, rfl, rfl⟩ rfl rfl rfl rfl ?_))

theorem loseTree_inv {K : Goals} {ρ : State} (pc g level : Nat) (s : State)  (hI : Inv K ρ s) : Inv K ρ (loseTree pc g level s) := by
  unfold loseTree
  repeat' first
    | with_reducible assumption
    | with_reducible apply report_inv
    | with_reducible apply startRekey_inv
    | with_reducible refine Inv.foldl _ (fun _ _ _ => ?_) ?_
    | with_reducible refine Inv.foldl2 _ (fun _ _ _ => ?_) ?_
    | with_reducible apply hK
    | with_reducible intro _
    | split
    | fail_if_no_progress (with_reducible (refine Inv.put rfl rfl rfl rfl rfl rfl rfl rfl rfl rfl rfl rfl rfl rfl rfl rfl ⟨rfl, rfl, rfl, rfl, rfl⟩ rfl rfl rfl rfl ?_))

theorem judge_inv {K : Goals} {ρ : State} (pc block : Nat) (r : VerifyResult) (s : State)  (hI : Inv K ρ s) : Inv K ρ (judge pc block r s).2 := by
  unfold judge
  repeat' first
    | with_reducible assumption
    | with_reducible apply fillPath_inv
    | with_reducible apply memoryHalt_inv
    | with_reducible apply loseTree_inv
    | with_reducible apply repairNode_inv
    | with_reducible apply report_inv
    | with_reducible apply poisonLines_inv
    | with_reducible refine Inv.foldl _ (fun _ _ _ => ?_) ?_
    | with_reducible refine Inv.foldl2 _ (fun _ _ _ => ?_) ?_
    | with_reducible apply hK
    | with_reducible intro _
    | split
    | fail_if_no_progress (with_reducible (refine Inv.put rfl rfl rfl rfl rfl rfl rfl rfl rfl rfl rfl rfl rfl rfl rfl rfl ⟨rfl, rfl, rfl, rfl, rfl⟩ rfl rfl rfl rfl ?_))

theorem judge_invE {K : Goals} {ρ : State} {pc block : Nat} {r : VerifyResult} {s : State} {xa xu} (hE : judge pc block r s = (xa, xu))  (hI : Inv K ρ s) : Inv K ρ xu := by
  have h := judge_inv pc block r s  hI
  rw [hE] at h
  exact h

theorem injectedCheck_inv {K : Goals} {ρ : State} (pc block : Nat) (s : State)  (hI : Inv K ρ s) : Inv K ρ (injectedCheck pc block s).2 := by
  unfold injectedCheck
  repeat' first
    | with_reducible assumption
    | with_reducible refine injected_invE (by assumption) ?_
    | with_reducible apply injected_inv
    | with_reducible apply report_inv
    | with_reducible refine Inv.foldl _ (fun _ _ _ => ?_) ?_
    | with_reducible refine Inv.foldl2 _ (fun _ _ _ => ?_) ?_
    | with_reducible apply hK
    | with_reducible intro _
    | split
    | fail_if_no_progress (with_reducible (refine Inv.put rfl rfl rfl rfl rfl rfl rfl rfl rfl rfl rfl rfl rfl rfl rfl rfl ⟨rfl, rfl, rfl, rfl, rfl⟩ rfl rfl rfl rfl ?_))
    | dsimp only

theorem injectedCheck_invE {K : Goals} {ρ : State} {pc block : Nat} {s : State} {xa xu} (hE : injectedCheck pc block s = (xa, xu))  (hI : Inv K ρ s) : Inv K ρ xu := by
  have h := injectedCheck_inv pc block s  hI
  rw [hE] at h
  exact h

theorem verifySt_inv {K : Goals} {ρ : State} (pc block : Nat) (result : VerifyResult) (s : State)  (hI : Inv K ρ s) : Inv K ρ (verifySt pc block result s) := by
  unfold verifySt
  repeat' first
    | with_reducible assumption
    | with_reducible apply endReads_inv
    | with_reducible refine injectedCheck_invE (by assumption) ?_
    | with_reducible apply injectedCheck_inv
    | with_reducible apply poisonRead_inv
    | with_reducible refine judge_invE (by assumption) ?_
    | with_reducible apply judge_inv
    | with_reducible refine Inv.foldl _ (fun _ _ _ => ?_) ?_
    | with_reducible refine Inv.foldl2 _ (fun _ _ _ => ?_) ?_
    | with_reducible apply hK
    | with_reducible intro _
    | split
    | fail_if_no_progress (with_reducible (refine Inv.put rfl rfl rfl rfl rfl rfl rfl rfl rfl rfl rfl rfl rfl rfl rfl rfl ⟨rfl, rfl, rfl, rfl, rfl⟩ rfl rfl rfl rfl ?_))
    | dsimp only

theorem visitBlock_inv {K : Goals} {ρ : State} (pc : Nat) (lost : List Nat) (s : State) (block : Nat)  (hI : Inv K ρ s) : Inv K ρ (visitBlock pc lost s block) := by
  unfold visitBlock
  repeat' first
    | with_reducible assumption
    | with_reducible refine injected_invE (by assumption) ?_
    | with_reducible apply injected_inv
    | with_reducible apply report_inv
    | with_reducible apply poisonLines_inv
    | with_reducible refine Inv.foldl _ (fun _ _ _ => ?_) ?_
    | with_reducible refine Inv.foldl2 _ (fun _ _ _ => ?_) ?_
    | with_reducible apply hK
    | with_reducible intro _
    | split
    | fail_if_no_progress (with_reducible (refine Inv.put rfl rfl rfl rfl rfl rfl rfl rfl rfl rfl rfl rfl rfl rfl rfl rfl ⟨rfl, rfl, rfl, rfl, rfl⟩ rfl rfl rfl rfl ?_))
    | dsimp only

theorem checkVisit_inv {K : Goals} {ρ : State} (pc g : Nat) (lost : List Nat) (at_ : Nat) (result : VerifyResult) (s : State)  (hI : Inv K ρ s) : Inv K ρ (checkVisit pc g lost at_ result s).2 := by
  unfold checkVisit
  repeat' first
    | with_reducible assumption
    | with_reducible apply visitBlock_inv
    | with_reducible refine judge_invE (by assumption) ?_
    | with_reducible apply judge_inv
    | with_reducible apply fillPath_inv
    | with_reducible refine Inv.foldl _ (fun _ _ _ => ?_) ?_
    | with_reducible refine Inv.foldl2 _ (fun _ _ _ => ?_) ?_
    | with_reducible apply hK
    | with_reducible intro _
    | split
    | fail_if_no_progress (with_reducible (refine Inv.put rfl rfl rfl rfl rfl rfl rfl rfl rfl rfl rfl rfl rfl rfl rfl rfl ⟨rfl, rfl, rfl, rfl, rfl⟩ rfl rfl rfl rfl ?_))
    | dsimp only

theorem checkVisit_invE {K : Goals} {ρ : State} {pc g : Nat} {lost : List Nat} {at_ : Nat} {result : VerifyResult} {s : State} {xa xu} (hE : checkVisit pc g lost at_ result s = (xa, xu))  (hI : Inv K ρ s) : Inv K ρ xu := by
  have h := checkVisit_inv pc g lost at_ result s  hI
  rw [hE] at h
  exact h

theorem visitRetire_inv {K : Goals} {ρ : State} (p g key : Nat) (s : State)  (hI : Inv K ρ s) : Inv K ρ (visitRetire p g key s) := by
  unfold visitRetire
  repeat' first
    | with_reducible assumption
    | with_reducible apply writeMem_inv
    | with_reducible apply setBlock_inv
    | with_reducible refine Inv.foldl _ (fun _ _ _ => ?_) ?_
    | with_reducible refine Inv.foldl2 _ (fun _ _ _ => ?_) ?_
    | with_reducible apply hK
    | with_reducible intro _
    | split
    | fail_if_no_progress (with_reducible (refine Inv.put rfl rfl rfl rfl rfl rfl rfl rfl rfl rfl rfl rfl rfl rfl rfl rfl ⟨rfl, rfl, rfl, rfl, rfl⟩ rfl rfl rfl rfl ?_))
    | dsimp only

theorem stepBoundary_inv {K : Goals} {ρ : State} (p : Nat) (s : State)  (hI : Inv K ρ s) : Inv K ρ (stepBoundary p s) := by
  unfold stepBoundary
  repeat' first
    | with_reducible assumption
    | with_reducible apply modPc_inv

theorem skipDone_inv {K : Goals} {ρ : State} (p n : Nat) (s : State) (hI : Inv K ρ s) : Inv K ρ (skipDone p n s) := by
  induction n generalizing s with
  | zero => exact hI
  | succ n ih =>
    unfold skipDone
    repeat' first
      | with_reducible assumption
      | with_reducible apply ih
      | with_reducible apply stepBoundary_inv
      | with_reducible refine Inv.foldl _ (fun _ _ _ => ?_) ?_
      | with_reducible refine Inv.foldl2 _ (fun _ _ _ => ?_) ?_
      | with_reducible apply hK
      | with_reducible intro _
      | split

theorem rekeyVisit_inv {K : Goals} {ρ : State} (p : Nat) (w : Sweep) (lost : List Nat) (at_ : Nat) (result : VerifyResult) (s : State)  (hI : Inv K ρ s) : Inv K ρ (rekeyVisit p w lost at_ result s) := by
  unfold rekeyVisit
  repeat' first
    | with_reducible assumption
    | with_reducible refine checkVisit_invE (by assumption) ?_
    | with_reducible apply checkVisit_inv
    | with_reducible apply visitRekey_inv
    | with_reducible apply stepBoundary_inv
    | with_reducible apply skipDone_inv
    | with_reducible apply nextSweep_inv
    | with_reducible apply endRekey_inv
    | with_reducible refine Inv.foldl _ (fun _ _ _ => ?_) ?_
    | with_reducible refine Inv.foldl2 _ (fun _ _ _ => ?_) ?_
    | with_reducible apply hK
    | with_reducible intro _
    | split
    | fail_if_no_progress (with_reducible (refine Inv.put rfl rfl rfl rfl rfl rfl rfl rfl rfl rfl rfl rfl rfl rfl rfl rfl ⟨rfl, rfl, rfl, rfl, rfl⟩ rfl rfl rfl rfl ?_))
    | dsimp only

theorem endPass_inv {K : Goals} {ρ : State} (p key : Nat) (s : State)  (hI : Inv K ρ s) : Inv K ρ (endPass p key s) := by
  unfold endPass
  repeat' first
    | with_reducible assumption
    | with_reducible apply nextSweep_inv
    | with_reducible apply modPc_inv

theorem retireVisit_inv {K : Goals} {ρ : State} (p key : Nat) (w : Sweep) (at_ : Nat) (result : VerifyResult) (s : State) (hI : Inv K ρ s) : Inv K ρ (retireVisit p key w at_ result s) := by
  unfold retireVisit
  have h : Inv K ρ (if groupLost s p w.boundary then (Checked.good, s) else judge p (16 * w.boundary + at_ % 16) result s).2 := by
    split
    · exact hI
    · exact judge_inv _ _ _ _ hI
  revert h
  generalize (if groupLost s p w.boundary then (Checked.good, s) else judge p (16 * w.boundary + at_ % 16) result s) = z
  obtain ⟨c, u⟩ := z
  intro h
  dsimp only at h ⊢
  repeat' first
    | with_reducible assumption
    | with_reducible refine judge_invE (by assumption) ?_
    | with_reducible apply judge_inv
    | with_reducible apply stepBoundary_inv
    | with_reducible apply visitRetire_inv
    | with_reducible apply endPass_inv
    | with_reducible refine Inv.foldl _ (fun _ _ _ => ?_) ?_
    | with_reducible refine Inv.foldl2 _ (fun _ _ _ => ?_) ?_
    | with_reducible apply hK
    | with_reducible intro _
    | split

theorem visitSt_inv {K : Goals} {ρ : State} (p : Nat) (lost : List Nat) (at_ : Nat) (result : VerifyResult) (s : State)  (hI : Inv K ρ s) : Inv K ρ (visitSt p lost at_ result s) := by
  unfold visitSt
  repeat' first
    | with_reducible assumption
    | with_reducible apply rekeyVisit_inv
    | with_reducible apply retireVisit_inv
    | with_reducible refine Inv.foldl _ (fun _ _ _ => ?_) ?_
    | with_reducible refine Inv.foldl2 _ (fun _ _ _ => ?_) ?_
    | with_reducible apply hK
    | with_reducible intro _
    | split

theorem faultExitSt_inv {K : Goals} {ρ : State} (u : Nat) (s : State)  (hI : Inv K ρ s) : Inv K ρ (faultExitSt u s) := by
  unfold faultExitSt
  repeat' first
    | with_reducible assumption
    | with_reducible refine Inv.foldl _ (fun _ _ _ => ?_) ?_
    | with_reducible refine Inv.foldl2 _ (fun _ _ _ => ?_) ?_
    | with_reducible apply hK
    | with_reducible intro _
    | split
    | fail_if_no_progress (with_reducible (refine Inv.put rfl rfl rfl rfl rfl rfl rfl rfl rfl rfl rfl rfl rfl rfl rfl rfl ⟨rfl, rfl, rfl, rfl, rfl⟩ rfl rfl rfl rfl ?_))
    | dsimp only

theorem shareFail_inv {K : Goals} {ρ : State} (s : State) (t : Step) (e : Nat) (residue : Option Nat) (hI : Inv K ρ s) :
    Inv K ρ (shareFail s t e residue).2 := by
  unfold shareFail
  split
  · exact hI
  · split
    rename_i a u hu
    have h := injected_invE hu hI
    cases a
    · have h2 := injected_inv 6 (engineUnit e) (some t.part) u h
      revert h2
      simp only [Bool.false_eq_true, if_false]
      generalize injected 6 (engineUnit e) (some t.part) u = z
      intro h2
      split <;> exact h2
    · exact h

theorem shareFail_invE {K : Goals} {ρ : State} {s : State} {t : Step} {e : Nat} {residue : Option Nat} {xa xu} (hE : shareFail s t e residue = (xa, xu))  (hI : Inv K ρ s) : Inv K ρ xu := by
  have h := shareFail_inv s t e residue  hI
  rw [hE] at h
  exact h

theorem restart_inv {K : Goals} {ρ : State} (e id : Nat) (s : State)  (hI : Inv K ρ s) : Inv K ρ (restart e id s) := by
  unfold restart
  repeat' first
    | with_reducible assumption
    | with_reducible apply modStep_inv
    | with_reducible refine fresh_invE (by assumption) ?_
    | with_reducible apply fresh_inv
    | with_reducible apply touchAll_inv
    | with_reducible apply readsNow_inv
    | with_reducible refine Inv.foldl _ (fun _ _ _ => ?_) ?_
    | with_reducible refine Inv.foldl2 _ (fun _ _ _ => ?_) ?_
    | with_reducible apply hK
    | with_reducible intro _
    | split
    | fail_if_no_progress (with_reducible (refine Inv.put rfl rfl rfl rfl rfl rfl rfl rfl rfl rfl rfl rfl rfl rfl rfl rfl ⟨rfl, rfl, rfl, rfl, rfl⟩ rfl rfl rfl rfl ?_))

theorem fenceShares_inv {K : Goals} {ρ : State} (e detail : Nat) (s : State)  (hI : Inv K ρ s) : Inv K ρ (fenceShares e detail s) := by
  unfold fenceShares
  repeat' first
    | with_reducible assumption
    | with_reducible apply fenceEngine_inv
    | with_reducible apply restart_inv
    | with_reducible refine Inv.foldl _ (fun _ _ _ => ?_) ?_

theorem countFail_inv {K : Goals} {ρ : State} (e : Nat) (inj : Bool) (s : State)  (hI : Inv K ρ s) : Inv K ρ (countFail e inj s) := by
  unfold countFail
  repeat' first
    | with_reducible assumption
    | with_reducible apply modEngine_inv
    | with_reducible apply modHr_inv
    | with_reducible refine Inv.foldl _ (fun _ _ _ => ?_) ?_
    | with_reducible refine Inv.foldl2 _ (fun _ _ _ => ?_) ?_
    | with_reducible apply hK
    | with_reducible intro _
    | split
    | fail_if_no_progress (with_reducible (refine Inv.put rfl rfl rfl rfl rfl rfl rfl rfl rfl rfl rfl rfl rfl rfl rfl rfl ⟨rfl, rfl, rfl, rfl, rfl⟩ rfl rfl rfl rfl ?_))
    | dsimp only

theorem residueFail_inv {K : Goals} {ρ : State} (t : Step) (e point : Nat) (inj : Bool) (s : State)  (hI : Inv K ρ s) : Inv K ρ (residueFail t e point inj s) := by
  unfold residueFail
  repeat' first
    | with_reducible assumption
    | with_reducible apply countFail_inv
    | with_reducible apply report_inv
    | with_reducible apply modStep_inv
    | with_reducible apply fenceShares_inv
    | with_reducible apply killStep_inv
    | with_reducible apply restart_inv
    | with_reducible refine Inv.foldl _ (fun _ _ _ => ?_) ?_
    | with_reducible refine Inv.foldl2 _ (fun _ _ _ => ?_) ?_
    | with_reducible apply hK
    | with_reducible intro _
    | split

theorem shareSt_inv {K : Goals} {ρ : State} (id e : Nat) (residue : Option Nat) (parity : Bool) (s : State)  (hI : Inv K ρ s) : Inv K ρ (shareSt id e residue parity s) := by
  unfold shareSt
  repeat' first
    | with_reducible assumption
    | with_reducible refine stepParity_invE (by assumption) ?_
    | with_reducible apply stepParity_inv
    | with_reducible apply fillBe_inv
    | with_reducible refine shareFail_invE (by assumption) ?_
    | with_reducible apply shareFail_inv
    | with_reducible apply residueFail_inv
    | with_reducible apply touchEngine_inv
    | with_reducible apply modStep_inv
    | with_reducible apply tryFinish_inv
    | with_reducible refine Inv.foldl _ (fun _ _ _ => ?_) ?_
    | with_reducible refine Inv.foldl2 _ (fun _ _ _ => ?_) ?_
    | with_reducible apply hK
    | with_reducible intro _
    | split
    | fail_if_no_progress (with_reducible (refine Inv.put rfl rfl rfl rfl rfl rfl rfl rfl rfl rfl rfl rfl rfl rfl rfl rfl ⟨rfl, rfl, rfl, rfl, rfl⟩ rfl rfl rfl rfl ?_))
    | dsimp only

theorem fromEngine_inv {K : Goals} {ρ : State} (e gen : Nat) (k : State → State) (s : State) (hK : ∀ t, Inv K ρ t → Inv K ρ (k t)) (hI : Inv K ρ s) : Inv K ρ (fromEngine e gen k s) := by
  unfold fromEngine
  repeat' first
    | with_reducible assumption
    | with_reducible refine Inv.foldl _ (fun _ _ _ => ?_) ?_
    | with_reducible refine Inv.foldl2 _ (fun _ _ _ => ?_) ?_
    | with_reducible apply hK
    | with_reducible intro _
    | split
    | fail_if_no_progress (with_reducible (refine Inv.put rfl rfl rfl rfl rfl rfl rfl rfl rfl rfl rfl rfl rfl rfl rfl rfl ⟨rfl, rfl, rfl, rfl, rfl⟩ rfl rfl rfl rfl ?_))

theorem reqSt_inv {K : Goals} {ρ : State} (op : Nat) (kind : ItemKind) (m : TileMsg) (s : State)  (hI : Inv K ρ s) : Inv K ρ (reqSt op kind m s) := by
  unfold reqSt
  repeat' first
    | with_reducible assumption
    | with_reducible apply message_inv
    | with_reducible apply takeRequest_inv

theorem passData_inv {K : Goals} {ρ : State} (m : TileMsg) (parity : Nat) (step : Option Nat) (k : TileMsg → State → State) (s : State) (hK : ∀ x0 t, Inv K ρ t → Inv K ρ (k x0 t)) (hI : Inv K ρ s) : Inv K ρ (passData m parity step k s) := by
  unfold passData
  repeat' first
    | with_reducible assumption
    | with_reducible refine stepParity_invE (by assumption) ?_
    | with_reducible apply stepParity_inv
    | with_reducible refine transfer_invE (by assumption) ?_
    | with_reducible apply transfer_inv
    | with_reducible refine Inv.foldl _ (fun _ _ _ => ?_) ?_
    | with_reducible refine Inv.foldl2 _ (fun _ _ _ => ?_) ?_
    | with_reducible apply hK
    | with_reducible intro _
    | split

theorem dataReqSt_inv {K : Goals} {ρ : State} (op : Nat) (kind : ItemKind) (m : TileMsg) (step : Option Nat) (data : Line) (parity : Nat) (s : State)  (hI : Inv K ρ s) : Inv K ρ (dataReqSt op kind m step data parity s) := by
  unfold dataReqSt
  repeat' first
    | with_reducible assumption
    | with_reducible apply message_inv
    | with_reducible apply passData_inv
    | with_reducible apply takeRequest_inv
    | with_reducible refine Inv.foldl _ (fun _ _ _ => ?_) ?_
    | with_reducible refine Inv.foldl2 _ (fun _ _ _ => ?_) ?_
    | with_reducible apply hK
    | with_reducible intro _

theorem answered_inv {K : Goals} {ρ : State} (t k : Nat) (data : Option (Line × Bool)) (kept : Bool) (s : State)  (hI : Inv K ρ s) : Inv K ρ (answered t k data kept s) := by
  unfold answered
  repeat' first
    | with_reducible assumption
    | with_reducible apply setLlc_inv
    | with_reducible apply nextSnoop_inv
    | with_reducible apply drainAll_inv
    | with_reducible apply finishItem_inv
    | with_reducible refine Inv.foldl _ (fun _ _ _ => ?_) ?_
    | with_reducible refine Inv.foldl2 _ (fun _ _ _ => ?_) ?_
    | with_reducible apply hK
    | with_reducible intro _
    | split
    | fail_if_no_progress (with_reducible (refine Inv.put rfl rfl rfl rfl rfl rfl rfl rfl rfl rfl rfl rfl rfl rfl rfl rfl ⟨rfl, rfl, rfl, rfl, rfl⟩ rfl rfl rfl rfl ?_))
    | dsimp only

theorem tileAnswer_inv {K : Goals} {ρ : State} (m : TileMsg) (data : Option (Line × Bool)) (kept : Bool) (s : State)  (hI : Inv K ρ s) : Inv K ρ (tileAnswer m data kept s) := by
  unfold tileAnswer
  repeat' first
    | with_reducible assumption
    | with_reducible apply impossible_inv
    | with_reducible apply answered_inv
    | with_reducible refine Inv.foldl _ (fun _ _ _ => ?_) ?_
    | with_reducible refine Inv.foldl2 _ (fun _ _ _ => ?_) ?_
    | with_reducible apply hK
    | with_reducible intro _
    | split

theorem stashEnd_inv {K : Goals} {ρ : State} (t k : Nat) (accept : Bool) (s : State)  (hI : Inv K ρ s) : Inv K ρ (stashEnd t k accept s) := by
  unfold stashEnd
  repeat' first
    | with_reducible assumption
    | with_reducible apply accept_inv
    | with_reducible apply drainAll_inv
    | with_reducible apply setLlc_inv
    | with_reducible apply nextSnoop_inv
    | with_reducible refine Inv.foldl _ (fun _ _ _ => ?_) ?_
    | with_reducible refine Inv.foldl2 _ (fun _ _ _ => ?_) ?_
    | with_reducible apply hK
    | with_reducible intro _
    | split
    | fail_if_no_progress (with_reducible (refine Inv.put rfl rfl rfl rfl rfl rfl rfl rfl rfl rfl rfl rfl rfl rfl rfl rfl ⟨rfl, rfl, rfl, rfl, rfl⟩ rfl rfl rfl rfl ?_))

theorem stashSt_inv {K : Goals} {ρ : State} (m : TileMsg) (s : State)  (hI : Inv K ρ s) : Inv K ρ (stashSt m s) := by
  unfold stashSt
  repeat' first
    | with_reducible assumption
    | with_reducible apply impossible_inv
    | with_reducible apply stashEnd_inv
    | with_reducible refine Inv.foldl _ (fun _ _ _ => ?_) ?_
    | with_reducible refine Inv.foldl2 _ (fun _ _ _ => ?_) ?_
    | with_reducible apply hK
    | with_reducible intro _
    | split

theorem strangeStep_inv {K : Goals} {ρ : State} (tile gen : Nat) (s : State)  (hI : Inv K ρ s) : Inv K ρ (strangeStep tile gen s) := by
  unfold strangeStep
  repeat' first
    | with_reducible assumption
    | with_reducible apply impossible_inv

theorem completionSt_inv {K : Goals} {ρ : State} (tile gen id : Nat) (st : Status) (s : State)  (hI : Inv K ρ s) : Inv K ρ (completionSt tile gen id st s) := by
  unfold completionSt
  repeat' first
    | with_reducible assumption
    | with_reducible apply strangeStep_inv
    | with_reducible apply modStep_inv
    | with_reducible apply fillBe_inv
    | with_reducible refine Inv.foldl _ (fun _ _ _ => ?_) ?_
    | with_reducible refine Inv.foldl2 _ (fun _ _ _ => ?_) ?_
    | with_reducible apply hK
    | with_reducible intro _
    | split
    | fail_if_no_progress (with_reducible (refine Inv.put rfl rfl rfl rfl rfl rfl rfl rfl rfl rfl rfl rfl rfl rfl rfl rfl ⟨rfl, rfl, rfl, rfl, rfl⟩ rfl rfl rfl rfl ?_))
    | dsimp only

theorem killAckSt_inv {K : Goals} {ρ : State} (unit id : Nat) (s : State)  (hI : Inv K ρ s) : Inv K ρ (killAckSt unit id s) := by
  unfold killAckSt
  repeat' first
    | with_reducible assumption
    | with_reducible apply fillBe_inv
    | with_reducible apply ackKill_inv
    | with_reducible refine Inv.foldl _ (fun _ _ _ => ?_) ?_
    | with_reducible refine Inv.foldl2 _ (fun _ _ _ => ?_) ?_
    | with_reducible apply hK
    | with_reducible intro _
    | split

theorem tileAckSt_inv {K : Goals} {ρ : State} (tile gen id : Nat) (s : State)  (hI : Inv K ρ s) : Inv K ρ (tileAckSt tile gen id s) := by
  unfold tileAckSt
  repeat' first
    | with_reducible assumption
    | with_reducible apply killAckSt_inv
    | with_reducible apply strangeStep_inv
    | with_reducible refine Inv.foldl _ (fun _ _ _ => ?_) ?_
    | with_reducible refine Inv.foldl2 _ (fun _ _ _ => ?_) ?_
    | with_reducible apply hK
    | with_reducible intro _
    | split
    | fail_if_no_progress (with_reducible (refine Inv.put rfl rfl rfl rfl rfl rfl rfl rfl rfl rfl rfl rfl rfl rfl rfl rfl ⟨rfl, rfl, rfl, rfl, rfl⟩ rfl rfl rfl rfl ?_))

theorem ackSt_inv {K : Goals} {ρ : State} (unit gen id : Nat) (s : State)  (hI : Inv K ρ s) : Inv K ρ (ackSt unit gen id s) := by
  unfold ackSt
  repeat' first
    | with_reducible assumption
    | with_reducible apply atPort_inv
    | with_reducible apply tileAckSt_inv
    | with_reducible apply fromEngine_inv
    | with_reducible apply killAckSt_inv
    | with_reducible refine Inv.foldl _ (fun _ _ _ => ?_) ?_
    | with_reducible refine Inv.foldl2 _ (fun _ _ _ => ?_) ?_
    | with_reducible apply hK
    | with_reducible intro _
    | split

theorem deadAnswer_inv {K : Goals} {ρ : State} (t k : Nat) (s : State)  (hI : Inv K ρ s) : Inv K ρ (deadAnswer t k s) := by
  unfold deadAnswer
  repeat' first
    | with_reducible assumption
    | with_reducible apply stashEnd_inv
    | with_reducible apply answered_inv
    | with_reducible refine Inv.foldl _ (fun _ _ _ => ?_) ?_
    | with_reducible refine Inv.foldl2 _ (fun _ _ _ => ?_) ?_
    | with_reducible apply hK
    | with_reducible intro _
    | split
    | fail_if_no_progress (with_reducible (refine Inv.put rfl rfl rfl rfl rfl rfl rfl rfl rfl rfl rfl rfl rfl rfl rfl rfl ⟨rfl, rfl, rfl, rfl, rfl⟩ rfl rfl rfl rfl ?_))
    | dsimp only

theorem snoopTimeoutSt_inv {K : Goals} {ρ : State} (t : Nat) (s : State)  (hI : Inv K ρ s) : Inv K ρ (snoopTimeoutSt t s) := by
  unfold snoopTimeoutSt
  repeat' first
    | with_reducible assumption
    | with_reducible apply deadAnswer_inv
    | with_reducible apply report_inv
    | with_reducible refine Inv.foldl _ (fun _ _ _ => ?_) ?_
    | with_reducible refine Inv.foldl2 _ (fun _ _ _ => ?_) ?_
    | with_reducible apply hK
    | with_reducible intro _
    | split
    | fail_if_no_progress (with_reducible (refine Inv.put rfl rfl rfl rfl rfl rfl rfl rfl rfl rfl rfl rfl rfl rfl rfl rfl ⟨rfl, rfl, rfl, rfl, rfl⟩ rfl rfl rfl rfl ?_))
    | dsimp only

theorem hostLine_inv {K : Goals} {ρ : State} (a : HostAccess) (dpa : Nat) (i : HomeItem) (s : State)  (hI : Inv K ρ s) : Inv K ρ (hostLine a dpa i s).2 := by
  unfold hostLine
  repeat' first
    | with_reducible assumption
    | with_reducible refine openLine_invE (by assumption) ?_
    | with_reducible apply openLine_inv
    | with_reducible refine Inv.foldl _ (fun _ _ _ => ?_) ?_
    | with_reducible refine Inv.foldl2 _ (fun _ _ _ => ?_) ?_
    | with_reducible apply hK
    | with_reducible intro _
    | split

theorem hostLine_invE {K : Goals} {ρ : State} {a : HostAccess} {dpa : Nat} {i : HomeItem} {s : State} {xa xu} (hE : hostLine a dpa i s = (xa, xu))  (hI : Inv K ρ s) : Inv K ρ xu := by
  have h := hostLine_inv a dpa i s  hI
  rw [hE] at h
  exact h

theorem hostParity_inv {K : Goals} {ρ : State} (a : HostAccess) (dpa errs : Nat) (s : State)  (hI : Inv K ρ s) : Inv K ρ (hostParity a dpa errs s).2 := by
  unfold hostParity
  repeat' first
    | with_reducible assumption
    | with_reducible refine transfer_invE (by assumption) ?_
    | with_reducible apply transfer_inv
    | with_reducible refine Inv.foldl _ (fun _ _ _ => ?_) ?_
    | with_reducible refine Inv.foldl2 _ (fun _ _ _ => ?_) ?_
    | with_reducible apply hK
    | with_reducible intro _
    | split

theorem hostParity_invE {K : Goals} {ρ : State} {a : HostAccess} {dpa errs : Nat} {s : State} {xa xu} (hE : hostParity a dpa errs s = (xa, xu))  (hI : Inv K ρ s) : Inv K ρ xu := by
  have h := hostParity_inv a dpa errs s  hI
  rw [hE] at h
  exact h

theorem refuseRead_inv {K : Goals} {ρ : State} (n : Nat) (st : Status) (s : State)  (hI : Inv K ρ s) : Inv K ρ (refuseRead n st s) := by
  unfold refuseRead
  repeat' first
    | with_reducible assumption
    | with_reducible apply emit_inv

theorem hostReadLine_inv {K : Goals} {ρ : State} (a : HostAccess) (xs : List Xlat) (s : State) (p : Nat × Nat)  (hI : Inv K ρ s) : Inv K ρ (hostReadLine a xs s p) := by
  unfold hostReadLine
  repeat' first
    | with_reducible assumption
    | with_reducible apply refuseRead_inv
    | with_reducible refine hostLine_invE (by assumption) ?_
    | with_reducible apply hostLine_inv
    | with_reducible refine Inv.foldl _ (fun _ _ _ => ?_) ?_
    | with_reducible refine Inv.foldl2 _ (fun _ _ _ => ?_) ?_
    | with_reducible apply hK
    | with_reducible intro _
    | split

theorem hostReadSt_inv {K : Goals} {ρ : State} (a : HostAccess) (s : State)  (hI : Inv K ρ s) : Inv K ρ (hostReadSt a s) := by
  unfold hostReadSt
  repeat' first
    | with_reducible assumption
    | with_reducible apply emit_inv
    | with_reducible apply countWalks_inv
    | with_reducible apply refuseRead_inv
    | with_reducible apply hostReadLine_inv
    | with_reducible refine Inv.foldl _ (fun _ _ _ => ?_) ?_
    | with_reducible refine Inv.foldl2 _ (fun _ _ _ => ?_) ?_
    | with_reducible apply hK
    | with_reducible intro _
    | split
    | fail_if_no_progress (with_reducible (refine Inv.put rfl rfl rfl rfl rfl rfl rfl rfl rfl rfl rfl rfl rfl rfl rfl rfl ⟨rfl, rfl, rfl, rfl, rfl⟩ rfl rfl rfl rfl ?_))
    | dsimp only

theorem hostWriteLine_inv {K : Goals} {ρ : State} (a : HostAccess) (xs : List Xlat) (stash : Option Nat) (s : State) (p : Nat × List Byte)  (hI : Inv K ρ s) : Inv K ρ (hostWriteLine a xs stash s p) := by
  unfold hostWriteLine
  repeat' first
    | with_reducible assumption
    | with_reducible refine hostParity_invE (by assumption) ?_
    | with_reducible apply hostParity_inv
    | with_reducible refine hostLine_invE (by assumption) ?_
    | with_reducible apply hostLine_inv
    | with_reducible refine Inv.foldl _ (fun _ _ _ => ?_) ?_
    | with_reducible refine Inv.foldl2 _ (fun _ _ _ => ?_) ?_
    | with_reducible apply hK
    | with_reducible intro _
    | split

theorem hostWriteSt_inv {K : Goals} {ρ : State} (a : HostAccess) (data : List Byte) (stash : Option Nat) (s : State)  (hI : Inv K ρ s) : Inv K ρ (hostWriteSt a data stash s) := by
  unfold hostWriteSt
  repeat' first
    | with_reducible assumption
    | with_reducible apply countWalks_inv
    | with_reducible apply hostWriteLine_inv
    | with_reducible refine Inv.foldl _ (fun _ _ _ => ?_) ?_
    | with_reducible refine Inv.foldl2 _ (fun _ _ _ => ?_) ?_
    | with_reducible apply hK
    | with_reducible intro _
    | split
    | fail_if_no_progress (with_reducible (refine Inv.put rfl rfl rfl rfl rfl rfl rfl rfl rfl rfl rfl rfl rfl rfl rfl rfl ⟨rfl, rfl, rfl, rfl, rfl⟩ rfl rfl rfl rfl ?_))
    | dsimp only

theorem refuseAtomic_inv {K : Goals} {ρ : State} (st : Status) (unsupported : Bool) (s : State)  (hI : Inv K ρ s) : Inv K ρ (refuseAtomic st unsupported s) := by
  unfold refuseAtomic
  repeat' first
    | with_reducible assumption
    | with_reducible apply emit_inv

theorem pcieAtomSt_inv {K : Goals} {ρ : State} (a : HostAccess) (kind : Nat) (wide quad : Bool) (operand compare : Word) (s : State)  (hI : Inv K ρ s) : Inv K ρ (pcieAtomSt a kind wide quad operand compare s) := by
  unfold pcieAtomSt
  repeat' first
    | with_reducible assumption
    | with_reducible apply refuseAtomic_inv
    | with_reducible apply countWalks_inv
    | with_reducible refine hostParity_invE (by assumption) ?_
    | with_reducible apply hostParity_inv
    | with_reducible refine hostLine_invE (by assumption) ?_
    | with_reducible apply hostLine_inv
    | with_reducible refine Inv.foldl _ (fun _ _ _ => ?_) ?_
    | with_reducible refine Inv.foldl2 _ (fun _ _ _ => ?_) ?_
    | with_reducible apply hK
    | with_reducible intro _
    | split
    | fail_if_no_progress (with_reducible (refine Inv.put rfl rfl rfl rfl rfl rfl rfl rfl rfl rfl rfl rfl rfl rfl rfl rfl ⟨rfl, rfl, rfl, rfl, rfl⟩ rfl rfl rfl rfl ?_))
    | dsimp only

theorem debugSt_inv {K : Goals} {ρ : State} (c : DebugCap) (n dpa : Nat) (data : List Byte) (s : State)  (hI : Inv K ρ s) : Inv K ρ (debugSt c n dpa data s) := by
  unfold debugSt
  repeat' first
    | with_reducible assumption
    | with_reducible apply emit_inv
    | with_reducible apply refuse_inv
    | with_reducible refine access_invE (by assumption) ?_
    | with_reducible apply access_inv
    | with_reducible apply endDebug_inv
    | with_reducible refine writeLine_invE (by assumption) ?_
    | with_reducible apply writeLine_inv
    | with_reducible refine unitWords_invE (by assumption) ?_
    | with_reducible apply unitWords_inv
    | with_reducible refine Inv.foldl _ (fun _ _ _ => ?_) ?_
    | with_reducible refine Inv.foldl2 _ (fun _ _ _ => ?_) ?_
    | with_reducible apply hK
    | with_reducible intro _
    | split
    | fail_if_no_progress (with_reducible (refine Inv.put rfl rfl rfl rfl rfl rfl rfl rfl rfl rfl rfl rfl rfl rfl rfl rfl ⟨rfl, rfl, rfl, rfl, rfl⟩ rfl rfl rfl rfl ?_))
    | dsimp only

theorem certLoadSt_inv {K : Goals} {ρ : State} (revoke : Bool) (s : State)  (hI : Inv K ρ s) : Inv K ρ (certLoadSt revoke s) := by
  unfold certLoadSt
  repeat' first
    | with_reducible assumption
    | with_reducible refine Inv.foldl _ (fun _ _ _ => ?_) ?_
    | with_reducible refine Inv.foldl2 _ (fun _ _ _ => ?_) ?_
    | with_reducible apply hK
    | with_reducible intro _
    | split
    | fail_if_no_progress (with_reducible (refine Inv.put rfl rfl rfl rfl rfl rfl rfl rfl rfl rfl rfl rfl rfl rfl rfl rfl ⟨rfl, rfl, rfl, rfl, rfl⟩ rfl rfl rfl rfl ?_))
    | dsimp only

theorem certResult_inv {K : Goals} {ρ : State} (st : Status) (s : State)  (hI : Inv K ρ s) : Inv K ρ (certResult st s) := by
  unfold certResult
  repeat' first
    | with_reducible assumption
    | with_reducible refine Inv.foldl _ (fun _ _ _ => ?_) ?_
    | with_reducible refine Inv.foldl2 _ (fun _ _ _ => ?_) ?_
    | with_reducible apply hK
    | with_reducible intro _
    | split
    | fail_if_no_progress (with_reducible (refine Inv.put rfl rfl rfl rfl rfl rfl rfl rfl rfl rfl rfl rfl rfl rfl rfl rfl ⟨rfl, rfl, rfl, rfl, rfl⟩ rfl rfl rfl rfl ?_))

theorem certTake_inv {K : Goals} {ρ : State} (cert : CertBytes) (s : State) (hlife : K.life = false) (hI : Inv K ρ s) : Inv K ρ (certTake cert s) := by
  unfold certTake
  repeat' first
    | with_reducible assumption
    | with_reducible exact certResult_inv _ _ (Inv.setCodeword _ hlife (by assumption))
    | with_reducible apply certResult_inv
    | with_reducible refine Inv.foldl _ (fun _ _ _ => ?_) ?_
    | with_reducible refine Inv.foldl2 _ (fun _ _ _ => ?_) ?_
    | with_reducible apply hK
    | with_reducible intro _
    | split
    | fail_if_no_progress (with_reducible (refine Inv.put rfl rfl rfl rfl rfl rfl rfl rfl rfl rfl rfl rfl rfl rfl rfl rfl ⟨rfl, rfl, rfl, rfl, rfl⟩ rfl rfl rfl rfl ?_))

theorem certDoneSt_inv {K : Goals} {ρ : State} (cert : CertBytes) (s : State)  (hlife : K.life = false) (hI : Inv K ρ s) : Inv K ρ (certDoneSt cert s) := by
  unfold certDoneSt
  repeat' first
    | with_reducible assumption
    | with_reducible apply certTake_inv
    | with_reducible refine Inv.foldl _ (fun _ _ _ => ?_) ?_
    | with_reducible refine Inv.foldl2 _ (fun _ _ _ => ?_) ?_
    | with_reducible apply hK
    | with_reducible intro _
    | split
    | fail_if_no_progress (with_reducible (refine Inv.put rfl rfl rfl rfl rfl rfl rfl rfl rfl rfl rfl rfl rfl rfl rfl rfl ⟨rfl, rfl, rfl, rfl, rfl⟩ rfl rfl rfl rfl ?_))

theorem signWith_inv {K : Goals} {ρ : State} (bs : List Byte) (s : State)  (hI : Inv K ρ s) : Inv K ρ (signWith bs s).2 := by
  unfold signWith
  repeat' first
    | with_reducible assumption
    | with_reducible refine fresh_invE (by assumption) ?_
    | with_reducible apply fresh_inv

theorem signWith_invE {K : Goals} {ρ : State} {bs : List Byte} {s : State} {xa xu} (hE : signWith bs s = (xa, xu))  (hI : Inv K ρ s) : Inv K ρ xu := by
  have h := signWith_inv bs s  hI
  rw [hE] at h
  exact h

theorem makeReport_inv {K : Goals} {ρ : State} (n : Nat) (nonce : BitVec 256) (s : State)  (hI : Inv K ρ s) : Inv K ρ (makeReport n nonce s).2 := by
  unfold makeReport
  repeat' first
    | with_reducible assumption
    | with_reducible refine signWith_invE (by assumption) ?_
    | with_reducible apply signWith_inv
    | with_reducible apply emit_inv
    | with_reducible refine Inv.foldl _ (fun _ _ _ => ?_) ?_
    | with_reducible refine Inv.foldl2 _ (fun _ _ _ => ?_) ?_
    | with_reducible apply hK
    | with_reducible intro _
    | split
    | fail_if_no_progress (with_reducible (refine Inv.put rfl rfl rfl rfl rfl rfl rfl rfl rfl rfl rfl rfl rfl rfl rfl rfl ⟨rfl, rfl, rfl, rfl, rfl⟩ rfl rfl rfl rfl ?_))

theorem makeReport_invE {K : Goals} {ρ : State} {n : Nat} {nonce : BitVec 256} {s : State} {xa xu} (hE : makeReport n nonce s = (xa, xu))  (hI : Inv K ρ s) : Inv K ρ xu := by
  have h := makeReport_inv n nonce s  hI
  rw [hE] at h
  exact h

theorem sessionRow_inv {K : Goals} {ρ : State} (m : Datagram) (type len : Nat) (k : Nat → Bool → List Byte → State → State) (s : State) (hK : ∀ x0 x1 x2 t, Inv K ρ t → Inv K ρ (k x0 x1 x2 t)) (hI : Inv K ρ s) : Inv K ρ (sessionRow m type len k s) := by
  unfold sessionRow
  repeat' first
    | with_reducible assumption
    | with_reducible apply dropAt_inv
    | with_reducible apply fromPort_inv
    | with_reducible refine Inv.foldl _ (fun _ _ _ => ?_) ?_
    | with_reducible refine Inv.foldl2 _ (fun _ _ _ => ?_) ?_
    | with_reducible apply hK
    | with_reducible intro _
    | split

theorem helloSt_inv {K : Goals} {ρ : State} (m : Datagram) (session : Nat) (zero : Bool) (body : List Byte) (s : State)  (hI : Inv K ρ s) : Inv K ρ (helloSt m session zero body s) := by
  unfold helloSt
  repeat' first
    | with_reducible assumption
    | with_reducible apply sDone_inv
    | with_reducible apply refuse_inv
    | with_reducible refine fresh_invE (by assumption) ?_
    | with_reducible apply fresh_inv
    | with_reducible apply report_inv
    | with_reducible refine makeReport_invE (by assumption) ?_
    | with_reducible apply makeReport_inv
    | with_reducible apply emit_inv
    | with_reducible refine Inv.foldl _ (fun _ _ _ => ?_) ?_
    | with_reducible refine Inv.foldl2 _ (fun _ _ _ => ?_) ?_
    | with_reducible apply hK
    | with_reducible intro _
    | split
    | fail_if_no_progress (with_reducible (refine Inv.put rfl rfl rfl rfl rfl rfl rfl rfl rfl rfl rfl rfl rfl rfl rfl rfl ⟨rfl, rfl, rfl, rfl, rfl⟩ rfl rfl rfl rfl ?_))
    | dsimp only

theorem modVfTc_inv {K : Goals} {ρ : State} (n : Nat) (f : VfTc → VfTc) (s : State)  (hI : Inv K ρ s) : Inv K ρ (modVfTc n f s) := by
  unfold modVfTc
  repeat' first
    | with_reducible assumption
    | with_reducible refine Inv.foldl _ (fun _ _ _ => ?_) ?_
    | with_reducible refine Inv.foldl2 _ (fun _ _ _ => ?_) ?_
    | with_reducible apply hK
    | with_reducible intro _
    | split
    | fail_if_no_progress (with_reducible (refine Inv.put rfl rfl rfl rfl rfl rfl rfl rfl rfl rfl rfl rfl rfl rfl rfl rfl ⟨rfl, rfl, rfl, rfl, rfl⟩ rfl rfl rfl rfl ?_))

theorem endSessions_inv {K : Goals} {ρ : State} (n : Nat) (s : State)  (hI : Inv K ρ s) : Inv K ρ (endSessions n s) := by
  unfold endSessions
  repeat' first
    | with_reducible assumption
    | with_reducible refine Inv.foldl _ (fun _ _ _ => ?_) ?_
    | with_reducible refine Inv.foldl2 _ (fun _ _ _ => ?_) ?_
    | with_reducible apply hK
    | with_reducible intro _
    | split
    | fail_if_no_progress (with_reducible (refine Inv.put rfl rfl rfl rfl rfl rfl rfl rfl rfl rfl rfl rfl rfl rfl rfl rfl ⟨rfl, rfl, rfl, rfl, rfl⟩ rfl rfl rfl rfl ?_))

theorem tenantWriteSt_inv {K : Goals} {ρ : State} (n off size : Nat) (v : Word) (s : State)  (hI : Inv K ρ s) : Inv K ρ (tenantWriteSt n off size v s) := by
  unfold tenantWriteSt
  repeat' first
    | with_reducible assumption
    | with_reducible apply endSessions_inv
    | with_reducible apply modVfTc_inv
    | with_reducible refine Inv.foldl _ (fun _ _ _ => ?_) ?_
    | with_reducible refine Inv.foldl2 _ (fun _ _ _ => ?_) ?_
    | with_reducible apply hK
    | with_reducible intro _
    | split

theorem signSt_inv {K : Goals} {ρ : State} (n : Nat) (s : State)  (hI : Inv K ρ s) : Inv K ρ (signSt n s) := by
  unfold signSt
  repeat' first
    | with_reducible assumption
    | with_reducible apply modVfTc_inv
    | with_reducible refine Inv.foldl _ (fun _ _ _ => ?_) ?_
    | with_reducible refine Inv.foldl2 _ (fun _ _ _ => ?_) ?_
    | with_reducible apply hK
    | with_reducible intro _
    | split

theorem signedCopySt_inv {K : Goals} {ρ : State} (n : Nat) (host : HostView) (s : State)  (hI : Inv K ρ s) : Inv K ρ (signedCopySt n host s) := by
  unfold signedCopySt
  repeat' first
    | with_reducible assumption
    | with_reducible apply modVfTc_inv
    | with_reducible apply countWalks_inv
    | with_reducible refine signWith_invE (by assumption) ?_
    | with_reducible apply signWith_inv
    | with_reducible apply writeDva_inv
    | with_reducible refine Inv.foldl _ (fun _ _ _ => ?_) ?_
    | with_reducible refine Inv.foldl2 _ (fun _ _ _ => ?_) ?_
    | with_reducible apply hK
    | with_reducible intro _
    | split
    | fail_if_no_progress (with_reducible (refine Inv.put rfl rfl rfl rfl rfl rfl rfl rfl rfl rfl rfl rfl rfl rfl rfl rfl ⟨rfl, rfl, rfl, rfl, rfl⟩ rfl rfl rfl rfl ?_))
    | dsimp only

theorem spdmOk_inv {K : Goals} {ρ : State} (code : Nat) (payload : List Nat) (s : State)  (hI : Inv K ρ s) : Inv K ρ (spdmOk code payload s) := by
  unfold spdmOk
  repeat' first
    | with_reducible assumption
    | with_reducible apply emit_inv

theorem spdmErr_inv {K : Goals} {ρ : State} (st : Status) (s : State)  (hI : Inv K ρ s) : Inv K ρ (spdmErr st s) := by
  unfold spdmErr
  repeat' first
    | with_reducible assumption
    | with_reducible apply emit_inv

theorem inOrder_inv {K : Goals} {ρ : State} (ok : Bool) (f : State → State) (s : State) (hK : ∀ t, Inv K ρ t → Inv K ρ (f t)) (hI : Inv K ρ s) : Inv K ρ (inOrder ok f s) := by
  unfold inOrder
  repeat' first
    | with_reducible assumption
    | with_reducible apply spdmErr_inv
    | with_reducible refine Inv.foldl _ (fun _ _ _ => ?_) ?_
    | with_reducible refine Inv.foldl2 _ (fun _ _ _ => ?_) ?_
    | with_reducible apply hK
    | with_reducible intro _
    | split

theorem setSpdm_inv {K : Goals} {ρ : State} (x : Spdm) (s : State)  (hI : Inv K ρ s) : Inv K ρ (setSpdm x s) := by
  unfold setSpdm
  repeat' first
    | with_reducible assumption
    | with_reducible refine Inv.foldl _ (fun _ _ _ => ?_) ?_
    | with_reducible refine Inv.foldl2 _ (fun _ _ _ => ?_) ?_
    | with_reducible apply hK
    | with_reducible intro _
    | split
    | fail_if_no_progress (with_reducible (refine Inv.put rfl rfl rfl rfl rfl rfl rfl rfl rfl rfl rfl rfl rfl rfl rfl rfl ⟨rfl, rfl, rfl, rfl, rfl⟩ rfl rfl rfl rfl ?_))

theorem getVersionSt_inv {K : Goals} {ρ : State} (s : State)  (hI : Inv K ρ s) : Inv K ρ (getVersionSt s) := by
  unfold getVersionSt
  repeat' first
    | with_reducible assumption
    | with_reducible apply inOrder_inv
    | with_reducible apply spdmOk_inv
    | with_reducible apply restart_inv
    | with_reducible refine Inv.foldl _ (fun _ _ _ => ?_) ?_
    | with_reducible refine Inv.foldl2 _ (fun _ _ _ => ?_) ?_
    | with_reducible apply hK
    | with_reducible intro _
    | split
    | fail_if_no_progress (with_reducible (refine Inv.put rfl rfl rfl rfl rfl rfl rfl rfl rfl rfl rfl rfl rfl rfl rfl rfl ⟨rfl, rfl, rfl, rfl, rfl⟩ rfl rfl rfl rfl ?_))

theorem withChain_inv {K : Goals} {ρ : State} (f : PubKey → State → State) (s : State) (hK : ∀ x0 t, Inv K ρ t → Inv K ρ (f x0 t)) (hI : Inv K ρ s) : Inv K ρ (withChain f s) := by
  unfold withChain
  repeat' first
    | with_reducible assumption
    | with_reducible apply inOrder_inv
    | with_reducible apply spdmErr_inv
    | with_reducible refine Inv.foldl _ (fun _ _ _ => ?_) ?_
    | with_reducible refine Inv.foldl2 _ (fun _ _ _ => ?_) ?_
    | with_reducible apply hK
    | with_reducible intro _
    | split

theorem getDigestsSt_inv {K : Goals} {ρ : State} (s : State)  (hI : Inv K ρ s) : Inv K ρ (getDigestsSt s) := by
  unfold getDigestsSt
  repeat' first
    | with_reducible assumption
    | with_reducible apply withChain_inv
    | with_reducible refine fresh_invE (by assumption) ?_
    | with_reducible apply fresh_inv
    | with_reducible apply spdmOk_inv
    | with_reducible refine Inv.foldl _ (fun _ _ _ => ?_) ?_
    | with_reducible refine Inv.foldl2 _ (fun _ _ _ => ?_) ?_
    | with_reducible apply hK
    | with_reducible intro _

theorem getCertSt_inv {K : Goals} {ρ : State} (slot : Nat) (s : State)  (hI : Inv K ρ s) : Inv K ρ (getCertSt slot s) := by
  unfold getCertSt
  repeat' first
    | with_reducible assumption
    | with_reducible apply withChain_inv
    | with_reducible apply spdmOk_inv
    | with_reducible apply spdmErr_inv
    | with_reducible refine Inv.foldl _ (fun _ _ _ => ?_) ?_
    | with_reducible refine Inv.foldl2 _ (fun _ _ _ => ?_) ?_
    | with_reducible apply hK
    | with_reducible intro _
    | split

theorem signedAnswer_inv {K : Goals} {ρ : State} (code : Nat) (r : SpdmReq) (bs : List Byte) (s : State)  (hI : Inv K ρ s) : Inv K ρ (signedAnswer code r bs s) := by
  unfold signedAnswer
  repeat' first
    | with_reducible assumption
    | with_reducible refine signWith_invE (by assumption) ?_
    | with_reducible apply signWith_inv
    | with_reducible apply spdmOk_inv

theorem challengeSt_inv {K : Goals} {ρ : State} (slot : Nat) (r : SpdmReq) (s : State)  (hI : Inv K ρ s) : Inv K ρ (challengeSt slot r s) := by
  unfold challengeSt
  repeat' first
    | with_reducible assumption
    | with_reducible apply withChain_inv
    | with_reducible apply signedAnswer_inv
    | with_reducible apply spdmErr_inv
    | with_reducible refine Inv.foldl _ (fun _ _ _ => ?_) ?_
    | with_reducible refine Inv.foldl2 _ (fun _ _ _ => ?_) ?_
    | with_reducible apply hK
    | with_reducible intro _
    | split

theorem measurementsSt_inv {K : Goals} {ρ : State} (r : SpdmReq) (s : State)  (hI : Inv K ρ s) : Inv K ρ (measurementsSt r s) := by
  unfold measurementsSt
  repeat' first
    | with_reducible assumption
    | with_reducible apply withChain_inv
    | with_reducible apply spdmErr_inv
    | with_reducible apply signedAnswer_inv
    | with_reducible refine Inv.foldl _ (fun _ _ _ => ?_) ?_
    | with_reducible refine Inv.foldl2 _ (fun _ _ _ => ?_) ?_
    | with_reducible apply hK
    | with_reducible intro _
    | split
    | fail_if_no_progress (with_reducible (refine Inv.put rfl rfl rfl rfl rfl rfl rfl rfl rfl rfl rfl rfl rfl rfl rfl rfl ⟨rfl, rfl, rfl, rfl, rfl⟩ rfl rfl rfl rfl ?_))
    | dsimp only

theorem keyExchangeSt_inv {K : Goals} {ρ : State} (r : SpdmReq) (s : State)  (hI : Inv K ρ s) : Inv K ρ (keyExchangeSt r s) := by
  unfold keyExchangeSt
  repeat' first
    | with_reducible assumption
    | with_reducible apply withChain_inv
    | with_reducible refine fresh_invE (by assumption) ?_
    | with_reducible apply fresh_inv
    | with_reducible apply signedAnswer_inv
    | with_reducible refine Inv.foldl _ (fun _ _ _ => ?_) ?_
    | with_reducible refine Inv.foldl2 _ (fun _ _ _ => ?_) ?_
    | with_reducible apply hK
    | with_reducible intro _
    | split
    | fail_if_no_progress (with_reducible (refine Inv.put rfl rfl rfl rfl rfl rfl rfl rfl rfl rfl rfl rfl rfl rfl rfl rfl ⟨rfl, rfl, rfl, rfl, rfl⟩ rfl rfl rfl rfl ?_))

theorem spdmFinishSt_inv {K : Goals} {ρ : State} (r : SpdmReq) (s : State)  (hI : Inv K ρ s) : Inv K ρ (spdmFinishSt r s) := by
  unfold spdmFinishSt
  repeat' first
    | with_reducible assumption
    | with_reducible apply inOrder_inv
    | with_reducible apply spdmOk_inv
    | with_reducible apply spdmErr_inv
    | with_reducible refine Inv.foldl _ (fun _ _ _ => ?_) ?_
    | with_reducible refine Inv.foldl2 _ (fun _ _ _ => ?_) ?_
    | with_reducible apply hK
    | with_reducible intro _
    | split
    | fail_if_no_progress (with_reducible (refine Inv.put rfl rfl rfl rfl rfl rfl rfl rfl rfl rfl rfl rfl rfl rfl rfl rfl ⟨rfl, rfl, rfl, rfl, rfl⟩ rfl rfl rfl rfl ?_))

theorem ideKm_inv {K : Goals} {ρ : State} (r : IdeKm) (s : State)  (hI : Inv K ρ s) : Inv K ρ (ideKm r s) := by
  unfold ideKm
  repeat' first
    | with_reducible assumption
    | with_reducible apply spdmOk_inv
    | with_reducible apply spdmErr_inv
    | with_reducible refine Inv.foldl _ (fun _ _ _ => ?_) ?_
    | with_reducible refine Inv.foldl2 _ (fun _ _ _ => ?_) ?_
    | with_reducible apply hK
    | with_reducible intro _
    | split
    | fail_if_no_progress (with_reducible (refine Inv.put rfl rfl rfl rfl rfl rfl rfl rfl rfl rfl rfl rfl rfl rfl rfl rfl ⟨rfl, rfl, rfl, rfl, rfl⟩ rfl rfl rfl rfl ?_))

theorem setTdi_inv {K : Goals} {ρ : State} (n : Nat) (x : Tdi) (s : State)  (hI : Inv K ρ s) : Inv K ρ (setTdi n x s) := by
  unfold setTdi
  repeat' first
    | with_reducible assumption
    | with_reducible refine Inv.foldl _ (fun _ _ _ => ?_) ?_
    | with_reducible refine Inv.foldl2 _ (fun _ _ _ => ?_) ?_
    | with_reducible apply hK
    | with_reducible intro _
    | split
    | fail_if_no_progress (with_reducible (refine Inv.put rfl rfl rfl rfl rfl rfl rfl rfl rfl rfl rfl rfl rfl rfl rfl rfl ⟨rfl, rfl, rfl, rfl, rfl⟩ rfl rfl rfl rfl ?_))

theorem tdispSt_inv {K : Goals} {ρ : State} (n : Nat) (ok : Bool) (x : Tdi) (s : State)  (hI : Inv K ρ s) : Inv K ρ (tdispSt n ok x s) := by
  unfold tdispSt
  repeat' first
    | with_reducible assumption
    | with_reducible apply emit_inv
    | with_reducible apply setTdi_inv
    | with_reducible refine Inv.foldl _ (fun _ _ _ => ?_) ?_
    | with_reducible refine Inv.foldl2 _ (fun _ _ _ => ?_) ?_
    | with_reducible apply hK
    | with_reducible intro _
    | split

theorem linkUpSt_inv {K : Goals} {ρ : State} (p : Nat) (s : State)  (hI : Inv K ρ s) : Inv K ρ (linkUpSt p s) := by
  unfold linkUpSt
  repeat' first
    | with_reducible assumption
    | with_reducible apply modPort_inv
    | with_reducible refine Inv.foldl _ (fun _ _ _ => ?_) ?_
    | with_reducible refine Inv.foldl2 _ (fun _ _ _ => ?_) ?_
    | with_reducible apply hK
    | with_reducible intro _
    | split
    | fail_if_no_progress (with_reducible (refine Inv.put rfl rfl rfl rfl rfl rfl rfl rfl rfl rfl rfl rfl rfl rfl rfl rfl ⟨rfl, rfl, rfl, rfl, rfl⟩ rfl rfl rfl rfl ?_))

theorem linkDownSt_inv {K : Goals} {ρ : State} (p : Nat) (s : State)  (hI : Inv K ρ s) : Inv K ρ (linkDownSt p s) := by
  unfold linkDownSt
  repeat' first
    | with_reducible assumption
    | with_reducible apply modPort_inv
    | with_reducible refine Inv.foldl _ (fun _ _ _ => ?_) ?_
    | with_reducible refine Inv.foldl2 _ (fun _ _ _ => ?_) ?_
    | with_reducible apply hK
    | with_reducible intro _
    | split

theorem foaRow_inv {K : Goals} {ρ : State} (m : Datagram) (k : FoaHead → FoaMsg → State → State) (s : State) (hK : ∀ x0 x1 t, Inv K ρ t → Inv K ρ (k x0 x1 t)) (hI : Inv K ρ s) : Inv K ρ (foaRow m k s) := by
  unfold foaRow
  repeat' first
    | with_reducible assumption
    | with_reducible apply dropAt_inv
    | with_reducible apply fromPort_inv
    | with_reducible refine Inv.foldl _ (fun _ _ _ => ?_) ?_
    | with_reducible refine Inv.foldl2 _ (fun _ _ _ => ?_) ?_
    | with_reducible apply hK
    | with_reducible intro _
    | split

theorem foaIn_inv {K : Goals} {ρ : State} (h : FoaHead) (k : State → State) (s : State) (hK : ∀ t, Inv K ρ t → Inv K ρ (k t)) (hI : Inv K ρ s) : Inv K ρ (foaIn h k s) := by
  unfold foaIn
  repeat' first
    | with_reducible assumption
    | with_reducible refine Inv.foldl _ (fun _ _ _ => ?_) ?_
    | with_reducible refine Inv.foldl2 _ (fun _ _ _ => ?_) ?_
    | with_reducible apply hK
    | with_reducible intro _
    | split
    | fail_if_no_progress (with_reducible (refine Inv.put rfl rfl rfl rfl rfl rfl rfl rfl rfl rfl rfl rfl rfl rfl rfl rfl ⟨rfl, rfl, rfl, rfl, rfl⟩ rfl rfl rfl rfl ?_))
    | dsimp only

theorem versionDrop_inv {K : Goals} {ρ : State} (s : State)  (hI : Inv K ρ s) : Inv K ρ (versionDrop s) := by
  unfold versionDrop
  repeat' first
    | with_reducible assumption
    | with_reducible refine Inv.foldl _ (fun _ _ _ => ?_) ?_
    | with_reducible refine Inv.foldl2 _ (fun _ _ _ => ?_) ?_
    | with_reducible apply hK
    | with_reducible intro _
    | split
    | fail_if_no_progress (with_reducible (refine Inv.put rfl rfl rfl rfl rfl rfl rfl rfl rfl rfl rfl rfl rfl rfl rfl rfl ⟨rfl, rfl, rfl, rfl, rfl⟩ rfl rfl rfl rfl ?_))

theorem fromUp_inv {K : Goals} {ρ : State} (h : FoaHead) (k : State → State) (s : State) (hK : ∀ t, Inv K ρ t → Inv K ρ (k t)) (hI : Inv K ρ s) : Inv K ρ (fromUp h k s) := by
  unfold fromUp
  repeat' first
    | with_reducible assumption
    | with_reducible apply foaIn_inv
    | with_reducible apply versionDrop_inv
    | with_reducible refine Inv.foldl _ (fun _ _ _ => ?_) ?_
    | with_reducible refine Inv.foldl2 _ (fun _ _ _ => ?_) ?_
    | with_reducible apply hK
    | with_reducible intro _
    | split
    | fail_if_no_progress (with_reducible (refine Inv.put rfl rfl rfl rfl rfl rfl rfl rfl rfl rfl rfl rfl rfl rfl rfl rfl ⟨rfl, rfl, rfl, rfl, rfl⟩ rfl rfl rfl rfl ?_))
    | dsimp only

theorem fromPeer_inv {K : Goals} {ρ : State} (h : FoaHead) (k : Peer → State → State) (s : State) (hK : ∀ x0 t, Inv K ρ t → Inv K ρ (k x0 t)) (hI : Inv K ρ s) : Inv K ρ (fromPeer h k s) := by
  unfold fromPeer
  repeat' first
    | with_reducible assumption
    | with_reducible apply foaIn_inv
    | with_reducible apply versionDrop_inv
    | with_reducible refine Inv.foldl _ (fun _ _ _ => ?_) ?_
    | with_reducible refine Inv.foldl2 _ (fun _ _ _ => ?_) ?_
    | with_reducible apply hK
    | with_reducible intro _
    | split
    | fail_if_no_progress (with_reducible (refine Inv.put rfl rfl rfl rfl rfl rfl rfl rfl rfl rfl rfl rfl rfl rfl rfl rfl ⟨rfl, rfl, rfl, rfl, rfl⟩ rfl rfl rfl rfl ?_))
    | dsimp only

theorem helloMsgSt_inv {K : Goals} {ρ : State} (h : FoaHead) (minV maxV : Nat) (s : State)  (hI : Inv K ρ s) : Inv K ρ (helloMsgSt h minV maxV s) := by
  unfold helloMsgSt
  repeat' first
    | with_reducible assumption
    | with_reducible apply fromPeer_inv
    | with_reducible apply sendChip_inv
    | with_reducible apply setPeer_inv
    | with_reducible refine Inv.foldl _ (fun _ _ _ => ?_) ?_
    | with_reducible refine Inv.foldl2 _ (fun _ _ _ => ?_) ?_
    | with_reducible apply hK
    | with_reducible intro _

theorem helloAckSt_inv {K : Goals} {ρ : State} (h : FoaHead) (minV maxV : Nat) (s : State)  (hI : Inv K ρ s) : Inv K ρ (helloAckSt h minV maxV s) := by
  unfold helloAckSt
  repeat' first
    | with_reducible assumption
    | with_reducible apply fromPeer_inv
    | with_reducible apply setPeer_inv
    | with_reducible refine Inv.foldl _ (fun _ _ _ => ?_) ?_
    | with_reducible refine Inv.foldl2 _ (fun _ _ _ => ?_) ?_
    | with_reducible apply hK
    | with_reducible intro _
    | split

theorem heartbeatSt_inv {K : Goals} {ρ : State} (h : FoaHead) (s : State)  (hI : Inv K ρ s) : Inv K ρ (heartbeatSt h s) := by
  unfold heartbeatSt
  repeat' first
    | with_reducible assumption
    | with_reducible apply fromPeer_inv
    | with_reducible apply setPeer_inv
    | with_reducible refine Inv.foldl _ (fun _ _ _ => ?_) ?_
    | with_reducible refine Inv.foldl2 _ (fun _ _ _ => ?_) ?_
    | with_reducible apply hK
    | with_reducible intro _

theorem abortJobOn_inv {K : Goals} {ρ : State} (n slot : Nat) (reason : Status) (at_ : Nat) (s : State)  (hI : Inv K ρ s) : Inv K ρ (abortJobOn n slot reason at_ s) := by
  unfold abortJobOn
  repeat' first
    | with_reducible assumption
    | with_reducible apply sendAborts_inv
    | with_reducible refine Inv.foldl _ (fun _ _ _ => ?_) ?_
    | with_reducible refine Inv.foldl2 _ (fun _ _ _ => ?_) ?_
    | with_reducible apply hK
    | with_reducible intro _
    | split
    | fail_if_no_progress (with_reducible (refine Inv.put rfl rfl rfl rfl rfl rfl rfl rfl rfl rfl rfl rfl rfl rfl rfl rfl ⟨rfl, rfl, rfl, rfl, rfl⟩ rfl rfl rfl rfl ?_))
    | dsimp only

theorem peerLossSt_inv {K : Goals} {ρ : State} (c : Nat) (s : State)  (hI : Inv K ρ s) : Inv K ρ (peerLossSt c s) := by
  unfold peerLossSt
  repeat' first
    | with_reducible assumption
    | with_reducible apply setPeer_inv
    | with_reducible apply msix_inv
    | with_reducible apply event_inv
    | with_reducible apply abortJobOn_inv
    | with_reducible refine Inv.foldl _ (fun _ _ _ => ?_) ?_
    | with_reducible refine Inv.foldl2 _ (fun _ _ _ => ?_) ?_
    | with_reducible apply hK
    | with_reducible intro _
    | split
    | fail_if_no_progress (with_reducible (refine Inv.put rfl rfl rfl rfl rfl rfl rfl rfl rfl rfl rfl rfl rfl rfl rfl rfl ⟨rfl, rfl, rfl, rfl, rfl⟩ rfl rfl rfl rfl ?_))
    | dsimp only

theorem peerEnableSt_inv {K : Goals} {ρ : State} (c : Nat) (v : Word) (s : State)  (hI : Inv K ρ s) : Inv K ρ (peerEnableSt c v s) := by
  unfold peerEnableSt
  repeat' first
    | with_reducible assumption
    | with_reducible apply setPeer_inv
    | with_reducible refine Inv.foldl _ (fun _ _ _ => ?_) ?_
    | with_reducible refine Inv.foldl2 _ (fun _ _ _ => ?_) ?_
    | with_reducible apply hK
    | with_reducible intro _
    | split
    | fail_if_no_progress (with_reducible (refine Inv.put rfl rfl rfl rfl rfl rfl rfl rfl rfl rfl rfl rfl rfl rfl rfl rfl ⟨rfl, rfl, rfl, rfl, rfl⟩ rfl rfl rfl rfl ?_))
    | dsimp only

theorem serve_inv {K : Goals} {ρ : State} (h : FoaHead) (b : GatherBody) (e : ExportEnt) (slot : Nat) (s : State)  (hI : Inv K ρ s) : Inv K ρ (serve h b e slot s) := by
  unfold serve
  repeat' first
    | with_reducible assumption
    | with_reducible refine Inv.foldl _ (fun _ _ _ => ?_) ?_
    | with_reducible refine Inv.foldl2 _ (fun _ _ _ => ?_) ?_
    | with_reducible apply hK
    | with_reducible intro _
    | split
    | fail_if_no_progress (with_reducible (refine Inv.put rfl rfl rfl rfl rfl rfl rfl rfl rfl rfl rfl rfl rfl rfl rfl rfl ⟨rfl, rfl, rfl, rfl, rfl⟩ rfl rfl rfl rfl ?_))

theorem gatherReqSt_inv {K : Goals} {ρ : State} (h : FoaHead) (b : GatherBody) (s : State)  (hI : Inv K ρ s) : Inv K ρ (gatherReqSt h b s) := by
  unfold gatherReqSt
  repeat' first
    | with_reducible assumption
    | with_reducible apply fromUp_inv
    | with_reducible apply nakTo_inv
    | with_reducible apply serve_inv
    | with_reducible refine Inv.foldl _ (fun _ _ _ => ?_) ?_
    | with_reducible refine Inv.foldl2 _ (fun _ _ _ => ?_) ?_
    | with_reducible apply hK
    | with_reducible intro _
    | split
    | fail_if_no_progress (with_reducible (refine Inv.put rfl rfl rfl rfl rfl rfl rfl rfl rfl rfl rfl rfl rfl rfl rfl rfl ⟨rfl, rfl, rfl, rfl, rfl⟩ rfl rfl rfl rfl ?_))
    | dsimp only

theorem freshAnswer_inv {K : Goals} {ρ : State} (h : FoaHead) (k : State → State) (s : State) (hK : ∀ t, Inv K ρ t → Inv K ρ (k t)) (hI : Inv K ρ s) : Inv K ρ (freshAnswer h k s) := by
  unfold freshAnswer
  repeat' first
    | with_reducible assumption
    | with_reducible refine Inv.foldl _ (fun _ _ _ => ?_) ?_
    | with_reducible refine Inv.foldl2 _ (fun _ _ _ => ?_) ?_
    | with_reducible apply hK
    | with_reducible intro _
    | split
    | fail_if_no_progress (with_reducible (refine Inv.put rfl rfl rfl rfl rfl rfl rfl rfl rfl rfl rfl rfl rfl rfl rfl rfl ⟨rfl, rfl, rfl, rfl, rfl⟩ rfl rfl rfl rfl ?_))

theorem modOut_inv {K : Goals} {ρ : State} (tag : Nat) (f : OutReq → OutReq) (s : State)  (hI : Inv K ρ s) : Inv K ρ (modOut tag f s) := by
  unfold modOut
  repeat' first
    | with_reducible assumption
    | with_reducible refine Inv.foldl _ (fun _ _ _ => ?_) ?_
    | with_reducible refine Inv.foldl2 _ (fun _ _ _ => ?_) ?_
    | with_reducible apply hK
    | with_reducible intro _
    | split
    | fail_if_no_progress (with_reducible (refine Inv.put rfl rfl rfl rfl rfl rfl rfl rfl rfl rfl rfl rfl rfl rfl rfl rfl ⟨rfl, rfl, rfl, rfl, rfl⟩ rfl rfl rfl rfl ?_))

theorem gatherDone_inv {K : Goals} {ρ : State} (o : OutReq) (terms : Nat) (s : State)  (hI : Inv K ρ s) : Inv K ρ (gatherDone o terms s) := by
  unfold gatherDone
  repeat' first
    | with_reducible assumption
    | with_reducible apply modStep_inv
    | with_reducible apply tryFinish_inv
    | with_reducible refine Inv.foldl _ (fun _ _ _ => ?_) ?_
    | with_reducible refine Inv.foldl2 _ (fun _ _ _ => ?_) ?_
    | with_reducible apply hK
    | with_reducible intro _
    | split
    | fail_if_no_progress (with_reducible (refine Inv.put rfl rfl rfl rfl rfl rfl rfl rfl rfl rfl rfl rfl rfl rfl rfl rfl ⟨rfl, rfl, rfl, rfl, rfl⟩ rfl rfl rfl rfl ?_))

theorem columnFail_inv {K : Goals} {ρ : State} (id count : Nat) (s : State)  (hI : Inv K ρ s) : Inv K ρ (columnFail id count s) := by
  unfold columnFail
  repeat' first
    | with_reducible assumption
    | with_reducible apply modStep_inv
    | with_reducible apply killStep_inv
    | with_reducible apply restart_inv
    | with_reducible refine Inv.foldl _ (fun _ _ _ => ?_) ?_
    | with_reducible refine Inv.foldl2 _ (fun _ _ _ => ?_) ?_
    | with_reducible apply hK
    | with_reducible intro _
    | split
    | fail_if_no_progress (with_reducible (refine Inv.put rfl rfl rfl rfl rfl rfl rfl rfl rfl rfl rfl rfl rfl rfl rfl rfl ⟨rfl, rfl, rfl, rfl, rfl⟩ rfl rfl rfl rfl ?_))
    | dsimp only

theorem replyBody_inv {K : Goals} {ρ : State} (o : OutReq) (dim : Nat) (b : ReplyBody) (s : State)  (hI : Inv K ρ s) : Inv K ρ (replyBody o dim b s) := by
  unfold replyBody
  repeat' first
    | with_reducible assumption
    | with_reducible apply columnFail_inv
    | with_reducible apply gatherDone_inv
    | with_reducible apply modOut_inv
    | with_reducible refine Inv.foldl _ (fun _ _ _ => ?_) ?_
    | with_reducible refine Inv.foldl2 _ (fun _ _ _ => ?_) ?_
    | with_reducible apply hK
    | with_reducible intro _
    | split
    | fail_if_no_progress (with_reducible (refine Inv.put rfl rfl rfl rfl rfl rfl rfl rfl rfl rfl rfl rfl rfl rfl rfl rfl ⟨rfl, rfl, rfl, rfl, rfl⟩ rfl rfl rfl rfl ?_))
    | dsimp only

theorem gatherReplySt_inv {K : Goals} {ρ : State} (h : FoaHead) (b : ReplyBody) (s : State)  (hI : Inv K ρ s) : Inv K ρ (gatherReplySt h b s) := by
  unfold gatherReplySt
  repeat' first
    | with_reducible assumption
    | with_reducible apply fromUp_inv
    | with_reducible apply freshAnswer_inv
    | with_reducible apply fillBe_inv
    | with_reducible apply replyBody_inv
    | with_reducible refine Inv.foldl _ (fun _ _ _ => ?_) ?_
    | with_reducible refine Inv.foldl2 _ (fun _ _ _ => ?_) ?_
    | with_reducible apply hK
    | with_reducible intro _
    | split

theorem refuseGather_inv {K : Goals} {ρ : State} (o : OutReq) (st : Status) (s : State)  (hI : Inv K ρ s) : Inv K ρ (refuseGather o st s) := by
  unfold refuseGather
  repeat' first
    | with_reducible assumption
    | with_reducible apply modStep_inv
    | with_reducible apply tryFinish_inv
    | with_reducible refine Inv.foldl _ (fun _ _ _ => ?_) ?_
    | with_reducible refine Inv.foldl2 _ (fun _ _ _ => ?_) ?_
    | with_reducible apply hK
    | with_reducible intro _
    | split
    | fail_if_no_progress (with_reducible (refine Inv.put rfl rfl rfl rfl rfl rfl rfl rfl rfl rfl rfl rfl rfl rfl rfl rfl ⟨rfl, rfl, rfl, rfl, rfl⟩ rfl rfl rfl rfl ?_))

theorem nakSt_inv {K : Goals} {ρ : State} (h : FoaHead) (tag : Nat) (st : Status) (epoch : Nat) (s : State)  (hI : Inv K ρ s) : Inv K ρ (nakSt h tag st epoch s) := by
  unfold nakSt
  repeat' first
    | with_reducible assumption
    | with_reducible apply fromUp_inv
    | with_reducible apply freshAnswer_inv
    | with_reducible apply fillBe_inv
    | with_reducible apply refuseGather_inv
    | with_reducible refine Inv.foldl _ (fun _ _ _ => ?_) ?_
    | with_reducible refine Inv.foldl2 _ (fun _ _ _ => ?_) ?_
    | with_reducible apply hK
    | with_reducible intro _
    | split
    | fail_if_no_progress (with_reducible (refine Inv.put rfl rfl rfl rfl rfl rfl rfl rfl rfl rfl rfl rfl rfl rfl rfl rfl ⟨rfl, rfl, rfl, rfl, rfl⟩ rfl rfl rfl rfl ?_))

theorem retransmitSt_inv {K : Goals} {ρ : State} (tag : Nat) (s : State)  (hI : Inv K ρ s) : Inv K ρ (retransmitSt tag s) := by
  unfold retransmitSt
  repeat' first
    | with_reducible assumption
    | with_reducible apply modOut_inv
    | with_reducible apply foaSend_inv
    | with_reducible refine Inv.foldl _ (fun _ _ _ => ?_) ?_
    | with_reducible refine Inv.foldl2 _ (fun _ _ _ => ?_) ?_
    | with_reducible apply hK
    | with_reducible intro _
    | split
    | fail_if_no_progress (with_reducible (refine Inv.put rfl rfl rfl rfl rfl rfl rfl rfl rfl rfl rfl rfl rfl rfl rfl rfl ⟨rfl, rfl, rfl, rfl, rfl⟩ rfl rfl rfl rfl ?_))

theorem noteSt_inv {K : Goals} {ρ : State} (n slot who : Nat) (b : NoteBody) (s : State)  (hI : Inv K ρ s) : Inv K ρ (noteSt n slot who b s) := by
  unfold noteSt
  repeat' first
    | with_reducible assumption
    | with_reducible apply addDigest_inv
    | with_reducible refine Inv.foldl _ (fun _ _ _ => ?_) ?_
    | with_reducible refine Inv.foldl2 _ (fun _ _ _ => ?_) ?_
    | with_reducible apply hK
    | with_reducible intro _
    | split
    | fail_if_no_progress (with_reducible (refine Inv.put rfl rfl rfl rfl rfl rfl rfl rfl rfl rfl rfl rfl rfl rfl rfl rfl ⟨rfl, rfl, rfl, rfl, rfl⟩ rfl rfl rfl rfl ?_))

theorem digestNoteSt_inv {K : Goals} {ρ : State} (h : FoaHead) (b : NoteBody) (s : State)  (hI : Inv K ρ s) : Inv K ρ (digestNoteSt h b s) := by
  unfold digestNoteSt
  repeat' first
    | with_reducible assumption
    | with_reducible apply fromUp_inv
    | with_reducible apply noteSt_inv
    | with_reducible refine Inv.foldl _ (fun _ _ _ => ?_) ?_
    | with_reducible refine Inv.foldl2 _ (fun _ _ _ => ?_) ?_
    | with_reducible apply hK
    | with_reducible intro _
    | split
    | fail_if_no_progress (with_reducible (refine Inv.put rfl rfl rfl rfl rfl rfl rfl rfl rfl rfl rfl rfl rfl rfl rfl rfl ⟨rfl, rfl, rfl, rfl, rfl⟩ rfl rfl rfl rfl ?_))
    | dsimp only

theorem jobAbortSt_inv {K : Goals} {ρ : State} (h : FoaHead) (abortTick : Nat) (reason : Status) (s : State)  (hI : Inv K ρ s) : Inv K ρ (jobAbortSt h abortTick reason s) := by
  unfold jobAbortSt
  repeat' first
    | with_reducible assumption
    | with_reducible apply fromUp_inv
    | with_reducible apply foaSend_inv
    | with_reducible apply setJob_inv
    | with_reducible refine Inv.foldl _ (fun _ _ _ => ?_) ?_
    | with_reducible refine Inv.foldl2 _ (fun _ _ _ => ?_) ?_
    | with_reducible apply hK
    | with_reducible intro _
    | split
    | fail_if_no_progress (with_reducible (refine Inv.put rfl rfl rfl rfl rfl rfl rfl rfl rfl rfl rfl rfl rfl rfl rfl rfl ⟨rfl, rfl, rfl, rfl, rfl⟩ rfl rfl rfl rfl ?_))
    | dsimp only

theorem abortAckSt_inv {K : Goals} {ρ : State} (h : FoaHead) (s : State)  (hI : Inv K ρ s) : Inv K ρ (abortAckSt h s) := by
  unfold abortAckSt
  repeat' first
    | with_reducible assumption
    | with_reducible apply fromUp_inv
    | with_reducible refine Inv.foldl _ (fun _ _ _ => ?_) ?_
    | with_reducible refine Inv.foldl2 _ (fun _ _ _ => ?_) ?_
    | with_reducible apply hK
    | with_reducible intro _
    | split
    | fail_if_no_progress (with_reducible (refine Inv.put rfl rfl rfl rfl rfl rfl rfl rfl rfl rfl rfl rfl rfl rfl rfl rfl ⟨rfl, rfl, rfl, rfl, rfl⟩ rfl rfl rfl rfl ?_))

theorem slotAbortSt_inv {K : Goals} {ρ : State} (n slot : Nat) (s : State)  (hI : Inv K ρ s) : Inv K ρ (slotAbortSt n slot s) := by
  unfold slotAbortSt
  repeat' first
    | with_reducible assumption
    | with_reducible apply abortJob_inv
    | with_reducible refine Inv.foldl _ (fun _ _ _ => ?_) ?_
    | with_reducible refine Inv.foldl2 _ (fun _ _ _ => ?_) ?_
    | with_reducible apply hK
    | with_reducible intro _
    | split

theorem abortTickSt_inv {K : Goals} {ρ : State} (n slot : Nat) (s : State)  (hI : Inv K ρ s) : Inv K ρ (abortTickSt n slot s) := by
  unfold abortTickSt
  repeat' first
    | with_reducible assumption
    | with_reducible apply setJob_inv
    | with_reducible apply killAll_inv
    | with_reducible apply touchQueue_inv
    | with_reducible apply dropHeld_inv
    | with_reducible refine Inv.foldl _ (fun _ _ _ => ?_) ?_
    | with_reducible refine Inv.foldl2 _ (fun _ _ _ => ?_) ?_
    | with_reducible apply hK
    | with_reducible intro _
    | split
    | fail_if_no_progress (with_reducible (refine Inv.put rfl rfl rfl rfl rfl rfl rfl rfl rfl rfl rfl rfl rfl rfl rfl rfl ⟨rfl, rfl, rfl, rfl, rfl⟩ rfl rfl rfl rfl ?_))
    | dsimp only

theorem jobCloseSt_inv {K : Goals} {ρ : State} (n slot : Nat) (s : State)  (hI : Inv K ρ s) : Inv K ρ (jobCloseSt n slot s) := by
  unfold jobCloseSt
  repeat' first
    | with_reducible assumption
    | with_reducible apply setJob_inv
    | with_reducible refine Inv.foldl _ (fun _ _ _ => ?_) ?_
    | with_reducible refine Inv.foldl2 _ (fun _ _ _ => ?_) ?_
    | with_reducible apply hK
    | with_reducible intro _
    | split
    | fail_if_no_progress (with_reducible (refine Inv.put rfl rfl rfl rfl rfl rfl rfl rfl rfl rfl rfl rfl rfl rfl rfl rfl ⟨rfl, rfl, rfl, rfl, rfl⟩ rfl rfl rfl rfl ?_))
    | dsimp only

theorem offsetSample_inv {K : Goals} {ρ : State} (raw : Int) (s : State) (htb : K.tb = false) (hI : Inv K ρ s) : Inv K ρ (offsetSample raw s) := by
  unfold offsetSample
  dsimp only
  split
  · exact hI.setTb htb fun l => ⟨regrid_slot _, l.period, l.rail.2.2⟩
  · exact hI.setTb htb fun l => ⟨l.slot, l.period, l.rail.2.2⟩

theorem stamp_inv {K : Goals} {ρ : State} (s : State)  (hI : Inv K ρ s) : Inv K ρ (stamp s).2 := by
  unfold stamp
  repeat' first
    | with_reducible assumption
    | with_reducible refine fresh_invE (by assumption) ?_
    | with_reducible apply fresh_inv

theorem stamp_invE {K : Goals} {ρ : State} {s : State} {xa xu} (hE : stamp s = (xa, xu))  (hI : Inv K ρ s) : Inv K ρ xu := by
  have h := stamp_inv s  hI
  rw [hE] at h
  exact h

theorem syncSample_inv {K : Goals} {ρ : State} (arrival origin : Int) (s : State) (htb : K.tb = false) (hI : Inv K ρ s) : Inv K ρ (syncSample arrival origin s) := by
  unfold syncSample
  extract_lets _ u
  have hu : Inv K ρ u := by
    refine offsetSample_inv _ _ htb ?_
    exact hI.setTb htb fun l => ⟨l.slot, l.period, l.rail.2.2⟩
  clear_value u
  split
  rename_i t v hv
  refine emit_inv _ _ ?_
  exact (stamp_invE hv hu).setTb htb fun l => ⟨l.slot, l.period, l.rail.2.2⟩

theorem ptpRow_inv {K : Goals} {ρ : State} (p domain parity : Nat) (k : State → State) (s : State) (hK : ∀ t, Inv K ρ t → Inv K ρ (k t)) (hI : Inv K ρ s) : Inv K ρ (ptpRow p domain parity k s) := by
  unfold ptpRow
  repeat' first
    | with_reducible assumption
    | with_reducible apply fromPort_inv
    | with_reducible apply dropAt_inv
    | with_reducible refine Inv.foldl _ (fun _ _ _ => ?_) ?_
    | with_reducible refine Inv.foldl2 _ (fun _ _ _ => ?_) ?_
    | with_reducible apply hK
    | with_reducible intro _
    | split

theorem syncMsgSt_inv {K : Goals} {ρ : State} (twoStep : Bool) (origin : Int) (s : State)  (htb : K.tb = false) (hI : Inv K ρ s) : Inv K ρ (syncMsgSt twoStep origin s) := by
  unfold syncMsgSt
  repeat' first
    | with_reducible assumption
    | with_reducible refine stamp_invE (by assumption) ?_
    | with_reducible apply stamp_inv
    | with_reducible apply syncSample_inv
    | with_reducible refine Inv.foldl _ (fun _ _ _ => ?_) ?_
    | with_reducible refine Inv.foldl2 _ (fun _ _ _ => ?_) ?_
    | with_reducible apply hK
    | with_reducible intro _
    | split
    | fail_if_no_progress (with_reducible (refine Inv.put rfl rfl rfl rfl rfl rfl rfl rfl rfl rfl rfl rfl rfl rfl rfl rfl ⟨rfl, rfl, rfl, rfl, rfl⟩ rfl rfl rfl rfl ?_))
    | fail_if_no_progress (with_reducible (refine Inv.upd rfl rfl rfl rfl rfl rfl rfl rfl rfl rfl rfl rfl rfl rfl rfl rfl rfl rfl (fun k => Groups.no htb k) (fun _ => ⟨rfl, rfl, rfl⟩) (fun _ => ⟨rfl, rfl, rfl⟩) (fun _ => rfl) (fun _ => ⟨rfl, rfl⟩) ?_))

theorem followUpSt_inv {K : Goals} {ρ : State} (origin : Int) (s : State)  (htb : K.tb = false) (hI : Inv K ρ s) : Inv K ρ (followUpSt origin s) := by
  unfold followUpSt
  repeat' first
    | with_reducible assumption
    | with_reducible apply syncSample_inv
    | with_reducible refine Inv.foldl _ (fun _ _ _ => ?_) ?_
    | with_reducible refine Inv.foldl2 _ (fun _ _ _ => ?_) ?_
    | with_reducible apply hK
    | with_reducible intro _
    | split

theorem delayRespSt_inv {K : Goals} {ρ : State} (received : Int) (s : State)  (htb : K.tb = false) (hI : Inv K ρ s) : Inv K ρ (delayRespSt received s) := by
  unfold delayRespSt
  repeat' first
    | with_reducible assumption
    | with_reducible refine Inv.foldl _ (fun _ _ _ => ?_) ?_
    | with_reducible refine Inv.foldl2 _ (fun _ _ _ => ?_) ?_
    | with_reducible apply hK
    | with_reducible intro _
    | split
    | fail_if_no_progress (with_reducible (refine Inv.put rfl rfl rfl rfl rfl rfl rfl rfl rfl rfl rfl rfl rfl rfl rfl rfl ⟨rfl, rfl, rfl, rfl, rfl⟩ rfl rfl rfl rfl ?_))
    | fail_if_no_progress (with_reducible (refine Inv.upd rfl rfl rfl rfl rfl rfl rfl rfl rfl rfl rfl rfl rfl rfl rfl rfl rfl rfl (fun k => Groups.no htb k) (fun _ => ⟨rfl, rfl, rfl⟩) (fun _ => ⟨rfl, rfl, rfl⟩) (fun _ => rfl) (fun _ => ⟨rfl, rfl⟩) ?_))

theorem modSession_inv {K : Goals} {ρ : State} (id : Nat) (f : Session → Session) (s : State)  (hI : Inv K ρ s) : Inv K ρ (modSession id f s) := by
  unfold modSession
  repeat' first
    | with_reducible assumption
    | with_reducible refine Inv.foldl _ (fun _ _ _ => ?_) ?_
    | with_reducible refine Inv.foldl2 _ (fun _ _ _ => ?_) ?_
    | with_reducible apply hK
    | with_reducible intro _
    | split
    | fail_if_no_progress (with_reducible (refine Inv.put rfl rfl rfl rfl rfl rfl rfl rfl rfl rfl rfl rfl rfl rfl rfl rfl ⟨rfl, rfl, rfl, rfl, rfl⟩ rfl rfl rfl rfl ?_))

theorem walkArea_inv {K : Goals} {ρ : State} (n : Nat) (host : HostView) (g : Rng) (s : State)  (hI : Inv K ρ s) : Inv K ρ (walkArea n host g s) := by
  unfold walkArea
  repeat' first
    | with_reducible assumption
    | with_reducible apply countWalks_inv
    | with_reducible refine Inv.foldl _ (fun _ _ _ => ?_) ?_
    | with_reducible refine Inv.foldl2 _ (fun _ _ _ => ?_) ?_
    | with_reducible apply hK
    | with_reducible intro _
    | split

theorem intakeReply_inv {K : Goals} {ρ : State} (m : IntakeMsg) (session type : Nat) (payload : List Byte) (s : State)  (hI : Inv K ρ s) : Inv K ρ (intakeReply m session type payload s) := by
  unfold intakeReply
  repeat' first
    | with_reducible assumption
    | with_reducible refine takeSeq_invE (by assumption) ?_
    | with_reducible apply takeSeq_inv
    | with_reducible apply emit_inv
    | with_reducible refine Inv.foldl _ (fun _ _ _ => ?_) ?_
    | with_reducible refine Inv.foldl2 _ (fun _ _ _ => ?_) ?_
    | with_reducible apply hK
    | with_reducible intro _
    | split

theorem refuseReq_inv {K : Goals} {ρ : State} (n : Nat) (m : IntakeMsg) (q : IntakeReq) (st : Status) (s : State)  (hI : Inv K ρ s) : Inv K ρ (refuseReq n m q st s) := by
  unfold refuseReq
  repeat' first
    | with_reducible assumption
    | with_reducible apply modHr_inv
    | with_reducible apply intakeReply_inv
    | with_reducible refine Inv.foldl _ (fun _ _ _ => ?_) ?_
    | with_reducible refine Inv.foldl2 _ (fun _ _ _ => ?_) ?_
    | with_reducible apply hK
    | with_reducible intro _
    | split
    | fail_if_no_progress (with_reducible (refine Inv.put rfl rfl rfl rfl rfl rfl rfl rfl rfl rfl rfl rfl rfl rfl rfl rfl ⟨rfl, rfl, rfl, rfl, rfl⟩ rfl rfl rfl rfl ?_))

theorem writeSlot_inv {K : Goals} {ρ : State} (n i : Nat) (q : IntakeReq) (deadline : Nat) (s : State)  (hI : Inv K ρ s) : Inv K ρ (writeSlot n i q deadline s) := by
  unfold writeSlot
  repeat' first
    | with_reducible assumption
    | with_reducible refine fresh_invE (by assumption) ?_
    | with_reducible apply fresh_inv
    | with_reducible apply writeDva_inv

theorem admitReq_inv {K : Goals} {ρ : State} (n : Nat) (m : IntakeMsg) (q : IntakeReq) (places : List Placement) (xs : List Xlat) (s : State)  (hI : Inv K ρ s) : Inv K ρ (admitReq n m q places xs s) := by
  unfold admitReq
  repeat' first
    | with_reducible assumption
    | with_reducible apply walkArea_inv
    | with_reducible apply modHr_inv
    | with_reducible apply writeSlot_inv
    | with_reducible apply intakeReply_inv
    | with_reducible refine Inv.foldl _ (fun _ _ _ => ?_) ?_
    | with_reducible refine Inv.foldl2 _ (fun _ _ _ => ?_) ?_
    | with_reducible apply hK
    | with_reducible intro _
    | split
    | fail_if_no_progress (with_reducible (refine Inv.put rfl rfl rfl rfl rfl rfl rfl rfl rfl rfl rfl rfl rfl rfl rfl rfl ⟨rfl, rfl, rfl, rfl, rfl⟩ rfl rfl rfl rfl ?_))

theorem requestSt_inv {K : Goals} {ρ : State} (m : IntakeMsg) (s : State)  (hI : Inv K ρ s) : Inv K ρ (requestSt m s) := by
  unfold requestSt
  repeat' first
    | with_reducible assumption
    | with_reducible apply dropAt_inv
    | with_reducible apply fromPort_inv
    | with_reducible apply modSession_inv
    | with_reducible apply walkArea_inv
    | with_reducible apply refuseReq_inv
    | with_reducible apply admitReq_inv
    | with_reducible refine Inv.foldl _ (fun _ _ _ => ?_) ?_
    | with_reducible refine Inv.foldl2 _ (fun _ _ _ => ?_) ?_
    | with_reducible apply hK
    | with_reducible intro _
    | split
    | fail_if_no_progress (with_reducible (refine Inv.put rfl rfl rfl rfl rfl rfl rfl rfl rfl rfl rfl rfl rfl rfl rfl rfl ⟨rfl, rfl, rfl, rfl, rfl⟩ rfl rfl rfl rfl ?_))
    | dsimp only

theorem deadlineSt_inv {K : Goals} {ρ : State} (n i : Nat) (s : State)  (hI : Inv K ρ s) : Inv K ρ (deadlineSt n i s) := by
  unfold deadlineSt
  repeat' first
    | with_reducible assumption
    | with_reducible apply failReq_inv
    | with_reducible refine Inv.foldl _ (fun _ _ _ => ?_) ?_
    | with_reducible refine Inv.foldl2 _ (fun _ _ _ => ?_) ?_
    | with_reducible apply hK
    | with_reducible intro _
    | split

theorem armInject_inv {K : Goals} {ρ : State} (s : State)  (hI : Inv K ρ s) : Inv K ρ (armInject s) := by
  unfold armInject
  repeat' first
    | with_reducible assumption
    | with_reducible refine Inv.foldl _ (fun _ _ _ => ?_) ?_
    | with_reducible refine Inv.foldl2 _ (fun _ _ _ => ?_) ?_
    | with_reducible apply hK
    | with_reducible intro _
    | split
    | fail_if_no_progress (with_reducible (refine Inv.put rfl rfl rfl rfl rfl rfl rfl rfl rfl rfl rfl rfl rfl rfl rfl rfl ⟨rfl, rfl, rfl, rfl, rfl⟩ rfl rfl rfl rfl ?_))

theorem injectWrite_inv {K : Goals} {ρ : State} (v : Nat) (s : State)  (hI : Inv K ρ s) : Inv K ρ (injectWrite v s) := by
  unfold injectWrite
  repeat' first
    | with_reducible assumption
    | with_reducible apply armInject_inv
    | with_reducible refine Inv.foldl _ (fun _ _ _ => ?_) ?_
    | with_reducible refine Inv.foldl2 _ (fun _ _ _ => ?_) ?_
    | with_reducible apply hK
    | with_reducible intro _
    | split
    | fail_if_no_progress (with_reducible (refine Inv.put rfl rfl rfl rfl rfl rfl rfl rfl rfl rfl rfl rfl rfl rfl rfl rfl ⟨rfl, rfl, rfl, rfl, rfl⟩ rfl rfl rfl rfl ?_))

theorem unfenceWrite_inv {K : Goals} {ρ : State} (i v : Nat) (s : State)  (hI : Inv K ρ s) : Inv K ρ (unfenceWrite i v s) := by
  unfold unfenceWrite
  repeat' first
    | with_reducible assumption
    | with_reducible refine Inv.foldl _ (fun _ _ _ => ?_) ?_
    | with_reducible refine Inv.foldl2 _ (fun _ _ _ => ?_) ?_
    | with_reducible apply hK
    | with_reducible intro _
    | split
    | fail_if_no_progress (with_reducible (refine Inv.put rfl rfl rfl rfl rfl rfl rfl rfl rfl rfl rfl rfl rfl rfl rfl rfl ⟨rfl, rfl, rfl, rfl, rfl⟩ rfl rfl rfl rfl ?_))

theorem clockWrite_inv {K : Goals} {ρ : State} (v : Nat) (s : State) (hI : Inv K ρ s) : Inv K ρ (clockWrite v s) := by
  unfold clockWrite
  have h : Inv K ρ (if bitAt v 11 then { s with hm := { s.hm with heldRaise := false } } else s) := by
    repeat' first
      | with_reducible assumption
      | with_reducible refine Inv.foldl _ (fun _ _ _ => ?_) ?_
      | with_reducible refine Inv.foldl2 _ (fun _ _ _ => ?_) ?_
      | with_reducible apply hK
      | with_reducible intro _
      | split
      | fail_if_no_progress (with_reducible (refine Inv.put rfl rfl rfl rfl rfl rfl rfl rfl rfl rfl rfl rfl rfl rfl rfl rfl ⟨rfl, rfl, rfl, rfl, rfl⟩ rfl rfl rfl rfl ?_))
  dsimp only
  revert h
  generalize (if bitAt v 11 then { s with hm := { s.hm with heldRaise := false } } else s) = u
  intro h
  split
  · repeat' first
      | with_reducible assumption
      | with_reducible refine Inv.foldl _ (fun _ _ _ => ?_) ?_
      | with_reducible refine Inv.foldl2 _ (fun _ _ _ => ?_) ?_
      | with_reducible apply hK
      | with_reducible intro _
      | split
      | fail_if_no_progress (with_reducible (refine Inv.put rfl rfl rfl rfl rfl rfl rfl rfl rfl rfl rfl rfl rfl rfl rfl rfl ⟨rfl, rfl, rfl, rfl, rfl⟩ rfl rfl rfl rfl ?_))
  · rename_i hc
    simp only [Bool.or_eq_true, decide_eq_true_eq, not_or] at hc
    have h2 := h.setHm (t := { u.hm with targetMhz := fld v 0 11 }) fun l =>
      ⟨l.rail, ⟨by dsimp only; omega, by dsimp only; omega, by dsimp only; omega⟩, l.present, l.slack, l.reserve⟩
    split
    · exact Inv.put (t := { u with hm := { u.hm with targetMhz := fld v 0 11 } }) rfl rfl rfl rfl rfl rfl rfl rfl rfl rfl rfl rfl rfl rfl rfl rfl ⟨rfl, rfl, rfl, rfl, rfl⟩ rfl rfl rfl rfl h2
    · exact h2

theorem startTest_inv {K : Goals} {ρ : State} (s : State)  (hI : Inv K ρ s) : Inv K ρ (startTest s) := by
  unfold startTest
  repeat' first
    | with_reducible assumption
    | with_reducible apply modEngine_inv
    | with_reducible refine Inv.foldl _ (fun _ _ _ => ?_) ?_
    | with_reducible refine Inv.foldl2 _ (fun _ _ _ => ?_) ?_
    | with_reducible apply hK
    | with_reducible intro _
    | split
    | fail_if_no_progress (with_reducible (refine Inv.put rfl rfl rfl rfl rfl rfl rfl rfl rfl rfl rfl rfl rfl rfl rfl rfl ⟨rfl, rfl, rfl, rfl, rfl⟩ rfl rfl rfl rfl ?_))
    | dsimp only

theorem ftWrite_inv {K : Goals} {ρ : State} (v : Nat) (s : State)  (hI : Inv K ρ s) : Inv K ρ (ftWrite v s) := by
  unfold ftWrite
  repeat' first
    | with_reducible assumption
    | with_reducible apply endAborted_inv
    | with_reducible apply startTest_inv
    | with_reducible refine Inv.foldl _ (fun _ _ _ => ?_) ?_
    | with_reducible refine Inv.foldl2 _ (fun _ _ _ => ?_) ?_
    | with_reducible apply hK
    | with_reducible intro _
    | split
    | fail_if_no_progress (with_reducible (refine Inv.put rfl rfl rfl rfl rfl rfl rfl rfl rfl rfl rfl rfl rfl rfl rfl rfl ⟨rfl, rfl, rfl, rfl, rfl⟩ rfl rfl rfl rfl ?_))
    | dsimp only

theorem testEndSt_inv {K : Goals} {ρ : State} (fail : Bool) (failIndex failChains : Nat) (tempShort : Bool) (s : State)  (hI : Inv K ρ s) : Inv K ρ (testEndSt fail failIndex failChains tempShort s) := by
  unfold testEndSt
  repeat' first
    | with_reducible assumption
    | with_reducible refine fresh_invE (by assumption) ?_
    | with_reducible apply fresh_inv
    | with_reducible apply modEngine_inv
    | with_reducible apply report_inv
    | with_reducible refine Inv.foldl _ (fun _ _ _ => ?_) ?_
    | with_reducible refine Inv.foldl2 _ (fun _ _ _ => ?_) ?_
    | with_reducible apply hK
    | with_reducible intro _
    | split
    | fail_if_no_progress (with_reducible (refine Inv.put rfl rfl rfl rfl rfl rfl rfl rfl rfl rfl rfl rfl rfl rfl rfl rfl ⟨rfl, rfl, rfl, rfl, rfl⟩ rfl rfl rfl rfl ?_))

theorem rescanSt_inv {K : Goals} {ρ : State} (s : State)  (hI : Inv K ρ s) : Inv K ρ (rescanSt s) := by
  unfold rescanSt
  repeat' first
    | with_reducible assumption
    | with_reducible refine Inv.foldl _ (fun _ _ _ => ?_) ?_
    | with_reducible refine Inv.foldl2 _ (fun _ _ _ => ?_) ?_
    | with_reducible apply hK
    | with_reducible intro _
    | split
    | fail_if_no_progress (with_reducible (refine Inv.put rfl rfl rfl rfl rfl rfl rfl rfl rfl rfl rfl rfl rfl rfl rfl rfl ⟨rfl, rfl, rfl, rfl, rfl⟩ rfl rfl rfl rfl ?_))

theorem rescanEndSt_inv {K : Goals} {ρ : State} (p q : Option Package) (s : State)  (hI : Inv K ρ s) : Inv K ρ (rescanEndSt p q s) := by
  unfold rescanEndSt
  repeat' first
    | with_reducible assumption
    | with_reducible apply selectPackage_inv
    | with_reducible refine Inv.foldl _ (fun _ _ _ => ?_) ?_
    | with_reducible refine Inv.foldl2 _ (fun _ _ _ => ?_) ?_
    | with_reducible apply hK
    | with_reducible intro _
    | split
    | fail_if_no_progress (with_reducible (refine Inv.put rfl rfl rfl rfl rfl rfl rfl rfl rfl rfl rfl rfl rfl rfl rfl rfl ⟨rfl, rfl, rfl, rfl, rfl⟩ rfl rfl rfl rfl ?_))

theorem capRegs_keep {K : Goals} {ρ : State} (base : Nat)  : RegsKeep K ρ (capRegs base) := by
  unfold capRegs
  repeat' first
    | with_reducible exact RegsKeep.nil
    | with_reducible assumption
    | with_reducible refine RegsKeep.append ?_ ?_
    | with_reducible refine RegsKeep.counter ?_

theorem boundaryRegs_keep {K : Goals} {ρ : State}   : RegsKeep K ρ (boundaryRegs ) := by
  unfold boundaryRegs
  repeat' first
    | with_reducible exact RegsKeep.nil
    | with_reducible assumption
    | with_reducible refine RegsKeep.append ?_ ?_
    | with_reducible refine RegsKeep.counter ?_
    | with_reducible refine RegsKeep.cons (fun _ _ _ _ => ?_) ?_
    | with_reducible apply capRegs_keep
    | with_reducible apply errpinClearSt_inv
    | with_reducible apply lockFields_inv
    | with_reducible refine Inv.foldl _ (fun _ _ _ => ?_) ?_
    | with_reducible refine Inv.foldl2 _ (fun _ _ _ => ?_) ?_
    | with_reducible apply hK
    | with_reducible intro _
    | split
    | fail_if_no_progress (with_reducible (refine Inv.put rfl rfl rfl rfl rfl rfl rfl rfl rfl rfl rfl rfl rfl rfl rfl rfl ⟨rfl, rfl, rfl, rfl, rfl⟩ rfl rfl rfl rfl ?_))
    | dsimp only

theorem admWrite_inv {K : Goals} {ρ : State} (fn : Fn) (ok : Bool) (f : Admq → Admq) (s : State)  (hI : Inv K ρ s) : Inv K ρ (admWrite fn ok f s) := by
  unfold admWrite
  repeat' first
    | with_reducible assumption
    | with_reducible apply modAdm_inv
    | with_reducible refine Inv.foldl _ (fun _ _ _ => ?_) ?_
    | with_reducible refine Inv.foldl2 _ (fun _ _ _ => ?_) ?_
    | with_reducible apply hK
    | with_reducible intro _
    | split

theorem admCtl_inv {K : Goals} {ρ : State} (fn : Fn) (v : Nat) (s : State)  (hI : Inv K ρ s) : Inv K ρ (admCtl fn v s) := by
  unfold admCtl
  repeat' first
    | with_reducible assumption
    | with_reducible apply modAdm_inv
    | with_reducible apply admqSt_inv
    | with_reducible apply freeQueue_inv
    | with_reducible refine Inv.foldl _ (fun _ _ _ => ?_) ?_
    | with_reducible refine Inv.foldl2 _ (fun _ _ _ => ?_) ?_
    | with_reducible apply hK
    | with_reducible intro _
    | split
    | fail_if_no_progress (with_reducible (refine Inv.put rfl rfl rfl rfl rfl rfl rfl rfl rfl rfl rfl rfl rfl rfl rfl rfl ⟨rfl, rfl, rfl, rfl, rfl⟩ rfl rfl rfl rfl ?_))
    | dsimp only

theorem admRegs_keep {K : Goals} {ρ : State} (base : Nat) (fn : Fn)  : RegsKeep K ρ (admRegs base fn) := by
  unfold admRegs
  repeat' first
    | with_reducible exact RegsKeep.nil
    | with_reducible assumption
    | with_reducible refine RegsKeep.append ?_ ?_
    | with_reducible refine RegsKeep.counter ?_
    | with_reducible refine RegsKeep.cons (fun _ _ _ _ => ?_) ?_
    | with_reducible apply admWrite_inv
    | with_reducible apply admCtl_inv
    | with_reducible apply doorbellSt_inv
    | with_reducible apply cqHeadSt_inv

theorem psStatusWrite_inv {K : Goals} {ρ : State} (v : Nat) (s : State)  (hI : Inv K ρ s) : Inv K ρ (psStatusWrite v s) := by
  unfold psStatusWrite
  repeat' first
    | with_reducible assumption
    | with_reducible refine Inv.foldl _ (fun _ _ _ => ?_) ?_
    | with_reducible refine Inv.foldl2 _ (fun _ _ _ => ?_) ?_
    | with_reducible apply hK
    | with_reducible intro _
    | split
    | fail_if_no_progress (with_reducible (refine Inv.put rfl rfl rfl rfl rfl rfl rfl rfl rfl rfl rfl rfl rfl rfl rfl rfl ⟨rfl, rfl, rfl, rfl, rfl⟩ rfl rfl rfl rfl ?_))

theorem psCmd_inv {K : Goals} {ρ : State} (v : Nat) (s : State)  (harm : K.arm = false) (hI : Inv K ρ s) : Inv K ρ (psCmd v s) := by
  unfold psCmd
  repeat' first
    | with_reducible assumption
    | with_reducible apply checkSt_inv
    | with_reducible apply cancelSt_inv
    | with_reducible refine Inv.foldl _ (fun _ _ _ => ?_) ?_
    | with_reducible refine Inv.foldl2 _ (fun _ _ _ => ?_) ?_
    | with_reducible apply hK
    | with_reducible intro _
    | split
    | fail_if_no_progress (with_reducible (refine Inv.put rfl rfl rfl rfl rfl rfl rfl rfl rfl rfl rfl rfl rfl rfl rfl rfl ⟨rfl, rfl, rfl, rfl, rfl⟩ rfl rfl rfl rfl ?_))

theorem frameRegs_keep {K : Goals} {ρ : State}  (htb : K.tb = false) (harm : K.arm = false) : RegsKeep K ρ (frameRegs ) := by
  unfold frameRegs
  repeat' first
    | with_reducible exact RegsKeep.nil
    | with_reducible assumption
    | with_reducible refine RegsKeep.append ?_ ?_
    | with_reducible refine RegsKeep.counter ?_
    | with_reducible refine RegsKeep.cons (fun _ _ _ _ => ?_) ?_
    | with_reducible apply periodSt_inv
    | with_reducible apply originSt_inv
    | with_reducible apply psCmd_inv
    | with_reducible apply psStatusWrite_inv
    | with_reducible apply psHoldSt_inv
    | with_reducible apply thresholdWritten_inv
    | with_reducible refine Inv.foldl _ (fun _ _ _ => ?_) ?_
    | with_reducible refine Inv.foldl2 _ (fun _ _ _ => ?_) ?_
    | with_reducible apply hK
    | with_reducible intro _
    | split
    | fail_if_no_progress (with_reducible (refine Inv.put rfl rfl rfl rfl rfl rfl rfl rfl rfl rfl rfl rfl rfl rfl rfl rfl ⟨rfl, rfl, rfl, rfl, rfl⟩ rfl rfl rfl rfl ?_))
    | fail_if_no_progress (with_reducible (refine Inv.upd rfl rfl rfl rfl rfl rfl rfl rfl rfl rfl rfl rfl rfl rfl rfl rfl rfl rfl (fun k => Groups.no htb k) (fun _ => ⟨rfl, rfl, rfl⟩) (fun _ => ⟨rfl, rfl, rfl⟩) (fun _ => rfl) (fun _ => ⟨rfl, rfl⟩) ?_))

theorem areaWrite_inv {K : Goals} {ρ : State} (n : Nat) (f : Intake → Intake) (s : State)  (hI : Inv K ρ s) : Inv K ρ (areaWrite n f s) := by
  unfold areaWrite
  repeat' first
    | with_reducible assumption
    | with_reducible refine Inv.foldl _ (fun _ _ _ => ?_) ?_
    | with_reducible refine Inv.foldl2 _ (fun _ _ _ => ?_) ?_
    | with_reducible apply hK
    | with_reducible intro _
    | split
    | fail_if_no_progress (with_reducible (refine Inv.put rfl rfl rfl rfl rfl rfl rfl rfl rfl rfl rfl rfl rfl rfl rfl rfl ⟨rfl, rfl, rfl, rfl, rfl⟩ rfl rfl rfl rfl ?_))
    | dsimp only

theorem intakeRegs_keep {K : Goals} {ρ : State}   : RegsKeep K ρ (intakeRegs ) := by
  unfold intakeRegs
  repeat' first
    | with_reducible exact RegsKeep.nil
    | with_reducible assumption
    | with_reducible refine RegsKeep.append ?_ ?_
    | with_reducible refine RegsKeep.counter ?_
    | with_reducible refine RegsKeep.cons (fun _ _ _ _ => ?_) ?_
    | with_reducible apply areaWrite_inv
    | with_reducible refine Inv.foldl _ (fun _ _ _ => ?_) ?_
    | with_reducible refine Inv.foldl2 _ (fun _ _ _ => ?_) ?_
    | with_reducible apply hK
    | with_reducible intro _
    | split
    | fail_if_no_progress (with_reducible (refine Inv.put rfl rfl rfl rfl rfl rfl rfl rfl rfl rfl rfl rfl rfl rfl rfl rfl ⟨rfl, rfl, rfl, rfl, rfl⟩ rfl rfl rfl rfl ?_))

theorem coherenceRegs_keep {K : Goals} {ρ : State}   : RegsKeep K ρ (coherenceRegs ) := by
  unfold coherenceRegs
  repeat' first
    | with_reducible exact RegsKeep.nil
    | with_reducible assumption
    | with_reducible refine RegsKeep.append ?_ ?_
    | with_reducible refine RegsKeep.counter ?_
    | with_reducible refine RegsKeep.cons (fun _ _ _ _ => ?_) ?_
    | with_reducible exact Inv.setCoh (by assumption) (by assumption)
    | with_reducible exact Inv.setReplay (by assumption) (by assumption)
    | with_reducible exact Inv.setQuiet (by assumption) (by assumption)
    | with_reducible exact Inv.setClose (by assumption) (by assumption)
    | with_reducible exact Inv.setPeriod (by assumption) (by assumption)
    | with_reducible refine Inv.foldl _ (fun _ _ _ => ?_) ?_
    | with_reducible refine Inv.foldl2 _ (fun _ _ _ => ?_) ?_
    | with_reducible apply hK
    | with_reducible intro _
    | split
    | fail_if_no_progress (with_reducible (refine Inv.put rfl rfl rfl rfl rfl rfl rfl rfl rfl rfl rfl rfl rfl rfl rfl rfl ⟨rfl, rfl, rfl, rfl, rfl⟩ rfl rfl rfl rfl ?_))
    | dsimp only

theorem translationRegs_keep {K : Goals} {ρ : State}   : RegsKeep K ρ (translationRegs ) := by
  unfold translationRegs
  repeat' first
    | with_reducible exact RegsKeep.nil
    | with_reducible assumption
    | with_reducible refine RegsKeep.append ?_ ?_
    | with_reducible refine RegsKeep.counter ?_

theorem certCmd_inv {K : Goals} {ρ : State} (v : Nat) (s : State)  (hI : Inv K ρ s) : Inv K ρ (certCmd v s) := by
  unfold certCmd
  repeat' first
    | with_reducible assumption
    | with_reducible apply certLoadSt_inv
    | with_reducible refine Inv.foldl _ (fun _ _ _ => ?_) ?_
    | with_reducible refine Inv.foldl2 _ (fun _ _ _ => ?_) ?_
    | with_reducible apply hK
    | with_reducible intro _
    | split
    | fail_if_no_progress (with_reducible (refine Inv.put rfl rfl rfl rfl rfl rfl rfl rfl rfl rfl rfl rfl rfl rfl rfl rfl ⟨rfl, rfl, rfl, rfl, rfl⟩ rfl rfl rfl rfl ?_))

theorem trustRegs_keep {K : Goals} {ρ : State}   : RegsKeep K ρ (trustRegs ) := by
  unfold trustRegs
  repeat' first
    | with_reducible exact RegsKeep.nil
    | with_reducible assumption
    | with_reducible refine RegsKeep.append ?_ ?_
    | with_reducible refine RegsKeep.counter ?_
    | with_reducible refine RegsKeep.cons (fun _ _ _ _ => ?_) ?_
    | with_reducible apply certCmd_inv
    | with_reducible refine Inv.foldl _ (fun _ _ _ => ?_) ?_
    | with_reducible refine Inv.foldl2 _ (fun _ _ _ => ?_) ?_
    | with_reducible apply hK
    | with_reducible intro _
    | split
    | fail_if_no_progress (with_reducible (refine Inv.put rfl rfl rfl rfl rfl rfl rfl rfl rfl rfl rfl rfl rfl rfl rfl rfl ⟨rfl, rfl, rfl, rfl, rfl⟩ rfl rfl rfl rfl ?_))

theorem hmCtl_inv {K : Goals} {ρ : State} (v : Nat) (s : State) (hI : Inv K ρ s) : Inv K ρ (hmCtl v s) := by
  unfold hmCtl
  refine hI.setHm fun l => ⟨l.rail, l.target, l.present, ?_, ?_⟩
  · dsimp only
    split
    · assumption
    · exact l.slack
  · dsimp only
    split
    · rename_i hc
      simp only [Bool.and_eq_true, decide_eq_true_eq] at hc
      exact hc
    · exact l.reserve

theorem healthRegs_keep {K : Goals} {ρ : State}   : RegsKeep K ρ (healthRegs ) := by
  unfold healthRegs
  repeat' first
    | with_reducible exact RegsKeep.nil
    | with_reducible assumption
    | with_reducible refine RegsKeep.append ?_ ?_
    | with_reducible refine RegsKeep.counter ?_
    | with_reducible refine RegsKeep.cons (fun _ _ _ _ => ?_) ?_
    | with_reducible apply thresholdWritten_inv
    | with_reducible apply hmCtl_inv
    | with_reducible apply clockWrite_inv
    | with_reducible apply ftWrite_inv
    | with_reducible apply rescanSt_inv
    | with_reducible refine Inv.foldl _ (fun _ _ _ => ?_) ?_
    | with_reducible refine Inv.foldl2 _ (fun _ _ _ => ?_) ?_
    | with_reducible apply hK
    | with_reducible intro _
    | split
    | fail_if_no_progress (with_reducible (refine Inv.put rfl rfl rfl rfl rfl rfl rfl rfl rfl rfl rfl rfl rfl rfl rfl rfl ⟨rfl, rfl, rfl, rfl, rfl⟩ rfl rfl rfl rfl ?_))
    | dsimp only

theorem lreRegs_keep {K : Goals} {ρ : State}   : RegsKeep K ρ (lreRegs ) := by
  unfold lreRegs
  repeat' first
    | with_reducible exact RegsKeep.nil
    | with_reducible assumption
    | with_reducible refine RegsKeep.append ?_ ?_
    | with_reducible refine RegsKeep.counter ?_
    | with_reducible refine RegsKeep.cons (fun _ _ _ _ => ?_) ?_

theorem integrityRegs_keep {K : Goals} {ρ : State}   : RegsKeep K ρ (integrityRegs ) := by
  unfold integrityRegs
  repeat' first
    | with_reducible exact RegsKeep.nil
    | with_reducible assumption
    | with_reducible refine RegsKeep.append ?_ ?_
    | with_reducible refine RegsKeep.counter ?_
    | with_reducible refine RegsKeep.cons (fun _ _ _ _ => ?_) ?_
    | with_reducible refine Inv.foldl _ (fun _ _ _ => ?_) ?_
    | with_reducible refine Inv.foldl2 _ (fun _ _ _ => ?_) ?_
    | with_reducible apply hK
    | with_reducible intro _
    | split
    | fail_if_no_progress (with_reducible (refine Inv.put rfl rfl rfl rfl rfl rfl rfl rfl rfl rfl rfl rfl rfl rfl rfl rfl ⟨rfl, rfl, rfl, rfl, rfl⟩ rfl rfl rfl rfl ?_))

theorem queueRegs_keep {K : Goals} {ρ : State}   : RegsKeep K ρ (queueRegs ) := by
  unfold queueRegs
  repeat' first
    | with_reducible exact RegsKeep.nil
    | with_reducible assumption
    | with_reducible refine RegsKeep.append ?_ ?_
    | with_reducible refine RegsKeep.counter ?_
    | with_reducible refine RegsKeep.cons (fun _ _ _ _ => ?_) ?_
    | with_reducible refine Inv.foldl _ (fun _ _ _ => ?_) ?_
    | with_reducible refine Inv.foldl2 _ (fun _ _ _ => ?_) ?_
    | with_reducible apply hK
    | with_reducible intro _
    | split
    | fail_if_no_progress (with_reducible (refine Inv.put rfl rfl rfl rfl rfl rfl rfl rfl rfl rfl rfl rfl rfl rfl rfl rfl ⟨rfl, rfl, rfl, rfl, rfl⟩ rfl rfl rfl rfl ?_))
    | dsimp only

theorem recoveryRegs_keep {K : Goals} {ρ : State}   : RegsKeep K ρ (recoveryRegs ) := by
  unfold recoveryRegs
  repeat' first
    | with_reducible exact RegsKeep.nil
    | with_reducible assumption
    | with_reducible refine RegsKeep.append ?_ ?_
    | with_reducible refine RegsKeep.counter ?_
    | with_reducible refine RegsKeep.cons (fun _ _ _ _ => ?_) ?_
    | with_reducible exact Inv.setCoh (by assumption) (by assumption)
    | with_reducible exact Inv.setReplay (by assumption) (by assumption)
    | with_reducible refine Inv.foldl _ (fun _ _ _ => ?_) ?_
    | with_reducible refine Inv.foldl2 _ (fun _ _ _ => ?_) ?_
    | with_reducible apply hK
    | with_reducible intro _
    | split
    | fail_if_no_progress (with_reducible (refine Inv.put rfl rfl rfl rfl rfl rfl rfl rfl rfl rfl rfl rfl rfl rfl rfl rfl ⟨rfl, rfl, rfl, rfl, rfl⟩ rfl rfl rfl rfl ?_))
    | dsimp only

theorem nuCtl_inv {K : Goals} {ρ : State} (v : Nat) (s : State)  (hI : Inv K ρ s) : Inv K ρ (nuCtl v s) := by
  unfold nuCtl
  repeat' first
    | with_reducible assumption
    | with_reducible refine Inv.foldl _ (fun _ _ _ => ?_) ?_
    | with_reducible refine Inv.foldl2 _ (fun _ _ _ => ?_) ?_
    | with_reducible apply hK
    | with_reducible intro _
    | split
    | fail_if_no_progress (with_reducible (refine Inv.put rfl rfl rfl rfl rfl rfl rfl rfl rfl rfl rfl rfl rfl rfl rfl rfl ⟨rfl, rfl, rfl, rfl, rfl⟩ rfl rfl rfl rfl ?_))

theorem nuRetry_inv {K : Goals} {ρ : State} (v : Nat) (s : State) (hI : Inv K ρ s) : Inv K ρ (nuRetry v s) := by
  unfold nuRetry
  split
  · rename_i hc
    simp only [Bool.and_eq_true, decide_eq_true_eq] at hc
    exact hI.setRetry hc
  · repeat' first
      | with_reducible assumption
      | with_reducible refine Inv.foldl _ (fun _ _ _ => ?_) ?_
      | with_reducible refine Inv.foldl2 _ (fun _ _ _ => ?_) ?_
      | with_reducible apply hK
      | with_reducible intro _
      | split
      | fail_if_no_progress (with_reducible (refine Inv.put rfl rfl rfl rfl rfl rfl rfl rfl rfl rfl rfl rfl rfl rfl rfl rfl ⟨rfl, rfl, rfl, rfl, rfl⟩ rfl rfl rfl rfl ?_))

theorem portCtl_inv {K : Goals} {ρ : State} (p v : Nat) (s : State)  (hI : Inv K ρ s) : Inv K ρ (portCtl p v s) := by
  unfold portCtl
  repeat' first
    | with_reducible assumption
    | with_reducible apply modPort_inv
    | with_reducible refine Inv.foldl _ (fun _ _ _ => ?_) ?_
    | with_reducible refine Inv.foldl2 _ (fun _ _ _ => ?_) ?_
    | with_reducible apply hK
    | with_reducible intro _
    | split
    | fail_if_no_progress (with_reducible (refine Inv.put rfl rfl rfl rfl rfl rfl rfl rfl rfl rfl rfl rfl rfl rfl rfl rfl ⟨rfl, rfl, rfl, rfl, rfl⟩ rfl rfl rfl rfl ?_))
    | dsimp only

theorem peerAddr_inv {K : Goals} {ρ : State} (c : Nat) (f : Peer → Peer) (s : State)  (hI : Inv K ρ s) : Inv K ρ (peerAddr c f s) := by
  unfold peerAddr
  repeat' first
    | with_reducible assumption
    | with_reducible apply setPeer_inv
    | with_reducible refine Inv.foldl _ (fun _ _ _ => ?_) ?_
    | with_reducible refine Inv.foldl2 _ (fun _ _ _ => ?_) ?_
    | with_reducible apply hK
    | with_reducible intro _
    | split
    | fail_if_no_progress (with_reducible (refine Inv.put rfl rfl rfl rfl rfl rfl rfl rfl rfl rfl rfl rfl rfl rfl rfl rfl ⟨rfl, rfl, rfl, rfl, rfl⟩ rfl rfl rfl rfl ?_))

theorem networkRegs_keep {K : Goals} {ρ : State}   : RegsKeep K ρ (networkRegs ) := by
  unfold networkRegs
  repeat' first
    | with_reducible exact RegsKeep.nil
    | with_reducible assumption
    | with_reducible refine RegsKeep.append ?_ ?_
    | with_reducible refine RegsKeep.counter ?_
    | with_reducible refine RegsKeep.cons (fun _ _ _ _ => ?_) ?_
    | with_reducible apply nuCtl_inv
    | with_reducible apply nuRetry_inv
    | with_reducible apply portCtl_inv
    | with_reducible apply modPort_inv
    | with_reducible apply peerAddr_inv
    | with_reducible apply peerEnableSt_inv
    | with_reducible refine Inv.foldl _ (fun _ _ _ => ?_) ?_
    | with_reducible refine Inv.foldl2 _ (fun _ _ _ => ?_) ?_
    | with_reducible apply hK
    | with_reducible intro _
    | split
    | fail_if_no_progress (with_reducible (refine Inv.put rfl rfl rfl rfl rfl rfl rfl rfl rfl rfl rfl rfl rfl rfl rfl rfl ⟨rfl, rfl, rfl, rfl, rfl⟩ rfl rfl rfl rfl ?_))

theorem fcRange_inv {K : Goals} {ρ : State} (ok : Bool) (f : FaultCol → FaultCol) (s : State)
    (hf : ok = true → Inv K ρ { s with fc := f s.fc }) (hI : Inv K ρ s) : Inv K ρ (fcRange ok f s) := by
  unfold fcRange
  split
  · rename_i hc
    exact hf hc
  · repeat' first
      | with_reducible assumption
      | with_reducible refine Inv.foldl _ (fun _ _ _ => ?_) ?_
      | with_reducible refine Inv.foldl2 _ (fun _ _ _ => ?_) ?_
      | with_reducible apply hK
      | with_reducible intro _
      | split
      | fail_if_no_progress (with_reducible (refine Inv.put rfl rfl rfl rfl rfl rfl rfl rfl rfl rfl rfl rfl rfl rfl rfl rfl ⟨rfl, rfl, rfl, rfl, rfl⟩ rfl rfl rfl rfl ?_))

theorem srcWrite_inv {K : Goals} {ρ : State} (u : Nat) (w : RegIn) (s : State)  (hI : Inv K ρ s) : Inv K ρ (srcWrite u w s) := by
  unfold srcWrite
  repeat' first
    | with_reducible assumption
    | with_reducible refine Inv.foldl _ (fun _ _ _ => ?_) ?_
    | with_reducible refine Inv.foldl2 _ (fun _ _ _ => ?_) ?_
    | with_reducible apply hK
    | with_reducible intro _
    | split
    | fail_if_no_progress (with_reducible (refine Inv.put rfl rfl rfl rfl rfl rfl rfl rfl rfl rfl rfl rfl rfl rfl rfl rfl ⟨rfl, rfl, rfl, rfl, rfl⟩ rfl rfl rfl rfl ?_))

theorem faultRegs_keep {K : Goals} {ρ : State}   : RegsKeep K ρ (faultRegs ) := by
  unfold faultRegs
  repeat' first
    | with_reducible exact RegsKeep.nil
    | with_reducible assumption
    | with_reducible refine RegsKeep.append ?_ ?_
    | with_reducible refine RegsKeep.counter ?_
    | with_reducible refine RegsKeep.cons (fun _ _ _ _ => ?_) ?_
    | with_reducible apply fcRange_inv
    | with_reducible apply injectWrite_inv
    | with_reducible apply unfenceWrite_inv
    | with_reducible apply srcWrite_inv
    | with_reducible exact Inv.setCoh (by assumption) (by assumption)
    | with_reducible exact Inv.setReplay (by assumption) (by assumption)
    | with_reducible exact Inv.setQuiet (by assumption) (by assumption)
    | with_reducible exact Inv.setClose (by assumption) (by assumption)
    | with_reducible exact Inv.setPeriod (by assumption) (by assumption)
    | with_reducible refine Inv.foldl _ (fun _ _ _ => ?_) ?_
    | with_reducible refine Inv.foldl2 _ (fun _ _ _ => ?_) ?_
    | with_reducible apply hK
    | with_reducible intro _
    | split
    | fail_if_no_progress (with_reducible (refine Inv.put rfl rfl rfl rfl rfl rfl rfl rfl rfl rfl rfl rfl rfl rfl rfl rfl ⟨rfl, rfl, rfl, rfl, rfl⟩ rfl rfl rfl rfl ?_))

theorem pfRegs_keep {K : Goals} {ρ : State}  (htb : K.tb = false) (harm : K.arm = false) : RegsKeep K ρ (pfRegs ) := by
  unfold pfRegs
  repeat' first
    | with_reducible exact RegsKeep.nil
    | with_reducible assumption
    | with_reducible refine RegsKeep.append ?_ ?_
    | with_reducible refine RegsKeep.counter ?_
    | with_reducible refine RegsKeep.cons (fun _ _ _ _ => ?_) ?_
    | with_reducible apply boundaryRegs_keep
    | with_reducible apply admRegs_keep
    | with_reducible apply frameRegs_keep
    | with_reducible apply intakeRegs_keep
    | with_reducible apply coherenceRegs_keep
    | with_reducible apply translationRegs_keep
    | with_reducible apply trustRegs_keep
    | with_reducible apply healthRegs_keep
    | with_reducible apply lreRegs_keep
    | with_reducible apply integrityRegs_keep
    | with_reducible apply queueRegs_keep
    | with_reducible apply recoveryRegs_keep
    | with_reducible apply networkRegs_keep
    | with_reducible apply faultRegs_keep

theorem slotRegs_keep {K : Goals} {ρ : State} (n : Nat)  : RegsKeep K ρ (slotRegs n) := by
  unfold slotRegs
  repeat' first
    | with_reducible exact RegsKeep.nil
    | with_reducible assumption
    | with_reducible refine RegsKeep.append ?_ ?_
    | with_reducible refine RegsKeep.counter ?_
    | with_reducible refine RegsKeep.cons (fun _ _ _ _ => ?_) ?_
    | with_reducible apply doorbellSt_inv
    | with_reducible apply dropDoorbell_inv
    | with_reducible apply cqHeadSt_inv
    | with_reducible refine Inv.foldl _ (fun _ _ _ => ?_) ?_
    | with_reducible refine Inv.foldl2 _ (fun _ _ _ => ?_) ?_
    | with_reducible apply hK
    | with_reducible intro _
    | split
    | fail_if_no_progress (with_reducible (refine Inv.put rfl rfl rfl rfl rfl rfl rfl rfl rfl rfl rfl rfl rfl rfl rfl rfl ⟨rfl, rfl, rfl, rfl, rfl⟩ rfl rfl rfl rfl ?_))
    | dsimp only

theorem tuWrite_inv {K : Goals} {ρ : State} (n : Nat) (ok : Bool) (f : VfTu → VfTu) (s : State)  (hI : Inv K ρ s) : Inv K ρ (tuWrite n ok f s) := by
  unfold tuWrite
  repeat' first
    | with_reducible assumption
    | with_reducible apply modVfTu_inv

theorem vfTuRegs_keep {K : Goals} {ρ : State} (n : Nat)  : RegsKeep K ρ (vfTuRegs n) := by
  unfold vfTuRegs
  repeat' first
    | with_reducible exact RegsKeep.nil
    | with_reducible assumption
    | with_reducible refine RegsKeep.append ?_ ?_
    | with_reducible refine RegsKeep.counter ?_
    | with_reducible refine RegsKeep.cons (fun _ _ _ _ => ?_) ?_
    | with_reducible apply tuWrite_inv
    | with_reducible apply evqHeadSt_inv
    | with_reducible apply answerFailSt_inv
    | with_reducible apply modVfTu_inv
    | with_reducible refine Inv.foldl _ (fun _ _ _ => ?_) ?_
    | with_reducible refine Inv.foldl2 _ (fun _ _ _ => ?_) ?_
    | with_reducible apply hK
    | with_reducible intro _
    | split
    | fail_if_no_progress (with_reducible (refine Inv.put rfl rfl rfl rfl rfl rfl rfl rfl rfl rfl rfl rfl rfl rfl rfl rfl ⟨rfl, rfl, rfl, rfl, rfl⟩ rfl rfl rfl rfl ?_))
    | dsimp only

theorem jobField_inv {K : Goals} {ρ : State} (n j : Nat) (f : Job → Job) (s : State)  (hI : Inv K ρ s) : Inv K ρ (jobField n j f s) := by
  unfold jobField
  repeat' first
    | with_reducible assumption
    | with_reducible apply setJob_inv
    | with_reducible refine Inv.foldl _ (fun _ _ _ => ?_) ?_
    | with_reducible refine Inv.foldl2 _ (fun _ _ _ => ?_) ?_
    | with_reducible apply hK
    | with_reducible intro _
    | split
    | fail_if_no_progress (with_reducible (refine Inv.put rfl rfl rfl rfl rfl rfl rfl rfl rfl rfl rfl rfl rfl rfl rfl rfl ⟨rfl, rfl, rfl, rfl, rfl⟩ rfl rfl rfl rfl ?_))
    | dsimp only

theorem modVfNu_inv {K : Goals} {ρ : State} (n : Nat) (f : VfNu → VfNu) (s : State)  (hI : Inv K ρ s) : Inv K ρ (modVfNu n f s) := by
  unfold modVfNu
  repeat' first
    | with_reducible assumption
    | with_reducible refine Inv.foldl _ (fun _ _ _ => ?_) ?_
    | with_reducible refine Inv.foldl2 _ (fun _ _ _ => ?_) ?_
    | with_reducible apply hK
    | with_reducible intro _
    | split
    | fail_if_no_progress (with_reducible (refine Inv.put rfl rfl rfl rfl rfl rfl rfl rfl rfl rfl rfl rfl rfl rfl rfl rfl ⟨rfl, rfl, rfl, rfl, rfl⟩ rfl rfl rfl rfl ?_))

theorem vfNuRegs_keep {K : Goals} {ρ : State} (n : Nat)  : RegsKeep K ρ (vfNuRegs n) := by
  unfold vfNuRegs
  repeat' first
    | with_reducible exact RegsKeep.nil
    | with_reducible assumption
    | with_reducible refine RegsKeep.append ?_ ?_
    | with_reducible refine RegsKeep.counter ?_
    | with_reducible refine RegsKeep.cons (fun _ _ _ _ => ?_) ?_
    | with_reducible apply jobField_inv
    | with_reducible apply slotAbortSt_inv
    | with_reducible apply jobCloseSt_inv
    | with_reducible apply modVfNu_inv
    | with_reducible refine Inv.foldl _ (fun _ _ _ => ?_) ?_
    | with_reducible refine Inv.foldl2 _ (fun _ _ _ => ?_) ?_
    | with_reducible apply hK
    | with_reducible intro _
    | split
    | fail_if_no_progress (with_reducible (refine Inv.put rfl rfl rfl rfl rfl rfl rfl rfl rfl rfl rfl rfl rfl rfl rfl rfl ⟨rfl, rfl, rfl, rfl, rfl⟩ rfl rfl rfl rfl ?_))
    | dsimp only

theorem identityRegs_keep {K : Goals} {ρ : State} (n : Nat)  : RegsKeep K ρ (identityRegs n) := by
  unfold identityRegs
  repeat' first
    | with_reducible exact RegsKeep.nil
    | with_reducible assumption
    | with_reducible refine RegsKeep.append ?_ ?_
    | with_reducible refine RegsKeep.counter ?_
    | with_reducible refine RegsKeep.cons (fun _ _ _ _ => ?_) ?_
    | with_reducible apply capRegs_keep
    | with_reducible refine Inv.foldl _ (fun _ _ _ => ?_) ?_
    | with_reducible refine Inv.foldl2 _ (fun _ _ _ => ?_) ?_
    | with_reducible apply hK
    | with_reducible intro _
    | split
    | fail_if_no_progress (with_reducible (refine Inv.put rfl rfl rfl rfl rfl rfl rfl rfl rfl rfl rfl rfl rfl rfl rfl rfl ⟨rfl, rfl, rfl, rfl, rfl⟩ rfl rfl rfl rfl ?_))

theorem vfTcRegs_keep {K : Goals} {ρ : State} (n : Nat)  : RegsKeep K ρ (vfTcRegs n) := by
  unfold vfTcRegs
  repeat' first
    | with_reducible exact RegsKeep.nil
    | with_reducible assumption
    | with_reducible refine RegsKeep.append ?_ ?_
    | with_reducible refine RegsKeep.counter ?_
    | with_reducible refine RegsKeep.cons (fun _ _ _ _ => ?_) ?_
    | with_reducible apply modVfTc_inv
    | with_reducible apply signSt_inv
    | with_reducible apply tenantWriteSt_inv
    | with_reducible refine Inv.foldl _ (fun _ _ _ => ?_) ?_
    | with_reducible refine Inv.foldl2 _ (fun _ _ _ => ?_) ?_
    | with_reducible apply hK
    | with_reducible intro _
    | split
    | fail_if_no_progress (with_reducible (refine Inv.put rfl rfl rfl rfl rfl rfl rfl rfl rfl rfl rfl rfl rfl rfl rfl rfl ⟨rfl, rfl, rfl, rfl, rfl⟩ rfl rfl rfl rfl ?_))
    | dsimp only

theorem vfRcRegs_keep {K : Goals} {ρ : State} (n : Nat)  : RegsKeep K ρ (vfRcRegs n) := by
  unfold vfRcRegs
  repeat' first
    | with_reducible exact RegsKeep.nil
    | with_reducible assumption
    | with_reducible refine RegsKeep.append ?_ ?_
    | with_reducible refine RegsKeep.counter ?_
    | with_reducible refine RegsKeep.cons (fun _ _ _ _ => ?_) ?_

theorem vfRegs_keep {K : Goals} {ρ : State} (n : Nat)  : RegsKeep K ρ (vfRegs n) := by
  unfold vfRegs
  repeat' first
    | with_reducible exact RegsKeep.nil
    | with_reducible assumption
    | with_reducible refine RegsKeep.append ?_ ?_
    | with_reducible refine RegsKeep.counter ?_
    | with_reducible refine RegsKeep.cons (fun _ _ _ _ => ?_) ?_
    | with_reducible apply slotRegs_keep
    | with_reducible apply admRegs_keep
    | with_reducible apply vfTuRegs_keep
    | with_reducible apply vfNuRegs_keep
    | with_reducible apply identityRegs_keep
    | with_reducible apply vfTcRegs_keep
    | with_reducible apply vfRcRegs_keep

theorem countBadAccess_inv {K : Goals} {ρ : State} (s : State)  (hI : Inv K ρ s) : Inv K ρ (countBadAccess s) := by
  unfold countBadAccess
  repeat' first
    | with_reducible assumption
    | with_reducible refine Inv.foldl _ (fun _ _ _ => ?_) ?_
    | with_reducible refine Inv.foldl2 _ (fun _ _ _ => ?_) ?_
    | with_reducible apply hK
    | with_reducible intro _
    | split
    | fail_if_no_progress (with_reducible (refine Inv.put rfl rfl rfl rfl rfl rfl rfl rfl rfl rfl rfl rfl rfl rfl rfl rfl ⟨rfl, rfl, rfl, rfl, rfl⟩ rfl rfl rfl rfl ?_))

theorem regAt_mem {l : List RegDef} {off : Nat} {r : RegDef} {i o : Nat} (h : regAt l off = some (r, i, o)) : r ∈ l := by
  unfold regAt at h
  obtain ⟨x, hx, hr⟩ := List.exists_of_findSome?_eq_some h
  dsimp only at hr
  split at hr
  · cases hr
    exact hx
  · cases hr

theorem regsOf_keep {K : Goals} {ρ : State} (fn : Fn) (htb : K.tb = false) (harm : K.arm = false) : RegsKeep K ρ (regsOf fn) := by
  cases fn
  · exact pfRegs_keep htb harm
  · exact vfRegs_keep _ 

theorem writeReg_inv {K : Goals} {ρ : State} (fn : Fn) (off size : Nat) (v : Word) (s : State) (htb : K.tb = false) (harm : K.arm = false) (hI : Inv K ρ s) :
    Inv K ρ (writeReg fn off size v s) := by
  unfold writeReg
  extract_lets l
  split
  · exact hI
  · split
    · rename_i r i o hr
      split
      · exact regsOf_keep fn htb harm r (regAt_mem hr) _ _ _ hI
      · repeat' first
          | with_reducible assumption
          | with_reducible apply countBadAccess_inv
    · repeat' first
        | with_reducible assumption
        | with_reducible apply countBadAccess_inv
        | with_reducible apply dropDoorbell_inv
        | with_reducible refine Inv.foldl _ (fun _ _ _ => ?_) ?_
        | with_reducible refine Inv.foldl2 _ (fun _ _ _ => ?_) ?_
        | with_reducible apply hK
        | with_reducible intro _
        | split

theorem registerSt_inv {K : Goals} {ρ : State} (fn : Fn) (off size : Nat) (v : Word) (s : State)  (htb : K.tb = false) (harm : K.arm = false) (hI : Inv K ρ s) : Inv K ρ (registerSt fn off size v s) := by
  unfold registerSt
  repeat' first
    | with_reducible assumption
    | with_reducible apply writeReg_inv
    | with_reducible apply dropDoorbell_inv
    | with_reducible refine Inv.foldl _ (fun _ _ _ => ?_) ?_
    | with_reducible refine Inv.foldl2 _ (fun _ _ _ => ?_) ?_
    | with_reducible apply hK
    | with_reducible intro _
    | split

end Sys2Proof.Machine
end

