-- ==== Sys2Proof/WellFormed.lean ====
section
/-!
DEFINITION. Well-formed commands: operands that name something the block has (00_scope.md, "Headline figures"; R349; R358).
-/
namespace Sys2Proof

/-- R358: the opcode of a descriptor command. -/
def Instr.opcode : Instr → Option Nat
  | .nop _ => some 0x00
  | .cond _ => some 0x01
  | .loop _ => some 0x02
  | .jump _ => some 0x03
  | .waitSync _ => some 0x04
  | .signalSync _ => some 0x05
  | .loadParam _ => some 0x06
  | .tileStep _ => some 0x40
  | .lrePool _ => some 0x41
  | .lrePqscan _ => some 0x42
  | .lreUpdate _ => some 0x43
  | .copy _ => some 0x44
  | .prefetch _ => some 0x45
  | .advise _ => some 0x46
  | .remoteGather _ => some 0x47
  | .digest _ => some 0x48
  | .map _ => some 0x80
  | .unmap _ => some 0x81
  | .objRef _ => some 0x82
  | .objUnref _ => some 0x83
  | .ckpt _ => some 0x84
  | .createQueue _ => some 0xC0
  | .destroyQueue _ => some 0xC1
  | .contextRevoke _ => some 0xC2
  | .resetContext _ => some 0xC3
  | .resetEngine _ => some 0xC4
  | .resetPartition _ => some 0xC5
  | .resetChip _ => some 0xC6
  | .flushKeyid _ => some 0xC7
  | .retireKeyid _ => some 0xC8
  | .dump _ => some 0xC9
  | _ => none

/-- The descriptor a command carries. -/
def Instr.fetch : Instr → Option Fetch
  | .nop f | .cond f | .loop f | .jump f | .waitSync f | .signalSync f | .loadParam f => some f
  | .tileStep f => some f.toFetch
  | .lrePool f | .lrePqscan f | .lreUpdate f | .copy f | .prefetch f | .advise f | .remoteGather f | .digest f => some f
  | .map f | .unmap f | .objRef f | .objUnref f | .ckpt f => some f
  | .createQueue f => some f.toFetch
  | .destroyQueue f | .contextRevoke f | .resetContext f | .resetEngine f | .resetPartition f | .resetChip f => some f
  | .flushKeyid f | .retireKeyid f | .dump f | .unassignedOpcode f => some f
  | _ => none

/-- Whether an 8-bit opcode is assigned (R358). -/
def opcodeAssigned (c : Nat) : Bool :=
  c ≤ 0x06 || (0x40 ≤ c && c ≤ 0x48) || (0x80 ≤ c && c ≤ 0x84) || (0xC0 ≤ c && c ≤ 0xC9)

/-- Queue numbers 0 to 1,023, then the administration queues 0x400 to 0x420 (R349). -/
def queueOk (q : Nat) : Bool := q ≤ 0x420
/-- Partitions 0 to 31. -/
def partOk (n : Nat) : Bool := n < 32
/-- A virtual function of a partition, or the physical function. -/
def fnOk : Fn → Bool
  | .pf => true
  | .vf n => partOk n
/-- Ports P0 to P7. -/
def portOk (p : Nat) : Bool := p < 8
/-- PCs 0 to 1,279 (00_scope.md). -/
def pcOk (p : Nat) : Bool := p < 1280
/-- Tiles 0 to 63. -/
def tileOk (t : Nat) : Bool := t < 64
/-- Register accesses are naturally aligned and of 32 or 64 bits (R562). -/
def accessOk (off size : Nat) : Bool := (size == 4 || size == 8) && off % size == 0
/-- Unit IDs have 12 bits (R5). -/
def unitOk (u : Nat) : Bool := u < 4096
/-- A datagram comes in on a port of the block, from and to 16-bit UDP ports (R384). -/
def datagramOk (m : Datagram) : Bool := portOk m.port && m.udp < 65536 && m.dst < 65536
/-- The way that a tile message's line takes is one of the 32 (R243); its header's fields have their widths (R249). -/
def tileMsgOk (m : TileMsg) : Bool := m.way < 32
/-- A host access names a partition, a DVA of 57 bits and a way (R243, R310, R320). -/
def hostAccessOk (a : HostAccess) : Bool := partOk a.part && a.dva < 2 ^ 57 && a.way < 32
/-- The descriptor's byte 0 is the row's opcode, and its queue exists. -/
def fetchOk (i : Instr) (f : Fetch) : Bool :=
  queueOk f.queue &&
    match i.opcode with
    | some c => f.raw.extractLsb' 0 8 == BitVec.ofNat 8 c
    | none => !opcodeAssigned (f.raw.extractLsb' 0 8).toNat

/-- A command whose operands name things the block has. -/
def Instr.wf (i : Instr) : Bool :=
  match i.fetch with
  | some f => fetchOk i f
  | none =>
    match i with
    | .functionLevelResetVf n | .lockInterfaceRequest n | .stopInterfaceRequest n | .startInterfaceRequest n => partOk n
    | .registerWrite fn off size _ _ => fnOk fn && accessOk off size
    | .tickOrigin off size _ => accessOk off size
    | .sweepVisit v => pcOk v.pc && v.uncorrectable.all (· < 16) && v.block < 16
    | .scrubEnd pc => pcOk pc
    | .waySweepEnd s w => s < 40 && w < 32
    | .memoryDataReturn pc b _ _ w _ => pcOk pc && b < 2 ^ 22 && w < 32
    | .verificationDone pc b _ => pcOk pc && b < 2 ^ 22
    | .faultStateExit u | .colReadTimeout u | .killAcknowledgement u _ _ => unitOk u
    | .engineShareComplete _ e x => e < 320 && x.residue.all (· ≤ 4)
    | .commit ds => ds.all fun d => d.runA < 320 && d.runB < 320
    | .ptpSync p d _ _ _ | .ptpFollowUp p d _ _ | .ptpDelayResp p d _ _ => portOk p && d < 256
    | .holdRecall n | .recallWalkEnd n | .sign n _ | .signedCopyComplete n _ => partOk n
    | .request m => datagramOk m.toDatagram
    | .sFinish m => datagramOk m.toDatagram
    | .deadlineExpiry n i => partOk n && i < 16384
    | .sHello m | .abortAck m => datagramOk m
    | .hello p a m => datagramOk { m with port := p, addr := a }
    | .helloAck p a u m | .heartbeat p a u m | .jobAbort p a u m => datagramOk { m with port := p, addr := a, udp := u }
    | .gatherReq p m | .gatherReply p m | .digestNote p m => datagramOk { m with port := p }
    | .nak p a u d m => datagramOk { m with port := p, addr := a, udp := u, dst := d }
    | .tenantKeysWrite n off size _ _ | .dumpBaseWrite n off size _ _ _ => partOk n && accessOk off size
    | .doorbell fn q size _ _ => fnOk fn && queueOk q && (size == 4 || size == 8)
    | .tagReread q _ | .descriptorReadFail q _ | .completionWriteFail q | .rearm q _ => queueOk q
    | .cqHeadWrite fn q _ _ => fnOk fn && queueOk q
    | .admqEnable fn _ | .atsInvalidateRequest fn _ _ | .invalidateCompletion fn _ _ => fnOk fn
    | .evqHeadWrite n _ _ | .tuAnswerRetry n _ _ _ _ | .tuAnswerFail n _ _ => partOk n
    | .atsTranslationCompletion q _ _ | .pageRequestGroupResponse q _ => queueOk q
    | .rds m | .rdu m | .upg m | .atom m _ _ _ | .wbm m _ _ | .wbc m _ _ | .respI m | .respS m => tileMsgOk m
    | .respIData m _ _ | .respSData m _ _ => tileMsgOk m
    | .stashAck f a => tileMsgOk { head := f ++ a }
    | .stepCompletion t g _ _ => tileOk t && g < 256
    | .snoopTimeout t => tileOk t
    | .hostMemoryRead a | .pcieAtomicOp a _ _ _ _ _ => hostAccessOk a
    | .hostMemoryWrite a _ st => hostAccessOk a && st.all tileOk
    | .debugRequest _ n _ _ => partOk n
    | .linkUp p | .linkDown p | .ingressDrop p => portOk p
    | .peerLoss c | .peerEnable c _ => c < 4096
    | .jobLoad n s _ _ | .jobClose n s _ | .jobSlotAbort n s _ | .abortTick n s => partOk n && s < 32
    | .exportLoad n c _ _ => partOk n && c ≤ 1024
    | .comparisonClose n s _ _ => partOk n && s < 32
    | .unfence i _ => i < 5
    | _ => true

end Sys2Proof
end

