-- ==== Sys2Proof/Laws/PerInstr.lean ====
section
/-!
SUPPORT. What well-formedness says of a command's descriptor, command by command: its queue exists (R349) and its byte 0 is the
opcode of the row, an assigned one, or for the row of unassigned opcodes an unassigned one (R358).
-/
namespace Sys2Proof.Laws.Form
open Sys2Proof

/-- A well-formed command that carries a descriptor carries one of an existing queue, with its row's opcode. -/
def Statement (i : Instr) : Prop :=
  i.wf = true → ∀ f, i.fetch = some f → f.queue ≤ 0x420 ∧
    (∀ c, i.opcode = some c → f.raw.extractLsb' 0 8 = BitVec.ofNat 8 c) ∧
    (i.opcode = none → opcodeAssigned (f.raw.extractLsb' 0 8).toNat = false)

/-- The statement holds of every command, by the one check of descriptors. -/
theorem holds (i : Instr) : Statement i := by
  intro h f hf
  unfold Instr.wf at h
  rw [hf] at h
  simp only [fetchOk, queueOk, Bool.and_eq_true, decide_eq_true_eq] at h
  refine ⟨h.1, fun c hc => ?_, fun hc => ?_⟩
  · have g := h.2
    rw [hc] at g
    exact eq_of_beq g
  · have g := h.2
    rw [hc] at g
    simpa using g

theorem powerUp : Statement (.powerUp) := holds _
theorem powerRemoved : Statement (.powerRemoved) := holds _
theorem fundamentalReset : Statement (.fundamentalReset) := holds _
theorem configurationRequest (op : CfgOp) : Statement (.configurationRequest op) := holds _
theorem tcBoot (romDigest : Digest) : Statement (.tcBoot romDigest) := holds _
theorem fwVerify (flash : Flash) : Statement (.fwVerify flash) := holds _
theorem keys (selfTestOk : Bool) (chains : List PubKey) : Statement (.keys selfTestOk chains) := holds _
theorem memTrain (failed held : BitVec 20) (retentionOk bbrOk : Bool) (mirrorOk : BitVec 2) : Statement (.memTrain failed held retentionOk bbrOk mirrorOk) := holds _
theorem memInit (mismatch : List Nat) : Statement (.memInit mismatch) := holds _
theorem dirInit (diesOk : BitVec 4) (dirOk : Bool) : Statement (.dirInit diesOk dirOk) := holds _
theorem time : Statement (.time) := holds _
theorem stageBoundExpiry (check : Option BootCheck) : Statement (.stageBoundExpiry check) := holds _
theorem chipReset : Statement (.chipReset) := holds _
theorem preparationTimeout : Statement (.preparationTimeout) := holds _
theorem getBootStatus : Statement (.getBootStatus) := holds _
theorem getFaultSummary : Statement (.getFaultSummary) := holds _
theorem clearErrPin : Statement (.clearErrPin) := holds _
theorem requestChipReset : Statement (.requestChipReset) := holds _
theorem ackPowerCycle : Statement (.ackPowerCycle) := holds _
theorem mctpOtherCode (code : Nat) : Statement (.mctpOtherCode code) := holds _
theorem powerCycleRequestRepeat : Statement (.powerCycleRequestRepeat) := holds _
theorem errpinClear : Statement (.errpinClear) := holds _
theorem functionLevelResetVf (n : Nat) : Statement (.functionLevelResetVf n) := holds _
theorem functionLevelResetPf : Statement (.functionLevelResetPf) := holds _
theorem registerWrite (fn : Fn) (off size : Nat) (value : Word) (tbit : Bool) : Statement (.registerWrite fn off size value tbit) := holds _
theorem tgPeriod (value : Word) : Statement (.tgPeriod value) := holds _
theorem tickOrigin (off size : Nat) (value : Word) : Statement (.tickOrigin off size value) := holds _
theorem lock : Statement (.lock) := holds _
theorem tick (health : HealthIn) : Statement (.tick health) := holds _
theorem fabricPresentRise : Statement (.fabricPresentRise) := holds _
theorem slotBoundary : Statement (.slotBoundary) := holds _
theorem commit (differ : List Differ) : Statement (.commit differ) := holds _
theorem sweepVisit (visit : Visit) : Statement (.sweepVisit visit) := holds _
theorem scrubEnd (pc : Nat) : Statement (.scrubEnd pc) := holds _
theorem waySweepEnd (slice way : Nat) : Statement (.waySweepEnd slice way) := holds _
theorem flushWalkEnd : Statement (.flushWalkEnd) := holds _
theorem memoryDataReturn (pc block : Nat) (step : Option Nat) (uncorrectable : BitVec 4) (way parity : Nat) : Statement (.memoryDataReturn pc block step uncorrectable way parity) := holds _
theorem verificationDone (pc block : Nat) (result : VerifyResult) : Statement (.verificationDone pc block result) := holds _
theorem faultStateExit (unit : Nat) : Statement (.faultStateExit unit) := holds _
theorem engineShareComplete (step engine : Nat) (share : ShareEnd) : Statement (.engineShareComplete step engine share) := holds _
theorem ptpSync (port domain : Nat) (twoStep : Bool) (origin : Int) (parity : Nat) : Statement (.ptpSync port domain twoStep origin parity) := holds _
theorem ptpFollowUp (port domain : Nat) (origin : Int) (parity : Nat) : Statement (.ptpFollowUp port domain origin parity) := holds _
theorem ptpDelayResp (port domain : Nat) (received : Int) (parity : Nat) : Statement (.ptpDelayResp port domain received parity) := holds _
theorem check (deal cancel : Bool) : Statement (.check deal cancel) := holds _
theorem cancel (deal : Bool) : Statement (.cancel deal) := holds _
theorem planCheckDone (image : Option Image) (resultOk : Bool) : Statement (.planCheckDone image resultOk) := holds _
theorem psHold (value : BitVec 32) : Statement (.psHold value) := holds _
theorem holdRecall (part : Nat) : Statement (.holdRecall part) := holds _
theorem request (msg : IntakeMsg) : Statement (.request msg) := holds _
theorem deadlineExpiry (part index : Nat) : Statement (.deadlineExpiry part index) := holds _
theorem sHello (msg : Datagram) : Statement (.sHello msg) := holds _
theorem sFinish (msg : FinishMsg) : Statement (.sFinish msg) := holds _
theorem agreementTimeout (session : Nat) : Statement (.agreementTimeout session) := holds _
theorem tenantKeysWrite (part off size : Nat) (value : Word) (tbit : Bool) : Statement (.tenantKeysWrite part off size value tbit) := holds _
theorem doorbell (fn : Fn) (queue size : Nat) (value : Word) (tbit : Bool) : Statement (.doorbell fn queue size value tbit) := holds _
theorem tagReread (queue : Nat) (tag : BitVec 16) : Statement (.tagReread queue tag) := holds _
theorem descriptorReadFail (queue : Nat) (poisoned : Bool) : Statement (.descriptorReadFail queue poisoned) := holds _
theorem unassignedOpcode (f : Fetch) : Statement (.unassignedOpcode f) := holds _
theorem nop (f : Fetch) : Statement (.nop f) := holds _
theorem cond (f : Fetch) : Statement (.cond f) := holds _
theorem loop (f : Fetch) : Statement (.loop f) := holds _
theorem jump (f : Fetch) : Statement (.jump f) := holds _
theorem waitSync (f : Fetch) : Statement (.waitSync f) := holds _
theorem signalSync (f : Fetch) : Statement (.signalSync f) := holds _
theorem loadParam (f : Fetch) : Statement (.loadParam f) := holds _
theorem tileStep (f : TileFetch) : Statement (.tileStep f) := holds _
theorem lrePool (f : Fetch) : Statement (.lrePool f) := holds _
theorem lrePqscan (f : Fetch) : Statement (.lrePqscan f) := holds _
theorem lreUpdate (f : Fetch) : Statement (.lreUpdate f) := holds _
theorem copy (f : Fetch) : Statement (.copy f) := holds _
theorem prefetch (f : Fetch) : Statement (.prefetch f) := holds _
theorem advise (f : Fetch) : Statement (.advise f) := holds _
theorem remoteGather (f : Fetch) : Statement (.remoteGather f) := holds _
theorem digest (f : Fetch) : Statement (.digest f) := holds _
theorem map (f : Fetch) : Statement (.map f) := holds _
theorem unmap (f : Fetch) : Statement (.unmap f) := holds _
theorem objRef (f : Fetch) : Statement (.objRef f) := holds _
theorem objUnref (f : Fetch) : Statement (.objUnref f) := holds _
theorem ckpt (f : Fetch) : Statement (.ckpt f) := holds _
theorem createQueue (f : CreateFetch) : Statement (.createQueue f) := holds _
theorem destroyQueue (f : Fetch) : Statement (.destroyQueue f) := holds _
theorem contextRevoke (f : Fetch) : Statement (.contextRevoke f) := holds _
theorem resetContext (f : Fetch) : Statement (.resetContext f) := holds _
theorem resetEngine (f : Fetch) : Statement (.resetEngine f) := holds _
theorem resetPartition (f : Fetch) : Statement (.resetPartition f) := holds _
theorem resetChip (f : Fetch) : Statement (.resetChip f) := holds _
theorem flushKeyid (f : Fetch) : Statement (.flushKeyid f) := holds _
theorem retireKeyid (f : Fetch) : Statement (.retireKeyid f) := holds _
theorem dump (f : Fetch) : Statement (.dump f) := holds _
theorem captureComplete : Statement (.captureComplete) := holds _
theorem colReadTimeout (unit : Nat) : Statement (.colReadTimeout unit) := holds _
theorem killAckTimeout : Statement (.killAckTimeout) := holds _
theorem recallWalkEnd (part : Nat) : Statement (.recallWalkEnd part) := holds _
theorem quietIntervalEnd : Statement (.quietIntervalEnd) := holds _
theorem replayHang : Statement (.replayHang) := holds _
theorem dumpBaseWrite (part off size : Nat) (value : Word) (host : HostView) (tbit : Bool) : Statement (.dumpBaseWrite part off size value host tbit) := holds _
theorem completionWriteFail (queue : Nat) : Statement (.completionWriteFail queue) := holds _
theorem rearm (queue : Nat) (writesOk : Nat) : Statement (.rearm queue writesOk) := holds _
theorem cqHeadWrite (fn : Fn) (queue : Nat) (value : BitVec 32) (tbit : Bool) : Statement (.cqHeadWrite fn queue value tbit) := holds _
theorem admqEnable (fn : Fn) (tbit : Bool) : Statement (.admqEnable fn tbit) := holds _
theorem evqHeadWrite (part : Nat) (value : BitVec 32) (tbit : Bool) : Statement (.evqHeadWrite part value tbit) := holds _
theorem tuAnswerRetry (part : Nat) (seq : Nat) (host : HostView) (ats : List AtsAnswer) (tbit : Bool) : Statement (.tuAnswerRetry part seq host ats tbit) := holds _
theorem tuAnswerFail (part : Nat) (seq : Nat) (tbit : Bool) : Statement (.tuAnswerFail part seq tbit) := holds _
theorem atsTranslationCompletion (queue : Nat) (answer : AtsAnswer) (host : HostView) : Statement (.atsTranslationCompletion queue answer host) := holds _
theorem pageRequestGroupResponse (queue : Nat) (success : Bool) : Statement (.pageRequestGroupResponse queue success) := holds _
theorem atsInvalidateRequest (fn : Fn) (base size : Nat) : Statement (.atsInvalidateRequest fn base size) := holds _
theorem invalidateCompletion (fn : Fn) (base size : Nat) : Statement (.invalidateCompletion fn base size) := holds _
theorem rds (m : TileMsg) : Statement (.rds m) := holds _
theorem rdu (m : TileMsg) : Statement (.rdu m) := holds _
theorem upg (m : TileMsg) : Statement (.upg m) := holds _
theorem atom (m : TileMsg) (data : Line) (step : Option Nat) (parity : Nat) : Statement (.atom m data step parity) := holds _
theorem wbm (m : TileMsg) (data : Line) (parity : Nat) : Statement (.wbm m data parity) := holds _
theorem wbc (m : TileMsg) (data : Line) (parity : Nat) : Statement (.wbc m data parity) := holds _
theorem respI (m : TileMsg) : Statement (.respI m) := holds _
theorem respS (m : TileMsg) : Statement (.respS m) := holds _
theorem respIData (m : TileMsg) (data : Line) (parity : Nat) : Statement (.respIData m data parity) := holds _
theorem respSData (m : TileMsg) (data : Line) (parity : Nat) : Statement (.respSData m data parity) := holds _
theorem stashAck (fields addr : BitVec 64) : Statement (.stashAck fields addr) := holds _
theorem stepCompletion (tile gen step : Nat) (status : Status) : Statement (.stepCompletion tile gen step status) := holds _
theorem killAcknowledgement (unit gen step : Nat) : Statement (.killAcknowledgement unit gen step) := holds _
theorem snoopTimeout (tile : Nat) : Statement (.snoopTimeout tile) := holds _
theorem hostMemoryRead (a : HostAccess) : Statement (.hostMemoryRead a) := holds _
theorem hostMemoryWrite (a : HostAccess) (data : List Byte) (stash : Option Nat) : Statement (.hostMemoryWrite a data stash) := holds _
theorem pcieAtomicOp (a : HostAccess) (kind : Nat) (wide quad : Bool) (operand compare : Word) : Statement (.pcieAtomicOp a kind wide quad operand compare) := holds _
theorem debugRequest (cap : DebugCap) (part dpa : Nat) (data : List Byte) : Statement (.debugRequest cap part dpa data) := holds _
theorem linkUp (port : Nat) : Statement (.linkUp port) := holds _
theorem ingressDrop (port : Nat) : Statement (.ingressDrop port) := holds _
theorem hello (port addr : Nat) (msg : UdpDatagram) : Statement (.hello port addr msg) := holds _
theorem helloAck (port addr udp : Nat) (msg : UdpData) : Statement (.helloAck port addr udp msg) := holds _
theorem heartbeat (port addr udp : Nat) (msg : UdpData) : Statement (.heartbeat port addr udp msg) := holds _
theorem peerLoss (chip : Nat) : Statement (.peerLoss chip) := holds _
theorem peerEnable (chip : Nat) (value : Word) : Statement (.peerEnable chip value) := holds _
theorem gatherReq (port : Nat) (msg : Packet) : Statement (.gatherReq port msg) := holds _
theorem gatherReply (port : Nat) (msg : Packet) : Statement (.gatherReply port msg) := holds _
theorem digestNote (port : Nat) (msg : Packet) : Statement (.digestNote port msg) := holds _
theorem jobAbort (port addr udp : Nat) (msg : UdpData) : Statement (.jobAbort port addr udp msg) := holds _
theorem abortAck (msg : Datagram) : Statement (.abortAck msg) := holds _
theorem nak (port addr udp dst : Nat) (msg : Payload) : Statement (.nak port addr udp dst msg) := holds _
theorem retransmit (tag : Nat) : Statement (.retransmit tag) := holds _
theorem jobLoad (part slot : Nat) (host : HostView) (tbit : Bool) : Statement (.jobLoad part slot host tbit) := holds _
theorem jobClose (part slot : Nat) (tbit : Bool) : Statement (.jobClose part slot tbit) := holds _
theorem jobSlotAbort (part slot : Nat) (tbit : Bool) : Statement (.jobSlotAbort part slot tbit) := holds _
theorem abortTick (part slot : Nat) : Statement (.abortTick part slot) := holds _
theorem exportLoad (part count : Nat) (host : HostView) (tbit : Bool) : Statement (.exportLoad part count host tbit) := holds _
theorem comparisonClose (part slot rangeId periodTick : Nat) : Statement (.comparisonClose part slot rangeId periodTick) := holds _
theorem injectArm (value : Word) : Statement (.injectArm value) := holds _
theorem injectCancel (value : Word) : Statement (.injectCancel value) := holds _
theorem unfence (index : Nat) (value : Word) : Statement (.unfence index value) := holds _
theorem certLoad (revoke : Bool) : Statement (.certLoad revoke) := holds _
theorem certCheckDone (cert : CertBytes) : Statement (.certCheckDone cert) := holds _
theorem certRevoke : Statement (.certRevoke) := holds _
theorem sign (part : Nat) (tbit : Bool) : Statement (.sign part tbit) := holds _
theorem signedCopyComplete (part : Nat) (host : HostView) : Statement (.signedCopyComplete part host) := holds _
theorem getVersion : Statement (.getVersion) := holds _
theorem getCapabilities : Statement (.getCapabilities) := holds _
theorem negotiateAlgorithms (ecdsa sha group aead : Bool) : Statement (.negotiateAlgorithms ecdsa sha group aead) := holds _
theorem getDigests : Statement (.getDigests) := holds _
theorem getCertificate (slot : Nat) : Statement (.getCertificate slot) := holds _
theorem challenge (slot : Nat) (r : SpdmReq) : Statement (.challenge slot r) := holds _
theorem getMeasurements (r : SpdmReq) : Statement (.getMeasurements r) := holds _
theorem keyExchange (r : SpdmReq) : Statement (.keyExchange r) := holds _
theorem finish (r : SpdmReq) : Statement (.finish r) := holds _
theorem endSession : Statement (.endSession) := holds _
theorem vendorDefinedRequest (r : IdeKm) : Statement (.vendorDefinedRequest r) := holds _
theorem lockInterfaceRequest (n : Nat) : Statement (.lockInterfaceRequest n) := holds _
theorem stopInterfaceRequest (n : Nat) : Statement (.stopInterfaceRequest n) := holds _
theorem targetMhz (value : Word) : Statement (.targetMhz value) := holds _
theorem fieldTestStart (value : Word) : Statement (.fieldTestStart value) := holds _
theorem fieldTestAbort : Statement (.fieldTestAbort) := holds _
theorem fieldTestEnd (fail : Bool) (failIndex failChains : Nat) (tempShort : Bool) : Statement (.fieldTestEnd fail failIndex failChains tempShort) := holds _
theorem rescan : Statement (.rescan) := holds _
theorem rescanEnd (pkgP pkgQ : Option Package) : Statement (.rescanEnd pkgP pkgQ) := holds _
theorem startInterfaceRequest (n : Nat) : Statement (.startInterfaceRequest n) := holds _
theorem linkDown (port : Nat) : Statement (.linkDown port) := holds _

end Sys2Proof.Laws.Form
end

