-- ==== Sys2Proof/Laws/State.lean ====
section
/-!
SUPPORT. What the one-field updates of State leave: one lemma per field per update, each true by unfolding, so that no proof
unfolds a record update; then what a table holds after an entry is set, changed or removed.
-/
namespace Sys2Proof.Machine
open Sys2Proof

/-! ### `emit` -/

@[simp] theorem emit_bnd (o : Out) (s : State) : (emit o s).bnd = s.bnd := rfl
@[simp] theorem emit_tb (o : Out) (s : State) : (emit o s).tb = s.tb := rfl
@[simp] theorem emit_cu (o : Out) (s : State) : (emit o s).cu = s.cu := rfl
@[simp] theorem emit_steps (o : Out) (s : State) : (emit o s).steps = s.steps := rfl
@[simp] theorem emit_ps (o : Out) (s : State) : (emit o s).ps = s.ps := rfl
@[simp] theorem emit_ac (o : Out) (s : State) : (emit o s).ac = s.ac := rfl
@[simp] theorem emit_rie (o : Out) (s : State) : (emit o s).rie = s.rie := rfl
@[simp] theorem emit_lre (o : Out) (s : State) : (emit o s).lre = s.lre := rfl
@[simp] theorem emit_coh (o : Out) (s : State) : (emit o s).coh = s.coh := rfl
@[simp] theorem emit_mi (o : Out) (s : State) : (emit o s).mi = s.mi := rfl
@[simp] theorem emit_tu (o : Out) (s : State) : (emit o s).tu = s.tu := rfl
@[simp] theorem emit_qu (o : Out) (s : State) : (emit o s).qu = s.qu := rfl
@[simp] theorem emit_nu (o : Out) (s : State) : (emit o s).nu = s.nu := rfl
@[simp] theorem emit_fc (o : Out) (s : State) : (emit o s).fc = s.fc := rfl
@[simp] theorem emit_rc (o : Out) (s : State) : (emit o s).rc = s.rc := rfl
@[simp] theorem emit_tc (o : Out) (s : State) : (emit o s).tc = s.tc := rfl
@[simp] theorem emit_hm (o : Out) (s : State) : (emit o s).hm = s.hm := rfl
@[simp] theorem emit_loads (o : Out) (s : State) : (emit o s).loads = s.loads := rfl
@[simp] theorem emit_out (o : Out) (s : State) : (emit o s).out = o :: s.out := rfl
@[simp] theorem emit_freeCount (o : Out) (s : State) : (emit o s).freeCount = s.freeCount := rfl
@[simp] theorem emit_nextId (o : Out) (s : State) : (emit o s).nextId = s.nextId := rfl
@[simp] theorem emit_pending (o : Out) (s : State) : (emit o s).pending = s.pending := rfl

/-! ### `modEngine` -/

@[simp] theorem modEngine_bnd (e : Nat) (f : Engine → Engine) (s : State) : (modEngine e f s).bnd = s.bnd := rfl
@[simp] theorem modEngine_tb (e : Nat) (f : Engine → Engine) (s : State) : (modEngine e f s).tb = s.tb := rfl
@[simp] theorem modEngine_cu (e : Nat) (f : Engine → Engine) (s : State) : (modEngine e f s).cu = s.cu := rfl
@[simp] theorem modEngine_steps (e : Nat) (f : Engine → Engine) (s : State) : (modEngine e f s).steps = s.steps := rfl
@[simp] theorem modEngine_ps (e : Nat) (f : Engine → Engine) (s : State) : (modEngine e f s).ps = s.ps := rfl
@[simp] theorem modEngine_ac (e : Nat) (f : Engine → Engine) (s : State) : (modEngine e f s).ac = s.ac := rfl
@[simp] theorem modEngine_rie (e : Nat) (f : Engine → Engine) (s : State) : (modEngine e f s).rie = s.rie := rfl
@[simp] theorem modEngine_lre (e : Nat) (f : Engine → Engine) (s : State) : (modEngine e f s).lre = { s.lre with engines := tmod {} s.lre.engines e f } := rfl
@[simp] theorem modEngine_coh (e : Nat) (f : Engine → Engine) (s : State) : (modEngine e f s).coh = s.coh := rfl
@[simp] theorem modEngine_mi (e : Nat) (f : Engine → Engine) (s : State) : (modEngine e f s).mi = s.mi := rfl
@[simp] theorem modEngine_tu (e : Nat) (f : Engine → Engine) (s : State) : (modEngine e f s).tu = s.tu := rfl
@[simp] theorem modEngine_qu (e : Nat) (f : Engine → Engine) (s : State) : (modEngine e f s).qu = s.qu := rfl
@[simp] theorem modEngine_nu (e : Nat) (f : Engine → Engine) (s : State) : (modEngine e f s).nu = s.nu := rfl
@[simp] theorem modEngine_fc (e : Nat) (f : Engine → Engine) (s : State) : (modEngine e f s).fc = s.fc := rfl
@[simp] theorem modEngine_rc (e : Nat) (f : Engine → Engine) (s : State) : (modEngine e f s).rc = s.rc := rfl
@[simp] theorem modEngine_tc (e : Nat) (f : Engine → Engine) (s : State) : (modEngine e f s).tc = s.tc := rfl
@[simp] theorem modEngine_hm (e : Nat) (f : Engine → Engine) (s : State) : (modEngine e f s).hm = s.hm := rfl
@[simp] theorem modEngine_loads (e : Nat) (f : Engine → Engine) (s : State) : (modEngine e f s).loads = s.loads := rfl
@[simp] theorem modEngine_out (e : Nat) (f : Engine → Engine) (s : State) : (modEngine e f s).out = s.out := rfl
@[simp] theorem modEngine_freeCount (e : Nat) (f : Engine → Engine) (s : State) : (modEngine e f s).freeCount = s.freeCount := rfl
@[simp] theorem modEngine_nextId (e : Nat) (f : Engine → Engine) (s : State) : (modEngine e f s).nextId = s.nextId := rfl
@[simp] theorem modEngine_pending (e : Nat) (f : Engine → Engine) (s : State) : (modEngine e f s).pending = s.pending := rfl

/-! ### `modQueue` -/

@[simp] theorem modQueue_bnd (q : Nat) (f : Queue → Queue) (s : State) : (modQueue q f s).bnd = s.bnd := rfl
@[simp] theorem modQueue_tb (q : Nat) (f : Queue → Queue) (s : State) : (modQueue q f s).tb = s.tb := rfl
@[simp] theorem modQueue_cu (q : Nat) (f : Queue → Queue) (s : State) : (modQueue q f s).cu = s.cu := rfl
@[simp] theorem modQueue_steps (q : Nat) (f : Queue → Queue) (s : State) : (modQueue q f s).steps = s.steps := rfl
@[simp] theorem modQueue_ps (q : Nat) (f : Queue → Queue) (s : State) : (modQueue q f s).ps = s.ps := rfl
@[simp] theorem modQueue_ac (q : Nat) (f : Queue → Queue) (s : State) : (modQueue q f s).ac = s.ac := rfl
@[simp] theorem modQueue_rie (q : Nat) (f : Queue → Queue) (s : State) : (modQueue q f s).rie = s.rie := rfl
@[simp] theorem modQueue_lre (q : Nat) (f : Queue → Queue) (s : State) : (modQueue q f s).lre = s.lre := rfl
@[simp] theorem modQueue_coh (q : Nat) (f : Queue → Queue) (s : State) : (modQueue q f s).coh = s.coh := rfl
@[simp] theorem modQueue_mi (q : Nat) (f : Queue → Queue) (s : State) : (modQueue q f s).mi = s.mi := rfl
@[simp] theorem modQueue_tu (q : Nat) (f : Queue → Queue) (s : State) : (modQueue q f s).tu = s.tu := rfl
@[simp] theorem modQueue_qu (q : Nat) (f : Queue → Queue) (s : State) : (modQueue q f s).qu = { s.qu with qs := tmod {} s.qu.qs q f } := rfl
@[simp] theorem modQueue_nu (q : Nat) (f : Queue → Queue) (s : State) : (modQueue q f s).nu = s.nu := rfl
@[simp] theorem modQueue_fc (q : Nat) (f : Queue → Queue) (s : State) : (modQueue q f s).fc = s.fc := rfl
@[simp] theorem modQueue_rc (q : Nat) (f : Queue → Queue) (s : State) : (modQueue q f s).rc = s.rc := rfl
@[simp] theorem modQueue_tc (q : Nat) (f : Queue → Queue) (s : State) : (modQueue q f s).tc = s.tc := rfl
@[simp] theorem modQueue_hm (q : Nat) (f : Queue → Queue) (s : State) : (modQueue q f s).hm = s.hm := rfl
@[simp] theorem modQueue_loads (q : Nat) (f : Queue → Queue) (s : State) : (modQueue q f s).loads = s.loads := rfl
@[simp] theorem modQueue_out (q : Nat) (f : Queue → Queue) (s : State) : (modQueue q f s).out = s.out := rfl
@[simp] theorem modQueue_freeCount (q : Nat) (f : Queue → Queue) (s : State) : (modQueue q f s).freeCount = s.freeCount := rfl
@[simp] theorem modQueue_nextId (q : Nat) (f : Queue → Queue) (s : State) : (modQueue q f s).nextId = s.nextId := rfl
@[simp] theorem modQueue_pending (q : Nat) (f : Queue → Queue) (s : State) : (modQueue q f s).pending = s.pending := rfl

/-! ### `setCtx` -/

@[simp] theorem setCtx_bnd (n c : Nat) (v : CtxState) (s : State) : (setCtx n c v s).bnd = s.bnd := rfl
@[simp] theorem setCtx_tb (n c : Nat) (v : CtxState) (s : State) : (setCtx n c v s).tb = s.tb := rfl
@[simp] theorem setCtx_cu (n c : Nat) (v : CtxState) (s : State) : (setCtx n c v s).cu = s.cu := rfl
@[simp] theorem setCtx_steps (n c : Nat) (v : CtxState) (s : State) : (setCtx n c v s).steps = s.steps := rfl
@[simp] theorem setCtx_ps (n c : Nat) (v : CtxState) (s : State) : (setCtx n c v s).ps = s.ps := rfl
@[simp] theorem setCtx_ac (n c : Nat) (v : CtxState) (s : State) : (setCtx n c v s).ac = s.ac := rfl
@[simp] theorem setCtx_rie (n c : Nat) (v : CtxState) (s : State) : (setCtx n c v s).rie = s.rie := rfl
@[simp] theorem setCtx_lre (n c : Nat) (v : CtxState) (s : State) : (setCtx n c v s).lre = s.lre := rfl
@[simp] theorem setCtx_coh (n c : Nat) (v : CtxState) (s : State) : (setCtx n c v s).coh = s.coh := rfl
@[simp] theorem setCtx_mi (n c : Nat) (v : CtxState) (s : State) : (setCtx n c v s).mi = s.mi := rfl
@[simp] theorem setCtx_qu (n c : Nat) (v : CtxState) (s : State) : (setCtx n c v s).qu = s.qu := rfl
@[simp] theorem setCtx_nu (n c : Nat) (v : CtxState) (s : State) : (setCtx n c v s).nu = s.nu := rfl
@[simp] theorem setCtx_fc (n c : Nat) (v : CtxState) (s : State) : (setCtx n c v s).fc = s.fc := rfl
@[simp] theorem setCtx_rc (n c : Nat) (v : CtxState) (s : State) : (setCtx n c v s).rc = s.rc := rfl
@[simp] theorem setCtx_tc (n c : Nat) (v : CtxState) (s : State) : (setCtx n c v s).tc = s.tc := rfl
@[simp] theorem setCtx_hm (n c : Nat) (v : CtxState) (s : State) : (setCtx n c v s).hm = s.hm := rfl
@[simp] theorem setCtx_loads (n c : Nat) (v : CtxState) (s : State) : (setCtx n c v s).loads = s.loads := rfl
@[simp] theorem setCtx_out (n c : Nat) (v : CtxState) (s : State) : (setCtx n c v s).out = s.out := rfl
@[simp] theorem setCtx_freeCount (n c : Nat) (v : CtxState) (s : State) : (setCtx n c v s).freeCount = s.freeCount := rfl
@[simp] theorem setCtx_nextId (n c : Nat) (v : CtxState) (s : State) : (setCtx n c v s).nextId = s.nextId := rfl
@[simp] theorem setCtx_pending (n c : Nat) (v : CtxState) (s : State) : (setCtx n c v s).pending = s.pending := rfl

/-! ### `modStep` -/

@[simp] theorem modStep_bnd (id : Nat) (f : Step → Step) (s : State) : (modStep id f s).bnd = s.bnd := rfl
@[simp] theorem modStep_tb (id : Nat) (f : Step → Step) (s : State) : (modStep id f s).tb = s.tb := rfl
@[simp] theorem modStep_cu (id : Nat) (f : Step → Step) (s : State) : (modStep id f s).cu = s.cu := rfl
@[simp] theorem modStep_steps (id : Nat) (f : Step → Step) (s : State) : (modStep id f s).steps = modFirst (fun t => t.id == id) f s.steps := rfl
@[simp] theorem modStep_ps (id : Nat) (f : Step → Step) (s : State) : (modStep id f s).ps = s.ps := rfl
@[simp] theorem modStep_ac (id : Nat) (f : Step → Step) (s : State) : (modStep id f s).ac = s.ac := rfl
@[simp] theorem modStep_rie (id : Nat) (f : Step → Step) (s : State) : (modStep id f s).rie = s.rie := rfl
@[simp] theorem modStep_lre (id : Nat) (f : Step → Step) (s : State) : (modStep id f s).lre = s.lre := rfl
@[simp] theorem modStep_coh (id : Nat) (f : Step → Step) (s : State) : (modStep id f s).coh = s.coh := rfl
@[simp] theorem modStep_mi (id : Nat) (f : Step → Step) (s : State) : (modStep id f s).mi = s.mi := rfl
@[simp] theorem modStep_tu (id : Nat) (f : Step → Step) (s : State) : (modStep id f s).tu = s.tu := rfl
@[simp] theorem modStep_qu (id : Nat) (f : Step → Step) (s : State) : (modStep id f s).qu = s.qu := rfl
@[simp] theorem modStep_nu (id : Nat) (f : Step → Step) (s : State) : (modStep id f s).nu = s.nu := rfl
@[simp] theorem modStep_fc (id : Nat) (f : Step → Step) (s : State) : (modStep id f s).fc = s.fc := rfl
@[simp] theorem modStep_rc (id : Nat) (f : Step → Step) (s : State) : (modStep id f s).rc = s.rc := rfl
@[simp] theorem modStep_tc (id : Nat) (f : Step → Step) (s : State) : (modStep id f s).tc = s.tc := rfl
@[simp] theorem modStep_hm (id : Nat) (f : Step → Step) (s : State) : (modStep id f s).hm = s.hm := rfl
@[simp] theorem modStep_loads (id : Nat) (f : Step → Step) (s : State) : (modStep id f s).loads = s.loads := rfl
@[simp] theorem modStep_out (id : Nat) (f : Step → Step) (s : State) : (modStep id f s).out = s.out := rfl
@[simp] theorem modStep_freeCount (id : Nat) (f : Step → Step) (s : State) : (modStep id f s).freeCount = s.freeCount := rfl
@[simp] theorem modStep_nextId (id : Nat) (f : Step → Step) (s : State) : (modStep id f s).nextId = s.nextId := rfl
@[simp] theorem modStep_pending (id : Nat) (f : Step → Step) (s : State) : (modStep id f s).pending = s.pending := rfl

/-! ### `dropStep` -/

@[simp] theorem dropStep_bnd (id : Nat) (s : State) : (dropStep id s).bnd = s.bnd := rfl
@[simp] theorem dropStep_tb (id : Nat) (s : State) : (dropStep id s).tb = s.tb := rfl
@[simp] theorem dropStep_cu (id : Nat) (s : State) : (dropStep id s).cu = s.cu := rfl
@[simp] theorem dropStep_steps (id : Nat) (s : State) : (dropStep id s).steps = s.steps.filter fun t => t.id ≠ id := rfl
@[simp] theorem dropStep_ps (id : Nat) (s : State) : (dropStep id s).ps = s.ps := rfl
@[simp] theorem dropStep_ac (id : Nat) (s : State) : (dropStep id s).ac = s.ac := rfl
@[simp] theorem dropStep_rie (id : Nat) (s : State) : (dropStep id s).rie = s.rie := rfl
@[simp] theorem dropStep_lre (id : Nat) (s : State) : (dropStep id s).lre = s.lre := rfl
@[simp] theorem dropStep_coh (id : Nat) (s : State) : (dropStep id s).coh = s.coh := rfl
@[simp] theorem dropStep_mi (id : Nat) (s : State) : (dropStep id s).mi = s.mi := rfl
@[simp] theorem dropStep_tu (id : Nat) (s : State) : (dropStep id s).tu = s.tu := rfl
@[simp] theorem dropStep_qu (id : Nat) (s : State) : (dropStep id s).qu = s.qu := rfl
@[simp] theorem dropStep_nu (id : Nat) (s : State) : (dropStep id s).nu = s.nu := rfl
@[simp] theorem dropStep_fc (id : Nat) (s : State) : (dropStep id s).fc = s.fc := rfl
@[simp] theorem dropStep_rc (id : Nat) (s : State) : (dropStep id s).rc = s.rc := rfl
@[simp] theorem dropStep_tc (id : Nat) (s : State) : (dropStep id s).tc = s.tc := rfl
@[simp] theorem dropStep_hm (id : Nat) (s : State) : (dropStep id s).hm = s.hm := rfl
@[simp] theorem dropStep_loads (id : Nat) (s : State) : (dropStep id s).loads = s.loads := rfl
@[simp] theorem dropStep_out (id : Nat) (s : State) : (dropStep id s).out = s.out := rfl
@[simp] theorem dropStep_freeCount (id : Nat) (s : State) : (dropStep id s).freeCount = s.freeCount := rfl
@[simp] theorem dropStep_nextId (id : Nat) (s : State) : (dropStep id s).nextId = s.nextId := rfl
@[simp] theorem dropStep_pending (id : Nat) (s : State) : (dropStep id s).pending = s.pending := rfl

/-! ### `modHr` -/

@[simp] theorem modHr_bnd (n : Nat) (f : HrCount → HrCount) (s : State) : (modHr n f s).bnd = s.bnd := rfl
@[simp] theorem modHr_tb (n : Nat) (f : HrCount → HrCount) (s : State) : (modHr n f s).tb = s.tb := rfl
@[simp] theorem modHr_cu (n : Nat) (f : HrCount → HrCount) (s : State) : (modHr n f s).cu = s.cu := rfl
@[simp] theorem modHr_steps (n : Nat) (f : HrCount → HrCount) (s : State) : (modHr n f s).steps = s.steps := rfl
@[simp] theorem modHr_ps (n : Nat) (f : HrCount → HrCount) (s : State) : (modHr n f s).ps = s.ps := rfl
@[simp] theorem modHr_ac (n : Nat) (f : HrCount → HrCount) (s : State) : (modHr n f s).ac = s.ac := rfl
@[simp] theorem modHr_rie (n : Nat) (f : HrCount → HrCount) (s : State) : (modHr n f s).rie = s.rie := rfl
@[simp] theorem modHr_lre (n : Nat) (f : HrCount → HrCount) (s : State) : (modHr n f s).lre = s.lre := rfl
@[simp] theorem modHr_coh (n : Nat) (f : HrCount → HrCount) (s : State) : (modHr n f s).coh = s.coh := rfl
@[simp] theorem modHr_mi (n : Nat) (f : HrCount → HrCount) (s : State) : (modHr n f s).mi = s.mi := rfl
@[simp] theorem modHr_tu (n : Nat) (f : HrCount → HrCount) (s : State) : (modHr n f s).tu = s.tu := rfl
@[simp] theorem modHr_qu (n : Nat) (f : HrCount → HrCount) (s : State) : (modHr n f s).qu = s.qu := rfl
@[simp] theorem modHr_nu (n : Nat) (f : HrCount → HrCount) (s : State) : (modHr n f s).nu = s.nu := rfl
@[simp] theorem modHr_fc (n : Nat) (f : HrCount → HrCount) (s : State) : (modHr n f s).fc = s.fc := rfl
@[simp] theorem modHr_rc (n : Nat) (f : HrCount → HrCount) (s : State) : (modHr n f s).rc = s.rc := rfl
@[simp] theorem modHr_hm (n : Nat) (f : HrCount → HrCount) (s : State) : (modHr n f s).hm = s.hm := rfl
@[simp] theorem modHr_loads (n : Nat) (f : HrCount → HrCount) (s : State) : (modHr n f s).loads = s.loads := rfl
@[simp] theorem modHr_out (n : Nat) (f : HrCount → HrCount) (s : State) : (modHr n f s).out = s.out := rfl
@[simp] theorem modHr_freeCount (n : Nat) (f : HrCount → HrCount) (s : State) : (modHr n f s).freeCount = s.freeCount := rfl
@[simp] theorem modHr_nextId (n : Nat) (f : HrCount → HrCount) (s : State) : (modHr n f s).nextId = s.nextId := rfl
@[simp] theorem modHr_pending (n : Nat) (f : HrCount → HrCount) (s : State) : (modHr n f s).pending = s.pending := rfl

/-! ### `modSession` -/

@[simp] theorem modSession_bnd (i : Nat) (f : Session → Session) (s : State) : (modSession i f s).bnd = s.bnd := rfl
@[simp] theorem modSession_tb (i : Nat) (f : Session → Session) (s : State) : (modSession i f s).tb = s.tb := rfl
@[simp] theorem modSession_cu (i : Nat) (f : Session → Session) (s : State) : (modSession i f s).cu = s.cu := rfl
@[simp] theorem modSession_steps (i : Nat) (f : Session → Session) (s : State) : (modSession i f s).steps = s.steps := rfl
@[simp] theorem modSession_ps (i : Nat) (f : Session → Session) (s : State) : (modSession i f s).ps = s.ps := rfl
@[simp] theorem modSession_ac (i : Nat) (f : Session → Session) (s : State) : (modSession i f s).ac = s.ac := rfl
@[simp] theorem modSession_lre (i : Nat) (f : Session → Session) (s : State) : (modSession i f s).lre = s.lre := rfl
@[simp] theorem modSession_coh (i : Nat) (f : Session → Session) (s : State) : (modSession i f s).coh = s.coh := rfl
@[simp] theorem modSession_mi (i : Nat) (f : Session → Session) (s : State) : (modSession i f s).mi = s.mi := rfl
@[simp] theorem modSession_tu (i : Nat) (f : Session → Session) (s : State) : (modSession i f s).tu = s.tu := rfl
@[simp] theorem modSession_qu (i : Nat) (f : Session → Session) (s : State) : (modSession i f s).qu = s.qu := rfl
@[simp] theorem modSession_nu (i : Nat) (f : Session → Session) (s : State) : (modSession i f s).nu = s.nu := rfl
@[simp] theorem modSession_fc (i : Nat) (f : Session → Session) (s : State) : (modSession i f s).fc = s.fc := rfl
@[simp] theorem modSession_rc (i : Nat) (f : Session → Session) (s : State) : (modSession i f s).rc = s.rc := rfl
@[simp] theorem modSession_tc (i : Nat) (f : Session → Session) (s : State) : (modSession i f s).tc = s.tc := rfl
@[simp] theorem modSession_hm (i : Nat) (f : Session → Session) (s : State) : (modSession i f s).hm = s.hm := rfl
@[simp] theorem modSession_loads (i : Nat) (f : Session → Session) (s : State) : (modSession i f s).loads = s.loads := rfl
@[simp] theorem modSession_out (i : Nat) (f : Session → Session) (s : State) : (modSession i f s).out = s.out := rfl
@[simp] theorem modSession_freeCount (i : Nat) (f : Session → Session) (s : State) : (modSession i f s).freeCount = s.freeCount := rfl
@[simp] theorem modSession_nextId (i : Nat) (f : Session → Session) (s : State) : (modSession i f s).nextId = s.nextId := rfl
@[simp] theorem modSession_pending (i : Nat) (f : Session → Session) (s : State) : (modSession i f s).pending = s.pending := rfl

/-! ### `modReq` -/

@[simp] theorem modReq_bnd (n i : Nat) (f : ReqCtx → ReqCtx) (s : State) : (modReq n i f s).bnd = s.bnd := rfl
@[simp] theorem modReq_tb (n i : Nat) (f : ReqCtx → ReqCtx) (s : State) : (modReq n i f s).tb = s.tb := rfl
@[simp] theorem modReq_cu (n i : Nat) (f : ReqCtx → ReqCtx) (s : State) : (modReq n i f s).cu = s.cu := rfl
@[simp] theorem modReq_steps (n i : Nat) (f : ReqCtx → ReqCtx) (s : State) : (modReq n i f s).steps = s.steps := rfl
@[simp] theorem modReq_ps (n i : Nat) (f : ReqCtx → ReqCtx) (s : State) : (modReq n i f s).ps = s.ps := rfl
@[simp] theorem modReq_rie (n i : Nat) (f : ReqCtx → ReqCtx) (s : State) : (modReq n i f s).rie = s.rie := rfl
@[simp] theorem modReq_lre (n i : Nat) (f : ReqCtx → ReqCtx) (s : State) : (modReq n i f s).lre = s.lre := rfl
@[simp] theorem modReq_coh (n i : Nat) (f : ReqCtx → ReqCtx) (s : State) : (modReq n i f s).coh = s.coh := rfl
@[simp] theorem modReq_mi (n i : Nat) (f : ReqCtx → ReqCtx) (s : State) : (modReq n i f s).mi = s.mi := rfl
@[simp] theorem modReq_tu (n i : Nat) (f : ReqCtx → ReqCtx) (s : State) : (modReq n i f s).tu = s.tu := rfl
@[simp] theorem modReq_qu (n i : Nat) (f : ReqCtx → ReqCtx) (s : State) : (modReq n i f s).qu = s.qu := rfl
@[simp] theorem modReq_nu (n i : Nat) (f : ReqCtx → ReqCtx) (s : State) : (modReq n i f s).nu = s.nu := rfl
@[simp] theorem modReq_fc (n i : Nat) (f : ReqCtx → ReqCtx) (s : State) : (modReq n i f s).fc = s.fc := rfl
@[simp] theorem modReq_rc (n i : Nat) (f : ReqCtx → ReqCtx) (s : State) : (modReq n i f s).rc = s.rc := rfl
@[simp] theorem modReq_tc (n i : Nat) (f : ReqCtx → ReqCtx) (s : State) : (modReq n i f s).tc = s.tc := rfl
@[simp] theorem modReq_hm (n i : Nat) (f : ReqCtx → ReqCtx) (s : State) : (modReq n i f s).hm = s.hm := rfl
@[simp] theorem modReq_loads (n i : Nat) (f : ReqCtx → ReqCtx) (s : State) : (modReq n i f s).loads = s.loads := rfl
@[simp] theorem modReq_out (n i : Nat) (f : ReqCtx → ReqCtx) (s : State) : (modReq n i f s).out = s.out := rfl
@[simp] theorem modReq_freeCount (n i : Nat) (f : ReqCtx → ReqCtx) (s : State) : (modReq n i f s).freeCount = s.freeCount := rfl
@[simp] theorem modReq_nextId (n i : Nat) (f : ReqCtx → ReqCtx) (s : State) : (modReq n i f s).nextId = s.nextId := rfl
@[simp] theorem modReq_pending (n i : Nat) (f : ReqCtx → ReqCtx) (s : State) : (modReq n i f s).pending = s.pending := rfl

/-! ### `modPc` -/

@[simp] theorem modPc_bnd (p : Nat) (f : PcState → PcState) (s : State) : (modPc p f s).bnd = s.bnd := rfl
@[simp] theorem modPc_tb (p : Nat) (f : PcState → PcState) (s : State) : (modPc p f s).tb = s.tb := rfl
@[simp] theorem modPc_cu (p : Nat) (f : PcState → PcState) (s : State) : (modPc p f s).cu = s.cu := rfl
@[simp] theorem modPc_steps (p : Nat) (f : PcState → PcState) (s : State) : (modPc p f s).steps = s.steps := rfl
@[simp] theorem modPc_ps (p : Nat) (f : PcState → PcState) (s : State) : (modPc p f s).ps = s.ps := rfl
@[simp] theorem modPc_ac (p : Nat) (f : PcState → PcState) (s : State) : (modPc p f s).ac = s.ac := rfl
@[simp] theorem modPc_rie (p : Nat) (f : PcState → PcState) (s : State) : (modPc p f s).rie = s.rie := rfl
@[simp] theorem modPc_lre (p : Nat) (f : PcState → PcState) (s : State) : (modPc p f s).lre = s.lre := rfl
@[simp] theorem modPc_coh (p : Nat) (f : PcState → PcState) (s : State) : (modPc p f s).coh = s.coh := rfl
@[simp] theorem modPc_mi (p : Nat) (f : PcState → PcState) (s : State) : (modPc p f s).mi = { s.mi with pcs := tmod {} s.mi.pcs p f } := rfl
@[simp] theorem modPc_tu (p : Nat) (f : PcState → PcState) (s : State) : (modPc p f s).tu = s.tu := rfl
@[simp] theorem modPc_qu (p : Nat) (f : PcState → PcState) (s : State) : (modPc p f s).qu = s.qu := rfl
@[simp] theorem modPc_nu (p : Nat) (f : PcState → PcState) (s : State) : (modPc p f s).nu = s.nu := rfl
@[simp] theorem modPc_fc (p : Nat) (f : PcState → PcState) (s : State) : (modPc p f s).fc = s.fc := rfl
@[simp] theorem modPc_rc (p : Nat) (f : PcState → PcState) (s : State) : (modPc p f s).rc = s.rc := rfl
@[simp] theorem modPc_tc (p : Nat) (f : PcState → PcState) (s : State) : (modPc p f s).tc = s.tc := rfl
@[simp] theorem modPc_hm (p : Nat) (f : PcState → PcState) (s : State) : (modPc p f s).hm = s.hm := rfl
@[simp] theorem modPc_loads (p : Nat) (f : PcState → PcState) (s : State) : (modPc p f s).loads = s.loads := rfl
@[simp] theorem modPc_out (p : Nat) (f : PcState → PcState) (s : State) : (modPc p f s).out = s.out := rfl
@[simp] theorem modPc_freeCount (p : Nat) (f : PcState → PcState) (s : State) : (modPc p f s).freeCount = s.freeCount := rfl
@[simp] theorem modPc_nextId (p : Nat) (f : PcState → PcState) (s : State) : (modPc p f s).nextId = s.nextId := rfl
@[simp] theorem modPc_pending (p : Nat) (f : PcState → PcState) (s : State) : (modPc p f s).pending = s.pending := rfl

/-! ### `setLlc` -/

@[simp] theorem setLlc_bnd (k : Nat) (l : LlcLine) (s : State) : (setLlc k l s).bnd = s.bnd := rfl
@[simp] theorem setLlc_tb (k : Nat) (l : LlcLine) (s : State) : (setLlc k l s).tb = s.tb := rfl
@[simp] theorem setLlc_cu (k : Nat) (l : LlcLine) (s : State) : (setLlc k l s).cu = s.cu := rfl
@[simp] theorem setLlc_steps (k : Nat) (l : LlcLine) (s : State) : (setLlc k l s).steps = s.steps := rfl
@[simp] theorem setLlc_ps (k : Nat) (l : LlcLine) (s : State) : (setLlc k l s).ps = s.ps := rfl
@[simp] theorem setLlc_ac (k : Nat) (l : LlcLine) (s : State) : (setLlc k l s).ac = s.ac := rfl
@[simp] theorem setLlc_rie (k : Nat) (l : LlcLine) (s : State) : (setLlc k l s).rie = s.rie := rfl
@[simp] theorem setLlc_lre (k : Nat) (l : LlcLine) (s : State) : (setLlc k l s).lre = s.lre := rfl
@[simp] theorem setLlc_mi (k : Nat) (l : LlcLine) (s : State) : (setLlc k l s).mi = s.mi := rfl
@[simp] theorem setLlc_tu (k : Nat) (l : LlcLine) (s : State) : (setLlc k l s).tu = s.tu := rfl
@[simp] theorem setLlc_qu (k : Nat) (l : LlcLine) (s : State) : (setLlc k l s).qu = s.qu := rfl
@[simp] theorem setLlc_nu (k : Nat) (l : LlcLine) (s : State) : (setLlc k l s).nu = s.nu := rfl
@[simp] theorem setLlc_fc (k : Nat) (l : LlcLine) (s : State) : (setLlc k l s).fc = s.fc := rfl
@[simp] theorem setLlc_rc (k : Nat) (l : LlcLine) (s : State) : (setLlc k l s).rc = s.rc := rfl
@[simp] theorem setLlc_tc (k : Nat) (l : LlcLine) (s : State) : (setLlc k l s).tc = s.tc := rfl
@[simp] theorem setLlc_hm (k : Nat) (l : LlcLine) (s : State) : (setLlc k l s).hm = s.hm := rfl
@[simp] theorem setLlc_loads (k : Nat) (l : LlcLine) (s : State) : (setLlc k l s).loads = s.loads := rfl
@[simp] theorem setLlc_out (k : Nat) (l : LlcLine) (s : State) : (setLlc k l s).out = s.out := rfl
@[simp] theorem setLlc_freeCount (k : Nat) (l : LlcLine) (s : State) : (setLlc k l s).freeCount = s.freeCount := rfl
@[simp] theorem setLlc_nextId (k : Nat) (l : LlcLine) (s : State) : (setLlc k l s).nextId = s.nextId := rfl
@[simp] theorem setLlc_pending (k : Nat) (l : LlcLine) (s : State) : (setLlc k l s).pending = s.pending := rfl

/-! ### `staleTile` -/

@[simp] theorem staleTile_bnd (t : Nat) (s : State) : (staleTile t s).bnd = s.bnd := rfl
@[simp] theorem staleTile_tb (t : Nat) (s : State) : (staleTile t s).tb = s.tb := rfl
@[simp] theorem staleTile_cu (t : Nat) (s : State) : (staleTile t s).cu = s.cu := rfl
@[simp] theorem staleTile_steps (t : Nat) (s : State) : (staleTile t s).steps = s.steps := rfl
@[simp] theorem staleTile_ps (t : Nat) (s : State) : (staleTile t s).ps = s.ps := rfl
@[simp] theorem staleTile_ac (t : Nat) (s : State) : (staleTile t s).ac = s.ac := rfl
@[simp] theorem staleTile_rie (t : Nat) (s : State) : (staleTile t s).rie = s.rie := rfl
@[simp] theorem staleTile_lre (t : Nat) (s : State) : (staleTile t s).lre = s.lre := rfl
@[simp] theorem staleTile_coh (t : Nat) (s : State) : (staleTile t s).coh = { s.coh with stale := tcount 32 s.coh.stale t 1 } := rfl
@[simp] theorem staleTile_mi (t : Nat) (s : State) : (staleTile t s).mi = s.mi := rfl
@[simp] theorem staleTile_tu (t : Nat) (s : State) : (staleTile t s).tu = s.tu := rfl
@[simp] theorem staleTile_qu (t : Nat) (s : State) : (staleTile t s).qu = s.qu := rfl
@[simp] theorem staleTile_nu (t : Nat) (s : State) : (staleTile t s).nu = s.nu := rfl
@[simp] theorem staleTile_fc (t : Nat) (s : State) : (staleTile t s).fc = s.fc := rfl
@[simp] theorem staleTile_rc (t : Nat) (s : State) : (staleTile t s).rc = s.rc := rfl
@[simp] theorem staleTile_tc (t : Nat) (s : State) : (staleTile t s).tc = s.tc := rfl
@[simp] theorem staleTile_hm (t : Nat) (s : State) : (staleTile t s).hm = s.hm := rfl
@[simp] theorem staleTile_loads (t : Nat) (s : State) : (staleTile t s).loads = s.loads := rfl
@[simp] theorem staleTile_out (t : Nat) (s : State) : (staleTile t s).out = s.out := rfl
@[simp] theorem staleTile_freeCount (t : Nat) (s : State) : (staleTile t s).freeCount = s.freeCount := rfl
@[simp] theorem staleTile_nextId (t : Nat) (s : State) : (staleTile t s).nextId = s.nextId := rfl
@[simp] theorem staleTile_pending (t : Nat) (s : State) : (staleTile t s).pending = s.pending := rfl

/-! ### `modVfTu` -/

@[simp] theorem modVfTu_bnd (n : Nat) (f : VfTu → VfTu) (s : State) : (modVfTu n f s).bnd = s.bnd := rfl
@[simp] theorem modVfTu_tb (n : Nat) (f : VfTu → VfTu) (s : State) : (modVfTu n f s).tb = s.tb := rfl
@[simp] theorem modVfTu_cu (n : Nat) (f : VfTu → VfTu) (s : State) : (modVfTu n f s).cu = s.cu := rfl
@[simp] theorem modVfTu_steps (n : Nat) (f : VfTu → VfTu) (s : State) : (modVfTu n f s).steps = s.steps := rfl
@[simp] theorem modVfTu_ps (n : Nat) (f : VfTu → VfTu) (s : State) : (modVfTu n f s).ps = s.ps := rfl
@[simp] theorem modVfTu_ac (n : Nat) (f : VfTu → VfTu) (s : State) : (modVfTu n f s).ac = s.ac := rfl
@[simp] theorem modVfTu_rie (n : Nat) (f : VfTu → VfTu) (s : State) : (modVfTu n f s).rie = s.rie := rfl
@[simp] theorem modVfTu_lre (n : Nat) (f : VfTu → VfTu) (s : State) : (modVfTu n f s).lre = s.lre := rfl
@[simp] theorem modVfTu_coh (n : Nat) (f : VfTu → VfTu) (s : State) : (modVfTu n f s).coh = s.coh := rfl
@[simp] theorem modVfTu_mi (n : Nat) (f : VfTu → VfTu) (s : State) : (modVfTu n f s).mi = s.mi := rfl
@[simp] theorem modVfTu_tu (n : Nat) (f : VfTu → VfTu) (s : State) : (modVfTu n f s).tu = { s.tu with vfs := tmod {} s.tu.vfs n f } := rfl
@[simp] theorem modVfTu_qu (n : Nat) (f : VfTu → VfTu) (s : State) : (modVfTu n f s).qu = s.qu := rfl
@[simp] theorem modVfTu_nu (n : Nat) (f : VfTu → VfTu) (s : State) : (modVfTu n f s).nu = s.nu := rfl
@[simp] theorem modVfTu_fc (n : Nat) (f : VfTu → VfTu) (s : State) : (modVfTu n f s).fc = s.fc := rfl
@[simp] theorem modVfTu_rc (n : Nat) (f : VfTu → VfTu) (s : State) : (modVfTu n f s).rc = s.rc := rfl
@[simp] theorem modVfTu_tc (n : Nat) (f : VfTu → VfTu) (s : State) : (modVfTu n f s).tc = s.tc := rfl
@[simp] theorem modVfTu_hm (n : Nat) (f : VfTu → VfTu) (s : State) : (modVfTu n f s).hm = s.hm := rfl
@[simp] theorem modVfTu_loads (n : Nat) (f : VfTu → VfTu) (s : State) : (modVfTu n f s).loads = s.loads := rfl
@[simp] theorem modVfTu_out (n : Nat) (f : VfTu → VfTu) (s : State) : (modVfTu n f s).out = s.out := rfl
@[simp] theorem modVfTu_freeCount (n : Nat) (f : VfTu → VfTu) (s : State) : (modVfTu n f s).freeCount = s.freeCount := rfl
@[simp] theorem modVfTu_nextId (n : Nat) (f : VfTu → VfTu) (s : State) : (modVfTu n f s).nextId = s.nextId := rfl
@[simp] theorem modVfTu_pending (n : Nat) (f : VfTu → VfTu) (s : State) : (modVfTu n f s).pending = s.pending := rfl

/-! ### `modPort` -/

@[simp] theorem modPort_bnd (p : Nat) (f : Port → Port) (s : State) : (modPort p f s).bnd = s.bnd := rfl
@[simp] theorem modPort_tb (p : Nat) (f : Port → Port) (s : State) : (modPort p f s).tb = s.tb := rfl
@[simp] theorem modPort_cu (p : Nat) (f : Port → Port) (s : State) : (modPort p f s).cu = s.cu := rfl
@[simp] theorem modPort_steps (p : Nat) (f : Port → Port) (s : State) : (modPort p f s).steps = s.steps := rfl
@[simp] theorem modPort_ps (p : Nat) (f : Port → Port) (s : State) : (modPort p f s).ps = s.ps := rfl
@[simp] theorem modPort_ac (p : Nat) (f : Port → Port) (s : State) : (modPort p f s).ac = s.ac := rfl
@[simp] theorem modPort_rie (p : Nat) (f : Port → Port) (s : State) : (modPort p f s).rie = s.rie := rfl
@[simp] theorem modPort_lre (p : Nat) (f : Port → Port) (s : State) : (modPort p f s).lre = s.lre := rfl
@[simp] theorem modPort_coh (p : Nat) (f : Port → Port) (s : State) : (modPort p f s).coh = s.coh := rfl
@[simp] theorem modPort_mi (p : Nat) (f : Port → Port) (s : State) : (modPort p f s).mi = s.mi := rfl
@[simp] theorem modPort_tu (p : Nat) (f : Port → Port) (s : State) : (modPort p f s).tu = s.tu := rfl
@[simp] theorem modPort_qu (p : Nat) (f : Port → Port) (s : State) : (modPort p f s).qu = s.qu := rfl
@[simp] theorem modPort_nu (p : Nat) (f : Port → Port) (s : State) : (modPort p f s).nu = { s.nu with ports := tmod {} s.nu.ports p f } := rfl
@[simp] theorem modPort_fc (p : Nat) (f : Port → Port) (s : State) : (modPort p f s).fc = s.fc := rfl
@[simp] theorem modPort_rc (p : Nat) (f : Port → Port) (s : State) : (modPort p f s).rc = s.rc := rfl
@[simp] theorem modPort_tc (p : Nat) (f : Port → Port) (s : State) : (modPort p f s).tc = s.tc := rfl
@[simp] theorem modPort_hm (p : Nat) (f : Port → Port) (s : State) : (modPort p f s).hm = s.hm := rfl
@[simp] theorem modPort_loads (p : Nat) (f : Port → Port) (s : State) : (modPort p f s).loads = s.loads := rfl
@[simp] theorem modPort_out (p : Nat) (f : Port → Port) (s : State) : (modPort p f s).out = s.out := rfl
@[simp] theorem modPort_freeCount (p : Nat) (f : Port → Port) (s : State) : (modPort p f s).freeCount = s.freeCount := rfl
@[simp] theorem modPort_nextId (p : Nat) (f : Port → Port) (s : State) : (modPort p f s).nextId = s.nextId := rfl
@[simp] theorem modPort_pending (p : Nat) (f : Port → Port) (s : State) : (modPort p f s).pending = s.pending := rfl

/-! ### `setPeer` -/

@[simp] theorem setPeer_bnd (c : Nat) (x : Peer) (s : State) : (setPeer c x s).bnd = s.bnd := rfl
@[simp] theorem setPeer_tb (c : Nat) (x : Peer) (s : State) : (setPeer c x s).tb = s.tb := rfl
@[simp] theorem setPeer_cu (c : Nat) (x : Peer) (s : State) : (setPeer c x s).cu = s.cu := rfl
@[simp] theorem setPeer_steps (c : Nat) (x : Peer) (s : State) : (setPeer c x s).steps = s.steps := rfl
@[simp] theorem setPeer_ps (c : Nat) (x : Peer) (s : State) : (setPeer c x s).ps = s.ps := rfl
@[simp] theorem setPeer_ac (c : Nat) (x : Peer) (s : State) : (setPeer c x s).ac = s.ac := rfl
@[simp] theorem setPeer_rie (c : Nat) (x : Peer) (s : State) : (setPeer c x s).rie = s.rie := rfl
@[simp] theorem setPeer_lre (c : Nat) (x : Peer) (s : State) : (setPeer c x s).lre = s.lre := rfl
@[simp] theorem setPeer_coh (c : Nat) (x : Peer) (s : State) : (setPeer c x s).coh = s.coh := rfl
@[simp] theorem setPeer_mi (c : Nat) (x : Peer) (s : State) : (setPeer c x s).mi = s.mi := rfl
@[simp] theorem setPeer_tu (c : Nat) (x : Peer) (s : State) : (setPeer c x s).tu = s.tu := rfl
@[simp] theorem setPeer_qu (c : Nat) (x : Peer) (s : State) : (setPeer c x s).qu = s.qu := rfl
@[simp] theorem setPeer_nu (c : Nat) (x : Peer) (s : State) : (setPeer c x s).nu = { s.nu with peers := tput s.nu.peers c x } := rfl
@[simp] theorem setPeer_fc (c : Nat) (x : Peer) (s : State) : (setPeer c x s).fc = s.fc := rfl
@[simp] theorem setPeer_rc (c : Nat) (x : Peer) (s : State) : (setPeer c x s).rc = s.rc := rfl
@[simp] theorem setPeer_tc (c : Nat) (x : Peer) (s : State) : (setPeer c x s).tc = s.tc := rfl
@[simp] theorem setPeer_hm (c : Nat) (x : Peer) (s : State) : (setPeer c x s).hm = s.hm := rfl
@[simp] theorem setPeer_loads (c : Nat) (x : Peer) (s : State) : (setPeer c x s).loads = s.loads := rfl
@[simp] theorem setPeer_out (c : Nat) (x : Peer) (s : State) : (setPeer c x s).out = s.out := rfl
@[simp] theorem setPeer_freeCount (c : Nat) (x : Peer) (s : State) : (setPeer c x s).freeCount = s.freeCount := rfl
@[simp] theorem setPeer_nextId (c : Nat) (x : Peer) (s : State) : (setPeer c x s).nextId = s.nextId := rfl
@[simp] theorem setPeer_pending (c : Nat) (x : Peer) (s : State) : (setPeer c x s).pending = s.pending := rfl

/-! ### `modOut` -/

@[simp] theorem modOut_bnd (i : Nat) (f : OutReq → OutReq) (s : State) : (modOut i f s).bnd = s.bnd := rfl
@[simp] theorem modOut_tb (i : Nat) (f : OutReq → OutReq) (s : State) : (modOut i f s).tb = s.tb := rfl
@[simp] theorem modOut_cu (i : Nat) (f : OutReq → OutReq) (s : State) : (modOut i f s).cu = s.cu := rfl
@[simp] theorem modOut_steps (i : Nat) (f : OutReq → OutReq) (s : State) : (modOut i f s).steps = s.steps := rfl
@[simp] theorem modOut_ps (i : Nat) (f : OutReq → OutReq) (s : State) : (modOut i f s).ps = s.ps := rfl
@[simp] theorem modOut_ac (i : Nat) (f : OutReq → OutReq) (s : State) : (modOut i f s).ac = s.ac := rfl
@[simp] theorem modOut_rie (i : Nat) (f : OutReq → OutReq) (s : State) : (modOut i f s).rie = s.rie := rfl
@[simp] theorem modOut_lre (i : Nat) (f : OutReq → OutReq) (s : State) : (modOut i f s).lre = s.lre := rfl
@[simp] theorem modOut_coh (i : Nat) (f : OutReq → OutReq) (s : State) : (modOut i f s).coh = s.coh := rfl
@[simp] theorem modOut_mi (i : Nat) (f : OutReq → OutReq) (s : State) : (modOut i f s).mi = s.mi := rfl
@[simp] theorem modOut_tu (i : Nat) (f : OutReq → OutReq) (s : State) : (modOut i f s).tu = s.tu := rfl
@[simp] theorem modOut_qu (i : Nat) (f : OutReq → OutReq) (s : State) : (modOut i f s).qu = s.qu := rfl
@[simp] theorem modOut_fc (i : Nat) (f : OutReq → OutReq) (s : State) : (modOut i f s).fc = s.fc := rfl
@[simp] theorem modOut_rc (i : Nat) (f : OutReq → OutReq) (s : State) : (modOut i f s).rc = s.rc := rfl
@[simp] theorem modOut_tc (i : Nat) (f : OutReq → OutReq) (s : State) : (modOut i f s).tc = s.tc := rfl
@[simp] theorem modOut_hm (i : Nat) (f : OutReq → OutReq) (s : State) : (modOut i f s).hm = s.hm := rfl
@[simp] theorem modOut_loads (i : Nat) (f : OutReq → OutReq) (s : State) : (modOut i f s).loads = s.loads := rfl
@[simp] theorem modOut_out (i : Nat) (f : OutReq → OutReq) (s : State) : (modOut i f s).out = s.out := rfl
@[simp] theorem modOut_freeCount (i : Nat) (f : OutReq → OutReq) (s : State) : (modOut i f s).freeCount = s.freeCount := rfl
@[simp] theorem modOut_nextId (i : Nat) (f : OutReq → OutReq) (s : State) : (modOut i f s).nextId = s.nextId := rfl
@[simp] theorem modOut_pending (i : Nat) (f : OutReq → OutReq) (s : State) : (modOut i f s).pending = s.pending := rfl

/-! ### `setJob` -/

@[simp] theorem setJob_bnd (n j : Nat) (x : Job) (s : State) : (setJob n j x s).bnd = s.bnd := rfl
@[simp] theorem setJob_tb (n j : Nat) (x : Job) (s : State) : (setJob n j x s).tb = s.tb := rfl
@[simp] theorem setJob_cu (n j : Nat) (x : Job) (s : State) : (setJob n j x s).cu = s.cu := rfl
@[simp] theorem setJob_steps (n j : Nat) (x : Job) (s : State) : (setJob n j x s).steps = s.steps := rfl
@[simp] theorem setJob_ps (n j : Nat) (x : Job) (s : State) : (setJob n j x s).ps = s.ps := rfl
@[simp] theorem setJob_ac (n j : Nat) (x : Job) (s : State) : (setJob n j x s).ac = s.ac := rfl
@[simp] theorem setJob_rie (n j : Nat) (x : Job) (s : State) : (setJob n j x s).rie = s.rie := rfl
@[simp] theorem setJob_lre (n j : Nat) (x : Job) (s : State) : (setJob n j x s).lre = s.lre := rfl
@[simp] theorem setJob_coh (n j : Nat) (x : Job) (s : State) : (setJob n j x s).coh = s.coh := rfl
@[simp] theorem setJob_mi (n j : Nat) (x : Job) (s : State) : (setJob n j x s).mi = s.mi := rfl
@[simp] theorem setJob_tu (n j : Nat) (x : Job) (s : State) : (setJob n j x s).tu = s.tu := rfl
@[simp] theorem setJob_qu (n j : Nat) (x : Job) (s : State) : (setJob n j x s).qu = s.qu := rfl
@[simp] theorem setJob_nu (n j : Nat) (x : Job) (s : State) : (setJob n j x s).nu = { s.nu with jobs := tput s.nu.jobs (pkey 5 n j) x } := rfl
@[simp] theorem setJob_fc (n j : Nat) (x : Job) (s : State) : (setJob n j x s).fc = s.fc := rfl
@[simp] theorem setJob_rc (n j : Nat) (x : Job) (s : State) : (setJob n j x s).rc = s.rc := rfl
@[simp] theorem setJob_tc (n j : Nat) (x : Job) (s : State) : (setJob n j x s).tc = s.tc := rfl
@[simp] theorem setJob_hm (n j : Nat) (x : Job) (s : State) : (setJob n j x s).hm = s.hm := rfl
@[simp] theorem setJob_loads (n j : Nat) (x : Job) (s : State) : (setJob n j x s).loads = s.loads := rfl
@[simp] theorem setJob_out (n j : Nat) (x : Job) (s : State) : (setJob n j x s).out = s.out := rfl
@[simp] theorem setJob_freeCount (n j : Nat) (x : Job) (s : State) : (setJob n j x s).freeCount = s.freeCount := rfl
@[simp] theorem setJob_nextId (n j : Nat) (x : Job) (s : State) : (setJob n j x s).nextId = s.nextId := rfl
@[simp] theorem setJob_pending (n j : Nat) (x : Job) (s : State) : (setJob n j x s).pending = s.pending := rfl

/-! ### `modVfNu` -/

@[simp] theorem modVfNu_bnd (n : Nat) (f : VfNu → VfNu) (s : State) : (modVfNu n f s).bnd = s.bnd := rfl
@[simp] theorem modVfNu_tb (n : Nat) (f : VfNu → VfNu) (s : State) : (modVfNu n f s).tb = s.tb := rfl
@[simp] theorem modVfNu_cu (n : Nat) (f : VfNu → VfNu) (s : State) : (modVfNu n f s).cu = s.cu := rfl
@[simp] theorem modVfNu_steps (n : Nat) (f : VfNu → VfNu) (s : State) : (modVfNu n f s).steps = s.steps := rfl
@[simp] theorem modVfNu_ps (n : Nat) (f : VfNu → VfNu) (s : State) : (modVfNu n f s).ps = s.ps := rfl
@[simp] theorem modVfNu_ac (n : Nat) (f : VfNu → VfNu) (s : State) : (modVfNu n f s).ac = s.ac := rfl
@[simp] theorem modVfNu_rie (n : Nat) (f : VfNu → VfNu) (s : State) : (modVfNu n f s).rie = s.rie := rfl
@[simp] theorem modVfNu_lre (n : Nat) (f : VfNu → VfNu) (s : State) : (modVfNu n f s).lre = s.lre := rfl
@[simp] theorem modVfNu_coh (n : Nat) (f : VfNu → VfNu) (s : State) : (modVfNu n f s).coh = s.coh := rfl
@[simp] theorem modVfNu_mi (n : Nat) (f : VfNu → VfNu) (s : State) : (modVfNu n f s).mi = s.mi := rfl
@[simp] theorem modVfNu_tu (n : Nat) (f : VfNu → VfNu) (s : State) : (modVfNu n f s).tu = s.tu := rfl
@[simp] theorem modVfNu_qu (n : Nat) (f : VfNu → VfNu) (s : State) : (modVfNu n f s).qu = s.qu := rfl
@[simp] theorem modVfNu_nu (n : Nat) (f : VfNu → VfNu) (s : State) : (modVfNu n f s).nu = { s.nu with vfs := tmod {} s.nu.vfs n f } := rfl
@[simp] theorem modVfNu_fc (n : Nat) (f : VfNu → VfNu) (s : State) : (modVfNu n f s).fc = s.fc := rfl
@[simp] theorem modVfNu_rc (n : Nat) (f : VfNu → VfNu) (s : State) : (modVfNu n f s).rc = s.rc := rfl
@[simp] theorem modVfNu_tc (n : Nat) (f : VfNu → VfNu) (s : State) : (modVfNu n f s).tc = s.tc := rfl
@[simp] theorem modVfNu_hm (n : Nat) (f : VfNu → VfNu) (s : State) : (modVfNu n f s).hm = s.hm := rfl
@[simp] theorem modVfNu_loads (n : Nat) (f : VfNu → VfNu) (s : State) : (modVfNu n f s).loads = s.loads := rfl
@[simp] theorem modVfNu_out (n : Nat) (f : VfNu → VfNu) (s : State) : (modVfNu n f s).out = s.out := rfl
@[simp] theorem modVfNu_freeCount (n : Nat) (f : VfNu → VfNu) (s : State) : (modVfNu n f s).freeCount = s.freeCount := rfl
@[simp] theorem modVfNu_nextId (n : Nat) (f : VfNu → VfNu) (s : State) : (modVfNu n f s).nextId = s.nextId := rfl
@[simp] theorem modVfNu_pending (n : Nat) (f : VfNu → VfNu) (s : State) : (modVfNu n f s).pending = s.pending := rfl

/-! ### `modAdm` -/

@[simp] theorem modAdm_bnd (fn : Fn) (f : Admq → Admq) (s : State) : (modAdm fn f s).bnd = s.bnd := rfl
@[simp] theorem modAdm_tb (fn : Fn) (f : Admq → Admq) (s : State) : (modAdm fn f s).tb = s.tb := rfl
@[simp] theorem modAdm_cu (fn : Fn) (f : Admq → Admq) (s : State) : (modAdm fn f s).cu = s.cu := rfl
@[simp] theorem modAdm_steps (fn : Fn) (f : Admq → Admq) (s : State) : (modAdm fn f s).steps = s.steps := rfl
@[simp] theorem modAdm_ps (fn : Fn) (f : Admq → Admq) (s : State) : (modAdm fn f s).ps = s.ps := rfl
@[simp] theorem modAdm_ac (fn : Fn) (f : Admq → Admq) (s : State) : (modAdm fn f s).ac = s.ac := rfl
@[simp] theorem modAdm_rie (fn : Fn) (f : Admq → Admq) (s : State) : (modAdm fn f s).rie = s.rie := rfl
@[simp] theorem modAdm_lre (fn : Fn) (f : Admq → Admq) (s : State) : (modAdm fn f s).lre = s.lre := rfl
@[simp] theorem modAdm_coh (fn : Fn) (f : Admq → Admq) (s : State) : (modAdm fn f s).coh = s.coh := rfl
@[simp] theorem modAdm_mi (fn : Fn) (f : Admq → Admq) (s : State) : (modAdm fn f s).mi = s.mi := rfl
@[simp] theorem modAdm_tu (fn : Fn) (f : Admq → Admq) (s : State) : (modAdm fn f s).tu = s.tu := rfl
@[simp] theorem modAdm_qu (fn : Fn) (f : Admq → Admq) (s : State) : (modAdm fn f s).qu = { s.qu with adm := tmod {} s.qu.adm (admKey fn) f } := rfl
@[simp] theorem modAdm_nu (fn : Fn) (f : Admq → Admq) (s : State) : (modAdm fn f s).nu = s.nu := rfl
@[simp] theorem modAdm_fc (fn : Fn) (f : Admq → Admq) (s : State) : (modAdm fn f s).fc = s.fc := rfl
@[simp] theorem modAdm_rc (fn : Fn) (f : Admq → Admq) (s : State) : (modAdm fn f s).rc = s.rc := rfl
@[simp] theorem modAdm_tc (fn : Fn) (f : Admq → Admq) (s : State) : (modAdm fn f s).tc = s.tc := rfl
@[simp] theorem modAdm_hm (fn : Fn) (f : Admq → Admq) (s : State) : (modAdm fn f s).hm = s.hm := rfl
@[simp] theorem modAdm_loads (fn : Fn) (f : Admq → Admq) (s : State) : (modAdm fn f s).loads = s.loads := rfl
@[simp] theorem modAdm_out (fn : Fn) (f : Admq → Admq) (s : State) : (modAdm fn f s).out = s.out := rfl
@[simp] theorem modAdm_freeCount (fn : Fn) (f : Admq → Admq) (s : State) : (modAdm fn f s).freeCount = s.freeCount := rfl
@[simp] theorem modAdm_nextId (fn : Fn) (f : Admq → Admq) (s : State) : (modAdm fn f s).nextId = s.nextId := rfl
@[simp] theorem modAdm_pending (fn : Fn) (f : Admq → Admq) (s : State) : (modAdm fn f s).pending = s.pending := rfl

/-! ### `dropDoorbell` -/

@[simp] theorem dropDoorbell_bnd (s : State) : (dropDoorbell s).bnd = s.bnd := rfl
@[simp] theorem dropDoorbell_tb (s : State) : (dropDoorbell s).tb = s.tb := rfl
@[simp] theorem dropDoorbell_cu (s : State) : (dropDoorbell s).cu = s.cu := rfl
@[simp] theorem dropDoorbell_steps (s : State) : (dropDoorbell s).steps = s.steps := rfl
@[simp] theorem dropDoorbell_ps (s : State) : (dropDoorbell s).ps = s.ps := rfl
@[simp] theorem dropDoorbell_ac (s : State) : (dropDoorbell s).ac = s.ac := rfl
@[simp] theorem dropDoorbell_rie (s : State) : (dropDoorbell s).rie = s.rie := rfl
@[simp] theorem dropDoorbell_lre (s : State) : (dropDoorbell s).lre = s.lre := rfl
@[simp] theorem dropDoorbell_coh (s : State) : (dropDoorbell s).coh = s.coh := rfl
@[simp] theorem dropDoorbell_mi (s : State) : (dropDoorbell s).mi = s.mi := rfl
@[simp] theorem dropDoorbell_tu (s : State) : (dropDoorbell s).tu = s.tu := rfl
@[simp] theorem dropDoorbell_nu (s : State) : (dropDoorbell s).nu = s.nu := rfl
@[simp] theorem dropDoorbell_fc (s : State) : (dropDoorbell s).fc = s.fc := rfl
@[simp] theorem dropDoorbell_rc (s : State) : (dropDoorbell s).rc = s.rc := rfl
@[simp] theorem dropDoorbell_tc (s : State) : (dropDoorbell s).tc = s.tc := rfl
@[simp] theorem dropDoorbell_hm (s : State) : (dropDoorbell s).hm = s.hm := rfl
@[simp] theorem dropDoorbell_loads (s : State) : (dropDoorbell s).loads = s.loads := rfl
@[simp] theorem dropDoorbell_out (s : State) : (dropDoorbell s).out = s.out := rfl
@[simp] theorem dropDoorbell_freeCount (s : State) : (dropDoorbell s).freeCount = s.freeCount := rfl
@[simp] theorem dropDoorbell_nextId (s : State) : (dropDoorbell s).nextId = s.nextId := rfl
@[simp] theorem dropDoorbell_pending (s : State) : (dropDoorbell s).pending = s.pending := rfl

/-! ### `countBadAccess` -/

@[simp] theorem countBadAccess_tb (s : State) : (countBadAccess s).tb = s.tb := rfl
@[simp] theorem countBadAccess_cu (s : State) : (countBadAccess s).cu = s.cu := rfl
@[simp] theorem countBadAccess_steps (s : State) : (countBadAccess s).steps = s.steps := rfl
@[simp] theorem countBadAccess_ps (s : State) : (countBadAccess s).ps = s.ps := rfl
@[simp] theorem countBadAccess_ac (s : State) : (countBadAccess s).ac = s.ac := rfl
@[simp] theorem countBadAccess_rie (s : State) : (countBadAccess s).rie = s.rie := rfl
@[simp] theorem countBadAccess_lre (s : State) : (countBadAccess s).lre = s.lre := rfl
@[simp] theorem countBadAccess_coh (s : State) : (countBadAccess s).coh = s.coh := rfl
@[simp] theorem countBadAccess_mi (s : State) : (countBadAccess s).mi = s.mi := rfl
@[simp] theorem countBadAccess_tu (s : State) : (countBadAccess s).tu = s.tu := rfl
@[simp] theorem countBadAccess_qu (s : State) : (countBadAccess s).qu = s.qu := rfl
@[simp] theorem countBadAccess_nu (s : State) : (countBadAccess s).nu = s.nu := rfl
@[simp] theorem countBadAccess_fc (s : State) : (countBadAccess s).fc = s.fc := rfl
@[simp] theorem countBadAccess_rc (s : State) : (countBadAccess s).rc = s.rc := rfl
@[simp] theorem countBadAccess_tc (s : State) : (countBadAccess s).tc = s.tc := rfl
@[simp] theorem countBadAccess_hm (s : State) : (countBadAccess s).hm = s.hm := rfl
@[simp] theorem countBadAccess_loads (s : State) : (countBadAccess s).loads = s.loads := rfl
@[simp] theorem countBadAccess_out (s : State) : (countBadAccess s).out = s.out := rfl
@[simp] theorem countBadAccess_freeCount (s : State) : (countBadAccess s).freeCount = s.freeCount := rfl
@[simp] theorem countBadAccess_nextId (s : State) : (countBadAccess s).nextId = s.nextId := rfl
@[simp] theorem countBadAccess_pending (s : State) : (countBadAccess s).pending = s.pending := rfl

/-! ### `setStage` -/

@[simp] theorem setStage_bnd (g : Stage) (s : State) : (setStage g s).bnd = { s.bnd with stage := g } := rfl
@[simp] theorem setStage_tb (g : Stage) (s : State) : (setStage g s).tb = s.tb := rfl
@[simp] theorem setStage_cu (g : Stage) (s : State) : (setStage g s).cu = s.cu := rfl
@[simp] theorem setStage_steps (g : Stage) (s : State) : (setStage g s).steps = s.steps := rfl
@[simp] theorem setStage_ps (g : Stage) (s : State) : (setStage g s).ps = s.ps := rfl
@[simp] theorem setStage_ac (g : Stage) (s : State) : (setStage g s).ac = s.ac := rfl
@[simp] theorem setStage_rie (g : Stage) (s : State) : (setStage g s).rie = s.rie := rfl
@[simp] theorem setStage_lre (g : Stage) (s : State) : (setStage g s).lre = s.lre := rfl
@[simp] theorem setStage_coh (g : Stage) (s : State) : (setStage g s).coh = s.coh := rfl
@[simp] theorem setStage_mi (g : Stage) (s : State) : (setStage g s).mi = s.mi := rfl
@[simp] theorem setStage_tu (g : Stage) (s : State) : (setStage g s).tu = s.tu := rfl
@[simp] theorem setStage_qu (g : Stage) (s : State) : (setStage g s).qu = s.qu := rfl
@[simp] theorem setStage_nu (g : Stage) (s : State) : (setStage g s).nu = s.nu := rfl
@[simp] theorem setStage_fc (g : Stage) (s : State) : (setStage g s).fc = s.fc := rfl
@[simp] theorem setStage_rc (g : Stage) (s : State) : (setStage g s).rc = s.rc := rfl
@[simp] theorem setStage_tc (g : Stage) (s : State) : (setStage g s).tc = s.tc := rfl
@[simp] theorem setStage_hm (g : Stage) (s : State) : (setStage g s).hm = s.hm := rfl
@[simp] theorem setStage_loads (g : Stage) (s : State) : (setStage g s).loads = s.loads := rfl
@[simp] theorem setStage_out (g : Stage) (s : State) : (setStage g s).out = s.out := rfl
@[simp] theorem setStage_freeCount (g : Stage) (s : State) : (setStage g s).freeCount = s.freeCount := rfl
@[simp] theorem setStage_nextId (g : Stage) (s : State) : (setStage g s).nextId = s.nextId := rfl
@[simp] theorem setStage_pending (g : Stage) (s : State) : (setStage g s).pending = s.pending := rfl

/-! ### `setKey` -/

@[simp] theorem setKey_bnd (k : Nat) (v : KeyState) (s : State) : (setKey k v s).bnd = s.bnd := rfl
@[simp] theorem setKey_tb (k : Nat) (v : KeyState) (s : State) : (setKey k v s).tb = s.tb := rfl
@[simp] theorem setKey_cu (k : Nat) (v : KeyState) (s : State) : (setKey k v s).cu = s.cu := rfl
@[simp] theorem setKey_steps (k : Nat) (v : KeyState) (s : State) : (setKey k v s).steps = s.steps := rfl
@[simp] theorem setKey_ps (k : Nat) (v : KeyState) (s : State) : (setKey k v s).ps = s.ps := rfl
@[simp] theorem setKey_ac (k : Nat) (v : KeyState) (s : State) : (setKey k v s).ac = s.ac := rfl
@[simp] theorem setKey_rie (k : Nat) (v : KeyState) (s : State) : (setKey k v s).rie = s.rie := rfl
@[simp] theorem setKey_lre (k : Nat) (v : KeyState) (s : State) : (setKey k v s).lre = s.lre := rfl
@[simp] theorem setKey_coh (k : Nat) (v : KeyState) (s : State) : (setKey k v s).coh = s.coh := rfl
@[simp] theorem setKey_tu (k : Nat) (v : KeyState) (s : State) : (setKey k v s).tu = s.tu := rfl
@[simp] theorem setKey_qu (k : Nat) (v : KeyState) (s : State) : (setKey k v s).qu = s.qu := rfl
@[simp] theorem setKey_nu (k : Nat) (v : KeyState) (s : State) : (setKey k v s).nu = s.nu := rfl
@[simp] theorem setKey_fc (k : Nat) (v : KeyState) (s : State) : (setKey k v s).fc = s.fc := rfl
@[simp] theorem setKey_rc (k : Nat) (v : KeyState) (s : State) : (setKey k v s).rc = s.rc := rfl
@[simp] theorem setKey_tc (k : Nat) (v : KeyState) (s : State) : (setKey k v s).tc = s.tc := rfl
@[simp] theorem setKey_hm (k : Nat) (v : KeyState) (s : State) : (setKey k v s).hm = s.hm := rfl
@[simp] theorem setKey_loads (k : Nat) (v : KeyState) (s : State) : (setKey k v s).loads = s.loads := rfl
@[simp] theorem setKey_out (k : Nat) (v : KeyState) (s : State) : (setKey k v s).out = s.out := rfl
@[simp] theorem setKey_freeCount (k : Nat) (v : KeyState) (s : State) : (setKey k v s).freeCount = s.freeCount := rfl
@[simp] theorem setKey_nextId (k : Nat) (v : KeyState) (s : State) : (setKey k v s).nextId = s.nextId := rfl
@[simp] theorem setKey_pending (k : Nat) (v : KeyState) (s : State) : (setKey k v s).pending = s.pending := rfl

/-! ### `holdPart` -/

@[simp] theorem holdPart_bnd (n : Nat) (s : State) : (holdPart n s).bnd = s.bnd := rfl
@[simp] theorem holdPart_tb (n : Nat) (s : State) : (holdPart n s).tb = s.tb := rfl
@[simp] theorem holdPart_cu (n : Nat) (s : State) : (holdPart n s).cu = s.cu := rfl
@[simp] theorem holdPart_steps (n : Nat) (s : State) : (holdPart n s).steps = s.steps := rfl
@[simp] theorem holdPart_ps (n : Nat) (s : State) : (holdPart n s).ps = { s.ps with hold := setBit s.ps.hold n true } := rfl
@[simp] theorem holdPart_ac (n : Nat) (s : State) : (holdPart n s).ac = s.ac := rfl
@[simp] theorem holdPart_rie (n : Nat) (s : State) : (holdPart n s).rie = s.rie := rfl
@[simp] theorem holdPart_lre (n : Nat) (s : State) : (holdPart n s).lre = s.lre := rfl
@[simp] theorem holdPart_coh (n : Nat) (s : State) : (holdPart n s).coh = s.coh := rfl
@[simp] theorem holdPart_mi (n : Nat) (s : State) : (holdPart n s).mi = s.mi := rfl
@[simp] theorem holdPart_tu (n : Nat) (s : State) : (holdPart n s).tu = s.tu := rfl
@[simp] theorem holdPart_qu (n : Nat) (s : State) : (holdPart n s).qu = s.qu := rfl
@[simp] theorem holdPart_nu (n : Nat) (s : State) : (holdPart n s).nu = s.nu := rfl
@[simp] theorem holdPart_fc (n : Nat) (s : State) : (holdPart n s).fc = s.fc := rfl
@[simp] theorem holdPart_rc (n : Nat) (s : State) : (holdPart n s).rc = s.rc := rfl
@[simp] theorem holdPart_tc (n : Nat) (s : State) : (holdPart n s).tc = s.tc := rfl
@[simp] theorem holdPart_hm (n : Nat) (s : State) : (holdPart n s).hm = s.hm := rfl
@[simp] theorem holdPart_loads (n : Nat) (s : State) : (holdPart n s).loads = s.loads := rfl
@[simp] theorem holdPart_out (n : Nat) (s : State) : (holdPart n s).out = s.out := rfl
@[simp] theorem holdPart_freeCount (n : Nat) (s : State) : (holdPart n s).freeCount = s.freeCount := rfl
@[simp] theorem holdPart_nextId (n : Nat) (s : State) : (holdPart n s).nextId = s.nextId := rfl
@[simp] theorem holdPart_pending (n : Nat) (s : State) : (holdPart n s).pending = s.pending := rfl

/-! ### `haltDevice` -/

@[simp] theorem haltDevice_bnd (s : State) : (haltDevice s).bnd = s.bnd := rfl
@[simp] theorem haltDevice_tb (s : State) : (haltDevice s).tb = s.tb := rfl
@[simp] theorem haltDevice_cu (s : State) : (haltDevice s).cu = { s.cu with halted := true, open_ := none, applied := false } := rfl
@[simp] theorem haltDevice_steps (s : State) : (haltDevice s).steps = s.steps := rfl
@[simp] theorem haltDevice_ps (s : State) : (haltDevice s).ps = s.ps := rfl
@[simp] theorem haltDevice_ac (s : State) : (haltDevice s).ac = s.ac := rfl
@[simp] theorem haltDevice_rie (s : State) : (haltDevice s).rie = s.rie := rfl
@[simp] theorem haltDevice_lre (s : State) : (haltDevice s).lre = s.lre := rfl
@[simp] theorem haltDevice_coh (s : State) : (haltDevice s).coh = s.coh := rfl
@[simp] theorem haltDevice_mi (s : State) : (haltDevice s).mi = s.mi := rfl
@[simp] theorem haltDevice_tu (s : State) : (haltDevice s).tu = s.tu := rfl
@[simp] theorem haltDevice_qu (s : State) : (haltDevice s).qu = s.qu := rfl
@[simp] theorem haltDevice_nu (s : State) : (haltDevice s).nu = s.nu := rfl
@[simp] theorem haltDevice_fc (s : State) : (haltDevice s).fc = s.fc := rfl
@[simp] theorem haltDevice_rc (s : State) : (haltDevice s).rc = s.rc := rfl
@[simp] theorem haltDevice_tc (s : State) : (haltDevice s).tc = s.tc := rfl
@[simp] theorem haltDevice_hm (s : State) : (haltDevice s).hm = s.hm := rfl
@[simp] theorem haltDevice_loads (s : State) : (haltDevice s).loads = s.loads := rfl
@[simp] theorem haltDevice_out (s : State) : (haltDevice s).out = s.out := rfl
@[simp] theorem haltDevice_freeCount (s : State) : (haltDevice s).freeCount = s.freeCount := rfl
@[simp] theorem haltDevice_nextId (s : State) : (haltDevice s).nextId = s.nextId := rfl
@[simp] theorem haltDevice_pending (s : State) : (haltDevice s).pending = s.pending := rfl

/-! ### `modVfTc` -/

@[simp] theorem modVfTc_bnd (n : Nat) (f : VfTc → VfTc) (s : State) : (modVfTc n f s).bnd = s.bnd := rfl
@[simp] theorem modVfTc_tb (n : Nat) (f : VfTc → VfTc) (s : State) : (modVfTc n f s).tb = s.tb := rfl
@[simp] theorem modVfTc_cu (n : Nat) (f : VfTc → VfTc) (s : State) : (modVfTc n f s).cu = s.cu := rfl
@[simp] theorem modVfTc_steps (n : Nat) (f : VfTc → VfTc) (s : State) : (modVfTc n f s).steps = s.steps := rfl
@[simp] theorem modVfTc_ps (n : Nat) (f : VfTc → VfTc) (s : State) : (modVfTc n f s).ps = s.ps := rfl
@[simp] theorem modVfTc_ac (n : Nat) (f : VfTc → VfTc) (s : State) : (modVfTc n f s).ac = s.ac := rfl
@[simp] theorem modVfTc_rie (n : Nat) (f : VfTc → VfTc) (s : State) : (modVfTc n f s).rie = s.rie := rfl
@[simp] theorem modVfTc_lre (n : Nat) (f : VfTc → VfTc) (s : State) : (modVfTc n f s).lre = s.lre := rfl
@[simp] theorem modVfTc_coh (n : Nat) (f : VfTc → VfTc) (s : State) : (modVfTc n f s).coh = s.coh := rfl
@[simp] theorem modVfTc_mi (n : Nat) (f : VfTc → VfTc) (s : State) : (modVfTc n f s).mi = s.mi := rfl
@[simp] theorem modVfTc_tu (n : Nat) (f : VfTc → VfTc) (s : State) : (modVfTc n f s).tu = s.tu := rfl
@[simp] theorem modVfTc_qu (n : Nat) (f : VfTc → VfTc) (s : State) : (modVfTc n f s).qu = s.qu := rfl
@[simp] theorem modVfTc_nu (n : Nat) (f : VfTc → VfTc) (s : State) : (modVfTc n f s).nu = s.nu := rfl
@[simp] theorem modVfTc_fc (n : Nat) (f : VfTc → VfTc) (s : State) : (modVfTc n f s).fc = s.fc := rfl
@[simp] theorem modVfTc_rc (n : Nat) (f : VfTc → VfTc) (s : State) : (modVfTc n f s).rc = s.rc := rfl
@[simp] theorem modVfTc_tc (n : Nat) (f : VfTc → VfTc) (s : State) : (modVfTc n f s).tc = { s.tc with vfs := tmod {} s.tc.vfs n f } := rfl
@[simp] theorem modVfTc_hm (n : Nat) (f : VfTc → VfTc) (s : State) : (modVfTc n f s).hm = s.hm := rfl
@[simp] theorem modVfTc_loads (n : Nat) (f : VfTc → VfTc) (s : State) : (modVfTc n f s).loads = s.loads := rfl
@[simp] theorem modVfTc_out (n : Nat) (f : VfTc → VfTc) (s : State) : (modVfTc n f s).out = s.out := rfl
@[simp] theorem modVfTc_freeCount (n : Nat) (f : VfTc → VfTc) (s : State) : (modVfTc n f s).freeCount = s.freeCount := rfl
@[simp] theorem modVfTc_nextId (n : Nat) (f : VfTc → VfTc) (s : State) : (modVfTc n f s).nextId = s.nextId := rfl
@[simp] theorem modVfTc_pending (n : Nat) (f : VfTc → VfTc) (s : State) : (modVfTc n f s).pending = s.pending := rfl

/-! ### `setTdi` -/

@[simp] theorem setTdi_bnd (n : Nat) (x : Tdi) (s : State) : (setTdi n x s).bnd = s.bnd := rfl
@[simp] theorem setTdi_tb (n : Nat) (x : Tdi) (s : State) : (setTdi n x s).tb = s.tb := rfl
@[simp] theorem setTdi_cu (n : Nat) (x : Tdi) (s : State) : (setTdi n x s).cu = s.cu := rfl
@[simp] theorem setTdi_steps (n : Nat) (x : Tdi) (s : State) : (setTdi n x s).steps = s.steps := rfl
@[simp] theorem setTdi_ps (n : Nat) (x : Tdi) (s : State) : (setTdi n x s).ps = s.ps := rfl
@[simp] theorem setTdi_ac (n : Nat) (x : Tdi) (s : State) : (setTdi n x s).ac = s.ac := rfl
@[simp] theorem setTdi_rie (n : Nat) (x : Tdi) (s : State) : (setTdi n x s).rie = s.rie := rfl
@[simp] theorem setTdi_lre (n : Nat) (x : Tdi) (s : State) : (setTdi n x s).lre = s.lre := rfl
@[simp] theorem setTdi_coh (n : Nat) (x : Tdi) (s : State) : (setTdi n x s).coh = s.coh := rfl
@[simp] theorem setTdi_mi (n : Nat) (x : Tdi) (s : State) : (setTdi n x s).mi = s.mi := rfl
@[simp] theorem setTdi_tu (n : Nat) (x : Tdi) (s : State) : (setTdi n x s).tu = s.tu := rfl
@[simp] theorem setTdi_qu (n : Nat) (x : Tdi) (s : State) : (setTdi n x s).qu = s.qu := rfl
@[simp] theorem setTdi_nu (n : Nat) (x : Tdi) (s : State) : (setTdi n x s).nu = s.nu := rfl
@[simp] theorem setTdi_fc (n : Nat) (x : Tdi) (s : State) : (setTdi n x s).fc = s.fc := rfl
@[simp] theorem setTdi_rc (n : Nat) (x : Tdi) (s : State) : (setTdi n x s).rc = s.rc := rfl
@[simp] theorem setTdi_tc (n : Nat) (x : Tdi) (s : State) : (setTdi n x s).tc = { s.tc with tdi := tput s.tc.tdi n x } := rfl
@[simp] theorem setTdi_hm (n : Nat) (x : Tdi) (s : State) : (setTdi n x s).hm = s.hm := rfl
@[simp] theorem setTdi_loads (n : Nat) (x : Tdi) (s : State) : (setTdi n x s).loads = s.loads := rfl
@[simp] theorem setTdi_out (n : Nat) (x : Tdi) (s : State) : (setTdi n x s).out = s.out := rfl
@[simp] theorem setTdi_freeCount (n : Nat) (x : Tdi) (s : State) : (setTdi n x s).freeCount = s.freeCount := rfl
@[simp] theorem setTdi_nextId (n : Nat) (x : Tdi) (s : State) : (setTdi n x s).nextId = s.nextId := rfl
@[simp] theorem setTdi_pending (n : Nat) (x : Tdi) (s : State) : (setTdi n x s).pending = s.pending := rfl

/-! ### `setSpdm` -/

@[simp] theorem setSpdm_bnd (x : Spdm) (s : State) : (setSpdm x s).bnd = s.bnd := rfl
@[simp] theorem setSpdm_tb (x : Spdm) (s : State) : (setSpdm x s).tb = s.tb := rfl
@[simp] theorem setSpdm_cu (x : Spdm) (s : State) : (setSpdm x s).cu = s.cu := rfl
@[simp] theorem setSpdm_steps (x : Spdm) (s : State) : (setSpdm x s).steps = s.steps := rfl
@[simp] theorem setSpdm_ps (x : Spdm) (s : State) : (setSpdm x s).ps = s.ps := rfl
@[simp] theorem setSpdm_ac (x : Spdm) (s : State) : (setSpdm x s).ac = s.ac := rfl
@[simp] theorem setSpdm_rie (x : Spdm) (s : State) : (setSpdm x s).rie = s.rie := rfl
@[simp] theorem setSpdm_lre (x : Spdm) (s : State) : (setSpdm x s).lre = s.lre := rfl
@[simp] theorem setSpdm_coh (x : Spdm) (s : State) : (setSpdm x s).coh = s.coh := rfl
@[simp] theorem setSpdm_mi (x : Spdm) (s : State) : (setSpdm x s).mi = s.mi := rfl
@[simp] theorem setSpdm_tu (x : Spdm) (s : State) : (setSpdm x s).tu = s.tu := rfl
@[simp] theorem setSpdm_qu (x : Spdm) (s : State) : (setSpdm x s).qu = s.qu := rfl
@[simp] theorem setSpdm_nu (x : Spdm) (s : State) : (setSpdm x s).nu = s.nu := rfl
@[simp] theorem setSpdm_fc (x : Spdm) (s : State) : (setSpdm x s).fc = s.fc := rfl
@[simp] theorem setSpdm_rc (x : Spdm) (s : State) : (setSpdm x s).rc = s.rc := rfl
@[simp] theorem setSpdm_tc (x : Spdm) (s : State) : (setSpdm x s).tc = { s.tc with spdm := x } := rfl
@[simp] theorem setSpdm_hm (x : Spdm) (s : State) : (setSpdm x s).hm = s.hm := rfl
@[simp] theorem setSpdm_loads (x : Spdm) (s : State) : (setSpdm x s).loads = s.loads := rfl
@[simp] theorem setSpdm_out (x : Spdm) (s : State) : (setSpdm x s).out = s.out := rfl
@[simp] theorem setSpdm_freeCount (x : Spdm) (s : State) : (setSpdm x s).freeCount = s.freeCount := rfl
@[simp] theorem setSpdm_nextId (x : Spdm) (s : State) : (setSpdm x s).nextId = s.nextId := rfl
@[simp] theorem setSpdm_pending (x : Spdm) (s : State) : (setSpdm x s).pending = s.pending := rfl

/-! ### `endSessions` -/

@[simp] theorem endSessions_bnd (n : Nat) (s : State) : (endSessions n s).bnd = s.bnd := rfl
@[simp] theorem endSessions_tb (n : Nat) (s : State) : (endSessions n s).tb = s.tb := rfl
@[simp] theorem endSessions_cu (n : Nat) (s : State) : (endSessions n s).cu = s.cu := rfl
@[simp] theorem endSessions_steps (n : Nat) (s : State) : (endSessions n s).steps = s.steps := rfl
@[simp] theorem endSessions_ps (n : Nat) (s : State) : (endSessions n s).ps = s.ps := rfl
@[simp] theorem endSessions_ac (n : Nat) (s : State) : (endSessions n s).ac = s.ac := rfl
@[simp] theorem endSessions_rie (n : Nat) (s : State) : (endSessions n s).rie = { s.rie with sessions := s.rie.sessions.filter fun x => x.part ≠ n } := rfl
@[simp] theorem endSessions_lre (n : Nat) (s : State) : (endSessions n s).lre = s.lre := rfl
@[simp] theorem endSessions_coh (n : Nat) (s : State) : (endSessions n s).coh = s.coh := rfl
@[simp] theorem endSessions_mi (n : Nat) (s : State) : (endSessions n s).mi = s.mi := rfl
@[simp] theorem endSessions_tu (n : Nat) (s : State) : (endSessions n s).tu = s.tu := rfl
@[simp] theorem endSessions_qu (n : Nat) (s : State) : (endSessions n s).qu = s.qu := rfl
@[simp] theorem endSessions_nu (n : Nat) (s : State) : (endSessions n s).nu = s.nu := rfl
@[simp] theorem endSessions_fc (n : Nat) (s : State) : (endSessions n s).fc = s.fc := rfl
@[simp] theorem endSessions_rc (n : Nat) (s : State) : (endSessions n s).rc = s.rc := rfl
@[simp] theorem endSessions_tc (n : Nat) (s : State) : (endSessions n s).tc = s.tc := rfl
@[simp] theorem endSessions_hm (n : Nat) (s : State) : (endSessions n s).hm = s.hm := rfl
@[simp] theorem endSessions_loads (n : Nat) (s : State) : (endSessions n s).loads = s.loads := rfl
@[simp] theorem endSessions_out (n : Nat) (s : State) : (endSessions n s).out = s.out := rfl
@[simp] theorem endSessions_freeCount (n : Nat) (s : State) : (endSessions n s).freeCount = s.freeCount := rfl
@[simp] theorem endSessions_nextId (n : Nat) (s : State) : (endSessions n s).nextId = s.nextId := rfl
@[simp] theorem endSessions_pending (n : Nat) (s : State) : (endSessions n s).pending = s.pending := rfl

/-! ### `fresh` -/

@[simp] theorem fresh_bnd (w : Nat) (s : State) : (fresh w s).2.bnd = s.bnd := rfl
@[simp] theorem fresh_tb (w : Nat) (s : State) : (fresh w s).2.tb = s.tb := rfl
@[simp] theorem fresh_cu (w : Nat) (s : State) : (fresh w s).2.cu = s.cu := rfl
@[simp] theorem fresh_steps (w : Nat) (s : State) : (fresh w s).2.steps = s.steps := rfl
@[simp] theorem fresh_ps (w : Nat) (s : State) : (fresh w s).2.ps = s.ps := rfl
@[simp] theorem fresh_ac (w : Nat) (s : State) : (fresh w s).2.ac = s.ac := rfl
@[simp] theorem fresh_rie (w : Nat) (s : State) : (fresh w s).2.rie = s.rie := rfl
@[simp] theorem fresh_lre (w : Nat) (s : State) : (fresh w s).2.lre = s.lre := rfl
@[simp] theorem fresh_coh (w : Nat) (s : State) : (fresh w s).2.coh = s.coh := rfl
@[simp] theorem fresh_mi (w : Nat) (s : State) : (fresh w s).2.mi = s.mi := rfl
@[simp] theorem fresh_tu (w : Nat) (s : State) : (fresh w s).2.tu = s.tu := rfl
@[simp] theorem fresh_qu (w : Nat) (s : State) : (fresh w s).2.qu = s.qu := rfl
@[simp] theorem fresh_nu (w : Nat) (s : State) : (fresh w s).2.nu = s.nu := rfl
@[simp] theorem fresh_fc (w : Nat) (s : State) : (fresh w s).2.fc = s.fc := rfl
@[simp] theorem fresh_rc (w : Nat) (s : State) : (fresh w s).2.rc = s.rc := rfl
@[simp] theorem fresh_tc (w : Nat) (s : State) : (fresh w s).2.tc = s.tc := rfl
@[simp] theorem fresh_hm (w : Nat) (s : State) : (fresh w s).2.hm = s.hm := rfl
@[simp] theorem fresh_loads (w : Nat) (s : State) : (fresh w s).2.loads = s.loads := rfl
@[simp] theorem fresh_out (w : Nat) (s : State) : (fresh w s).2.out = s.out := rfl
@[simp] theorem fresh_freeCount (w : Nat) (s : State) : (fresh w s).2.freeCount = s.freeCount + 1 := rfl
@[simp] theorem fresh_nextId (w : Nat) (s : State) : (fresh w s).2.nextId = s.nextId := rfl
@[simp] theorem fresh_pending (w : Nat) (s : State) : (fresh w s).2.pending = s.pending := rfl

/-! ### Tables -/

/-- An entry set is read back, and every other entry is as before. -/
theorem tget_tput {α : Type} (d : α) (t : Tab α) (k j : Nat) (a : α) :
    tget d (tput t k a) j = if j = k then a else tget d t j := by
  induction t with
  | nil => simp only [tput, tget, eq_comm]
  | cons p t ih =>
    obtain ⟨i, b⟩ := p
    unfold tput
    split
    · simp only [tget, ih]
      split_ifs <;> first | rfl | omega
    · split <;> simp only [tget] <;> split_ifs <;> first | rfl | omega

@[simp] theorem tget_tput_self {α : Type} (d : α) (t : Tab α) (k : Nat) (a : α) : tget d (tput t k a) k = a := by
  rw [tget_tput, if_pos rfl]

theorem tget_tput_ne {α : Type} (d : α) (t : Tab α) {k j : Nat} (a : α) (h : j ≠ k) : tget d (tput t k a) j = tget d t j := by
  rw [tget_tput, if_neg h]

@[simp] theorem tget_tmod_self {α : Type} (d : α) (t : Tab α) (k : Nat) (f : α → α) :
    tget d (tmod d t k f) k = f (tget d t k) := tget_tput_self d t k _

theorem tget_tmod_ne {α : Type} (d : α) (t : Tab α) {k j : Nat} (f : α → α) (h : j ≠ k) :
    tget d (tmod d t k f) j = tget d t j := tget_tput_ne d t _ h

/-- An entry removed reads as the default, and every other entry is as before. -/
theorem tget_tdel {α : Type} (d : α) (t : Tab α) (k j : Nat) : tget d (tdel t k) j = if j = k then d else tget d t j := by
  induction t with
  | nil => simp [tdel, tget]
  | cons p t ih =>
    obtain ⟨i, b⟩ := p
    by_cases h : i = k
    · have e : tdel ((i, b) :: t) k = tdel t k := by simp [tdel, h]
      rw [e, ih]
      simp only [tget]
      split_ifs <;> first | rfl | omega
    · have e : tdel ((i, b) :: t) k = (i, b) :: tdel t k := by simp [tdel, h]
      rw [e]
      simp only [tget, ih]
      split_ifs <;> first | rfl | omega

/-! ### The named reads after the named updates -/

theorem engine_modEngine (e j : Nat) (f : Engine → Engine) (s : State) :
    engine (modEngine e f s) j = if j = e then f (engine s e) else engine s j := tget_tput _ _ _ _ _

theorem queue_modQueue (q j : Nat) (f : Queue → Queue) (s : State) :
    queue (modQueue q f s) j = if j = q then f (queue s q) else queue s j := tget_tput _ _ _ _ _

theorem pcState_modPc (p j : Nat) (f : PcState → PcState) (s : State) :
    pcState (modPc p f s) j = if j = p then f (pcState s p) else pcState s j := tget_tput _ _ _ _ _

theorem vfTu_modVfTu (n j : Nat) (f : VfTu → VfTu) (s : State) :
    vfTu (modVfTu n f s) j = if j = n then f (vfTu s n) else vfTu s j := tget_tput _ _ _ _ _

theorem port_modPort (p j : Nat) (f : Port → Port) (s : State) :
    port (modPort p f s) j = if j = p then f (port s p) else port s j := tget_tput _ _ _ _ _

theorem peer_setPeer (c j : Nat) (x : Peer) (s : State) : peer (setPeer c x s) j = if j = c then x else peer s j :=
  tget_tput _ _ _ _ _

theorem tdiOf_setTdi (n j : Nat) (x : Tdi) (s : State) : tdiOf (setTdi n x s) j = if j = n then x else tdiOf s j :=
  tget_tput _ _ _ _ _

/-- A context's state is read back, UNUSED among them, and every other context is as before. -/
theorem ctxState_setCtx (n c m d : Nat) (v : CtxState) (s : State) :
    ctxState (setCtx n c v s) m d = if pkey 16 m d = pkey 16 n c then v else ctxState s m d := by
  unfold ctxState setCtx
  by_cases h : v = .unused
  · simp only [h, if_true]
    exact tget_tdel _ _ _ _
  · simp only [h, if_false]
    exact tget_tput _ _ _ _ _

/-- A line is read back, and every other line is as before; one in I with nothing pending reads as the default. -/
theorem llc_setLlc (k j : Nat) (l : LlcLine) (s : State) : llc (setLlc k l s) j =
    if j = k then (if l.hstate = .i ∧ l.trans = none ∧ l.wait = [] then {} else l) else llc s j := by
  unfold llc setLlc
  by_cases h : l.hstate = .i ∧ l.trans = none ∧ l.wait = []
  · obtain ⟨a, b, c⟩ := h
    simp only [a, b, c, decide_true, Option.isNone_none, List.isEmpty_nil, Bool.and_self, if_true, and_self]
    exact tget_tdel _ _ _ _
  · have e : (decide (l.hstate = .i) && l.trans.isNone && l.wait.isEmpty) = false := by
      rw [Bool.eq_false_iff]
      intro g
      simp only [Bool.and_eq_true, decide_eq_true_eq, Option.isNone_iff_eq_none, List.isEmpty_iff] at g
      exact h ⟨g.1.1, g.1.2, g.2⟩
    simp only [e, Bool.false_eq_true, if_false, h]
    exact tget_tput _ _ _ _ _

/-- A tree node written changes what Memory Integrity holds, and nothing else. -/
theorem putNode_rest (p l j : Nat) (bs : List Byte) (s : State) : { putNode p l j bs s with mi := s.mi } = s := by
  unfold putNode
  split <;> rfl

/-- The nodes of a path written change what Memory Integrity holds, and nothing else. -/
theorem putPath_rest (p n l c : Nat) (bs : List Byte) {s r : State} (h : { s with mi := r.mi } = r) :
    { putPath p n l c bs s with mi := r.mi } = r := by
  induction n generalizing l c bs s with
  | zero => exact h
  | succ n ih =>
    rw [putPath]
    exact ih _ _ _ ((congrArg (fun t => { t with mi := r.mi }) (putNode_rest _ _ _ _ s)).trans h)

/-- A counter block set, with its tree path, changes what Memory Integrity holds, and nothing else. -/
theorem setBlock_rest (p g : Nat) (b : CounterBlock) (s : State) : { setBlock p g b s with mi := s.mi } = s := by
  rw [setBlock]
  exact putPath_rest p 6 0 g (blockBytes b) (r := s) (s := { s with mi := _ }) rfl

/-- A step that is dropped is not found. -/
theorem findStep_dropStep (id : Nat) (s : State) : findStep (dropStep id s) id = none := by
  unfold findStep dropStep
  simp

end Sys2Proof.Machine
end

