-- ==== Sys2Proof/Laws/Wire.lean ====
section
/-!
SUPPORT. Big-endian byte strings and AES-256-GCM: a number of n bytes reads back, a field reads the bytes at its place, what is
encrypted twice under one nonce is itself, and a tag fits 16 bytes (R13, R141).
-/
namespace Sys2Proof.Machine
open Sys2Proof

@[simp] theorem leBytes_length (v n : Nat) : (leBytes v n).length = n := by
  induction n generalizing v with
  | zero => rfl
  | succ n ih => simp [leBytes, ih]

@[simp] theorem beBytes_length (v n : Nat) : (beBytes v n).length = n := by simp [beBytes]

theorem beNat_beBytes {v n : Nat} (h : v < 2 ^ (8 * n)) : beNat (beBytes v n) = v := by
  have le : ∀ n v, v < 2 ^ (8 * n) → leNat (leBytes v n) = v := by
    intro n
    induction n with
    | zero => intro v h; simp at h; simp [leBytes, leNat, h]
    | succ n ih =>
      intro v h
      have e : (2 : Nat) ^ (8 * (n + 1)) = 256 * 2 ^ (8 * n) := by rw [Nat.mul_succ, pow_add]; ring
      have := ih (v / 256) (by rw [Nat.div_lt_iff_lt_mul (by omega)]; omega)
      simp [leBytes, leNat, this]
      omega
  simp [beNat, beBytes, le n v h]

/-- A field that lies within the first part of a string. -/
theorem wireFld_left {a b : List Byte} {off len : Nat} (h : off + len ≤ a.length) : wireFld (a ++ b) off len = wireFld a off len := by
  simp only [wireFld, List.drop_append_of_le_length (show off ≤ a.length by omega)]
  rw [List.take_append_of_le_length (by simp; omega)]

/-- A field that is all that follows the first part. -/
theorem wireFld_right {a b : List Byte} : wireFld (a ++ b) a.length b.length = beNat b := by simp [wireFld]

/-- A header is read from its 24 bytes (R143). -/
theorem intakeHead_left {a b : List Byte} (h : 24 ≤ a.length) : intakeHead (a ++ b) = intakeHead a := by
  simp only [intakeHead, wireBits, wireZero]
  rw [wireFld_left (by omega), wireFld_left (by omega), wireFld_left (by omega), wireFld_left (by omega), wireFld_left (by omega),
    wireFld_left (by omega)]

theorem xorBytes_length {a b : List Byte} (h : a.length ≤ b.length) : (xorBytes a b).length = a.length := by
  induction a generalizing b with
  | nil => cases b <;> rfl
  | cons x a ih =>
    cases b with
    | nil => simp at h
    | cons y b => simp only [xorBytes, List.length_cons] at *; rw [ih (by omega)]

theorem xorBytes_twice {a b : List Byte} (h : a.length ≤ b.length) : xorBytes (xorBytes a b) b = a := by
  induction a generalizing b with
  | nil => cases b <;> rfl
  | cons x a ih =>
    cases b with
    | nil => simp at h
    | cons y b =>
      simp only [xorBytes, List.length_cons, List.cons.injEq] at *
      exact ⟨by rw [BitVec.xor_assoc, BitVec.xor_self, BitVec.xor_zero], ih (by omega)⟩

@[simp] theorem gcmStream_length (key : BitVec 256) (nonce n : Nat) : (gcmStream key nonce n).length = 16 * n := by
  simp [gcmStream, List.length_flatMap, Nat.mul_comm]

@[simp] theorem gcmCrypt_length (key : BitVec 256) (nonce : Nat) (text : List Byte) :
    (gcmCrypt key nonce text).length = text.length := by
  rw [gcmCrypt, xorBytes_length]
  rw [gcmStream_length]
  omega

/-- What is encrypted twice under one key and nonce is itself. -/
@[simp] theorem gcmCrypt_twice (key : BitVec 256) (nonce : Nat) (text : List Byte) :
    gcmCrypt key nonce (gcmCrypt key nonce text) = text := by
  rw [gcmCrypt, gcmCrypt_length, gcmCrypt, xorBytes_twice]
  rw [gcmStream_length]
  omega

theorem ghashMul_lt (x : Nat) {v : Nat} (h : v < 2 ^ 128) (n : Nat) : ghashMul x v n < 2 ^ 128 := by
  induction n generalizing v with
  | zero => simp [ghashMul]
  | succ n ih =>
    have half : (if v % 2 = 1 then v / 2 ^^^ 0xE1 * 2 ^ 120 else v / 2) < 2 ^ 128 := by
      split
      · exact Nat.xor_lt_two_pow (by omega) (by norm_num)
      · omega
    simp only [ghashMul]
    refine Nat.xor_lt_two_pow ?_ (ih half)
    split <;> omega

/-- A tag is 16 bytes. -/
theorem gcmTag_lt (key : BitVec 256) (nonce : Nat) (aad text : List Byte) : gcmTag key nonce aad text < 2 ^ 128 := by
  have fold : ∀ (l : List Nat) (y : Nat), y < 2 ^ 128 →
      l.foldl (fun y b => ghashMul (y ^^^ b) (Config.aes256 key 0).toNat 128) y < 2 ^ 128 := by
    intro l
    induction l with
    | nil => intro y h; exact h
    | cons b l ih => intro y _; exact ih _ (ghashMul_lt _ (BitVec.isLt _) 128)
  exact Nat.xor_lt_two_pow (fold _ 0 (by norm_num)) (BitVec.isLt _)

end Sys2Proof.Machine
end

