-- ==== Sys2Proof/Tests/Slice0.lean ====
section
/-!
SUPPORT. The model's own tests: ill-formed commands that WellFormed refuses, worked values of the spec, and for every
statement of Certificates/Slice0/Obligations.lean a witness that meets the hypotheses of each of its clauses.
-/
namespace Sys2Proof.Tests
open Sys2Proof Sys2Proof.Machine

/-! The closed witnesses are checked one after the other: each is a short evaluation, all at once take too many threads. -/

set_option Elab.async false

/-! ### The small states of the tests -/

/-- A plan image with one hand in slot `n`, whose fields are given as (offset in the hand, value) (R89 to R92). -/
def oneHand (n : Nat) (fields : List (Nat × Nat)) : Image :=
  BitVec.ofNat 262656 (fields.foldl (fun x p => x + p.2 * 2 ^ (8 * (handOff n + p.1)))
    (emptyImage.toNat + 16 * 2 ^ 32 + 250 * 2 ^ (8 * 0x18) + 2 ^ n * 2 ^ (8 * 0x10)))

/-- Hand 0: not confidential, Command Processor 0, all slots and ways, tile 0, engine 0, PC 0, key ID 1; class 0 is LC with one
step and a deadline of 4 frames, class 1 BE. -/
def hand0 : List (Nat × Nat) :=
  [(0x002, 64), (0x004, 0xFFFF), (0x008, 7), (0x00C, 0xFFFFFFFF), (0x010, 1), (0x020, 64), (0x022, 8), (0x024, 64), (0x028, 8),
   (0x040, 2), (0x060, 1), (0x0A0, 1), (0x200, 1), (0x201, 4), (0x202, 1), (0x204, 8), (0x208, 1000), (0x214, 1000), (0x220, 3),
   (0x228, 1000)]

/-- The plan with hand 0. -/
def plan0 : Image := oneHand 0 hand0

/-- The same hand, confidential. -/
def planConf : Image := oneHand 0 ((0, 1) :: hand0)

/-- A device that runs: READY, slot 3 of frame 5, the virtual functions enabled, `plan0` active. -/
def on : State :=
  { State.reset with
    bnd := { State.reset.bnd with
      stage := .ready
      ready := true
      cfgRetry := false
      vfEnable := true
      numVfs := 32
      fabric := BitVec.allOnes 64 }
    tb := { State.reset.tb with running := true, tick := 5, slot := 3, now := 5 * 250000 + 3 * 15625 }
    ps := { State.reset.ps with active := plan0, staged := true, epochs := [(0, 7)] }
    tc := { State.reset.tc with lc := .production, enable := true }
    hm := { State.reset.hm with rail := 750 } }

/-- The state in start-up at a stage. -/
def at_ (st : Stage) : State := { State.reset with bnd := { State.reset.bnd with stage := st } }

theorem on_quiet : Quiet on := by constructor <;> decide +kernel

/-! ### Boundary and start-up -/

theorem witness_StepRunsTheFrontCommand :
    (∃ s : State, s.pending = [Instr.lock]) ∧
    (on.pending = [] ∧ on.bnd.powered = true ∧ on.tb.running = true ∧ on.tb.now + 1 < nextEdge on.tb) ∧
    (State.reset.pending = [] ∧ State.reset.bnd.powered = true ∧ State.reset.bnd.stage = .reset ∧
      State.reset.tb.running = false) ∧
    (∃ s : State, s.pending = [] ∧ s.bnd.powered = false) ∧
    (∃ s : State, s.pending = [] ∧ nextEdge s.tb ≤ s.tb.now + 1 ∧ s.bnd.stage ≠ .reset) :=
  ⟨⟨{ on with pending := [.lock] }, rfl⟩, by decide +kernel, by decide +kernel,
    ⟨{ on with bnd := { on.bnd with powered := false } }, rfl, rfl⟩,
    ⟨{ on with tb := { on.tb with now := 5 * 250000 + 4 * 15625 } }, by decide +kernel⟩⟩

theorem witness_StepKeepsTheLegalMachine : LegalV (view on) (view on) := by
  refine ⟨?_, ?_, ?_, ?_, ?_, ?_, ?_, ?_, ?_, ?_, ?_, ?_, ?_, ?_, ?_, ?_, ?_, ?_⟩ <;> decide +kernel

theorem witness_QuietStateSettled : Quiet on := on_quiet

theorem witness_BytesReadBack : (255 < 256 ^ 1) ∧ (256 ^ 2 - 1 < 256 ^ 2) ∧ 1 < 2 := by decide

theorem witness_PowerAndConfiguration :
    (∃ s : State, s.bnd.powered = false) ∧ on.bnd.powered = true ∧
    (∃ s : State, s.bnd.powered = true ∧ s.bnd.cfgRetry = true) ∧ (on.bnd.powered = true ∧ on.bnd.cfgRetry = false) :=
  ⟨⟨{ on with bnd := { on.bnd with powered := false } }, rfl⟩, rfl, ⟨State.reset, rfl, rfl⟩, rfl, rfl⟩

/-- The state of a start that may be warm, at a stage. -/
def warmAt (st : Stage) : State :=
  { State.reset with
    bnd := { (at_ st).bnd with retentionValid := true }
    tc := { State.reset.tc with lcKept := some .blank } }

/-- An image that is valid if its signature verifies. -/
def image0 : FwImage :=
  { header := BitVec.ofNat 4096 (1 + 1 * 2 ^ 32 + 4096 * 2 ^ 128 + 4096 * 2 ^ 192), service := [], microcode := [] }

theorem witness_StartUpStages :
    (∃ s : State, s.bnd.powered = true ∧ s.bnd.stage = .reset ∧ lcDecode s.tc.otp.codeword = .blank) ∧
    (∃ s : State, s.bnd.powered = true ∧ s.bnd.stage = .tcBoot ∧ lcDecode s.tc.otp.codeword = .invalid) ∧
    (∃ s : State, s.bnd.powered = true ∧ s.bnd.stage = .tcBoot ∧ lcDecode s.tc.otp.codeword = .scrap) ∧
    (∃ (f : Flash) (s : State), s.bnd.powered = true ∧ s.bnd.stage = .fwVerify ∧
      f.slotA.filter (imageOk s.tc.otp) = none ∧ f.slotB.filter (imageOk s.tc.otp) = none) ∧
    (∃ (i : FwImage) (s : State), s.bnd.powered = true ∧ s.bnd.stage = .fwVerify ∧ (signedOk s.tc.otp i.header
        (i.service ++ i.microcode) = true →
      (some i).filter (imageOk s.tc.otp) = some i ∧ (none : Option FwImage).filter (imageOk s.tc.otp) = none)) ∧
    (∃ s : State, s.bnd.powered = true ∧ s.bnd.stage = .keys ∧ s.bnd.retentionValid = true ∧ s.tc.lcKept = some s.tc.lc) ∧
    (∃ (failed held : BitVec 20) (s : State), s.bnd.powered = true ∧ s.bnd.stage = .memTrain ∧ s.bnd.retentionValid = true ∧
      s.tc.lcKept = some s.tc.lc ∧ s.bnd.epochOpened = false ∧ failed = 0x7FFFF ∧ failed ≠ 0xFFFFF ∧
      (failed ||| held) = 0xFFFFF) ∧
    (∃ s : State, s.bnd.powered = true ∧ s.bnd.stage = .memInit ∧ s.bnd.epochOpened = false) ∧
    (∃ s : State, s.bnd.powered = true ∧ s.bnd.stage = .memInit ∧ s.bnd.epochOpened = true) ∧
    (∃ s : State, s.bnd.powered = true ∧ s.bnd.stage = .dirInit) ∧
    (∃ s : State, s.bnd.powered = true ∧ s.bnd.stage = .time) ∧
    (∀ c, ∃ s : State, s.bnd.powered = true ∧ s.bnd.stage = checkStage c) ∧
    (∀ st ∈ [Stage.reset, .tcBoot, .memInit, .time], ∃ s : State, s.bnd.powered = true ∧ s.bnd.stage = st) := by
  refine ⟨⟨State.reset, by decide +kernel⟩,
    ⟨{ at_ .tcBoot with tc := { State.reset.tc with otp := { State.reset.tc.otp with codeword := 1 } } }, by decide +kernel⟩,
    ⟨{ at_ .tcBoot with tc := { State.reset.tc with otp := { State.reset.tc.otp with codeword := lcWord .scrap } } },
      by decide +kernel⟩,
    ⟨⟨none, none, none, none⟩, at_ .fwVerify, rfl, rfl, rfl, rfl⟩,
    ⟨image0, at_ .fwVerify, rfl, rfl, fun h => ⟨?_, rfl⟩⟩,
    ⟨warmAt .keys, rfl, rfl, rfl, rfl⟩,
    ⟨0x7FFFF, 0x80000, warmAt .memTrain, rfl, rfl, rfl, rfl, rfl, rfl, by decide, by decide⟩,
    ⟨at_ .memInit, rfl, rfl, rfl⟩,
    ⟨{ at_ .memInit with bnd := { (at_ .memInit).bnd with epochOpened := true } }, rfl, rfl, rfl⟩,
    ⟨at_ .dirInit, rfl, rfl⟩, ⟨at_ .time, rfl, rfl⟩, fun c => ⟨at_ (checkStage c), rfl, rfl⟩,
    fun st _ => ⟨at_ st, rfl, rfl⟩⟩
  have e : imageOk (at_ .fwVerify).tc.otp image0 = true := by
    unfold imageOk
    dsimp only
    rw [Bool.and_eq_true, Bool.and_eq_true]
    exact ⟨⟨by decide +kernel, h⟩, by decide +kernel⟩
  rw [Option.filter_some, if_pos e]

theorem witness_StacksAndDiesThatFail :
    ((at_ .memTrain).bnd.powered = true ∧ (at_ .memTrain).bnd.stage = .memTrain) ∧
    ((at_ .dirInit).bnd.powered = true ∧ (at_ .dirInit).bnd.stage = .dirInit ∧ (0x7 : BitVec 4) ≠ 0xF) := by decide

/-- ERR_N asserted by an F fault of the Fault Collector, acknowledged or pending; a U fault of the same source pends (R36). -/
def err (pend : Bool) : State :=
  { on with
    bnd := { on.bnd with errAsserted := true, errSource := some (0xA00, .f) }
    fc := { on.fc with src := [(0xA00, { pendF := pend, pendU := true })] } }

theorem witness_TrayController :
    (mctpUp on = true ∧ on.tc.lc ≠ .invalid ∧ on.tb.running = true) ∧
    (mctpUp (err false) = true ∧ (err false).tc.lc ≠ .invalid ∧ (err false).bnd.errInvalid = false ∧
      ((err false).bnd.errSource.all fun u => acknowledged (err false) u) = true) ∧
    (mctpUp (err true) = true ∧ (err true).tc.lc ≠ .invalid ∧ (err true).bnd.errAsserted = true ∧ releasable (err true) = false) ∧
    ((0 = 0 ∨ 5 < 0) ∧ (6 = 0 ∨ 5 < 6)) ∧
    (∃ (s : State) (p q : PowerCycle), s.bnd.powered = true ∧ s.bnd.powerCycle = some p ∧ p.copies = 9 ∧ q.copies = 10 ∧
      ({ s with bnd := { s.bnd with powerCycle := some q } } : State).bnd.powerCycle = some q) := by
  refine ⟨by decide +kernel, by decide +kernel, by decide +kernel, by decide,
    ⟨{ on with bnd := { on.bnd with powerCycle := some ⟨1, 1, 9⟩ } }, ⟨1, 1, 9⟩, ⟨1, 1, 10⟩, rfl, rfl, rfl, rfl, rfl⟩⟩

theorem witness_ErrPinClear :
    (live (err false) = true ∧ (err false).bnd.errAsserted = true ∧ (err false).bnd.errInvalid = false ∧
      ((err false).bnd.errSource.all fun u => acknowledged (err false) u) = true) ∧
    ((err true).bnd.errSource = some (0xA00, .f) ∧ acknowledged (err true) (0xA00, .f) = false) ∧
    (∃ s : State, s.bnd.errInvalid = true) :=
  ⟨by decide +kernel, by decide +kernel, ⟨{ on with bnd := { on.bnd with errInvalid := true } }, rfl⟩⟩

theorem witness_ChipResetAndFlr :
    (∃ (s : State) (p : Prep), s.bnd.powered = true ∧ s.bnd.prep = some p ∧ s.cu.halted = true ∧
      ∀ x ∈ s.mi.pcs, x.2.parked = []) ∧
    (live on = true ∧ vfExists on 31 = true ∧ on.rc.current = none) ∧ (on.bnd.powered = true ∧ on.bnd.prep = none) :=
  ⟨⟨{ on with bnd := { on.bnd with prep := some { cause := .command } }, cu := { on.cu with halted := true } },
    { cause := .command }, rfl, rfl, rfl, by simp [on, State.reset]⟩, by decide +kernel, by decide +kernel⟩

/-! ### Time, slots, ticks and plans -/

/-- `on` with the set-up registers locked. -/
def lockedOn : State := { on with bnd := { on.bnd with locked := true } }

/-- `on` with PTP enabled on port 0, domain 0. -/
def ptpOn : State := { on with nu := { on.nu with ptpEn := true } }

theorem witness_TickGridAndPtp :
    (live on = true ∧ on.bnd.locked = false ∧ 32 ≤ fld (32#64).toNat 0 12 ∧ fld (4000#64).toNat 0 12 ≤ 4000 ∧
      fld (31#64).toNat 0 12 < 32 ∧ 4000 < fld (4001#64).toNat 0 12) ∧
    (live lockedOn = true ∧ lockedOn.bnd.locked = true) ∧ (∃ t : TimeBase, 32 ≤ t.periodUs ∧ t.periodUs = 32) ∧
    ptpTakes ptpOn 0 0 = true ∧ ptpTakes ptpOn 1 0 = false ∧ ptpTakes ptpOn 0 1 = false ∧ ptpOn.fc.inj.remaining = 0 ∧
    transfer (0x800 + 0) none 0 ptpOn = (false, ptpOn) ∧ (transfer (0x800 + 0) none 2 ptpOn).1 = true ∧
    (∃ (s : State) (a : Int), ptpTakes s 0 0 = true ∧ s.fc.inj.remaining = 0 ∧ s.tb.syncArrival = some a) ∧
    ptpOn.tb.syncArrival = none ∧
    (∃ (s : State) (a : Int), ptpTakes s 0 0 = true ∧ s.fc.inj.remaining = 0 ∧ s.tb.delayReq = some a) ∧ ptpOn.tb.delayReq = none ∧
    (∃ s : State, ptpTakes s 7 0 = false ∧ s.bnd.powered = true ∧ (port s 7).linkUp = true) ∧ ptpOn.ps.staged = true ∧
    (∃ (f : Int) (t : TimeBase), (relock f t).locked = true ∧ t.locked = false ∧ f.natAbs = 25 ∧ t.inRun = 15) ∧
    (∃ (f : Int) (t : TimeBase), t.locked = true ∧ (relock f t).locked = false ∧ f.natAbs = 41 ∧ t.outRun = 3) :=
  ⟨by decide +kernel, by decide +kernel, ⟨{ State.reset.tb with periodUs := 32 }, by decide⟩, by decide +kernel,
    by decide +kernel, by decide +kernel, rfl, rfl, by decide +kernel,
    ⟨{ ptpOn with tb := { ptpOn.tb with syncArrival := some 7 } }, 7, by decide +kernel, rfl, rfl⟩, rfl,
    ⟨{ ptpOn with tb := { ptpOn.tb with delayReq := some 7 } }, 7, by decide +kernel, rfl, rfl⟩, rfl,
    ⟨{ ptpOn with nu := { ptpOn.nu with ports := [(7, { linkUp := true })] } }, by decide +kernel⟩, rfl,
    ⟨-25, { State.reset.tb with inRun := 15 }, by decide⟩, ⟨41, { State.reset.tb with outRun := 3, locked := true }, by decide⟩⟩

/-- A step of partition 0 that runs on engine 0. -/
def step0 : Step :=
  { id := 9, queue := 0, part := 0, ctx := 1, opcode := 0x41, index := 0, raw := 0, cls := 0, be := false, frameScoped := false, phase := .running, frame := 5,
    slot := 3, units := [engineUnit 0] }

/-- It finished, with one byte to write. -/
def writes0 : Step := { step0 with phase := .finished, units := [], log := [.write 0 [1]] }

/-- It finished and failed. -/
def failed0 : Step := { writes0 with fail := some .poison }

/-- `on` with the commit of slot 3 of frame 5 in progress. -/
def committing : State := { on with cu := { on.cu with open_ := some (5, 3) } }

theorem witness_SlotsEndAndCommit :
    (on.bnd.powered = true ∧ on.tb.running = true ∧ on.tb.slot < 15 ∧ on.cu.open_ = none) ∧
    (overdue on = [] ∧ on.bnd.ready = true ∧ on.cu.halted = false) ∧
    (Quiet on ∧ on.steps = [] ∧ on.ac.reqs = [] ∧ on.rc.replay = none) ∧
    (∃ s : State, s.tb.slot = 15) ∧ committing.cu.open_.isSome = true ∧
    (on.cu.open_ = none) ∧ (∃ s : State, s.cu.halted = true) ∧
    (∃ (s : State) (t : Step), s.cu.open_ = some (5, 3) ∧ t ∈ s.steps ∧ t.phase = .finished ∧ t.frame = 5 ∧ t.slot = 3 ∧
      t.unverified ≠ []) ∧
    (committing.bnd.powered = true ∧ committing.cu.halted = false ∧ committing.cu.open_ = some (5, 3) ∧
      committing.steps = [] ∧ committing.qu.signals = [] ∧ (∀ x ∈ committing.coh.lines, x.2.wait = []) ∧
      (∀ x ∈ committing.cu.blocks, x.1 ≠ 5 ∨ x.2.1 ≠ 3) ∧ updatesWait committing = false) ∧
    (∃ s : State, s.cu.open_ = some (5, 3) ∧ (5, 3, 1) ∈ s.cu.blocks) ∧
    (∀ t ∈ [writes0, failed0], committing.cu.applied = false ∧ t.phase = .finished ∧ t.frame = 5 ∧ t.slot = 3 ∧
      t.unverified = [] ∧ t.units = []) ∧
    (writes0.log = [.write 0 [1]] ∧ qualifies [] writes0 = true) ∧ failed0.fail = some .poison ∧
    (∃ s : State, updatesWait s = true) ∧
    (∃ (d : List Differ) (t : Step), t.fail = none ∧ t.poisoned = false ∧ t.redundant = true ∧ ∃ x ∈ d, x.step = t.id) :=
  ⟨by decide +kernel, by decide +kernel, ⟨on_quiet, rfl, rfl, rfl⟩, ⟨{ on with tb := { on.tb with slot := 15 } }, rfl⟩, rfl, rfl,
    ⟨{ on with cu := { on.cu with halted := true } }, rfl⟩,
    ⟨{ committing with steps := [{ step0 with phase := .finished, unverified := [(0, 0)] }] },
      { step0 with phase := .finished, unverified := [(0, 0)] }, rfl, List.mem_singleton.2 rfl, rfl, rfl, rfl, by simp⟩,
    by decide +kernel, ⟨{ committing with cu := { committing.cu with blocks := [(5, 3, 1)] } }, rfl, List.mem_singleton.2 rfl⟩,
    by decide +kernel, by decide +kernel, rfl,
    ⟨{ committing with coh := { committing.coh with lines := [(5, { ptag := 0, wait := [{ kind := .ncWrite, isStep := true }] })] } },
      by decide +kernel⟩,
    ⟨[{ step := 9, runA := 0, runB := 1 }], { step0 with redundant := true }, rfl, rfl, rfl, _, List.mem_singleton.2 rfl, rfl⟩⟩

/-- `on` in slot 15. -/
def lastSlot : State := { on with tb := { on.tb with slot := 15 } }

theorem witness_TickStartsAFrame :
    (lastSlot.bnd.powered = true ∧ lastSlot.tb.running = true ∧ lastSlot.cu.open_ = none ∧ lastSlot.bnd.ready = true ∧
      lastSlot.tb.slot = 15 ∧ lastSlot.ps.armed = false) ∧
    (∃ s : State, s.bnd.powered = true ∧ s.tb.running = true ∧ s.cu.open_ = none ∧ s.bnd.ready = false) ∧
    committing.cu.open_.isSome = true ∧ (on.bnd.ready = true ∧ on.tb.slot ≠ 15) :=
  ⟨by decide +kernel, ⟨{ at_ .time with tb := { State.reset.tb with running := true } }, rfl, rfl, rfl, rfl⟩, rfl,
    by decide +kernel⟩

/-- The plan of hand 0 passes the checks on the state that runs it. -/
theorem plan0_passes : (checkPlan plan0 (planView on)).status = .ok := by decide +kernel

/-- `on` with a deal armed. -/
def armedWith (img : Image) : State := { on with ps := { on.ps with armed := true, shadow := some img } }

theorem witness_DealIsAtomic :
    ((armedWith plan0).ps.armed = true ∧ (armedWith plan0).ps.shadow = some plan0 ∧
      (checkPlan plan0 (planView (armedWith plan0))).status = .ok) ∧
    ((armedWith 0).ps.armed = true ∧ (armedWith 0).ps.shadow = some 0 ∧
      (checkPlan 0 (planView (armedWith 0))).status ≠ .ok) ∧
    on.ps.armed = false ∧
    (lastSlot.bnd.powered = true ∧ lastSlot.tb.running = true ∧ lastSlot.cu.open_ = none ∧ lastSlot.bnd.ready = true ∧
      lastSlot.tb.slot = 15) ∧
    (31 < 32 ∧ changeKind emptyImage plan0 0 = .created ∧ changeKind plan0 emptyImage 0 = .withdrawn ∧
      changeKind plan0 plan0 0 = .unchanged ∧ changeKind plan0 planConf 0 = .reshaped) ∧
    (on.bnd.powered = true ∧ Quiet on) :=
  ⟨⟨rfl, rfl, plan0_passes⟩, by decide +kernel, rfl, by decide +kernel, by decide +kernel, rfl, on_quiet⟩

/-- `on` while a check runs. -/
def checking : State := { on with ps := { on.ps with busy := true } }

/-- Partition 0 on hold. -/
def holding : State := { on with ps := { on.ps with hold := 1 } }

theorem witness_PlanStore :
    (live on = true ∧ on.ps.busy = false ∧ on.ps.armed = false) ∧
    (live (armedWith plan0) = true ∧ (armedWith plan0).ps.busy = false ∧ (armedWith plan0).ps.armed = true) ∧
    (dealing on = false ∧ ∃ s : State, live s = true ∧ dealing s = true) ∧
    (live checking = true ∧ checking.ps.busy = true ∧ checking.cu.halted = false) ∧
    (live holding = true ∧ (∀ n, holding.ps.hold.getLsbD n = true → (0x80000001 : BitVec 32).getLsbD n = true)) ∧
    (on.ps.hold.getLsbD 0 = false) ∧
    (∃ (s : State) (t : Step), s.ps.hold.getLsbD 0 = true ∧ t ∈ s.steps ∧ t.part = 0 ∧ t.phase ≠ .queued) ∧
    (live holding = true ∧ holding.ps.hold.getLsbD 0 = true ∧ holding.steps = []) ∧
    ((llc on 5).trans = none ∧ (llc on 5).hstate = .i) ∧
    (∃ s : State, (llc s 5).trans = none ∧ (llc s 5).hstate = .o) ∧ (∃ s : State, (llc s 5).trans ≠ none) ∧
    planVersion 0 ≠ 1 ∧ (checkPlan plan0 (planView on)).status = .ok := by
  refine ⟨by decide +kernel, by decide +kernel,
    ⟨by decide +kernel, { on with ps := { on.ps with dealNs := some on.tb.now, dealTick := 5 } }, by decide +kernel⟩,
    by decide +kernel, ⟨by decide +kernel, fun n h => ?_⟩, rfl,
    ⟨{ holding with steps := [step0] }, step0, rfl, List.mem_singleton.2 rfl, rfl, by decide⟩, by decide +kernel, by decide +kernel,
    ⟨{ on with coh := { on.coh with lines := [(5, { ptag := 0, hstate := .o, presence := 1 })] } }, by decide +kernel⟩,
    ⟨{ on with coh := { on.coh with lines := [(5, { ptag := 0, trans := some { kind := .si, item := { kind := .recall }, await := [0] } })] } }, by decide +kernel⟩,
    by decide +kernel, plan0_passes⟩
  have hn : n < 32 := BitVec.lt_of_getLsbD h
  interval_cases n <;> revert h <;> decide +kernel

/-! ### Intake and admission -/

/-- A session of partition 0 that has seen SEQ 2000. -/
def session0 : Session :=
  { id := 77, part := 0, keyIn := 0, keyOut := 0, saltIn := 0, saltOut := 0, highest := some 2000, seen := [2000] }

/-- A page table that maps the first GiB of the device window of partition 0 with rights R, W and A, key ID 1, object 1. -/
def pt : HostView :=
  [(0x800, 2 ^ 63 + 0x1000), (0x1000, 2 ^ 63 + 0x2000), (0x2000, 2 ^ 63 + 2 ^ 62 + 7 * 2 ^ 59 + 2 ^ 48 + 2 ^ 28)]

/-- The translation it gives. -/
def x0 : Xlat := { dva := 0, size := 2 ^ 30, frame := 0, keyId := 1, obj := 1, r := true, w := true, a := true }

/-- `on` with that table's root, object 1 live over the GiB, context 1 live, and request intake enabled with an intake queue
for each class. -/
def mapped : State :=
  { on with
    tu := { on.tu with
      vfs := [(0, { ptRoot := 0x800, objCount := 16 })]
      ctxs := [(pkey 16 0 1, .live)]
      objs := [(pkey 20 0 1, { state := .live, owner := 1, hostRefs := 1, mapped := true, base := 0, size := 2 ^ 30 })] }
    rie := { on.rie with enable := true, udpPort := 4000, sessions := [session0], areaBase := [(0, 0x100000)] }
    qu := { on.qu with qs := [(1, { live := true, kind := .intake, owner := 1, state := .idle }),
                              (2, { live := true, kind := .intake, cls := 1, owner := 1, state := .idle })] } }

/-- A REQUEST's payload of 16 bytes: REQ_ID 5, class `c` (R144). -/
def payload0 (c : Nat) : List Byte := beBytes 5 8 ++ beBytes c 1 ++ beBytes 1 1 ++ beBytes 0 6

/-- A request of class `c` on that session under SEQ `q`, encrypted by the session's holder. -/
def msg0 (q c : Nat) : IntakeMsg :=
  { port := 0, addr := 1, udp := 2, dst := 4000, bytes := sealIntake session0 1 q (payload0 c), inTime := true, host := pt }

/-- Its header. -/
def head0 (q : Nat) : IntakeHead := { version := 1, type := 1, rsv := false, session := 77, seq := q, length := 16 }

theorem head_of_msg0 : ∀ q ∈ [975, 976, 2000, 2001], ∀ c, intakeHead (msg0 q c).bytes = head0 q := by
  intro q hq c
  have e : intakeHead (intakeHeadBytes 1 77 q 16) = head0 q := by revert q; decide +kernel
  rw [← e]
  simp only [msg0, sealIntake, List.append_assoc]
  exact intakeHead_left (by simp [intakeHeadBytes])

theorem msg0_opens : ∀ q ∈ [975, 2000, 2001], ∀ c, openIntake session0 (msg0 q c).bytes = some (payload0 c) := by
  intro q hq c
  have hh : intakeHead (msg0 q c).bytes = head0 q := head_of_msg0 q (by revert q; decide) c
  have l : (intakeHeadBytes 1 77 q 16).length = 24 := by simp [intakeHeadBytes]
  have lt : ∀ t, (gcmCrypt (0 : BitVec 256) t (payload0 c)).length = 16 := by simp [payload0]
  rw [openIntake, hh]
  simp only [msg0, sealIntake, head0, session0, List.append_assoc, show (payload0 c).length = 16 by simp [payload0]]
  rw [List.drop_append_of_le_length (by omega), List.take_append_of_le_length (by omega), List.drop_of_length_le (by omega),
    List.take_of_length_le (by omega), List.nil_append, List.take_append_of_le_length (by rw [lt]),
    List.take_of_length_le (by rw [lt]), gcmCrypt_twice]
  generalize ht : gcmTag _ _ _ _ = t
  have b : t < 2 ^ (8 * 16) := ht ▸ gcmTag_lt _ _ _ _
  rw [if_neg]
  simp only [List.length_append, l, lt, beBytes_length, Bool.or_eq_true, decide_eq_true_eq, not_or, not_not]
  refine ⟨trivial, ?_⟩
  rw [← List.append_assoc]
  have w := wireFld_right (a := intakeHeadBytes 1 77 q 16 ++ gcmCrypt (0 : BitVec 256) (intakeNonce 0 q) (payload0 c))
    (b := beBytes t 16)
  rw [List.length_append, l, lt, beBytes_length, beNat_beBytes b] at w
  exact w.symm

/-- A decision does not look at the datagram's bytes again. -/
theorem decideReq_bytes {m m' : IntakeMsg} (h : m.host = m'.host) (t : m.inTime = m'.inTime) (s : State) (n : Nat) (q : IntakeReq) :
    decideReq s n m q = decideReq s n m' q := by
  unfold decideReq decideBooking
  rw [h, t]

/-- A request message without bytes. -/
def blank0 : IntakeMsg := { port := 0, addr := 1, udp := 2, dst := 4000, bytes := [], inTime := true, host := pt }

/-- `mapped` once the request's SEQ is accepted, and its intake area walked. -/
def walked : State :=
  walkArea 0 pt (areaRange mapped 0) (modSession 77 (acceptSeq 2001)
    { mapped with rie := { mapped.rie with requests := 1 } })

theorem witness_RequestsAreDecided :
    (live mapped = true ∧ { msg0 2001 0 with dst := 1 }.dst ≠ mapped.rie.udpPort) ∧
    (live on = true ∧ on.rie.enable = false ∧ { msg0 2001 0 with dst := 0 }.dst = on.rie.udpPort) ∧
    (∀ q ∈ [975, 2000, 2001], ∀ c, live mapped = true ∧ mapped.rie.enable = true ∧ (msg0 q c).dst = mapped.rie.udpPort ∧
      (msg0 q c).parity = 0 ∧ mapped.fc.inj.remaining = 0 ∧
      findSession mapped (intakeHead (msg0 q c).bytes).session = some session0 ∧
      openIntake session0 (msg0 q c).bytes = some (payload0 c)) ∧
    (findSession mapped (intakeHead []).session = none ∧
      findSession mapped (intakeHead (intakeHeadBytes 1 77 2001 16)).session = some session0 ∧
      openIntake session0 (intakeHeadBytes 1 77 2001 16) = none) ∧
    (2000 ∈ session0.seen ∧ session0.highest = some 2000 ∧ 975 + 1024 < 2000 ∧ seqStale session0 976 = false ∧
      seqStale session0 2001 = false) ∧
    (∃ ps xs, decideReq walked 0 (msg0 2001 0) (intakeReq (head0 2001) (payload0 0)) = .grant ps xs) ∧
    (∃ xs, decideReq walked 0 (msg0 2001 1) (intakeReq (head0 2001) (payload0 1)) = .grant [] xs) ∧
    (∃ q : IntakeReq, q.version ≠ 1) ∧ (∃ q : IntakeReq, q.version = 1 ∧ q.type ≠ 1) ∧
    (∃ q : IntakeReq, q.version = 1 ∧ q.type = 1 ∧ q.rsv = true) ∧
    (∀ l ∈ [15, 16, 8144, 8145], ∃ q : IntakeReq, q.version = 1 ∧ q.type = 1 ∧ q.rsv = false ∧ q.length = l) ∧
    (hasHand on.ps.active 1 = false ∧ (∃ s : State, s.rc.inReset.getLsbD 31 = true) ∧ holding.ps.hold.getLsbD 0 = true) ∧
    findSession mapped 77 = some session0 := by
  refine ⟨by decide +kernel, by decide +kernel,
    fun q h c => ⟨by decide +kernel, by decide +kernel, rfl, rfl, rfl, ?_, msg0_opens q h c⟩,
    by decide +kernel, by decide +kernel, ?_, ?_, ⟨{ intakeReq (head0 1) (payload0 0) with version := 2 }, by decide⟩,
    ⟨{ intakeReq (head0 1) (payload0 0) with type := 2 }, rfl, by decide⟩,
    ⟨{ intakeReq (head0 1) (payload0 0) with rsv := true }, rfl, rfl, rfl⟩,
    fun l _ => ⟨{ intakeReq (head0 1) (payload0 0) with length := l, rsv := false }, rfl, rfl, rfl, rfl⟩,
    ⟨by decide +kernel, ⟨{ on with rc := { on.rc with inReset := 0x80000000 } }, by decide⟩, rfl⟩, by decide +kernel⟩
  · rw [head_of_msg0 q (by revert q; decide) c]
    exact show findSession mapped 77 = some session0 by decide +kernel
  · have h : (match decideReq walked 0 blank0 (intakeReq (head0 2001) (payload0 0)) with
        | .grant _ _ => true | _ => false) = true := by decide +kernel
    simp only [decideReq_bytes (m := msg0 2001 _) (m' := blank0) rfl rfl]
    revert h
    cases decideReq walked 0 blank0 (intakeReq (head0 2001) (payload0 0)) with
    | grant ps xs => exact fun _ => ⟨ps, xs, rfl⟩
    | refuse st => intro h; cases h
  · have h : (match decideReq walked 0 blank0 (intakeReq (head0 2001) (payload0 1)) with
        | .grant [] _ => true | _ => false) = true := by decide +kernel
    simp only [decideReq_bytes (m := msg0 2001 _) (m' := blank0) rfl rfl]
    revert h
    generalize decideReq walked 0 blank0 (intakeReq (head0 2001) (payload0 1)) = d
    intro h
    match d, h with
    | .grant [] xs, _ => exact ⟨xs, rfl⟩

/-- The hypotheses of a sealed message that opens: equal keys of both directions, and fields that fit the header. -/
theorem witness_SealedMessagesOpen :
    session0.keyIn = session0.keyOut ∧ session0.saltIn = session0.saltOut ∧ session0.id < 2 ^ 32 ∧ 15 < 16 ∧
    2 ^ 64 - 1 < 2 ^ 64 ∧ (payload0 0).length < 2 ^ 16 := by decide

theorem witness_BookingKeepsTheDeadline :
    (∃ p ps, book on 0 (hClass plan0 0 0) 0 5 = (.ok, p :: ps)) ∧ 0 < 1 ∧ allowedSlots on 0 ≠ [] := by
  refine ⟨?_, by decide, by decide +kernel⟩
  have h : (book on 0 (hClass plan0 0 0) 0 5).1 = .ok ∧ (book on 0 (hClass plan0 0 0) 0 5).2 ≠ [] := by decide +kernel
  generalize book on 0 (hClass plan0 0 0) 0 5 = r at h
  obtain ⟨st, ps⟩ := r
  obtain ⟨h1, h2⟩ := h
  dsimp only at h1 h2
  subst h1
  match ps, h2 with
  | p :: ps, _ => exact ⟨p, ps, rfl⟩

/-- An LC request of partition 0 whose deadline tick is the present one. -/
def req0 : ReqCtx :=
  { part := 0, index := 0, reqId := 5, cls := 0, be := false, state := .active, next := 0, steps := 1, admitTick := 1,
    deadline := 5, places := [], session := 77, port := 0, addr := 1, udp := 2 }

/-- `mapped` with a request context. -/
def asked (r : ReqCtx) : State := { mapped with ac := { mapped.ac with reqs := [r] } }

theorem witness_DeadlinesExpire :
    (live (asked req0) = true ∧ findReq (asked req0) 0 0 = some req0 ∧ req0.be = false ∧ req0.state ≠ .done ∧
      req0.deadline ≤ (asked req0).tb.tick ∧ (asked req0).cu.halted = false ∧
      findSession (asked req0) req0.session = some session0 ∧ session0.nextSeq + 1 < 2 ^ 63) ∧
    (∃ r, findReq (asked r) 0 0 = some r ∧ r.be = true) ∧ (∃ r, findReq (asked r) 0 0 = some r ∧ r.state = .done) ∧
    (∃ r, findReq (asked r) 0 0 = some r ∧ (asked r).tb.tick + 1 < r.deadline) :=
  ⟨by decide +kernel, ⟨{ req0 with be := true }, rfl, rfl⟩, ⟨{ req0 with state := .done }, rfl, rfl⟩,
    ⟨{ req0 with deadline := 7 }, rfl, by decide⟩⟩

/-! ### Lookup-reduce engines and formats -/

/-- `on` with `step0` running on engine 0. -/
def working : State := { on with steps := [step0] }

theorem witness_EngineSharesEnd :
    (live working = true ∧ findStep working 9 = some step0 ∧ step0.phase = .running ∧ 0 < 320 ∧
      step0.units.contains (engineUnit 0) = true ∧ step0.unitsDone.contains (engineUnit 0) = false ∧
      working.fc.inj.remaining = 0) ∧
    (∃ (s : State) (t : Step), findStep s 9 = some t ∧ t.phase ≠ .running) ∧
    (findStep working 9 = some step0 ∧ step0.units.contains (engineUnit 319) = false) ∧
    (∃ (s : State) (t : Step), findStep s 9 = some t ∧ t.unitsDone.contains (engineUnit 0) = true) ∧
    1 ≠ (engine working 0).gen ∧ step0.second.contains (engineUnit 0) = false ∧
    { step0 with second := [engineUnit 0] }.second.contains (engineUnit 0) = true :=
  ⟨by decide +kernel, ⟨{ on with steps := [{ step0 with phase := .killed }] }, _, rfl, by decide⟩, by decide +kernel,
    ⟨{ on with steps := [{ step0 with unitsDone := [engineUnit 0] }] }, _, rfl, rfl⟩, by decide +kernel, by decide +kernel, by decide +kernel⟩

theorem witness_ExactSumsIgnoreOrder :
    [Dec.fin false 1 0, .fin true 1 128].Perm [.fin true 1 128, .fin false 1 0] ∧
    [Dec.fin false 1 128].length ≤ 2 ^ 24 :=
  ⟨List.Perm.swap _ _ [], by decide⟩

theorem witness_ExactFormsReadBack :
    (∃ a : Acc, a.fits = true ∧ a.value = -(2 ^ 319) ∧ a.terms = 2 ^ 24 ∧ a.terms ≤ 2 ^ 24) ∧ 2 ^ 40 - 1 < 2 ^ 40 :=
  ⟨⟨{ value := -(2 ^ 319), terms := 2 ^ 24 }, by decide +kernel, rfl, rfl, le_refl _⟩, by decide⟩

theorem witness_ConversionRoundsOnce :
    (fp16 ∈ [fp32, bf16, fp16] ∧ 3 < 4 ∧ 0x7C00 < 2 ^ (1 + fp16.e + fp16.m) ∧ decodeFloat fp16 0x7C00 ≠ .nan ∧
      0x7C00 ≠ 2 ^ (fp16.e + fp16.m)) ∧
    decodeFloat fp16 0x7C01 = .nan ∧ (8 ∈ [8, 16, 32] ∧ 255 < 2 ^ 8) ∧ (1 ≤ 1 ∧ 0 < 1) := by decide +kernel

/-- A step of LRE_UPDATE with a header at DVA 0 and the given UPDATE_SEQ. -/
def update (seq : Nat) : Step := { step0 with opcode := 0x43, xlats := [x0], raw := BitVec.ofNat 512 (seq * 2 ^ (8 * 0x30)) }

theorem witness_UpdatesAreSequenced :
    (∀ q ∈ [0, 1, 2], readRange mapped (update q).part (update q).xlats (dfld (update q).raw 0x10 0 57) 8 =
      some (List.replicate 8 0, none)) ∧
    dfld (update 0).raw 0x30 0 64 ≤ leNat (List.replicate 8 0) ∧ leNat (List.replicate 8 0) + 1 < dfld (update 2).raw 0x30 0 64 ∧
    dfld (update 1).raw 0x30 0 64 = leNat (List.replicate 8 0) + 1 := by decide +kernel

/-- An atomic with a zero operand. -/
def atom0 (code : Nat) (wide : Bool) : AtomOp := { code := code, wide := wide, operand := 0, compare := 0, ret := true }

theorem witness_AtomicsAtTheHome :
    (atomUnit (atom0 0 false) 2 0).status ≠ .ok ∧ 0xC < (atom0 0xD false).code ∧
    ((atom0 0xB false).code = 0xB ∧ (atomUnit (atom0 0xB false) 0 0).status = .ok ∧
      (atomUnit (atom0 0xB false) 0 (atomUnit (atom0 0xB false) 0 0).line).status = .ok) ∧
    ((atom0 9 true).code < 0xA ∧ (atom0 9 true).wide = true ∧ 56 % 8 = 0 ∧ 56 < 64) ∧
    ((atom0 0xA false).code < 0xB ∧ 61 % 4 ≠ 0) ∧
    ((atomUnit (atom0 0xB false) 0 0).status = .ok ∧ (atomUnit (atom0 0xB false) 8 0).status ≠ .ok) := by decide +kernel

/-! ### Coherence -/

/-- The header of a message of tile 0 with an opcode, tag 1 and an address (R249). -/
def head1 (op gen addr : Nat) : TileMsg := { head := BitVec.ofNat 128 (op * 2 ^ 120 + gen * 2 ^ 112 + 2 ^ 92 + addr) }

/-- A message of tile 0 on the first line of partition 0, under key ID 1. -/
def m0 (op : Nat) : TileMsg := head1 op 0 (2 ^ 48)

/-- A StashAck that accepts (R249). -/
def accepts0 : TileMsg := { head := (m0 0x25).head ||| BitVec.ofNat 128 (2 ^ 81) }

/-- A step that runs on tile 0 with translations. -/
def stepT (xs : List Xlat) : Step := { step0 with opcode := 0x40, units := [tileUnit 0], xlats := xs, ranges := [(0, 64, 7)] }

/-- A directory with the line `l` at key 0 alone. -/
def one (l : LlcLine) : Tab LlcLine := [(0, { l with dpa := 2 ^ 48, keyId := 1 })]

/-- `on` with a running tile step, a directory, and the first granule of PC 0 claimed by key ID 1. -/
def home (xs : List Xlat) (ls : Tab LlcLine) : State :=
  { on with
    steps := [stepT xs]
    coh := { on.coh with lines := ls }
    mi := { on.mi with counters := [(0, { key0 := 1 })] } }

theorem tile0 : tileOwner plan0 0 = some 0 := by decide +kernel

theorem atPort0 (xs : List Xlat) (ls : Tab LlcLine) : AtPort (home xs ls) 0 0 :=
  ⟨rfl, by show on.bnd.fabric.getLsbD 0 = true; decide +kernel, by show (0 : BitVec 64).getLsbD 0 = false; decide, by
    unfold domainGen
    rw [show tileOwner (home xs ls).ps.active 0 = some 0 from tile0]
    rfl⟩

theorem passes0 (xs : List Xlat) (ls : Tab LlcLine) (m : TileMsg) (op : Nat) (h : m.tile = 0 ∧ m.gen = 0)
    (l : m.legal op = true) : Passes (home xs ls) op m where
  toAtPort := by rw [h.1, h.2]; exact atPort0 xs ls
  legal := l
  inject := rfl

theorem home0 (xs : List Xlat) (ls : Tab LlcLine) (op : Nat) (h : op ∈ [1, 2, 3, 4, 5, 6, 0x21, 0x22, 0x23, 0x24, 0x25]) :
    homeOf (home xs ls) (m0 op) = some (0, 0) := by
  show homeOf on (m0 op) = some (0, 0)
  revert op
  decide +kernel

theorem reaches0 (xs : List Xlat) (ls : Tab LlcLine) (op : Nat) (h : op ∈ [1, 2, 3, 4, 5, 6])
    (r : ls.all (fun p => p.2.trans.isNone) = true) : Reaches (home xs ls) op (m0 op) 0 0 where
  toPasses := passes0 xs ls (m0 op) op (by revert op; decide +kernel) (by revert op; decide +kernel)
  home := home0 xs ls op (by fin_cases h <;> decide)
  room := by
    have : ls.filter (fun p => sliceOf (linePc p.1) == sliceOf (linePc 0) && p.2.trans.isSome) = [] := by
      rw [List.filter_eq_nil_iff]
      intro p hp
      have := List.all_eq_true.1 r p hp
      cases h : p.2.trans with
      | none => simp
      | some t => simp [h] at this
    show (ls.filter _).length < 256
    rw [this]
    decide
  turn := rfl
  entry := rfl
  copy := rfl

theorem witness_TileMessagesDropped :
    (tileMsgOf (.rds (m0 1)) = some (1, m0 1) ∧ (∃ s : State, fabricOn s = false) ∧
      (∃ s : State, s.bnd.fabric.getLsbD (m0 1).tile = false) ∧ (∃ s : State, s.coh.dead.getLsbD (m0 1).tile = true)) ∧
    (fabricOn on = true ∧ on.bnd.fabric.getLsbD (m0 1).tile = true ∧ on.coh.dead.getLsbD (m0 1).tile = false ∧
      (head1 1 1 0).gen ≠ domainGen on (head1 1 1 0).tile) ∧
    (AtPort on (m0 2).tile (m0 2).gen ∧ (m0 2).legal 1 = false ∧
      ({ head := (m0 1).head ||| BitVec.ofNat 128 (2 ^ 104) } : TileMsg).legal 1 = false ∧
      ({ head := (m0 1).head ||| BitVec.ofNat 128 (2 ^ 91) } : TileMsg).legal 1 = false) ∧
    (∀ op ∈ [0x21, 0x22, 0x23, 0x24, 0x25], homeOf (home [] []) (head1 op 0 0) = none ∧
      Passes (home [] []) op (head1 op 0 0)) ∧
    (∀ op ∈ [0x21, 0x22, 0x25], homeOf (home [] []) (m0 op) = some (0, 0) ∧ (llc (home [] []) 0).trans = none ∧
      Passes (home [] []) op (m0 op)) ∧
    (∀ m ∈ [m0 0x25, head1 0x25 0 0], m = { head := m.head.extractLsb' 64 64 ++ m.head.extractLsb' 0 64 }) ∧
    (AtPort (home [] []) 0 0 ∧ findStep (home [] []) 8 = none ∧ (0, 8) ∉ (home [] []).coh.owed ∧ 0 < 64) ∧
    (fabricOn on = true ∧ 63 < 64 ∧ on.bnd.fabric.getLsbD 63 = true ∧ on.coh.dead.getLsbD 63 = false ∧ 1 ≠ domainGen on 63) :=
  ⟨⟨rfl, ⟨{ on with cu := { on.cu with halted := true }, bnd := { on.bnd with powered := false } }, by decide +kernel⟩,
      ⟨State.reset, by decide +kernel⟩, ⟨{ on with coh := { on.coh with dead := 1 } }, by decide +kernel⟩⟩,
    by decide +kernel, ⟨⟨by decide +kernel, by decide +kernel, by decide +kernel, by decide +kernel⟩, by decide +kernel⟩,
    fun op h => ⟨by revert op; decide +kernel,
      passes0 _ _ _ op (by revert op; decide +kernel) (by revert op; decide +kernel)⟩,
    fun op h => ⟨home0 _ _ op (by fin_cases h <;> decide), rfl,
      passes0 _ _ _ op (by revert op; decide +kernel) (by revert op; decide +kernel)⟩, by decide +kernel,
    ⟨atPort0 _ _, by decide +kernel, List.not_mem_nil, by decide⟩, by decide +kernel⟩

/-- `home` with a directory of 256 lines of slice 0 in transactions. -/
def fullSlice : State :=
  home [] ((List.range 256).map fun i => (i, { trans := some { kind := .ss, item := { kind := .rds } } }))

theorem witness_RequestsNeedRights :
    (∀ op ∈ [1, 2, 3, 4], homeOf (home [] []) (head1 op 0 0) = none ∧ Passes (home [] []) op (head1 op 0 0)) ∧
    (∀ op ∈ [1, 2, 3, 4], (home [] []).coh.walk.getLsbD 0 = false ∧ Reaches (home [] []) op (m0 op) 0 0 ∧
      ∀ b ∈ [0, 1, 2], tileGrant (home [] []) (m0 op).tile (m0 op).dpa b = false) ∧
    (∀ op ∈ [1, 2, 3, 4], ∃ s : State, s.coh.walk.getLsbD 0 = true ∧ Reaches s op (m0 op) 0 0) ∧
    (Passes fullSlice 1 (m0 1) ∧ homeOf fullSlice (m0 1) = some (0, 0) ∧ 256 ≤ trackers fullSlice (sliceOf (linePc 0))) := by
  refine ⟨fun op h => ⟨by revert op; decide +kernel,
      passes0 _ _ _ op (by revert op; decide +kernel) (by revert op; decide +kernel)⟩,
    fun op h => ⟨rfl, reaches0 _ _ op (by fin_cases h <;> decide) rfl, by revert op; decide +kernel⟩,
    fun op h => ⟨{ home [] [] with coh := { on.coh with walk := 1 } }, by decide +kernel, ?_⟩,
    passes0 _ _ _ 1 (by decide +kernel) (by decide +kernel), home0 _ _ 1 (by decide), by decide +kernel⟩
  have p : Passes { home [] [] with coh := { on.coh with walk := 1 } } op (m0 op) :=
    { up := rfl, alive := by revert op; decide +kernel, fabric := by revert op; decide +kernel,
      gen := by revert op; decide +kernel, legal := by revert op; decide +kernel, inject := rfl }
  exact { toPasses := p, home := by clear p; revert op; decide +kernel, room := by decide +kernel, turn := rfl, entry := rfl, copy := rfl }

/-- A resident line of partition 0. -/
def resident (h : HState) (p : BitVec 64) : LlcLine := { hstate := h, presence := p }

theorem stable0 (xs : List Xlat) (h : HState) (p : BitVec 64) (e : h = .l ∨ h = .s ∨ h = .o) :
    Stable (home xs (one (resident h p))) 0 0 := by
  rcases e with e | e | e <;> subst e <;>
    exact ⟨by simp [home, one, resident, llc, tget], rfl, rfl, by show pcOwner plan0 0 = some 0; decide +kernel, rfl, rfl, rfl⟩

theorem serve0 (h : HState) (p : BitVec 64) (op bit : Nat) (o : op ∈ [1, 2, 3, 4, 5, 6]) (b : bit = 0 ∨ bit = 1 ∨ bit = 2)
    (e : h = .l ∨ h = .s ∨ h = .o) : MayServe (home [x0] (one (resident h p))) op (m0 op) bit 0 0 where
  toReaches := reaches0 _ _ op o rfl
  walk := by show (0 : BitVec 32).getLsbD 0 = false; decide
  grant := by
    rw [show (m0 op).tile = 0 by revert op; decide +kernel, show (m0 op).dpa = 2 ^ 48 by revert op; decide +kernel]
    show tileGrant (home [x0] []) 0 (2 ^ 48) bit = true
    rcases b with b | b | b <;> subst b <;> decide +kernel
  key := by
    rw [show (m0 op).dpa = 2 ^ 48 by revert op; decide +kernel]
    show keyCheck (home [] []) 0 0 (dpaKey (2 ^ 48)) = .match_
    decide +kernel
  line := stable0 _ _ _ e

theorem witness_RequestsAtTheHome :
    (∃ s, MayServe s 1 (m0 1) 2 0 0 ∧ (llc s 0).hstate = .l) ∧ (∃ s, MayServe s 1 (m0 1) 2 0 0 ∧ (llc s 0).hstate = .s) ∧
    (∃ s, MayServe s 1 (m0 1) 2 0 0 ∧ (llc s 0).hstate = .o ∧ (llc s 0).presence.getLsbD (m0 1).tile = true) ∧
    (∃ s, MayServe s 1 (m0 1) 2 0 0 ∧ (llc s 0).hstate = .o ∧ (llc s 0).presence.getLsbD (m0 1).tile = false ∧
      s.coh.dead.getLsbD (ownerOf (llc s 0)) = false) ∧
    (∀ op ∈ [2, 3], ∃ s, MayServe s op (m0 op) 1 0 0 ∧ (llc s 0).hstate = .l) ∧
    (∃ s, MayServe s 3 (m0 3) 1 0 0 ∧ (llc s 0).hstate = .s ∧ others (llc s 0) (m0 3).tile = [] ∧
      (llc s 0).presence.getLsbD (m0 3).tile = true) ∧
    (∀ op ∈ [2, 3], ∃ s, MayServe s op (m0 op) 1 0 0 ∧ (llc s 0).hstate = .s ∧ others (llc s 0) (m0 op).tile ≠ [] ∧
      ∀ t ∈ others (llc s 0) (m0 op).tile, s.coh.dead.getLsbD t = false) ∧
    (∀ op ∈ [2, 3], ∃ s, MayServe s op (m0 op) 1 0 0 ∧ (llc s 0).hstate = .o ∧
      (llc s 0).presence.getLsbD (m0 op).tile = false ∧ others (llc s 0) (m0 op).tile ≠ [] ∧
      ∀ t ∈ others (llc s 0) (m0 op).tile, s.coh.dead.getLsbD t = false) ∧
    (∀ op ∈ [2, 3], ∃ s, MayServe s op (m0 op) 1 0 0 ∧ (llc s 0).hstate = .o ∧
      (llc s 0).presence.getLsbD (m0 op).tile = true) ∧
    (∃ (s : State) (t : Step), MayServe s 4 (m0 4) 0 0 0 ∧ findStep s 9 = some t ∧ t.phase = .running ∧
      t.units.contains (tileUnit (m0 4).tile) = true ∧ (∀ u ∈ s.steps, ∀ a ∈ stepAtoms u 0, a.2.ret = false) ∧
      unverified s 0 = false ∧ (llc s 0).hstate = .l ∧ stepAtoms t 0 = [] ∧
      (atomUnit ((m0 4).atomOp 0) ((m0 4).dpa % 64) (llc s 0).data).status = .ok ∧ (llc s 0).poison = false) ∧
    (∃ (s : State) (t : Step), MayServe s 4 (m0 4) 0 0 0 ∧ findStep s 9 = some t ∧ t.phase = .running ∧
      t.units.contains (tileUnit (m0 4).tile) = true ∧ (∀ u ∈ s.steps, ∀ a ∈ stepAtoms u 0, a.2.ret = false) ∧
      unverified s 0 = false ∧ (llc s 0).hstate = .o ∧ bitList (llc s 0).presence ≠ [] ∧
      ∀ t ∈ bitList (llc s 0).presence, s.coh.dead.getLsbD t = false) := by
  refine ⟨⟨_, serve0 .l 0 1 2 (by decide) (by decide) (by decide), rfl⟩,
    ⟨_, serve0 .s 2 1 2 (by decide) (by decide) (by decide), rfl⟩,
    ⟨_, serve0 .o 1 1 2 (by decide) (by decide) (by decide), by decide +kernel⟩,
    ⟨_, serve0 .o 2 1 2 (by decide) (by decide) (by decide), by decide +kernel⟩,
    fun op h => ⟨_, serve0 .l 0 op 1 (by fin_cases h <;> decide) (by decide) (by decide), rfl⟩,
    ⟨_, serve0 .s 1 3 1 (by decide) (by decide) (by decide), by decide +kernel⟩,
    fun op h => ⟨_, serve0 .s 3 op 1 (by fin_cases h <;> decide) (by decide) (by decide), by revert op; decide +kernel⟩,
    fun op h => ⟨_, serve0 .o 2 op 1 (by fin_cases h <;> decide) (by decide) (by decide), by revert op; decide +kernel⟩,
    fun op h => ⟨_, serve0 .o 1 op 1 (by fin_cases h <;> decide) (by decide) (by decide), by revert op; decide +kernel⟩,
    ⟨_, stepT [x0], serve0 .l 0 4 0 (by decide) (by decide) (by decide), by decide +kernel⟩,
    ⟨_, stepT [x0], serve0 .o 2 4 0 (by decide) (by decide) (by decide), by decide +kernel⟩⟩

/-- A line of tile 0 in a transaction that waits for it alone. -/
def pendingLine (k : TransKind) : LlcLine :=
  { resident .o 1 with trans := some { kind := k, item := { kind := .rds, tile := 1 }, await := [0], tag := 1 } }

theorem awaited0 : ∀ op ∈ [0x21, 0x22, 0x23, 0x24], [0] = [(m0 op).tile] ∧ 1 = (m0 op).tag := by decide +kernel

theorem witness_WriteBacksAndAnswers :
    ((resident .l 0).hstate ≠ .i ∧ (pendingLine .ss).trans ≠ none ∧ 1 ≠ 0) ∧
    (∀ op ∈ [5, 6], ∃ s, Reaches s op (m0 op) 0 0 ∧ Stable s 0 0 ∧ (llc s 0).hstate = .o ∧
      (llc s 0).presence.getLsbD (m0 op).tile = true) ∧
    (∀ op ∈ [5, 6], ∃ s, Reaches s op (m0 op) 0 0 ∧ Stable s 0 0 ∧ (llc s 0).hstate = .l) ∧
    (∀ op ∈ [5, 6], ∃ s, Reaches s op (m0 op) 0 0 ∧ Stable s 0 0 ∧ (llc s 0).hstate = .s ∧
      (llc s 0).presence.getLsbD (m0 op).tile = false) ∧
    (∀ op ∈ [5, 6], ∃ s, Reaches s op (m0 op) 0 0 ∧ llc s 0 = {}) ∧
    (∀ op ∈ [0x21, 0x22, 0x23, 0x24], ∀ k ∈ [TransKind.ss, .si], ∃ s x, Passes s op (m0 op) ∧ homeOf s (m0 op) = some (0, 0) ∧
      (llc s 0).trans = some x ∧ x.await = [(m0 op).tile] ∧ x.unsent = [] ∧ x.tag = (m0 op).tag ∧ x.kind = k) ∧
    (∃ i : HomeItem, i.kind = .rds) ∧ (∃ i : HomeItem, i.kind = .rdu) ∧ (∃ i : HomeItem, i.kind = .upg) ∧
    (∃ s : State, 8 ≤ outstanding s (sliceOf (linePc 0)) 0) := by
  refine ⟨by decide,
    fun op h => ⟨_, reaches0 [] (one (resident .o 1)) op (by fin_cases h <;> decide) rfl, stable0 _ _ _ (by decide), rfl,
      by revert op; decide +kernel⟩,
    fun op h => ⟨_, reaches0 [] (one (resident .l 0)) op (by fin_cases h <;> decide) rfl, stable0 _ _ _ (by decide), rfl⟩,
    fun op h => ⟨_, reaches0 [] (one (resident .s 2)) op (by fin_cases h <;> decide) rfl, stable0 _ _ _ (by decide), rfl,
      by revert op; decide +kernel⟩,
    fun op h => ⟨_, reaches0 [] [] op (by fin_cases h <;> decide) rfl, rfl⟩,
    fun op h k _ => ⟨_, { kind := k, item := { kind := .rds, tile := 1 }, await := [0], tag := 1 },
      passes0 [] (one (pendingLine k)) (m0 op) op (by revert op; decide +kernel) (by revert op; decide +kernel),
      home0 _ _ op (by fin_cases h <;> decide), rfl, (awaited0 op h).1, rfl, (awaited0 op h).2, rfl⟩,
    ⟨{ kind := .rds }, rfl⟩, ⟨{ kind := .rdu }, rfl⟩, ⟨{ kind := .upg }, rfl⟩,
    ⟨{ on with coh := { on.coh with lines := (List.range 8).map fun i => (i, pendingLine .ss) } }, by decide +kernel⟩⟩

/-- A killed step whose kill one unit has not acknowledged. -/
def killed0 (u : Nat) : Step := { step0 with units := [u], unacked := [u], phase := .killed }

theorem witness_TilesAnswer :
    (∀ m ∈ [m0 0x25, accepts0], ∃ s x, Passes s 0x25 m ∧ homeOf s m = some (0, 0) ∧ (llc s 0).trans = some x ∧ x.kind = .st ∧
      m.tile ∈ x.await ∧ x.tag = m.tag) ∧ accepts0.accept = true ∧ (m0 0x25).accept = false ∧
    (∀ m ∈ [m0 0x25, accepts0], m = { head := m.head.extractLsb' 64 64 ++ m.head.extractLsb' 0 64 }) ∧
    (AtPort (home [] []) 0 0 ∧ findStep (home [] []) 9 = some (stepT []) ∧ (stepT []).units.contains (tileUnit 0) = true ∧
      (stepT []).unitsDone.contains (tileUnit 0) = false ∧ (stepT []).phase = .running) ∧
    (∃ s t, AtPort s 0 0 ∧ findStep s 9 = some t ∧ t.phase = .killed ∧ 0 < 64 ∧ t.units.contains (tileUnit 0) = true ∧
      t.unitsDone.contains (tileUnit 0) = false ∧ t.unacked.contains (tileUnit 0) = true) ∧
    (∃ s : State, AtPort s 0 0 ∧ findStep s 8 = none ∧ (0, 8) ∈ s.coh.owed) ∧
    (∃ s t, live s = true ∧ 319 < 320 ∧ (engine s 319).gen = 0 ∧ findStep s 9 = some t ∧ t.phase = .killed ∧
      t.unacked.contains (engineUnit 319) = true) ∧
    (live on = true ∧ (engine on 319).gen ≠ 1) ∧
    (∃ s : State, live s = true ∧ awaitLines s 0 ≠ [] ∧ awaitsVerdict s 0 = false ∧ s.coh.dead.getLsbD 0 = false) ∧
    awaitLines on 63 = [] ∧ (∃ s : State, awaitsVerdict s 0 = true) := by
  refine ⟨fun m h => ⟨_, _, passes0 [] (one (pendingLine .st)) m 0x25 (by fin_cases h <;> decide +kernel)
      (by fin_cases h <;> decide +kernel), ?_, rfl, rfl, by fin_cases h <;> decide +kernel, by fin_cases h <;> decide +kernel⟩,
    by decide +kernel, by decide +kernel, by decide +kernel,
    ⟨atPort0 _ _, rfl, by decide +kernel, rfl, rfl⟩,
    ⟨{ on with steps := [killed0 (tileUnit 0)] }, _, ⟨rfl, by decide +kernel, rfl, by decide +kernel⟩, rfl, rfl,
      by decide, by decide +kernel⟩,
    ⟨{ on with coh := { on.coh with owed := [(0, 8)] } }, ⟨rfl, by decide +kernel, rfl, by decide +kernel⟩, rfl,
      List.mem_singleton.2 rfl⟩,
    ⟨{ on with steps := [killed0 (engineUnit 319)] }, _, rfl, by decide, rfl, rfl, rfl, by decide +kernel⟩,
    by decide +kernel, ⟨{ home [] (one (pendingLine .ss)) with steps := [] }, by decide +kernel⟩, rfl,
    ⟨{ on with steps := [{ stepT [] with phase := .finished }] }, by decide +kernel⟩⟩
  show homeOf on m = some (0, 0)
  fin_cases h <;> decide +kernel

/-- A host access to the first bytes of partition 0's memory. -/
def access0 : HostAccess := { part := 0, dva := 0, len := 64, host := pt, tbit := false }

/-- `mapped` with a line and a claimed granule, as `home`. -/
def hostHome (ls : Tab LlcLine) : State := { mapped with coh := (home [] ls).coh, mi := (home [] ls).mi }

/-- It after the walks of an access to the first `n` bytes with the given rights. -/
def hostWalked (s : State) (g : Rng) : State := countWalks 0 pt [g] s

/-- The line of the witnesses of host accesses. -/
abbrev lineL : Tab LlcLine := one (resident .l 0)

theorem hostStable0 (g : Rng) : Stable (hostWalked (hostHome lineL) g) 0 0 :=
  ⟨by show (llc (hostHome lineL) 0).hstate ≠ .i; decide +kernel, rfl, rfl, by show pcOwner plan0 0 = some 0; decide +kernel,
    rfl, rfl, rfl⟩

theorem witness_HostAccessesPartitionMemory :
    (on.bnd.powered = true ∧ hostServed on { access0 with part := 31 } = false) ∧
    (∃ xs, hostServed (hostHome lineL) access0 = true ∧ isHost access0.dva = false ∧ 0 < access0.len ∧
      access0.dva % 64 + access0.len ≤ 64 ∧ xlatDpa xs access0.dva = some (2 ^ 48) ∧ 2 ^ 48 % 64 = access0.dva % 64 ∧
      access0.entryLost = false ∧ access0.copyLost = false ∧ access0.parity = 0 ∧
      (∀ g ∈ [({ dva := 0, size := 64, r := true } : Rng), { dva := 0, size := 1, w := true }, { dva := 0, size := 8, a := true }],
        hostXlat (hostWalked (hostHome lineL) g) access0 g = .ok xs ∧
        homeLine (hostWalked (hostHome lineL) g) access0.part (2 ^ 48) = some 0 ∧
        keyCheck (hostWalked (hostHome lineL) g) (linePc 0) (lineNo 0) (dpaKey (2 ^ 48 / 64 * 64)) = .match_ ∧
        unverified (hostWalked (hostHome lineL) g) 0 = false ∧ (hostWalked (hostHome lineL) g).coh.walk.getLsbD 0 = false ∧
        (llc (hostWalked (hostHome lineL) g) 0).hstate = .l ∧ (llc (hostWalked (hostHome lineL) g) 0).presence = 0 ∧
        (∀ u ∈ (hostWalked (hostHome lineL) g).steps, stepAtoms u 0 = []) ∧
        (atomUnit { code := pcieOp 0, wide := true, operand := 0, compare := 0, ret := true } 0
          (llc (hostWalked (hostHome lineL) g) 0).data).status = .ok)) ∧
    (∀ g, Stable (hostWalked (hostHome lineL) g) access0.part 0) ∧
    (∃ s xs, hostServed s access0 = true ∧
      hostXlat (hostWalked s { dva := 0, size := 64, r := true }) access0 { dva := 0, size := 64, r := true } = .ok xs ∧
      xlatDpa xs access0.dva = some (2 ^ 48) ∧
      homeLine (hostWalked s { dva := 0, size := 64, r := true }) access0.part (2 ^ 48) = some 0 ∧
      keyCheck (hostWalked s { dva := 0, size := 64, r := true }) (linePc 0) (lineNo 0) (dpaKey (2 ^ 48 / 64 * 64)) = .refuse) :=
  ⟨by decide +kernel,
    ⟨[x0], by decide +kernel, by decide +kernel, by decide, by decide, by decide +kernel, by decide, rfl, rfl, rfl,
      by decide +kernel⟩, hostStable0,
    ⟨{ mapped with mi := { on.mi with counters := [(0, { key0 := 2 })] } }, [x0], by decide +kernel, by decide +kernel,
      by decide +kernel, by decide +kernel, by decide +kernel⟩⟩

/-! ### Memory protection and the fault state -/

/-- `on` with one counter block of PC 0. -/
def withBlock (b : CounterBlock) : State := { on with mi := { on.mi with counters := [(0, b)] } }

/-- `on` with the protection state of PC 0. -/
def withPc (p : PcState) : State := { on with mi := { on.mi with pcs := [(0, p)] } }

theorem witness_MemoryReadsBack :
    (∀ b ∈ [({ minors := [(0, 0x7D)] } : CounterBlock), { minors := [(0, 0x7F)] }], Memory.wf (withBlock b).mi.mem = true ∧ 1 ≠ 0 ∧
      (pcState (withBlock b) (linePc 0)).exhausted = false ∧ groupWaits (withBlock b) (linePc 0) (groupOf (lineNo 0)) = false ∧
      parkedAt (withBlock b) 0 = none) ∧
    tget 0 (cblock (withBlock { minors := [(0, 0x7D)] }) (linePc 0) (groupOf (lineNo 0))).minors (lineNo 0 % 64) < 0x7E ∧
    tget 0 (cblock (withBlock { minors := [(0, 0x7F)] }) (linePc 0) (groupOf (lineNo 0))).minors (lineNo 0 % 64) ≠ 0x7E ∧
    (pcState (withPc { exhausted := true }) (linePc 0)).exhausted = true ∧
    (∃ s : State, (pcState s (linePc 0)).exhausted = false ∧ groupWaits s (linePc 0) (groupOf (lineNo 0)) = true ∧
      groupLost s (linePc 0) (groupOf (lineNo 0)) = false) ∧
    (∃ s : State, groupLost s (linePc 0) (groupOf (lineNo 0)) = true) :=
  ⟨by decide +kernel, by decide +kernel, by decide +kernel, by decide +kernel,
    ⟨withPc { sweep := some { kind := .rekey, target := 1, first := [0] } }, by decide +kernel⟩,
    ⟨withPc { sweep := some { kind := .rekey, target := 1, lost := [0] } }, by decide +kernel⟩⟩

theorem witness_CountersAndClaims :
    (∀ b ∈ [({ minors := [(0, 0x7D)] } : CounterBlock), { major := 0xFFFFFFFE, minors := [(0, 0x7E)] },
        { major := 0xFFFFFFFE, minors := [(0, 0x7F)] }, { major := 0xFFFFFFFF, minors := [(0, 0x7E)] },
        { major := 0xFFFFFFFF, minors := [(0, 0x7F)] }],
      (pcState (withBlock b) (linePc 0)).exhausted = false ∧ groupWaits (withBlock b) (linePc 0) (groupOf (lineNo 0)) = false ∧
      cblock (withBlock b) (linePc 0) (groupOf (lineNo 0)) = b ∧ genOf (withBlock b) (linePc 0) < 0xFFFF ∧
      (pcState (withBlock b) (linePc 0)).sweep = none) ∧
    keyCheck on 0 0 1 = .claim ∧ (pcState on 0).exhausted = false ∧
    (keyCheck (withPc { exhausted := true }) 0 0 1 = .claim ∧ (pcState (withPc { exhausted := true }) 0).exhausted = true) ∧
    keyCheck (withBlock { key0 := 2 }) 0 0 1 = .refuse ∧ keyCheck (withBlock { key0 := 1 }) 0 0 1 = .match_ ∧ 127 ≠ 0 := by
  decide +kernel

/-- A re-key of PC 0 that has reached a group. -/
def rekeyAt (g : Nat) : State := withPc { sweep := some { kind := .rekey, boundary := g, target := 1 } }

/-- The command that a flush answers. -/
def cmd0 : CmdRef := { queue := 0x420, index := 0, ctx := 0xFFFF, opcode := 0xC7, cmpl := true, irq := false }

theorem visit_good : ∃ u, checkVisit 0 0 [] 0 .agree (rekeyAt 0) = (.good, u) := by
  have h : (checkVisit 0 0 [] 0 .agree (rekeyAt 0)).1 = .good := by decide +kernel
  exact ⟨_, Prod.ext h rfl⟩

theorem witness_SweepsAndWalksEnd :
    (∃ w, live (rekeyAt 0) = true ∧ (pcState (rekeyAt 0) 0).sweep = some w ∧ w.kind = .rekey ∧ w.first = [] ∧ w.lost = [] ∧
      groupLost (rekeyAt 0) 0 w.boundary = false ∧ ∃ u, checkVisit 0 w.boundary [] 0 .agree (rekeyAt 0) = (.good, u)) ∧
    on.fc.inj.remaining = 0 ∧
    (∃ w, live (rekeyAt (groupCount - 1)) = true ∧ (rekeyAt (groupCount - 1)).fc.inj.remaining = 0 ∧
      (pcState (rekeyAt (groupCount - 1)) 0).sweep = some w ∧ w.kind = .rekey ∧ w.first = [] ∧ w.lost = [] ∧
      w.boundary + 1 = groupCount ∧ (pcState (rekeyAt (groupCount - 1)) 0).queued = [] ∧
      (pcState (rekeyAt (groupCount - 1)) 0).parked = []) ∧
    (groupLost on 0 0 = false ∧ (∀ x ∈ (pcState on 0).parked, groupOf x.line ≠ 0) ∧ (cblock on 0 0).gen ≠ 1 ∧
      (pcState on 0).sweep = none) ∧
    (∃ (s : State) (w : Sweep), live s = true ∧ (pcState s 0).sweep = some w ∧ w.kind = .scrub ∧ 1279 < 1280) ∧
    (39 < 40 ∧ 31 < 32) ∧ 0 / 2 ^ 30 = 0 ∧ 2 ^ 30 / 2 ^ 30 ≠ 0 ∧ 2 ^ 18 - 1 < 2 ^ 18 ∧
    (∃ (s : State) (r : KeyRec), live s = true ∧ 127 ≠ 0 ∧ s.mi.keys = [(127, r)] ∧ r.state = .flushing ∧ s.coh.lines = [] ∧
      s.mi.flushCmd = [(127, cmd0)]) :=
  ⟨⟨_, by decide +kernel, rfl, rfl, rfl, rfl, by decide +kernel, visit_good⟩, rfl,
    ⟨_, by decide +kernel, rfl, rfl, rfl, rfl, rfl, by decide, rfl, rfl⟩, by decide +kernel,
    ⟨withPc { sweep := some { kind := .scrub, target := 1 } }, _, by decide +kernel, rfl, rfl, by decide⟩, by decide, by decide,
    by decide, by decide,
    ⟨{ on with mi := { on.mi with keys := [(127, { state := .flushing })], flushCmd := [(127, cmd0)] } }, _, rfl, by decide, rfl,
      rfl, rfl, rfl⟩⟩

/-- A read of block 0 of PC 0 for `step0`, not yet verified. -/
def read0 : ReadTx := { pc := 0, block := 0, poisoned := false, step := some 9 }

/-- `on` with a step that reads PC 0, and reads that await their verification. -/
def reading (rs : List ReadTx) : State := { on with steps := [step0], mi := { on.mi with reads := rs } }

/-- `reading` with the nodes of levels 0 to 2 of group 0's path in the slice's cache. -/
def trusted0 : State :=
  { reading [read0] with mi := { (reading [read0]).mi with cache := [pathEntry 0 0 0, pathEntry 0 0 1, pathEntry 0 0 2] } }

theorem witness_ReadsAreVerified :
    (live (reading []) = true ∧ (reading []).fc.inj.remaining = 0 ∧ readServes (reading []) 0 0 (some 9) = true ∧
      (8 : BitVec 4) ≠ 0) ∧
    (∀ st, (st = none ∨ st = some 9) → readServes on 0 0 st = false ∧ ownReads on 0 0 = false) ∧
    (∃ s : State, live s = true ∧ s.fc.inj.remaining = 0 ∧ readServes s 0 0 (some 9) = true ∧
      ∀ k ∈ blockLines 0 0, awaits s k = false ∧ (llc s k).hstate ≠ .i) ∧
    (∃ (s : State) (i : HomeItem), (llc s 0).hstate = .i ∧ (llc s 0).wait = [] ∧ i.kind = .rdu ∧
      (llc s 0).trans = some { kind := .f, item := i }) ∧
    (live (reading [read0]) = true ∧ (reading [read0]).fc.inj.remaining = 0 ∧ (reading [read0]).mi.debugs = [] ∧
      (∃ r ∈ (reading [read0]).mi.reads, r.pc = 0 ∧ r.block = 0 ∧ r.poisoned = false) ∧
      (∀ k ∈ blockLines 0 0, awaits (reading [read0]) k = false) ∧
      (∀ l ∈ [0, 5], l ∈ checkPath (reading [read0]) 0 (groupOf (4 * 0))) ∧ mirrored (reading [read0]) 0 = true ∧
      (pcState (reading [read0]) 0).sweep = none ∧ (pcState (reading [read0]) 0).exhausted = false ∧
      genOf (reading [read0]) 0 < 0xFFFF ∧ 1 ≠ genOf (reading [read0]) 0 ∧
      (∀ kind ∈ [0x13, 0x14], ladderStep (tget {} (reading [read0]).fc.src (sliceUnit (sliceOf 0))) kind < 5)) ∧
    (checkPath trusted0 0 (groupOf (4 * 0)) = [] ∧ 0 ∉ checkPath trusted0 0 (groupOf (4 * 0))) ∧
    on.mi.reads = [] := by
  refine ⟨by decide +kernel, ?_,
    ⟨{ reading [] with coh := { on.coh with lines := (blockLines 0 0).map fun k => (k, resident .l 0) } }, by decide +kernel⟩,
    ⟨{ on with coh := { on.coh with lines := [(0, { trans := some { kind := .f, item := { kind := .rdu } } })] } },
      { kind := .rdu }, rfl, rfl, rfl, rfl⟩,
    ⟨by decide +kernel, rfl, rfl, ⟨read0, List.mem_singleton.2 rfl, rfl, rfl, rfl⟩, by decide +kernel, by decide +kernel,
      by decide +kernel, by decide +kernel, by decide +kernel, by decide +kernel, by decide +kernel, by decide +kernel⟩,
    by decide +kernel, rfl⟩
  rintro st (rfl | rfl) <;> decide +kernel

/-- `on` with source 0x500 in the fault state since the instant `t`. -/
def faulted (t : Nat) : State := { on with fc := { on.fc with quietS := 1, src := [(0x500, { inFault := true, lastNs := t })] } }

theorem witness_FaultStateEnds :
    coalesces on { source := 0x500, kind := 0x40 } = false ∧
    (∃ s : State, s.bnd.powered = true ∧ s.tb.running = true ∧ s.cu.halted = false ∧ (tget {} s.fc.src 0x500).inFault = true ∧
      (tget {} s.fc.src 0x500).lastNs + s.fc.quietS * 10 ^ 9 = s.tb.now) ∧
    (tget {} on.fc.src 0x500).inFault = false ∧
    (faulted 0).tb.now < (tget {} (faulted 0).fc.src 0x500).lastNs + (faulted 0).fc.quietS * 10 ^ 9 ∧
    (∃ s : State, s.bnd.powered = true ∧ s.tb.running = true ∧ s.cu.halted = true) :=
  ⟨by decide +kernel, ⟨{ faulted 0 with tb := { on.tb with now := 10 ^ 9 } }, rfl, rfl, rfl, rfl, rfl⟩, rfl, by decide +kernel,
    ⟨{ on with cu := { on.cu with halted := true } }, rfl, rfl, rfl⟩⟩

/-! ### Descriptors and queues -/

/-- A descriptor of version 1 with an opcode, a context and fields given as (byte offset, value). -/
def desc (op ctx : Nat) (fs : List (Nat × Nat)) : Desc :=
  BitVec.ofNat 512 (fs.foldl (fun x p => x + p.2 * 2 ^ (8 * p.1)) (op + 2 ^ 12 + ctx * 2 ^ 32))

/-- A persistent queue of class 1 and context 1, whose ring lies in the host window. -/
def program0 : Queue := { live := true, kind := .persistent, cls := 1, owner := 1, state := .idle, ring := 2 ^ 56 }

/-- `mapped` with such a queue as queue 3, its ring's neighbours gone, synchronisation object 7 live, a range table at DVA 0x3000
that names one line, whose line is resident in its home. -/
def ready0 : State :=
  { mapped with
    qu := { on.qu with qs := [(3, program0),
      (0x420, { live := true, kind := .admin, owner := 0xFFFF, state := .idle, ring := 2 ^ 56, tail := 1 })] }
    tu := { mapped.tu with syncs := [(pkey 17 0 7, { state := .live, value := 3, owner := 1, hostRefs := 1 })] }
    mi := { on.mi with
      counters := [(0, { key0 := 1 }), (3, { key0 := 1 })] }
    coh := { on.coh with lines := [(192, { hstate := .l, keyId := 1, dpa := 2 ^ 48 + 0x3000,
                                           data := BitVec.ofNat 512 (64 * 2 ^ 64 + 4 * 2 ^ 96) })] } }

/-- A fetch of a descriptor from queue 3, with the page table. -/
def fetch0 (d : Desc) : Fetch := { queue := 3, raw := d, host := pt }

/-- A fetch from the physical function's administration queue. -/
def fetchA (d : Desc) : Fetch := { queue := 0x420, raw := d, host := pt }

/-- The acceptance of a descriptor whose ring lies in host memory, as one test. -/
def accepted (s : State) (op : Nat) (f : CreateFetch) : Bool :=
  fetchable s f.queue && dOpcode f.raw == op && ((queue s f.queue).kind == .admin || isHost (queue s f.queue).ring) &&
    f.parity == 0 && s.fc.inj.remaining == 0 && !(queue s f.queue).stopping &&
    dTag f.raw == (queue s f.queue).head % 65536 && (queue s f.queue).skip == 0 &&
    !((queue s f.queue).kind == .intake && dServe f.raw) && !acceptedBefore (queue s f.queue) f.raw &&
    (headCheck (advanceHead f.queue s) f.queue (queue s f.queue) (applyPatch (queue s f.queue) f.raw)).isNone

theorem ringHolds_host {s : State} {x : Queue} (raw : Desc) (h : (x.kind == .admin || isHost x.ring) = true) :
    ringHolds x raw s = (true, s) := by
  rw [ringHolds, if_pos]
  simpa using h

theorem accepts_of {s : State} {op : Nat} {f : CreateFetch} (h : accepted s op f = true) : Accepts s op f := by
  simp only [accepted, Bool.and_eq_true, beq_iff_eq, Bool.not_eq_true', Option.isNone_iff_eq_none] at h
  obtain ⟨⟨⟨⟨⟨⟨⟨⟨⟨⟨a, b⟩, c⟩, w⟩, p⟩, r⟩, d⟩, e⟩, g⟩, i⟩, j⟩ := h
  exact ⟨a, b, ringHolds_host _ c, w, p, r, d, e, g, i, j⟩

theorem translates_of {s : State} {c : Cmd} {n : Nat} {rngs : List Rng} {xs : List Xlat} (h1 : c.again = false)
    (h2 : walkRanges (countWalks n c.f.host rngs s) n c.f.host rngs = .ok xs)
    (h3 : pinFits (countWalks n c.f.host rngs s) n xs = true) :
    Translates c n rngs [] s (dedupX xs) (countWalks n c.f.host rngs s) := by
  intro k
  simp only [check11, h1, Bool.false_eq_true, if_false, h2, hostAll, h3, if_true]

/-- Lines that are all readable, or refused by their key ID, need nothing. -/
theorem bringIn_of {s : State} {l : List (Nat × Nat × Nat)}
    (h : l.all (fun x => keyCheck s (linePc x.2.1) (lineNo x.2.1) (dpaKey x.2.2) == .refuse || readable s x.2.1) = true) :
    bringIn l s = (true, s) := by
  have e : ∀ x ∈ l, (keyCheck s (linePc x.2.1) (lineNo x.2.1) (dpaKey x.2.2) ≠ .refuse && !readable s x.2.1) = false := by
    intro x hx
    have := List.all_eq_true.1 h x hx
    simp only [Bool.or_eq_true, beq_iff_eq] at this
    rcases this with r | r <;> simp [r]
  have f : l.filter (fun x => keyCheck s (linePc x.2.1) (lineNo x.2.1) (dpaKey x.2.2) ≠ .refuse && !readable s x.2.1) = [] :=
    List.filter_eq_nil_iff.2 fun x hx => by rw [e x hx]; decide
  have g : (l.any fun x => keyCheck s (linePc x.2.1) (lineNo x.2.1) (dpaKey x.2.2) ≠ .refuse && !readable s x.2.1) = false := by
    rw [List.any_eq_false]
    exact fun x hx => by rw [e x hx]; decide
  simp only [bringIn, f, List.foldl_nil, g, Bool.not_false]

theorem pair_of {α β : Type} {p : α × β} {a : α} (h : p.1 = a) : p = (a, p.2) := by rw [← h]

/-- The descriptors of the witnesses, with their opcodes. -/
def poolD : Desc := desc 0x41 1 [(0x0C, 16), (0x0E, 64), (0x18, 16), (0x20, 0x10000), (0x28, 64), (0x2C, 1)]
def pqD : Desc := desc 0x42 1 [(0x09, 1), (0x0A, 1), (0x0C, 1), (0x0E, 16), (0x18, 1), (0x20, 0x10000), (0x28, 64)]
def updateD : Desc := desc 0x43 1 [(0x0C, 16), (0x0E, 64), (0x18, 1), (0x20, 0x10000), (0x28, 64), (0x2C, 1), (0x30, 1)]
def copyD (src : Nat) (dst : Nat) : Desc := desc 0x44 1 [(0x08, src), (0x10, dst), (0x18, 64)]
def prefetchD : Desc := desc 0x45 1 [(0x18, 64)]
def adviseD : Desc := desc 0x46 1 [(0x18, 64)]
def gatherD : Desc := desc 0x47 1 [(0x0C, 16), (0x0E, 64), (0x18, 16), (0x20, 0x10000), (0x28, 64), (0x2C, 1), (0x38, 1)]
def digestD (flags : Nat) : Desc := desc 0x48 1 [(0x08, flags), (0x18, 64), (0x1C, 1), (0x20, 0x1000)]
def ckptD : Desc := desc 0x84 1 [(0x10, 0x1000)]
def tileD : Desc := desc 0x40 1 [(0x08, 0x2000), (0x10, 0x3000), (0x18, 1)]

/-- A command of queue 3 of `ready0`. -/
abbrev cmd3 : Cmd := cmdOf ready0 { toFetch := fetch0 poolD } 0

/-- `on` with a step that holds translations. -/
def pins (xs : List Xlat) : State := { on with steps := [{ step0 with xlats := xs }] }

/-- `on` with `n` pages pinned. -/
def pinsPages (n : Nat) : State := pins ((List.range n).map fun i => { x0 with dva := i })

theorem uniq_of_nodup {l : List Nat} (h : l.Nodup) : uniq l = l := by
  induction l with
  | nil => rfl
  | cons a r ih =>
    rw [List.nodup_cons] at h
    simp [uniq, h.1, ih h.2]

theorem pinned_pins {xs : List Xlat} (h : (xs.map fun x => x.dva).Nodup) :
    pinned (countWalks 0 cmd3.f.host [] (pins xs)) 0 = xs.map fun x => x.dva := by
  simp [pinned, countWalks, pins, on, State.reset, tget, step0, uniq_of_nodup h]

theorem pinLimit_pins (n : Nat) : pinLimit (countWalks 0 cmd3.f.host [] (pinsPages n)) 0 = 1088 := by
  show pinLimit on 0 = 1088
  decide +kernel

theorem pinsPages_full {n : Nat} (h : 1088 < n) : pinFits (countWalks 0 cmd3.f.host [] (pinsPages n)) 0 [] = false := by
  have e : ((List.range n).map fun i => { x0 with dva := i }).map (fun x => x.dva) = List.range n := by
    rw [List.map_map]
    exact List.map_id _
  rw [pinFits, pinLimit_pins, pinsPages, pinned_pins (by rw [e]; exact List.nodup_range), e, List.map_nil, List.append_nil,
    uniq_of_nodup List.nodup_range, List.length_range]
  exact decide_eq_false (by omega)

theorem witness_TranslationAtEnqueue :
    (cmd3.again = false ∧ walkRanges (countWalks 0 cmd3.f.host [] ready0) 0 cmd3.f.host [] = .ok [] ∧
      pinFits (countWalks 0 cmd3.f.host [] ready0) 0 [] = true) ∧
    (walkRanges (countWalks 0 cmd3.f.host [] (pinsPages 1089)) 0 cmd3.f.host [] = .ok [] ∧
      pinFits (countWalks 0 cmd3.f.host [] (pinsPages 1089)) 0 [] = false) ∧
    walkRanges (countWalks 0 cmd3.f.host [{ dva := 0, size := 1 }] on) 0 cmd3.f.host [{ dva := 0, size := 1 }] = .miss 3 0 ∧
    walkRanges (countWalks 0 cmd3.f.host [{ dva := 2 ^ 56, size := 1 }] on) 0 cmd3.f.host [{ dva := 2 ^ 56, size := 1 }] =
      .fail .rights (2 ^ 56) ∧
    checkPage ready0 0 pt { dva := 0, size := 64, r := true, w := true, a := true } 0 63 = .ok [x0] ∧
    2 ^ 56 < (2 ^ 56 - 1) + 2 ∧ (tget {} on.tu.vfs 0).ptRoot = 0 ∧ 1 ≠ 2 ∧ reaches plan0 0 0x3BFFFFFF 1 = true :=
  ⟨by decide +kernel, ⟨rfl, pinsPages_full (by decide)⟩, by decide +kernel⟩

/-- Queue 2 as a streaming queue at index 65,535 that has re-read stale tags `n` times. -/
def stream0 (n : Nat) : State :=
  { ready0 with qu := { on.qu with qs := [(2, { program0 with kind := .streaming, head := 65535, tail := 65536, rereads := n })] } }

/-- A NOP whose TAG is stale, and a descriptor with an unassigned opcode. -/
def staleD : Desc := desc 0 1 [(0x3E, 1)]
def unassignedD : Desc := desc 0xFF 1 []

theorem witness_DoorbellsAndTags :
    (∃ t, (stream0 0).bnd.powered = true ∧ fnExists (stream0 0) (.vf 0) = true ∧ barServes (stream0 0) (.vf 0) false = true ∧
      doorbellTail (stream0 0) (.vf 0) 2 (BitVec.ofNat 64 (65551 + 14 * 2 ^ 48)) = some t) ∧
    doorbellTail (stream0 0) (.vf 0) 2 (BitVec.ofNat 64 65552) = none ∧
    (fetchable (stream0 6) 2 = true ∧ streams (queue (stream0 6) 2) = true ∧ (0 : BitVec 16).toNat ≠ (queue (stream0 6) 2).head % 65536 ∧
      (queue (stream0 6) 2).rereads < 7) ∧
    (fetchable (stream0 7) 2 = true ∧ (queue (stream0 7) 2).rereads = 7) ∧
    (fetchable ready0 3 = true ∧ streams (queue ready0 3) = false ∧ dOpcode staleD = 0 ∧
      dTag staleD ≠ (queue ready0 3).head % 65536 ∧ (fetch0 staleD).parity = 0 ∧ ready0.fc.inj.remaining = 0) ∧
    ringHolds (queue ready0 3) staleD ready0 = (true, ready0) :=
  ⟨⟨65551, by decide +kernel⟩, by decide +kernel, by decide +kernel, by decide +kernel, by decide +kernel,
    ringHolds_host _ (by decide +kernel)⟩

/-- Queue 3 as a program of a lost context whose descriptor at HEAD was accepted on an earlier lap. -/
def lapped : State :=
  { ready0 with
    qu := { on.qu with qs := [(3, { program0 with acceptedAt := [(0, [])] })] }
    tu := { ready0.tu with ctxs := [(pkey 16 0 1, .lost)] } }

theorem witness_AcceptanceInOrder :
    (dVersion 0 ≠ 1 ∧ dVersion (desc 0x07 1 []) = 1 ∧ ∀ o ∈ [0x07, 0x3F, 0x49, 0x7F, 0x85, 0xBF, 0xCA],
      0x06 < o ∧ o < 0x40 ∨ 0x48 < o ∧ o < 0x80 ∨ 0x84 < o ∧ o < 0xC0 ∨ 0xC9 < o) ∧
    headCheck ready0 3 program0 poolD = none ∧ headCheck ready0 0x420 (queue ready0 0x420) (desc 0xC4 0xFFFF []) = none ∧
    Accepts ready0 0x41 { toFetch := fetch0 poolD } ∧
    (fetchable ready0 3 = true ∧ dOpcode unassignedD = 0xFF ∧ (fetch0 unassignedD).parity = 0 ∧ ready0.fc.inj.remaining = 0 ∧
      dTag unassignedD = (queue ready0 3).head % 65536 ∧ (queue ready0 3).skip = 0 ∧
      ((queue ready0 3).kind == .intake && dServe unassignedD) = false ∧ (queue ready0 3).stopping = false ∧
      acceptedBefore (queue ready0 3) unassignedD = false ∧ dPatch unassignedD = false ∧ dVersion unassignedD = 1 ∧
      headCheck (advanceHead 3 ready0) 3 (queue ready0 3) (applyPatch (queue ready0 3) unassignedD) = some .badOpcode) ∧
    ringHolds (queue ready0 3) unassignedD ready0 = (true, ready0) ∧
    (fetchable lapped 3 = true ∧ dOpcode poolD = 0x41 ∧ lapped.fc.inj.remaining = 0 ∧
      dTag poolD = (queue lapped 3).head % 65536 ∧ (queue lapped 3).skip = 0 ∧
      ((queue lapped 3).kind == .intake && dServe poolD) = false ∧ (queue lapped 3).stopping = false ∧
      acceptedBefore (queue lapped 3) poolD = true ∧ isLost (advanceHead 3 lapped) (queue lapped 3).part (dCtx poolD) = true) ∧
    ringHolds (queue lapped 3) poolD lapped = (true, lapped) ∧ fetchable on 3 = false :=
  ⟨by decide +kernel, by decide +kernel, by decide +kernel, accepts_of (by decide +kernel), by decide +kernel,
    ringHolds_host _ (by decide +kernel), by decide +kernel, ringHolds_host _ (by decide +kernel), by decide +kernel⟩

/-- Control descriptors. -/
def condD (op : Nat) : Desc := desc 0x01 1 [(0x08, op), (0x0A, 65535)]
def loopD (count : Nat) : Desc := desc 0x02 1 [(0x0C, count), (0x10, 15)]
def loadD : Desc := desc 0x06 1 [(0x08, 15), (0x09, 1), (0x10, 0x3000)]

/-- The LOAD_PARAM of `loadD` as a fetch and as a command. -/
abbrev loadF : Fetch := fetch0 loadD
abbrev loadC (s : State) : Cmd := cmdOf s { toFetch := loadF } 0

/-- What it reads under translations: its bytes and whether a line is poisoned. -/
def loaded (s : State) (xs : List Xlat) : Option (List Byte × Option Nat) :=
  (cpRead 0 xs (dfld loadD 0x10 0 57) (8 * dfld loadD 0x09 0 5) s).1

/-- `ready0` with the line of the table poisoned, or not resident. -/
def poisoned0 : State := { ready0 with coh := { on.coh with lines := [(192, { hstate := .l, poison := true })] } }
def absent0 : State := { ready0 with coh := { on.coh with lines := [] } }

theorem witness_ControlCommands :
    Accepts ready0 0x00 { toFetch := fetch0 (desc 0 1 []) } ∧
    (Accepts ready0 0x01 { toFetch := fetch0 (condD 0) } ∧ condHolds 0 (tget 0 (queue ready0 3).params 0) 0 = true) ∧
    (Accepts ready0 0x01 { toFetch := fetch0 (condD 1) } ∧ condHolds 1 (tget 0 (queue ready0 3).params 0) 0 = false) ∧
    (∀ n ∈ [0, 1, 2], Accepts ready0 0x02 { toFetch := fetch0 (loopD n) } ∧ dfld (loopD n) 0x0C 0 32 = n) ∧
    Accepts ready0 0x03 { toFetch := fetch0 (desc 0x03 1 [(0x10, 15)]) } ∧
    (∃ (f : Fetch) (s : State), waitsAtHead f s = true) ∧
    (∃ f : Fetch, Accepts (stream0 0) 0x04 { toFetch := f } ∧ waitsAtHead f (stream0 0) = false ∧ dfld f.raw 0x0C 0 20 = 7 ∧
      7 < hQuota plan0 0 3 ∧ (syncObj (stream0 0) 0 7).state = .live) ∧
    (∃ f : Fetch, Accepts ready0 0x05 { toFetch := f } ∧ dfld f.raw 0x0C 0 20 = 7 ∧ (syncObj ready0 0 7).state = .live) ∧
    (∀ s ∈ [ready0, poisoned0], Accepts s 0x06 { toFetch := loadF } ∧ waitsAtHead loadF s = false ∧ s.cu.open_ = none ∧
      bringIn (cpNeeds (loadC s) s) s = (true, s)) ∧
    (Accepts absent0 0x06 { toFetch := loadF } ∧ waitsAtHead loadF absent0 = false ∧ absent0.cu.open_ = none ∧
      ∃ s1, bringIn (cpNeeds (loadC absent0) absent0) absent0 = (false, s1)) ∧
    (∃ xs s1, Translates (loadC ready0) 0 (rangesOf 0x06 loadD) [] (advanceHead 3 ready0) xs s1 ∧
      loaded s1 xs = some ([0, 0, 0, 0, 0, 0, 0, 0], none)) ∧
    (∃ xs s1, Translates (loadC poisoned0) 0 (rangesOf 0x06 loadD) [] (advanceHead 3 poisoned0) xs s1 ∧
      (loaded s1 xs).any (fun r => r.2.isSome) = true) ∧
    loaded ready0 [] = none := by
  refine ⟨accepts_of (by decide +kernel), ⟨accepts_of (by decide +kernel), by decide +kernel⟩,
    ⟨accepts_of (by decide +kernel), by decide +kernel⟩, ?_, accepts_of (by decide +kernel),
    ⟨fetch0 loadD, { ready0 with steps := [{ step0 with queue := 3 }] }, by decide +kernel⟩,
    ⟨{ queue := 2, raw := desc 0x04 1 [(0x0C, 7), (0x3E, 65535)] }, accepts_of (by decide +kernel), by decide +kernel⟩,
    ⟨fetch0 (desc 0x05 1 [(0x0C, 7)]), accepts_of (by decide +kernel), by decide +kernel⟩, ?_,
    ⟨accepts_of (by decide +kernel), by decide +kernel, rfl, _, pair_of (by decide +kernel)⟩,
    ⟨_, _, translates_of (xs := [x0]) rfl (by decide +kernel) (by decide +kernel), by decide +kernel⟩,
    ⟨_, _, translates_of (xs := [x0]) rfl (by decide +kernel) (by decide +kernel), by decide +kernel⟩, by decide +kernel⟩
  · intro n h
    fin_cases h <;> exact ⟨accepts_of (by decide +kernel), by decide +kernel⟩
  · intro s h
    fin_cases h <;> exact ⟨accepts_of (by decide +kernel), by decide +kernel, rfl, bringIn_of (by decide +kernel)⟩

theorem witness_WorkJoinsItsQueue :
    (∀ p ∈ [(0x41, poolD, 2), (0x42, pqD, 2), (0x43, updateD, 2), (0x45, prefetchD, 1), (0x46, adviseD, 1), (0x84, ckptD, 1),
        (0x47, gatherD, 2), (0x48, digestD 2, 3)],
      Accepts ready0 p.1 { toFetch := fetch0 p.2.1 } ∧ waitsAtHead (fetch0 p.2.1) ready0 = false ∧
      ∃ s1, Translates (cmdOf ready0 { toFetch := fetch0 p.2.1 } 0) 0 (rangesOf p.1 p.2.1) [] (advanceHead 3 ready0)
          (dedupX (List.replicate p.2.2 x0)) s1 ∧
        jobIn s1 0 p.1 p.2.1 .aborted = false ∧ (p.1 = 0x48 → digestOk s1 0 p.2.1 = true)) ∧
    (Accepts ready0 0x48 { toFetch := fetch0 (digestD 0) } ∧ digestOk ready0 0 (digestD 0) = false) ∧
    (Accepts ready0 0x44 { toFetch := fetch0 (copyD 0 0x1000) } ∧ copyRanges (copyD 0 0x1000) ≠ [] ∧
      ∃ xs s1, Translates (cmdOf ready0 { toFetch := fetch0 (copyD 0 0x1000) } 0) 0 (copyRanges (copyD 0 0x1000))
        (hostRangeOf (copyD 0 0x1000)) (advanceHead 3 ready0) xs s1) ∧
    (Accepts ready0 0x44 { toFetch := fetch0 (copyD (2 ^ 56) (2 ^ 56)) } ∧ copyRanges (copyD (2 ^ 56) (2 ^ 56)) = []) ∧
    (∃ (f : TileFetch) (xs ys : List Xlat) (es : List (Nat × Nat × Nat)) (s1 s2 s3 : State),
      Accepts ready0 0x40 { toFetch := f.toFetch } ∧ ready0.cu.open_ = none ∧
      bringIn (cpNeeds (cmdOf ready0 { toFetch := f.toFetch } f.kernelLen) ready0) ready0 = (true, ready0) ∧
      Translates (cmdOf ready0 { toFetch := f.toFetch } f.kernelLen) 0 (rangesOf 0x40 f.raw) [] (advanceHead 3 ready0) xs s1 ∧
      readTable 0 xs f.raw s1 = (.ok es, s2) ∧
      Translates (cmdOf ready0 { toFetch := f.toFetch } f.kernelLen) 0
        (rangesOf 0x40 f.raw ++ kernelRng f.raw f.kernelLen :: es.map entryRng) [] s2 ys s3) ∧
    (Accepts absent0 0x40 { toFetch := fetch0 tileD } ∧ absent0.cu.open_ = none ∧
      ∃ s1, bringIn (cpNeeds (cmdOf absent0 { toFetch := fetch0 tileD } 64) absent0) absent0 = (false, s1)) := by
  refine ⟨?_, ⟨accepts_of (by decide +kernel), by decide +kernel⟩,
    ⟨accepts_of (by decide +kernel), by decide +kernel, ?_⟩, ⟨accepts_of (by decide +kernel), by decide +kernel⟩, ?_,
    ⟨accepts_of (by decide +kernel), rfl, _, pair_of (by decide +kernel)⟩⟩
  · intro p h
    fin_cases h
    all_goals exact ⟨accepts_of (by decide +kernel), by decide +kernel, _,
      translates_of rfl (by decide +kernel) (by decide +kernel), by decide +kernel, by decide +kernel⟩
  · rw [show hostRangeOf (copyD 0 0x1000) = [] by decide +kernel]
    exact ⟨_, _, translates_of (xs := [x0, x0]) rfl (by decide +kernel) (by decide +kernel)⟩
  · refine ⟨{ toFetch := fetch0 tileD, kernelLen := 64 }, _, _, [(0, 64, 4)], _, _, _, accepts_of (by decide +kernel), rfl,
      bringIn_of (by decide +kernel), translates_of (xs := [x0]) rfl (by decide +kernel) (by decide +kernel), pair_of ?_,
      translates_of (xs := [x0, x0, x0]) rfl (by decide +kernel) (by decide +kernel)⟩
    decide +kernel

theorem witness_ObjectCommands :
    (∃ f : Fetch, Accepts ready0 0x80 { toFetch := f } ∧ dfld f.raw 0x10 0 57 + dfld f.raw 0x18 0 64 = 2 ^ 56 ∧
      dfld f.raw 0x0C 0 20 = 15 ∧ 15 ≠ 0 ∧ 15 < (vfTu ready0 0).objCount ∧ (memObj ready0 0 15).state = .free ∧
      objOverlap ready0 0 (dfld f.raw 0x10 0 57) (dfld f.raw 0x18 0 64) = false) ∧
    (∃ f : Fetch, Accepts ready0 0x80 { toFetch := f } ∧ dfld f.raw 0x10 0 57 + dfld f.raw 0x18 0 64 ≤ 2 ^ 56 ∧
      dfld f.raw 0x0C 0 20 = 1 ∧ (memObj ready0 0 1).state ≠ .free) ∧
    (∃ f : Fetch, Accepts ready0 0x81 { toFetch := f } ∧ dfld f.raw 0x0C 0 20 = 1 ∧ (memObj ready0 0 1).state = .live ∧
      (memObj ready0 0 1).mapped = true) ∧
    (∃ f : Fetch, Accepts ready0 0x81 { toFetch := f } ∧ dfld f.raw 0x0C 0 20 = 2 ∧ (memObj ready0 0 2).state = .free) ∧
    (∃ f : Fetch, Accepts ready0 0x82 { toFetch := f } ∧ dfld f.raw 0x08 1 1 = 0 ∧ dfld f.raw 0x08 0 1 = 0 ∧
      dfld f.raw 0x0C 0 20 = 1 ∧ (memObj ready0 0 1).state = .live) ∧
    (∃ (s : State) (f : Fetch) (xs : List Xlat), Accepts s 0x82 { toFetch := f } ∧ dfld f.raw 0x08 1 1 = 1 ∧
      syncArea (advanceHead f.queue s) 0 f.host = some xs ∧ dfld f.raw 0x0C 0 20 = 0 ∧ 0 < hQuota s.ps.active 0 3 ∧
      (syncObj s 0 0).state = .free) ∧
    (∀ j ∈ [7, 8], ∃ f : Fetch, Accepts ready0 0x82 { toFetch := f } ∧ dfld f.raw 0x08 1 1 = 0 ∧ dfld f.raw 0x08 0 1 = 1 ∧
      dfld f.raw 0x0C 0 20 = j) ∧ (syncObj ready0 0 7).state = .live ∧ (syncObj ready0 0 8).state ≠ .live ∧
    (∃ f : Fetch, Accepts ready0 0x83 { toFetch := f } ∧ dfld f.raw 0x08 0 1 = 1 ∧ dfld f.raw 0x0C 0 20 = 7) ∧
    (∃ f : Fetch, Accepts ready0 0x83 { toFetch := f } ∧ dfld f.raw 0x08 0 1 = 0 ∧ dfld f.raw 0x0C 0 20 = 1 ∧
      (memObj ready0 0 1).state = .live) ∧
    (∃ f : Fetch, Accepts ready0 0x83 { toFetch := f } ∧ dfld f.raw 0x08 0 1 = 0 ∧ dfld f.raw 0x0C 0 20 = 2 ∧
      (memObj ready0 0 2).state ≠ .live) ∧
    (∃ p : MemObj, p.hostRefs = 0 ∧ p.devRefs = 0) ∧ (∃ p : MemObj, p.hostRefs = 0 ∧ p.devRefs ≠ 0) := by
  refine ⟨⟨fetch0 (desc 0x80 1 [(0x0C, 15), (0x10, 2 ^ 56 - 2 ^ 25), (0x18, 2 ^ 25)]), accepts_of (by decide +kernel),
      by decide +kernel⟩,
    ⟨fetch0 (desc 0x80 1 [(0x0C, 1), (0x18, 2 ^ 25)]), accepts_of (by decide +kernel), by decide +kernel⟩,
    ⟨fetch0 (desc 0x81 1 [(0x0C, 1)]), accepts_of (by decide +kernel), by decide +kernel⟩,
    ⟨fetch0 (desc 0x81 1 [(0x0C, 2)]), accepts_of (by decide +kernel), by decide +kernel⟩,
    ⟨fetch0 (desc 0x82 1 [(0x0C, 1)]), accepts_of (by decide +kernel), by decide +kernel⟩,
    ⟨ready0, { fetch0 (desc 0x82 1 [(0x08, 3)]) with host := [(0x800, 2 ^ 63 + 0x1000), (0x1000, 2 ^ 63 + 0x2000),
        (0x2000, 2 ^ 63 + 2 ^ 62 + 2 ^ 61 + 2 ^ 48 + 2 ^ 28)] }, [{ x0 with w := false, a := false }],
      accepts_of (by decide +kernel), by decide +kernel⟩,
    fun j h => ⟨fetch0 (desc 0x82 1 [(0x08, 1), (0x0C, j)]), by fin_cases h <;> exact accepts_of (by decide +kernel),
      by fin_cases h <;> decide +kernel⟩, by decide +kernel, by decide +kernel,
    ⟨fetch0 (desc 0x83 1 [(0x08, 1), (0x0C, 7)]), accepts_of (by decide +kernel), by decide +kernel⟩,
    ⟨fetch0 (desc 0x83 1 [(0x0C, 1)]), accepts_of (by decide +kernel), by decide +kernel⟩,
    ⟨fetch0 (desc 0x83 1 [(0x0C, 2)]), accepts_of (by decide +kernel), by decide +kernel⟩, ⟨{}, rfl, rfl⟩,
    ⟨{ devRefs := 1 }, rfl, by decide⟩⟩

/-- A CREATE_QUEUE of queue 9, of a kind and class, in partition 0 with context 1, its ring in the host window. -/
def createD (kind cls : Nat) : Desc :=
  desc 0xC0 0xFFFF [(0x08, kind * 64 + cls), (0x09, 1), (0x0A, 9), (0x0C, 1), (0x0E, 4), (0x0F, 4), (0x10, 2 ^ 56),
    (0x18, 2 ^ 56), (0x28, 1)]

theorem ok_of {ε α : Type} {e : Except ε α} (h : (match e with | .ok _ => true | .error _ => false) = true) : ∃ a, e = .ok a := by
  cases e with
  | ok a => exact ⟨a, rfl⟩
  | error _ => cases h

theorem error_of {α : Type} {e : Except Nat α} {n : Nat} (h : (match e with | .ok _ => none | .error k => some k) = some n) :
    e = .error n := by
  cases e with
  | ok _ => cases h
  | error _ => cases h; rfl

/-- The state of the CREATE_QUEUE witnesses: the intake area and batch area of partition 0 are set. -/
def creating : State := { ready0 with rie := { ready0.rie with batchBase := [(0, 0x200000)] } }

/-- A CREATE_QUEUE fetched with its ring. -/
def createF (kind cls : Nat) (ring : List Desc) : CreateFetch := { toFetch := fetchA (createD kind cls), ring := ring }

/-- A ring that serves step 0 of class 0 with a PREFETCH. -/
def serving : List Desc := [desc 0x45 1 [(0x06, 16), (0x18, 64)]]

/-- The command of a fetch, and the state after its check 11. -/
abbrev createC (f : CreateFetch) : Cmd := cmdOf creating f 0
def checked (f : CreateFetch) : State :=
  (hostAll 0 0xFFFF (createHosts f.raw) f.ats (countWalks 0 f.host [] (advanceHead 0x420 creating))).2

theorem translates_create {f : CreateFetch} (hc : dCtx f.raw = 0xFFFF) (h1 : createRanges f.raw = [])
    (h2 : (hostAll 0 0xFFFF (createHosts f.raw) f.ats (countWalks 0 f.host [] (advanceHead 0x420 creating))).1 = .ok)
    (h3 : pinFits (checked f) 0 [] = true) :
    Translates (createC f) 0 (createRanges f.raw) (createHosts f.raw) (advanceHead 0x420 creating) [] (checked f) := by
  intro k
  have e : hostAll 0 (createC f).ref.ctx (createHosts f.raw) (createC f).f.ats
      (countWalks 0 (createC f).f.host [] (advanceHead 0x420 creating)) = (.ok, checked f) := by
    show hostAll 0 (dCtx f.raw) (createHosts f.raw) f.ats _ = _
    rw [hc]; exact Prod.ext h2 rfl
  rw [h1]
  simp only [check11, show (createC f).again = false from rfl, Bool.false_eq_true, if_false, if_true, walkRanges, e, h3, dedupX]

/-- The hypotheses of QueuesAreCreated up to the checkpoint record. -/
def Creates (f : CreateFetch) : Prop :=
  Accepts creating 0xC0 f ∧ bringIn (createNeeds (createC f) creating) creating = (true, creating) ∧
    Translates (createC f) 0 (createRanges f.raw) (createHosts f.raw) (advanceHead 0x420 creating) [] (checked f)

/-- The queue that `createF` describes. -/
abbrev made (kind : Nat) (ring : List Desc) : Queue :=
  newQueue 0 (createD kind 0) [] none (checked (createF kind 0 ring))

/-- A CREATE_QUEUE whose ring lies in the device window. -/
def createDevD : Desc :=
  desc 0xC0 0xFFFF [(0x08, 1 * 64 + 1), (0x09, 1), (0x0A, 9), (0x0C, 1), (0x0E, 4), (0x0F, 4), (0x10, 0x3000), (0x18, 2 ^ 56),
    (0x28, 1)]

/-- `ready0` with the lines of that ring on their way from memory. -/
def ringIn : State :=
  { ready0 with
    coh := { on.coh with lines := (List.range 16).map fun i => (192 + i, { trans := some { kind := .f, item := { kind := .ncRead } } }) } }

theorem witness_QueuesAreCreated :
    (∀ f ∈ [createF 1 0 [], createF 1 1 [], createF 2 0 [], createF 2 0 serving], Creates f ∧
      ckptOf 0 [] (createC f) (checked f) = (.ok none, checked f)) ∧
    (∃ (f : CreateFetch) (s1 : State), Accepts ringIn 0xC0 f ∧
      bringIn (createNeeds (cmdOf ringIn f 0) ringIn) ringIn = (false, s1)) ∧
    (∃ st, (ckptOf 0 [] { createC (createF 1 1 []) with raw := desc 0xC0 0xFFFF [(0x20, 2 ^ 56)] } creating).1 = .error st) ∧
    createOk (checked (createF 1 0 [])) 0 (createD 1 0) none = false ∧
    (createOk (checked (createF 1 1 [])) 0 (createD 1 1) none = true ∧ dfld (createD 1 1) 0x08 6 2 < 2) ∧
    (createOk (checked (createF 2 0 [])) 0 (createD 2 0) none = true ∧ dfld (createD 2 0) 0x08 6 2 = 2 ∧
      ctxState (checked (createF 2 0 [])) 0 1 = .live) ∧
    (∃ ds p, ringOf 0 [] (createC (createF 2 0 [])) (checked (createF 2 0 [])) = (.ok ds, checked (createF 2 0 [])) ∧
      takeTemplates (createC (createF 2 0 [])) 0 (made 2 []) ds (checked (createF 2 0 [])) = .error p) ∧
    (∃ ds ts, ringOf 0 [] (createC (createF 2 0 serving)) (checked (createF 2 0 serving)) =
        (.ok ds, checked (createF 2 0 serving)) ∧
      takeTemplates (createC (createF 2 0 serving)) 0 (made 2 serving) ds (checked (createF 2 0 serving)) = .ok ts) ∧
    (∃ st, (ringOf 0 [] { createC (createF 1 1 []) with raw := createDevD } creating).1 = .error st) ∧
    (∃ r : Nat, (ckptOf 0 [] { createC { createF 1 1 [] with ckpt := some 1 } with raw := desc 0xC0 0xFFFF [(0x20, 2 ^ 56)] }
      creating).1 = .ok (some r)) := by
  refine ⟨?_, ⟨{ toFetch := fetchA createDevD }, _, accepts_of (by decide +kernel), pair_of (by decide +kernel)⟩,
    ⟨.rights, by decide +kernel⟩, by decide +kernel, by decide +kernel, by decide +kernel,
    ⟨List.replicate 16 0, 0, pair_of (by decide +kernel), error_of (by decide +kernel)⟩,
    ⟨serving ++ List.replicate 15 0, ?_⟩, ⟨.rights, by decide +kernel⟩, ?_⟩
  · intro f h
    fin_cases h <;>
      exact ⟨⟨accepts_of (by decide +kernel), bringIn_of (by decide +kernel), translates_create (by decide +kernel)
        (by decide +kernel) (by decide +kernel) (by decide +kernel)⟩, pair_of (by decide +kernel)⟩
  · obtain ⟨ts, e⟩ := ok_of (e := takeTemplates (createC (createF 2 0 serving)) 0 (made 2 serving)
      (serving ++ List.replicate 15 0) (checked (createF 2 0 serving))) (by decide +kernel)
    exact ⟨ts, pair_of (by decide +kernel), e⟩
  · exact ⟨1, by decide +kernel⟩

/-- An administration command in the physical function's queue. -/
def adm (op : Nat) (fs : List (Nat × Nat)) : Fetch := fetchA (desc op 0xFFFF fs)

/-- `ready0` with key ID 127 in a state. -/
def keyed (k : KeyState) : State := { ready0 with mi := { ready0.mi with keys := [(127, { state := k })] } }

theorem witness_AdministrationCommands :
    (Accepts ready0 0xC1 { toFetch := adm 0xC1 [(0x0A, 3)] } ∧ (queue (advanceHead 0x420 ready0) 3).live = true ∧
      (queue (advanceHead 0x420 ready0) 3).state ≠ .destroying ∧ (queue (advanceHead 0x420 ready0) 3).part = 0) ∧
    (Accepts ready0 0xC1 { toFetch := adm 0xC1 [(0x0A, 1023)] } ∧ (queue (advanceHead 0x420 ready0) 1023).live = false) ∧
    (Accepts ready0 0xC2 { toFetch := adm 0xC2 [(0x0C, 1)] } ∧ ctxState (advanceHead 0x420 ready0) 0 1 ≠ .unused) ∧
    (Accepts ready0 0xC2 { toFetch := adm 0xC2 [(0x0C, 2)] } ∧ ctxState (advanceHead 0x420 ready0) 0 2 = .unused) ∧
    Accepts ready0 0xC3 { toFetch := adm 0xC3 [(0x0C, 1)] } ∧ Accepts ready0 0xC3 { toFetch := adm 0xC3 [(0x0C, 2)] } ∧
    (Accepts ready0 0xC4 { toFetch := adm 0xC4 [(0x0C, 319)] } ∧ ready0.rc.replay = none) ∧
    (∃ s p, Accepts s 0xC4 { toFetch := adm 0xC4 [(0x0C, 319)] } ∧ s.rc.replay = some p ∧ p.engine = 319) ∧
    Accepts ready0 0xC5 { toFetch := adm 0xC5 [(0x2C, 31)] } ∧ Accepts ready0 0xC6 { toFetch := adm 0xC6 [(0x08, 3)] } ∧
    (∀ k ∈ [KeyState.dirty, .flushed, .clean], Accepts (keyed k) 0xC7 { toFetch := adm 0xC7 [(0x08, 127)] } ∧
      Accepts (keyed k) 0xC8 { toFetch := adm 0xC8 [(0x08, 127)] } ∧ (keyRec (keyed k) 127).state = k) ∧
    (Accepts ready0 0xC9 { toFetch := adm 0xC9 [] } ∧ tget 0 ready0.rc.dumpBase 0 = 0) ∧
    (∃ s, Accepts s 0xC9 { toFetch := adm 0xC9 [] } ∧ tget 0 s.rc.dumpBase 0 ≠ 0) := by
  refine ⟨⟨accepts_of (by decide +kernel), by decide +kernel⟩, ⟨accepts_of (by decide +kernel), by decide +kernel⟩,
    ⟨accepts_of (by decide +kernel), by decide +kernel⟩, ⟨accepts_of (by decide +kernel), by decide +kernel⟩,
    accepts_of (by decide +kernel), accepts_of (by decide +kernel), ⟨accepts_of (by decide +kernel), rfl⟩,
    ⟨{ ready0 with rc := { on.rc with replay := some { engine := 319, todo := [] } } },
      _, accepts_of (by decide +kernel), rfl, rfl⟩,
    accepts_of (by decide +kernel), accepts_of (by decide +kernel), ?_, ⟨accepts_of (by decide +kernel), rfl⟩,
    ⟨{ ready0 with rc := { on.rc with dumpBase := [(0, 4096)] } }, accepts_of (by decide +kernel), by decide⟩⟩
  intro k h
  fin_cases h <;> exact ⟨accepts_of (by decide +kernel), accepts_of (by decide +kernel), by decide +kernel⟩

/-- A completion record. -/
def rec0 : CRec :=
  { status := .ok, opcode := 0, replay := false, summary := false, skipped := false, range := false, phase := true, ctx := 1,
    queue := 3, index := 0, tick := 5, detail := 0, irq := false }

/-- `ready0` with records in the overflow area and written records of queue 3. -/
def recorded (full written : List CRec) : State :=
  { ready0 with qu := { on.qu with qs := [(3, { program0 with overflow := full, written := written, records := 1 })] } }

theorem witness_CompletionRings :
    (∃ (c : CmdRef) (x : Queue), on.cu.halted = false ∧ x = queue on c.queue ∧ x.overflow = [] ∧ c.cmpl = true) ∧
    (∃ c : CmdRef, c.cmpl = false) ∧
    ((queue (recorded [] [rec0]) 3).live = true ∧ 3 < 1024 ∧ (queue (recorded [] [rec0]) 3).written = [rec0] ∧
      (queue (recorded [] [rec0]) 3).overflow = []) ∧
    ((recorded [rec0] []).bnd.ready = true ∧ (queue (recorded [rec0] []) 3).live = true ∧
      (queue (recorded [rec0] []) 3).state ≠ .destroying ∧ (recorded [rec0] []).cu.halted = false ∧
      (queue (recorded [rec0] []) 3).overflow = [rec0]) ∧
    ((queue (recorded (List.replicate 4 rec0) [rec0]) 3).live = true ∧
      (queue (recorded (List.replicate 4 rec0) [rec0]) 3).written = [rec0] ∧
      (queue (recorded (List.replicate 4 rec0) [rec0]) 3).overflow.length = 4 ∧
      (queue (recorded (List.replicate 4 rec0) [rec0]) 3).owner ≠ 0xFFFF) ∧
    (queue on 3).overflow = [] ∧
    (fnReady ready0 (.vf 0) = true ∧ barServes ready0 (.vf 0) false = true ∧ showsQueue ready0 (.vf 0) 3 = true) ∧
    (fnReady on .pf = true ∧ barServes on .pf false = true ∧ (admOf on .pf).enable = false) ∧
    (fnReady on (.vf 31) = true ∧ barServes on (.vf 31) false = true ∧ (admOf on (.vf 31)).enable = false) ∧
    (∃ s, (admOf s .pf).enable = true) :=
  ⟨⟨cmd0, _, rfl, rfl, by decide +kernel, rfl⟩, ⟨{ cmd0 with cmpl := false }, rfl⟩, by decide +kernel, by decide +kernel,
    by decide +kernel, by decide +kernel, by decide +kernel, by decide +kernel, by decide +kernel,
    ⟨{ on with qu := { on.qu with adm := [(32, { enable := true })] } }, by decide +kernel⟩⟩

/-- A held miss with a SEQ. -/
def miss0 (seq : Nat) : Held :=
  { seq := seq, part := 0, index := 0, opcode := 0x41, raw := poolD, fetch := { toFetch := fetch0 poolD }, extra := 0, dva := 0 }

/-- `ready0` with that miss held by queue 3. -/
def missing (seq : Nat) : State := { ready0 with qu := { on.qu with qs := [(3, { program0 with miss := some (miss0 seq) })] } }

/-- An event record. -/
def ev0 : EvRec := { reclaim := true, level := 0, queue := 0, ctx := 1, seq := 1, dva := 0, obj := 1 }

/-- `on` whose event ring is full and has a waiting record. -/
def fullRing : State := { on with tu := { on.tu with vfs := [(0, { evqTail := 64, waiting := [ev0] })] } }

/-- A COPY step of queue 3 that waits for its Translation Completion, and `on` with it. -/
def waitCopy : Step := { step0 with queue := 3, opcode := 0x44, raw := copyD (2 ^ 56) 0, atsWait := true }
def copying : State := { on with steps := [waitCopy] }

theorem witness_AnswersAndInvalidations :
    (vfReady (missing 1) 0 = true ∧ barServes (missing 1) (.vf 0) false = true ∧
      missOf (missing 1) 0 1 = some (3, miss0 1)) ∧
    (vfReady on 0 = true ∧ barServes on (.vf 0) false = true ∧ missOf on 0 1 = none ∧ (vfTu on 0).waiting = []) ∧
    (vfReady fullRing 0 = true ∧ barServes fullRing (.vf 0) false = true ∧ (vfTu fullRing 0).waiting = [ev0] ∧ evqFull (vfTu fullRing 0) = true ∧
      evqFull { vfTu fullRing 0 with evqHead := (1#64).toNat % 2 ^ 17 } = false) ∧
    ((queue (missing 0) 3).miss = some (miss0 0) ∧ (miss0 0).seq = 0) ∧
    ((queue copying 3).miss = none ∧
      copying.steps.find? (fun t => t.queue == 3 && t.atsWait && t.phase == .running) = some waitCopy) ∧
    on.bnd.powered = true ∧
    (∃ s : State, (Fn.vf 0, 0, 4096) ∈ s.tu.invalidating ∧ hostInFlight s (.vf 0) 0 4096 = false) ∧
    (∃ s : State, (Fn.vf 0, 0, 4096) ∈ s.tu.invalidating ∧ hostInFlight s (.vf 0) 0 4096 = true) :=
  ⟨by decide +kernel, by decide +kernel, by decide +kernel, by decide +kernel, by decide +kernel, rfl,
    ⟨{ on with tu := { on.tu with invalidating := [(.vf 0, 0, 4096)] } }, List.mem_singleton.2 rfl, by decide +kernel⟩,
    ⟨{ on with tu := { on.tu with invalidating := [(.vf 0, 0, 4096)] },
               steps := [{ step0 with opcode := 0x44, raw := copyD (2 ^ 56) 0 }] }, List.mem_singleton.2 rfl, by decide +kernel⟩⟩

/-! ### Network -/

/-- `ready0` as chip 1 with Foanaosh enabled, the time base locked, and peer 0 in a state. -/
def netOn (st : PeerState) : State :=
  { ready0 with
    tb := { ready0.tb with locked := true }
    nu := { on.nu with enable := true, chipId := 1, peers := [(0, { enable := true, state := st, version := 1, heard := 1 })] } }

/-- `netOn` with the peer UP and job slot 0 in a state; its member list, read at a DVA, is chip 0 alone. -/
def jobFrom (dva : Nat) (st : JobState) (l : List Member) : State :=
  { netOn .up with nu := { (netOn .up).nu with
      jobs := [(0, { id := 1, gen := 1, members := dva, count := 1, state := st, list := l, abortAt := 5 })] } }
abbrev jobOn : JobState → List Member → State := jobFrom 0x3000

/-- The head of a message of chip 0 to partition 0 under its present role epoch. -/
def foa0 : FoaHead :=
  { version := 1, rsv := false, srcChip := 0, dstChip := 1, srcPart := 0, dstPart := 0, roleEpoch := 7, srcEpoch := 0, jobId := 1,
    jobGen := 1 }

/-- A message as it arrives. -/
def dgram (h : FoaHead) (b : FoaMsg) : Datagram := { port := 0, addr := 0, udp := 0, dst := 0, bytes := foaBytes h b }

theorem hears_of {s : State} {m : Datagram} {h : FoaHead} {b : FoaMsg}
    (e : live s = true ∧ s.nu.enable = true ∧ m.dst = s.nu.udpPort ∧ foaParse m.bytes = some (h, b) ∧
      h.dstChip = s.nu.chipId ∧ m.parity = 0 ∧ s.fc.inj.remaining = 0) : Hears s m h b :=
  ⟨e.1, e.2.1, e.2.2.1, e.2.2.2.1, e.2.2.2.2.1, e.2.2.2.2.2.1, e.2.2.2.2.2.2⟩

theorem witness_PeersAgreeOrAreLost :
    (on.bnd.powered = true ∧ on.bnd.stage = .ready ∧ 7 < 8 ∧ (port on 7).enable = true ∧ (port on 7).linkUp = false) ∧
    (∃ s : State, s.bnd.powered = true ∧ (port s 7).linkUp = true) ∧
    (live on = true ∧ 4095 < 4096 ∧ (0xFFFFFFFF : Word).getLsbD 31 = true ∧ (peer on 4095).enable = false ∧
      (0 : Word).getLsbD 31 = false ∧ fld (0 : Word).toNat 24 3 = (peer on 4095).port) ∧
    ((peer (netOn .up) 0).enable = true ∧ fld (0xFFFFFFFF : Word).toNat 24 3 ≠ (peer (netOn .up) 0).port) ∧
    (foa0.rsv = false ∧ (peer (netOn .negotiating) foa0.srcChip).enable = true ∧
      (peer (netOn .negotiating) foa0.srcChip).state = .negotiating) ∧
    (∀ r ∈ [(1, 1), (0, 15), (2, 3), (0, 0)],
      Hears (netOn .negotiating) (dgram foa0 (.hello r.1 r.2)) foa0 (.hello r.1 r.2) ∧
      Hears (netOn .negotiating) (dgram foa0 (.helloAck r.1 r.2 1)) foa0 (.helloAck r.1 r.2 1)) ∧
    (Hears (netOn .up) (dgram foa0 (.heartbeat 6 true true)) foa0 (.heartbeat 6 true true) ∧
      foa0.version ≤ (peer (netOn .up) foa0.srcChip).version) ∧
    (∃ s : State, live s = true ∧ (peer s 0).state = .up ∧ (peer s 0).heard + 4 < s.tb.tick ∧ s.tb.tick = 6) ∧
    (netOn .up).tb.tick ≤ (peer (netOn .up) 0).heard + 4 := by
  refine ⟨by decide +kernel, ⟨{ on with nu := { on.nu with ports := [(7, { linkUp := true })] } }, rfl, rfl⟩, by decide +kernel,
    by decide +kernel, by decide +kernel, ?_, ⟨hears_of (by decide +kernel), by decide +kernel⟩,
    ⟨{ netOn .up with tb := { on.tb with tick := 6 } }, rfl, rfl, by decide, rfl⟩, by decide +kernel⟩
  intro r h
  fin_cases h <;> exact ⟨hears_of (by decide +kernel), hears_of (by decide +kernel)⟩

/-- A gather request of two rows of export 0 in the present frame. -/
def gather0 : GatherBody :=
  { tag := 3, op := 0, exportNo := 0, dim := 16, execTick := 5, index := [0, 1], weight := [], rsv := false }

/-- The export that serves it. -/
def export0 : ExportEnt :=
  { valid := true, job := 0, cls := 0, fmt := 0, dim := 16, pitch := 64, base := 0x1000, rows := 2, xlats := [x0] }

/-- The state that serves it. -/
def gatherOn : State :=
  { jobOn .active [⟨0, 0, 0⟩] with nu := { (jobOn .active [⟨0, 0, 0⟩]).nu with vfs := [(0, { exports := [export0] })] } }

/-- The same in slot 14, the last that could serve is past. -/
def gatherLate : State := { gatherOn with tb := { gatherOn.tb with slot := 14 } }

/-- The request with a header and a body arrives, which the body's own reserved bit does not take part in. -/
def Asks (s : State) (h : FoaHead) (b : GatherBody) : Prop := Hears s (dgram h (.gatherReq b)) h (.gatherReq b)

theorem asks_of {s : State} {h : FoaHead} {b : GatherBody}
    (e : live s = true ∧ s.nu.enable = true ∧ 0 = s.nu.udpPort ∧ foaParse (foaBytes h (.gatherReq b)) = some (h, .gatherReq b) ∧
      h.dstChip = s.nu.chipId ∧ 0 = 0 ∧ s.fc.inj.remaining = 0) : Asks s h b := hears_of e

/-- `gather0` with the reserved bits of byte 4 set, as bytes. -/
def oddGather : Datagram :=
  { dgram foa0 (.gatherReq gather0) with bytes := (foaBytes foa0 (.gatherReq gather0)).set 36 1 }

/-- `foa0` with the reserved bits of byte 0 set, as bytes. -/
def oddHead : Datagram :=
  { dgram foa0 (.gatherReq gather0) with bytes := (foaBytes foa0 (.gatherReq gather0)).set 0 0x11 }

/-- The hypotheses of Gathers: the clauses of gathers are served. -/
theorem witness_GathersAreServed :
    (Asks (netOn .negotiating) foa0 gather0 ∧ (peer (netOn .negotiating) 0).state ≠ .up) ∧
    (Asks gatherOn { foa0 with version := 2 } gather0 ∧ (peer gatherOn 0).state = .up ∧ (peer gatherOn 0).version < 2) ∧
    ((peer gatherOn 0).state = .up ∧ foa0.version ≤ (peer gatherOn 0).version ∧ foa0.rsv = false ∧ gather0.rsv = false) ∧
    Hears gatherOn oddGather foa0 (.gatherReq { gather0 with rsv := true }) ∧
    Hears gatherOn oddHead { foa0 with rsv := true } (.gatherReq gather0) ∧
    (Asks gatherOn { foa0 with dstPart := 1 } gather0 ∧ hasHand gatherOn.ps.active 1 = false) ∧
    (Asks gatherOn { foa0 with roleEpoch := 6 } gather0 ∧ 6 ≠ tget 0 gatherOn.ps.epochs 0) ∧
    (Asks gatherOn { foa0 with jobId := 2 } gather0 ∧ hasHand gatherOn.ps.active 0 = true ∧
      foa0.roleEpoch = tget 0 gatherOn.ps.epochs 0 ∧ activeSlot gatherOn 0 2 1 = none) ∧
    (Asks gatherOn { foa0 with srcPart := 1 } gather0 ∧ activeSlot gatherOn 0 1 1 = some 0 ∧
      memberIndex (tget {} gatherOn.nu.jobs (pkey 5 0 0)) 0 1 = none) ∧
    (Asks gatherOn foa0 { gather0 with execTick := 6 } ∧ 6 ≠ gatherOn.tb.tick ∧
      memberIndex (tget {} gatherOn.nu.jobs (pkey 5 0 0)) 0 0 = some 0) ∧
    (Asks gatherOn foa0 { gather0 with exportNo := 1 } ∧ gatherOn.tb.locked = true ∧ 5 = gatherOn.tb.tick ∧
      exportOf gatherOn 0 1 = none) ∧
    (Asks gatherOn foa0 { gather0 with dim := 17 } ∧ exportOf gatherOn 0 0 = some export0 ∧
      exportFits export0 0 { gather0 with dim := 17 } = false) ∧
    (Asks gatherLate foa0 gather0 ∧ exportOf gatherLate 0 0 = some export0 ∧ exportFits export0 0 gather0 = true ∧
      servedSlot gatherLate 0 0 = none) ∧
    (Asks gatherOn foa0 gather0 ∧ servedSlot gatherOn 0 0 = some 4) := by
  refine ⟨⟨asks_of ?_, ?_⟩, ⟨asks_of ?_, ?_⟩, ?_, hears_of ?_, hears_of ?_, ⟨asks_of ?_, ?_⟩, ⟨asks_of ?_, ?_⟩, ⟨asks_of ?_, ?_⟩,
    ⟨asks_of ?_, ?_⟩, ⟨asks_of ?_, ?_⟩, ⟨asks_of ?_, ?_⟩, ⟨asks_of ?_, ?_⟩, ⟨asks_of ?_, ?_⟩, ⟨asks_of ?_, ?_⟩⟩ <;> decide +kernel

/-- A request that waits for its answer, and a JOB_ABORT that does. -/
def out0 (resends : Nat) : OutReq :=
  { tag := 3, head := { foa0 with srcPart := 0, dstChip := 0, srcChip := 1 }, body := some { gather0 with dim := 1 }, chip := 0,
    resends := resends, step := 9 }
def abort0 : OutReq := { out0 0 with body := none, abortTick := 6, reason := .jobAborted, origin := 1 }

/-- The state that waits. -/
def waitsOn (o : OutReq) : State :=
  { jobOn .active [⟨0, 0, 0⟩] with nu := { (jobOn .active [⟨0, 0, 0⟩]).nu with out := [o] } }
abbrev waitingOn (resends : Nat) : State := waitsOn (out0 resends)

/-- A complete reply to it: one column of a sum of one term. -/
def reply0 : ReplyBody := { tag := 3, elemFirst := 0, terms := 1, columns := [compress { value := 2 ^ 160, terms := 1 }] }

/-- A digest note. -/
def note0 : NoteBody := { rangeId := 0, canon := 1, periodTick := 0, digest := 0, rsv := false }

/-- A NAK of the request with a tag. -/
def nak0 (tag : Nat) (st : Status) : FoaMsg := .nak tag st 0x10 8

/-- The hypotheses of Gathers: the clauses of gathers are answered. -/
theorem witness_GathersAreAnswered :
    (foa0.rsv = false ∧ (peer (waitingOn 0) 0).state = .up ∧ foa0.version ≤ (peer (waitingOn 0) 0).version ∧
      foa0.roleEpoch = tget 0 (waitingOn 0).ps.epochs 0 ∧ 6 ≠ tget 0 (waitingOn 0).ps.epochs 0) ∧
    (Hears (waitingOn 0) (dgram { foa0 with roleEpoch := 6 } (.gatherReply reply0)) { foa0 with roleEpoch := 6 }
      (.gatherReply reply0)) ∧
    (Hears (waitingOn 0) (dgram foa0 (.gatherReply { reply0 with tag := 4 })) foa0 (.gatherReply { reply0 with tag := 4 }) ∧
      findOut (waitingOn 0) foa0 4 = none) ∧
    (Hears (waitingOn 0) (dgram foa0 (.gatherReply reply0)) foa0 (.gatherReply reply0) ∧
      findOut (waitingOn 0) foa0 3 = some (out0 0) ∧ (out0 0).body = some { gather0 with dim := 1 } ∧ (out0 0).got = [] ∧
      (out0 0).terms = none ∧ reply0.elemFirst = 0 ∧ reply0.columns.length = 1 ∧ 0 < 1 ∧
      reply0.columns.all (fun c => columnOk c reply0.terms) = true) ∧
    Hears (waitingOn 0) (dgram { foa0 with roleEpoch := 6 } (nak0 3 .rights)) { foa0 with roleEpoch := 6 } (nak0 3 .rights) ∧
    (∀ st ∈ [Status.rights, .staleRole], Hears (waitingOn 0) (dgram foa0 (nak0 3 st)) foa0 (nak0 3 st)) ∧
    Hears (waitingOn 0) (dgram foa0 (nak0 4 .rights)) foa0 (nak0 4 .rights) ∧
    (∀ o ∈ [out0 2, abort0], live (waitsOn o) = true ∧ (waitsOn o).nu.out.find? (fun o => o.tag == 3) = some o ∧
      foaUp (waitsOn o) o.chip = true ∧ o.resends < 3) ∧ abort0.body = none ∧
    ((waitingOn 3).nu.out.find? (fun o => o.tag == 3) = some (out0 3) ∧ 3 ≤ (out0 3).resends) ∧
    (Hears gatherOn (dgram foa0 (.digestNote note0)) foa0 (.digestNote note0) ∧ note0.rsv = false ∧ note0.canon = 1 ∧
      (peer gatherOn 0).state = .up ∧ hasHand gatherOn.ps.active 0 = true ∧ foa0.roleEpoch = tget 0 gatherOn.ps.epochs 0 ∧
      activeSlot gatherOn 0 1 1 = some 0 ∧ memberIndex (tget {} gatherOn.nu.jobs (pkey 5 0 0)) 0 0 = some 0 ∧
      (tget {} gatherOn.nu.jobs (pkey 5 0 0)).count ≤ 15) := by
  refine ⟨by decide +kernel, hears_of (by decide +kernel), ⟨hears_of (by decide +kernel), by decide +kernel⟩,
    ⟨hears_of (by decide +kernel), by decide +kernel⟩, hears_of (by decide +kernel), ?_, hears_of (by decide +kernel),
    by decide +kernel, rfl, by decide +kernel, ⟨hears_of (by decide +kernel), by decide +kernel⟩⟩
  intro st h
  fin_cases h <;> exact hears_of (by decide +kernel)

/-- A read that answers. -/
theorem got_of {x : ReadNow × State} (h : (match x.1 with | .got _ _ => true | _ => false) = true) :
    ∃ bs p t, x = (.got bs p, t) := by
  obtain ⟨r, t⟩ := x
  cases r with
  | got bs p => exact ⟨bs, p, t, rfl⟩
  | _ => cases h

/-- A state with line 193 on its way from memory. -/
def lineComes (s : State) : State :=
  { s with coh := { on.coh with lines := [(193, { trans := some { kind := .f, item := { kind := .ncRead } } })] } }

/-- `jobOn` whose list is in that line. -/
def jobWaits : State := lineComes (jobFrom 0x3040 .free [])

/-- The hypotheses of JobsAndExports: the clauses of jobs load and abort. -/
theorem witness_JobsLoadAndAbort :
    (vfReady (jobOn .active []) 0 = true ∧ barServes (jobOn .active []) (.vf 0) false = true ∧ 31 < 32 ∧
      loadBarred (jobOn .active []) 0 0 = true ∧ (tget {} (jobOn .active []).nu.jobs (pkey 5 0 0)).state = .active) ∧
    (vfReady (jobOn .free []) 0 = true ∧ barServes (jobOn .free []) (.vf 0) false = true ∧ loadBarred (jobOn .free []) 0 0 = false ∧
      ∃ bs p t, readRight 0 pt 0x3000 8 (jobOn .free []) = (.got bs p, t)) ∧
    (vfReady jobWaits 0 = true ∧ barServes jobWaits (.vf 0) false = true ∧ loadBarred jobWaits 0 0 = false ∧
      ∃ t, readRight 0 pt 0x3040 8 jobWaits = (.wait, t)) ∧
    (vfReady (jobFrom (2 ^ 56) .free []) 0 = true ∧ barServes (jobFrom (2 ^ 56) .free []) (.vf 0) false = true ∧
      loadBarred (jobFrom (2 ^ 56) .free []) 0 0 = false ∧ ∃ t, readRight 0 pt (2 ^ 56) 8 (jobFrom (2 ^ 56) .free []) = (.refused, t)) ∧
    (tget {} (jobOn .aborted []).nu.jobs (pkey 5 0 0)).state = .aborted ∧
    loadMembers (jobOn .free []) 1 (List.replicate 8 0) = (.ok, [⟨0, 0, 0⟩]) ∧
    (∃ s : State, live s = true ∧ (tget {} s.nu.jobs (pkey 5 0 0)).state = .aborting ∧
      (tget {} s.nu.jobs (pkey 5 0 0)).abortAt ≤ s.tb.tick ∧ s.cu.open_ = none ∧ s.steps = [] ∧ s.qu.qs = []) ∧
    (∃ s : State, s.tb.tick < (tget {} s.nu.jobs (pkey 5 0 0)).abortAt) ∧
    (foa0.rsv = false ∧ (peer (jobOn .active []) 0).state = .up ∧ foa0.version ≤ (peer (jobOn .active []) 0).version ∧
      (jobOn .active []).cu.halted = false) ∧
    (∀ k ∈ [5, 6], Hears (jobOn .active []) (dgram foa0 (.jobAbort k .jobAborted 0)) foa0 (.jobAbort k .jobAborted 0)) ∧
    (activeSlot (jobOn .active []) 0 1 1 = some 0 ∧ (jobOn .active []).tb.tick < 6 ∧ 5 ≤ (jobOn .active []).tb.tick) ∧
    (Hears (jobOn .active []) (dgram { foa0 with jobId := 2 } (.jobAbort 6 .jobAborted 0)) { foa0 with jobId := 2 }
      (.jobAbort 6 .jobAborted 0) ∧ activeSlot (jobOn .active []) 0 2 1 = none) ∧
    (Hears (waitsOn abort0) (dgram foa0 .abortAck) foa0 .abortAck ∧ (peer (waitsOn abort0) 0).state = .up ∧
      foa0.version ≤ (peer (waitsOn abort0) 0).version) := by
  refine ⟨by decide +kernel, ⟨by decide +kernel, by decide +kernel, by decide +kernel, got_of (by decide +kernel)⟩,
    ⟨by decide +kernel, by decide +kernel, by decide +kernel, ⟨_, pair_of (by decide +kernel)⟩⟩,
    ⟨by decide +kernel, by decide +kernel, by decide +kernel, ⟨_, pair_of (by decide +kernel)⟩⟩, by decide +kernel, by decide +kernel,
    ⟨{ jobOn .aborting [] with qu := on.qu }, by decide +kernel⟩,
    ⟨{ jobOn .aborting [] with tb := { on.tb with tick := 4 } }, by decide +kernel⟩, by decide +kernel, ?_, by decide +kernel,
    ⟨hears_of (by decide +kernel), by decide +kernel⟩, ⟨hears_of (by decide +kernel), by decide +kernel⟩⟩
  intro k h
  fin_cases h <;> exact hears_of (by decide +kernel)

/-- `ready0` whose export table of partition 0 stands at a DVA. -/
def exportsAt (dva : Nat) : State := { ready0 with nu := { on.nu with vfs := [(0, { exportBase := dva })] } }

/-- The table is in that line. -/
def exportWaits : State := lineComes (exportsAt 0x3040)

/-- The hypotheses of JobsAndExports: the clauses of exports load at the tick. -/
theorem witness_ExportsLoadAtTheTick :
    (vfReady ready0 0 = true ∧ barServes ready0 (.vf 0) false = true ∧ 64 < 65) ∧
    (vfReady (exportsAt 0x3000) 0 = true ∧ barServes (exportsAt 0x3000) (.vf 0) false = true ∧ 1 ≤ 64 ∧
      ∃ bs p t, readRight 0 pt (tget {} (exportsAt 0x3000).nu.vfs 0).exportBase (32 * 1) (exportsAt 0x3000) = (.got bs p, t)) ∧
    (vfReady exportWaits 0 = true ∧ barServes exportWaits (.vf 0) false = true ∧
      ∃ t, readRight 0 pt (tget {} exportWaits.nu.vfs 0).exportBase (32 * 1) exportWaits = (.wait, t)) ∧
    (vfReady (exportsAt (2 ^ 56)) 0 = true ∧ barServes (exportsAt (2 ^ 56)) (.vf 0) false = true ∧
      ∃ t, readRight 0 pt (tget {} (exportsAt (2 ^ 56)).nu.vfs 0).exportBase (32 * 1) (exportsAt (2 ^ 56)) = (.refused, t)) ∧
    (∃ l, exportTable ready0 0 1 pt (List.replicate 32 0) = .ok l) ∧
    exportTable ready0 0 1 pt (2 :: List.replicate 31 0) = .error (0, .reservedNonzero) :=
  ⟨by decide +kernel, ⟨by decide +kernel, by decide +kernel, by decide, got_of (by decide +kernel)⟩,
    ⟨by decide +kernel, by decide +kernel, ⟨_, pair_of (by decide +kernel)⟩⟩,
    ⟨by decide +kernel, by decide +kernel, ⟨_, pair_of (by decide +kernel)⟩⟩, ok_of (by decide +kernel), rfl⟩

/-! ### Faults, comparisons and recovery -/

/-- A correctable fault of engine 0. -/
def fault0 : FMsg := { source := 0x500, kind := 0x08 }

/-- `on` whose newest record is that fault, in the same frame. -/
def repeated : State :=
  { on with fc := { on.fc with src := [(0x500, { count := 1, pendC := true, stepC := 1 })]
                               bbr := [{ type := .fault, cls := .c, source := 0x500, kind := 0x08, tick := 5 }] } }

theorem witness_FaultRecords :
    coalesces on fault0 = false ∧ coalesces repeated fault0 = true ∧ coalesces repeated { fault0 with address := 1 } = false ∧
    (∃ (r : Src) (k : Nat), pendOf r (kindClass k) = true ∧ kindClass k = .c ∧ lastStep r .c = 2) ∧
    (∃ (r : Src) (k : Nat), pendOf r (kindClass k) = true ∧ kindClass k = .f ∧ lastStep r .f = 5) ∧
    (∃ (r : Src) (k : Nat), pendOf r (kindClass k) = false ∧ kindFloor k = 5) :=
  ⟨by decide +kernel, by decide +kernel, by decide +kernel, ⟨{ pendC := true, stepC := 2 }, 0x08, by decide⟩,
    ⟨{ pendF := true, stepF := 5 }, 0x12, by decide⟩, ⟨{}, 0x15, by decide⟩⟩

/-- `s` with an injection of a checker on a target ready to be armed. -/
def inject0 (s : State) (checker target count : Nat) : State :=
  { s with fc := { s.fc with inj := { checker := checker, target := target, count := count } } }

/-- `s` with `planConf` active. -/
def confOn (s : State) : State := { s with ps := { s.ps with active := planConf } }

theorem no_conf (n : Nat) : hConf State.reset.ps.active n = false := by
  have h : hasHand State.reset.ps.active n = false := by
    by_cases h : n < 32
    · interval_cases n <;> decide +kernel
    · unfold hasHand
      rw [decide_eq_false h]
      rfl
  unfold hConf handFld
  rw [h]
  rfl

theorem witness_InjectionAndFencing :
    live on = true ∧ (bitAt 2 0 = false ∧ bitAt 2 1 = true) ∧
    (∃ s : State, s.fc.inj.remaining ≠ 0) ∧
    checkerSuits 0 0x500 = false ∧ (inject0 on 0 0x500 0).fc.inj.count = 0 ∧
    ((inject0 (confOn on) 5 0x500 1).fc.inj.remaining = 0 ∧ checkerSuits 5 0x500 = true ∧
      0 ∈ targetServes (confOn on).ps.active 0x500 ∧ hConf (confOn on).ps.active 0 = true) ∧
    (∃ s : State, s.fc.inj.remaining = 0 ∧ checkerSuits s.fc.inj.checker s.fc.inj.target = true ∧ s.fc.inj.count ≠ 0 ∧
      s.fc.inj.pvalid = true ∧ hConf s.ps.active s.fc.inj.part = true) ∧
    ((inject0 State.reset 6 0x63F 65535).fc.inj.remaining = 0 ∧ checkerSuits 6 0x63F = true ∧
      ∀ n, hConf (inject0 State.reset 6 0x63F 65535).ps.active n = false) ∧
    (4 < 5 ∧ 319 < 320) ∧ (∃ s : State, (s.hm.testing.any fun f => f.engine == 319) = true) :=
  ⟨by decide +kernel, by decide, ⟨{ on with fc := { on.fc with inj := { remaining := 1 } } }, by decide⟩, by decide +kernel, rfl,
    by decide +kernel,
    ⟨{ confOn on with fc := { on.fc with inj := { checker := 0, target := 0x400, count := 1, pvalid := true } } },
      by decide +kernel⟩,
    ⟨rfl, by decide +kernel, no_conf⟩, by decide, ⟨{ on with hm := { on.hm with testing := some ⟨319, 0⟩ } }, by decide⟩⟩

/-- A comparison entry of three members with the digests that are in. -/
def cmp0 (d : Tab Digest) : CmpEntry := { part := 31, slot := 31, rangeId := 1, periodTick := 2, digests := d, members := 2 }

/-- `on` with that entry, closing after three frames. -/
def comparing (d : Tab Digest) : State := { on with fc := { on.fc with cmps := [cmp0 d], closeFrames := 3 } }

theorem witness_ComparisonsDecide :
    (live (comparing []) = true ∧ (comparing []).fc.cmps.find? (isCmp 31 31 1 2) = some (cmp0 []) ∧
      2 + (comparing []).fc.closeFrames ≤ (comparing []).tb.tick) ∧
    (∃ s : State, s.fc.cmps.find? (isCmp 31 31 1 2) = some (cmp0 []) ∧ s.tb.tick < 2 + s.fc.closeFrames) ∧
    on.fc.cmps.find? (isCmp 0 0 0 0) = none ∧
    (cmpReference (cmp0 [(0, 7), (1, 7)]) = some 7 ∧ tfind (cmp0 [(0, 7), (1, 7)]).digests 0 = some 7) ∧
    (cmpReference (cmp0 [(0, 8), (1, 7), (2, 7)]) = some 7 ∧ tfind (cmp0 [(0, 8), (1, 7), (2, 7)]).digests 0 ≠ some 7) ∧
    (cmpReference { cmp0 [(15, 7)] with members := 0 } = some 7 ∧ 0 ≤ 15) ∧
    (cmpReference (cmp0 [(0, 8), (1, 7)]) = none ∧ 31 < 32) :=
  ⟨by decide +kernel, ⟨{ comparing [] with tb := { on.tb with tick := 4 } }, by decide +kernel, by decide⟩, rfl, by decide +kernel,
    by decide +kernel, by decide +kernel, by decide +kernel⟩

/-- A reset in progress. -/
def resetting (s : State) (r : Reset) : State := { s with rc := { s.rc with current := some r } }

/-- A capture of partition 0 for a reset or DUMP. -/
def capturing (r : Reset) (silent : List Nat) : State :=
  { resetting on r with rc := { (resetting on r).rc with capture := some { part := 0, scope := 4, silent := silent } } }

/-- `mapped` without its memory object. -/
def unmapped : State := { mapped with tu := { mapped.tu with objs := [] } }

/-- `mapped` with as many pages pinned as R327 allows. -/
def pinnedOut : State :=
  { mapped with rc := { mapped.rc with dumpXlat := [(0, (List.range 1088).map fun i => { x0 with dva := i + 1 })] } }

theorem uniq_nodup {l : List Nat} (h : l.Nodup) : uniq l = l := by
  induction l with
  | nil => rfl
  | cons a l ih =>
    rw [List.nodup_cons] at h
    simp [uniq, h.1, ih h.2]

theorem pinnedOut_full : pinFits pinnedOut 0 [x0] = false := by
  have dump : (tget [] pinnedOut.rc.dumpXlat 0).map (fun x => x.dva) = (List.range 1088).map (· + 1) := by
    show ((List.range 1088).map fun i => ({ x0 with dva := i + 1 } : Xlat)).map (fun x => x.dva) = _
    rw [List.map_map]; rfl
  have h0 : ((List.range 1088).map (· + 1)).Nodup := List.nodup_range.map fun a b h => by simpa using h
  have h : pinned pinnedOut 0 = (List.range 1088).map (· + 1) := by
    have e : pinned pinnedOut 0 = uniq ((tget [] pinnedOut.rc.dumpXlat 0).map (fun x => x.dva)) := by
      have a : (pinnedOut.steps.filter fun t => t.part == 0) = [] := rfl
      have b : ((pinnedOut.qu.qs.filter fun q => q.2.live && q.2.part == 0).flatMap fun q =>
        (q.2.acceptedAt.flatMap fun a => a.2) ++ (q.2.templates.flatMap fun t => t.xlats)) = [] := by decide +kernel
      have c : ((tget {} pinnedOut.nu.vfs 0).exports.flatMap fun e => e.xlats) = [] := rfl
      simp only [pinned, a, b, c, List.flatMap_nil, List.nil_append]
    rw [e, dump, uniq_nodup h0]
  have l : pinLimit pinnedOut 0 = 1088 := by decide +kernel
  have n : ((List.range 1088).map (· + 1) ++ List.map (fun x : Xlat => x.dva) [x0]).Nodup := by
    rw [List.nodup_append']
    exact ⟨h0, List.nodup_singleton _, by simp [x0]⟩
  rw [pinFits, h, l, uniq_nodup n]
  simp

/-- The walk of a dump area at `b`. -/
def dumpTo (b : Nat) (s : State) : XOut := walkRange s 0 pt { dva := b, size := 2 ^ 20, r := true, w := true }

theorem witness_CapturesAndTheDumpArea :
    (∃ (s : State) (c : Capture) (r : Reset), s.rc.capture = some c ∧ s.rc.current = some r ∧ 0x300 ∈ captureUnits s c ∧
      0x300 ∉ c.silent) ∧
    (on.rc.capture = none ∧ on.bnd.prep = none) ∧
    (∃ (s : State) (c : Capture) (r : Reset), s.rc.capture = some c ∧ s.rc.current = some r ∧ r.domain = .dump 0) ∧
    (∃ (s : State) (c : Capture) (r : Reset), s.rc.capture = some c ∧ s.rc.current = some r ∧ ∀ n, r.domain ≠ .dump n) ∧
    (vfReady on 31 = true ∧ barServes on (.vf 31) false = true ∧ fld (0xFFF#64).toNat 12 45 * 4096 = 0) ∧
    (vfReady mapped 0 = true ∧ barServes mapped (.vf 0) false = true ∧
      fld (tget 0 mapped.rc.dumpBase 0 / 2 ^ 32 * 2 ^ 32 + (0x100000#64).toNat % 2 ^ 32) 12 45 * 4096 = 0x100000) ∧
    (fld (0x100000000000000#64).toNat 12 45 * 4096 = 2 ^ 56 ∧ isHost (2 ^ 56) = true) ∧
    (∃ xs, vfReady mapped 0 = true ∧ (0x100000 : Nat) = fld (0x100000#64).toNat 12 45 * 4096 ∧ isHost 0x100000 = false ∧
      dumpTo 0x100000 mapped = .ok xs ∧ pinFits mapped 0 xs = true) ∧
    (isHost 0x100000 = false ∧ vfReady unmapped 0 = true ∧
      dumpTo 0x100000 unmapped = .fail .objectGone 0x100000) ∧
    (∃ l x, vfReady mapped 0 = true ∧ isHost (2 ^ 31) = false ∧ dumpTo (2 ^ 31) mapped = .miss l x) ∧
    (∃ xs, vfReady pinnedOut 0 = true ∧ dumpTo 0x100000 pinnedOut = .ok xs ∧ pinFits pinnedOut 0 xs = false) :=
  ⟨⟨capturing { domain := .partition 0 } [], { part := 0, scope := 4 }, { domain := .partition 0 }, rfl, rfl, by decide +kernel,
      by decide⟩,
    ⟨rfl, rfl⟩, ⟨capturing { domain := .dump 0 } [], { part := 0, scope := 4 }, { domain := .dump 0 }, rfl, rfl, rfl⟩,
    ⟨capturing { domain := .partition 0 } [], { part := 0, scope := 4 }, { domain := .partition 0 }, rfl, rfl, fun _ => nofun⟩,
    by decide +kernel, by decide +kernel, by decide +kernel, ⟨[x0], by decide +kernel⟩, by decide +kernel,
    ⟨1, 2 ^ 31, by decide +kernel⟩, ⟨[x0], by decide +kernel, by decide +kernel, pinnedOut_full⟩⟩

/-- Queue 3 of partition 1. -/
def twoQueues : State := { on with qu := { on.qu with qs := [(3, { live := true, part := 1, state := .idle })] } }

/-- A step killed on engine 0 whose acknowledgement is owed. -/
def owing : Step := { step0 with phase := .killed, unacked := [engineUnit 0] }

/-- A suspect of a replay on engine 0, its judge run dispatched in frame 0. -/
def judged (hung : Nat) : State :=
  { resetting on { domain := .engine 0, stage := .replay } with
    tu := { on.tu with ctxs := [(pkey 16 0 1, .live)] }
    rc := { (resetting on { domain := .engine 0, stage := .replay }).rc with
      replay := some { engine := 0, todo := [step0], running := some (9, 0), hung := hung } } }

theorem witness_ResetsGoOn :
    (∃ (s : State) (r : Reset), s.rc.current = some r ∧ r.stage = .kills ∧ r.firstSilent = none ∧
      owed s (inDomain s r.domain) = [engineUnit 0]) ∧
    (on.rc.current = none ∧ on.rc.works = []) ∧
    (∃ (s : State) (r : Reset), s.rc.current = some r ∧ r.domain = .partition 31 ∧ r.stage = .walk ∧
      s.coh.walk.getLsbD 31 = true ∧ walkOpen s 31 = false) ∧
    (∃ s : State, walkOpen s 0 = true) ∧ (hEngines on.ps.active 0).getLsbD 0 = true ∧
    (∃ (s : State) (r : Reset), s.rc.current = some r ∧ r.domain = .engine 319 ∧ r.stage = .quiet ∧ s.rc.replay = none ∧
      r.replay = false) ∧
    (∃ (s : State) (r : Reset), s.rc.current = some r ∧ r.domain = .partition 0 ∧ r.stage = .quiet ∧ r.flr = false) ∧
    (∃ (s : State) (r : Reset), s.rc.current = some r ∧ r.domain = .stockTile 63 ∧ r.stage = .quiet) ∧
    (queue (endPartition 0 twoQueues) 3).live = true :=
  ⟨⟨resetting { on with steps := [owing] } { domain := .engine 0 }, { domain := .engine 0 }, rfl, rfl, rfl, by decide +kernel⟩,
    ⟨rfl, rfl⟩,
    ⟨resetting { on with coh := { on.coh with walk := 0x80000000 } } { domain := .partition 31, stage := .walk },
      { domain := .partition 31, stage := .walk }, rfl, rfl, rfl, by decide +kernel, rfl⟩,
    ⟨{ on with coh := { on.coh with lines := [(0, { hstate := .o, trans := some { kind := .si, item := { kind := .victim },
                                                                                  await := [1] } })] } }, by decide⟩,
    by decide +kernel,
    ⟨resetting on { domain := .engine 319, stage := .quiet }, { domain := .engine 319, stage := .quiet }, rfl, rfl, rfl, rfl, rfl⟩,
    ⟨resetting on { domain := .partition 0, stage := .quiet }, { domain := .partition 0, stage := .quiet }, rfl, rfl, rfl, rfl⟩,
    ⟨resetting on { domain := .stockTile 63, stage := .quiet }, { domain := .stockTile 63, stage := .quiet }, rfl, rfl, rfl⟩,
    by decide +kernel⟩

/-- The hypotheses of ResetsGoOn: the clauses of replays. -/
theorem witness_ReplaysFindTheCulprit :
    (∃ (p : Replay) (s : State), s.rc.replay = some p ∧ p.running = some (9, 5) ∧ s.tb.tick < 5 + s.rc.replayFrames) ∧
    (∀ h, ∃ (p : Replay) (r : Reset), (judged h).rc.replay = some p ∧ (judged h).rc.current = some r ∧ r.stage = .replay ∧
      p.running = some (9, 0) ∧ p.todo = [step0] ∧ p.hung = h ∧ 0 + (judged h).rc.replayFrames ≤ (judged h).tb.tick) ∧
    (ctxState (judged 0) 0 1 = .live ∧ 1 < 0xFFFF) :=
  ⟨⟨{ engine := 0, todo := [step0], running := some (9, 5) },
      { on with rc := { on.rc with replay := some { engine := 0, todo := [step0], running := some (9, 5) } } }, rfl, rfl, by decide⟩,
    fun h => ⟨_, _, rfl, rfl, rfl, rfl, rfl, rfl, (by decide : 0 + 4 ≤ 5)⟩, by decide +kernel⟩

/-! ### Trust Core -/

/-- `ready0` with a certificate chain, whose signed copy goes to DVA 0x8000, its granules claimed. -/
def trusted (busy : Bool) (snap : Option HrPage) : State :=
  { ready0 with
    tc := { on.tc with chain := some 5, vfs := [(0, { signAddr := 0x8000, busy := busy, snap := snap })] } }

theorem hearsSession_of {s : State} {m : Datagram} {type len session : Nat} {zero : Bool} {body : List Byte}
    (e : live s = true ∧ s.tc.enable = true ∧ m.dst = s.tc.udpPort ∧ sessionMsg type len m.bytes = some (session, zero, body) ∧
      m.parity = 0 ∧ s.fc.inj.remaining = 0) : HearsSession s m type len session zero body :=
  ⟨e.1, e.2.1, e.2.2.1, e.2.2.2.1, e.2.2.2.2.1, e.2.2.2.2.2⟩

/-- The body of an S_HELLO to a partition. -/
def helloTo (n : Nat) : List Byte := BitVec.ofNat 8 n :: List.replicate 239 0

/-- An S_HELLO to a partition, with a SESSION. -/
def hello0 (n id : Nat) : Datagram :=
  { port := 0, addr := 1, udp := 2, dst := 0, bytes := sessionBytes 1 id (helloTo n) }

/-- Agreement number 77. -/
def agree0 : Agreement :=
  { session := 77, part := 0, epoch := 7, nonceT := 1, ephemeralT := 2, tenantKey := 3, transcript := [], port := 0, addr := 1, udp := 2,
    scalar := 4 }

/-- `ready0` with that agreement and a list of one key digest at a DVA. -/
def halfFrom (dva : Nat) : State :=
  { ready0 with
    tc := { on.tc with half := [agree0], vfs := [(0, { tenantKeys := dva, tenantCount := 1 })] } }
abbrev half0 : State := halfFrom 0x3000

/-- An S_FINISH of it. -/
def finish0 : FinishMsg :=
  { port := 0, addr := 1, udp := 2, dst := 0, bytes := sessionBytes 3 77 (List.replicate 96 0), host := pt }

/-- The list is not in yet. -/
def halfWaits : State := lineComes (halfFrom 0x3040)

/-- The hypotheses of TenantSessionsAndReports: the clauses of tenant sessions. -/
theorem witness_TenantSessions :
    (HearsSession on (hello0 0 9) 1 0xF0 9 true (helloTo 0) ∧ helloShape 9 true (helloTo 0) = false) ∧
    (HearsSession on (hello0 31 0) 1 0xF0 0 true (helloTo 31) ∧ helloShape 0 true (helloTo 31) = true ∧
      wireBits (helloTo 31) 0 1 0 5 = 31 ∧ hasHand on.ps.active 31 = false) ∧
    (HearsSession on (hello0 0 0) 1 0xF0 0 true (helloTo 0) ∧ helloShape 0 true (helloTo 0) = true ∧
      wireBits (helloTo 0) 0 1 0 5 = 0 ∧ hasHand on.ps.active 0 = true ∧ on.tc.half.length < 64 ∧ on.rie.sessions.length < 8192 ∧
      on.tc.chain = none) ∧
    (∃ s : State, HearsSession s (hello0 0 0) 1 0xF0 0 true (helloTo 0) ∧ 64 ≤ s.tc.half.length) ∧
    (HearsSession (trusted false none) (hello0 0 0) 1 0xF0 0 true (helloTo 0) ∧ hasHand (trusted false none).ps.active 0 = true ∧
      (trusted false none).tc.half.length < 64 ∧ (trusted false none).rie.sessions.length < 8192 ∧
      (trusted false none).tc.chain = some 5) ∧
    (HearsSession on finish0.toDatagram 3 0x60 77 true (List.replicate 96 0) ∧
      on.tc.half.find? (fun a => a.session == 77) = none) ∧
    (HearsSession half0 finish0.toDatagram 3 0x60 77 true (List.replicate 96 0) ∧
      half0.tc.half.find? (fun a => a.session == 77) = some agree0 ∧ tget 0 half0.ps.epochs agree0.part = agree0.epoch ∧
      ∃ bs p t, readRight agree0.part finish0.host (tget {} half0.tc.vfs agree0.part : VfTc).tenantKeys
        (48 * (tget {} half0.tc.vfs agree0.part : VfTc).tenantCount) half0 = (.got bs p, t)) ∧
    (HearsSession halfWaits finish0.toDatagram 3 0x60 77 true (List.replicate 96 0) ∧
      halfWaits.tc.half.find? (fun a => a.session == 77) = some agree0 ∧
      ∃ t, readRight agree0.part finish0.host (tget {} halfWaits.tc.vfs agree0.part : VfTc).tenantKeys
        (48 * (tget {} halfWaits.tc.vfs agree0.part : VfTc).tenantCount) halfWaits = (.wait, t)) ∧
    (HearsSession (halfFrom (2 ^ 56)) finish0.toDatagram 3 0x60 77 true (List.replicate 96 0) ∧
      (halfFrom (2 ^ 56)).tc.half.find? (fun a => a.session == 77) = some agree0 ∧
      ∃ t, readRight agree0.part finish0.host (tget {} (halfFrom (2 ^ 56)).tc.vfs agree0.part : VfTc).tenantKeys
        (48 * (tget {} (halfFrom (2 ^ 56)).tc.vfs agree0.part : VfTc).tenantCount) (halfFrom (2 ^ 56)) = (.refused, t)) ∧
    ([Config.sha384 (keyBytes agree0.tenantKey)].contains (Config.sha384 (keyBytes agree0.tenantKey)) = true ∧
      ([] : List Digest).contains (Config.sha384 (keyBytes agree0.tenantKey)) = false) ∧
    (Config.ecdsaVerify agree0.tenantKey (Config.sha384 agree0.transcript) 0 = true ∨
      Config.ecdsaVerify agree0.tenantKey (Config.sha384 agree0.transcript) 0 = false) ∧
    tget 0 on.ps.epochs agree0.part = agree0.epoch ∧ tget 0 State.reset.ps.epochs agree0.part ≠ agree0.epoch ∧
    (vfReady on 0 = true ∧ barServes on (.vf 0) false = true) := by
  refine ⟨⟨hearsSession_of (by decide +kernel), by decide +kernel⟩, ⟨hearsSession_of (by decide +kernel), by decide +kernel⟩,
    ⟨hearsSession_of (by decide +kernel), by decide +kernel⟩,
    ⟨{ on with tc := { on.tc with half := List.replicate 64 agree0 } }, hearsSession_of (by decide +kernel), by decide⟩,
    ⟨hearsSession_of (by decide +kernel), by decide +kernel⟩, ⟨hearsSession_of (by decide +kernel), rfl⟩,
    ⟨hearsSession_of (by decide +kernel), by decide +kernel, by decide +kernel, got_of (by decide +kernel)⟩,
    ⟨hearsSession_of (by decide +kernel), by decide +kernel, _, pair_of (by decide +kernel)⟩,
    ⟨hearsSession_of (by decide +kernel), by decide +kernel, _, pair_of (by decide +kernel)⟩, by simp,
    by cases Config.ecdsaVerify _ _ _ <;> simp, by decide +kernel, by decide +kernel, by decide +kernel⟩

/-- The hypotheses of TenantSessionsAndReports: the clauses of signed copies. -/
theorem witness_SignedCopies :
    (vfReady (trusted false none) 0 = true ∧ barServes (trusted false none) (.vf 0) false = true ∧
      (tget {} (trusted false none).tc.vfs 0 : VfTc).busy = false) ∧
    (vfReady (trusted true none) 0 = true ∧ barServes (trusted true none) (.vf 0) false = true ∧
      (tget {} (trusted true none).tc.vfs 0 : VfTc).busy = true ∧ (tget {} (trusted true none).tc.vfs 0 : VfTc).snap = none) ∧
    ((trusted true (some {})).bnd.powered = true ∧ (tget {} (trusted true (some {})).tc.vfs 0 : VfTc).busy = true ∧
      (tget {} (trusted true (some {})).tc.vfs 0 : VfTc).snap = some {} ∧ signArea (trusted true (some {})) 0 [] = none ∧
      signArea (trusted true (some {})) 0 pt = some [x0] ∧ (trusted true (some {})).tc.chain = some 5) ∧
    (∃ s : State, s.bnd.powered = true ∧ (tget {} s.tc.vfs 0 : VfTc).busy = true ∧
      (tget {} s.tc.vfs 0 : VfTc).snap = some {} ∧ signArea s 0 pt = some [x0] ∧ s.tc.chain = none) :=
  ⟨by decide +kernel, by decide +kernel, by decide +kernel,
    ⟨{ trusted true (some {}) with tc := { (trusted true (some {})).tc with chain := none } }, by decide +kernel⟩⟩

/-- `on` while a certificate is checked, in a life-cycle state, with the digest of a debug key. -/
def certOn (lc : LcState) : State :=
  { on with tc := { on.tc with certBusy := true, lc := lc, otp := { dbgKey := [Config.sha384 (certBytes 0 0x60 97)] } } }

/-- A debug certificate of no rights, and a transition to TEST, for the device of serial 0 and start 0. -/
def debugCert : BitVec 2560 := 0x101
def transitionCert : BitVec 2560 := 0x01000102

theorem certOn_signed (lc : LcState) (c : BitVec 2560) (h0 : certFld c 2 0 2 = 0) (hk : certBytes c 0x60 97 = certBytes 0 0x60 97)
    (hs : certFld c 0x10 0 128 = 0) (hb : certFld c 0x20 0 64 = 0)
    (h : Config.ecdsaVerify (BitVec.ofNat 776 (beNat (certBytes 0 0x60 97))) (Config.sha384 (certBytes c 0 0xE0))
      (BitVec.ofNat 768 (beNat (certBytes c 0xE0 96))) = true) : certSigned (certOn lc) c = true := by
  unfold certSigned
  simp only [h0, hk, hs, hb, h]
  simp [certOn, on, State.reset]

/-- The hypotheses of CertificatesAndDebug: the clauses of certificates and transitions. -/
theorem witness_CertificatesAndTransitions :
    (live on = true ∧ on.tc.certBusy = false ∧ (certOn .blank).tc.certBusy = true) ∧
    ((certOn .blank).bnd.powered = true ∧ certFld 0 1 0 8 ≠ 1) ∧
    (certFld 0x103 1 0 8 = 1 ∧ certShape 0x103 = false) ∧
    (∃ s : State, s.bnd.powered = true ∧ s.tc.certBusy = true ∧ certShape debugCert = true ∧ certSigned s debugCert = false) ∧
    (certFld debugCert 1 0 8 = 1 ∧ certShape debugCert = true ∧ certFld debugCert 0 0 8 = 1 ∧
      (Config.ecdsaVerify (BitVec.ofNat 776 (beNat (certBytes 0 0x60 97))) (Config.sha384 (certBytes debugCert 0 0xE0))
        (BitVec.ofNat 768 (beNat (certBytes debugCert 0xE0 96))) = true → certSigned (certOn .blank) debugCert = true)) ∧
    (certFld transitionCert 1 0 8 = 1 ∧ certShape transitionCert = true ∧ certFld transitionCert 0 0 8 = 2 ∧
      (Config.ecdsaVerify (BitVec.ofNat 776 (beNat (certBytes 0 0x60 97))) (Config.sha384 (certBytes transitionCert 0 0xE0))
        (BitVec.ofNat 768 (beNat (certBytes transitionCert 0xE0 96))) = true →
        certSigned (certOn .blank) transitionCert = true)) ∧
    (transitionTo .blank 1 = some .test ∧ transitionTo .production 4 = some .return_) :=
  ⟨by decide +kernel, by decide +kernel, by decide +kernel,
    ⟨{ certOn .blank with tc := { (certOn .blank).tc with otp := { dbgRevoked := 0xF } } }, rfl, rfl, by decide +kernel,
      by unfold certSigned; rw [show certFld debugCert 2 0 2 = 0 by decide +kernel]; rfl⟩,
    ⟨by decide +kernel, by decide +kernel, by decide +kernel,
      certOn_signed _ _ (by decide +kernel) (by decide +kernel) (by decide +kernel) (by decide +kernel)⟩,
    ⟨by decide +kernel, by decide +kernel, by decide +kernel,
      certOn_signed _ _ (by decide +kernel) (by decide +kernel) (by decide +kernel) (by decide +kernel)⟩, by decide⟩

/-- `hostHome` in life-cycle state TEST. -/
def debugged (ls : Tab LlcLine) : State := { hostHome ls with tc := { on.tc with lc := .test } }

/-- One whose granule belongs to key ID 2. -/
def otherKey : State := { debugged [] with mi := { on.mi with counters := [(0, { key0 := 2 })] } }

/-- One whose line waits for its verification. -/
def unchecked : State :=
  let s := debugged (one (resident .l 0))
  { s with mi := { s.mi with reads := [{ pc := 0, block := 0, poisoned := false, step := none }] } }

/-- The hypotheses of CertificatesAndDebug: the clauses of debug access. -/
theorem witness_DebugAccess :
    (on.bnd.powered = true ∧ debugAllowed on .memRead 0 = false) ∧ (31 < 32 ∧ hConf planConf 0 = true) ∧
    ((debugged []).tc.lc = .test ∧ hConf (debugged []).ps.active 0 = false ∧ (debugged []).bnd.powered = true) ∧
    (on.tc.lc ≠ .blank ∧ on.tc.lc ≠ .test ∧ on.tc.cert = none) ∧
    (∀ c ∈ [DebugCap.memRead, .memWrite, .unitStatus, .tileDebug], debugAllowed (debugged []) c 0 = true) ∧
    (homeLine (debugged lineL) 0 (2 ^ 48) = some 0 ∧ debugAllowed (debugged lineL) .memRead 0 = true ∧
      keyCheck (debugged lineL) (linePc 0) (lineNo 0) (dpaKey (2 ^ 48)) = .match_ ∧ (llc (debugged lineL) 0).hstate ≠ .i ∧
      unverified (debugged lineL) 0 = false) ∧
    (homeLine (debugged []) 0 (2 ^ 48) = some 0 ∧ keyCheck (debugged []) (linePc 0) (lineNo 0) (dpaKey (2 ^ 48)) = .match_ ∧
      (llc (debugged []) 0).hstate = .i) ∧
    (homeLine unchecked 0 (2 ^ 48) = some 0 ∧ debugAllowed unchecked .memRead 0 = true ∧
      keyCheck unchecked (linePc 0) (lineNo 0) (dpaKey (2 ^ 48)) = .match_ ∧ unverified unchecked 0 = true) ∧
    (homeLine otherKey 0 (2 ^ 48) = some 0 ∧ keyCheck otherKey (linePc 0) (lineNo 0) (dpaKey (2 ^ 48)) = .refuse ∧
      debugAllowed otherKey .memRead 0 = true ∧ debugAllowed otherKey .memWrite 0 = true) ∧
    homeLine (debugged []) 0 0 = none ∧ (0x301 ∉ partUnits (debugged []) 0 ∧ 0x300 ∈ partUnits (debugged []) 0) ∧
    DebugCap.tileDebug ∉ [DebugCap.memRead, .memWrite, .unitStatus] := by
  decide +kernel

/-- `on` with the SPDM connection at a stage, a chain and perhaps a session. -/
def spdmOn (x : Spdm) (session : Bool) : State :=
  { on with tc := { on.tc with spdm := x, chain := some 5, spdmSession := session, spdmKey := some 6, ideKeyed := [8] } }

/-- `on` with `planConf`, IDE stream 8 over its function, and its interface in a state. -/
def tdispOn (x : Tdi) : State := { confOn on with tc := { on.tc with ide := [(8, [0])], tdi := [(0, x)] } }

/-- The hypotheses of SpdmAndTdisp: the clauses of spdm exchange. -/
theorem witness_SpdmExchange :
    (∀ x ∈ [Spdm.start, .version, .capabilities, .algorithms], spdmUp (spdmOn x true) = true ∧ (spdmOn x true).tc.spdm = x) ∧
    (true && true && true && false) = false ∧ (spdmOn .algorithms false).tc.chain = some 5 ∧ (1 : Nat) ≠ 0 ∧
    (∀ i ∈ [1, 5, 0x10, 0x6F], { index := i : SpdmReq }.index ≠ 0 ∧ { index := i : SpdmReq }.index ≠ 0xFF ∧
      blockAt (spdmOn .algorithms false) i ≠ []) ∧
    (∃ s : State, spdmUp s = true ∧ s.tc.spdm = .algorithms ∧ s.tc.chain = none) ∧
    (∃ r : SpdmReq, spdmUp (spdmOn .algorithms false) = true ∧ (spdmOn .algorithms false).tc.spdmKey = some 6 ∧
      verifyData 6 = r.verify) ∧
    ((spdmOn .algorithms true).tc.spdmSession = true ∧ 8 < 9 ∧ 8 ∈ (spdmOn .algorithms true).tc.ideKeyed) ∧
    (spdmOn .algorithms false).tc.spdmSession = false :=
  ⟨by decide +kernel, by decide, rfl, by decide, by decide +kernel,
    ⟨{ on with tc := { on.tc with spdm := .algorithms } }, by decide +kernel⟩,
    ⟨{ verify := verifyData 6 }, by decide +kernel, rfl, rfl⟩, by decide +kernel, rfl⟩

/-- The hypotheses of SpdmAndTdisp: the clauses of tdisp interfaces. -/
theorem witness_TdispInterfaces :
    (∀ x ∈ [Tdi.unlocked, .locked, .run, .error], spdmUp (tdispOn x) = true ∧ hConf (tdispOn x).ps.active 0 = true ∧
      ideCovers (tdispOn x) 0 = true ∧ tdiOf (tdispOn x) 0 = x) ∧
    (spdmUp on = true ∧ hConf on.ps.active 0 = false) ∧
    (spdmUp (confOn on) = true ∧ hConf (confOn on).ps.active 0 = true ∧ ideCovers (confOn on) 0 = false) := by
  decide +kernel

/-! ### Health Monitor and registers -/

/-- `on` with a pattern package for engines; a field test of an engine perhaps runs. -/
def health (t : Option FieldTest) : State := { on with hm := { on.hm with pkgEngines := true, target := 319, testing := t } }

/-- A package without patterns, valid if its signature verifies. -/
def package0 (v : Nat) : Package := { header := BitVec.ofNat 4096 (1 + v * 2 ^ 64), patterns := [] }

theorem package0_ok (o : Otp) (v : Nat) (hv : v = 1 ∨ v = 2) (h : signedOk o (package0 v).header [] = true) :
    packageOk o (package0 v) = true := by
  unfold packageOk
  dsimp only
  rw [Bool.and_eq_true]
  refine ⟨?_, h⟩
  rcases hv with rfl | rfl <;> decide +kernel

theorem witness_ClockAndFieldTests :
    (live on = true ∧ bitAt (1280#64).toNat 11 = false ∧ 1280 ≤ fld (1280#64).toNat 0 11 ∧ fld (1280#64).toNat 0 11 ≤ 1600 ∧
      fld (1280#64).toNat 0 11 % 32 = 0 ∧ fld (1280#64).toNat 0 11 < on.hm.presentMhz) ∧
    (fld (1248#64).toNat 0 11 < 1280 ∧ 1600 < fld (1632#64).toNat 0 11 ∧ fld (1281#64).toNat 0 11 % 32 ≠ 0) ∧
    (∃ (v : Nat) (s : State), bitAt v 0 = true ∧ bitAt v 1 = false ∧ s.hm.testing.isSome = true ∧ v = 1) ∧
    (health none).hm.testing = none ∧ (∃ s : State, s.hm.rescanning = true ∧ s.bnd.powered = true) ∧
    ((engineOwner on.ps.active on.hm.target).isSome = true ∧ on.fc.fenced.getLsbD on.hm.target = false) ∧
    (startStatus (health none) = .ok ∧ (health none).hm.target < 320) ∧
    (live (health (some ⟨319, 0⟩)) = true ∧ (health (some ⟨319, 0⟩)).hm.testing = some ⟨319, 0⟩ ∧
      (health (some ⟨319, 0⟩)).bnd.powered = true ∧ (health (some ⟨319, 0⟩)).hm.testing.isSome = true) ∧
    65535 < 2 ^ 16 ∧
    (∃ x y : Package, signedOk {} x.header [] = true → signedOk {} y.header [] = true →
      packageOk {} x = true ∧ packageOk {} y = true ∧ pkgVer x < pkgVer y) :=
  ⟨by decide +kernel, by decide, ⟨1, health (some ⟨0, 0⟩), by decide⟩, rfl,
    ⟨{ on with hm := { on.hm with rescanning := true } }, rfl, rfl⟩, by decide +kernel, by decide +kernel,
    ⟨by decide +kernel, rfl, rfl, rfl⟩, by decide,
    ⟨package0 1, package0 2, fun h1 h2 => ⟨package0_ok _ 1 (.inl rfl) h1, package0_ok _ 2 (.inr rfl) h2, by decide +kernel⟩⟩⟩

/-- `on` with `planConf` and the interface of function 0 in RUN. -/
def runOn : State := { confOn on with tc := { on.tc with tdi := [(0, .run)] } }

theorem witness_RegisterAccess :
    (∀ fn ∈ [Fn.pf, .vf 31], State.reset.bnd.powered = true ∧ barServes State.reset fn false = true ∧
      fnReady State.reset fn = false) ∧ fnExists State.reset .pf = true ∧
    (∃ s : State, s.bnd.powered = true ∧ fnExists s (.vf 0) = true ∧ fnReady s (.vf 0) = false) ∧
    (on.bnd.powered = true ∧ barServes on (.vf 31) false = true ∧ fnExists on (.vf 31) = true ∧ fnReady on (.vf 31) = true) ∧
    barServes runOn (.vf 0) false = false ∧
    (∃ r i o, inRecords .pf 0x2148 = false ∧ regAt (regsOf .pf) 0x2148 = some (r, i, o) ∧ accessFits r o 4 = true ∧
      accessFits r o 8 = false) ∧
    (inRecords .pf 0x90000 = true ∧ inRecords (.vf 31) 0x14FF8 = true) ∧
    (inRecords .pf 0x20000 = false ∧ regAt pfRegs 0x20000 = none ∧ touchesReg pfRegs 0x20000 8 = false) ∧
    (inRecords (.vf 31) 0x118 = false ∧ regAt (vfRegs 31) 0x118 = none ∧ touchesReg (vfRegs 31) 0x118 8 = false ∧
      showsQueue on (.vf 31) (0x118 / 64) = false) ∧
    (inRecords (.vf 31) 0x1FFF8 = false ∧ regAt (vfRegs 31) 0x1FFF8 = none ∧ touchesReg (vfRegs 31) 0x1FFF8 8 = false) ∧
    ¬((Fn.pf = .pf ∧ (0x10 = 0 ∨ 0x10 = 8) ∧ 4 = 4)) ∧
    (on.bnd.ready = true ∧ 0x20000 ≤ 0x3FFF8 ∧ 0x3FFF8 < 0x40000 ∧ 0x3FFF8 % 8 = 0) ∧ 4 < 5 := by
  refine ⟨by decide +kernel, by decide +kernel, ⟨{ State.reset with bnd := { State.reset.bnd with vfEnable := true, numVfs := 1 } },
    by decide +kernel⟩, by decide +kernel, by decide +kernel, ?_, by decide +kernel, by decide +kernel, by decide +kernel,
    by decide +kernel, by decide, by decide +kernel, by decide⟩
  have h : (regAt (regsOf .pf) 0x2148).any (fun x => accessFits x.1 x.2.2 4 && !accessFits x.1 x.2.2 8) = true := by
    decide +kernel
  cases e : regAt (regsOf .pf) 0x2148 with
  | none => rw [e] at h; exact absurd h (by simp)
  | some x =>
    rw [e] at h
    simp only [Option.any_some, Bool.and_eq_true, Bool.not_eq_true'] at h
    exact ⟨x.1, x.2.1, x.2.2, by decide +kernel, rfl, h.1, h.2⟩

/-! ### Worked values of the spec -/

/-- An image of hands given as (slot, fields), with PLAN_MARGIN 1,064 and a period of 250 µs. -/
def manyHands (l : List (Nat × List (Nat × Nat))) : Image :=
  let fs := l.flatMap fun h => h.2.map fun p => (handOff h.1 + p.1, p.2)
  BitVec.ofNat 262656 (fs.foldl (fun x p => x + p.2 * 2 ^ (8 * p.1))
    (0x101 + 1064 * 2 ^ 32 + 250 * 2 ^ (8 * 0x18) + (l.map fun h => 2 ^ h.1).sum * 2 ^ (8 * 0x10)))

/-- The bits from `lo` to `hi`. -/
def span (lo hi : Nat) : Nat := 2 ^ (hi + 1) - 2 ^ lo

/-- The plan of 03_plans_hands_and_the_deal.md, "Examples", with a RATE_CAP of hand 1's class. -/
def examplePlan (rate : Nat) : Image :=
  manyHands
    [(0, [(0x001, 0), (0x002, 48), (0x004, 0x7FFF), (0x008, 1), (0x00C, 0xFFFFFFFF), (0x010, span 0 31), (0x018, 64), (0x019, 64),
      (0x020, 5000), (0x040, span 1 4), (0x060, span 0 79), (0x0A0, span 0 319), (0x200, 1), (0x201, 2), (0x202, 3), (0x204, 1500),
      (0x208, 9000), (0x210, 3000), (0x214, 1500), (0x218, 2000), (0x21C, 1024)]),
     (1, [(0x001, 1), (0x002, 48), (0x004, 0x7FFF), (0x008, 1), (0x00C, 0xFFFFFFFF), (0x010, span 32 47), (0x01A, 64), (0x01B, 64),
      (0x020, 2000), (0x040, span 5 8), (0x060, span 80 199), (0x0A0, span 320 799), (0x200, 1), (0x201, 4), (0x202, 4), (0x203, 1),
      (0x204, rate), (0x208, 12000), (0x20C, 60000), (0x210, 2000), (0x214, 60000), (0x218, 40000), (0x21C, 8192)]),
     (2, [(0x001, 2), (0x008, 1), (0x00C, 0xFFFFFFFF), (0x010, span 48 63), (0x01C, 32), (0x020, 1024), (0x040, span 9 9),
      (0x060, span 200 319), (0x0A0, span 800 1279), (0x200, 3), (0x208, 14000)])]

/-- A device that has made a cold start. -/
def coldOn : State := { on with ps := { State.reset.ps with epochs := [] } }

/-- The first hand of that plan as it stands while the request of 04_intake_admission_batching.md is decided. -/
def exampleOn : State := { coldOn with ps := { coldOn.ps with active := examplePlan 320, ageMargin := 1040 } }

/-- 03, "Examples": hand 1 needs 31,172,000 ns of engine time against 21,090,960 (reason 0x43 of R117). -/
theorem test_plan_engine_time : timeFail (examplePlan 500) 250 1 = some (0x43, 1, 0) := by decide +kernel
/-- 03, "Examples": with RATE_CAP 320 hand 1 passes its time checks. -/
theorem test_plan_lowered_rate : timeFail (examplePlan 320) 250 1 = none := by decide +kernel
/-- 03, "Examples": PS_VERDICT of the refused plan. -/
theorem test_plan_verdict : verdictWord { status := .planInfeasible, reason := 0x43, hand := 1, item := 0 } = 0x0000000001430061 := by
  decide
/-- 03, "Examples": the slot length of a period of 250 µs, and the network capacity of two ports at 64. -/
theorem test_slot_length : slotLen 250 = 15623 ∧ netBudget (examplePlan 320) 250 0 = 12500000 := by decide +kernel
/-- 04, "Example of one request": L_j of slots 0, 4, 9, 13 and 14. -/
theorem test_slot_budgets : [0, 4, 9, 13, 14].map (slotBudget exampleOn 0) = [11717, 11718, 11718, 11717, 11718] := by
  decide +kernel
/-- 04, "Example of one request": the charge vector. -/
theorem test_charge_vector : chargeOf exampleOn (hClass exampleOn.ps.active 0 0) = ⟨3047, 1524, 128000, 1024⟩ := by decide +kernel
/-- 04, "Example of one request": the shares of the three steps. -/
theorem test_charge_shares : [0, 1, 2].map (share 3047 3) = [1015, 1016, 1016] ∧ [0, 1, 2].map (share 1524 3) = [508, 508, 508] ∧
    [0, 1, 2].map (share 128000 3) = [42666, 42667, 42667] ∧ [0, 1, 2].map (share 1024 3) = [341, 341, 342] := by decide
/-- 15, the example of TARGET_MHZ: BASE at 1,568 MHz and AGE_MARGIN with ALLOW 16. -/
theorem test_age_margin : ageBase 1568 = 1045 ∧ ageBase 1568 + 16 = 1061 := by decide
/-- 09, the example of R319: DPA 0x0005_0032_4E12_3456 in a hand of PCs 96 to 99 and 200 to 203. -/
theorem test_route : dpaKey 0x000500324E123456 = 5 ∧
    route (manyHands [(6, [(0x0A0, span 96 99 + span 200 203)])]) 6 (dpaLow 0x000500324E123456) = (202, 0x27424456) := by
  decide +kernel
/-- 09 and 08, the same examples: line, group, stack and slice; the mirror of PC 417. -/
theorem test_places : 0x27424456 / 64 = 10291473 ∧ groupOf 10291473 = 160804 ∧ stackOf 202 = 3 ∧ sliceOf 202 = 6 ∧
    stackOf 417 = 6 ∧ sliceOf 417 = 13 ∧ partner 417 = 1057 ∧ stackOf 1057 = 16 := by decide
/-- 00, "Unit IDs": engine 261. -/
theorem test_engine_unit : engineUnit 261 = 0x605 ∧ unitEngine 0x605 = some 261 := by decide
/-- 14, R502: the codewords. -/
theorem test_codewords : [0x00000000, 0x11111111, 0x33333333, 0x77777777, 0xFFFFFFFF, 0xBBBBBBBB, 0x11111110].map lcDecode =
    [.blank, .test, .provisioned, .production, .return_, .scrap, .invalid] := by decide
/-- 16, "Example of locating registers": FC_SRC(0x605), Q_CTL(37) and RC_Q_PROGRESS(37). -/
theorem test_register_places : (regAt (regsOf .pf) 0x8B028).any (fun x => x.2.1 == 0x605) = true ∧
    (regAt (regsOf .pf) 0x10258).any (fun x => x.1.off == 0x10008 && x.2.1 == 37) = true ∧
    (regAt (regsOf (.vf 5)) 0x19250).any (fun x => x.1.off == 0x19000 && x.2.1 == 37) = true := by decide +kernel
/-- 06, "Examples": the MXFP4 row of 0x85, 0xFF, 0x1B, 0x07: -96, 32, 384, and NaN in block 1. -/
theorem test_mxfp4_row : rowSize 0x0A 40 = 22 ∧
    ([0, 1, 2].map fun i => (({} : Acc).add (decodeElem 0x0A 40 0x071BFF85 i)).value) = [-3 * 2 ^ 165, 2 ^ 165, 3 * 2 ^ 167] ∧
    decodeElem 0x0A 40 0x071BFF85 32 = .nan := by decide +kernel
/-- 06, "Examples": FP8 E4M3 0x39 plus -0.0625 in the four rounding modes. -/
theorem test_e4m3_rounding : [0, 1, 2, 3].map (fun r => addRow 0x03 1 r [0x39] (leBytes 0xBD800000 4)) =
    [[0x38], [0x38], [0x39], [0x38]] := by decide +kernel
/-- 06, "Examples": 0x7E plus 32 saturates, as does plus infinity; a NaN gives 0x7F. -/
theorem test_e4m3_saturates : [0x42000000, 0x7F800000, 0x7FC00000].map (fun p => addRow 0x03 1 0 [0x7E] (leBytes p 4)) =
    [[0x7E], [0x7E], [0x7F]] := by decide +kernel

/-- The BF16 terms of 05_lookup_reduce_engines.md, "Example of two splits", summed. -/
def bfSum (l : List Nat) : Acc := l.foldl (fun a x => a.add (decodeFloat bf16 x)) {}

/-- 05, "Example of two splits": the residues of the terms a and c. -/
theorem test_residues : residue 7 (bfSum [0x4B80]).value = 2 ∧ residue 15 (bfSum [0x4B80]).value = 1 ∧
    residue 7 (bfSum [0xCB80]).value = 5 ∧ residue 15 (bfSum [0xCB80]).value = 14 := by decide +kernel
/-- 05, "Example of two splits": both splits give 2, and SUM and MEAN their BF16 patterns. -/
theorem test_two_splits : (bfSum [0x4B80, 0x3F80]).merge (bfSum [0xCB80, 0x3F80]) =
      (bfSum [0x4B80, 0xCB80]).merge (bfSum [0x3F80, 0x3F80]) ∧
    convert (.float bf16) 0 (bfSum [0x4B80, 0x3F80, 0xCB80, 0x3F80]) 1 = 0x4000 ∧
    convert (.float bf16) 0 (bfSum [0x4B80, 0x3F80, 0xCB80, 0x3F80]) 4 = 0x3F00 := by decide +kernel
/-- 05, "Example of two splits": the compressed column of chip Y: one word 2 at word 5, residues 4 and 2. -/
theorem test_column : compress (bfSum [0x3F80, 0x3F80]) =
    { sign := false, nan := false, negInf := false, posInf := false, range := false, nwords := 1, lowWord := 5, res15 := 2,
      res7 := 4, rsv := false, words := [2] } := by decide +kernel
/-- 05, R197: that column on the wire. -/
theorem test_column_wire : columnBytes (compress (bfSum [0x3F80, 0x3F80])) = [0x01, 0x05, 0x24, 0x00, 0, 0, 0, 2] := by decide +kernel
/-- 11, R395 and R396: an ABORT_ACK of chip 0 to chip 1 under role epoch 7 and job 1, generation 1. -/
theorem test_foa_wire : foaBytes foa0 .abortAck =
    [0x10, 0x21, 0, 0, 0, 0, 0, 1, 0, 0, 0, 0, 0, 0, 0, 7, 0, 0, 0, 0, 0, 0, 0, 1, 0, 1, 0, 0, 0, 0, 0, 0] := by decide +kernel
/-- 05, "Example of two splits": chip X's column has no words. -/
theorem test_column_zero : (compress (bfSum [0x4B80, 0xCB80])).words = [] ∧ (compress (bfSum [0x4B80, 0xCB80])).lowWord = 0 := by
  decide +kernel
/-- 07, "Example of an atomic crossing a write-back": ADD of 5 to 0x40. -/
theorem test_atomic_add : atomInt 0 64 0x40 5 0 = 0x45 := by decide
/-- 13, "Example of a wedged engine": DETAIL of RESET_ENGINE after its second reset, one context lost, one step killed. -/
theorem test_reset_detail :
    resetDetail { on with lre := { on.lre with engines := [(37, { gen := 0x19 })] } }
      { domain := .engine 37, lostCtxs := 1, killed := 1 } = 0xFFFF190000010001 := by decide +kernel
/-- 13, the same example: DETAIL of RESET_CONTEXT, with engine 37 silent. -/
theorem test_reset_context_detail :
    resetDetail on { domain := .context 4 0x21, firstSilent := some (engineUnit 37), killed := 1 } = 0x0525000000000001 := by
  decide +kernel
/-- 12, the example of engine 261: the ladder of a first, a repeated and a cleared correctable fault. -/
theorem test_ladder : ladderStep {} 0x01 = 0 ∧ ladderStep { pendC := true, stepC := 0 } 0x01 = 1 ∧
    ladderStep { pendC := false, stepC := 1 } 0x01 = 0 ∧ ladderStep {} 0x02 = 1 := by decide

/-! ### Ill-formed commands -/

/-- One ill-formed command for each check of WellFormed.lean, which the check refuses, and a well-formed one beside it. -/
theorem test_wf_opcode : (Instr.nop (fetch0 (desc 0x01 1 []))).wf = false ∧ (Instr.nop (fetch0 (desc 0x00 1 []))).wf = true := by
  decide +kernel
theorem test_wf_assigned : (Instr.unassignedOpcode (fetch0 (desc 0xC9 1 []))).wf = false ∧
    (Instr.unassignedOpcode (fetch0 (desc 0xCA 1 []))).wf = true := by decide +kernel
theorem test_wf_queue : (Instr.nop { fetch0 (desc 0x00 1 []) with queue := 0x421 }).wf = false ∧
    (Instr.nop { fetch0 (desc 0x00 1 []) with queue := 0x420 }).wf = true := by decide +kernel
theorem test_wf_part : (Instr.sign 32 false).wf = false ∧ (Instr.sign 31 false).wf = true := by decide
theorem test_wf_fn : (Instr.admqEnable (.vf 32) false).wf = false ∧ (Instr.admqEnable .pf false).wf = true := by decide
theorem test_wf_port : (Instr.linkUp 8).wf = false ∧ (Instr.linkUp 7).wf = true := by decide
theorem test_wf_pc : (Instr.scrubEnd 1280).wf = false ∧ (Instr.scrubEnd 1279).wf = true := by decide
theorem test_wf_tile : (Instr.snoopTimeout 64).wf = false ∧ (Instr.snoopTimeout 63).wf = true := by decide
theorem test_wf_access : (Instr.registerWrite .pf 4 8 0 false).wf = false ∧ (Instr.registerWrite .pf 0 2 0 false).wf = false ∧
    (Instr.registerWrite .pf 4 4 0 false).wf = true := by decide
theorem test_wf_unit : (Instr.faultStateExit 4096).wf = false ∧ (Instr.faultStateExit 4095).wf = true := by decide
theorem test_wf_engine : (Instr.engineShareComplete 0 320 ⟨0, none, false⟩).wf = false ∧
    (Instr.engineShareComplete 0 319 ⟨0, some 5, false⟩).wf = false ∧ (Instr.engineShareComplete 0 319 ⟨0, some 4, false⟩).wf = true := by decide
theorem test_wf_differ : (Instr.commit [⟨9, 320, 0⟩]).wf = false ∧ (Instr.commit [⟨9, 319, 0⟩]).wf = true := by decide
theorem test_wf_way : (Instr.waySweepEnd 40 0).wf = false ∧ (Instr.waySweepEnd 39 31).wf = true := by decide
theorem test_wf_block : (Instr.verificationDone 0 (2 ^ 22) .agree).wf = false ∧
    (Instr.verificationDone 0 (2 ^ 22 - 1) .agree).wf = true := by decide
theorem test_wf_datagram : (Instr.abortAck { dgram foa0 .abortAck with port := 8 }).wf = false ∧
    (Instr.abortAck { dgram foa0 .abortAck with udp := 65536 }).wf = false ∧
    (Instr.abortAck (dgram foa0 .abortAck)).wf = true := by decide +kernel
theorem test_wf_tile_message : (Instr.rds { head := 0, way := 32 }).wf = false ∧ (Instr.rds { head := 0, way := 31 }).wf = true := by
  decide
theorem test_wf_step_completion : (Instr.stepCompletion 64 0 0 .ok).wf = false ∧ (Instr.stepCompletion 0 256 0 .ok).wf = false ∧
    (Instr.stepCompletion 63 255 0 .ok).wf = true := by decide
theorem test_wf_host_access : (Instr.hostMemoryRead { access0 with dva := 2 ^ 57 }).wf = false ∧
    (Instr.hostMemoryRead access0).wf = true := by decide
theorem test_wf_export : (Instr.exportLoad 0 1025 [] false).wf = false ∧ (Instr.exportLoad 0 1024 [] false).wf = true := by decide
theorem test_wf_job : (Instr.jobClose 0 32 false).wf = false ∧ (Instr.jobClose 31 31 false).wf = true := by decide
theorem test_wf_unfence : (Instr.unfence 5 0).wf = false ∧ (Instr.unfence 4 0).wf = true := by decide

/-- No row of the table has bits, so no word spells a command, and a state stays as it is. -/
theorem test_no_bits : decodeTableWord 64 0 = none ∧ (on.withFetchWord 64 0).pending = on.pending := by decide +kernel

end Sys2Proof.Tests
end

section
/-!
SUPPORT. What a report to the Fault Collector leaves and records (R419 to R433): its reactions touch the boundary, the Commit
Unit, the resets asked for and what leaves the block; outside the collector nothing else changes but a hand's counters and the
free values drawn; and the fault stands in the recorder, as a record of its own or in the record it coalesces with (R423).
-/
namespace Sys2Proof.Machine
open Sys2Proof

/-- `t` differs from `s` at most in what a reaction of the collector changes (R427). -/
def ReactsTo (s t : State) : Prop := { t with bnd := s.bnd, cu := s.cu, rc := s.rc, out := s.out } = s

namespace ReactsTo

theorem refl (s : State) : ReactsTo s s := rfl

theorem trans {s t u : State} (st : ReactsTo s t) (tu : ReactsTo t u) : ReactsTo s u := by
  unfold ReactsTo at st tu
  rw [← tu] at st
  exact st

theorem fc {s t : State} (h : ReactsTo s t) : t.fc = s.fc := (congrArg State.fc h :)

end ReactsTo

theorem msix_reactsTo (fn : Fn) (v : Nat) (s : State) : ReactsTo s (msix fn v s) := by
  unfold msix
  split <;> rfl

theorem assertErr_reactsTo (src : Nat) (cl : FClass) (s : State) : ReactsTo s (assertErr src cl s) := by
  unfold assertErr
  split <;> rfl

theorem askChipReset_reactsTo (p : Prep) (s : State) : ReactsTo s (askChipReset p s) := by
  unfold askChipReset
  split <;> rfl

theorem askReset_reactsTo (r : Reset) (s : State) : ReactsTo s (askReset r s) := rfl

/-- BLOCK_RESET asks for one reset, whatever the source is (R431). -/
theorem blockReset_reactsTo (m : FMsg) (s : State) : ReactsTo s (blockReset m s) := by
  unfold blockReset
  generalize (if m.kind = 0x22 then Cause.deadAgent else Cause.ladder) = cause
  dsimp only
  split
  · exact askReset_reactsTo _ s
  · split <;> exact askReset_reactsTo _ s
  · split
    · exact askReset_reactsTo _ s
    · exact .refl s
  · split
    · exact .refl s
    · split
      · exact askReset_reactsTo _ s
      · exact askChipReset_reactsTo _ s

theorem react_reactsTo (m : FMsg) (step : Nat) (s : State) : ReactsTo s (react m step s) := by
  have irq : ReactsTo s (if 1 ≤ step then msix .pf 62 s else s) := by
    split
    · exact msix_reactsTo _ _ s
    · exact .refl s
  unfold react
  generalize (if 1 ≤ step then msix .pf 62 s else s) = t at irq ⊢
  refine irq.trans ?_
  dsimp only
  split
  · rfl
  · exact blockReset_reactsTo m _
  · exact askChipReset_reactsTo _ _
  · exact (assertErr_reactsTo _ _ _).trans rfl
  · exact .refl _

/-- A report changes the collector, what its reactions change, a hand's counters and the free values drawn, and nothing else. -/
theorem report_rest (m : FMsg) (s : State) :
    { report m s with bnd := s.bnd, cu := s.cu, fc := s.fc, rc := s.rc, tc := s.tc, out := s.out, freeCount := s.freeCount } = s := by
  unfold report
  split
  · rfl
  · have rest := fun (step : Nat) (t : State) => congrArg (fun x : State =>
      { x with bnd := s.bnd, cu := s.cu, fc := s.fc, rc := s.rc, tc := s.tc, out := s.out, freeCount := s.freeCount })
      (react_reactsTo m step t)
    refine (rest _ _).trans ?_
    split
    · split <;> rfl
    · rfl

@[simp] theorem report_coh (m : FMsg) (s : State) : (report m s).coh = s.coh := (congrArg State.coh (report_rest m s) :)
@[simp] theorem report_mi (m : FMsg) (s : State) : (report m s).mi = s.mi := (congrArg State.mi (report_rest m s) :)
@[simp] theorem report_steps (m : FMsg) (s : State) : (report m s).steps = s.steps := (congrArg State.steps (report_rest m s) :)

/-- The first element that satisfies `p` stands changed in the list. -/
theorem mem_modFirst {α : Type} {p : α → Bool} (f : α → α) {l : List α} {a : α} (h : l.find? p = some a) :
    f a ∈ modFirst p f l := by
  induction l with
  | nil => cases h
  | cons b l ih =>
    unfold modFirst
    by_cases hb : p b = true
    · rw [List.find?_cons_of_pos hb] at h
      rw [if_pos hb, Option.some.inj h]
      exact List.mem_cons_self
    · rw [List.find?_cons_of_neg hb] at h
      rw [if_neg hb]
      exact List.mem_cons_of_mem _ (ih h)

/-- The record `r` names the fault that the message `m` reports (R420, R422). -/
structure FRec.Names (r : FRec) (m : FMsg) : Prop where
  type : r.type = .fault
  cls : r.cls = kindClass m.kind
  source : r.source = m.source
  kind : r.kind = m.kind

/-- A message that coalesces does so with the newest record of its source, which names the same fault (R423). -/
theorem exists_names_of_coalesces {s : State} {m : FMsg} (h : coalesces s m = true) :
    ∃ r, s.fc.bbr.find? (fun r => r.source == m.source) = some r ∧ r.Names m := by
  unfold coalesces at h
  split at h
  · cases h
  · split at h
    · cases h
    · next r found =>
      have source := List.find?_some found
      simp only [Bool.and_eq_true, beq_iff_eq] at h source
      obtain ⟨⟨⟨⟨⟨type, kind⟩, cls⟩, -⟩, -⟩, -⟩ := h
      exact ⟨r, found, type, cls, source, kind⟩

/-- A record that enters the recorder stands in it with the fault it names (R457). -/
theorem exists_names_record {r : FRec} {m : FMsg} (h : r.Names m) (s : State) : ∃ x ∈ (record r s).fc.bbr, x.Names m :=
  ⟨_, List.mem_cons_self, h.type, h.cls, h.source, h.kind⟩

/-- A reported fault stands in the recorder (R423, R457). -/
theorem exists_names_report (m : FMsg) (s : State) : ∃ r ∈ (report m s).fc.bbr, r.Names m := by
  unfold report
  split
  · next again =>
    obtain ⟨r, found, names⟩ := exists_names_of_coalesces again
    refine ⟨{ r with repeats := satAdd 16 r.repeats 1 }, ?_, names.type, names.cls, names.source, names.kind⟩
    have mem := mem_modFirst (fun r : FRec => { r with repeats := satAdd 16 r.repeats 1 }) found
    dsimp only
    split <;> exact mem
  · dsimp only
    rw [(react_reactsTo _ _ _).fc]
    split
    · split <;> exact exists_names_record ⟨rfl, rfl, rfl, rfl⟩ _
    · exact exists_names_record ⟨rfl, rfl, rfl, rfl⟩ _

end Sys2Proof.Machine
end

section
/-!
SUPPORT. The Tile Port (R22, R24, R250, R260, R270, R439): which messages pass it, that a command with a tile message is that
message brought to its port, and the answers and control messages that are impossible.
-/
namespace Sys2Proof.Machine
open Sys2Proof

/-! ### What the port keeps out -/

/-- A message is discarded while FABRIC_PRESENT is low, and one of a dead tile is dropped (R22, R270). -/
theorem atPort_discarded {s : State} {t gen : Nat} {k : State → State}
    (h : fabricOn s = false ∨ s.bnd.fabric.getLsbD t = false ∨ s.coh.dead.getLsbD t = true) : atPort t gen k s = s := by
  unfold atPort
  rw [if_pos]
  obtain h | h | h := h <;> simp [h]

/-- One with a stale generation is dropped and counted (R24). -/
theorem atPort_stale {s : State} {t gen : Nat} {k : State → State} (up : fabricOn s = true)
    (fabric : s.bnd.fabric.getLsbD t = true) (alive : s.coh.dead.getLsbD t = false) (stale : gen ≠ domainGen s t) :
    atPort t gen k s = staleTile t s := by
  simp [atPort, up, fabric, alive, stale]

/-- Any other passes. -/
theorem AtPort.atPort {s : State} {t gen : Nat} (h : AtPort s t gen) (k : State → State) : atPort t gen k s = k s := by
  simp [Machine.atPort, h.up, h.fabric, h.alive, ← h.gen]

/-- A message with a reserved opcode or field is impossible (R250). -/
theorem message_illegal {s : State} {op : Nat} {m : TileMsg} (port : AtPort s m.tile m.gen) (h : m.legal op = false)
    (k : State → State) : message op m k s = impossible m.tile m.head s := by
  simp [message, port.atPort, h]

/-- One that passes is handled. -/
theorem Passes.message {s : State} {op : Nat} {m : TileMsg} (h : Passes s op m) (k : State → State) :
    message op m k s = k s := by
  simp [Machine.message, h.toAtPort.atPort, h.legal]

/-- Every command that carries a coherence message brings that message to its port, whatever handles it there. -/
theorem exec_of_tileMsgOf {i : Instr} {op : Nat} {m : TileMsg} (h : tileMsgOf i = some (op, m)) :
    ∃ k, ∀ s, exec i s = .next (settle (message op m k s)) := by
  unfold tileMsgOf at h
  split at h <;> cases h <;> exact ⟨_, fun _ => rfl⟩

/-! ### Data that arrives whole (R434, R439) -/

theorem injected_off {s : State} (h : s.fc.inj.remaining = 0) (checker unit : Nat) (part : Option Nat) :
    injected checker unit part s = (false, s) := by
  simp [injected, h]

theorem transfer_whole {s : State} (h : s.fc.inj.remaining = 0) (u : Nat) (part : Option Nat) :
    transfer u part 0 s = (false, s) := by
  simp [transfer, parityCheck, injected_off h]

/-- The data of no step passes the port as it is. -/
theorem passData_whole {s : State} (h : s.fc.inj.remaining = 0) (m : TileMsg) (k : TileMsg → State → State) :
    passData m 0 none k s = k m s := by
  simp [passData, transfer_whole h]

/-! ### Answers that nothing awaits -/

/-- No transaction of the line of `m` awaits an answer of its tile under its TAG (R249, R260). -/
def Unawaited (s : State) (m : TileMsg) : Prop :=
  ∀ n k x, homeOf s m = some (n, k) → (llc s k).trans = some x → m.tile ∉ x.await ∨ x.tag ≠ m.tag

theorem unawaited_of_no_home {s : State} {m : TileMsg} (h : homeOf s m = none) : Unawaited s m := by
  intro n k x home
  rw [h] at home
  cases home

theorem unawaited_of_home {s : State} {m : TileMsg} {n k : Nat} (home : homeOf s m = some (n, k))
    (h : ∀ x, (llc s k).trans = some x → m.tile ∉ x.await ∨ x.tag ≠ m.tag) : Unawaited s m := by
  intro n' k' x home' trans
  rw [home] at home'
  cases home'
  exact h x trans

/-- A transaction that does not await the tile, or under another TAG, does not take its answer. -/
theorem not_awaits {m : TileMsg} {x : Trans} (h : m.tile ∉ x.await ∨ x.tag ≠ m.tag) :
    (x.await.contains m.tile && x.tag == m.tag) = false := by
  obtain h | h := h <;> simp [h]

/-- The answer to a snoop that nothing awaits is impossible. -/
theorem Unawaited.tileAnswer {s : State} {m : TileMsg} (h : Unawaited s m) (data : Option (Line × Bool)) (kept : Bool) :
    tileAnswer m data kept s = impossible m.tile m.head s := by
  unfold Machine.tileAnswer
  split
  · rfl
  · next n k home =>
    split
    · rfl
    · next x trans =>
      rw [not_awaits (h n k x home trans)]
      rfl

/-- The answer to a stash offer that nothing awaits is impossible. -/
theorem Unawaited.stashSt {s : State} {m : TileMsg} (h : Unawaited s m) : stashSt m s = impossible m.tile m.head s := by
  unfold Machine.stashSt
  split
  · rfl
  · next n k home =>
    cases trans : (llc s k).trans with
    | none => rfl
    | some x => simp only [Option.any_some, Bool.and_assoc, not_awaits (h n k x home trans), Bool.and_false]; rfl

/-! ### Control messages about a step that the tile does not hold (R260, R468) -/

/-- Tile `t` does not hold step `id`: the step does not run on it, it has finished its share, or the step neither runs nor waits,
killed, for its acknowledgement. -/
def NotHeld (s : State) (t id : Nat) : Prop :=
  ∀ x, findStep s id = some x →
    tileUnit t ∉ x.units ∨ tileUnit t ∈ x.unitsDone ∨ (x.phase ≠ .running ∧ ¬(x.phase = .killed ∧ tileUnit t ∈ x.unacked))

/-- The completion of a step that the tile does not hold is impossible. -/
theorem NotHeld.completionSt {s : State} {t id : Nat} (h : NotHeld s t id) (gen : Nat) (st : Status) :
    completionSt t gen id st s = strangeStep t gen s := by
  unfold Machine.completionSt
  split
  · rfl
  · next x found =>
    obtain away | done | ⟨still, killed⟩ := h x found
    · simp [away]
    · simp [done]
    · simp [still, killed]

@[simp] theorem unitTile_tileUnit {t : Nat} (h : t < 64) : unitTile (tileUnit t) = some t := by
  unfold unitTile tileUnit
  rw [if_pos (by omega), Nat.add_sub_cancel_left]

/-- A tile's acknowledgement passes its Tile Port. -/
theorem ackSt_tileUnit {t : Nat} (h : t < 64) (gen id : Nat) (s : State) :
    ackSt (tileUnit t) gen id s = atPort t gen (tileAckSt t gen id) s := by
  simp [ackSt, h]

/-- The acknowledgement of a kill that neither a step nor a commit's STEP_KILL waits for is impossible. -/
theorem tileAckSt_strange {s : State} {t id : Nat} (gen : Nat)
    (kill : ∀ x, findStep s id = some x → ¬(x.phase = .killed ∧ tileUnit t ∈ x.unacked)) (owed : (t, id) ∉ s.coh.owed) :
    tileAckSt t gen id s = strangeStep t gen s := by
  have waits : ((findStep s id).any fun x => x.phase == .killed && x.unacked.contains (tileUnit t)) = false := by
    cases found : findStep s id with
    | none => rfl
    | some x => simpa using kill x found
  rw [tileAckSt, waits]
  simp [owed]

/-! ### An impossible message -/

theorem impossible_coh (t : Nat) (head : BitVec 128) (s : State) :
    (impossible t head s).coh = { s.coh with protocolErrs := satAdd 32 s.coh.protocolErrs 1 } := report_coh _ _

theorem impossible_mi (t : Nat) (head : BitVec 128) (s : State) : (impossible t head s).mi = s.mi := report_mi _ _

theorem impossible_steps (t : Nat) (head : BitVec 128) (s : State) : (impossible t head s).steps = s.steps := report_steps _ _

/-- It is reported as a U fault of kind COH_PROTOCOL with the sending Tile Port as source (R260, R421). -/
theorem exists_record_impossible (t : Nat) (head : BitVec 128) (s : State) :
    ∃ r ∈ (impossible t head s).fc.bbr, r.type = .fault ∧ r.cls = .u ∧ r.source = tileUnit t ∧ r.kind = 0x21 := by
  obtain ⟨r, mem, names⟩ := exists_names_report _ _
  exact ⟨r, mem, names.type, names.cls, names.source, names.kind⟩

/-! ### The commands -/

theorem exec_respI (m : TileMsg) (s : State) :
    exec (.respI m) s = .next (settle (message 0x21 m (tileAnswer m none false) s)) := rfl

theorem exec_respS (m : TileMsg) (s : State) :
    exec (.respS m) s = .next (settle (message 0x22 m (tileAnswer m none true) s)) := rfl

theorem exec_respIData (m : TileMsg) (d : Line) (parity : Nat) (s : State) : exec (.respIData m d parity) s =
    .next (settle (message 0x23 m (passData m parity none fun m => tileAnswer m (some (d, m.poison)) false) s)) := rfl

theorem exec_respSData (m : TileMsg) (d : Line) (parity : Nat) (s : State) : exec (.respSData m d parity) s =
    .next (settle (message 0x24 m (passData m parity none fun m => tileAnswer m (some (d, m.poison)) true) s)) := rfl

theorem exec_stashAck (f a : BitVec 64) (s : State) : exec (.stashAck f a) s =
    .next (settle (message 0x25 { head := f ++ a } (stashSt { head := f ++ a }) s)) := rfl

theorem exec_stepCompletion (t gen id : Nat) (st : Status) (s : State) :
    exec (.stepCompletion t gen id st) s = .next (settle (atPort t gen (completionSt t gen id st) s)) := rfl

theorem exec_killAcknowledgement (unit gen id : Nat) (s : State) :
    exec (.killAcknowledgement unit gen id) s = .next (settle (ackSt unit gen id s)) := rfl

/-- Settles O27: the port by its four outcomes, each impossible message by what fails to await or hold it, and the effect of
an impossible message by what a report leaves and records. -/
theorem tileMessagesDropped : Obligations.TileMessagesDropped := by
  refine ⟨fun i op m s hi => ?_, fun m d s home => ?_, fun m n k s home none_awaits => ?_, fun f a m s head pass none_awaits => ?_,
    fun t gen id st s port away => ?_, fun t gen id st s up ht fabric alive stale i hi => ?_, fun t head s => ?_⟩
  · obtain ⟨k, run⟩ := exec_of_tileMsgOf hi
    rw [run]
    refine ⟨fun out => ?_, fun up fabric alive stale => ?_, fun port illegal => ?_⟩
    · rw [message, atPort_discarded out]
    · rw [message, atPort_stale up fabric alive stale, staleTile]
    · rw [message_illegal port illegal]
  · have lone := unawaited_of_no_home home
    refine ⟨fun pass => ?_, fun pass => ?_, fun pass => ?_, fun pass => ?_⟩
    · rw [exec_respI, pass.message, lone.tileAnswer]
    · rw [exec_respS, pass.message, lone.tileAnswer]
    · rw [exec_respIData, pass.message, passData_whole pass.inject, lone.tileAnswer]
    · rw [exec_respSData, pass.message, passData_whole pass.inject, lone.tileAnswer]
  · have lone := unawaited_of_home home none_awaits
    refine ⟨fun pass => ?_, fun pass => ?_⟩
    · rw [exec_respI, pass.message, lone.tileAnswer]
    · rw [exec_respS, pass.message, lone.tileAnswer]
  · subst head
    rw [exec_stashAck, pass.message, Unawaited.stashSt none_awaits]
  · refine ⟨?_, fun kill owed ht => ?_⟩
    · rw [exec_stepCompletion, port.atPort, NotHeld.completionSt away]
    · rw [exec_killAcknowledgement, ackSt_tileUnit ht, port.atPort, tileAckSt_strange gen kill owed]
  · have dropped := fun k => (atPort_stale (k := k) up fabric alive stale)
    obtain rfl | rfl : i = .stepCompletion t gen id st ∨ i = .killAcknowledgement (tileUnit t) gen id := by simpa using hi
    · rw [exec_stepCompletion, dropped, staleTile]
    · rw [exec_killAcknowledgement, ackSt_tileUnit ht, dropped, staleTile]
  · exact ⟨impossible_coh t head s, impossible_mi t head s, impossible_steps t head s, exists_record_impossible t head s⟩

end Sys2Proof.Machine
end

section
/-!
SUPPORT. Starts that end in BOOT_FAIL (R28, R29), ERRPIN_CTL.CLEAR (R45) and the fields of BOOT_STATUS (R41).
-/
namespace Sys2Proof.Machine
open Sys2Proof

/-- A stage runs while power is on and STAGE shows it (R47). -/
theorem stageDue_of_stage {s : State} {g : Stage} (power : s.bnd.powered = true) (stage : s.bnd.stage = g) : stageDue s g = true := by
  simp [stageDue, power, stage]

/-- Without a stack MEM_TRAIN ends in BOOT_FAIL, and the recorder and the epoch stay as they are (R28). -/
theorem memTrainSt_all_failed {s : State} (held : BitVec 20) (a b : Bool) (c : BitVec 2) (power : s.bnd.powered = true)
    (stage : s.bnd.stage = .memTrain) : memTrainSt 0xFFFFF held a b c s =
      bootFail 0x03 { s with bnd := { s.bnd with stage := .memInit, stackExcluded := 0xFFFFF } } := by
  rw [memTrainSt, stageDue_of_stage power stage]
  rfl

/-- Without every cache die DIR_INIT ends in BOOT_FAIL, and no generation rises (R29). -/
theorem dirInitSt_die_failed {s : State} {dies : BitVec 4} (ok : Bool) (power : s.bnd.powered = true)
    (stage : s.bnd.stage = .dirInit) (failed : dies ≠ 0xF) : dirInitSt dies ok s = bootFail 0x02 (setStage .time s) := by
  rw [dirInitSt, stageDue_of_stage power stage]
  exact if_pos failed

/-- Settles O9: in the stage that is due, the failed stacks or dies decide before anything else is done. -/
theorem stacksAndDiesThatFail : Obligations.StacksAndDiesThatFail := by
  refine ⟨fun held a b c s power stage => ?_, fun dies ok s power stage failed => ?_⟩
  · exact congrArg Host.Outcome.next (memTrainSt_all_failed held a b c power stage)
  · exact congrArg Host.Outcome.next (dirInitSt_die_failed ok power stage failed)

theorem errpinClearSt_released {s : State} (up : live s = true) (asserted : s.bnd.errAsserted = true) (free : releasable s = true) :
    errpinClearSt s = releaseErr s := by
  simp [errpinClearSt, up, asserted, free]

/-- A pin that may not be released stays as it is (R45). -/
theorem errpinClearSt_held {s : State} (held : releasable s = false) : errpinClearSt s = s := by
  simp [errpinClearSt, held]

theorem stageCode_lt (g : Stage) : stageCode g < 2 ^ 4 := by cases g <;> decide

theorem b2n_le_one (b : Bool) : b2n b ≤ 1 := by cases b <;> decide

theorem bootStatus_stage (s : State) : fld (bootStatus s) 0 4 = stageCode s.bnd.stage := by
  have := stageCode_lt s.bnd.stage
  unfold fld bootStatus
  omega

theorem bootStatus_failCode (s : State) : bootStatus s / 2 ^ 16 = s.bnd.failCode := by
  have := stageCode_lt s.bnd.stage
  have := b2n_le_one s.tb.locked
  have := b2n_le_one s.bnd.warm
  have := b2n_le_one (s.bnd.stackExcluded ≠ 0)
  have := b2n_le_one s.bnd.ready
  unfold bootStatus
  omega

/-- Settles O11: whether the pin may be released decides the clear, and FAIL_CODE stands above fields that fit 16 bits. -/
theorem errPinClear : Obligations.ErrPinClear := by
  refine ⟨fun s up asserted valid acked => ?_, fun s u source pending => ?_, fun s invalid => ?_, by decide, fun s => ?_⟩
  · have free : releasable s = true := by simp only [releasable, valid, acked, Bool.not_false, Bool.and_self]
    exact congrArg Host.Outcome.next (errpinClearSt_released up asserted free)
  · have held : releasable s = false := by simp [releasable, source, pending]
    exact congrArg Host.Outcome.next (errpinClearSt_held held)
  · have held : releasable s = false := by simp [releasable, invalid]
    exact congrArg Host.Outcome.next (errpinClearSt_held held)
  · exact ⟨bootStatus_stage s, bootStatus_failCode s⟩

end Sys2Proof.Machine
end

section
/-!
SUPPORT. The tick grid and its lock (R8, R53, R54, R56, R57, R564, R565), and the PTP discipline of the time base (R58 to R60,
R386, R387, R439).
-/
namespace Sys2Proof.Machine
open Sys2Proof

/-! ### The registers of the tick grid and LOCK -/

theorem exec_tgPeriod (v : Word) (s : State) : exec (.tgPeriod v) s = .next (settle (periodSt v s)) := rfl
theorem exec_tickOrigin (off size : Nat) (v : Word) (s : State) :
    exec (.tickOrigin off size v) s = .next (settle (originSt off size v s)) := rfl
theorem exec_lock (s : State) : exec .lock s = .next (settle (lockSt s)) := rfl

section
variable {s : State} (up : live s = true)
include up

theorem periodSt_in_range {v : Word} (free : s.bnd.locked = false) (low : 32 ≤ fld v.toNat 0 12)
    (high : fld v.toNat 0 12 ≤ 4000) :
    periodSt v s = { s with tb := regrid { s.tb with periodUs := fld v.toNat 0 12 } } := by
  simp [periodSt, up, free, low, high]

/-- A period out of range leaves the grid as it is and sets CFG_ERR (R57). -/
theorem periodSt_out_of_range {v : Word} (free : s.bnd.locked = false) (out : fld v.toNat 0 12 < 32 ∨ 4000 < fld v.toNat 0 12) :
    periodSt v s = { s with tb := { s.tb with cfgErr := true } } := by
  simp [periodSt, up, free, out]

theorem originSt_whole {v : Word} (free : s.bnd.locked = false) :
    originSt 8 8 v s = { s with tb := regrid { s.tb with originNs := v.toNat } } := by
  simp [originSt, up, free, write64]

theorem lockSt_unlocked (free : s.bnd.locked = false) :
    lockSt s = { s with bnd := { s.bnd with locked := true, lockTick := s.tb.tick } } := by
  simp [lockSt, lockFields, up, free]

end

/-! A locked field drops the write (R8), and the lock stays as it is (R565). -/

theorem periodSt_locked {s : State} (held : s.bnd.locked = true) (v : Word) : periodSt v s = s := by
  simp [periodSt, held]

theorem originSt_locked {s : State} (held : s.bnd.locked = true) (off size : Nat) (v : Word) : originSt off size v s = s := by
  simp [originSt, held]

theorem lockSt_locked {s : State} (held : s.bnd.locked = true) : lockSt s = s := by
  simp [lockSt, lockFields, held]

/-! ### The slot of an instant -/

theorem periodNs_pos {t : TimeBase} (period : 32 ≤ t.periodUs) : 0 < periodNs t := by
  unfold periodNs
  omega

theorem intoFrame_lt {t : TimeBase} (pos : 0 < periodNs t) : intoFrame t < periodNs t := by
  have nonneg := Int.emod_nonneg ((t.now : Int) - t.originNs) (Int.natCast_ne_zero.mpr pos.ne')
  have lt := Int.emod_lt_of_pos ((t.now : Int) - t.originNs) (Int.natCast_pos.mpr pos)
  unfold intoFrame
  omega

/-- The sixteenth `k` of a frame of `P` ns has begun at `x` ns into it when `k` is at most this quotient (R54). -/
theorem sixteenth_le_iff {P : Nat} (pos : 0 < P) (x k : Nat) : k * P / 16 ≤ x ↔ k ≤ (16 * x + 15) / P := by
  rw [Nat.le_div_iff_mul_le pos]
  omega

/-- The slot numbers up to `q` are `q + 1`. -/
theorem length_filter_le_range : ∀ q < 16, ((List.range 16).filter fun k => k ≤ q).length = q + 1 := by decide

/-- The last sixteenth that has begun, in closed form. -/
theorem regrid_slot_eq {t : TimeBase} (pos : 0 < periodNs t) : (regrid t).slot = (16 * intoFrame t + 15) / periodNs t := by
  have below : (16 * intoFrame t + 15) / periodNs t < 16 := by
    have := intoFrame_lt pos
    rw [Nat.div_lt_iff_lt_mul pos]
    omega
  simp only [regrid, sixteenth_le_iff pos, length_filter_le_range _ below, Nat.add_sub_cancel]

/-- The slot has begun (R54). -/
theorem regrid_slot_begun {t : TimeBase} (pos : 0 < periodNs t) : (regrid t).slot * periodNs t / 16 ≤ intoFrame t :=
  (sixteenth_le_iff pos _ _).mpr (regrid_slot_eq pos).le

/-- The next slot has not (R54). -/
theorem regrid_slot_not_over {t : TimeBase} (pos : 0 < periodNs t) :
    intoFrame t < ((regrid t).slot + 1) * periodNs t / 16 := by
  rw [← not_le, sixteenth_le_iff pos, regrid_slot_eq pos]
  omega

/-- The tick number is the low 48 bits of the count of frames since the origin (R53, R56). -/
theorem regrid_tick (t : TimeBase) : ((regrid t).tick : Int) = ((t.now : Int) - t.originNs) / periodNs t % 2 ^ 48 :=
  Int.toNat_of_nonneg (Int.emod_nonneg _ (by decide))

/-! ### PTP messages -/

section
variable (p d : Nat) (o : Int) (par : Nat) (s : State)

theorem exec_ptpSync (two : Bool) : exec (.ptpSync p d two o par) s = .next (settle (ptpRow p d par (syncMsgSt two o) s)) := rfl
theorem exec_ptpFollowUp : exec (.ptpFollowUp p d o par) s = .next (settle (ptpRow p d par (followUpSt o) s)) := rfl
theorem exec_ptpDelayResp : exec (.ptpDelayResp p d o par) s = .next (settle (ptpRow p d par (delayRespSt o) s)) := rfl

end

/-- A message that is dropped whatever handles it is dropped in each of its three forms. -/
theorem exec_ptp_dropped {p d par : Nat} {s t : State} (dropped : ∀ k, ptpRow p d par k s = t) (two : Bool) (o : Int) :
    ∀ i ∈ [Instr.ptpSync p d two o par, .ptpFollowUp p d o par, .ptpDelayResp p d o par], exec i s = .next (settle t) := by
  simp [exec_ptpSync, exec_ptpFollowUp, exec_ptpDelayResp, dropped]

/-- A message on its port and domain whose data arrives whole is handled (R386, R439). -/
theorem ptpRow_whole {s0 s : State} {p d par : Nat} (takes : ptpTakes s0 p d = true)
    (whole : transfer (0x800 + p) none par s0 = (false, s)) (k : State → State) : ptpRow p d par k s0 = k s := by
  simp [ptpRow, fromPort, takes, whole]

/-- One whose data is damaged twice is dropped (R439). -/
theorem ptpRow_damaged {s0 s : State} {p d par : Nat} (takes : ptpTakes s0 p d = true)
    (damaged : transfer (0x800 + p) none par s0 = (true, s)) (k : State → State) : ptpRow p d par k s0 = dropAt p s := by
  simp [ptpRow, fromPort, takes, damaged]

/-- One on another port or in another domain is dropped (R386). -/
theorem ptpRow_foreign {s : State} {p d : Nat} (foreign : ptpTakes s p d = false) (par : Nat) (k : State → State) :
    ptpRow p d par k s = dropAt p s := by
  simp [ptpRow, foreign]

/-- What a port drops while its link is up, it counts (R383). -/
theorem dropAt_linked {s : State} {p : Nat} (power : s.bnd.powered = true) (bound : p < 8) (link : (port s p).linkUp = true) :
    dropAt p s = modPort p (fun x => { x with rxDrops := satAdd 64 x.rxDrops 1 }) s := by
  simp [dropAt, power, bound, link]

/-! ### Timestamps and samples -/

/-- A timestamp draws one free value. -/
theorem stamp_snd (s : State) : (stamp s).2 = { s with freeCount := s.freeCount + 1 } := rfl

/-- A timestamp lies within 4 ns of the time base (R387). -/
theorem stamp_near (s : State) : (s.tb.now : Int) - 4 ≤ (stamp s).1 ∧ (stamp s).1 ≤ s.tb.now + 4 := by
  have := Nat.mod_lt (fresh 8 s).1 (show 0 < 9 by decide)
  have time : (fresh 8 s).2.tb = s.tb := rfl
  simp only [stamp, time]
  omega

theorem syncMsgSt_oneStep {s s1 : State} {a : Int} (arrival : stamp s = (a, s1)) (o : Int) :
    syncMsgSt false o s = syncSample a o s1 := by
  simp [syncMsgSt, arrival]

theorem syncMsgSt_twoStep {s s1 : State} {a : Int} (arrival : stamp s = (a, s1)) (o : Int) :
    syncMsgSt true o s = { s1 with tb := { s1.tb with syncArrival := some a } } := by
  simp [syncMsgSt, arrival]

/-- The Delay_Req of a Sync leaves out of the PTP port, under the timestamp drawn after the sample (R386, R387). -/
theorem syncSample_eq {a o t : Int} {s s1 : State} (sent : stamp (offsetSample (a - o - s.tb.delay)
      { s with tb := { s.tb with syncArrival := none, syncDiff := a - o } }) = (t, s1)) :
    syncSample a o s = { s1 with tb := { s1.tb with delayReq := some t }
                                 out := .delayReq s.nu.ptpPort s.nu.ptpDomain :: s1.out } := by
  have nu : s1.nu = s.nu := (congrArg (fun x => x.2.nu) sent).symm
  unfold syncSample
  dsimp only
  rw [sent, emit, nu]

theorem followUpSt_of_sync {s : State} {a : Int} (waits : s.tb.syncArrival = some a) (o : Int) :
    followUpSt o s = syncSample a o s := by
  simp [followUpSt, waits]

theorem followUpSt_of_none {s : State} (empty : s.tb.syncArrival = none) (o : Int) : followUpSt o s = s := by
  simp [followUpSt, empty]

theorem delayRespSt_of_req {s : State} {t : Int} (waits : s.tb.delayReq = some t) (o : Int) :
    delayRespSt o s = { s with tb := { s.tb with delay := (s.tb.syncDiff + (o - t)) / 2, delayReq := none } } := by
  simp [delayRespSt, waits]

theorem delayRespSt_of_none {s : State} (empty : s.tb.delayReq = none) (o : Int) : delayRespSt o s = s := by
  simp [delayRespSt, empty]

/-- Under a staged plan a sample filters the offset and never moves the time base (R59). -/
theorem offsetSample_staged {s : State} (staged : s.ps.staged = true) (r : Int) :
    offsetSample r s = { s with tb := relock (Config.ptpFilter s.tb.offset r) s.tb } := by
  simp [offsetSample, staged]

/-! ### The lock (R58) -/

/-- An unlocked time base locks on the sixteenth offset in a row within 25 ns, and on nothing else. -/
theorem relock_locks_iff {t : TimeBase} (unlocked : t.locked = false) (f : Int) :
    (relock f t).locked = true ↔ f.natAbs ≤ 25 ∧ 15 ≤ t.inRun := by
  by_cases near : f.natAbs ≤ 25 <;> simp [relock, unlocked, near]

/-- A locked one unlocks on the fourth in a row beyond 40 ns, and on nothing else. -/
theorem relock_unlocks_iff {t : TimeBase} (locked : t.locked = true) (f : Int) :
    (relock f t).locked = false ↔ 40 < f.natAbs ∧ 3 ≤ t.outRun := by
  by_cases far : 40 < f.natAbs <;> simp [relock, locked, far]

/-- Settles O13: the registers by whether they are locked, the slot by its closed form, and a PTP message by whether its port
takes it, and then by whether its data arrives whole. -/
theorem tickGridAndPtp : Obligations.TickGridAndPtp := by
  refine ⟨fun v s up free low high => ?_, fun v s up free out => ?_, fun v s up free => ?_, fun v off size s _ held => ?_,
    fun s up free => ?_, fun t period => ?_, fun p d o a par s0 s s1 takes whole arrival => ?_,
    fun s => ⟨stamp_snd s, stamp_near s⟩, fun a o t s s1 sent => syncSample_eq sent, fun p d o par s0 s takes whole => ?_,
    fun u n s off => transfer_whole off u n, fun p d two o par s0 s takes damaged => ?_,
    fun p d two o par s foreign power bound link => ⟨_, rfl, ?_⟩, fun r s staged => ?_, fun f t => ?_⟩
  · rw [exec_tgPeriod, periodSt_in_range up free low high]
  · rw [exec_tgPeriod, periodSt_out_of_range up free out]
  · rw [exec_tickOrigin, originSt_whole up free]
  · rw [exec_tgPeriod, exec_tickOrigin, exec_lock, periodSt_locked held, originSt_locked held, lockSt_locked held]
    exact ⟨rfl, rfl, rfl⟩
  · rw [exec_lock, lockSt_unlocked up free]
  · have pos := periodNs_pos period
    exact ⟨regrid_slot t, regrid_slot_begun pos, regrid_slot_not_over pos, regrid_tick t⟩
  · have handled := ptpRow_whole takes whole
    refine ⟨?_, ?_⟩
    · rw [exec_ptpSync, handled, syncMsgSt_oneStep arrival]
    · rw [exec_ptpSync, handled, syncMsgSt_twoStep arrival]
  · have handled := ptpRow_whole takes whole
    refine ⟨fun a waits => ?_, fun empty => ?_, fun t waits => ?_, fun empty => ?_⟩
    · rw [exec_ptpFollowUp, handled, followUpSt_of_sync waits]
    · rw [exec_ptpFollowUp, handled, followUpSt_of_none empty]
    · rw [exec_ptpDelayResp, handled, delayRespSt_of_req waits]
    · rw [exec_ptpDelayResp, handled, delayRespSt_of_none empty]
  · exact exec_ptp_dropped (ptpRow_damaged takes damaged) two o
  · rw [exec_ptpSync, exec_ptpFollowUp, exec_ptpDelayResp]
    simp only [ptpRow_foreign foreign, dropAt_linked power bound link, and_self]
  · rw [offsetSample_staged staged]
    exact ⟨rfl, rfl, rfl, rfl⟩
  · cases lock : t.locked with
    | false =>
      have locks := relock_locks_iff lock f
      exact ⟨fun now => .inr (locks.mp now), nofun, fun near run _ => locks.mpr ⟨near, run⟩⟩
    | true => exact ⟨fun _ => .inl rfl, fun _ => (relock_unlocks_iff lock f).mp, nofun⟩

end Sys2Proof.Machine
end

section
/-!
SUPPORT. The fault state of a source (R424, R432): a FAULT record of its own enters and extends it, an EVENT or RESET record only
counts, and FAULT_STATE_EXIT ends it once QUIET_S has passed without a FAULT record.
-/
namespace Sys2Proof.Machine
open Sys2Proof

/-! ### What enters the fault state -/

/-- Whichever flag its class sets, a FAULT record puts its source in the fault state at the present instant. -/
theorem srcAfter_faultState (r : Src) (cl : FClass) (step now : Nat) :
    (srcAfter r cl step now).inFault = true ∧ (srcAfter r cl step now).lastNs = now := by
  cases cl <;> exact ⟨rfl, rfl⟩

/-- A report that coalesces with no record changes its source's entry, and no other. -/
theorem report_src {m : FMsg} {s : State} (own : coalesces s m = false) : ∃ step, (report m s).fc.src =
    tput s.fc.src m.source (srcAfter (tget {} s.fc.src m.source) (kindClass m.kind) step s.tb.now) := by
  unfold report
  rw [if_neg (by simp [own])]
  dsimp only
  rw [(react_reactsTo _ _ _).fc]
  split
  · split <;> exact ⟨_, rfl⟩
  · exact ⟨_, rfl⟩

/-! ### What neither enters nor extends it -/

/-- A record counted at one source changes the fault state of none. -/
theorem tget_count_faultState (t : Tab Src) (k u : Nat) (f : Src → Nat) :
    (tget {} (tmod {} t k fun r => { r with count := f r }) u).inFault = (tget {} t u).inFault ∧
    (tget {} (tmod {} t k fun r => { r with count := f r }) u).lastNs = (tget {} t u).lastNs := by
  by_cases same : u = k
  · subst same
    rw [tget_tmod_self]
    exact ⟨rfl, rfl⟩
  · rw [tget_tmod_ne _ _ _ same]
    exact ⟨rfl, rfl⟩

theorem event_src (src : Nat) (st : Status) (part : Option Nat) (detail : Nat) (s : State) :
    (event src st part detail s).fc.src = tmod {} s.fc.src src fun r => { r with count := satAdd 16 r.count 1 } := rfl

theorem resetRecord_src (sc i g : Nat) (c : Cause) (k a : Bool) (part : Option Nat) (s : State) :
    (resetRecord sc i g c k a part s).fc.src = tmod {} s.fc.src 0xA02 fun r => { r with count := satAdd 16 r.count 1 } := rfl

/-! ### What ends it -/

theorem exec_faultStateExit (u : Nat) (s : State) : exec (.faultStateExit u) s = .next (settle (faultExitSt u s)) := rfl

/-- A source in the fault state of a running device leaves it once QUIET_S has passed since its last FAULT record. -/
theorem faultExitSt_quiet {u : Nat} {s : State} (power : s.bnd.powered = true) (runs : s.tb.running = true)
    (free : s.cu.halted = false) (inFault : (tget {} s.fc.src u).inFault = true)
    (quiet : (tget {} s.fc.src u).lastNs + s.fc.quietS * 10 ^ 9 ≤ s.tb.now) :
    faultExitSt u s = { s with fc := { s.fc with
      src := tput s.fc.src u { tget {} s.fc.src u with
        inFault := false, pendF := false, pendU := false, pendC := false, stepF := 0, stepU := 0, stepC := 0 }
      recoveries := satAdd 32 s.fc.recoveries 1 } } := by
  simp [faultExitSt, power, runs, free, inFault, quiet, -Nat.reducePow]

/-- No source of a halted device leaves it, none that is not in it, and none before QUIET_S has passed. -/
theorem faultExitSt_held {u : Nat} {s : State} (held : s.cu.halted = true ∨ (tget {} s.fc.src u).inFault = false ∨
    s.tb.now < (tget {} s.fc.src u).lastNs + s.fc.quietS * 10 ^ 9) : faultExitSt u s = s := by
  obtain halted | outside | early := held
  · simp [faultExitSt, halted]
  · simp [faultExitSt, outside]
  · simp [faultExitSt, early, -Nat.reducePow]

/-- Settles O37: a FAULT record writes its source's entry, an EVENT or RESET record only its count, and the exit asks that the
device runs, that the source is in the fault state and that QUIET_S has passed. -/
theorem faultStateEnds : Obligations.FaultStateEnds := by
  refine ⟨fun m s own => ?_, fun src st part detail u s => ?_, fun sc i g c k a part u s => ?_, fun u r s power runs entry => ?_⟩
  · obtain ⟨step, src⟩ := report_src own
    rw [src, tget_tput_self]
    exact srcAfter_faultState _ _ _ _
  · rw [event_src]
    exact tget_count_faultState _ _ _ _
  · rw [resetRecord_src]
    exact tget_count_faultState _ _ _ _
  · subst entry
    rw [exec_faultStateExit]
    exact ⟨fun free inFault quiet => by rw [faultExitSt_quiet power runs free inFault quiet],
      fun held => by rw [faultExitSt_held held]⟩

end Sys2Proof.Machine
end

section
/-!
SUPPORT. A command that is a meaning on the state goes on to what that meaning gives, and to what follows from it at once.
-/
namespace Sys2Proof.Machine
open Sys2Proof

/-- A command goes on to what its meaning gives. -/
theorem runs {s t : State} (h : s = t) : (Host.Outcome.next s : Host.Outcome State Fault Refusal) = .next t := by
  rw [h]

/-- A command goes on to what its meaning gives and what follows from it at once. -/
theorem settles {s t : State} (h : s = t) :
    (Host.Outcome.next (settle s) : Host.Outcome State Fault Refusal) = .next (settle t) := by
  rw [h]

/-- A walk over a list keeps a view of the state that each of its steps keeps. -/
theorem foldl_same {α β σ : Type} (g : σ → β) {f : σ → α → σ} (h : ∀ s a, g (f s a) = g s) (l : List α) (s : σ) :
    g (l.foldl f s) = g s := by
  induction l generalizing s with
  | nil => rfl
  | cons a l ih => exact (ih _).trans (h s a)

/-- Every group of state, and the armed deal. -/
def allKept : Goals := { tb := true, plan := true, boot := true, life := true, legal := false, arm := true }

/-- A state keeps all of itself. -/
theorem inv_all (s : State) : Inv allKept s s := Inv.refl allKept s nofun

end Sys2Proof.Machine
end

section
/-!
SUPPORT. What every command keeps: each goes on, and by the lemma of its meaning (`<meaning>_inv`) it keeps the legal machine and
the groups of state that `keeps` lists for it.
-/
namespace Sys2Proof.Machine
open Sys2Proof

/-- What is asked of a command: the groups that `keeps` lists, and the legal machine if `legal` is set. -/
def asked (legal : Bool) (c : Instr) : Goals := { keeps c with legal := legal, arm := false }

theorem inv_ite {K : Goals} {ρ s t : State} {p : Prop} [Decidable p] (hs : Inv K ρ s) (ht : Inv K ρ t) :
    Inv K ρ (if p then s else t) := by
  split
  · exact hs
  · exact ht

/-- The Trust Core's registers are outside every group but OTP and the life-cycle state. -/
theorem Inv.setTc {K : Goals} {ρ s : State} {t : Trust} (otp : t.otp = s.tc.otp) (lc : t.lc = s.tc.lc) (h : Inv K ρ s) :
    Inv K ρ { s with tc := t } :=
  Inv.put rfl rfl rfl rfl rfl rfl rfl rfl rfl rfl otp rfl rfl rfl rfl rfl ⟨rfl, rfl, rfl, rfl, rfl⟩ rfl rfl rfl lc h

/-- Every command goes on and keeps what is asked of it. -/
theorem exec_inv {legal : Bool} {s : State} (h : legal = true → LegalV (view s) (view s)) (c : Instr) :
    ∃ t, exec c s = .next t ∧ Inv (asked legal c) s t := by
  have hI : Inv (asked legal c) s s := Inv.refl _ s h
  cases c with
  | powerUp => exact ⟨_, rfl, powerUpSt_inv _ rfl hI⟩
  | powerRemoved => exact ⟨_, rfl, powerRemovedSt_inv _ rfl rfl rfl rfl rfl hI⟩
  | fundamentalReset => exact ⟨_, rfl, fundamentalSt_inv _ hI⟩
  | configurationRequest _ => exact ⟨_, rfl, cfgSt_inv _ _ hI⟩
  | tcBoot _ => exact ⟨_, rfl, tcBootSt_inv _ _ rfl rfl hI⟩
  | fwVerify _ => exact ⟨_, rfl, fwVerifySt_inv _ _ rfl hI⟩
  | keys _ _ => exact ⟨_, rfl, keysSt_inv _ _ _ rfl hI⟩
  | memTrain _ _ _ _ _ => exact ⟨_, rfl, memTrainSt_inv _ _ _ _ _ _ rfl hI⟩
  | memInit _ => exact ⟨_, rfl, memInitSt_inv _ _ rfl hI⟩
  | dirInit _ _ => exact ⟨_, rfl, dirInitSt_inv _ _ _ rfl hI⟩
  | time => exact ⟨_, rfl, timeSt_inv _ rfl rfl hI⟩
  | stageBoundExpiry _ => exact ⟨_, rfl, stageExpirySt_inv _ _ rfl hI⟩
  | chipReset => exact ⟨_, rfl, chipResetSt_inv _ rfl rfl rfl rfl hI⟩
  | preparationTimeout => exact ⟨_, rfl, prepTimeoutSt_inv _ hI⟩
  | getBootStatus => exact ⟨_, rfl, bootStatusSt_inv _ hI⟩
  | getFaultSummary => exact ⟨_, rfl, faultSummarySt_inv _ hI⟩
  | clearErrPin => exact ⟨_, rfl, clearErrSt_inv _ hI⟩
  | requestChipReset => exact ⟨_, rfl, requestResetSt_inv _ hI⟩
  | ackPowerCycle => exact ⟨_, rfl, ackPowerSt_inv _ hI⟩
  | mctpOtherCode _ => exact ⟨_, rfl, otherCodeSt_inv _ _ hI⟩
  | powerCycleRequestRepeat => exact ⟨_, rfl, powerRepeatSt_inv _ hI⟩
  | errpinClear => exact ⟨_, rfl, errpinClearSt_inv _ hI⟩
  | functionLevelResetVf _ => exact ⟨_, rfl, settle_inv _ (flrVfSt_inv _ _ hI)⟩
  | functionLevelResetPf => exact ⟨_, rfl, flrPfSt_inv _ hI⟩
  | registerWrite _ _ _ _ _ => exact ⟨_, rfl, settle_inv _ (atBar_inv _ _ _ _ (fun _ h => registerSt_inv _ _ _ _ _ rfl rfl h) hI)⟩
  | tgPeriod _ => exact ⟨_, rfl, settle_inv _ (periodSt_inv _ _ rfl hI)⟩
  | tickOrigin _ _ _ => exact ⟨_, rfl, settle_inv _ (originSt_inv _ _ _ _ rfl hI)⟩
  | lock => exact ⟨_, rfl, settle_inv _ (lockSt_inv _ hI)⟩
  | tick _ => exact ⟨_, rfl, settle_inv _ (tickSt_inv _ _ rfl rfl rfl rfl rfl hI)⟩
  | fabricPresentRise => exact ⟨_, rfl, settle_inv _ (riseSt_inv _ hI)⟩
  | slotBoundary => exact ⟨_, rfl, settle_inv _ (slotSt_inv _ rfl hI)⟩
  | commit _ => exact ⟨_, rfl, settle_inv _ (commitSt_inv _ _ hI)⟩
  | sweepVisit _ => exact ⟨_, rfl, settle_inv _ (inv_ite (visitSt_inv _ _ _ _ _ hI) hI)⟩
  | scrubEnd _ => exact ⟨_, rfl, settle_inv _ (scrubEndSt_inv _ _ hI)⟩
  | waySweepEnd _ _ => exact ⟨_, rfl, settle_inv _ (waySweepSt_inv _ _ _ hI)⟩
  | flushWalkEnd => exact ⟨_, rfl, settle_inv _ (inv_ite (Inv.foldl _ (fun _ _ h => endFlush_inv _ _ h) hI) hI)⟩
  | memoryDataReturn _ _ _ _ _ _ => exact ⟨_, rfl, settle_inv _ (dataReturnSt_inv _ _ _ _ _ _ _ hI)⟩
  | verificationDone _ _ _ => exact ⟨_, rfl, settle_inv _ (verifySt_inv _ _ _ _ hI)⟩
  | faultStateExit _ => exact ⟨_, rfl, settle_inv _ (faultExitSt_inv _ _ hI)⟩
  | engineShareComplete _ _ _ => exact ⟨_, rfl, settle_inv _ (fromEngine_inv _ _ _ _ (shareSt_inv _ _ _ _) hI)⟩
  | ptpSync _ _ _ _ _ => exact ⟨_, rfl, settle_inv _ (ptpRow_inv _ _ _ _ _ (fun _ h => syncMsgSt_inv _ _ _ rfl h) hI)⟩
  | ptpFollowUp _ _ _ _ => exact ⟨_, rfl, settle_inv _ (ptpRow_inv _ _ _ _ _ (fun _ h => followUpSt_inv _ _ rfl h) hI)⟩
  | ptpDelayResp _ _ _ _ => exact ⟨_, rfl, settle_inv _ (ptpRow_inv _ _ _ _ _ (fun _ h => delayRespSt_inv _ _ rfl h) hI)⟩
  | check _ _ => exact ⟨_, rfl, settle_inv _ (checkSt_inv _ _ _ rfl hI)⟩
  | cancel _ => exact ⟨_, rfl, settle_inv _ (cancelSt_inv _ _ rfl hI)⟩
  | planCheckDone _ _ => exact ⟨_, rfl, settle_inv _ (checkDoneSt_inv _ _ _ rfl hI)⟩
  | psHold _ => exact ⟨_, rfl, settle_inv _ (psHoldSt_inv _ _ hI)⟩
  | holdRecall _ => exact ⟨_, rfl, settle_inv _ (holdRecallSt_inv _ _ hI)⟩
  | request _ => exact ⟨_, rfl, settle_inv _ (requestSt_inv _ _ hI)⟩
  | deadlineExpiry _ _ => exact ⟨_, rfl, settle_inv _ (deadlineSt_inv _ _ _ hI)⟩
  | sHello _ => exact ⟨_, rfl, settle_inv _ (sessionRow_inv _ _ _ _ _ (fun _ _ _ _ h => helloSt_inv _ _ _ _ _ h) hI)⟩
  | sFinish _ => exact ⟨_, rfl, settle_inv _ (sessionRow_inv _ _ _ _ _ (fun _ _ _ _ h => agreementSt_inv _ _ _ _ h) hI)⟩
  | agreementTimeout _ => exact ⟨_, rfl, settle_inv _ (Inv.setTc rfl rfl hI)⟩
  | tenantKeysWrite _ _ _ _ _ => exact ⟨_, rfl, settle_inv _ (atBar_inv _ _ _ _ (tenantWriteSt_inv _ _ _ _) hI)⟩
  | doorbell _ _ _ _ _ => exact ⟨_, rfl, settle_inv _ (atBar_inv _ _ _ _ (doorbellSt_inv _ _ _ _) hI)⟩
  | tagReread _ _ => exact ⟨_, rfl, settle_inv _ (tagSt_inv _ _ _ hI)⟩
  | descriptorReadFail _ _ => exact ⟨_, rfl, settle_inv _ (readFailSt_inv _ _ _ hI)⟩
  | unassignedOpcode _ => exact ⟨_, rfl, settle_inv _ (unassignedSt_inv _ _ hI)⟩
  | nop _ => exact ⟨_, rfl, settle_inv _ (fetchDo_inv _ _ _ _ nopBody_inv hI)⟩
  | cond _ => exact ⟨_, rfl, settle_inv _ (fetchDo_inv _ _ _ _ condBody_inv hI)⟩
  | loop _ => exact ⟨_, rfl, settle_inv _ (fetchDo_inv _ _ _ _ loopBody_inv hI)⟩
  | jump _ => exact ⟨_, rfl, settle_inv _ (fetchDo_inv _ _ _ _ jumpBody_inv hI)⟩
  | waitSync _ => exact ⟨_, rfl, settle_inv _ (waitSt_inv _ _ hI)⟩
  | signalSync _ => exact ⟨_, rfl, settle_inv _ (fetchDo_inv _ _ _ _ signalBody_inv hI)⟩
  | loadParam _ => exact ⟨_, rfl, settle_inv _ (loadSt_inv _ _ hI)⟩
  | tileStep _ => exact ⟨_, rfl, settle_inv _ (tileSt_inv _ _ hI)⟩
  | lrePool _ => exact ⟨_, rfl, settle_inv _ (fetchDo_inv _ _ _ _ workBody_inv hI)⟩
  | lrePqscan _ => exact ⟨_, rfl, settle_inv _ (fetchDo_inv _ _ _ _ workBody_inv hI)⟩
  | lreUpdate _ => exact ⟨_, rfl, settle_inv _ (fetchDo_inv _ _ _ _ workBody_inv hI)⟩
  | copy _ => exact ⟨_, rfl, settle_inv _ (fetchDo_inv _ _ _ _ copyBody_inv hI)⟩
  | prefetch _ => exact ⟨_, rfl, settle_inv _ (fetchDo_inv _ _ _ _ workBody_inv hI)⟩
  | advise _ => exact ⟨_, rfl, settle_inv _ (fetchDo_inv _ _ _ _ workBody_inv hI)⟩
  | remoteGather _ => exact ⟨_, rfl, settle_inv _ (fetchDo_inv _ _ _ _ gatherBody_inv hI)⟩
  | digest _ => exact ⟨_, rfl, settle_inv _ (fetchDo_inv _ _ _ _ digestBody_inv hI)⟩
  | map _ => exact ⟨_, rfl, settle_inv _ (fetchDo_inv _ _ _ _ mapBody_inv hI)⟩
  | unmap _ => exact ⟨_, rfl, settle_inv _ (fetchDo_inv _ _ _ _ unmapBody_inv hI)⟩
  | objRef _ => exact ⟨_, rfl, settle_inv _ (fetchDo_inv _ _ _ _ refBody_inv hI)⟩
  | objUnref _ => exact ⟨_, rfl, settle_inv _ (fetchDo_inv _ _ _ _ unrefBody_inv hI)⟩
  | ckpt _ => exact ⟨_, rfl, settle_inv _ (ckptSt_inv _ _ hI)⟩
  | createQueue _ => exact ⟨_, rfl, settle_inv _ (createSt_inv _ _ hI)⟩
  | destroyQueue _ => exact ⟨_, rfl, settle_inv _ (fetchDo_inv _ _ _ _ destroyBody_inv hI)⟩
  | contextRevoke _ => exact ⟨_, rfl, settle_inv _ (fetchDo_inv _ _ _ _ revokeBody_inv hI)⟩
  | resetContext _ => exact ⟨_, rfl, settle_inv _ (fetchDo_inv _ _ _ _ resetContextBody_inv hI)⟩
  | resetEngine _ => exact ⟨_, rfl, settle_inv _ (fetchDo_inv _ _ _ _ resetEngineBody_inv hI)⟩
  | resetPartition _ => exact ⟨_, rfl, settle_inv _ (fetchDo_inv _ _ _ _ resetPartitionBody_inv hI)⟩
  | resetChip _ => exact ⟨_, rfl, settle_inv _ (fetchDo_inv _ _ _ _ resetChipBody_inv hI)⟩
  | flushKeyid _ => exact ⟨_, rfl, settle_inv _ (fetchDo_inv _ _ _ _ flushBody_inv hI)⟩
  | retireKeyid _ => exact ⟨_, rfl, settle_inv _ (fetchDo_inv _ _ _ _ retireBody_inv hI)⟩
  | dump _ => exact ⟨_, rfl, settle_inv _ (fetchDo_inv _ _ _ _ dumpBody_inv hI)⟩
  | captureComplete => exact ⟨_, rfl, settle_inv _ (captureSt_inv _ hI)⟩
  | colReadTimeout _ => exact ⟨_, rfl, settle_inv _ (colSt_inv _ _ hI)⟩
  | killAckTimeout => exact ⟨_, rfl, settle_inv _ (killTimeoutSt_inv _ hI)⟩
  | recallWalkEnd _ => exact ⟨_, rfl, settle_inv _ (walkEndSt_inv _ _ hI)⟩
  | quietIntervalEnd => exact ⟨_, rfl, settle_inv _ (quietSt_inv _ hI)⟩
  | replayHang => exact ⟨_, rfl, settle_inv _ (replayHangSt_inv _ hI)⟩
  | dumpBaseWrite _ _ _ _ _ _ => exact ⟨_, rfl, settle_inv _ (atBar_inv _ _ _ _ (dumpBaseSt_inv _ _ _ _ _) hI)⟩
  | completionWriteFail _ => exact ⟨_, rfl, settle_inv _ (writeFailSt_inv _ _ hI)⟩
  | rearm _ _ => exact ⟨_, rfl, settle_inv _ (rearmSt_inv _ _ _ hI)⟩
  | cqHeadWrite _ _ _ _ => exact ⟨_, rfl, settle_inv _ (atBar_inv _ _ _ _ (cqHeadSt_inv _ _ _) hI)⟩
  | admqEnable _ _ => exact ⟨_, rfl, settle_inv _ (atBar_inv _ _ _ _ (admqSt_inv _) hI)⟩
  | evqHeadWrite _ _ _ => exact ⟨_, rfl, settle_inv _ (atBar_inv _ _ _ _ (evqHeadSt_inv _ _) hI)⟩
  | tuAnswerRetry _ _ _ _ _ => exact ⟨_, rfl, settle_inv _ (atBar_inv _ _ _ _ (retrySt_inv _ _ _ _) hI)⟩
  | tuAnswerFail _ _ _ => exact ⟨_, rfl, settle_inv _ (atBar_inv _ _ _ _ (answerFailSt_inv _ _) hI)⟩
  | atsTranslationCompletion _ _ _ => exact ⟨_, rfl, settle_inv _ (atsSt_inv _ _ _ _ hI)⟩
  | pageRequestGroupResponse _ _ => exact ⟨_, rfl, settle_inv _ (pageSt_inv _ _ _ hI)⟩
  | atsInvalidateRequest _ _ _ => exact ⟨_, rfl, settle_inv _ (invalidateSt_inv _ _ _ _ hI)⟩
  | invalidateCompletion _ _ _ => exact ⟨_, rfl, settle_inv _ (invalidDoneSt_inv _ _ _ _ hI)⟩
  | rds _ => exact ⟨_, rfl, settle_inv _ (reqSt_inv _ _ _ _ hI)⟩
  | rdu _ => exact ⟨_, rfl, settle_inv _ (reqSt_inv _ _ _ _ hI)⟩
  | upg _ => exact ⟨_, rfl, settle_inv _ (reqSt_inv _ _ _ _ hI)⟩
  | atom _ _ _ _ => exact ⟨_, rfl, settle_inv _ (dataReqSt_inv _ _ _ _ _ _ _ hI)⟩
  | wbm _ _ _ => exact ⟨_, rfl, settle_inv _ (dataReqSt_inv _ _ _ _ _ _ _ hI)⟩
  | wbc _ _ _ => exact ⟨_, rfl, settle_inv _ (dataReqSt_inv _ _ _ _ _ _ _ hI)⟩
  | respI _ => exact ⟨_, rfl, settle_inv _ (message_inv _ _ _ _ (tileAnswer_inv _ _ _) hI)⟩
  | respS _ => exact ⟨_, rfl, settle_inv _ (message_inv _ _ _ _ (tileAnswer_inv _ _ _) hI)⟩
  | respIData _ _ _ => exact ⟨_, rfl, settle_inv _ (message_inv _ _ _ _ (fun _ h => passData_inv _ _ _ _ _ (fun _ _ h => tileAnswer_inv _ _ _ _ h) h) hI)⟩
  | respSData _ _ _ => exact ⟨_, rfl, settle_inv _ (message_inv _ _ _ _ (fun _ h => passData_inv _ _ _ _ _ (fun _ _ h => tileAnswer_inv _ _ _ _ h) h) hI)⟩
  | stashAck _ _ => exact ⟨_, rfl, settle_inv _ (message_inv _ _ _ _ (stashSt_inv _) hI)⟩
  | stepCompletion _ _ _ _ => exact ⟨_, rfl, settle_inv _ (atPort_inv _ _ _ _ (completionSt_inv _ _ _ _) hI)⟩
  | killAcknowledgement _ _ _ => exact ⟨_, rfl, settle_inv _ (ackSt_inv _ _ _ _ hI)⟩
  | snoopTimeout _ => exact ⟨_, rfl, settle_inv _ (snoopTimeoutSt_inv _ _ hI)⟩
  | hostMemoryRead _ => exact ⟨_, rfl, settle_inv _ (hostReadSt_inv _ _ hI)⟩
  | hostMemoryWrite _ _ _ => exact ⟨_, rfl, settle_inv _ (hostWriteSt_inv _ _ _ _ hI)⟩
  | pcieAtomicOp _ _ _ _ _ _ => exact ⟨_, rfl, settle_inv _ (pcieAtomSt_inv _ _ _ _ _ _ _ hI)⟩
  | debugRequest _ _ _ _ => exact ⟨_, rfl, settle_inv _ (debugSt_inv _ _ _ _ _ hI)⟩
  | linkUp _ => exact ⟨_, rfl, settle_inv _ (linkUpSt_inv _ _ hI)⟩
  | ingressDrop _ => exact ⟨_, rfl, settle_inv _ (dropAt_inv _ _ hI)⟩
  | hello _ _ _ => exact ⟨_, rfl, settle_inv _ (foaRow_inv _ _ _ (fun _ _ _ h => by split; exacts [helloMsgSt_inv _ _ _ _ h, h]) hI)⟩
  | helloAck _ _ _ _ => exact ⟨_, rfl, settle_inv _ (foaRow_inv _ _ _ (fun _ _ _ h => by split; exacts [helloAckSt_inv _ _ _ _ h, h]) hI)⟩
  | heartbeat _ _ _ _ => exact ⟨_, rfl, settle_inv _ (foaRow_inv _ _ _ (fun _ _ _ h => by split; exacts [heartbeatSt_inv _ _ h, h]) hI)⟩
  | peerLoss _ => exact ⟨_, rfl, settle_inv _ (peerLossSt_inv _ _ hI)⟩
  | peerEnable _ _ => exact ⟨_, rfl, settle_inv _ (peerEnableSt_inv _ _ _ hI)⟩
  | gatherReq _ _ => exact ⟨_, rfl, settle_inv _ (foaRow_inv _ _ _ (fun _ _ _ h => by split; exacts [gatherReqSt_inv _ _ _ h, h]) hI)⟩
  | gatherReply _ _ => exact ⟨_, rfl, settle_inv _ (foaRow_inv _ _ _ (fun _ _ _ h => by split; exacts [gatherReplySt_inv _ _ _ h, h]) hI)⟩
  | digestNote _ _ => exact ⟨_, rfl, settle_inv _ (foaRow_inv _ _ _ (fun _ _ _ h => by split; exacts [digestNoteSt_inv _ _ _ h, h]) hI)⟩
  | jobAbort _ _ _ _ => exact ⟨_, rfl, settle_inv _ (foaRow_inv _ _ _ (fun _ _ _ h => by split; exacts [jobAbortSt_inv _ _ _ _ h, h]) hI)⟩
  | abortAck _ => exact ⟨_, rfl, settle_inv _ (foaRow_inv _ _ _ (fun _ _ _ h => by split; exacts [abortAckSt_inv _ _ h, h]) hI)⟩
  | nak _ _ _ _ _ => exact ⟨_, rfl, settle_inv _ (foaRow_inv _ _ _ (fun _ _ _ h => by split; exacts [nakSt_inv _ _ _ _ _ h, h]) hI)⟩
  | retransmit _ => exact ⟨_, rfl, settle_inv _ (retransmitSt_inv _ _ hI)⟩
  | jobLoad _ _ _ _ => exact ⟨_, rfl, settle_inv _ (atBar_inv _ _ _ _ (jobLoadSt_inv _ _ _) hI)⟩
  | jobClose _ _ _ => exact ⟨_, rfl, settle_inv _ (atBar_inv _ _ _ _ (jobCloseSt_inv _ _) hI)⟩
  | jobSlotAbort _ _ _ => exact ⟨_, rfl, settle_inv _ (atBar_inv _ _ _ _ (slotAbortSt_inv _ _) hI)⟩
  | abortTick _ _ => exact ⟨_, rfl, settle_inv _ (abortTickSt_inv _ _ _ hI)⟩
  | exportLoad _ _ _ _ => exact ⟨_, rfl, settle_inv _ (atBar_inv _ _ _ _ (exportLoadSt_inv _ _ _) hI)⟩
  | comparisonClose _ _ _ _ => exact ⟨_, rfl, settle_inv _ (cmpCloseSt_inv _ _ _ _ _ hI)⟩
  | injectArm _ => exact ⟨_, rfl, settle_inv _ (inv_ite (injectWrite_inv _ _ hI) hI)⟩
  | injectCancel _ => exact ⟨_, rfl, settle_inv _ (inv_ite (injectWrite_inv _ _ hI) hI)⟩
  | unfence _ _ => exact ⟨_, rfl, settle_inv _ (inv_ite (unfenceWrite_inv _ _ _ hI) hI)⟩
  | certLoad _ => exact ⟨_, rfl, settle_inv _ (certLoadSt_inv _ _ hI)⟩
  | certCheckDone _ => exact ⟨_, rfl, settle_inv _ (certDoneSt_inv _ _ rfl hI)⟩
  | certRevoke => exact ⟨_, rfl, settle_inv _ (inv_ite (Inv.setTc rfl rfl hI) hI)⟩
  | sign _ _ => exact ⟨_, rfl, settle_inv _ (atBar_inv _ _ _ _ (signSt_inv _) hI)⟩
  | signedCopyComplete _ _ => exact ⟨_, rfl, settle_inv _ (signedCopySt_inv _ _ _ hI)⟩
  | getVersion => exact ⟨_, rfl, settle_inv _ (getVersionSt_inv _ hI)⟩
  | getCapabilities => exact ⟨_, rfl, settle_inv _ (inOrder_inv _ _ _ (fun _ h => spdmOk_inv _ _ _ (setSpdm_inv _ _ h)) hI)⟩
  | negotiateAlgorithms _ _ _ _ => exact ⟨_, rfl, settle_inv _ (inOrder_inv _ _ _ (fun _ h => spdmOk_inv _ _ _ (setSpdm_inv _ _ h)) hI)⟩
  | getDigests => exact ⟨_, rfl, settle_inv _ (getDigestsSt_inv _ hI)⟩
  | getCertificate _ => exact ⟨_, rfl, settle_inv _ (getCertSt_inv _ _ hI)⟩
  | challenge _ _ => exact ⟨_, rfl, settle_inv _ (challengeSt_inv _ _ _ hI)⟩
  | getMeasurements _ => exact ⟨_, rfl, settle_inv _ (measurementsSt_inv _ _ hI)⟩
  | keyExchange _ => exact ⟨_, rfl, settle_inv _ (keyExchangeSt_inv _ _ hI)⟩
  | finish _ => exact ⟨_, rfl, settle_inv _ (spdmFinishSt_inv _ _ hI)⟩
  | endSession => exact ⟨_, rfl, settle_inv _ (inOrder_inv _ _ _ (fun _ h => spdmOk_inv _ _ _ (Inv.setTc rfl rfl h)) hI)⟩
  | vendorDefinedRequest _ => exact ⟨_, rfl, settle_inv _ (inOrder_inv _ _ _ (ideKm_inv _) hI)⟩
  | lockInterfaceRequest _ => exact ⟨_, rfl, settle_inv _ (tdispSt_inv _ _ _ _ hI)⟩
  | stopInterfaceRequest _ => exact ⟨_, rfl, settle_inv _ (tdispSt_inv _ _ _ _ hI)⟩
  | targetMhz _ => exact ⟨_, rfl, settle_inv _ (inv_ite (clockWrite_inv _ _ hI) hI)⟩
  | fieldTestStart _ => exact ⟨_, rfl, settle_inv _ (inv_ite (ftWrite_inv _ _ hI) hI)⟩
  | fieldTestAbort => exact ⟨_, rfl, settle_inv _ (inv_ite (endAborted_inv _ hI) hI)⟩
  | fieldTestEnd _ _ _ _ => exact ⟨_, rfl, settle_inv _ (testEndSt_inv _ _ _ _ _ hI)⟩
  | rescan => exact ⟨_, rfl, settle_inv _ (rescanSt_inv _ hI)⟩
  | rescanEnd _ _ => exact ⟨_, rfl, settle_inv _ (rescanEndSt_inv _ _ _ hI)⟩
  | startInterfaceRequest _ => exact ⟨_, rfl, settle_inv _ (tdispSt_inv _ _ _ _ hI)⟩
  | linkDown _ => exact ⟨_, rfl, settle_inv _ (linkDownSt_inv _ _ hI)⟩

/-- Settles O4: no command is refused, and each keeps the groups that are asked of it. -/
theorem commandsKeepTheGroups : Obligations.CommandsKeepTheGroups := by
  intro c s
  obtain ⟨t, run, kept⟩ := exec_inv (legal := false) (s := s) nofun c
  exact ⟨t, run, kept.same⟩

/-- What every step is asked to keep: the legal machine. -/
def askedOfStep : Goals := { tb := false, plan := false, boot := false, life := false, legal := true, arm := false }

/-- Settles O3: on an empty queue the clock goes on, and else the command at its front keeps the legal machine. -/
theorem stepKeepsTheLegalMachine : Obligations.StepKeepsTheLegalMachine := by
  intro s legal
  unfold step
  split
  · exact ⟨_, rfl, (idle_inv s rfl rfl (Inv.refl askedOfStep s fun _ => legal)).legal rfl⟩
  · next c rest _ =>
    obtain ⟨t, run, kept⟩ := exec_inv (legal := true) (s := { s with pending := rest }) (fun _ => legal) c
    exact ⟨t, run, kept.legal rfl⟩

end Sys2Proof.Machine
end

section
/-!
SUPPORT. What follows at once from a command (log 13) does nothing on a quiet state: one lemma for each thing that follows.
-/
namespace Sys2Proof.Machine
open Sys2Proof

section
variable {s : State}

/-- No element of a list passes a test that all of them fail. -/
theorem filter_eq_nil_of_all {α : Type} {p q : α → Bool} {l : List α} (h : l.all q = true)
    (excl : ∀ a ∈ l, q a = true → p a = false) : l.filter p = [] :=
  List.filter_eq_nil_iff.mpr fun a mem => by simp [excl a mem (List.all_eq_true.mp h a mem)]

/-- No element of a list passes a test that not one of them passes. -/
theorem filter_eq_nil_of_not_any {α : Type} {p q : α → Bool} {l : List α} (h : l.any q = false)
    (same : ∀ a ∈ l, p a = q a) : l.filter p = [] :=
  List.filter_eq_nil_iff.mpr fun a mem => by simp [same a mem, List.any_eq_false.mp h a mem]

/-- A walk over a list of steps that each leave the state leaves it. -/
theorem foldl_eq_self {α β : Type} {f : β → α → β} {b : β} {l : List α} (h : ∀ a ∈ l, f b a = b) : l.foldl f b = b := by
  induction l with
  | nil => rfl
  | cons a l ih => rw [List.foldl_cons, h a List.mem_cons_self, ih fun a mem => h a (List.mem_cons_of_mem _ mem)]

theorem killAll_of_none {p : Step → Bool} (why : KillWhy) (h : s.steps.filter p = []) : killAll p why s = s := by
  rw [killAll, h]
  rfl

theorem set_signals {l : List Signal} (h : l = s.qu.signals) : { s with qu := { s.qu with signals := l } } = s := by
  rw [h]

theorem dropSignals_of_none {p : Signal → Bool} (st : Option Status) (h : s.qu.signals.filter p = []) :
    dropSignals p st s = s := by
  have kept : (s.qu.signals.filter fun g => !p g) = s.qu.signals :=
    List.filter_eq_self.mpr fun g mem => by simp [List.filter_eq_nil_iff.mp h g mem]
  simp only [dropSignals, h, List.foldl_nil]
  exact set_signals kept

/-- A context that stands for something is kept. -/
theorem reapCtx_of_stands {i : Nat} (h : contextStands s i = true) :
    reapCtx (i / 2 ^ 16) (i % 2 ^ 16) s = s := by
  unfold contextStands at h
  unfold reapCtx
  generalize i / 2 ^ 16 = n, i % 2 ^ 16 = c at h ⊢
  cases state : ctxState s n c <;> rw [state] at h
  case live => exact if_pos h
  case revoked => exact if_pos (Bool.or_eq_true _ _ ▸ .inl h)

namespace Quiet
variable (q : Quiet s)
include q

theorem retryBacked_eq : retryBacked s = s := by
  rw [retryBacked, q.backed, List.foldl_nil, ← q.backed]

theorem goOn_eq : goOn s = s := by
  have none := filter_eq_nil_of_not_any (p := fun t : Step => t.awaiting && decide (t.asked = [])) q.awaiting
    fun t _ => by rw [beq_eq_decide]
  rw [goOn, none, List.foldl_nil]

theorem readOutputs_eq : readOutputs s = s := by
  have none := filter_eq_nil_of_not_any (p := fun r : ReqCtx => r.reading && decide (r.state ≠ .done)) q.outputs
    fun r _ => by simp [bne, beq_eq_decide]
  rw [readOutputs, none, List.foldl_nil]

theorem goLoads_eq : goLoads s = s := by
  rw [goLoads, q.loads, List.foldl_nil, ← q.loads]

theorem sweepLost_eq : sweepLost s = s := by
  have steps := filter_eq_nil_of_all
    (p := fun t : Step => isLost s t.part t.ctx && !t.judge && t.gather.isNone && decide (t.phase ≠ .killed)) q.steps
    fun t _ h => by revert h; cases isLost s t.part t.ctx <;> cases t.judge <;> cases t.gather <;> simp
  have signals := filter_eq_nil_of_all (p := fun g : Signal => !g.gone && isLost s g.part g.ref.ctx) q.signals
    fun g _ h => by revert h; cases g.gone <;> simp
  have queues := List.all_eq_true.mp q.queues
  simp only [sweepLost, killAll_of_none _ steps, dropSignals_of_none _ signals]
  rw [List.filter_eq_nil_iff.mpr, List.foldl_nil]
  intro p mem
  have kept := queues p mem
  simp [bne, beq_eq_decide] at kept ⊢
  grind

theorem advanceKills_eq : advanceKills s = s := by
  simp [advanceKills, q.works, q.current]

theorem advanceReplay_eq : advanceReplay s = s := by
  cases replay : s.rc.replay <;> simp [advanceReplay, q.current, replay]

theorem stopNarrow_eq : stopNarrow s = s := by
  simp [stopNarrow, q.current]

theorem nextReset_eq : nextReset s = s := by
  simp [nextReset, q.stopNarrow_eq, q.current, q.waiting]

theorem settleN_eq (n : Nat) : settleN n s = s := by
  induction n with
  | zero => rfl
  | succ n ih => rw [settleN, q.sweepLost_eq, q.advanceKills_eq, q.advanceReplay_eq, q.nextReset_eq, ih]

theorem endRetires_eq : endRetires s = s := by
  have none := filter_eq_nil_of_all (p := fun p : Nat × KeyRec => decide (p.2.state = .retiring)) q.keys
    fun p _ h => by simpa using h
  rw [endRetires, none, List.map_nil, List.foldl_nil]

theorem closeJobs_eq : closeJobs s = s := by
  simp [closeJobs, q.jobs]

theorem reapAll_eq : reapAll s = s := by
  refine foldl_eq_self fun i mem => reapCtx_of_stands ?_
  obtain ⟨p, listed, rfl⟩ := List.mem_map.mp mem
  exact List.all_eq_true.mp q.contexts p listed

theorem settle_eq : settle s = s := by
  simp only [settle, q.retryBacked_eq, q.goOn_eq, q.readOutputs_eq, q.goLoads_eq, q.settleN_eq, q.endRetires_eq, q.closeJobs_eq,
    q.reapAll_eq]

end Quiet
end

/-- Settles O5. -/
theorem quietStateSettled : Obligations.QuietStateSettled := fun _ q => q.settle_eq

end Sys2Proof.Machine
end

section
/-!
SUPPORT. The step on an empty queue and the state that reset leaves (R47, R54; log 11).
-/
namespace Sys2Proof.Machine
open Sys2Proof

section
variable {s : State}

theorem step_of_cons {c : Instr} {rest : List Instr} (queue : s.pending = c :: rest) :
    step s = exec c { s with pending := rest } := by
  simp [step, queue]

theorem step_of_nil (empty : s.pending = []) : step s = .next (idle s) := by
  simp [step, empty]

theorem idle_between_edges (power : s.bnd.powered = true) (runs : s.tb.running = true) (room : s.tb.now + 1 < nextEdge s.tb) :
    idle s = { s with tb := { s.tb with now := s.tb.now + 1 } } := by
  simp [idle, power, runs, room]

theorem idle_out_of_reset (power : s.bnd.powered = true) (stage : s.bnd.stage = .reset) (stopped : s.tb.running = false) :
    idle s = { s with bnd := { s.bnd with stage := .tcBoot } } := by
  simp [idle, power, stage, stopped]

theorem idle_unpowered (power : s.bnd.powered = false) : idle s = s := by
  simp [idle, power]

theorem idle_at_edge (clock : s.tb.running = false ∨ nextEdge s.tb ≤ s.tb.now + 1) (stage : s.bnd.stage ≠ .reset) :
    idle s = s := by
  obtain stopped | edge := clock
  · simp [idle, stopped, stage]
  · simp [idle, Nat.not_lt.mpr edge, stage]

end

/-- Settles O1: the queue decides which command runs, and without one the clock does. -/
theorem stepRunsTheFrontCommand : Obligations.StepRunsTheFrontCommand := by
  refine ⟨fun c rest s queue => step_of_cons queue, fun s empty power runs room => ?_, fun s empty power stage stopped => ?_,
    fun s empty still => ?_, fun s nbits w => ⟨rfl, rfl⟩⟩
  · rw [step_of_nil empty, idle_between_edges power runs room]
  · rw [step_of_nil empty, idle_out_of_reset power stage stopped]
  · rw [step_of_nil empty]
    obtain power | ⟨clock, stage⟩ := still
    · rw [idle_unpowered power]
    · rw [idle_at_edge clock stage]

/-- Settles O2: the bounds by `reset_legal`, the values by the definition of the state. -/
theorem resetIsLegal : Obligations.ResetIsLegal :=
  ⟨reset_legal, rfl, rfl, rfl, rfl, rfl, rfl, rfl, rfl, rfl, rfl, rfl, rfl, rfl, rfl, rfl, rfl, rfl, rfl, rfl, rfl, rfl, rfl⟩

end Sys2Proof.Machine
end

section
/-!
SUPPORT. Little-endian byte strings and sealed intake messages (R12, R141, R143).
-/
namespace Sys2Proof.Machine
open Sys2Proof

/-- The low byte and the rest of a number. -/
theorem toNat_ofNat_add_mul_div (v : Nat) : (BitVec.ofNat 8 v).toNat + 256 * (v / 256) = v := by
  rw [BitVec.toNat_ofNat]
  omega

theorem leNat_leBytes {v n : Nat} (h : v < 256 ^ n) : leNat (leBytes v n) = v := by
  induction n generalizing v with
  | zero => rw [leBytes, leNat, Nat.lt_one_iff.mp h]
  | succ n ih =>
    have rest : v / 256 < 256 ^ n := Nat.div_lt_of_lt_mul (by rwa [← pow_succ'])
    rw [leBytes, leNat, ih rest, toNat_ofNat_add_mul_div]

theorem leBytes_leNat (bs : List Byte) : leBytes (leNat bs) bs.length = bs := by
  induction bs with
  | nil => rfl
  | cons b bs ih =>
    have byte := b.isLt
    have low : BitVec.ofNat 8 (b.toNat + 256 * leNat bs) = b := BitVec.eq_of_toNat_eq (by rw [BitVec.toNat_ofNat]; omega)
    have rest : (b.toNat + 256 * leNat bs) / 256 = leNat bs := by omega
    rw [leNat, List.length_cons, leBytes, low, rest, ih]

theorem leNat_lt (bs : List Byte) : leNat bs < 256 ^ bs.length := by
  induction bs with
  | nil => exact Nat.one_pos
  | cons b bs ih =>
    have byte := b.isLt
    rw [leNat, List.length_cons, pow_succ']
    omega

theorem getElem?_leBytes {v n i : Nat} (h : i < n) : (leBytes v n)[i]? = some (BitVec.ofNat 8 (v / 256 ^ i)) := by
  induction n generalizing v i with
  | zero => cases h
  | succ n ih =>
    cases i with
    | zero => simp [leBytes]
    | succ i => rw [leBytes, List.getElem?_cons_succ, ih (Nat.lt_of_succ_lt_succ h), Nat.div_div_eq_div_mul, ← pow_succ']

/-- A header written reads back field by field (R143). -/
theorem intakeHead_intakeHeadBytes {type session seq len : Nat} (ht : type < 16) (hi : session < 2 ^ 32) (hs : seq < 2 ^ 64)
    (hl : len < 2 ^ 16) : intakeHead (intakeHeadBytes type session seq len) =
      { version := 1, type := type, rsv := false, session := session, seq := seq, length := len } := by
  have first : wireFld (intakeHeadBytes type session seq len) 0 1 = 16 + type := beNat_beBytes (v := 16 + type) (n := 1) (by omega)
  have hsession : wireFld (intakeHeadBytes type session seq len) 4 4 = session := beNat_beBytes (v := session) (n := 4) hi
  have hseq : wireFld (intakeHeadBytes type session seq len) 8 8 = seq := beNat_beBytes (v := seq) (n := 8) hs
  have hlen : wireFld (intakeHeadBytes type session seq len) 0x10 2 = len := beNat_beBytes (v := len) (n := 2) hl
  have zero : wireZero (intakeHeadBytes type session seq len) 1 3 && wireZero (intakeHeadBytes type session seq len) 0x12 6 := rfl
  simp only [intakeHead, wireBits, fld, first, hsession, hseq, hlen, zero]
  congr 1 <;> omega

/-- A message sealed with some keys carries its header in front. -/
theorem intakeHead_sealIntake {x : Session} {type seq : Nat} {p : List Byte} (hi : x.id < 2 ^ 32) (ht : type < 16)
    (hs : seq < 2 ^ 64) (hl : p.length < 2 ^ 16) : intakeHead (sealIntake x type seq p) =
      { version := 1, type := type, rsv := false, session := x.id, seq := seq, length := p.length } := by
  rw [sealIntake, List.append_assoc, intakeHead_left (by simp [intakeHeadBytes]), intakeHead_intakeHeadBytes ht hi hs hl]

theorem openIntake_sealIntake {x : Session} {type seq : Nat} {p : List Byte} (hk : x.keyIn = x.keyOut) (hsalt : x.saltIn = x.saltOut)
    (hi : x.id < 2 ^ 32) (ht : type < 16) (hs : seq < 2 ^ 64) (hl : p.length < 2 ^ 16) :
    openIntake x (sealIntake x type seq p) = some p := by
  have head := intakeHead_sealIntake hi ht hs hl
  have message : sealIntake x type seq p = intakeHeadBytes type x.id seq p.length ++
    gcmCrypt x.keyIn (intakeNonce x.saltIn seq) p ++ beBytes (gcmTag x.keyIn (intakeNonce x.saltIn seq)
      (intakeHeadBytes type x.id seq p.length) (gcmCrypt x.keyIn (intakeNonce x.saltIn seq) p)) 16 := by
    rw [hk, hsalt]
    rfl
  have len : (intakeHeadBytes type x.id seq p.length).length = 24 := rfl
  unfold openIntake
  simp only [head]
  rw [message]
  generalize intakeHeadBytes type x.id seq p.length = h at len ⊢
  have text : (gcmCrypt x.keyIn (intakeNonce x.saltIn seq) p).length = p.length := gcmCrypt_length _ _ _
  have plain := gcmCrypt_twice x.keyIn (intakeNonce x.saltIn seq) p
  generalize gcmCrypt x.keyIn (intakeNonce x.saltIn seq) p = c at text plain ⊢
  have tag := beNat_beBytes (n := 16) (gcmTag_lt x.keyIn (intakeNonce x.saltIn seq) h c)
  have read : wireFld (h ++ c ++ beBytes (gcmTag x.keyIn (intakeNonce x.saltIn seq) h c) 16) (24 + p.length) 16 =
      gcmTag x.keyIn (intakeNonce x.saltIn seq) h c := by
    have := wireFld_right (a := h ++ c) (b := beBytes (gcmTag x.keyIn (intakeNonce x.saltIn seq) h c) 16)
    rwa [List.length_append, len, text, beBytes_length, tag] at this
  rw [read, List.append_assoc, List.take_left' len, List.drop_left' len, List.take_left' text, plain]
  simp [len, text]
  omega

/-- Settles O6. -/
theorem bytesReadBack : Obligations.BytesReadBack :=
  ⟨leBytes_length, fun _ _ h => leNat_leBytes h, fun bs => ⟨leBytes_leNat bs, leNat_lt bs⟩, fun _ _ _ h => getElem?_leBytes h,
    fun _ _ _ _ hk hsalt hi ht hs hl => ⟨openIntake_sealIntake hk hsalt hi ht hs hl, intakeHead_sealIntake hi ht hs hl⟩⟩

end Sys2Proof.Machine
end

section
/-!
SUPPORT. Power, the fundamental reset and the configuration space (R30, R37, R483, R509, R557), and the tray controller's
messages (R36, R37, R39).
-/
namespace Sys2Proof.Machine
open Sys2Proof

section
variable {s : State}

theorem powerUpSt_off (off : s.bnd.powered = false) : powerUpSt s = { s with
    bnd := { s.bnd with powered := true }
    tc := { s.tc with bootCount := Config.freeNat s.freeCount % 2 ^ 32 * 2 ^ 32 }
    freeCount := s.freeCount + 1 } := by
  simp [powerUpSt, off, fresh]

theorem cfgSt_retry (power : s.bnd.powered = true) (retry : s.bnd.cfgRetry = true) (op : CfgOp) :
    cfgSt op s = emit (.cfg true 0) s := by
  simp [cfgSt, power, retry]

theorem fundamentalSt_powered (power : s.bnd.powered = true) : fundamentalSt s = { s with
    bnd := { s.bnd with cfgRetry := !tcBootEnded s, vfEnable := false, numVfs := 0, atsEnable := [], priEnable := false } } := by
  simp [fundamentalSt, power]

theorem cfgSt_writeVfs (power : s.bnd.powered = true) (open_ : s.bnd.cfgRetry = false) (en : Bool) (n : Nat) :
    cfgSt (.writeVfs en n) s = { s with bnd := { s.bnd with vfEnable := en, numVfs := min n 32 }, out := .cfg false 0 :: s.out } := by
  simp [cfgSt, power, open_, emit]

theorem cfgSt_readClassCode (power : s.bnd.powered = true) (open_ : s.bnd.cfgRetry = false) :
    cfgSt .readClassCode s = { s with out := .cfg false 0x120000 :: s.out } := by
  simp [cfgSt, power, open_, emit]

/-- FABRIC_PRESENT's fall changes its bitmap and what has left the block, and nothing else. -/
theorem fabricFall_rest (l : List Nat) (s : State) :
    { fabricFall l s with bnd := { (fabricFall l s).bnd with fabric := s.bnd.fabric }, out := s.out } = s := by
  refine foldl_same (fun t : State => { t with bnd := { t.bnd with fabric := s.bnd.fabric }, out := s.out }) ?_ l s
  exact fun _ _ => rfl

theorem powerRemovedSt_powered (power : s.bnd.powered = true) : ∃ o, powerRemovedSt s = { State.reset with
    bnd := { State.reset.bnd with powered := false }, tc := { State.reset.tc with otp := s.tc.otp }, out := o
    freeCount := s.freeCount, nextId := s.nextId, pending := s.pending } := by
  have rest := fabricFall_rest (bitList s.bnd.fabric) s
  have otp := congrArg (fun t : State => (t.tc.otp, t.freeCount, t.nextId, t.pending)) rest
  simp only [Prod.mk.injEq] at otp
  obtain ⟨otp, free, id, queue⟩ := otp
  refine ⟨(fabricFall (bitList s.bnd.fabric) s).out, ?_⟩
  simp only [powerRemovedSt, power, otp, free, id, queue]
  rfl

end

/-- Settles O7: the rows by whether power is on, and a configuration request by Request Retry Status. -/
theorem powerAndConfiguration : Obligations.PowerAndConfiguration := by
  refine ⟨fun s off => runs (powerUpSt_off off), fun s power => ?_, fun s power => runs (fundamentalSt_powered power),
    fun op s power retry => runs (cfgSt_retry power retry op), fun en n s power served => runs (cfgSt_writeVfs power served en n),
    fun s power served => runs (cfgSt_readClassCode power served)⟩
  obtain ⟨o, off⟩ := powerRemovedSt_powered power
  exact ⟨_, runs off, rfl, rfl, rfl, rfl, rfl, rfl, rfl, rfl, rfl, rfl, rfl⟩

/-! ### The tray controller -/

section
variable {s : State}

theorem unlessInvalid_valid (up : mctpUp s = true) (valid : s.tc.lc ≠ .invalid) (code : Nat) (k : State → State) :
    unlessInvalid code s k = k s := by
  simp [unlessInvalid, up, valid]

theorem bootStatusSt_up (up : mctpUp s = true) :
    bootStatusSt s = reply 0x01 .ok [bootStatus s, s.bnd.stackExcluded.toNat, lcCode s.tc.lc] s := by
  simp [bootStatusSt, up]

theorem clearErrSt_released (up : mctpUp s = true) (valid : s.tc.lc ≠ .invalid) (free : releasable s = true) :
    clearErrSt s = reply 0x03 .ok [] (releaseErr s) := by
  simp [clearErrSt, unlessInvalid_valid up valid, free]

theorem clearErrSt_held (up : mctpUp s = true) (valid : s.tc.lc ≠ .invalid) (asserted : s.bnd.errAsserted = true)
    (held : releasable s = false) : clearErrSt s = reply 0x03 .stateConflict [] s := by
  simp [clearErrSt, unlessInvalid_valid up valid, asserted, held]

theorem requestResetSt_running (up : mctpUp s = true) (valid : s.tc.lc ≠ .invalid) (clock : s.tb.running = true) :
    requestResetSt s = { s with bnd := { s.bnd with resetAtTick := true }, out := .mctp 0x04 .ok [] :: s.out } := by
  simp [requestResetSt, unlessInvalid_valid up valid, reply, emit, clock]

theorem ackPowerSt_up (up : mctpUp s = true) :
    ackPowerSt s = reply 0x05 .ok [] { s with bnd := { s.bnd with powerCycle := none } } := by
  simp [ackPowerSt, up]

theorem otherCodeSt_unknown (up : mctpUp s = true) {code : Nat} (unknown : code = 0 ∨ 5 < code) :
    otherCodeSt code s = reply code .badOpcode [] s := by
  have none : ¬(1 ≤ code ∧ code ≤ 5) := by omega
  simp [otherCodeSt, up, none]

theorem powerRepeatSt_again {p : PowerCycle} (power : s.bnd.powered = true) (asks : s.bnd.powerCycle = some p)
    (more : p.copies < 10) : powerRepeatSt s = sendPower p
      { s with bnd := { s.bnd with powerCycle := some { p with copies := p.copies + 1 } } } := by
  simp [powerRepeatSt, power, asks, Nat.not_le.mpr more]

theorem powerRepeatSt_over {p : PowerCycle} (asks : s.bnd.powerCycle = some p) (ten : 10 ≤ p.copies) : powerRepeatSt s = s := by
  simp [powerRepeatSt, asks, ten]

end

/-- Settles O10: each message by its code, with CLEAR_ERR_PIN by whether the pin may be released. -/
theorem trayController : Obligations.TrayController := by
  refine ⟨fun s up => runs (bootStatusSt_up up), fun s up valid => ⟨_, runs (unlessInvalid_valid up valid _ _)⟩,
    fun s up valid free acked => runs (clearErrSt_released up valid ?_),
    fun s up valid asserted held => runs (clearErrSt_held up valid asserted held),
    fun s up valid clock => runs (requestResetSt_running up valid clock), fun s up => runs (ackPowerSt_up up),
    fun code s up unknown => runs (otherCodeSt_unknown up unknown),
    fun s p power asks more => runs (powerRepeatSt_again power asks more),
    fun s p asks ten => runs (powerRepeatSt_over asks ten)⟩
  simp only [releasable, free, acked, Bool.not_false, Bool.and_self]

end Sys2Proof.Machine
end

section
/-!
SUPPORT. The stages of start-up (R46 to R53, R472, R502 to R513): what each leaves, in the stage that is due.
-/
namespace Sys2Proof.Machine
open Sys2Proof

/-! ### Bitmaps and tables by number -/

theorem getLsbD_setBit {w : Nat} (v : BitVec w) (i : Nat) (b : Bool) {j : Nat} (bound : j < w) :
    (setBit v i b).getLsbD j = if j = i then b else v.getLsbD j := by
  have one : (BitVec.ofNat w (2 ^ i)).getLsbD j = decide (j = i) := by
    rw [BitVec.getLsbD_ofNat, decide_eq_true bound, Bool.true_and, Nat.testBit_two_pow]
    exact decide_eq_decide.mpr eq_comm
  unfold setBit
  split
  · next set => rw [BitVec.getLsbD_or, one, set]; by_cases same : j = i <;> simp [same]
  · next clear => rw [BitVec.getLsbD_and, BitVec.getLsbD_not, one]; by_cases same : j = i <;> simp [same, clear, bound]

/-- Bits set one after the other, over a bitmap. -/
theorem getLsbD_foldl_setBit {w : Nat} (b : Bool) (l : List Nat) (v : BitVec w) {j : Nat} (bound : j < w) :
    (l.foldl (fun v i => setBit v i b) v).getLsbD j = if j ∈ l then b else v.getLsbD j := by
  induction l generalizing v with
  | nil => simp
  | cons i l ih =>
    rw [List.foldl_cons, ih, getLsbD_setBit v i b bound]
    by_cases mem : j ∈ l <;> simp [mem]

/-- A table that lists some numbers, each with its entry, holds them. -/
theorem tget_map {α : Type} (d : α) (f : Nat → α) {l : List Nat} {k : Nat} (h : k ∈ l) :
    tget d (l.map fun i => (i, f i)) k = f k := by
  induction l with
  | nil => cases h
  | cons i l ih =>
    rw [List.map_cons, tget]
    split
    · next same => rw [same]
    · next other => exact ih (List.mem_of_ne_of_mem (Ne.symm other) h)

/-! ### FABRIC_PRESENT's rise -/

/-- FABRIC_PRESENT's rise changes its bitmaps, the dead tiles, the acknowledgements owed and what has left the block. -/
theorem fabricRise_rest (l : List Nat) (s : State) : { (fabricRise l s) with
    bnd := { (fabricRise l s).bnd with fabric := s.bnd.fabric, rising := s.bnd.rising }
    coh := { (fabricRise l s).coh with dead := s.coh.dead, owed := s.coh.owed }, out := s.out } = s := by
  refine foldl_same (fun t : State => { t with
    bnd := { t.bnd with fabric := s.bnd.fabric, rising := s.bnd.rising }
    coh := { t.coh with dead := s.coh.dead, owed := s.coh.owed }, out := s.out }) ?_ l s
  exact fun _ _ => rfl

theorem fabricRise_same (l : List Nat) (s : State) : (fabricRise l s).bnd.stage = s.bnd.stage ∧
    (fabricRise l s).coh.lines = s.coh.lines ∧ (fabricRise l s).rc = s.rc ∧ (fabricRise l s).lre = s.lre ∧
    (fabricRise l s).mi = s.mi ∧ (fabricRise l s).tc = s.tc := by
  have rest := congrArg (fun t : State => (t.bnd.stage, t.coh.lines, t.rc, t.lre, t.mi, t.tc)) (fabricRise_rest l s)
  simpa only [Prod.mk.injEq] using rest

theorem fabricRise_fabric (l : List Nat) (s : State) :
    (fabricRise l s).bnd.fabric = l.foldl (fun v i => setBit v i true) s.bnd.fabric := by
  induction l generalizing s with
  | nil => rfl
  | cons t l ih => exact ih _

/-- FABRIC_PRESENT of every tile is high after it rises to all 64. -/
theorem fabricRise_all (s : State) : (fabricRise (List.range 64) s).bnd.fabric = BitVec.allOnes 64 := by
  rw [fabricRise_fabric]
  refine BitVec.eq_of_getLsbD_eq fun j bound => ?_
  rw [getLsbD_foldl_setBit _ _ _ bound, if_pos (List.mem_range.mpr bound), BitVec.getLsbD_allOnes, decide_eq_true bound]

/-! ### Generations rise (R472) -/

theorem partGen_raiseAll (s : State) {n : Nat} (bound : n < 32) : partGen (raiseAll s) n = (partGen s n + 1) % 256 :=
  tget_map 0 (fun n => (partGen s n + 1) % 256) (List.mem_range.mpr bound)

theorem stockGen_raiseAll (s : State) {t : Nat} (bound : t < 64) : stockGen (raiseAll s) t = (stockGen s t + 1) % 256 :=
  tget_map 0 (fun t => (stockGen s t + 1) % 256) (List.mem_range.mpr bound)

theorem engine_raiseAll_gen (s : State) {e : Nat} (bound : e < 320) :
    (engine (raiseAll s) e).gen = ((engine s e).gen + 1) % 256 := by
  rw [engine, raiseAll, tget_map _ _ (List.mem_range.mpr bound)]

/-! ### The stages -/

section
variable {s : State} (power : s.bnd.powered = true)
include power

theorem tcBootSt_due (stage : s.bnd.stage = .reset ∨ s.bnd.stage = .tcBoot) (rom : Digest) :
    (tcBootSt rom s).tc = { s.tc with
      lc := lcDecode s.tc.otp.codeword, romDigest := rom
      bootCount := s.tc.bootCount / 2 ^ 32 * 2 ^ 32 + (s.tc.bootCount + 1) % 2 ^ 32 } ∧
    (tcBootSt rom s).bnd.cfgRetry = false ∧
    (tcBootSt rom s).bnd.stage =
      (if lcDecode s.tc.otp.codeword = .invalid ∨ lcDecode s.tc.otp.codeword = .scrap then .invalidLc else .fwVerify) ∧
    (lcDecode s.tc.otp.codeword = .invalid → (tcBootSt rom s).bnd.errAsserted = true) ∧
    (lcDecode s.tc.otp.codeword = .scrap → (tcBootSt rom s).bnd.errAsserted = false) ∧
    { (tcBootSt rom s) with bnd := s.bnd, tc := s.tc } = s := by
  have due : (!(stageDue s .reset || stageDue s .tcBoot)) = false := by
    obtain stage | stage := stage <;> simp [stageDue, power, stage]
  simp only [tcBootSt, due]
  cases lcDecode s.tc.otp.codeword <;> simp [setStage]

omit power in
/-- The choice of a pattern package changes only the Health Monitor's registers. -/
theorem selectPackage_rest (p q : Option Package) (s : State) : { (selectPackage p q s) with hm := s.hm } = s := by
  unfold selectPackage
  dsimp only
  split
  · rfl
  · rfl
  · rfl
  · split <;> rfl

omit power in
theorem selectPackage_otp (p q : Option Package) (s : State) : (selectPackage p q s).tc.otp = s.tc.otp :=
  (congrArg (fun t : State => t.tc.otp) (selectPackage_rest p q s) :)

/-- A valid image in slot A is booted. -/
theorem fwVerifySt_slotA (stage : s.bnd.stage = .fwVerify) {f : Flash} {a : FwImage}
    (valid : f.slotA.filter (imageOk s.tc.otp) = some a) :
    fwVerifySt f s = bootImage a false (setStage .keys (selectPackage f.pkgP f.pkgQ s)) := by
  simp [fwVerifySt, stageDue_of_stage power stage, setStage, selectPackage_otp, valid]

/-- Else a valid one in slot B is. -/
theorem fwVerifySt_slotB (stage : s.bnd.stage = .fwVerify) {f : Flash} {b : FwImage}
    (bad : f.slotA.filter (imageOk s.tc.otp) = none) (valid : f.slotB.filter (imageOk s.tc.otp) = some b) :
    fwVerifySt f s = bootImage b true (setStage .keys (selectPackage f.pkgP f.pkgQ s)) := by
  simp [fwVerifySt, stageDue_of_stage power stage, setStage, selectPackage_otp, bad, valid]

/-- Without one the check fails. -/
theorem fwVerifySt_none (stage : s.bnd.stage = .fwVerify) {f : Flash} (badA : f.slotA.filter (imageOk s.tc.otp) = none)
    (badB : f.slotB.filter (imageOk s.tc.otp) = none) :
    fwVerifySt f s = bootFail 0x01 (setStage .keys (selectPackage f.pkgP f.pkgQ s)) := by
  simp [fwVerifySt, stageDue_of_stage power stage, setStage, selectPackage_otp, badA, badB]

theorem fwVerifySt_rest (stage : s.bnd.stage = .fwVerify) (f : Flash) :
    { (fwVerifySt f s) with bnd := s.bnd, tc := s.tc, hm := s.hm } = s := by
  have rest := congrArg (fun t : State => { t with bnd := s.bnd, tc := s.tc }) (selectPackage_rest f.pkgP f.pkgQ s)
  cases a : f.slotA.filter (imageOk s.tc.otp) with
  | some a => rw [fwVerifySt_slotA power stage a]; exact rest
  | none =>
    cases b : f.slotB.filter (imageOk s.tc.otp) with
    | some b => rw [fwVerifySt_slotB power stage a b]; exact rest
    | none => rw [fwVerifySt_none power stage a b]; exact rest

omit power in
theorem deriveRoot_epoch (s : State) : (deriveRoot s).mi.epoch = s.mi.epoch := by
  simp only [deriveRoot]

omit power in
theorem deriveRoot_nonce (s : State) : (deriveRoot s).mi.nonce = s.mi.nonce := by
  simp only [deriveRoot]

omit power in
theorem knownCold_false {t : State} (valid : t.bnd.retentionValid = true) (same : t.tc.lcKept = some t.tc.lc) :
    knownCold t = false := by
  simp [knownCold, valid, same]

/-- A warm start keeps the epoch: neither is retention SRAM invalid nor has the life-cycle state changed (R46, R504). -/
theorem keysSt_warm (stage : s.bnd.stage = .keys) (valid : s.bnd.retentionValid = true) (same : s.tc.lcKept = some s.tc.lc)
    (chains : List PubKey) : keysSt true chains s = deriveRoot { s with
      bnd := { s.bnd with stage := .memTrain, epochOpened := false }
      tc := { s.tc with signKey := signScalar s
                        chain := (chains.take 4).find? fun c => c == Config.ecdsaPub (signScalar s) } } := by
  simp only [keysSt, stageDue_of_stage power stage, setStage, Bool.not_true, Bool.false_eq_true, if_false]
  exact if_neg (ne_true_of_eq_false (knownCold_false valid same))

theorem memTrainSt_warm (stage : s.bnd.stage = .memTrain) (valid : s.bnd.retentionValid = true)
    (same : s.tc.lcKept = some s.tc.lc) {failed held : BitVec 20}
    (some_ : failed ≠ 0xFFFFF) (all : (failed ||| held) = 0xFFFFF) (mirrors : BitVec 2) :
    memTrainSt failed held true true mirrors s = { s with
      bnd := { s.bnd with stage := .memInit, stackExcluded := failed, retentionValid := true }
      tc := { s.tc with lcKept := some s.tc.lc }
      fc := { s.fc with copy0 := !failed.getLsbD 0, copy640 := !failed.getLsbD 10
                        noMirror := !!failed.getLsbD 0 && !!failed.getLsbD 10 } } := by
  have warm := knownCold_false (t := setStage .memInit { s with bnd := { s.bnd with stackExcluded := failed } }) valid same
  simp only [memTrainSt, stageDue_of_stage power stage, warm, some_, all, startRecorder]
  rfl

theorem memInitSt_warm (stage : s.bnd.stage = .memInit) (noEpoch : s.bnd.epochOpened = false) : memInitSt [] s = { s with
    bnd := { s.bnd with stage := .dirInit, warm := true }, ps := { s.ps with pendPcs := scrubbing s }
    mi := { s.mi with keys := s.mi.keys.map fun p => (p.1, keptKey p.2) } } := by
  simp [memInitSt, stageDue_of_stage power stage, setStage, noEpoch, leastBy, scrubbing]

theorem memInitSt_cold (stage : s.bnd.stage = .memInit) (epoch : s.bnd.epochOpened = true) (bad : List Nat) :
    memInitSt bad s = coldInit (setStage .dirInit s) := by
  simp [memInitSt, stageDue_of_stage power stage, setStage, epoch]

theorem dirInitSt_whole (stage : s.bnd.stage = .dirInit) : dirInitSt 0xF true s =
    fabricRise (List.range 64) (raiseAll { s with bnd := { s.bnd with stage := .time }, coh := { s.coh with lines := [] } }) := by
  simp [dirInitSt, stageDue_of_stage power stage, setStage]

theorem timeSt_due (stage : s.bnd.stage = .time) : timeSt s = { s with
    tb := { s.tb with now := 0, running := true, tick := 0, slot := 0 }, bnd := { s.bnd with stage := .ready }
    hm := { s.hm with rail := 700 + (fresh 16 s).1 % 31 * 5, allow := s.hm.allowMin }, freeCount := s.freeCount + 1 } := by
  simp only [timeSt, stageDue_of_stage power stage]
  rfl

theorem stageExpirySt_check {c : BootCheck} (stage : s.bnd.stage = checkStage c) :
    stageExpirySt (some c) s = bootFail (checkCode c) s :=
  if_pos (stageDue_of_stage power stage)

/-- A stage without a check ends with a free code (log 17). -/
theorem stageExpirySt_none (stage : s.bnd.stage ∈ [Stage.reset, .tcBoot, .memInit, .time]) :
    stageExpirySt none s = bootFail (fresh 8 s).1 (fresh 8 s).2 := by
  have none : checkless s = true := by
    simp only [List.mem_cons, List.not_mem_nil, or_false] at stage
    obtain stage | stage | stage | stage := stage <;> simp [checkless, stageDue, power, stage]
  exact if_pos none

end

/-- Settles O8: each stage by the facts that decide it; the rail of a start is a step of 5 mV from 700 to 850 mV. -/
theorem startUpStages : Obligations.StartUpStages := by
  refine ⟨fun rom s power stage => ⟨_, rfl, tcBootSt_due power stage rom⟩, fun flash s power stage => ⟨_, rfl, ?_⟩,
    fun chains s power stage valid same => ⟨_, runs (keysSt_warm power stage valid same chains), ?_⟩,
    fun failed held mirrors s power stage valid same noEpoch some_ all =>
      ⟨_, runs (memTrainSt_warm power stage valid same some_ all mirrors), rfl, rfl, noEpoch, rfl, rfl, rfl⟩,
    fun s power stage noEpoch => runs (memInitSt_warm power stage noEpoch),
    fun bad s power stage epoch => runs (memInitSt_cold power stage epoch bad),
    fun s power stage => ⟨_, runs (dirInitSt_whole power stage), ?_⟩,
    fun s power stage => ⟨_, runs (timeSt_due power stage), rfl, rfl, rfl, rfl, rfl, rfl, rfl, ?_⟩,
    fun c s power stage => runs (stageExpirySt_check power stage),
    fun s power stage => ⟨_, runs (stageExpirySt_none power stage), rfl, rfl, rfl, rfl⟩⟩
  · refine ⟨fun a valid => ?_, fun b bad valid => ?_, fun badA badB => ?_, fwVerifySt_rest power stage flash⟩
    · rw [fwVerifySt_slotA power stage valid]
      exact ⟨rfl, rfl, rfl⟩
    · rw [fwVerifySt_slotB power stage bad valid]
      exact ⟨rfl, rfl, rfl⟩
    · rw [fwVerifySt_none power stage badA badB]
      exact ⟨rfl, rfl, rfl⟩
  · exact ⟨rfl, rfl, deriveRoot_epoch _, deriveRoot_nonce _, rfl⟩
  · obtain ⟨stage, lines, rc, lre, mi, tc⟩ := fabricRise_same (List.range 64) (raiseAll { s with
      bnd := { s.bnd with stage := .time }, coh := { s.coh with lines := [] } })
    refine ⟨stage, lines, fabricRise_all _, fun n bound => ?_, fun k bound => ?_, fun e bound => ?_, mi, tc⟩
    · rw [partGen, rc]
      exact partGen_raiseAll _ bound
    · rw [stockGen, rc]
      exact stockGen_raiseAll _ bound
    · rw [engine, lre]
      exact engine_raiseAll_gen _ bound
  · refine ⟨?_, ?_, ?_, rfl⟩ <;> dsimp only <;> omega

end Sys2Proof.Machine
end

section
/-!
SUPPORT. The chip reset of a halted device and function-level resets (R480 to R483, R557).
-/
namespace Sys2Proof.Machine
open Sys2Proof

/-- An entry of a table is the default or listed. -/
theorem tget_cases {α : Type} (d : α) (t : Tab α) (k : Nat) : tget d t k = d ∨ ∃ p ∈ t, p.2 = tget d t k := by
  induction t with
  | nil => exact .inl rfl
  | cons p t ih =>
    rw [tget]
    split
    · exact .inr ⟨p, List.mem_cons_self, rfl⟩
    · obtain default | ⟨x, mem, entry⟩ := ih
      · exact .inl default
      · exact .inr ⟨x, List.mem_cons_of_mem _ mem, entry⟩

section
variable {s : State}

/-- Nothing waits for a re-key at any PC. -/
theorem parked_eq_nil (none : ∀ x ∈ s.mi.pcs, x.2.parked = []) (p : Nat) : (pcState s p).parked = [] := by
  obtain default | ⟨x, mem, entry⟩ := tget_cases {} s.mi.pcs p
  · rw [pcState, default]
  · rw [pcState, ← entry, none x mem]

theorem flushParked_of_nil {p : Nat} (none : (pcState s p).parked = []) : flushParked p s = s := by
  rw [flushParked, none, List.foldl_nil]

/-- A RESET record enters the recorder with the next SEQ (R457, R482). -/
theorem exists_resetRecord (scope index gen : Nat) (cause : Cause) (skipped abandoned : Bool) (part : Option Nat) (s : State) :
    ∃ r, (resetRecord scope index gen cause skipped abandoned part s).fc.bbr = (r :: s.fc.bbr).take 4096 ∧ r.type = .reset ∧
      r.seq = s.fc.newest + 1 ∧
      (resetRecord scope index gen cause skipped abandoned part s).fc.newest = s.fc.newest + 1 :=
  ⟨_, rfl, rfl, rfl, rfl⟩

/-- What FABRIC_PRESENT's fall leaves of the parts that a chip reset keeps. -/
theorem fabricFall_same (l : List Nat) (s : State) : (fabricFall l s).mi = s.mi ∧ (fabricFall l s).ps = s.ps ∧
    (fabricFall l s).lre = s.lre ∧ (fabricFall l s).fc = s.fc ∧ (fabricFall l s).rc = s.rc ∧ (fabricFall l s).tc = s.tc ∧
    (fabricFall l s).pending = s.pending ∧ (fabricFall l s).bnd.cfgRetry = s.bnd.cfgRetry ∧
    (fabricFall l s).bnd.errAsserted = s.bnd.errAsserted := by
  have rest := congrArg (fun t : State => (t.mi, t.ps, t.lre, t.fc, t.rc, t.tc, t.pending, t.bnd.cfgRetry, t.bnd.errAsserted))
    (fabricFall_rest l s)
  simpa only [Prod.mk.injEq] using rest

/-- Where no write waits, a chip reset begins from the state as FABRIC_PRESENT's fall leaves it. -/
theorem afterReset_unparked (none : ∀ x ∈ s.mi.pcs, x.2.parked = []) :
    (s.mi.pcs.map fun p => p.1).foldl (fun s p => flushParked p s) (fabricFall (bitList s.bnd.fabric) s) =
      fabricFall (bitList s.bnd.fabric) s := by
  obtain ⟨mi, -⟩ := fabricFall_same (bitList s.bnd.fabric) s
  exact foldl_eq_self fun p _ => flushParked_of_nil (parked_eq_nil (by rwa [mi]) p)

theorem afterReset_kept (none : ∀ x ∈ s.mi.pcs, x.2.parked = []) :
    (afterReset s).bnd.cfgRetry = s.bnd.cfgRetry ∧ (afterReset s).bnd.errAsserted = s.bnd.errAsserted ∧
    ((afterReset s).mi.mem = s.mi.mem ∧ (afterReset s).mi.counters = s.mi.counters ∧ (afterReset s).mi.nodes = s.mi.nodes ∧
      (afterReset s).mi.mirrors = s.mi.mirrors ∧ (afterReset s).mi.keys = s.mi.keys ∧ (afterReset s).mi.epoch = s.mi.epoch ∧
      (afterReset s).mi.nonce = s.mi.nonce) ∧
    ((afterReset s).fc.bbr = s.fc.bbr ∧ (afterReset s).fc.newest = s.fc.newest ∧ (afterReset s).fc.fenced = s.fc.fenced) ∧
    (afterReset s).rc = { State.reset.rc with
      partGen := s.rc.partGen, stockGen := s.rc.stockGen, chipResets := s.rc.chipResets } ∧
    (afterReset s).tc = { State.reset.tc with
      otp := s.tc.otp, lc := s.tc.lc, lcKept := s.tc.lcKept, bootCount := s.tc.bootCount } ∧
    (afterReset s).pending = s.pending := by
  obtain ⟨mi, ps, lre, fc, rc, tc, queue, cfg, err⟩ := fabricFall_same (bitList s.bnd.fabric) s
  simp only [afterReset, afterReset_unparked none, mi, fc, rc, tc, queue, cfg, err, and_self]

/-- The state in which the reset of a preparation begins: it is taken, recorded and counted. -/
def resetAsked (p : Prep) (s : State) : State :=
  let t := resetRecord 4 0 0 p.cause (p.dump && prepParts s p = []) p.abandoned none
    { s with bnd := { s.bnd with prep := none } }
  { t with rc := { t.rc with chipResets := satAdd 32 t.rc.chipResets 1 } }

theorem chipResetSt_halted {p : Prep} (power : s.bnd.powered = true) (asked : s.bnd.prep = some p) (halted : s.cu.halted = true) :
    chipResetSt s = beginReset p s := by
  simp [chipResetSt, power, asked, halted]

theorem prepTimeoutSt_prep {p : Prep} (asked : s.bnd.prep = some p) :
    prepTimeoutSt s = { s with bnd := { s.bnd with prep := some { p with abandoned := true } } } := by
  simp [prepTimeoutSt, asked]

theorem flrVfSt_idle {n : Nat} (up : live s = true) (vf : vfExists s n = true) (idle : s.rc.current = none) :
    flrVfSt n s = { s with
      tc := { s.tc with tdi := tput s.tc.tdi n .error }
      rc := { s.rc with waiting := s.rc.waiting ++ [{ domain := .partition n, flr := true }] } } := by
  simp [flrVfSt, up, vf, idle, askReset]

theorem flrPfSt_powered (power : s.bnd.powered = true) (free : s.bnd.prep = none) :
    flrPfSt s = { s with bnd := { s.bnd with prep := some { cause := .command } } } := by
  simp [flrPfSt, power, askChipReset, free]

end

/-- Settles O12: the reset of a halted device begins at once, with nothing to flush. -/
theorem chipResetAndFlr : Obligations.ChipResetAndFlr := by
  refine ⟨fun s p power asked halted none => ?_, fun s p asked => runs (prepTimeoutSt_prep asked),
    fun n s up vf idle => settles (flrVfSt_idle up vf idle), fun s power free => runs (flrPfSt_powered power free)⟩
  obtain ⟨r, bbr, type, seq, newest⟩ := exists_resetRecord 4 0 0 p.cause (p.dump && decide (prepParts s p = [])) p.abandoned Option.none
    { s with bnd := { s.bnd with prep := .none } }
  obtain ⟨cfg, err, ⟨mem, counters, nodes, mirrors, keys, epoch, nonce⟩, ⟨bbr', newest', fenced⟩, rc, tc, queue⟩ := afterReset_kept
    (s := resetAsked p s) none
  exact ⟨_, r, runs (chipResetSt_halted power asked halted), rfl, rfl, rfl, rfl, cfg, err, mem, counters, nodes, mirrors, keys,
    epoch, nonce, bbr'.trans bbr, type, seq, newest'.trans newest, fenced, rc, tc, rfl, rfl, rfl, rfl, rfl, rfl, rfl, rfl, queue⟩

end Sys2Proof.Machine
end

section
/-!
SUPPORT. The end of a slot and its commit (R54, R64 to R74, R166, R264, R370).
-/
namespace Sys2Proof.Machine
open Sys2Proof

/-! ### The end of a slot -/

section
variable {s : State}

/-- Where no step is overdue the end of a slot opens its commit, and nothing else. -/
theorem endSlot_of_none (none : overdue s = []) (ready : s.bnd.ready = true) (runs : s.cu.halted = false) : endSlot s = { s with
    lre := { s.lre with slotUpdates := [] }, cu := { s.cu with open_ := some (s.tb.tick, s.tb.slot) } } := by
  simp [endSlot, none, ready, runs]

/-- The end of a slot keeps every group and the armed deal. -/
theorem endSlot_keeps (s : State) : Inv allKept s (endSlot s) := endSlot_inv s (inv_all s)

theorem slotSt_ends (power : s.bnd.powered = true) (clock : s.tb.running = true) (slot : s.tb.slot < 15)
    (closed : s.cu.open_ = none) :
    slotSt s = startSlot { endSlot s with tb := { s.tb with slot := s.tb.slot + 1, now := nextEdge s.tb } } := by
  have tb : (endSlot s).tb = s.tb := (endSlot_keeps s).same.tb rfl
  simp [slotSt, power, clock, Nat.not_le.mpr slot, closed, tb]

/-- Slot 15 ends at the tick, and no slot ends while a commit is in progress (R54, R66). -/
theorem slotSt_waits (h : s.tb.slot = 15 ∨ s.cu.open_.isSome = true) : slotSt s = s := by
  obtain slot | commit := h
  · simp [slotSt, slot]
  · simp [slotSt, commit]

theorem slotSt_keeps (power : s.bnd.powered = true) (clock : s.tb.running = true) (slot : s.tb.slot < 15)
    (closed : s.cu.open_ = none) :
    (settle (slotSt s)).tb = { s.tb with slot := s.tb.slot + 1, now := nextEdge s.tb } ∧
    (settle (slotSt s)).ps.active = s.ps.active ∧ (settle (slotSt s)).tc.otp = s.tc.otp ∧
    (settle (slotSt s)).bnd.ready = s.bnd.ready ∧ (settle (slotSt s)).pending = s.pending := by
  rw [slotSt_ends power clock slot closed]
  have ended := (endSlot_keeps s).same
  obtain ⟨queue, tb, plan, boot, life⟩ := (settle_inv _ (startSlot_inv _ (inv_all
    { endSlot s with tb := { s.tb with slot := s.tb.slot + 1, now := nextEdge s.tb } }))).same
  dsimp only at queue tb plan boot life ⊢
  exact ⟨tb rfl, (plan rfl).1.trans (ended.plan rfl).1, (life rfl).1.trans (ended.life rfl).1,
    (boot rfl).2.2.trans (ended.boot rfl).2.2, queue.trans ended.pending⟩

/-! ### Nothing starts where nothing waits (R166) -/

theorem stepsDue_of_nil (steps : s.steps = []) (n : Nat) : stepsDue s n = [] := by
  simp [stepsDue, steps]

theorem lcMembers_of_nil (reqs : s.ac.reqs = []) (n c k f slot : Nat) : lcMembers s n c k f slot = [] := by
  simp [lcMembers, reqs, sortBy]

theorem beMembers_of_nil (reqs : s.ac.reqs = []) (n c k : Nat) : beMembers s n c k = [] := by
  simp [beMembers, reqs, sortBy]

theorem templatesDue_of_nil (reqs : s.ac.reqs = []) (n : Nat) : templatesDue s n = [] := by
  simp [templatesDue, lcMembers_of_nil reqs]

theorem startDue_of_nil (steps : s.steps = []) (n : Nat) : startDue n s = s := by
  rw [startDue, stepsDue_of_nil steps, List.foldl_nil]

theorem startLcAll_of_nil (steps : s.steps = []) (reqs : s.ac.reqs = []) (n : Nat) : startLcAll n s = s := by
  simp [startLcAll, stepsDue_of_nil steps, templatesDue_of_nil reqs, sortBy]

theorem startReruns_of_nil (steps : s.steps = []) (n : Nat) : startReruns n s = s := by
  simp [startReruns, steps, sortBy]

theorem nextStep_of_nil (steps : s.steps = []) (q : Nat) : nextStep s q = none := by
  simp [nextStep, steps, leastBy]

theorem nextTemplate_of_nil (reqs : s.ac.reqs = []) (x : Queue) : nextTemplate s x = none := by
  simp [nextTemplate, beMembers_of_nil reqs]

theorem beReady_of_nil (steps : s.steps = []) (reqs : s.ac.reqs = []) (q : Nat) : beReady s q = none := by
  simp [beReady, nextStep_of_nil steps, nextTemplate_of_nil reqs]

theorem pickQueue_of_nil (steps : s.steps = []) (reqs : s.ac.reqs = []) (n : Nat) : pickQueue s n = none := by
  simp [pickQueue, beReady_of_nil steps reqs]

theorem startBe_of_nil (steps : s.steps = []) (reqs : s.ac.reqs = []) (n fuel : Nat) : startBe n fuel s = s := by
  cases fuel with
  | zero => rfl
  | succ fuel => rw [startBe, pickQueue_of_nil steps reqs, ite_self]

theorem fillBe_of_nil (steps : s.steps = []) (reqs : s.ac.reqs = []) (n : Nat) : fillBe n s = s := startBe_of_nil steps reqs n _

theorem arbitrate_of_nil (steps : s.steps = []) (reqs : s.ac.reqs = []) : arbitrate s = s :=
  foldl_eq_self fun n _ => by
    rw [startLcAll_of_nil steps reqs, startReruns_of_nil steps, fillBe_of_nil steps reqs, ite_self]

theorem startWaiting_of_nil (steps : s.steps = []) (reqs : s.ac.reqs = []) : startWaiting s = s :=
  foldl_eq_self fun n _ => by rw [startDue_of_nil steps, fillBe_of_nil steps reqs, ite_self]

theorem startJudge_of_none (none : s.rc.replay = none) : startJudge s = s := by
  simp [startJudge, none]

theorem startSlot_of_nil (steps : s.steps = []) (reqs : s.ac.reqs = []) (replay : s.rc.replay = none) : startSlot s = s := by
  rw [startSlot, startJudge_of_none replay, arbitrate_of_nil steps reqs, ite_self]

theorem overdue_of_nil (steps : s.steps = []) : overdue s = [] := by
  simp [overdue, steps]

/-- With no step, request or replay a slot's end opens its commit and the next slot starts with nothing. -/
theorem slotSt_idle (power : s.bnd.powered = true) (clock : s.tb.running = true) (slot : s.tb.slot < 15)
    (closed : s.cu.open_ = none) (ready : s.bnd.ready = true) (runs : s.cu.halted = false) (steps : s.steps = [])
    (reqs : s.ac.reqs = []) (replay : s.rc.replay = none) : slotSt s = { s with
      lre := { s.lre with slotUpdates := [] }, cu := { s.cu with open_ := some (s.tb.tick, s.tb.slot) }
      tb := { s.tb with slot := s.tb.slot + 1, now := nextEdge s.tb } } := by
  rw [slotSt_ends power clock slot closed, endSlot_of_none (overdue_of_nil steps) ready runs]
  exact startSlot_of_nil steps reqs replay

/-- A quiet state stays quiet when the slot and its commit move on. -/
theorem Quiet.setSlot (q : Quiet s) (lre : Lre) (cu : CommitUnit) (tb : TimeBase) : Quiet { s with lre := lre, cu := cu, tb := tb } :=
  { current := q.current, waiting := q.waiting, works := q.works, steps := q.steps, signals := q.signals, queues := q.queues
    jobs := q.jobs, backed := q.backed, awaiting := q.awaiting, outputs := q.outputs, loads := q.loads, keys := q.keys
    contexts := q.contexts }

/-! ### What a commit waits for (R66, R68) -/

theorem commitSt_idle (d : List Differ) (h : s.cu.open_ = none ∨ s.cu.halted = true) : commitSt d s = s := by
  unfold commitSt
  split
  · rfl
  · next f k commit =>
    obtain closed | halted := h
    · rw [closed] at commit
      cases commit
    · simp [halted]

theorem commitSt_unverified {f k : Nat} (d : List Differ) (commit : s.cu.open_ = some (f, k))
    (reads : commitUnverified s f k = true) : commitSt d s = s := by
  simp [commitSt, commit, reads]

theorem mem_ending {f k : Nat} {t : Step} (mem : t ∈ s.steps) (finished : t.phase = .finished) (frame : t.frame = f)
    (slot : t.slot = k) : t ∈ ending s f k := by
  simp [ending, mem, finished, frame, slot]

/-- A line of a finished step of the slot that is not verified holds its commit. -/
theorem commitUnverified_of_step {f k : Nat} {t : Step} (mem : t ∈ ending s f k) (reads : t.unverified ≠ []) :
    commitUnverified s f k = true := by
  have some_ : (ending s f k).any (fun t => t.unverified ≠ []) = true := List.any_eq_true.mpr ⟨t, mem, by simpa using reads⟩
  rw [commitUnverified, some_, Bool.true_or]

/-- So does a line that a killed step read. -/
theorem commitUnverified_of_block {f k : Nat} {b : Nat × Nat} (mem : (f, k, b) ∈ s.cu.blocks) : commitUnverified s f k = true := by
  have some_ : (s.cu.blocks.any fun b => b.1 == f && b.2.1 == k) = true := List.any_eq_true.mpr ⟨_, mem, by simp⟩
  rw [commitUnverified, some_, Bool.or_true]

/-! ### A commit whose lines are verified -/

theorem ending_of_nil (steps : s.steps = []) (f k : Nat) : ending s f k = [] := by
  simp [ending, steps]

theorem ending_of_one {f k : Nat} {t : Step} (steps : s.steps = [t]) (finished : t.phase = .finished) (frame : t.frame = f)
    (slot : t.slot = k) : ending s f k = [t] := by
  simp [ending, steps, finished, frame, slot]

theorem commitUnverified_eq_false {f k : Nat} (blocks : ∀ x ∈ s.cu.blocks, x.1 ≠ f ∨ x.2.1 ≠ k)
    (reads : ∀ t ∈ ending s f k, t.unverified = []) : commitUnverified s f k = false := by
  have steps : (ending s f k).any (fun t => t.unverified ≠ []) = false :=
    List.any_eq_false.mpr fun t mem => by simp [reads t mem]
  have lines : (s.cu.blocks.any fun b => b.1 == f && b.2.1 == k) = false :=
    List.any_eq_false.mpr fun b mem => by
      obtain other | other := blocks b mem <;> simp [other]
  rw [commitUnverified, steps, lines, Bool.or_self]

theorem commitSt_verified {f k : Nat} (d : List Differ) (power : s.bnd.powered = true) (runs : s.cu.halted = false)
    (commit : s.cu.open_ = some (f, k)) (verified : commitUnverified s f k = false) :
    commitSt d s = endCommit f k (if s.cu.applied then s else applyCommit f k d s) := by
  simp [commitSt, power, runs, commit, verified]

theorem applyCommit_of_nil (steps : s.steps = []) (f k : Nat) (d : List Differ) :
    applyCommit f k d s = { s with cu := { s.cu with applied := true, differ := d } } := by
  simp [applyCommit, ending_of_nil steps, commitAtoms, sortBy, steps]

/-- A commit that ends one step tells no tile where the step runs on none, and applies its log if the step qualifies. -/
theorem applyCommit_of_one {f k : Nat} {t : Step} (steps : s.steps = [t]) (finished : t.phase = .finished) (frame : t.frame = f)
    (slot : t.slot = k) (units : t.units = []) (d : List Differ) : applyCommit f k d s =
      (commitAtoms ([t].filter (qualifies d))).foldl (fun s a => applyAtom a.2.1 a.2.2.1 a.2.2.2 s)
        (([t].filter (qualifies d)).foldl (fun s t => t.log.foldl (applyEffect t) s)
          { s with cu := { s.cu with applied := true, differ := d }, steps := [{ t with log := [] }] }) := by
  simp only [applyCommit, ending_of_one steps finished frame slot, List.foldl_cons, List.foldl_nil, tellTile, units, steps,
    List.any_cons, List.any_nil, beq_self_eq_true, Bool.or_false, if_true, List.map_cons, List.map_nil]

theorem afterCommit_of_nil (steps : s.steps = []) (lines : ∀ x ∈ s.coh.lines, x.2.wait = []) : afterCommit s = s := by
  have none : (s.coh.lines.filter fun p => decide (p.2.wait ≠ [])) = [] :=
    List.filter_eq_nil_iff.mpr fun p mem => by simp [lines p mem]
  rw [afterCommit, none]
  simp [steps]

theorem endCommit_waits (lines : updatesWait s = true) (f k : Nat) : endCommit f k s = s := by
  simp [endCommit, lines]

theorem endCommit_of_nil (free : updatesWait s = false) (steps : s.steps = []) (signals : s.qu.signals = [])
    (lines : ∀ x ∈ s.coh.lines, x.2.wait = []) (f k : Nat) : endCommit f k s =
      (hands s.ps.active).foldl (fun s n => fillBe n s)
        { s with cu := { s.cu with open_ := none, applied := false, differ := [] } } := by
  have same : { s with qu := { s.qu with signals := [] } } = s := set_signals signals.symm
  have after := afterCommit_of_nil (s := { s with cu := { s.cu with open_ := none, applied := false, differ := [] } }) steps lines
  simp only [endCommit, free, ending_of_nil steps, signals, List.filter_nil, List.foldl_nil, List.map_nil, List.append_nil, sortBy,
    List.foldr_nil, same]
  rw [after]
  rfl

theorem commitCounts_same (t : Step) (s : State) : (commitCounts s t).qu = s.qu := by
  unfold commitCounts
  dsimp only
  split <;> split <;> rfl

/-- A step that qualifies ends with OK in its commit, and what waited for the commit goes on. -/
theorem endCommit_of_one {f k : Nat} {t : Step} (free : updatesWait s = false) (steps : s.steps = [t]) (signals : s.qu.signals = [])
    (finished : t.phase = .finished) (frame : t.frame = f) (slot : t.slot = k) (good : qualifies s.cu.differ t = true)
    {u v : State} (hu : u = finishStep t { st := .ok, skipped := t.skipped, range := t.range } (commitCounts s t))
    (hv : v = afterCommit { u with cu := { u.cu with open_ := none, applied := false, differ := [] } }) :
    endCommit f k s = (hands v.ps.active).foldl (fun s n => fillBe n s) v := by
  have none : (commitCounts s t).qu.signals = [] := by rw [commitCounts_same, signals]
  have same : { commitCounts s t with qu := { (commitCounts s t).qu with signals := [] } } = commitCounts s t :=
    set_signals none.symm
  subst hu hv
  simp only [endCommit, free, ending_of_one steps finished frame slot, List.filter_cons, good, List.filter_nil, List.foldl_cons,
    List.foldl_nil, List.map_cons, List.map_nil, List.append_nil, sortBy, List.foldr_cons, List.foldr_nil, sortBy.insertBy',
    if_true, if_false, Bool.not_true, Bool.false_eq_true, none, same, endOne]

theorem qualifies_iff (d : List Differ) (t : Step) : qualifies d t = true ↔
    t.fail = none ∧ t.poisoned = false ∧ ¬(t.redundant = true ∧ ∃ x ∈ d, x.step = t.id) := by
  cases red : t.redundant <;> simp [qualifies, differOf, red, and_assoc]

/-- One write of a step that qualifies is applied. -/
theorem applyCommit_write {f k dva : Nat} {t : Step} {bs : List Byte} {d : List Differ} (steps : s.steps = [t])
    (finished : t.phase = .finished) (frame : t.frame = f) (slot : t.slot = k) (units : t.units = []) (log : t.log = [.write dva bs])
    (good : qualifies d t = true) : applyCommit f k d s = writeDva t.part t.xlats dva bs true (stashOf t.raw)
      { s with cu := { s.cu with applied := true, differ := d }, steps := [{ t with log := [] }] } := by
  simp [applyCommit_of_one steps finished frame slot units, good, commitAtoms, sortBy, log, applyEffect]

/-- Nothing of a step that failed is. -/
theorem applyCommit_failed {f k : Nat} {t : Step} {e : Status} (steps : s.steps = [t])
    (finished : t.phase = .finished) (frame : t.frame = f) (slot : t.slot = k) (units : t.units = []) (failed : t.fail = some e)
    (d : List Differ) : applyCommit f k d s =
      { s with cu := { s.cu with applied := true, differ := d }, steps := [{ t with log := [] }] } := by
  simp [applyCommit_of_one steps finished frame slot units, qualifies, failed, commitAtoms, sortBy]

end

/-- Settles O14: the end of a slot by what holds it and by what is overdue; a commit by what it waits for, and then by the one
step that it ends, if any. -/
theorem slotsEndAndCommit : Obligations.SlotsEndAndCommit := by
  refine ⟨fun s power clock slot closed => ⟨settles (slotSt_ends power clock slot closed), _, rfl,
      slotSt_keeps power clock slot closed⟩, fun s power clock slot closed ready runs q steps reqs replay => ?_,
    fun s none ready runs => endSlot_of_none none ready runs, fun s held => settles (slotSt_waits held),
    fun d s idle => settles (commitSt_idle d idle), fun d f k t s commit mem finished frame slot reads => ?_,
    fun d f k b s commit mem => settles (commitSt_unverified d commit (commitUnverified_of_block mem)),
    fun d f k s power runs commit steps signals lines blocks free => settles ?_,
    fun d f k t dva bs s power runs commit applied steps finished frame slot verified units log good blocks => settles ?_,
    fun d f k t e s power runs commit applied steps finished frame slot verified units failed blocks => settles ?_,
    fun f k t u v s free steps signals finished frame slot good hu hv =>
      endCommit_of_one free steps signals finished frame slot good hu hv,
    fun f k s held => endCommit_waits held f k, fun t dva bs s => rfl, qualifies_iff⟩
  · exact (settles (slotSt_idle power clock slot closed ready runs steps reqs replay)).trans
      (Machine.runs (q.setSlot _ _ _).settle_eq)
  · exact settles (commitSt_unverified d commit (commitUnverified_of_step (mem_ending mem finished frame slot) reads))
  · have verified := commitUnverified_eq_false (f := f) (k := k) blocks (by simp [ending_of_nil steps])
    rw [commitSt_verified d power runs commit verified, applyCommit_of_nil steps]
    split
    · exact endCommit_of_nil free steps signals lines f k
    · exact endCommit_of_nil (s := { s with cu := { s.cu with applied := true, differ := d } }) free steps signals lines f k
  · have verified := commitUnverified_eq_false (f := f) (k := k) blocks
      (by simpa [ending_of_one steps finished frame slot] using verified)
    rw [commitSt_verified d power runs commit verified, applied, if_neg Bool.false_ne_true,
      applyCommit_write steps finished frame slot units log good]
  · have verified := commitUnverified_eq_false (f := f) (k := k) blocks
      (by simpa [ending_of_one steps finished frame slot] using verified)
    rw [commitSt_verified d power runs commit verified, applied, if_neg Bool.false_ne_true,
      applyCommit_failed steps finished frame slot units failed]

end Sys2Proof.Machine
end

section
/-!
SUPPORT. A tick: what it keeps, and what its frame's end, its deal and the first tick of a start change (R37, R49, R53, R107).
-/
namespace Sys2Proof.Machine
open Sys2Proof

/-! ### What a tick does after its deal -/

/-- The frame's work after the deal, which takes place only where one was `due`. -/
def frameWork (due : Bool) (h : HealthIn) (s : State) : State :=
  let s := emptyClock s
  let dealt := due && s.ps.dealTick == s.tb.tick
  let s := joinBatches (marginLow dealt h.overdraw (publishMargin dealt s))
  let s := startSlot (updatePages (beat (swapExports (applyMasks (replenish s)))))
  if s.bnd.resetAtTick then
    askChipReset { cause := .mctp, dump := true } { s with bnd := { s.bnd with resetAtTick := false } }
  else s

/-- The state of a tick before its deal, from what slot 15 or the start leaves. -/
def frameEdge (h : HealthIn) (s : State) : State := releaseTrick (nextFrame (countCorrected h.corrected (frameHealth h s)))

theorem frameWork_inv {K : Goals} {r s : State} (due : Bool) (h : HealthIn) (keeps : Inv K r s) : Inv K r (frameWork due h s) := by
  have work := fun dealt => startSlot_inv _ (updatePages_inv _ (beat_inv _ (swapExports_inv _ (applyMasks_inv _ (replenish_inv _
    (joinBatches_inv _ (marginLow_inv dealt h.overdraw _ (publishMargin_inv dealt _ (emptyClock_inv _ keeps)))))))))
  unfold frameWork
  dsimp only
  split
  · exact askChipReset_inv _ _ (.put rfl rfl rfl rfl rfl rfl rfl rfl rfl rfl rfl rfl rfl rfl rfl rfl ⟨rfl, rfl, rfl, rfl, rfl⟩
      rfl rfl rfl rfl (work _))
  · exact work _

/-- The frame advances alone: all else of the groups stays. -/
theorem frameEdge_keeps (h : HealthIn) (s : State) :
    Inv allKept { s with tb := { s.tb with now := nextTick s.tb, tick := (s.tb.tick + 1) % 2 ^ 48, slot := 0 } } (frameEdge h s) := by
  have before := countCorrected_inv h.corrected _ (frameHealth_inv h s (inv_all s))
  have after := releaseTrick_inv _ (inv_all (nextFrame (countCorrected h.corrected (frameHealth h s))))
  obtain ⟨queue, tb, plan, boot, life⟩ := before.same
  obtain ⟨queue', tb', plan', boot', life'⟩ := after.same
  refine .intro nofun ⟨⟨queue'.trans queue, fun _ => (tb' rfl).trans ?_, fun _ => ?_, fun _ => ?_, fun _ => ?_⟩, fun _ => ?_⟩
  · rw [nextFrame, tb rfl]
  · exact ⟨(plan' rfl).1.trans (plan rfl).1, (plan' rfl).2.1.trans (plan rfl).2.1, (plan' rfl).2.2.trans (plan rfl).2.2⟩
  · exact ⟨(boot' rfl).1.trans (boot rfl).1, (boot' rfl).2.1.trans (boot rfl).2.1, (boot' rfl).2.2.trans (boot rfl).2.2⟩
  · exact ⟨(life' rfl).1.trans (life rfl).1, (life' rfl).2.trans (life rfl).2⟩
  · exact ⟨(after.armed rfl).1.trans (before.armed rfl).1, (after.armed rfl).2.trans (before.armed rfl).2⟩

/-- Every group but the plan. -/
def unplanned : Goals := { allKept with plan := false, arm := false }

/-- What keeps every group keeps all but the plan. -/
theorem Inv.unplanned {r s : State} (keeps : Inv allKept r s) : Inv unplanned r s := by
  obtain ⟨queue, tb, plan, boot, life⟩ := keeps.same
  exact .intro nofun ⟨⟨queue, fun _ => tb rfl, nofun, fun _ => boot rfl, fun _ => life rfl⟩, nofun⟩

theorem armedDeal_of_unarmed {s : State} (h : s.ps.armed = false) : armedDeal s = s := by
  unfold armedDeal
  rw [h]

section
variable {s : State}

/-- A tick of a device that is READY. -/
theorem tickSt_ready (h : HealthIn) (power : s.bnd.powered = true) (clock : s.tb.running = true) (closed : s.cu.open_ = none)
    (ready : s.bnd.ready = true) (slot : s.tb.slot = 15) : tickSt h s =
      frameWork (frameEdge h (endSlot s)).ps.armed h (armedDeal (frameEdge h (endSlot s))) := by
  have boot := (((frameEdge_keeps h (endSlot s)).same.boot rfl).2.2).trans
    (((endSlot_keeps s).same.boot rfl).2.2.trans ready)
  rw [tickSt]
  simp only [power, clock, closed, ready, slot, Bool.not_true, Bool.false_or, Option.isSome_none, Bool.true_and, ne_eq,
    not_true_eq_false, decide_false, Bool.false_eq_true, if_false, if_true]
  rw [frameEdge] at boot
  rw [if_pos boot]
  rfl

/-- The first tick of a start. -/
theorem tickSt_first (h : HealthIn) (power : s.bnd.powered = true) (clock : s.tb.running = true) (closed : s.cu.open_ = none)
    (unready : s.bnd.ready = false) : tickSt h s =
      frameWork (firstTick (frameEdge h s)).ps.armed h (armedDeal (firstTick (frameEdge h s))) := by
  have boot := (((frameEdge_keeps h s).same.boot rfl).2.2).trans unready
  rw [tickSt]
  simp only [power, clock, closed, unready, Bool.not_true, Bool.false_or, Option.isSome_none, Bool.false_and,
    Bool.false_eq_true, if_false]
  rw [frameEdge] at boot
  rw [boot, if_neg Bool.false_ne_true]
  rfl

theorem tickSt_waits (h : HealthIn) (wait : s.cu.open_.isSome = true ∨ (s.bnd.ready = true ∧ s.tb.slot ≠ 15)) : tickSt h s = s := by
  obtain commit | ⟨ready, slot⟩ := wait
  · simp [tickSt, commit]
  · simp [tickSt, ready, slot]

end

/-! ### The version floor of the first tick (R511) -/

theorem report_commitSvn (m : FMsg) (s : State) : (report m s).tc.commitSvn = s.tc.commitSvn := by
  unfold report
  split
  · rfl
  · refine (congrArg (fun t : State => t.tc.commitSvn) (react_reactsTo m _ _)).trans ?_
    dsimp only
    split
    · split <;> rfl
    · rfl

theorem ceRate_commitSvn (owner offset a b : Nat) (s : State) : (ceRate owner offset a b s).tc.commitSvn = s.tc.commitSvn := by
  unfold ceRate
  split
  · rfl
  · exact foldl_same (fun s : State => s.tc.commitSvn) (fun s _ => report_commitSvn _ s) _ s

theorem countCorrected_commitSvn (c : Corrected) (s : State) : (countCorrected c s).tc.commitSvn = s.tc.commitSvn := by
  have array : ∀ s x, (ceArray s x).tc.commitSvn = s.tc.commitSvn := fun s x => by
    unfold ceArray
    dsimp only
    split
    · rfl
    · exact ceRate_commitSvn ..
  have stack : ∀ s x, (ceStackLink s x).tc.commitSvn = s.tc.commitSvn := fun s x => by
    unfold ceStackLink
    dsimp only
    split
    · rfl
    · exact ceRate_commitSvn ..
  have tile : ∀ s x, (ceTileLink s x).tc.commitSvn = s.tc.commitSvn := fun s x => by
    unfold ceTileLink
    dsimp only
    split
    · rfl
    · refine (ceRate_commitSvn ..).trans ?_
      split <;> rfl
  have mem : ∀ s x, (ceMem s x).tc.commitSvn = s.tc.commitSvn := fun s x => by
    unfold ceMem
    dsimp only
    split
    · rfl
    · refine (ceRate_commitSvn ..).trans ?_
      split <;> rfl
  calc (countCorrected c s).tc.commitSvn
    _ = _ := foldl_same (fun s : State => s.tc.commitSvn) mem c.pcs _
    _ = _ := foldl_same (fun s : State => s.tc.commitSvn) tile c.tiles _
    _ = _ := foldl_same (fun s : State => s.tc.commitSvn) stack c.stackLinks _
    _ = _ := ceRate_commitSvn ..
    _ = _ := foldl_same (fun s : State => s.tc.commitSvn) array c.arrays s

theorem frameHealth_tc (h : HealthIn) (s : State) : (frameHealth h s).tc = s.tc := by
  unfold frameHealth raiseRail raiseAllow
  dsimp only
  split <;> split <;> rfl

theorem releaseTrick_tc (s : State) : (releaseTrick s).tc = s.tc := by
  have ports := foldl_same (fun s : State => s.tc) (f := fun s p => stampTrick p s) (fun _ _ => rfl)
  have frames := fun l : List Response => foldl_same (fun s : State => s.tc)
    (f := fun s r => emit (.datagram r.port r.addr r.udp r.bytes) s) (fun _ _ => rfl) l
  unfold releaseTrick
  split
  · rfl
  · simp only [frames, ports]

theorem frameEdge_commitSvn (h : HealthIn) (s : State) : (frameEdge h s).tc.commitSvn = s.tc.commitSvn := by
  have tc := releaseTrick_tc (nextFrame (countCorrected h.corrected (frameHealth h s)))
  calc (frameEdge h s).tc.commitSvn
    _ = (countCorrected h.corrected (frameHealth h s)).tc.commitSvn := congrArg (fun t : Trust => t.commitSvn) tc
    _ = (frameHealth h s).tc.commitSvn := countCorrected_commitSvn ..
    _ = s.tc.commitSvn := congrArg (fun t : Trust => t.commitSvn) (frameHealth_tc h s)

/-- The version floor that the first tick leaves. -/
def startFloor (t : Trust) : BitVec 64 :=
  match t.commitSvn with
  | some v => t.otp.svnFloor ||| bitsOf 64 (List.range (min v 64))
  | none => t.otp.svnFloor

/-- What the first tick changes of the boot state and the one-time-programmable array. -/
theorem firstTick_start (s : State) : (firstTick s).tb = s.tb ∧ (firstTick s).bnd.ready = true ∧
    (firstTick s).bnd.stage = .ready ∧ (firstTick s).tc.otp = { s.tc.otp with svnFloor := startFloor s.tc } := by
  have walk := foldl_same (fun s : State => (s.tb, s.bnd.ready, s.bnd.stage, s.tc.otp))
    (f := fun s n => { s with tc := { s.tc with hr := tmod {} s.tc.hr n fun p => { p with sinceTick := s.tb.tick } } })
    (fun _ _ => rfl) (List.range 32)
  have same := walk (releaseErr { s with
    bnd := { s.bnd with stage := .ready, ready := true }, ps := { s.ps with dealTick := s.tb.tick },
    tc := { s.tc with otp := { s.tc.otp with svnFloor := startFloor s.tc } } })
  simp only [Prod.mk.injEq] at same
  exact same

section
variable {s : State}

theorem tickSt_ready_keeps (h : HealthIn) (power : s.bnd.powered = true) (clock : s.tb.running = true) (closed : s.cu.open_ = none)
    (ready : s.bnd.ready = true) (slot : s.tb.slot = 15) :
    (settle (tickSt h s)).tb = { s.tb with now := nextTick s.tb, tick := (s.tb.tick + 1) % 2 ^ 48, slot := 0 } ∧
    (s.ps.armed = false → (settle (tickSt h s)).ps.active = s.ps.active ∧ (settle (tickSt h s)).ps.staged = s.ps.staged) ∧
    (settle (tickSt h s)).tc.otp = s.tc.otp ∧ (settle (tickSt h s)).tc.lc = s.tc.lc ∧
    (settle (tickSt h s)).bnd.ready = true ∧ (settle (tickSt h s)).bnd.stage = s.bnd.stage ∧
    (settle (tickSt h s)).pending = s.pending := by
  rw [tickSt_ready h power clock closed ready slot]
  have ended := endSlot_keeps s
  have edge := frameEdge_keeps h (endSlot s)
  obtain ⟨queue, tb, plan, boot, life⟩ := ended.same
  obtain ⟨queue', tb', plan', boot', life'⟩ := edge.same
  obtain ⟨queue'', tb'', _, boot'', life''⟩ := (settle_inv _ (frameWork_inv (frameEdge h (endSlot s)).ps.armed h
    (armedDeal_inv _ rfl rfl (inv_all (frameEdge h (endSlot s))).unplanned))).same
  dsimp only at queue' tb' plan' boot' life'
  refine ⟨?_, fun unarmed => ?_, (life'' rfl).1.trans ((life' rfl).1.trans (life rfl).1),
    (life'' rfl).2.trans ((life' rfl).2.trans (life rfl).2), (boot'' rfl).2.2.trans ((boot' rfl).2.2.trans ((boot rfl).2.2.trans ready)),
    (boot'' rfl).2.1.trans ((boot' rfl).2.1.trans (boot rfl).2.1), queue''.trans (queue'.trans queue)⟩
  · rw [tb'' rfl, tb' rfl, tb rfl]
  · have still : (frameEdge h (endSlot s)).ps.armed = false := (edge.armed rfl).1.trans ((ended.armed rfl).1.trans unarmed)
    rw [armedDeal_of_unarmed still]
    have work := (settle_inv _ (frameWork_inv (frameEdge h (endSlot s)).ps.armed h (inv_all (frameEdge h (endSlot s))))).same.plan rfl
    exact ⟨work.1.trans ((plan' rfl).1.trans (plan rfl).1), work.2.1.trans ((plan' rfl).2.1.trans (plan rfl).2.1)⟩

theorem tickSt_first_keeps (h : HealthIn) (power : s.bnd.powered = true) (clock : s.tb.running = true) (closed : s.cu.open_ = none)
    (unready : s.bnd.ready = false) : (settle (tickSt h s)).bnd.ready = true ∧ (settle (tickSt h s)).bnd.stage = .ready ∧
    (settle (tickSt h s)).tb = { s.tb with now := nextTick s.tb, tick := (s.tb.tick + 1) % 2 ^ 48, slot := 0 } ∧
    (settle (tickSt h s)).tc.otp = (firstTick s).tc.otp := by
  rw [tickSt_first h power clock closed unready]
  obtain ⟨_, tb, _, _, life⟩ := (frameEdge_keeps h s).same
  obtain ⟨tb', ready, stage, otp⟩ := firstTick_start (frameEdge h s)
  obtain ⟨_, _, _, otp'⟩ := firstTick_start s
  obtain ⟨_, tb'', _, boot'', life''⟩ := (settle_inv _ (frameWork_inv (firstTick (frameEdge h s)).ps.armed h
    (armedDeal_inv _ rfl rfl (inv_all (firstTick (frameEdge h s))).unplanned))).same
  refine ⟨(boot'' rfl).2.2.trans ready, (boot'' rfl).2.1.trans stage, (tb'' rfl).trans (tb'.trans (tb rfl)),
    (life'' rfl).1.trans (otp.trans ?_)⟩
  rw [otp', startFloor, startFloor, frameEdge_commitSvn, (life rfl).1]

/-- A READY device's tick shows the plan that its armed deal leaves. -/
theorem tickSt_plan (h : HealthIn) (power : s.bnd.powered = true) (clock : s.tb.running = true) (closed : s.cu.open_ = none)
    (ready : s.bnd.ready = true) (slot : s.tb.slot = 15) :
    (settle (tickSt h s)).ps.active = (armedDeal (frameEdge h (endSlot s))).ps.active ∧
    (settle (tickSt h s)).ps.epochs = (armedDeal (frameEdge h (endSlot s))).ps.epochs := by
  rw [tickSt_ready h power clock closed ready slot]
  have work := (settle_inv _ (frameWork_inv (frameEdge h (endSlot s)).ps.armed h
    (inv_all (armedDeal (frameEdge h (endSlot s)))))).same.plan rfl
  exact ⟨work.1, work.2.2⟩

end

/-- Settles O15: by the three forms of a tick, each with what its parts keep. -/
theorem tickStartsAFrame : Obligations.TickStartsAFrame := by
  refine ⟨fun h s power clock closed ready slot => ⟨_, rfl, tickSt_ready_keeps h power clock closed ready slot⟩,
    fun h s power clock closed unready => ⟨_, rfl, ?_⟩, fun h s wait => settles (tickSt_waits h wait)⟩
  obtain ⟨ready, stage, tb, otp⟩ := tickSt_first_keeps h power clock closed unready
  obtain ⟨_, _, _, otp'⟩ := firstTick_start s
  have floor : (settle (tickSt h s)).tc.otp.svnFloor = startFloor s.tc := by rw [otp, otp']
  refine ⟨ready, stage, tb, by rw [otp, otp'], floor.trans ?_⟩
  unfold startFloor
  cases s.tc.commitSvn <;> rfl

end Sys2Proof.Machine
end

section
/-!
SUPPORT. The armed deal of a tick, and the tiles that are present again after it (R107, R111, R125, R126).
-/
namespace Sys2Proof.Machine
open Sys2Proof

/-! ### The plan of a deal -/

/-- The Plan Store after the deal of plan `b`. -/
def dealtStore (a b : Image) (s : State) : PlanStore :=
  { s.ps with active := b, shadow := none, staged := true, epochs := dealEpochs a b s.ps.epochs,
              dealTick := s.tb.tick, dealNs := some s.tb.now, deals := satAdd 64 s.ps.deals 1, dealt := true, armed := false }

/-- What a deal from `a` to `b` does once the plan is active. -/
def dealWork (a b : Image) (first : Bool) (s : State) : State :=
  let s := if first then lockFields s else s
  let s := returnStock a b (dealGens a b s)
  let s := { s with mi := { s.mi with keys := dealKeys a b first s.mi.keys,
                                      pcs := if first then s.mi.pcs.map fun p => (p.1, { p.2 with kept := false }) else s.mi.pcs } }
  let s := ((moved a b).flatMap fun n => pcList b n).foldl spoilPc s
  dealClocks (newcomers a b (markStale a b (dealReports a b (dealTrust a b s))))

theorem dealWork_inv {K : Goals} {r s : State} (a b : Image) (first : Bool) (keeps : Inv K r s) :
    Inv K r (dealWork a b first s) := by
  have locked : Inv K r (if first then lockFields s else s) := by
    split
    · exact lockFields_inv _ keeps
    · exact keeps
  have stock := returnStock_inv a b _ (dealGens_inv a b _ locked)
  unfold dealWork
  dsimp only
  generalize returnStock a b _ = u at stock ⊢
  refine dealClocks_inv _ (newcomers_inv a b _ (markStale_inv a b _ (dealReports_inv a b _ (dealTrust_inv a b _
    (Inv.foldl _ (fun s p h => spoilPc_inv s p h) ?_)))))
  exact .put rfl rfl rfl rfl rfl rfl rfl rfl rfl rfl rfl rfl rfl rfl rfl rfl ⟨rfl, rfl, rfl, rfl, rfl⟩ rfl rfl rfl rfl stock

/-- A deal makes its plan active as a whole. -/
theorem deal_plan (b : Image) (s : State) : (deal b s).ps.active = b ∧ (deal b s).ps.staged = true ∧
    (deal b s).ps.epochs = dealEpochs s.ps.active b s.ps.epochs := by
  obtain ⟨_, store, _⟩ := fabricFall_same (changedTiles s.ps.active b) s
  have work : Inv allKept _ (deal b s) := dealWork_inv s.ps.active b (!s.ps.staged) (inv_all
    { fabricFall (changedTiles s.ps.active b) s with
      bnd := { (fabricFall (changedTiles s.ps.active b) s).bnd with
        rising := (fabricFall (changedTiles s.ps.active b) s).bnd.rising ||| bitsOf 64 (changedTiles s.ps.active b) }
      ps := dealtStore s.ps.active b (fabricFall (changedTiles s.ps.active b) s) })
  obtain ⟨active, staged, epochs⟩ := work.same.plan rfl
  refine ⟨active, staged, epochs.trans ?_⟩
  rw [dealtStore, store]

section
variable {s : State} {img : Image}

theorem armedDeal_ok (armed : s.ps.armed = true) (shadow : s.ps.shadow = some img)
    (good : (checkPlan img (planView s)).status = .ok) : armedDeal s = deal img s := by
  simp [armedDeal, armed, shadow, good]

theorem armedDeal_bad (armed : s.ps.armed = true) (shadow : s.ps.shadow = some img)
    (bad : (checkPlan img (planView s)).status ≠ .ok) : armedDeal s =
      putVerdict (checkPlan img (planView s)) (planView s) (planDigest img) true { s with ps := { s.ps with armed := false } } := by
  simp [armedDeal, armed, shadow, bad]

/-- A vector that is raised changes only what has left the block. -/
theorem msix_rest (fn : Fn) (v : Nat) (s : State) (o : List Out) : { msix fn v s with out := o } = { s with out := o } := by
  unfold msix
  split <;> rfl

/-- A verdict changes the Plan Store's verdict and counters, and what leaves the block. -/
theorem putVerdict_rest (v : Verdict) (view : PlanView) (digest : Digest) (ok : Bool) (s : State) :
    { putVerdict v view digest ok s with out := s.out } = { s with ps := { s.ps with
      verdict := v, done := true, checks := satAdd 64 s.ps.checks 1
      refusals := if v.status = .ok then s.ps.refusals else satAdd 64 s.ps.refusals 1 } } := by
  unfold putVerdict
  dsimp only
  rw [msix_rest]
  split <;> split <;> rfl

theorem armedDeal_refused (armed : s.ps.armed = true) (shadow : s.ps.shadow = some img)
    (bad : (checkPlan img (planView s)).status ≠ .ok) : (armedDeal s).ps.active = s.ps.active ∧
    (armedDeal s).ps.epochs = s.ps.epochs ∧ (armedDeal s).ps.armed = false ∧ (armedDeal s).ps.done = true ∧
    (armedDeal s).ps.verdict = checkPlan img (planView s) ∧ (armedDeal s).rc = s.rc ∧ (armedDeal s).mi = s.mi ∧
    (armedDeal s).lre = s.lre := by
  rw [armedDeal_bad armed shadow bad]
  have rest := congrArg (fun t : State =>
      (t.ps.active, t.ps.epochs, t.ps.armed, t.ps.done, t.ps.verdict, t.rc, t.mi, t.lre))
    (putVerdict_rest (checkPlan img (planView s)) (planView s) (planDigest img) true { s with ps := { s.ps with armed := false } })
  simpa only [Prod.mk.injEq] using rest

/-! ### What rises (R111) -/

theorem mem_partsOf {a b : Image} {ks : List Change} {n : Nat} (bound : n < 32) :
    n ∈ partsOf a b ks ↔ changeKind a b n ∈ ks := by
  simp [partsOf, kindsOf, bound]

theorem partsOf_nodup (a b : Image) (ks : List Change) : (partsOf a b ks).Nodup := by
  have kinds : (kindsOf a b).map (fun p => p.1) = List.range 32 := by
    rw [kindsOf, List.map_map]
    exact List.map_id' _
  refine (List.filter_sublist.map _).nodup ?_
  rw [kinds]
  exact List.nodup_range

/-- A walk that writes a table at some numbers, each once, changes those entries alone. -/
theorem tget_foldl_tput {α : Type} (d : α) (f : Nat → α → α) {l : List Nat} (once : l.Nodup) (t : Tab α) (n : Nat) :
    tget d (l.foldl (fun t n => tput t n (f n (tget d t n))) t) n = if n ∈ l then f n (tget d t n) else tget d t n := by
  induction l generalizing t with
  | nil => rfl
  | cons k l ih =>
    obtain ⟨new, once⟩ := List.nodup_cons.mp once
    rw [List.foldl_cons, ih once, tget_tput]
    by_cases same : n = k
    · subst same
      simp [new]
    · simp [same]

theorem foldl_partGen (l : List Nat) (s : State) : (l.foldl (fun s n =>
      { s with rc := { s.rc with partGen := tput s.rc.partGen n ((partGen s n + 1) % 256) } }) s).rc.partGen =
    l.foldl (fun t n => tput t n ((tget 0 t n + 1) % 256)) s.rc.partGen := by
  induction l generalizing s with
  | nil => rfl
  | cons k l ih => exact ih _

theorem partGen_dealGens (a b : Image) (s : State) {n : Nat} (bound : n < 32) : partGen (dealGens a b s) n =
    if changeKind a b n ∈ [Change.created, .reshaped, .withdrawn] then (partGen s n + 1) % 256 else partGen s n := by
  have engines := fun s : State => foldl_same (fun s : State => s.rc) (f := fun s e => raiseEngine e s) (fun _ _ => rfl)
    (changedEngines a b) s
  rw [partGen, dealGens]
  dsimp only
  rw [engines, foldl_partGen, genParts, tget_foldl_tput 0 (fun _ g => (g + 1) % 256) (partsOf_nodup a b _)]
  exact if_congr (mem_partsOf bound) rfl rfl

theorem dealEpochs_of (a b : Image) (t : Tab Nat) {n : Nat} (bound : n < 32) : tget 0 (dealEpochs a b t) n =
    if changeKind a b n = .unchanged then tget 0 t n else if hasHand b n then hEpoch b n else tget 0 t n + 1 := by
  rw [dealEpochs, epochParts, tget_foldl_tput 0 (fun n e => if hasHand b n then hEpoch b n else e + 1) (partsOf_nodup a b _)]
  have parts : n ∈ partsOf a b [.created, .adjusted, .reshaped, .withdrawn] ↔ ¬changeKind a b n = .unchanged := by
    rw [mem_partsOf bound]
    cases changeKind a b n <;> decide
  simp only [parts, ite_not]

/-! ### The tiles that are present again (R126) -/

theorem mem_bitList {w : Nat} {v : BitVec w} {i : Nat} : i ∈ bitList v ↔ v.getLsbD i = true := by
  rw [bitList, List.mem_filter, List.mem_range]
  exact ⟨fun h => h.2, fun h => ⟨BitVec.lt_of_getLsbD h, h⟩⟩

theorem fabricRise_rising (l : List Nat) (s : State) :
    (fabricRise l s).bnd.rising = l.foldl (fun v i => setBit v i false) s.bnd.rising := by
  induction l generalizing s with
  | nil => rfl
  | cons t l ih => exact ih _

theorem fabricRise_dead (l : List Nat) (s : State) :
    (fabricRise l s).coh.dead = l.foldl (fun v i => setBit v i false) s.coh.dead := by
  induction l generalizing s with
  | nil => rfl
  | cons t l ih => exact ih _

theorem foldl_setBit_bitList {w : Nat} (m v : BitVec w) (b : Bool) {j : Nat} (bound : j < w) :
    ((bitList m).foldl (fun v i => setBit v i b) v).getLsbD j = if m.getLsbD j then b else v.getLsbD j := by
  rw [getLsbD_foldl_setBit b _ v bound]
  exact if_congr mem_bitList rfl rfl

/-- After the rise no tile is due, and those that were are present and not dead. -/
theorem fabricRise_due (s : State) : (fabricRise (bitList s.bnd.rising) s).bnd.rising = 0 ∧
    (fabricRise (bitList s.bnd.rising) s).bnd.fabric = s.bnd.fabric ||| s.bnd.rising ∧
    ∀ n, n < 64 → (fabricRise (bitList s.bnd.rising) s).coh.dead.getLsbD n = (s.coh.dead.getLsbD n && !s.bnd.rising.getLsbD n) := by
  refine ⟨BitVec.eq_of_getLsbD_eq fun n bound => ?_, BitVec.eq_of_getLsbD_eq fun n bound => ?_, fun n bound => ?_⟩
  · rw [fabricRise_rising, foldl_setBit_bitList _ _ _ bound]
    simp
  · rw [fabricRise_fabric, foldl_setBit_bitList _ _ _ bound, BitVec.getLsbD_or]
    cases s.bnd.rising.getLsbD n <;> simp
  · rw [fabricRise_dead, foldl_setBit_bitList _ _ _ bound]
    cases s.bnd.rising.getLsbD n <;> simp

/-- A quiet state stays quiet when tiles are present again. -/
theorem Quiet.fabricRise (q : Quiet s) (l : List Nat) : Quiet (fabricRise l s) := by
  rw [← fabricRise_rest l s] at q
  exact { current := q.current, waiting := q.waiting, works := q.works, steps := q.steps, signals := q.signals
          queues := q.queues, jobs := q.jobs, backed := q.backed, awaiting := q.awaiting, outputs := q.outputs
          loads := q.loads, keys := q.keys, contexts := q.contexts }

/-- With no step and no request nothing starts when the tiles are present again. -/
theorem riseSt_idle (power : s.bnd.powered = true) (steps : s.steps = []) (reqs : s.ac.reqs = []) :
    riseSt s = Machine.fabricRise (bitList s.bnd.rising) s := by
  have rest := congrArg (fun t : State => (t.steps, t.ac.reqs)) (fabricRise_rest (bitList s.bnd.rising) s)
  simp only [Prod.mk.injEq, steps, reqs] at rest
  obtain ⟨steps', reqs'⟩ := rest
  simp [riseSt, power, startWaiting_of_nil steps' reqs']

theorem riseSt_live (power : s.bnd.powered = true) (up : live s = true) (runs : s.cu.halted = false) :
    riseSt s = startWaiting (Machine.fabricRise (bitList s.bnd.rising) s) := by
  have rest := congrArg (fun t : State => (live t, t.cu.halted)) (fabricRise_rest (bitList s.bnd.rising) s)
  simp only [Prod.mk.injEq] at rest
  obtain ⟨up', runs'⟩ := rest
  have up' : live (Machine.fabricRise (bitList s.bnd.rising) s) = true := Eq.trans up' up
  simp [riseSt, power, up', runs', runs]

end

/-- Settles O16: the deal by the verdict of its recheck; generations and epochs by what writes each of them once; the rise by the
bits that it sets and clears. -/
theorem dealIsAtomic : Obligations.DealIsAtomic := by
  refine ⟨fun img s armed shadow good => ?_, fun img s armed shadow bad => armedDeal_refused armed shadow bad,
    fun s still => armedDeal_of_unarmed still,
    fun h s power clock closed ready slot => ⟨_, rfl, tickSt_plan h power clock closed ready slot⟩,
    fun a b n s bound => partGen_dealGens a b s bound, fun a b n t bound => dealEpochs_of a b t bound,
    fun s power up running => settles (riseSt_live power up running), fun s power q steps reqs => ?_⟩
  · rw [armedDeal_ok armed shadow good]
    exact deal_plan img s
  · have quiet := (settles (riseSt_idle power steps reqs)).trans (runs (q.fabricRise _).settle_eq)
    obtain ⟨rising, fabric, dead⟩ := fabricRise_due s
    exact ⟨_, quiet, rising, fabric, dead,
      congrArg (fun t : State => { t with bnd := s.bnd, coh := s.coh, out := s.out }) (fabricRise_rest (bitList s.bnd.rising) s)⟩

end Sys2Proof.Machine
end

section
/-!
SUPPORT. The Plan Store: CHECK and CANCEL, holds and recalls, the end of a check and its verdict (R103 to R108, R113, R117, R271).
-/
namespace Sys2Proof.Machine
open Sys2Proof

section
variable {s : State}

/-! ### CHECK and CANCEL -/

theorem checkSt_starts (d : Bool) {c : Bool} (up : live s = true) (idle : s.ps.busy = false) (free : s.ps.armed = false ∨ c = true)
    (other : c = false ∨ dealing s = false) : checkSt d c s =
      { s with ps := { s.ps with armed := false, deal := d, busy := true, checkDeal := d } } := by
  cases c with
  | false =>
    have free : s.ps.armed = false := by simpa using free
    simp [checkSt, up, idle, free]
  | true =>
    have other : dealing s = false := by simpa using other
    rw [dealing] at other
    simp [checkSt, up, idle, disarm, dealing, other]

theorem checkSt_dropped (d : Bool) (up : live s = true) (held : s.ps.busy = true ∨ s.ps.armed = true) :
    checkSt d false s = { s with ps := { s.ps with deal := d, cmdErr := true } } := by
  obtain h | h := held <;> simp [checkSt, up, h]

theorem checkSt_cancel_dropped (d : Bool) (up : live s = true) (held : s.ps.busy = true ∨ dealing s = true) :
    checkSt d true s = { s with ps := { s.ps with armed := false, deal := d, cmdErr := true } } := by
  obtain h | h := held
  · simp [checkSt, up, h, disarm]
  · rw [dealing] at h
    simp [checkSt, up, h, disarm, dealing]

theorem dealing_iff : dealing s = true ↔ s.ps.dealNs = some s.tb.now ∧ s.ps.dealTick = s.tb.tick := by
  simp [dealing]

theorem cancelSt_live (d : Bool) (up : live s = true) : cancelSt d s = { s with ps := { s.ps with armed := false, deal := d } } := by
  simp [cancelSt, up, disarm]

/-! ### Holds and recalls -/

theorem psHoldSt_enters {v : BitVec 32} (up : live s = true) (none : ∀ n, s.ps.hold.getLsbD n = true → v.getLsbD n = true) :
    psHoldSt v s = { s with ps := { s.ps with hold := v } } := by
  have freed : ((hands s.ps.active).filter fun n => s.ps.hold.getLsbD n && !v.getLsbD n) = [] :=
    List.filter_eq_nil_iff.mpr fun n _ => by
      cases held : s.ps.hold.getLsbD n with
      | false => simp
      | true => simp [none n held]
  simp [psHoldSt, up, freed]

theorem holdRecallSt_none {n : Nat} (h : s.ps.hold.getLsbD n = false ∨ ∃ t ∈ s.steps, t.part = n ∧ t.phase ≠ .queued) :
    holdRecallSt n s = s := by
  obtain free | ⟨t, mem, part, phase⟩ := h
  · simp [holdRecallSt, free]
  · have some_ : s.steps.any (fun t => t.part == n && t.phase != .queued) = true :=
      List.any_eq_true.mpr ⟨t, mem, by simp [part, phase]⟩
    simp [holdRecallSt, some_]

theorem holdRecallSt_held {n : Nat} (up : live s = true) (held : s.ps.hold.getLsbD n = true) (steps : s.steps = []) :
    holdRecallSt n s = (linesOf s n).foldl (fun s k => recallLine k s) s := by
  simp [holdRecallSt, up, held, steps]

theorem recallLine_stays {k : Nat} (stable : (llc s k).trans = none) (none : (llc s k).hstate = .i ∨ (llc s k).hstate = .l) :
    recallLine k s = s := by
  obtain h | h := none <;> simp [recallLine, stable, begin_, h]

theorem recallLine_held {k : Nat} (stable : (llc s k).trans = none) (tiles : (llc s k).hstate = .s ∨ (llc s k).hstate = .o) :
    recallLine k s = invalidate k { kind := .recall } (bitList (llc s k).presence) s := by
  obtain h | h := tiles <;> simp [recallLine, stable, begin_, h]

theorem recallLine_waits {k : Nat} (moves : (llc s k).trans ≠ none) : recallLine k s =
    setLlc k { llc s k with wait := (llc s k).wait ++ [{ kind := .recall }] } s := by
  simp [recallLine, Option.isSome_iff_ne_none.mpr moves]

/-! ### The end of a check -/

theorem ready_of_live (up : live s = true) : s.bnd.ready = true := by
  rw [live, Bool.and_eq_true] at up
  exact up.2

/-- A verdict that is written with its result buffer. -/
theorem putVerdict_written (v : Verdict) (view : PlanView) (digest : Digest) (ready : s.bnd.ready = true)
    (runs : s.cu.halted = false) : putVerdict v view digest true s = { s with
      ps := { s.ps with verdict := v, done := true, checks := satAdd 64 s.ps.checks 1
                        refusals := if v.status = .ok then s.ps.refusals else satAdd 64 s.ps.refusals 1 }
      out := .msix .pf 63 :: .hostWrite .pf (s.ps.resultAddr + 0x40) (viewBytes view) ::
        .hostWrite .pf s.ps.resultAddr (verdictBytes v digest) :: .verdictRec v digest :: s.out } := by
  simp [putVerdict, msix, fnReady, emit, ready, runs]

/-- A verdict whose result buffer cannot be written. -/
theorem putVerdict_unwritten (v : Verdict) (view : PlanView) (digest : Digest) (ready : s.bnd.ready = true) :
    putVerdict v view digest false s = { s with
      ps := { s.ps with verdict := v, done := true, checks := satAdd 64 s.ps.checks 1
                        refusals := if v.status = .ok then s.ps.refusals else satAdd 64 s.ps.refusals 1 }
      out := .msix .pf 63 :: s.out } := by
  simp [putVerdict, msix, fnReady, emit, ready]

theorem checkDoneSt_read (img : Image) (up : live s = true) (busy : s.ps.busy = true) (runs : s.cu.halted = false) :
    checkDoneSt (some img) true s = { s with
      ps := { s.ps with busy := false, shadow := some img, verdict := checkPlan img (planView s), done := true,
                        armed := decide ((checkPlan img (planView s)).status = .ok) && s.ps.checkDeal
                        checks := satAdd 64 s.ps.checks 1
                        refusals := if (checkPlan img (planView s)).status = .ok then s.ps.refusals
                          else satAdd 64 s.ps.refusals 1 }
      out := .msix .pf 63 :: .hostWrite .pf (s.ps.resultAddr + 0x40) (viewBytes (planView s)) ::
        .hostWrite .pf s.ps.resultAddr (verdictBytes (checkPlan img (planView s)) (planDigest img)) ::
        .verdictRec (checkPlan img (planView s)) (planDigest img) :: s.out } := by
  simp only [checkDoneSt, up, busy, Bool.not_true, Bool.or_self, Bool.false_eq_true, if_false]
  rw [putVerdict_written]
  · exact ready_of_live up
  · exact runs

theorem checkDoneSt_unread (up : live s = true) (busy : s.ps.busy = true) : checkDoneSt none false s = { s with
      ps := { s.ps with busy := false, shadow := none, verdict := { status := .timeout, tick := s.tb.tick }, done := true,
                        checks := satAdd 64 s.ps.checks 1, refusals := satAdd 64 s.ps.refusals 1 }
      freeCount := s.freeCount + 1, out := .msix .pf 63 :: s.out } := by
  simp only [checkDoneSt, up, busy, Bool.not_true, Bool.or_self, Bool.false_eq_true, if_false]
  rw [putVerdict_unwritten]
  · rfl
  · exact ready_of_live up

end

/-! ### The verdict (R117) -/

theorem checkPlan_version {img : Image} (h : planVersion img ≠ 1) (v : PlanView) :
    checkPlan img v = { status := .version, item := 0, tick := v.tick } := by
  simp [checkPlan, h]

theorem failIf_eq_none {b : Bool} {r h i : Nat} : failIf b r h i = none ↔ b = false := by
  cases b <;> simp [failIf]

theorem firstFail_eq_none {α : Type} {l : List α} {f : α → Fail} : firstFail l f = none ↔ ∀ a ∈ l, f a = none :=
  List.findSome?_eq_none_iff

/-- A plan that passes has none of the failures that the checks look for. -/
theorem checkPlan_ok {img : Image} {v : PlanView} (good : (checkPlan img v).status = .ok) :
    planVersion img = 1 ∧ archLevel img = 1 ∧ reservedByte img = none ∧ planFail img v = none := by
  rw [checkPlan] at good
  split at good
  · cases good
  · next version =>
    split at good
    · cases good
    · next level =>
      split at good
      · cases good
      · next reserved =>
        split at good
        · cases good
        · next none => exact ⟨not_not.mp version, not_not.mp level, reserved, none⟩

theorem planFail_eq_none {img : Image} {v : PlanView} (none : planFail img v = none) :
    planPeriod img = v.period ∧ 1024 ≤ planMargin img ∧ v.age ≤ planMargin img ∧
    (∀ kind, kind < 6 → overlapFail img kind = Option.none) ∧ ∀ h ∈ hands img, handFail img v h = Option.none := by
  simp only [planFail, Option.or_eq_none_iff, failIf_eq_none, firstFail_eq_none, List.mem_range, bne_eq_false_iff_eq,
    decide_eq_false_iff_not, Nat.not_lt] at none
  obtain ⟨period, margin, age, _, lap, hand, _⟩ := none
  exact ⟨period, margin, age, lap, hand⟩

theorem handFail_eq_none {img : Image} {v : PlanView} {h : Nat} (none : handFail img v h = none) :
    (∀ p ∈ pcList img h, v.excluded.getLsbD (stackOf p) = false) ∧ (∀ e ∈ bitList (hEngines img h), v.fenced.getLsbD e = false) ∧
    (hKeys img h).getLsbD 0 = false := by
  simp only [handFail, Option.or_eq_none_iff, failIf_eq_none, firstFail_eq_none] at none
  obtain ⟨pcs, _, _, _, engines, _, _, keys⟩ := none
  refine ⟨fun p mem => (pcs p mem).1, fun e mem => (engines e mem).1, ?_⟩
  by_contra held
  have held : 0 ∈ bitList (hKeys img h) := mem_bitList.mpr (by simpa using held)
  simpa using (keys 0 held).1

/-- Without an overlap no PC belongs to two hands. -/
theorem pcList_disjoint {img : Image} (none : overlapFail img 0 = none) {h g p : Nat} (memH : h ∈ hands img) (memG : g ∈ hands img)
    (other : g ≠ h) (mem : p ∈ pcList img h) : p ∉ pcList img g := by
  intro both
  rw [pcList, mem_bitList] at mem both
  have one := firstFail_eq_none.mp none p (List.mem_range.mpr (BitVec.lt_of_getLsbD mem))
  have holdsH : h ∈ (hands img).filter (claims img 0 p) := List.mem_filter.mpr ⟨memH, mem⟩
  have holdsG : g ∈ (hands img).filter (claims img 0 p) := List.mem_filter.mpr ⟨memG, both⟩
  revert one holdsH holdsG
  generalize (hands img).filter (claims img 0 p) = l
  intro one holdsH holdsG
  match l with
  | [] => cases holdsH
  | [x] =>
    rw [List.mem_singleton] at holdsH holdsG
    exact other (holdsG.trans holdsH.symm)
  | x :: y :: l => simp at one

/-- Settles O17: each command by the states that its guard names; the verdict by the checks that a plan which passes has met. -/
theorem planStore : Obligations.PlanStore := by
  refine ⟨fun d c s up idle free other => settles (checkSt_starts d up idle free other),
    fun d s up held => settles (checkSt_dropped d up held), fun d s up held => settles (checkSt_cancel_dropped d up held),
    fun s => dealing_iff, fun d s up => settles (cancelSt_live d up), fun v s up none => settles (psHoldSt_enters up none),
    fun n s none => settles (holdRecallSt_none none), fun n s up held steps => settles (holdRecallSt_held up held steps),
    fun k s stable none => recallLine_stays stable none, fun k s stable tiles => recallLine_held stable tiles,
    fun k s moves => recallLine_waits moves, fun img s up busy runs => settles (checkDoneSt_read img up busy runs),
    fun s up busy => settles (checkDoneSt_unread up busy), fun img v version => checkPlan_version version v, fun img v good => ?_⟩
  obtain ⟨version, level, reserved, pass⟩ := checkPlan_ok good
  obtain ⟨period, margin, age, lap, hand⟩ := planFail_eq_none pass
  exact ⟨version, level, reserved, period, margin, age,
    fun h mem p pc => ⟨(handFail_eq_none (hand h mem)).1 p pc, fun g memG other => pcList_disjoint (lap 0 (by decide)) mem memG other pc⟩,
    fun h mem => (handFail_eq_none (hand h mem)).2.1, fun h mem => (handFail_eq_none (hand h mem)).2.2⟩

end Sys2Proof.Machine
end

section
/-!
SUPPORT. The decision on a REQUEST: what is dropped, the rows of R147, and a refusal's reply (R141 to R148, R383).
-/
namespace Sys2Proof.Machine
open Sys2Proof

section
variable {s : State} {m : IntakeMsg} {x : Session} {pl : List Byte}

/-! ### What is dropped -/

theorem requestSt_elsewhere (h : live s = false ∨ m.dst ≠ s.rie.udpPort) : requestSt m s = dropAt m.port s := by
  obtain h | h := h <;> simp [requestSt, h]

theorem requestSt_disabled (up : live s = true) (here : m.dst = s.rie.udpPort) (off : s.rie.enable = false) : requestSt m s = s := by
  simp [requestSt, up, here, off]

/-- A message that arrives whole goes on at its port. -/
theorem fromPort_whole {p parity : Nat} (whole : parity = 0) (quiet : s.fc.inj.remaining = 0) (n : Option Nat) (k : State → State) :
    fromPort p parity n k s = k s := by
  subst whole
  rw [fromPort, transfer_whole quiet]

theorem requestSt_unauthentic (up : live s = true) (on : s.rie.enable = true) (here : m.dst = s.rie.udpPort) (whole : m.parity = 0)
    (quiet : s.fc.inj.remaining = 0) (bad : findSession s (intakeHead m.bytes).session = none ∨
      ∃ x, findSession s (intakeHead m.bytes).session = some x ∧ openIntake x m.bytes = none) :
    requestSt m s = { s with rie := { s.rie with authDrops := satAdd 64 s.rie.authDrops 1 } } := by
  obtain none | ⟨x, session, sealed⟩ := bad
  · simp [requestSt, up, on, here, fromPort_whole whole quiet, none]
  · simp [requestSt, up, on, here, fromPort_whole whole quiet, session, sealed]

theorem seqStale_iff {seq : Nat} : seqStale x seq = true ↔ seq ∈ x.seen ∨ ∃ h, x.highest = some h ∧ seq + 1024 < h := by
  rw [seqStale, Bool.or_eq_true, List.contains_iff_mem]
  cases x.highest <;> simp

theorem requestSt_stale (up : live s = true) (on : s.rie.enable = true) (here : m.dst = s.rie.udpPort) (whole : m.parity = 0)
    (quiet : s.fc.inj.remaining = 0) (session : findSession s (intakeHead m.bytes).session = some x)
    (opened : openIntake x m.bytes = some pl) (stale : seqStale x (intakeHead m.bytes).seq = true) :
    requestSt m s = { s with rie := { s.rie with replayDrops := satAdd 64 s.rie.replayDrops 1 } } := by
  simp [requestSt, up, on, here, fromPort_whole whole quiet, session, opened, stale]

/-! ### The decision -/

/-- The state that the decision on an accepted message is taken on. -/
def acceptedSt (m : IntakeMsg) (x : Session) (q : IntakeReq) (s : State) : State :=
  let s := modSession (intakeHead m.bytes).session (acceptSeq (intakeHead m.bytes).seq)
    { s with rie := { s.rie with requests := satAdd 64 s.rie.requests 1 } }
  if (firstRows s x.part q).isNone then walkArea x.part m.host (areaRange s x.part) s else s

theorem requestSt_decided (up : live s = true) (on : s.rie.enable = true) (here : m.dst = s.rie.udpPort) (whole : m.parity = 0)
    (quiet : s.fc.inj.remaining = 0) (session : findSession s (intakeHead m.bytes).session = some x)
    (opened : openIntake x m.bytes = some pl) (fresh : seqStale x (intakeHead m.bytes).seq = false) :
    (∀ st, decideReq (acceptedSt m x (intakeReq (intakeHead m.bytes) pl) s) x.part m (intakeReq (intakeHead m.bytes) pl) = .refuse st →
      requestSt m s = refuseReq x.part m (intakeReq (intakeHead m.bytes) pl) st
        (acceptedSt m x (intakeReq (intakeHead m.bytes) pl) s)) ∧
    (∀ ps xs, decideReq (acceptedSt m x (intakeReq (intakeHead m.bytes) pl) s) x.part m (intakeReq (intakeHead m.bytes) pl) =
        .grant ps xs →
      requestSt m s = admitReq x.part m (intakeReq (intakeHead m.bytes) pl) ps xs
        (acceptedSt m x (intakeReq (intakeHead m.bytes) pl) s)) := by
  have on' : (!s.rie.enable) = false := by rw [on]; rfl
  have front : (!live s || decide (m.dst ≠ s.rie.udpPort)) = false := by simp [up, here]
  refine ⟨fun st decided => ?_, fun ps xs decided => ?_⟩ <;>
  · rw [requestSt, front, on']
    simp only [Bool.false_eq_true, if_false, fromPort_whole whole quiet, session, opened, fresh]
    simp only [acceptedSt] at decided
    rw [decided]
    rfl

theorem decideReq_of_row {n : Nat} {q : IntakeReq} {st : Status} (row : firstRows s n q = some st) :
    decideReq s n m q = .refuse st := by
  simp [decideReq, row]

/-- A request that meets none of the rows before the intake area. -/
theorem firstRows_eq_none {n : Nat} {q : IntakeReq} : firstRows s n q = none ↔ q.version = 1 ∧ q.type = 1 ∧ q.rsv = false ∧
    16 ≤ q.length ∧ q.length ≤ 8144 ∧ hasHand s.ps.active n = true ∧ s.rc.inReset.getLsbD n = false ∧
    s.ps.hold.getLsbD n = false ∧ (hClass s.ps.active n q.cls).valid = true ∧ hasServer s n q.cls = true := by
  simp only [firstRows, ite_eq_right_iff, imp_false, Option.some_ne_none, ite_eq_iff, and_false, false_or,
    not_not, Bool.not_eq_true, not_or, Nat.not_lt, Bool.or_eq_false_iff, Bool.not_eq_false', and_assoc]

theorem decideBooking_grant {n : Nat} {q : IntakeReq} {xs ys : List Xlat} {ps : List Placement} :
    decideBooking s n m q xs = .grant ps ys ↔ ys = xs ∧ m.inTime = true ∧
    ((hClass s.ps.active n q.cls).be = true → ps = []) ∧
    ((hClass s.ps.active n q.cls).be = false →
      tget 0 s.ac.frameAdmits (16 * n + q.cls) < (hClass s.ps.active n q.cls).rateCap ∧
      book s n (hClass s.ps.active n q.cls) (tget 0 s.ac.classOrder (16 * n + q.cls)) s.tb.tick = (.ok, ps)) := by
  rw [decideBooking]
  cases be : (hClass s.ps.active n q.cls).be with
  | true =>
    cases time : m.inTime <;> simp [eq_comm, and_comm]
  | false =>
    simp only [Bool.false_eq_true, if_false, false_implies, true_and, true_implies]
    split
    · next full => simp [Nat.not_lt.mpr full]
    · next room =>
      split
      · next qs booked => cases time : m.inTime <;> simp [booked, Nat.lt_of_not_le room, eq_comm, and_comm]
      · next st qs not booked =>
        simp only [reduceCtorEq, false_iff, not_and]
        intro _ _ _ booked'
        rw [booked'] at booked
        injection booked with ok same
        exact not ok.symm

/-- A request is granted when it meets no row of the table. -/
theorem decideReq_grant {n : Nat} {q : IntakeReq} {xs : List Xlat} {ps : List Placement} :
    decideReq s n m q = .grant ps xs ↔ firstRows s n q = none ∧ intakeArea s n m.host = some xs ∧
      reqCount s n < hQuota s.ps.active n 0 ∧ decideBooking s n m q xs = .grant ps xs := by
  rw [decideReq]
  split
  · next st row => simp [row]
  · next pass =>
    split
    · next none => simp [none]
    · next ys area =>
      split
      · next full => simp [Nat.not_lt.mpr full]
      · next room =>
        simp only [pass, area, Option.some.injEq, true_and, Nat.lt_of_not_le room]
        constructor
        · intro h
          have same := (decideBooking_grant.mp h).1
          subst same
          exact ⟨rfl, h⟩
        · rintro ⟨rfl, h⟩
          exact h

/-! ### A refusal (R144, R145) -/

/-- The sessions once session `id`, which stands as `x`, has given its next SEQ. -/
def seqGiven (x : Session) (id : Nat) (l : List Session) : List Session :=
  if 2 ^ 63 ≤ x.nextSeq + 1 then l.filter fun y => y.id ≠ id
  else modFirst (fun y => y.id == id) (fun y => { y with nextSeq := y.nextSeq + 1 }) l

theorem takeSeq_of_session {id : Nat} (session : findSession s id = some x) :
    takeSeq id s = (some x, { s with rie := { s.rie with sessions := seqGiven x id s.rie.sessions } }) := by
  simp only [takeSeq, session, seqGiven]

theorem intakeReply_of_session {id : Nat} (session : findSession s id = some x) (type : Nat) (p : List Byte) :
    intakeReply m id type p s = { s with
      out := .datagram m.port m.addr m.udp (sealIntake x type x.nextSeq p) :: s.out
      rie := { s.rie with sessions := seqGiven x id s.rie.sessions } } := by
  rw [intakeReply, takeSeq_of_session session]
  rfl

theorem b2n_beq (a b : Status) : b2n (a == b) = if a = b then 1 else 0 := by
  by_cases h : a = b <;> simp [b2n, h]

theorem refuseReq_of_session {n : Nat} {q : IntakeReq} {st : Status} (session : findSession s q.session = some x) :
    (refuseReq n m q st s).ac.reqs = s.ac.reqs ∧
    (refuseReq n m q st s).ac.refuseCap = satAdd 64 s.ac.refuseCap (if st = .refusedCapacity then 1 else 0) ∧
    (refuseReq n m q st s).ac.refuseDl = satAdd 64 s.ac.refuseDl (if st = .refusedDeadline then 1 else 0) ∧
    (refuseReq n m q st s).out = .datagram m.port m.addr m.udp
      (sealIntake x 3 x.nextSeq (refusalBytes (if q.length < 8 then 0 else q.reqId) st s.tb.tick)) :: s.out ∧
    (refuseReq n m q st s).rie.sessions = if 2 ^ 63 ≤ x.nextSeq + 1 then s.rie.sessions.filter (fun y => y.id ≠ q.session)
      else modFirst (fun y => y.id == q.session) (fun y => { y with nextSeq := y.nextSeq + 1 }) s.rie.sessions := by
  rw [refuseReq]
  dsimp only
  rw [← b2n_beq, ← b2n_beq, intakeReply_of_session (x := x)]
  · exact ⟨rfl, rfl, rfl, rfl, rfl⟩
  · exact session

theorem sealIntake_length (x : Session) (type seq : Nat) (p : List Byte) : (sealIntake x type seq p).length = 40 + p.length := by
  simp [sealIntake, intakeHeadBytes]
  omega

theorem sealIntake_head (x : Session) (type seq : Nat) (p : List Byte) :
    (sealIntake x type seq p).take 24 = intakeHeadBytes type x.id seq p.length := by
  rw [sealIntake, List.append_assoc]
  exact List.take_left' (by simp [intakeHeadBytes])

end

/-- Settles O18: the drops by the guard that each meets, the decision by its rows, a refusal by the session's next SEQ. -/
theorem requestsAreDecided : Obligations.RequestsAreDecided := by
  refine ⟨fun m s h => settles (requestSt_elsewhere h), fun m s up here off => settles (requestSt_disabled up here off),
    fun m s up on here whole quiet bad => settles (requestSt_unauthentic up on here whole quiet bad),
    fun m x pl s up on here whole quiet session opened stale =>
      settles (requestSt_stale up on here whole quiet session opened (seqStale_iff.mpr stale)),
    fun m x pl q s0 s1 s up on here whole quiet session opened fresh hq h0 h1 => ?_,
    fun n m q s version => decideReq_of_row (by simp [firstRows, version]),
    fun n m q s version type => decideReq_of_row (by simp [firstRows, version, type]),
    fun n m q s version type rsv => decideReq_of_row (by simp [firstRows, version, type, rsv]),
    fun n m q s version type rsv bad => decideReq_of_row ?_, fun n m q ps xs s => ?_,
    fun n m q st x s session => refuseReq_of_session session,
    fun x type seq p => ⟨sealIntake_length x type seq p, sealIntake_head x type seq p⟩⟩
  · subst hq h0 h1
    obtain ⟨refuse, grant⟩ := requestSt_decided up on here whole quiet session opened fresh
    exact ⟨fun st decided => settles (refuse st decided), fun ps xs decided => settles (grant ps xs decided)⟩
  · obtain len | len | hand | reset | hold := bad
    · simp [firstRows, version, type, rsv, len]
    · simp [firstRows, version, type, rsv, len]
    · simp [firstRows, version, type, rsv, hand]
    · simp [firstRows, version, type, rsv, reset]
    · simp [firstRows, version, type, rsv, hold]
  · rw [decideReq_grant, firstRows_eq_none, decideBooking_grant]
    simp only [true_and, and_assoc]

end Sys2Proof.Machine
end

section
/-!
SUPPORT. Booking: what each placement meets, and the sums of shares and slot budgets (R155 to R158).
-/
namespace Sys2Proof.Machine
open Sys2Proof

/-! ### Shares add up -/

theorem sum_share (x n k : Nat) : ((List.range k).map (share x n)).sum = x * k / n := by
  induction k with
  | zero => simp
  | succ k ih =>
    have grows : x * k / n ≤ x * (k + 1) / n := Nat.div_le_div_right (Nat.mul_le_mul_left x (Nat.le_succ k))
    rw [List.range_succ, List.map_append, List.sum_append, ih]
    simp only [List.map_cons, List.map_nil, List.sum_cons, List.sum_nil, share]
    omega

theorem sum_share_self (x : Nat) {n : Nat} (pos : 0 < n) : ((List.range n).map (share x n)).sum = x := by
  rw [sum_share, Nat.mul_div_cancel x pos]

/-! ### Placements -/

/-- What a placement among the places `pos` meets: its step's scope, the charge that fits there, and for the last step that a
slot-scoped one is not in slot 15. -/
structure Placed (s : State) (n order steps : Nat) (c : Charge) (pos : List (Nat × Nat)) (p : Placement) : Prop where
  mem : (p.frame, p.slot) ∈ pos
  scope : p.frameScoped = bitAt order p.step
  last : p.frameScoped = false → p.step + 1 = steps → p.slot ≠ 15
  fits : if p.frameScoped then fitsFrame s (ledger s) n p.frame (c.part steps p.step) = true
    else fitsSlot s (ledger s) n p.frame p.slot (c.part steps p.step) = true

variable {s : State} {n order steps : Nat} {c : Charge}

theorem Placed.of_filter {pos : List (Nat × Nat)} {f : Nat × Nat → Bool} {p : Placement}
    (h : Placed s n order steps c (pos.filter f) p) : Placed s n order steps c pos p :=
  { h with mem := (List.mem_filter.mp h.mem).1 }

/-- Steps that are all placed: one placement each, in order, at strictly later places, each of which its step meets. -/
structure AllPlaced (s : State) (n order steps : Nat) (c : Charge) (i left : Nat) (pos : List (Nat × Nat))
    (ps : List Placement) : Prop where
  numbers : ps.map (fun p => p.step) = List.range' i left
  placed : ∀ p ∈ ps, Placed s n order steps c pos p
  later : ps.Pairwise fun p q => p.frame < q.frame ∨ (p.frame = q.frame ∧ p.slot < q.slot)

/-- A step placed before others that take only later places. -/
theorem AllPlaced.cons {i left : Nat} {pos : List (Nat × Nat)} {f : Nat × Nat → Bool} {here : Placement} {ps : List Placement}
    (step : here.step = i) (first : Placed s n order steps c pos here)
    (after : ∀ x, f x = true → here.frame < x.1 ∨ (here.frame = x.1 ∧ here.slot < x.2))
    (rest : AllPlaced s n order steps c (i + 1) left (pos.filter f) ps) : AllPlaced s n order steps c i (left + 1) pos (here :: ps) where
  numbers := by rw [List.map_cons, step, rest.numbers, List.range'_succ]
  placed := List.forall_mem_cons.mpr ⟨first, fun p mem => (rest.placed p mem).of_filter⟩
  later := List.pairwise_cons.mpr ⟨fun p mem => after _ (List.mem_filter.mp (rest.placed p mem).mem).2, rest.later⟩

theorem bookSteps_placed {i left : Nat} {pos : List (Nat × Nat)} {ps : List Placement}
    (booked : bookSteps s n order steps c i pos left = some ps) : AllPlaced s n order steps c i left pos ps := by
  induction left generalizing i pos ps with
  | zero =>
    cases booked
    exact ⟨rfl, nofun, .nil⟩
  | succ left ih =>
    rw [bookSteps] at booked
    dsimp only at booked
    split at booked
    · next wide =>
      split at booked
      · cases booked
      · next p found =>
        obtain ⟨qs, rest, rfl⟩ := Option.map_eq_some_iff.mp booked
        have mem := (List.mem_filter.mp (List.mem_of_find?_eq_some found)).1
        exact .cons rfl ⟨mem, wide.symm, nofun, by simpa using List.find?_some found⟩
          (fun x later => .inl (by simpa using later)) (ih rest)
    · next wide =>
      split at booked
      · cases booked
      · next p found =>
        obtain ⟨qs, rest, rfl⟩ := Option.map_eq_some_iff.mp booked
        have fits := List.find?_some found
        simp only [Bool.and_eq_true, Bool.not_eq_true', Bool.and_eq_false_iff, beq_eq_false_iff_ne] at fits
        refine .cons rfl ⟨List.mem_of_find?_eq_some found, by simpa using (Bool.eq_false_of_not_eq_true wide).symm,
          fun _ last slot => ?_, by simpa using fits.2⟩ (fun x later => by simpa using later) (ih rest)
        exact fits.1.elim (fun other => other last) fun other => other slot

theorem mem_slotsFrom {al : List Nat} {f last x k : Nat} (h : (x, k) ∈ slotsFrom al f last) : f ≤ x ∧ x ≤ last ∧ k ∈ al := by
  simp only [slotsFrom, List.mem_flatMap, List.mem_range, List.mem_map, Prod.mk.injEq] at h
  obtain ⟨i, bound, k, mem, rfl, rfl⟩ := h
  exact ⟨by omega, by omega, mem⟩

theorem book_ok {cl : ClassRec} {a : Nat} {ps : List Placement} (booked : book s n cl order a = (.ok, ps)) :
    orderOk order cl.steps cl.fsteps = true ∧ bookSteps s n order (cl.steps + cl.fsteps) (chargeOf s cl) 0
      (slotsFrom (allowedSlots s n) (a + 1) (a + cl.deadline)) (cl.steps + cl.fsteps) = some ps := by
  rw [book] at booked
  dsimp only at booked
  repeat' split at booked
  all_goals simp_all

theorem orderOk_last {st fs : Nat} (good : orderOk order st fs = true) : bitAt order (st + fs - 1) = false := by
  simp only [orderOk, Bool.and_eq_true, Bool.not_eq_true'] at good
  exact good.1.2

/-- Settles O19: by induction on the steps that remain, with what each placement meets. -/
theorem bookingKeepsTheDeadline : Obligations.BookingKeepsTheDeadline := by
  refine ⟨fun s n c order a ps booked => ?_, fun x n pos => sum_share_self x pos,
    fun s n some_ => sum_share_self _ (List.length_pos_iff.mpr some_)⟩
  obtain ⟨good, steps⟩ := book_ok booked
  have all := bookSteps_placed steps
  refine ⟨all.numbers.trans List.range_eq_range'.symm, fun p mem => ?_, all.later, fun p mem => (all.placed p mem).fits⟩
  have placed := all.placed p mem
  obtain ⟨first, last, slot⟩ := mem_slotsFrom placed.mem
  refine ⟨first, last, slot, placed.scope, fun final => ?_⟩
  have plain : p.frameScoped = false := by
    rw [placed.scope, ← orderOk_last good, ← final, Nat.add_sub_cancel]
  exact ⟨plain, placed.last plain final⟩

end Sys2Proof.Machine
end

section
/-!
SUPPORT. Exact sums: their merge is a commutative monoid, MAX is one on what it selects, and the window holds 2^24 terms (R184,
R185, R193, R195).
-/
namespace Sys2Proof.Machine
open Sys2Proof

/-! ### Walks that gather under an operation -/

section
variable {α β : Type} {op : β → β → β} (g : α → β)

theorem foldl_op_perm (assoc : ∀ a b c, op (op a b) c = op a (op b c)) (comm : ∀ a b, op a b = op b a) {l m : List α}
    (h : l.Perm m) (z : β) : l.foldl (fun v x => op v (g x)) z = m.foldl (fun v x => op v (g x)) z :=
  h.foldl_eq' (fun x _ y _ v => by rw [assoc, comm (g x), ← assoc]) z

theorem foldl_op_append (assoc : ∀ a b c, op (op a b) c = op a (op b c)) {e : β} (unit : ∀ a, op a e = a) (l m : List α) (z : β) :
    (l ++ m).foldl (fun v x => op v (g x)) z = op (l.foldl (fun v x => op v (g x)) z) (m.foldl (fun v x => op v (g x)) e) := by
  rw [List.foldl_append]
  generalize l.foldl (fun v x => op v (g x)) z = v
  induction m using List.reverseRecOn with
  | nil => exact (unit v).symm
  | append_singleton m x ih => rw [List.foldl_concat, List.foldl_concat, ih, assoc]

end

/-! ### SUM, MEAN and WSUM -/

theorem Acc.merge_assoc (a b c : Acc) : (a.merge b).merge c = a.merge (b.merge c) := by
  simp [Acc.merge, Int.add_assoc, Nat.add_assoc, Bool.or_assoc]

theorem Acc.merge_comm (a b : Acc) : a.merge b = b.merge a := by
  simp [Acc.merge, Int.add_comm, Nat.add_comm, Bool.or_comm]

theorem Acc.merge_empty (a : Acc) : a.merge {} = a := by
  simp [Acc.merge]

/-- A term is added as the accumulator of that term is merged. -/
theorem Acc.add_eq (a : Acc) (d : Dec) : a.add d = a.merge (({} : Acc).add d) := by
  unfold Acc.add
  generalize takeTerm d = t
  obtain ⟨t, r⟩ := t
  cases t with
  | nan => simp [Acc.merge]
  | inf neg => cases neg <;> simp [Acc.merge]
  | fin neg m e => simp [Acc.merge]

theorem foldl_add (l : List Dec) (a : Acc) : l.foldl Acc.add a = l.foldl (fun v d => v.merge (({} : Acc).add d)) a := by
  simp only [← Acc.add_eq]

/-! ### MAX -/

/-- Where MAX orders a value first: -infinity, the finite ones, +infinity. -/
def Acc.rank (a : Acc) : Int := if a.posInf then 1 else if a.negInf then -1 else 0

/-- What MAX selects by: the rank, then the value. -/
def Acc.selected (a : Acc) : Int ×ₗ Int := toLex (a.rank, a.value)

/-- The views of partials of MAX: what is selected, nothing without terms; then the marks and the count. -/
abbrev MaxView := WithBot (Int ×ₗ Int) × Bool × Bool × Nat

/-- A partial of MAX as a value of a commutative monoid. -/
def Acc.maxView (a : Acc) : MaxView := (if a.terms = 0 then ⊥ else a.selected, a.nan, a.range, a.terms)

/-- Two views merged. -/
def maxOp (a b : MaxView) : MaxView := (a.1 ⊔ b.1, a.2.1 || b.2.1, a.2.2.1 || b.2.2.1, a.2.2.2 + b.2.2.2)

theorem maxOp_assoc (a b c : MaxView) : maxOp (maxOp a b) c = maxOp a (maxOp b c) := by
  simp [maxOp, sup_assoc, Nat.add_assoc, Bool.or_assoc]

theorem maxOp_comm (a b : MaxView) : maxOp a b = maxOp b a := by
  simp [maxOp, sup_comm, Nat.add_comm, Bool.or_comm]

theorem maxOp_empty (a : MaxView) : maxOp a ({} : Acc).maxView = a := by
  simp [maxOp, Acc.maxView]

/-- A partial of MAX: one infinity at most, which carries no value; and one without terms holds nothing. -/
structure Acc.Picked (a : Acc) : Prop where
  pos : a.posInf = true → a.value = 0 ∧ a.negInf = false
  neg : a.negInf = true → a.value = 0
  empty : a.terms = 0 → a.value = 0 ∧ a.posInf = false ∧ a.negInf = false

theorem Acc.picked_empty : ({} : Acc).Picked := ⟨nofun, nofun, fun _ => ⟨rfl, rfl, rfl⟩⟩

theorem Acc.picked_term (d : Dec) : (({} : Acc).add d).Picked := by
  unfold Acc.add
  generalize takeTerm d = t
  obtain ⟨t, r⟩ := t
  cases t with
  | nan => exact ⟨nofun, nofun, nofun⟩
  | inf neg => cases neg <;> exact ⟨by simp, by simp, nofun⟩
  | fin neg m e => exact ⟨nofun, nofun, nofun⟩

theorem Acc.terms_add (a : Acc) (d : Dec) : (a.add d).terms = a.terms + 1 := by
  unfold Acc.add
  generalize takeTerm d = t
  obtain ⟨t, r⟩ := t
  dsimp only
  split <;> rfl

theorem Acc.below_iff {a b : Acc} (ha : a.Picked) (hb : b.Picked) : a.below b = true ↔ a.selected < b.selected := by
  rw [Acc.selected, Acc.selected, Prod.Lex.toLex_lt_toLex, Acc.below, Acc.rank, Acc.rank]
  dsimp only
  cases pa : a.posInf with
  | true =>
    have va := (ha.pos pa).1
    cases pb : b.posInf with
    | true => simp [va, (hb.pos pb).1]
    | false => cases nb : b.negInf <;> simp
  | false =>
    cases pb : b.posInf with
    | true => cases na : a.negInf <;> simp
    | false =>
      cases nb : b.negInf with
      | true =>
        cases na : a.negInf with
        | true => simp [ha.neg na, hb.neg nb]
        | false => simp
      | false => cases na : a.negInf <;> simp

/-- A partial of MAX is determined by what it selects by, its marks and its count. -/
theorem Acc.eq_of_selected {a b : Acc} (ha : a.Picked) (hb : b.Picked) (selected : a.selected = b.selected) (nan : a.nan = b.nan)
    (range : a.range = b.range) (terms : a.terms = b.terms) : a = b := by
  obtain ⟨rank, value⟩ := Prod.ext_iff.mp (toLex.injective selected)
  dsimp only [Acc.rank] at rank value
  have pos := ha.pos
  have pos' := hb.pos
  obtain ⟨v, p, n, _, _, _⟩ := a
  obtain ⟨v', p', n', _, _, _⟩ := b
  dsimp only at *
  subst nan range terms value
  cases p <;> cases p' <;> cases n <;> cases n' <;> simp_all

/-- Partials of MAX with the same view are the same. -/
theorem Acc.eq_of_maxView {a b : Acc} (ha : a.Picked) (hb : b.Picked) (same : a.maxView = b.maxView) : a = b := by
  simp only [Acc.maxView, Prod.mk.injEq] at same
  obtain ⟨selected, nan, range, terms⟩ := same
  refine Acc.eq_of_selected ha hb ?_ nan range terms
  by_cases none : a.terms = 0
  · obtain ⟨va, pa, na⟩ := ha.empty none
    obtain ⟨vb, pb, nb⟩ := hb.empty (terms ▸ none)
    simp [Acc.selected, Acc.rank, va, pa, na, vb, pb, nb]
  · rw [if_neg none, if_neg (terms ▸ none)] at selected
    exact WithBot.coe_injective selected

/-- The partial that MAX goes on with. -/
def Acc.pick (a b : Acc) : Acc := if a.terms = 0 then b else if b.terms = 0 then a else if a.below b then b else a

theorem Acc.pick_cases (a b : Acc) : a.pick b = a ∨ a.pick b = b := by
  unfold Acc.pick
  split
  · exact .inr rfl
  · split
    · exact .inl rfl
    · split
      · exact .inr rfl
      · exact .inl rfl

theorem Acc.maxMerge_picked {a b : Acc} (ha : a.Picked) (hb : b.Picked) : (a.maxMerge b).Picked := by
  have pick : (a.pick b).Picked := by
    obtain h | h := Acc.pick_cases a b
    · rwa [h]
    · rwa [h]
  refine ⟨pick.pos, pick.neg, fun none => ?_⟩
  have noneA : a.terms = 0 := Nat.eq_zero_of_add_eq_zero_right none
  have noneB : b.terms = 0 := Nat.eq_zero_of_add_eq_zero_left none
  exact pick.empty ((Acc.pick_cases a b).elim (fun h => by rw [h, noneA]) fun h => by rw [h, noneB])

theorem Acc.maxMerge_view {a b : Acc} (ha : a.Picked) (hb : b.Picked) : (a.maxMerge b).maxView = maxOp a.maxView b.maxView := by
  refine Prod.ext ?_ rfl
  by_cases noneA : a.terms = 0
  · by_cases noneB : b.terms = 0
    · simp [Acc.maxView, maxOp, Acc.maxMerge, noneA, noneB]
    · simp [Acc.maxView, maxOp, Acc.maxMerge, noneA, noneB, Acc.selected, Acc.rank]
  · by_cases noneB : b.terms = 0
    · simp [Acc.maxView, maxOp, Acc.maxMerge, noneA, noneB, Acc.selected, Acc.rank]
    · have less := Acc.below_iff ha hb
      by_cases below : a.below b = true
      · have order := le_of_lt (less.mp below)
        simp only [Acc.maxView, maxOp, Acc.maxMerge, noneA, noneB, if_false, Nat.add_eq_zero_iff, false_and, below, if_true]
        exact (sup_eq_right.mpr (WithBot.coe_le_coe.mpr order)).symm
      · have order := le_of_not_gt (mt less.mpr below)
        simp only [Acc.maxView, maxOp, Acc.maxMerge, noneA, noneB, if_false, Nat.add_eq_zero_iff, false_and, below]
        exact (sup_eq_left.mpr (WithBot.coe_le_coe.mpr order)).symm

/-- A walk of MAX gives the view that the walk over the terms' views gives. -/
theorem foldl_max {a : Acc} (ha : a.Picked) (l : List Dec) : (l.foldl Acc.max a).Picked ∧
    (l.foldl Acc.max a).maxView = l.foldl (fun v d => maxOp v (({} : Acc).add d).maxView) a.maxView := by
  induction l generalizing a with
  | nil => exact ⟨ha, rfl⟩
  | cons d l ih =>
    have term := Acc.picked_term d
    rw [List.foldl_cons, List.foldl_cons, ← Acc.maxMerge_view ha term]
    exact ih (Acc.maxMerge_picked ha term)

/-! ### The window (R184, R185) -/

/-- A term is below 2^288 in magnitude. -/
theorem takeTerm_lt (d : Dec) : (termValue (takeTerm d).1).natAbs ≤ 2 ^ 288 := by
  cases d with
  | nan => exact Nat.zero_le _
  | inf neg => exact Nat.zero_le _
  | fin neg m e =>
    rw [takeTerm]
    generalize (if 0 ≤ e + 160 then m * 2 ^ (e + 160).toNat else m / 2 ^ (-(e + 160)).toNat) = v
    split
    · exact Nat.zero_le _
    · next small =>
      have value : (termValue (.fin neg v (-160))).natAbs = v := by cases neg <;> simp [termValue]
      rw [value]
      exact Nat.le_of_lt (Nat.not_le.mp small)

theorem natAbs_add (a : Acc) (d : Dec) : (a.add d).value.natAbs ≤ a.value.natAbs + 2 ^ 288 := by
  have term := takeTerm_lt d
  unfold Acc.add
  revert term
  generalize takeTerm d = t
  obtain ⟨t, r⟩ := t
  intro term
  dsimp only
  split
  · exact Nat.le_add_right _ _
  · exact Nat.le_add_right _ _
  · exact Nat.le_add_right _ _
  · exact (Int.natAbs_add_le _ _).trans (Nat.add_le_add_left term _)

theorem foldl_add_bound (l : List Dec) (a : Acc) : (l.foldl Acc.add a).terms = a.terms + l.length ∧
    (l.foldl Acc.add a).value.natAbs ≤ a.value.natAbs + l.length * 2 ^ 288 := by
  induction l generalizing a with
  | nil => exact ⟨rfl, Nat.le_add_right _ _⟩
  | cons d l ih =>
    obtain ⟨terms, value⟩ := ih (a.add d)
    have one := natAbs_add a d
    rw [Acc.terms_add] at terms
    rw [List.foldl_cons, List.length_cons, Nat.succ_mul]
    generalize 2 ^ 288 = k at one value ⊢
    exact ⟨by omega, by omega⟩

/-- Settles O22: sums and MAX as walks under the operation of a commutative monoid; the window by the bound of one term. -/
theorem exactSumsIgnoreOrder : Obligations.ExactSumsIgnoreOrder := by
  refine ⟨fun l m perm => ?_, fun l m => ?_, fun l m perm => ?_, fun l m => ?_, fun l few => ?_⟩
  · rw [foldl_add, foldl_add, foldl_op_perm _ Acc.merge_assoc Acc.merge_comm perm]
  · rw [foldl_add, foldl_add, foldl_add, foldl_op_append _ Acc.merge_assoc Acc.merge_empty]
  · obtain ⟨pickL, viewL⟩ := foldl_max Acc.picked_empty l
    obtain ⟨pickM, viewM⟩ := foldl_max Acc.picked_empty m
    exact Acc.eq_of_maxView pickL pickM (by rw [viewL, viewM, foldl_op_perm _ maxOp_assoc maxOp_comm perm])
  · obtain ⟨pickL, viewL⟩ := foldl_max Acc.picked_empty l
    obtain ⟨pickM, viewM⟩ := foldl_max Acc.picked_empty m
    obtain ⟨pick, view⟩ := foldl_max Acc.picked_empty (l ++ m)
    refine Acc.eq_of_maxView pick (Acc.maxMerge_picked pickL pickM) ?_
    rw [Acc.maxMerge_view pickL pickM, view, viewL, viewM, foldl_op_append _ maxOp_assoc maxOp_empty]
  · obtain ⟨terms, value⟩ := foldl_add_bound l {}
    refine ⟨?_, terms.trans (Nat.zero_add _)⟩
    have small : (l.foldl Acc.add {}).value.natAbs < 2 ^ 319 :=
      calc (l.foldl Acc.add {}).value.natAbs
        _ ≤ l.length * 2 ^ 288 := value.trans (Nat.zero_add _).le
        _ ≤ 2 ^ 24 * 2 ^ 288 := Nat.mul_le_mul_right _ few
        _ < 2 ^ 319 := by
          rw [← Nat.pow_add]
          exact Nat.pow_lt_pow_right (by decide) (by decide)
    rw [Acc.fits, Bool.and_eq_true, decide_eq_true_eq, decide_eq_true_eq]
    have bound : |(l.foldl Acc.add {}).value| < 2 ^ 319 := by
      rw [Int.abs_eq_natAbs]
      exact_mod_cast small
    exact ⟨(abs_lt.mp bound).1.le, (abs_lt.mp bound).2⟩

end Sys2Proof.Machine
end

section
/-!
SUPPORT. Exact lines and compressed columns read back (R196 to R199).
-/
namespace Sys2Proof.Machine
open Sys2Proof

/-! ### Fields of numbers put together -/

theorem fld_low {v k lo w : Nat} (h : lo + w ≤ k) (x : Nat) : fld (2 ^ k * x + v) lo w = fld v lo w := by
  obtain ⟨d, rfl⟩ := Nat.exists_eq_add_of_le h
  rw [fld, fld, Nat.pow_add, Nat.pow_add, Nat.mul_assoc, Nat.mul_assoc, Nat.mul_add_div (Nat.two_pow_pos lo), Nat.mul_add_mod]

theorem fld_high {v k : Nat} (h : v < 2 ^ k) (x lo w : Nat) : fld (2 ^ k * x + v) (k + lo) w = fld x lo w := by
  rw [fld, fld, Nat.pow_add, ← Nat.div_div_eq_div_mul, Nat.mul_add_div (Nat.two_pow_pos k), Nat.div_eq_of_lt h, Nat.add_zero]

theorem bitAt_high {v k : Nat} (h : v < 2 ^ k) (x j : Nat) : bitAt (2 ^ k * x + v) (k + j) = bitAt x j := by
  rw [bitAt, bitAt, Nat.testBit_two_pow_mul_add x h]
  simp

theorem ofSigned_lt (w : Nat) (v : Int) : ofSigned w v < 2 ^ w := by
  have pos : (0 : Int) < 2 ^ w := by positivity
  have := Int.emod_lt_of_pos v pos
  rw [ofSigned]
  have := Int.emod_nonneg v pos.ne'
  zify
  rw [Int.toNat_of_nonneg this]
  assumption

/-- A number in the range of a signed word reads back from it. -/
theorem toSigned_of_mod {k n : Nat} {v : Int} (low : -(2 ^ k) ≤ v) (high : v < 2 ^ k)
    (h : n % 2 ^ (k + 1) = ofSigned (k + 1) v) : toSigned (k + 1) n = v := by
  have cast : ((n : Int) % 2 ^ (k + 1)) = v % 2 ^ (k + 1) := by
    have pos : (0 : Int) ≤ v % 2 ^ (k + 1) := Int.emod_nonneg v (by positivity)
    rw [ofSigned] at h
    have := congrArg (fun x : Nat => (x : Int)) h
    simpa [Int.toNat_of_nonneg pos] using this
  rw [toSigned, Nat.add_sub_cancel, h, cast, ofSigned]
  have double : (2 : Int) ^ (k + 1) = 2 ^ k + 2 ^ k := by ring
  have small : ((2 ^ k : Nat) : Int) = 2 ^ k := by push_cast; rfl
  obtain neg | pos := lt_or_ge v 0
  · have wrap : v % 2 ^ (k + 1) = v + 2 ^ (k + 1) := by
      rw [← Int.add_emod_right, Int.emod_eq_of_lt (by omega) (by omega)]
    rw [wrap, if_neg (by omega)]
    omega
  · have same : v % 2 ^ (k + 1) = v := Int.emod_eq_of_lt pos (by omega)
    rw [same, if_pos (by omega)]

/-! ### Exact lines -/

section
variable {a : Acc} {row : Nat}

/-- The flags of an accumulator. -/
def accFlags (a : Acc) : Nat := b2n a.posInf + 2 * b2n a.negInf + 4 * b2n a.nan + 8 * b2n a.range

/-- Its residues. -/
def accResidues (a : Acc) : Nat := residue 7 a.value + 16 * residue 15 a.value

theorem accFlags_lt (a : Acc) : accFlags a < 2 ^ 8 := by
  have bit : ∀ b, b2n b ≤ 1 := by decide
  have := bit a.posInf
  have := bit a.negInf
  have := bit a.nan
  have := bit a.range
  rw [accFlags]
  omega

theorem residue_lt {n : Nat} (pos : 0 < n) (v : Int) : residue n v < n := by
  have := Int.emod_lt_of_pos v (Int.natCast_pos.mpr pos)
  have := Int.emod_nonneg v (Int.natCast_pos.mpr pos).ne'
  rw [residue]
  omega

theorem accResidues_lt (a : Acc) : accResidues a < 2 ^ 24 := by
  have := residue_lt (n := 7) (by decide) a.value
  have := residue_lt (n := 15) (by decide) a.value
  rw [accResidues]
  omega

/-- An exact line as its fields, one after the other. -/
theorem exactLine_toNat (terms : a.terms ≤ 2 ^ 24) (bound : row < 2 ^ 40) : (exactLine a row).toNat =
    2 ^ 320 * (2 ^ 8 * (2 ^ 24 * (2 ^ 32 * row + a.terms) + accResidues a) + accFlags a) + ofSigned 320 a.value := by
  have flags := accFlags_lt a
  have res := accResidues_lt a
  have value := ofSigned_lt 320 a.value
  have upper : 2 ^ 8 * (2 ^ 24 * (2 ^ 32 * row + a.terms) + accResidues a) + accFlags a < 2 ^ 104 := by
    norm_num at *
    omega
  have layout : ofSigned 320 a.value + accFlags a * 2 ^ 320 + accResidues a * 2 ^ 328 + a.terms * 2 ^ 352 + row * 2 ^ 384 =
      2 ^ 320 * (2 ^ 8 * (2 ^ 24 * (2 ^ 32 * row + a.terms) + accResidues a) + accFlags a) + ofSigned 320 a.value := by
    rw [Nat.pow_add 2 320 8, Nat.pow_add 2 328 24, Nat.pow_add 2 320 8, Nat.pow_add 2 352 32, Nat.pow_add 2 328 24, Nat.pow_add 2 320 8]
    ring
  have fits : 2 ^ 320 * (2 ^ 8 * (2 ^ 24 * (2 ^ 32 * row + a.terms) + accResidues a) + accFlags a) + ofSigned 320 a.value < 2 ^ 512 :=
    calc _ < 2 ^ 320 * (2 ^ 8 * (2 ^ 24 * (2 ^ 32 * row + a.terms) + accResidues a) + accFlags a) + 2 ^ 320 :=
          Nat.add_lt_add_left value _
      _ ≤ 2 ^ 320 * 2 ^ 104 := by
          rw [← Nat.mul_succ]
          exact Nat.mul_le_mul_left _ upper
      _ ≤ 2 ^ 512 := by
          rw [← Nat.pow_add]
          exact Nat.pow_le_pow_right (by decide) (by decide)
  rw [exactLine, BitVec.toNat_ofNat]
  refine (congrArg (· % 2 ^ 512) layout).trans (Nat.mod_eq_of_lt fits)

theorem bitAt_accFlags (a : Acc) : bitAt (accFlags a) 0 = a.posInf ∧ bitAt (accFlags a) 1 = a.negInf ∧
    bitAt (accFlags a) 2 = a.nan ∧ bitAt (accFlags a) 3 = a.range ∧ fld (accFlags a) 4 4 = 0 := by
  unfold accFlags
  generalize a.posInf = p, a.negInf = n, a.nan = x, a.range = r
  revert p n x r
  decide

theorem fld_accResidues (a : Acc) : fld (accResidues a) 0 3 = residue 7 a.value ∧ fld (accResidues a) 4 4 = residue 15 a.value ∧
    fld (accResidues a) 3 1 = 0 ∧ fld (accResidues a) 8 16 = 0 := by
  have := residue_lt (n := 7) (by decide) a.value
  have := residue_lt (n := 15) (by decide) a.value
  rw [accResidues]
  simp only [fld]
  omega

/-- The fields above the value. -/
theorem fld_exactLine (terms : a.terms ≤ 2 ^ 24) (bound : row < 2 ^ 40) (lo w : Nat) : fld (exactLine a row).toNat (320 + lo) w =
    fld (2 ^ 8 * (2 ^ 24 * (2 ^ 32 * row + a.terms) + accResidues a) + accFlags a) lo w := by
  rw [exactLine_toNat terms bound, fld_high (ofSigned_lt 320 a.value)]

theorem fld_exactLine_residues (terms : a.terms ≤ 2 ^ 24) (bound : row < 2 ^ 40) {lo w : Nat} (h : lo + w ≤ 24) :
    fld (exactLine a row).toNat (328 + lo) w = fld (accResidues a) lo w := by
  rw [Nat.add_assoc 320 8 lo, fld_exactLine terms bound, fld_high (accFlags_lt a), fld_low h]

theorem fld_exactLine_upper (terms : a.terms ≤ 2 ^ 24) (bound : row < 2 ^ 40) (lo w : Nat) :
    fld (exactLine a row).toNat (352 + lo) w = fld (2 ^ 32 * row + a.terms) lo w := by
  rw [Nat.add_assoc 328 24 lo, Nat.add_assoc 320 8, fld_exactLine terms bound, fld_high (accFlags_lt a),
    fld_high (accResidues_lt a)]

theorem lineAcc_exactLine (fits : a.fits = true) (terms : a.terms ≤ 2 ^ 24) (bound : row < 2 ^ 40) :
    lineAcc (exactLine a row) = a := by
  obtain ⟨pos, neg, nan, range, _⟩ := bitAt_accFlags a
  rw [Acc.fits, Bool.and_eq_true, decide_eq_true_eq, decide_eq_true_eq] at fits
  have count := fld_exactLine_upper terms bound 0 32
  have flag : ∀ j, j < 8 → bitAt (exactLine a row).toNat (320 + j) = bitAt (accFlags a) j := fun j h => by
    rw [exactLine_toNat terms bound, bitAt_high (ofSigned_lt 320 a.value)]
    exact (Nat.testBit_two_pow_mul_add _ (accFlags_lt a) j).trans (if_pos h)
  have value : toSigned 320 (exactLine a row).toNat = a.value := toSigned_of_mod fits.1 fits.2 (by
    rw [exactLine_toNat terms bound, Nat.mul_add_mod, Nat.mod_eq_of_lt (ofSigned_lt 320 a.value)])
  rw [Nat.add_zero, fld_low (Nat.le_refl 32)] at count
  have small : fld a.terms 0 32 = a.terms := by
    simp only [fld]
    omega
  simp only [lineAcc, value, flag 0 (by decide), flag 1 (by decide), flag 2 (by decide), flag 3 (by decide), count, small, pos, neg,
    nan, range]

/-- The fields above the term count. -/
theorem fld_exactLine_row (terms : a.terms ≤ 2 ^ 24) (bound : row < 2 ^ 40) (lo w : Nat) :
    fld (exactLine a row).toNat (384 + lo) w = fld row lo w := by
  rw [Nat.add_assoc 352 32 lo, fld_exactLine_upper terms bound, fld_high (by omega)]

theorem fld_of_lt {v lo : Nat} (h : v < 2 ^ lo) (w : Nat) : fld v lo w = 0 := by
  rw [fld, Nat.div_eq_of_lt h, Nat.zero_mod]

theorem row_exactLine (terms : a.terms ≤ 2 ^ 24) (bound : row < 2 ^ 40) : fld (exactLine a row).toNat 384 40 = row := by
  rw [fld_exactLine_row terms bound 0 40, fld, Nat.pow_zero, Nat.div_one, Nat.mod_eq_of_lt bound]

theorem lineOk_exactLine (fits : a.fits = true) (terms : a.terms ≤ 2 ^ 24) (bound : row < 2 ^ 40) :
    lineOk (exactLine a row) = true := by
  obtain ⟨res7, res15, gap, rest⟩ := fld_accResidues a
  obtain ⟨_, _, _, _, flags⟩ := bitAt_accFlags a
  have reserved : fld (exactLine a row).toNat 324 4 = 0 := by
    rw [fld_exactLine terms bound 4 4, fld_low (by decide), flags]
  simp only [lineOk, lineAcc_exactLine fits terms bound, reserved, fld_exactLine_residues terms bound (lo := 0) (w := 3) (by decide),
    fld_exactLine_residues terms bound (lo := 4) (w := 4) (by decide), res7, res15, gap, rest,
    fld_exactLine_residues terms bound (lo := 3) (w := 1) (by decide),
    fld_exactLine_residues terms bound (lo := 8) (w := 16) (by decide), fld_exactLine_row terms bound 40 24,
    fld_exactLine_row terms bound 64 64, fld_of_lt bound, fld_of_lt (bound.trans (by decide : 2 ^ 40 < 2 ^ 64)), beq_self_eq_true,
    Bool.and_self, terms, decide_true]

end

/-! ### Compressed columns -/

/-- The number that words spell, most significant first. -/
def wordsValue (l : List Nat) : Nat := l.foldl (fun acc w => acc * 2 ^ 32 + w) 0

/-- The ten words of a magnitude, least significant first. -/
def lowWords (m : Nat) : List Nat := (List.range 10).map fun i => fld m (32 * i) 32

/-- A word is zero. -/
def zeroWord (w : Nat) : Bool := w == 0

theorem wordsValue_reverse (l : List Nat) : wordsValue l.reverse = Nat.ofDigits (2 ^ 32) l := by
  rw [wordsValue, List.foldl_reverse, Nat.ofDigits_eq_foldr]
  exact congrArg (fun f => List.foldr f 0 l) (funext fun w => funext fun acc => by simp; ring)

theorem ofDigits_words (m k : Nat) : Nat.ofDigits (2 ^ 32) ((List.range k).map fun i => fld m (32 * i) 32) = m % 2 ^ (32 * k) := by
  induction k with
  | zero => simp [Nat.mod_one]
  | succ k ih =>
    rw [List.range_succ, List.map_append, Nat.ofDigits_append, ih, Nat.mul_succ, Nat.pow_add 2 (32 * k), Nat.mod_mul]
    simp [fld, Nat.pow_mul]

theorem wordsValue_dropWhile (l : List Nat) : wordsValue (l.dropWhile zeroWord) = wordsValue l := by
  induction l with
  | nil => rfl
  | cons w l ih =>
    rw [List.dropWhile_cons]
    split
    · next zero =>
      rw [ih, zeroWord, beq_iff_eq] at *
      simp [wordsValue, zero]
    · rfl

/-- Words without zeros at the front and with `low` of them cut at the end. -/
def trimmed (l : List Nat) (low : Nat) : List Nat :=
  (l.reverse.dropWhile zeroWord).take ((l.reverse.dropWhile zeroWord).length - low)

/-- What is left ends with the lowest word that is not zero. -/
theorem dropWhile_zeroWord {x : Nat} (nonzero : x ≠ 0) (r : List Nat) :
    (x :: r).reverse.dropWhile zeroWord = r.reverse.dropWhile zeroWord ++ [x] := by
  rw [List.reverse_cons, List.dropWhile_append]
  split
  · next none => rw [List.isEmpty_iff.mp none, List.dropWhile_cons_of_neg (by simpa [zeroWord] using nonzero), List.nil_append]
  · rfl

theorem trimmed_eq {x : Nat} (nonzero : x ≠ 0) (low : Nat) (r : List Nat) :
    trimmed (List.replicate low 0 ++ x :: r) low = (x :: r).reverse.dropWhile zeroWord := by
  have some_ : ((x :: r).reverse.dropWhile zeroWord).isEmpty = false := by
    rw [dropWhile_zeroWord nonzero]
    simp
  rw [trimmed, List.reverse_append, List.dropWhile_append, some_]
  simp

/-- What a column's words are for a magnitude that is not zero. -/
structure ColumnWords (m low : Nat) (ws : List Nat) : Prop where
  value : wordsValue ws * 2 ^ (32 * low) = m
  first : ws.head? ≠ some 0
  last : ws.getLast? ≠ some 0
  bound : ∀ w ∈ ws, w < 2 ^ 32
  length : ws.length + low ≤ 10

theorem columnWords_of {m low x : Nat} {r : List Nat} (small : m < 2 ^ 320) (words : lowWords m = List.replicate low 0 ++ x :: r)
    (nonzero : x ≠ 0) : ColumnWords m low (trimmed (lowWords m) low) := by
  rw [words, trimmed_eq nonzero]
  have digits : Nat.ofDigits (2 ^ 32) (lowWords m) = m := by
    rw [lowWords, ofDigits_words, Nat.mod_eq_of_lt small]
  refine ⟨?_, fun head => ?_, ?_, fun w mem => ?_, ?_⟩
  · rw [wordsValue_dropWhile, wordsValue_reverse, Nat.mul_comm]
    rw [words, Nat.ofDigits_append] at digits
    simpa [Nat.pow_mul] using digits
  · have not := List.head?_dropWhile_not zeroWord (x :: r).reverse
    rw [head] at not
    cases not
  · rw [dropWhile_zeroWord nonzero, List.getLast?_concat]
    exact fun h => nonzero (Option.some.inj h)
  · have mem : w ∈ lowWords m := by
      rw [words]
      exact List.mem_append_right _ (List.mem_reverse.mp (List.dropWhile_subset _ mem))
    obtain ⟨i, _, rfl⟩ := List.mem_map.mp mem
    exact fld_lt _ _ _
  · have len := congrArg List.length words
    have cut := List.length_dropWhile_le zeroWord (x :: r).reverse
    simp only [lowWords, List.length_map, List.length_range, List.length_append, List.length_replicate, List.length_cons,
      List.length_reverse] at len cut
    omega

/-- The lowest word of a magnitude that is not zero. -/
def lowestWord (m : Nat) : Nat := ((List.range 10).find? fun i => fld m (32 * i) 32 ≠ 0).getD 0

theorem getElem_lowWords {m i : Nat} (h : i < (lowWords m).length) : (lowWords m)[i] = fld m (32 * i) 32 := by
  simp [lowWords]

theorem lowWords_split {m : Nat} (small : m < 2 ^ 320) (nonzero : m ≠ 0) :
    ∃ x r, lowWords m = List.replicate (lowestWord m) 0 ++ x :: r ∧ x ≠ 0 := by
  rw [lowestWord]
  cases found : (List.range 10).find? fun i => fld m (32 * i) 32 ≠ 0 with
  | none =>
    have zero : lowWords m = List.replicate 10 0 := by
      rw [lowWords, List.eq_replicate_iff]
      refine ⟨by simp, fun w mem => ?_⟩
      obtain ⟨i, place, rfl⟩ := List.mem_map.mp mem
      simpa using List.find?_eq_none.mp found i place
    have digits := ofDigits_words m 10
    rw [Nat.mod_eq_of_lt small] at digits
    refine absurd (digits.symm.trans ?_) nonzero
    exact (congrArg _ zero).trans Nat.ofDigits_replicate_zero
  | some i =>
    obtain ⟨word, mem, before⟩ := List.find?_range_eq_some.mp found
    have len : (lowWords m).length = 10 := by simp [lowWords]
    have bound : i < (lowWords m).length := by rwa [len, ← List.mem_range]
    refine ⟨(lowWords m)[i], (lowWords m).drop (i + 1), ?_, by simpa [getElem_lowWords] using word⟩
    rw [← List.drop_eq_getElem_cons bound, Option.getD_some]
    refine (List.take_append_drop i _).symm.trans (congrArg (· ++ (lowWords m).drop i) ?_)
    rw [List.eq_replicate_iff]
    refine ⟨by simp [len]; omega, fun w mem => ?_⟩
    obtain ⟨j, hj, rfl⟩ := List.getElem_of_mem mem
    rw [List.getElem_take, getElem_lowWords]
    simpa using before j (by simp at hj; omega)

theorem lowWords_zero : lowWords 0 = List.replicate 10 0 := by decide

theorem compress_words (a : Acc) : (compress a).words = trimmed (lowWords a.value.natAbs) (lowestWord a.value.natAbs) := by
  have words : magWords a.value.natAbs = (lowWords a.value.natAbs).reverse := by rw [magWords, lowWords, List.map_reverse]
  rw [compress, words]
  rfl

theorem compress_lowWord (a : Acc) :
    (compress a).lowWord = if (compress a).words = [] then 0 else lowestWord a.value.natAbs := rfl

theorem compress_zero {a : Acc} (zero : a.value = 0) : (compress a).words = [] ∧ (compress a).lowWord = 0 := by
  have words : (compress a).words = [] := by
    rw [compress_words, zero, Int.natAbs_zero, trimmed, lowWords_zero]
    decide
  exact ⟨words, by rw [compress_lowWord, if_pos words]⟩

theorem compress_nonzero {a : Acc} (fits : a.fits = true) (nonzero : a.value ≠ 0) :
    ColumnWords a.value.natAbs (compress a).lowWord (compress a).words := by
  rw [Acc.fits, Bool.and_eq_true, decide_eq_true_eq, decide_eq_true_eq] at fits
  have small : a.value.natAbs < 2 ^ 320 := by
    have bound : |a.value| ≤ 2 ^ 319 := abs_le.mpr ⟨fits.1, fits.2.le⟩
    rw [Int.abs_eq_natAbs] at bound
    exact lt_of_le_of_lt (by exact_mod_cast bound) (Nat.pow_lt_pow_right (by decide) (by decide))
  obtain ⟨x, r, split, word⟩ := lowWords_split small (Int.natAbs_ne_zero.mpr nonzero)
  have words := columnWords_of small split word
  rw [← compress_words] at words
  have some_ : (compress a).words ≠ [] := fun none => by
    have value := words.value
    rw [none, wordsValue, List.foldl_nil, Nat.zero_mul] at value
    exact nonzero (Int.natAbs_eq_zero.mp value.symm)
  rwa [compress_lowWord, if_neg some_]

/-- A column spells its accumulator's value. -/
theorem columnValue_compress {a : Acc} (fits : a.fits = true) : columnValue (compress a) = a.value := by
  have value : columnValue (compress a) = if a.value < 0 then
      -((wordsValue (compress a).words * 2 ^ (32 * (compress a).lowWord) : Nat) : Int)
      else ((wordsValue (compress a).words * 2 ^ (32 * (compress a).lowWord) : Nat) : Int) :=
    if_congr (decide_eq_true_iff) rfl rfl
  by_cases zero : a.value = 0
  · rw [value, (compress_zero zero).1, zero, wordsValue, List.foldl_nil, Nat.zero_mul]
    simp
  · rw [value, (compress_nonzero fits zero).value]
    split <;> omega

theorem columnAcc_compress {a : Acc} (fits : a.fits = true) : columnAcc (compress a) a.terms = a := by
  rw [columnAcc, columnValue_compress fits]
  rfl

theorem columnOk_compress {a : Acc} (fits : a.fits = true) (terms : a.terms ≤ 2 ^ 24) :
    columnOk (compress a) a.terms = true := by
  have count : (compress a).nwords = (compress a).words.length := rfl
  have plain : (compress a).rsv = false := rfl
  have res7 : (compress a).res7 = residue 7 a.value := rfl
  have res15 : (compress a).res15 = residue 15 a.value := rfl
  have sign : (compress a).sign = decide (a.value < 0) := rfl
  unfold columnOk
  simp only [columnAcc_compress fits, columnValue_compress fits, count, plain, res7, res15, sign, fits, beq_self_eq_true,
    Bool.not_false, Bool.true_and, Bool.and_true, terms, decide_true]
  by_cases zero : a.value = 0
  · simp [compress_zero zero, zero]
  · have words := compress_nonzero fits zero
    simpa [zero, words.length, words.first, words.last] using words.bound

/-- Settles O23: a line by its fields, one above the other; a column by its words, whose zeros at both ends are left out. -/
theorem exactFormsReadBack : Obligations.ExactFormsReadBack :=
  ⟨fun _ _ fits terms bound => ⟨lineAcc_exactLine fits terms bound, lineOk_exactLine fits terms bound, row_exactLine terms bound⟩,
    fun _ fits terms => ⟨columnOk_compress fits terms, columnAcc_compress fits⟩⟩

end Sys2Proof.Machine
end

section
/-!
SUPPORT. The Atomic Unit: refusals, EXACT_ADD and the integer operations (R213, R214).
-/
namespace Sys2Proof.Machine
open Sys2Proof

/-! ### What each operation gives -/

theorem atomUnit_reserved {op : AtomOp} (code : 0xC < op.code) (off : Nat) (l : Line) :
    atomUnit op off l = ⟨.badOpcode, l, 0⟩ := by
  simp [atomUnit, code]

/-- A refused atomic leaves its line. -/
theorem atomUnit_line_of_refused {op : AtomOp} {off : Nat} {l : Line} (refused : (atomUnit op off l).status ≠ .ok) :
    (atomUnit op off l).line = l := by
  revert refused
  unfold atomUnit
  dsimp only
  repeat' split
  all_goals simp

/-- What EXACT_ADD makes of a line that it does not refuse. -/
def exactAdded (op : AtomOp) (l : Line) : Acc := (lineAcc l).add (decodeFloat fp32 (op.operand.toNat % 2 ^ 32))

theorem atomUnit_exactAdd {op : AtomOp} {l : Line} (code : op.code = 0xB) (good : (atomUnit op 0 l).status = .ok) :
    (atomUnit op 0 l).line = exactLine (exactAdded op l) (fld l.toNat 384 40) ∧ (exactAdded op l).fits = true ∧
    (exactAdded op l).terms ≤ 2 ^ 24 := by
  by_cases wide : op.wide = true
  · simp [atomUnit, code, wide] at good
  · by_cases sound : lineOk l = false
    · simp [atomUnit, code, wide, sound] at good
    · by_cases room : (lineAcc l).terms = 2 ^ 24 ∨ (exactAdded op l).fits = false
      · rw [exactAdded] at room
        simp [-Nat.reducePow, atomUnit, code, wide, sound, room] at good
      · have given : atomUnit op 0 l = ⟨.ok, exactLine (exactAdded op l) (fld l.toNat 384 40), (Config.exactOld l).toNat⟩ := by
          rw [exactAdded] at room ⊢
          simp [-Nat.reducePow, atomUnit, code, wide, sound, room]
        obtain ⟨full, fits⟩ := not_or.mp room
        have terms : (lineAcc l).terms ≤ 2 ^ 24 := by
          rw [Bool.not_eq_false, lineOk, Bool.and_eq_true, decide_eq_true_eq] at sound
          exact sound.2
        refine ⟨by rw [given], by simpa using fits, ?_⟩
        rw [exactAdded, Acc.terms_add]
        omega

theorem Acc.add_comm (a : Acc) (x y : Dec) : (a.add x).add y = (a.add y).add x := by
  rw [Acc.add_eq (a.add x), Acc.add_eq (a.add y), Acc.add_eq a x, Acc.add_eq a y, Acc.merge_assoc, Acc.merge_assoc,
    Acc.merge_comm (({} : Acc).add x)]

theorem exactAdded_exactLine (op : AtomOp) {a : Acc} {row : Nat} (fits : a.fits = true) (terms : a.terms ≤ 2 ^ 24)
    (bound : row < 2 ^ 40) : exactAdded op (exactLine a row) = a.add (decodeFloat fp32 (op.operand.toNat % 2 ^ 32)) := by
  rw [exactAdded, lineAcc_exactLine fits terms bound]

/-- Two EXACT_ADDs that are not refused give the same line in either order. -/
theorem atomUnit_exactAdd_comm {a b : AtomOp} {l : Line} (codeA : a.code = 0xB) (codeB : b.code = 0xB)
    (goodA : (atomUnit a 0 l).status = .ok) (goodB : (atomUnit b 0 l).status = .ok)
    (goodAB : (atomUnit b 0 (atomUnit a 0 l).line).status = .ok) (goodBA : (atomUnit a 0 (atomUnit b 0 l).line).status = .ok) :
    (atomUnit b 0 (atomUnit a 0 l).line).line = (atomUnit a 0 (atomUnit b 0 l).line).line := by
  have row : fld l.toNat 384 40 < 2 ^ 40 := fld_lt _ _ _
  obtain ⟨lineA, fitsA, termsA⟩ := atomUnit_exactAdd codeA goodA
  obtain ⟨lineB, fitsB, termsB⟩ := atomUnit_exactAdd codeB goodB
  rw [(atomUnit_exactAdd codeB goodAB).1, (atomUnit_exactAdd codeA goodBA).1, lineA, lineB,
    exactAdded_exactLine b fitsA termsA row, exactAdded_exactLine a fitsB termsB row, row_exactLine termsA row,
    row_exactLine termsB row, exactAdded, exactAdded, Acc.add_comm]

/-! ### A field set -/

/-- A number with a field set, as what is above the field, the field and what is below it. -/
theorem setFld_eq (x lo w v : Nat) : setFld x lo w v = 2 ^ lo * (2 ^ w * (x / 2 ^ lo / 2 ^ w) + v % 2 ^ w) + x % 2 ^ lo := by
  have split := Nat.div_add_mod x (2 ^ lo)
  have upper := Nat.div_add_mod (x / 2 ^ lo) (2 ^ w)
  have whole : x = 2 ^ lo * (2 ^ w * (x / 2 ^ lo / 2 ^ w)) + fld x lo w * 2 ^ lo + x % 2 ^ lo := by
    rw [fld, Nat.mul_comm _ (2 ^ lo), ← Nat.mul_add, upper, split]
  rw [setFld, Nat.mul_add, Nat.mul_comm (v % 2 ^ w)]
  omega

theorem fld_setFld (x lo w v : Nat) : fld (setFld x lo w v) lo w = v % 2 ^ w := by
  have low : x % 2 ^ lo < 2 ^ lo := Nat.mod_lt _ (Nat.two_pow_pos lo)
  have field := fld_high low (2 ^ w * (x / 2 ^ lo / 2 ^ w) + v % 2 ^ w) 0 w
  rw [setFld_eq]
  refine field.trans ((fld_low (by omega) _).trans ?_)
  simp [fld]

theorem testBit_setFld (x : Nat) {lo w i : Nat} (v : Nat) (out : i < lo ∨ lo + w ≤ i) :
    (setFld x lo w v).testBit i = x.testBit i := by
  have low : x % 2 ^ lo < 2 ^ lo := Nat.mod_lt _ (Nat.two_pow_pos lo)
  have field : v % 2 ^ w < 2 ^ w := Nat.mod_lt _ (Nat.two_pow_pos w)
  rw [setFld_eq, Nat.testBit_two_pow_mul_add _ low, Nat.testBit_two_pow_mul_add _ field]
  obtain below | above := out
  · rw [if_pos below, Nat.testBit_mod_two_pow, decide_eq_true below, Bool.true_and]
  · rw [if_neg (by omega), if_neg (by omega), Nat.testBit_div_two_pow, Nat.testBit_div_two_pow]
    congr 1
    omega

theorem setFld_lt {x lo w k : Nat} (v : Nat) (small : x < 2 ^ k) (inside : lo + w ≤ k) : setFld x lo w v < 2 ^ k := by
  refine Nat.lt_pow_two_of_testBit _ fun i above => ?_
  rw [testBit_setFld x v (.inr (inside.trans above))]
  exact Nat.testBit_lt_two_pow (small.trans_le (Nat.pow_le_pow_right (by decide) above))

/-! ### The integer operations -/

theorem atomInt_lt {code w old operand compare : Nat} (ho : old < 2 ^ w) (hp : operand < 2 ^ w) :
    atomInt code w old operand compare < 2 ^ w := by
  unfold atomInt
  split
  · exact Nat.mod_lt _ (Nat.two_pow_pos w)
  · split <;> assumption
  · split <;> assumption
  · exact (Nat.min_le_left _ _).trans_lt ho
  · exact Nat.max_lt.mpr ⟨ho, hp⟩
  · exact Nat.and_lt_two_pow _ hp
  · exact Nat.or_lt_two_pow ho hp
  · exact Nat.xor_lt_two_pow ho hp
  · exact hp
  · split <;> assumption

/-- A 64-bit integer operation that is aligned. -/
theorem atomUnit_wide {op : AtomOp} {off : Nat} (l : Line) (code : op.code < 0xA) (wide : op.wide = true) (aligned : off % 8 = 0) :
    atomUnit op off l = ⟨.ok, BitVec.ofNat 512 (setFld l.toNat (8 * off) 64
      (atomInt op.code 64 (fld l.toNat (8 * off) 64) op.operand.toNat op.compare.toNat)), fld l.toNat (8 * off) 64⟩ := by
  have operand : op.operand.toNat % 2 ^ 64 = op.operand.toNat := Nat.mod_eq_of_lt op.operand.isLt
  have compare : op.compare.toNat % 2 ^ 64 = op.compare.toNat := Nat.mod_eq_of_lt op.compare.isLt
  have notReserved : ¬0xC < op.code := by omega
  have notExact : ¬0xB ≤ op.code := by omega
  have notFloat : op.code ≠ 0xA := by omega
  simp only [atomUnit, wide, notReserved, notExact, notFloat, if_false, if_true, false_and, aligned, operand, compare, ne_eq,
    Nat.reduceDiv, not_true_eq_false]

theorem atomUnit_misaligned {op : AtomOp} {off : Nat} (l : Line) (code : op.code < 0xB) (odd : off % 4 ≠ 0) :
    (atomUnit op off l).status ≠ .ok := by
  have notReserved : ¬0xC < op.code := by omega
  have notExact : ¬0xB ≤ op.code := by omega
  have off8 : off % 8 ≠ 0 := by omega
  cases wide : op.wide <;> simp [atomUnit, wide, notReserved, notExact, odd, off8]

/-- Settles O26: refusals by the cases of the unit, EXACT_ADD by the line that reads back, an integer operation by the field that
it sets. -/
theorem atomicsAtTheHome : Obligations.AtomicsAtTheHome := by
  refine ⟨fun op off l refused => atomUnit_line_of_refused refused, fun op off l code => by rw [atomUnit_reserved code],
    fun a b l codeA codeB goodA goodB goodAB goodBA => atomUnit_exactAdd_comm codeA codeB goodA goodB goodAB goodBA,
    fun op off l code wide aligned bound => ?_, fun op off l code odd => atomUnit_misaligned l code odd⟩
  have inside : 8 * off + 64 ≤ 512 := by omega
  have small := atomInt_lt (code := op.code) (compare := op.compare.toNat) (fld_lt l.toNat (8 * off) 64) op.operand.isLt
  rw [atomUnit_wide l code wide aligned]
  dsimp only
  rw [BitVec.toNat_ofNat, Nat.mod_eq_of_lt (setFld_lt _ l.isLt inside), fld_setFld, Nat.mod_eq_of_lt small]
  exact ⟨rfl, rfl, rfl, fun i _ out => testBit_setFld _ _ out⟩

end Sys2Proof.Machine
end

section
/-!
SUPPORT. LRE_UPDATE and its table's sequence (R206 to R211).
-/
namespace Sys2Proof.Machine
open Sys2Proof

section
variable {s : State} {n : Nat} {xs : List Xlat} {dva len : Nat} {bs : List Byte}

/-- A first read that meets no refusal and no poison gives its bytes and notes its lines. -/
theorem rd_clean (read : readRange s n xs dva len = some (bs, none)) :
    rd s n xs dva len {} = (bs, { lines := linesIn s n xs dva len }) := by
  simp [rd, read]

variable {t : Step}

theorem runUpdate_old (read : readRange s t.part t.xlats (dfld t.raw 0x10 0 57) 8 = some (bs, none))
    (old : dfld t.raw 0x30 0 64 ≤ leNat bs) :
    runUpdate s t = { skipped := true, lines := linesIn s t.part t.xlats (dfld t.raw 0x10 0 57) 8 } := by
  simp [runUpdate, rd_clean read, old]

theorem runUpdate_ahead (read : readRange s t.part t.xlats (dfld t.raw 0x10 0 57) 8 = some (bs, none))
    (ahead : leNat bs + 1 < dfld t.raw 0x30 0 64) :
    runUpdate s t = { fail := some .stateConflict, lines := linesIn s t.part t.xlats (dfld t.raw 0x10 0 57) 8 } := by
  have new : ¬dfld t.raw 0x30 0 64 ≤ leNat bs := by omega
  have gap : dfld t.raw 0x30 0 64 ≠ leNat bs + 1 := by omega
  simp [runUpdate, rd_clean read, new, gap, Seen.failing]

/-! ### Entries skip nothing -/

theorem Seen.failing_skipped (v : Seen) (st : Status) : (v.failing st).skipped = v.skipped := by
  unfold Seen.failing
  split <;> rfl

theorem Seen.stray_skipped (v : Seen) : v.stray.skipped = v.skipped := by
  unfold Seen.stray
  split <;> rfl

theorem rd_skipped (v : Seen) : (rd s n xs dva len v).2.skipped = v.skipped := by
  unfold rd
  dsimp only
  split
  · exact Seen.failing_skipped _ _
  · dsimp only
    split <;> rfl

theorem rdWin_skipped (w : Window) (off : Nat) (v : Seen) : (rdWin s n xs w off len v).2.skipped = v.skipped := by
  unfold rdWin
  split
  · exact rd_skipped v
  · exact Seen.stray_skipped v

theorem rowNow_skipped (v : Seen) : (rowNow s t dva len v).2.skipped = v.skipped := by
  unfold rowNow
  split
  · rfl
  · exact rd_skipped v

theorem updateEntry_skipped (j : Nat) (v : Seen) : (updateEntry s t j v).skipped = v.skipped := by
  unfold updateEntry
  dsimp only
  split
  · rw [Seen.failing_skipped, rdWin_skipped]
  · split
    · rw [Seen.stray_skipped, rdWin_skipped]
    · split
      · exact (rdWin_skipped _ _ _).trans (rdWin_skipped _ _ _)
      · split
        · exact rdWin_skipped _ _ _
        · exact (rdWin_skipped _ _ _).trans ((rowNow_skipped _).trans (rdWin_skipped _ _ _))

theorem runUpdate_next (read : readRange s t.part t.xlats (dfld t.raw 0x10 0 57) 8 = some (bs, none))
    (next_ : dfld t.raw 0x30 0 64 = leNat bs + 1) : (runUpdate s t).skipped = false ∧
    (runUpdate s t).writes.getLast? = some (dfld t.raw 0x10 0 57, leBytes (dfld t.raw 0x30 0 64) 8) := by
  have new : ¬leNat bs + 1 ≤ leNat bs := Nat.not_succ_le_self _
  have entries := foldl_same (fun v : Seen => v.skipped) (f := fun v j => updateEntry s t j v)
    (fun v j => updateEntry_skipped j v) (List.range (dfld t.raw 0x2C 0 32))
    { lines := linesIn s t.part t.xlats (dfld t.raw 0x10 0 57) 8 }
  rw [runUpdate, rd_clean read]
  simp only [next_, if_neg new, ne_eq, not_true_eq_false, if_false]
  exact ⟨entries, List.getLast?_concat⟩

end

/-- Settles O25: by where UPDATE_SEQ lies against the table's LAST_SEQ. -/
theorem updatesAreSequenced : Obligations.UpdatesAreSequenced := by
  refine fun s t bs read => ⟨fun old => ?_, fun ahead => ?_, fun next_ => runUpdate_next read next_⟩
  · rw [runUpdate_old read old]
    exact ⟨rfl, rfl, rfl⟩
  · rw [runUpdate_ahead read ahead]
    exact ⟨rfl, rfl, rfl⟩

end Sys2Proof.Machine
end

section
/-!
SUPPORT. Lines of the LLC and the messages about them: what a line set, a message, a snoop leave; and the transactions of tiles
that end (R249, R252, R259).
-/
namespace Sys2Proof.Machine
open Sys2Proof

section
variable {s : State} {k : Nat}

/-! ### Lines -/

/-- A line that is resident, in a transient state, or waited for. -/
def Occupied (l : LlcLine) : Prop := l.hstate ≠ .i ∨ l.trans ≠ none ∨ l.wait ≠ []

theorem llc_setLlc_self {l : LlcLine} (held : Occupied l) : llc (setLlc k l s) k = l := by
  rw [llc_setLlc, if_pos rfl, if_neg]
  rintro ⟨state, trans, wait⟩
  exact held.elim (fun h => h state) fun h => h.elim (fun h => h trans) fun h => h wait

theorem llc_setLlc_ne {j : Nat} (other : j ≠ k) (l : LlcLine) : llc (setLlc k l s) j = llc s j := by
  rw [llc_setLlc, if_neg other]

theorem llc_congr {t : State} (h : t.coh.lines = s.coh.lines) (k : Nat) : llc t k = llc s k := by
  rw [llc, llc, h]

theorem tput_tput {α : Type} (t : Tab α) (k : Nat) (a b : α) : tput (tput t k a) k b = tput t k b := by
  induction t with
  | nil => simp [tput]
  | cons p t ih =>
    obtain ⟨i, c⟩ := p
    unfold tput
    by_cases below : i < k
    · simp [below, tput, ih]
    · by_cases same : i = k
      · simp [same, tput]
      · simp [below, same, tput]

theorem setLlc_occupied {l : LlcLine} (held : Occupied l) :
    setLlc k l s = { s with coh := { s.coh with lines := tput s.coh.lines k l } } := by
  have stays : (decide (l.hstate = .i) && l.trans.isNone && l.wait.isEmpty) = false := by
    rw [Bool.eq_false_iff]
    intro gone
    simp only [Bool.and_eq_true, decide_eq_true_eq, Option.isNone_iff_eq_none, List.isEmpty_iff, and_assoc] at gone
    obtain ⟨state, trans, wait⟩ := gone
    exact held.elim (fun h => h state) fun h => h.elim (fun h => h trans) fun h => h wait
  rw [setLlc, stays]
  rfl

/-- A line set twice is as set last. -/
theorem setLlc_setLlc {l m : LlcLine} (hl : Occupied l) (hm : Occupied m) : setLlc k m (setLlc k l s) = setLlc k m s := by
  rw [setLlc_occupied hl, setLlc_occupied hm, setLlc_occupied hm]
  exact congrArg (fun t => { s with coh := { s.coh with lines := t } }) (tput_tput s.coh.lines k l m)

theorem tidyLine_occupied (held : Occupied (llc s k)) : tidyLine k s = s := by
  have stays : (decide ((llc s k).hstate = .i) && (llc s k).trans.isNone && (llc s k).wait.isEmpty) = false := by
    rw [Bool.eq_false_iff]
    intro gone
    simp only [Bool.and_eq_true, decide_eq_true_eq, Option.isNone_iff_eq_none, List.isEmpty_iff, and_assoc] at gone
    obtain ⟨state, trans, wait⟩ := gone
    exact held.elim (fun h => h state) fun h => h.elim (fun h => h trans) fun h => h wait
  rw [tidyLine, stays]
  rfl

/-! ### Messages (R249) -/

theorem toTile_coh (t : Nat) (m : HomeMsg) (tag : Nat) : (toTile t m tag k s).coh = s.coh := by
  unfold toTile
  dsimp only
  split <;> rfl

theorem toTile_mi (t : Nat) (m : HomeMsg) (tag : Nat) : (toTile t m tag k s).mi = s.mi := by
  unfold toTile
  dsimp only
  split <;> rfl

theorem llc_toTile (t : Nat) (m : HomeMsg) (tag j : Nat) : llc (toTile t m tag k s) j = llc s j :=
  llc_congr (congrArg (fun c : Coherence => c.lines) (toTile_coh t m tag)) j

/-- A message about a line leaves under the tile's present generation with the line's data and mark. -/
theorem toTile_out (t : Nat) (m : HomeMsg) (tag : Nat) : (toTile t m tag k s).out =
    .tile t (homeHead m (domainGen s t) t tag (llc s k).dpa (llc s k).poison) (if carries m then some (llc s k).data else none)
      :: s.out := by
  unfold toTile
  dsimp only
  split <;> rfl

/-! ### Snoops (R252) -/

/-- A snoop or a stash offer counted. -/
def countSnoop (kind : TransKind) (s : State) : State :=
  if kind = .st then { s with coh := { s.coh with stashOffers := satAdd 64 s.coh.stashOffers 1 } }
  else { s with coh := { s.coh with snoops := satAdd 64 s.coh.snoops 1 } }

theorem countSnoop_same (kind : TransKind) (s : State) : (countSnoop kind s).mi = s.mi ∧
    (countSnoop kind s).coh.lines = s.coh.lines ∧ (countSnoop kind s).out = s.out := by
  unfold countSnoop
  split <;> exact ⟨rfl, rfl, rfl⟩

theorem sendSnoop_of_none (t : Nat) (still : (llc s k).trans = none) : sendSnoop k s t = s := by
  simp only [sendSnoop, still]

theorem sendSnoop_of_trans (t : Nat) {x : Trans} (trans : (llc s k).trans = some x) : sendSnoop k s t =
    toTile t (snoopMsg x.kind) x.tag k (countSnoop x.kind (setLlc k { llc s k with
      trans := some { x with unsent := x.unsent.filter fun y => y ≠ t, await := x.await ++ [t] } } s)) := by
  simp only [sendSnoop, trans]
  rfl

theorem sendSnoop_mi (t : Nat) : (sendSnoop k s t).mi = s.mi := by
  cases trans : (llc s k).trans with
  | none => rw [sendSnoop_of_none t trans]
  | some x =>
    rw [sendSnoop_of_trans t trans, toTile_mi, (countSnoop_same _ _).1]
    rfl

/-- A snoop leaves its line under a transaction. -/
theorem sendSnoop_trans {t : Nat} (moves : (llc s k).trans ≠ none) : (llc (sendSnoop k s t) k).trans ≠ none := by
  obtain ⟨x, trans⟩ := Option.ne_none_iff_exists'.mp moves
  rw [sendSnoop_of_trans t trans, llc_toTile, llc_congr (countSnoop_same _ _).2.1,
    llc_setLlc_self (.inr (.inl (Option.some_ne_none _)))]
  exact Option.some_ne_none _

theorem llc_sendSnoop_ne (t : Nat) {j : Nat} (other : j ≠ k) : llc (sendSnoop k s t) j = llc s j := by
  cases trans : (llc s k).trans with
  | none => rw [sendSnoop_of_none t trans]
  | some x =>
    rw [sendSnoop_of_trans t trans, llc_toTile, llc_congr (countSnoop_same _ _).2.1]
    exact llc_setLlc_ne other _

/-- What leaves the block with a snoop is a message to its tile. -/
theorem sendSnoop_out (t : Nat) : (sendSnoop k s t).out = s.out ∨ ∃ h d, (sendSnoop k s t).out = .tile t h d :: s.out := by
  cases trans : (llc s k).trans with
  | none => exact .inl (congrArg State.out (sendSnoop_of_none t trans))
  | some x =>
    rw [sendSnoop_of_trans t trans, toTile_out, (countSnoop_same _ _).2.2]
    exact .inr ⟨_, _, rfl⟩

theorem trySnoop_cases (t : Nat) : trySnoop k s t = sendSnoop k s t ∨ trySnoop k s t = s := by
  unfold trySnoop
  split
  · exact .inl rfl
  · exact .inr rfl

/-- No more than 8 snoops of a slice to a tile are outstanding (R252). -/
theorem trySnoop_full {t : Nat} (full : 8 ≤ outstanding s (sliceOf (linePc k)) t) : trySnoop k s t = s := by
  rw [trySnoop, if_neg (Nat.not_lt.mpr full)]

theorem foldl_trySnoop (ts : List Nat) : (ts.foldl (trySnoop k) s).mi = s.mi ∧
    (∀ j, j ≠ k → llc (ts.foldl (trySnoop k) s) j = llc s j) ∧
    ((llc s k).trans ≠ none → (llc (ts.foldl (trySnoop k) s) k).trans ≠ none) ∧
    ∀ e ∈ (ts.foldl (trySnoop k) s).out, e ∈ s.out ∨ ∃ t ∈ ts, ∃ h d, e = .tile t h d := by
  induction ts generalizing s with
  | nil => exact ⟨rfl, fun _ _ => rfl, id, fun e mem => .inl mem⟩
  | cons t ts ih =>
    obtain ⟨mi, lines, trans, out⟩ := ih (s := trySnoop k s t)
    rw [List.foldl_cons]
    obtain sent | kept := trySnoop_cases (s := s) (k := k) t
    · rw [sent] at mi lines trans out ⊢
      refine ⟨mi.trans (sendSnoop_mi t), fun j other => (lines j other).trans (llc_sendSnoop_ne t other),
        fun moves => trans (sendSnoop_trans moves), fun e mem => ?_⟩
      obtain old | ⟨u, memU, found⟩ := out e mem
      · obtain same | ⟨h, d, message⟩ := sendSnoop_out (s := s) (k := k) t
        · exact .inl (same ▸ old)
        · rw [message, List.mem_cons] at old
          exact old.elim (fun new => .inr ⟨t, List.mem_cons_self, h, d, new⟩) .inl
      · exact .inr ⟨u, List.mem_cons_of_mem t memU, found⟩
    · rw [kept] at mi lines trans out ⊢
      exact ⟨mi, lines, trans, fun e mem => (out e mem).imp_right fun ⟨u, memU, found⟩ => ⟨u, List.mem_cons_of_mem t memU, found⟩⟩

/-- Snoops go to the tiles named and change no other line. -/
theorem snoopAll_alone (kind : TransKind) (i : HomeItem) (ts : List Nat) : (snoopAll k kind i ts s).mi = s.mi ∧
    (∀ j, j ≠ k → llc (snoopAll k kind i ts s) j = llc s j) ∧
    ∀ e ∈ (snoopAll k kind i ts s).out, e ∈ s.out ∨ ∃ t ∈ ts, ∃ h d, e = .tile t h d := by
  unfold snoopAll
  dsimp only
  obtain ⟨mi, lines, _, out⟩ := foldl_trySnoop (k := k) ts
    (s := setLlc k { llc s k with trans := some { kind := kind, item := i, unsent := ts, tag := s.coh.snpTag } }
      { s with coh := { s.coh with snpTag := (s.coh.snpTag + 1) % 2 ^ 12 } })
  exact ⟨mi, fun j other => (lines j other).trans (llc_setLlc_ne other _), out⟩

theorem snoopAll_trans (kind : TransKind) (i : HomeItem) (ts : List Nat) : (llc (snoopAll k kind i ts s) k).trans ≠ none := by
  unfold snoopAll
  dsimp only
  refine (foldl_trySnoop ts).2.2.1 ?_
  rw [llc_setLlc_self (.inr (.inl (Option.some_ne_none _)))]
  exact Option.some_ne_none _

/-- Snoops replace the line's transaction, whatever it was. -/
theorem snoopAll_setLlc (kind : TransKind) (i : HomeItem) (ts : List Nat) (x : Trans) :
    snoopAll k kind i ts (setLlc k { llc s k with trans := some x } s) = snoopAll k kind i ts s := by
  have held : Occupied { llc s k with trans := some x } := .inr (.inl (Option.some_ne_none x))
  unfold snoopAll
  rw [llc_setLlc_self held]
  dsimp only
  rw [setLlc_occupied held, setLlc_occupied (.inr (.inl (Option.some_ne_none _))), setLlc_occupied (.inr (.inl (Option.some_ne_none _)))]
  dsimp only
  rw [tput_tput]

/-! ### Transactions that end (R259) -/

theorem finishItem_rds {i : HomeItem} {l : LlcLine} (kind : i.kind = .rds) (moves : l.trans ≠ none) :
    finishItem k i .ss none (setLlc k l s) = toTile i.tile .dataS i.tag k (setLlc k
      { l with trans := none, hstate := .s, presence := BitVec.ofNat 64 (2 ^ i.tile) } s) := by
  unfold finishItem
  rw [kind, llc_setLlc_self (.inr (.inl moves))]
  dsimp only
  rw [if_pos rfl, setLlc_setLlc (.inr (.inl moves))]
  exact .inl nofun

theorem finishItem_rds_kept {i : HomeItem} {l : LlcLine} (kind : i.kind = .rds) (moves : l.trans ≠ none) (o : Nat) :
    finishItem k i .ss (some o) (setLlc k l s) = toTile i.tile .dataS i.tag k (setLlc k
      { l with trans := none, hstate := .s, presence := setBit (BitVec.ofNat 64 (2 ^ i.tile)) o true } s) := by
  unfold finishItem
  rw [kind, llc_setLlc_self (.inr (.inl moves))]
  dsimp only
  rw [if_pos rfl, setLlc_setLlc (.inr (.inl moves))]
  exact .inl nofun

theorem finishItem_exclusive {i : HomeItem} {l : LlcLine} (kind : i.kind = .rdu ∨ i.kind = .upg) (moves : l.trans ≠ none)
    (kept : Option Nat) : finishItem k i .si kept (setLlc k l s) =
      toTile i.tile (if i.kind = .upg ∧ i.near = true then .grantE else .dataE) i.tag k (setLlc k
        { l with trans := none, hstate := .o, presence := BitVec.ofNat 64 (2 ^ i.tile) } s) := by
  unfold finishItem
  rw [llc_setLlc_self (.inr (.inl moves))]
  obtain rdu | upg := kind
  · rw [rdu]
    dsimp only
    rw [setLlc_setLlc (.inr (.inl moves)), if_neg (by simp)]
    exact .inl nofun
  · rw [upg]
    dsimp only
    rw [setLlc_setLlc (.inr (.inl moves))]
    · simp only [true_and]
    · exact .inl nofun

end

end Sys2Proof.Machine
end

section
/-!
SUPPORT. What reaches a home: an access that keys and arrays let through comes to its line, and a request of a tile that its
home may serve is served there (R242, R248, R252, R258, R259, R295).
-/
namespace Sys2Proof.Machine
open Sys2Proof

section
variable {s : State} {n k : Nat}

/-! ### To the line -/

theorem access_match {p line key : Nat} (match_ : keyCheck s p line key = .match_) : access p line key s = (true, s) := by
  rw [access, match_]

theorem access_refuse {p line key : Nat} (refuse : keyCheck s p line key = .refuse) :
    access p line key s = (false, { s with mi := { s.mi with keyMismatch := satAdd 64 s.mi.keyMismatch 1 } }) := by
  rw [access, refuse]

/-- A line that is resident is placed already. -/
theorem place_resident (resident : (llc s k).hstate ≠ .i) (dpa way : Nat) : place k dpa way s = s := by
  simp [place, resident]

/-- An access whose arrays read well reaches its line. -/
theorem reachEntry_stable (line : Stable s n k) {a : ArrayRead} (entry : a.entryLost = false) (copy : a.copyLost = false)
    (i : HomeItem) (go : Nat → HomeItem → State → State) : reachEntry n k a i go s = go k i s := by
  simp [reachEntry, line.resident, line.trans, injected_off line.inject, entry, copy, line.owner]

/-- The item of an access under the key ID of `dpa`. -/
def keyed (dpa : Nat) (i : HomeItem) : HomeItem := { i with keyId := dpaKey dpa, dpa := dpa / 64 * 64 }

theorem openLine_match (line : Stable s n k) {a : ArrayRead} (entry : a.entryLost = false) (copy : a.copyLost = false) {dpa : Nat}
    (match_ : keyCheck s (linePc k) (lineNo k) (dpaKey dpa) = .match_) (way : Nat) (victim : Option Nat) (i : HomeItem) :
    openLine n k dpa way victim a i s = (true, arrive k (keyed dpa i) s) := by
  simp only [openLine, match_, reduceCtorEq, decide_false, Bool.false_and, access_match match_, Bool.not_true, Bool.false_eq_true,
    if_false, place_resident line.resident]
  rw [reachEntry_stable line entry copy]
  rfl

theorem openLine_refuse {dpa : Nat} (refuse : keyCheck s (linePc k) (lineNo k) (dpaKey dpa) = .refuse) (way : Nat)
    (victim : Option Nat) (a : ArrayRead) (i : HomeItem) : openLine n k dpa way victim a i s =
      (false, { s with mi := { s.mi with keyMismatch := satAdd 64 s.mi.keyMismatch 1 } }) := by
  simp [openLine, access_refuse refuse]

/-- An item that no order holds back is served as it comes. -/
theorem arrive_stable (trans : (llc s k).trans = none) (commit : commitPending s k = false) {i : HomeItem} (late : i.late = false)
    (free : blocked s k i = false) : arrive k i s = serveItem k i s := by
  have same : { i with late := commitPending s k } = i := by rw [commit, ← late]
  simp only [arrive, same, trans, Option.isSome_none, free, Bool.or_self, Bool.false_eq_true, if_false]

theorem serveItem_plain {i : HomeItem} (plain : mustVerify i = false) : serveItem k i s = tidyLine k (begin_ k i s) := by
  simp [serveItem, plain]

theorem serveItem_verified {i : HomeItem} (verified : unverified s k = false) : serveItem k i s = tidyLine k (begin_ k i s) := by
  simp [serveItem, verified]

/-- An item of a kind that is no non-caching access is held back by returning atomics and commits alone. -/
theorem blocked_of_kind {i : HomeItem} (late : i.late = false) (read : i.kind ≠ .ncRead) (write : i.kind ≠ .ncWrite)
    (atom : i.kind ≠ .atom) : blocked s k i = false := by
  unfold blocked atomBlocked walkBlocked
  rw [late]
  cases kind : i.kind <;> simp_all

/-! ### Requests of tiles (R242, R252) -/

theorem dpaKey_line (d : Nat) : dpaKey (d / 64 * 64) = dpaKey d := by
  simp only [dpaKey, fld]
  omega

theorem keyed_reqItem (r : BackReq) : keyed (r.m.dpa / 64 * 64) (reqItem r) = reqItem r := by
  have line : r.m.dpa / 64 * 64 / 64 * 64 = r.m.dpa / 64 * 64 := by omega
  simp only [keyed, reqItem, dpaKey_line, line]

variable {op : Nat} {m : TileMsg}

/-- A request that is not back-pressured comes to its home. -/
theorem Reaches.takeRequest (h : Reaches s op m n k) {r : BackReq} (hm : r.m = m) : takeRequest r s = homeRequest r n k s := by
  subst hm
  simp [Machine.takeRequest, h.home, Nat.not_le.mpr h.room, h.turn]

/-- A request that its home may serve is served at its line. -/
theorem MayServe.served {bit : Nat} (h : MayServe s op m bit n k) {r : BackReq} (hm : r.m = m) (right : rightBit r.kind = bit)
    (wbm : r.kind ≠ .wbm) (wbc : r.kind ≠ .wbc) (step : atomStepOn s r = true) (free : blocked s k (reqItem r) = false) :
    takeRequest r s = serveItem k (reqItem r) s := by
  rw [h.toReaches.takeRequest hm]
  subst hm
  have opened := openLine_match h.line (a := arraysOf r.m) h.entry h.copy h.key r.m.way r.m.victim (reqItem r)
  rw [keyed_reqItem, arrive_stable h.line.trans h.line.commit rfl free] at opened
  simp [homeRequest, wbm, wbc, h.walk, right, h.grant, step, opened]

/-- A request that is no atomic and no write-back is served in its line's stable state. -/
theorem MayServe.begin {bit : Nat} (h : MayServe s op m bit n k) {kind : ItemKind}
    (plain : kind = .rds ∨ kind = .rdu ∨ kind = .upg) (right : rightBit kind = bit) :
    reqSt op kind m s = tidyLine k (begin_ k (reqItem { m := m, kind := kind }) s) := by
  have other : kind ≠ .wbm ∧ kind ≠ .wbc ∧ kind ≠ .ncRead ∧ kind ≠ .ncWrite ∧ kind ≠ .atom := by
    obtain rfl | rfl | rfl := plain <;> decide
  obtain ⟨wbm, wbc, read, write, atom⟩ := other
  have free : blocked s k (reqItem { m := m, kind := kind }) = false := blocked_of_kind rfl read write atom
  have step : atomStepOn s { m := m, kind := kind } = true := by simp [atomStepOn, atom]
  rw [reqSt, h.toPasses.message]
  refine (h.served (r := { m := m, kind := kind }) rfl right wbm wbc step free).trans (serveItem_plain ?_)
  simp [mustVerify, reqItem]

/-- A write-back comes to its resident line. -/
theorem Reaches.writeBack (h : Reaches s op m n k) (line : Stable s n k) {kind : ItemKind} (wb : kind = .wbm ∨ kind = .wbc)
    (d : Line) : dataReqSt op kind m none d 0 s = tidyLine k (begin_ k (reqItem { m := m, kind := kind, data := d }) s) := by
  have other : kind ≠ .ncRead ∧ kind ≠ .ncWrite ∧ kind ≠ .atom := by
    obtain rfl | rfl := wb <;> decide
  obtain ⟨read, write, atom⟩ := other
  have free : blocked s k (reqItem { m := m, kind := kind, data := d }) = false := blocked_of_kind rfl read write atom
  rw [dataReqSt, h.toPasses.message, passData_whole h.inject, h.takeRequest rfl, homeRequest]
  simp only [wb, if_true, line.resident, decide_false, Bool.false_and, Bool.false_eq_true, if_false]
  rw [reachEntry_stable line h.entry h.copy, arrive_stable line.trans line.commit rfl free]
  exact serveItem_plain (by simp [mustVerify, reqItem])

/-- One of a line that is not resident is only acknowledged. -/
theorem Reaches.writeBack_away (h : Reaches s op m n k) (away : llc s k = {}) {kind : ItemKind} (wb : kind = .wbm ∨ kind = .wbc)
    (d : Line) : dataReqSt op kind m none d 0 s = sendTile m.tile .wbAck m.tag (m.dpa / 64 * 64) 0 false s := by
  rw [dataReqSt, h.toPasses.message, passData_whole h.inject, h.takeRequest rfl, homeRequest]
  simp [wb, away, wbAck, reqItem]

end

end Sys2Proof.Machine
end

section
/-!
SUPPORT. Write-backs and the answers that end transactions (R252, R257, R259, R263).
-/
namespace Sys2Proof.Machine
open Sys2Proof

section
variable {s : State} {n k op : Nat} {m : TileMsg}

theorem lineOf_lineBytes (d : Line) : lineOf (lineBytes d) = d := by
  have bound : d.toNat < (2 ^ 8) ^ 64 := by
    rw [← Nat.pow_mul]
    exact d.isLt
  rw [lineOf, lineBytes, leNat_leBytes bound, BitVec.ofNat_toNat, BitVec.setWidth_eq]

/-! ### Write-backs -/

/-- A line that is set to be held stays in the table. -/
theorem tidyLine_setLlc {l : LlcLine} {t : State} (held : Occupied l) (lines : t.coh.lines = (setLlc k l s).coh.lines) :
    tidyLine k t = t :=
  tidyLine_occupied (by rwa [llc_congr lines, llc_setLlc_self held])

theorem begin_wbm_owner {i : HomeItem} (kind : i.kind = .wbm) (owned : (llc s k).hstate = .o)
    (has : (llc s k).presence.getLsbD i.tile = true) : tidyLine k (begin_ k i s) = wbAck i (setLlc k
      { llc s k with hstate := .l, presence := 0, data := lineOf i.data, poison := i.poison, dirty := true } s) := by
  have served : begin_ k i s = wbAck i (setLlc k
      { llc s k with hstate := .l, presence := 0, data := lineOf i.data, poison := i.poison, dirty := true } s) := by
    simp [begin_, kind, owned, has]
  rw [served]
  refine tidyLine_setLlc ?_ rfl
  exact .inl nofun

theorem begin_wbc_owner {i : HomeItem} (kind : i.kind = .wbc) (owned : (llc s k).hstate = .o)
    (has : (llc s k).presence.getLsbD i.tile = true) : tidyLine k (begin_ k i s) = wbAck i (setLlc k
      { llc s k with data := lineOf i.data, poison := i.poison, dirty := true } s) := by
  have served : begin_ k i s = wbAck i (setLlc k
      { llc s k with data := lineOf i.data, poison := i.poison, dirty := true } s) := by
    simp [begin_, kind, owned, has]
  rw [served]
  refine tidyLine_setLlc ?_ rfl
  exact .inl (by simp [owned])

/-- A write-back of a tile that does not own the line is acknowledged and its data discarded. -/
theorem begin_wb_other {i : HomeItem} (kind : i.kind = .wbm ∨ i.kind = .wbc) (resident : (llc s k).hstate ≠ .i)
    (other : (llc s k).hstate = .l ∨ (llc s k).presence.getLsbD i.tile = false) : tidyLine k (begin_ k i s) = wbAck i s := by
  have served : begin_ k i s = wbAck i s := by
    unfold begin_
    cases state : (llc s k).hstate with
    | i => exact absurd state resident
    | l => obtain h | h := kind <;> simp [h, state]
    | s =>
      have gone : (llc s k).presence.getLsbD i.tile = false := other.resolve_left (by simp [state])
      obtain h | h := kind <;> simp [h, state, gone]
    | o =>
      have gone : (llc s k).presence.getLsbD i.tile = false := other.resolve_left (by simp [state])
      obtain h | h := kind <;> simp [h, state, gone]
  rw [served]
  exact tidyLine_occupied (.inl resident)

/-! ### Answers -/

/-- The last answer that a transaction awaits ends it. -/
theorem tileAnswer_ends {x : Trans} (home : homeOf s m = some (n, k)) (trans : (llc s k).trans = some x)
    (await : x.await = [m.tile]) (unsent : x.unsent = []) (tag : x.tag = m.tag) {kept : Bool}
    (fits : x.kind = .ss ∨ (x.kind = .si ∧ kept = false)) :
    tileAnswer m none kept s = nextSnoop (sliceOf (linePc k)) m.tile (drainAll k (finishItem k x.item x.kind
      (if kept then some m.tile else none) (setLlc k { llc s k with trans := some { x with await := [] } } s))) := by
  obtain ⟨kind, item, awaits, left, tag', kept'⟩ := x
  dsimp only at await unsent tag fits ⊢
  subst await unsent tag
  obtain rfl | ⟨rfl, rfl⟩ := fits <;> simp [tileAnswer, home, trans, answered]

/-- So does one with data, which makes the copy dirty. -/
theorem tileAnswer_data_ends {x : Trans} (home : homeOf s m = some (n, k)) (trans : (llc s k).trans = some x)
    (await : x.await = [m.tile]) (unsent : x.unsent = []) (tag : x.tag = m.tag) {kept : Bool}
    (fits : x.kind = .ss ∨ (x.kind = .si ∧ kept = false))
    (d : Line) (p : Bool) : tileAnswer m (some (d, p)) kept s = nextSnoop (sliceOf (linePc k)) m.tile (drainAll k
      (finishItem k x.item x.kind (if kept then some m.tile else none) (setLlc k
        { llc s k with data := d, poison := p, dirty := true, trans := some { x with await := [] } } s))) := by
  obtain ⟨kind, item, awaits, left, tag', kept'⟩ := x
  dsimp only at await unsent tag fits ⊢
  subst await unsent tag
  obtain rfl | ⟨rfl, rfl⟩ := fits <;> simp [tileAnswer, home, trans, answered]

/-! ### Atomics at a home (R261) -/

/-- The atomics that the step of an item has issued on the line before (R75). -/
def earlierAtoms (k : Nat) (i : HomeItem) (s : State) : List (Nat × AtomOp) :=
  match i.step.bind (findStep s) with
  | some t => stepAtoms t k
  | none => []

/-- What the atomic of an item gives on a line's data as its step sees it. -/
def atomGiven (k : Nat) (i : HomeItem) (op : AtomOp) (d : Line) (s : State) : AtomResult :=
  atomUnit op i.off ((earlierAtoms k i s).foldl (fun v a => (atomUnit a.2 a.1 v).line) d)

/-- An atomic performed at the home or in memory, counted. -/
def atomCounted (i : HomeItem) (home : Bool) (s : State) : State :=
  if i.isStep then s
  else if home then { s with coh := { s.coh with atomsHome := satAdd 64 s.coh.atomsHome 1 } }
  else { s with coh := { s.coh with atomsMemory := satAdd 64 s.coh.atomsMemory 1 } }

/-- What the step of an item has seen of the line. -/
def atomSaw (k : Nat) (i : HomeItem) (poison : Bool) (s : State) (t : Step) : Step :=
  { stepSaw s k t with
    poisoned := (stepSaw s k t).poisoned || poison
    poisonDpa := if poison && !(stepSaw s k t).poisoned then i.dpa else (stepSaw s k t).poisonDpa }

/-- An atomic counted, seen by its step and answered. -/
def atomAnswered (k : Nat) (i : HomeItem) (home : Bool) (r : AtomResult) (poison : Bool) (s : State) : State :=
  let s := atomCounted i home s
  let s := match i.step with
    | some id => modStep id (atomSaw k i poison s) s
    | none => s
  if i.isStep then s else atomAnswer i r.status r.old poison s

theorem atomAnswer_lines (i : HomeItem) (st : Status) (old : Nat) (p : Bool) (s : State) :
    (atomAnswer i st old p s).coh.lines = s.coh.lines := by
  unfold atomAnswer
  dsimp only
  split <;> rfl

theorem atomAnswered_lines (i : HomeItem) (home : Bool) (r : AtomResult) (poison : Bool) :
    (atomAnswered k i home r poison s).coh.lines = s.coh.lines := by
  have counted : (atomCounted i home s).coh.lines = s.coh.lines := by
    unfold atomCounted
    split
    · rfl
    · split <;> rfl
  unfold atomAnswered
  cases i.step <;> dsimp only <;> split
  · exact counted
  · exact (atomAnswer_lines ..).trans counted
  · exact counted
  · exact (atomAnswer_lines ..).trans counted

/-- The end of an atomic that gave `r`: logged by its step, or applied to the line. -/
def atomEnd (k : Nat) (i : HomeItem) (op : AtomOp) (home : Bool) (r : AtomResult) (poison : Bool) (s : State) : State :=
  if r.status ≠ .ok then
    if i.isStep then s else { s with lre := { s.lre with atomErrors := satAdd 64 s.lre.atomErrors 1 } }
  else
    match i.step with
    | some id =>
      modStep id (fun t => { t with log := t.log ++ [.atomic k i.off s.coh.atomSeq op] })
        { s with coh := { s.coh with atomSeq := s.coh.atomSeq + 1 } }
    | none =>
      if home then setLlc k { llc s k with data := r.line, dirty := (llc s k).dirty || atomWrites op r.old } s
      else if atomWrites op r.old then writeMem k r.line poison s
      else s

theorem performAtom_eq {i : HomeItem} {op : AtomOp} (hop : i.op = some op) (home : Bool) (d : Line) (poison : Bool) :
    performAtom k i home d poison s = atomEnd k i op home (atomGiven k i op d (atomCounted i home s)) poison
      (atomAnswered k i home (atomGiven k i op d (atomCounted i home s)) poison s) := by
  unfold performAtom
  rw [hop]
  rfl

theorem llc_atomEnd_ne (i : HomeItem) (op : AtomOp) (r : AtomResult) (poison : Bool) {j : Nat} (other : j ≠ k) :
    llc (atomEnd k i op true r poison s) j = llc s j := by
  unfold atomEnd
  split
  · split <;> rfl
  · split
    · rfl
    · exact llc_setLlc_ne other _

/-- An atomic at the home leaves every other line. -/
theorem llc_performAtom_ne (i : HomeItem) (d : Line) (poison : Bool) {j : Nat} (other : j ≠ k) :
    llc (performAtom k i true d poison s) j = llc s j := by
  cases hop : i.op with
  | none => rw [performAtom, hop]
  | some op => rw [performAtom_eq hop, llc_atomEnd_ne _ _ _ _ other, llc_congr (atomAnswered_lines ..)]

end

/-- Settles O30: lines and messages by what they set; write-backs by the home's stable state; an answer by the transaction that it
ends. -/
theorem writeBacksAndAnswers : Obligations.WriteBacksAndAnswers := by
  refine ⟨fun k l s held => llc_setLlc_self held, fun k j l s other => llc_setLlc_ne other l,
    fun t m tag k s => ⟨toTile_coh t m tag, toTile_mi t m tag, toTile_out t m tag⟩, fun k kind i ts s => snoopAll_alone kind i ts,
    fun k t s full => trySnoop_full full, fun k i s j other => llc_performAtom_ne i _ _ other,
    fun m d n k s line => ⟨fun owned has => ⟨fun h => settles ?_, fun h => settles ?_⟩,
      fun other => ⟨fun h => settles ?_, fun h => settles ?_⟩⟩,
    fun m d n k s away => ⟨fun h => settles (h.writeBack_away away (.inl rfl) d), fun h => settles (h.writeBack_away away (.inr rfl) d)⟩,
    fun m d n k x s home trans await unsent tag => ⟨fun kind => ⟨fun pass => settles ?_, fun pass => settles ?_⟩,
      fun kind => ⟨fun pass => settles ?_, fun pass => settles ?_⟩⟩,
    fun i k l s kind moves => ⟨finishItem_rds kind moves, finishItem_rds_kept kind moves⟩,
    fun i k kept l s kind moves => finishItem_exclusive kind moves kept⟩
  · rw [h.writeBack line (.inl rfl) d, begin_wbm_owner rfl owned has]
    simp [reqItem, wbAck, lineOf_lineBytes]
  · rw [h.writeBack line (.inr rfl) d, begin_wbc_owner rfl owned has]
    simp [reqItem, wbAck, lineOf_lineBytes]
  · exact (h.writeBack line (.inl rfl) d).trans (begin_wb_other (.inl rfl) line.resident other)
  · exact (h.writeBack line (.inr rfl) d).trans (begin_wb_other (.inr rfl) line.resident other)
  · exact pass.message _ |>.trans (tileAnswer_ends home trans await unsent tag (kind.imp_right fun h => ⟨h, rfl⟩))
  · rw [pass.message, passData_whole pass.inject]
    exact tileAnswer_data_ends home trans await unsent tag (kind.imp_right fun h => ⟨h, rfl⟩) d m.poison
  · rw [pass.message, tileAnswer_ends home trans await unsent tag (.inl kind), kind]
    rfl
  · rw [pass.message, passData_whole pass.inject, tileAnswer_data_ends home trans await unsent tag (.inl kind), kind]
    rfl

end Sys2Proof.Machine
end

section
/-!
SUPPORT. Requests at a resident line, by the home's stable state; and what the home refuses, discards or leaves waiting (R242, R252,
R253, R258, R259, R261, R273).
-/
namespace Sys2Proof.Machine
open Sys2Proof

section
variable {s : State} {n k : Nat} {i : HomeItem}

/-! ### A request in a stable state (R259) -/

theorem tidyLine_toTile {l : LlcLine} (held : Occupied l) (t : Nat) (m : HomeMsg) (tag : Nat) :
    tidyLine k (toTile t m tag k (setLlc k l s)) = toTile t m tag k (setLlc k l s) :=
  tidyLine_setLlc held (congrArg (fun c : Coherence => c.lines) (toTile_coh t m tag))

/-- A line that only the LLC holds goes to its requester, who owns it. -/
theorem begin_near (kind : i.kind = .rds ∨ i.kind = .rdu ∨ i.kind = .upg) (trans : (llc s k).trans = none)
    (near : (llc s k).hstate = .l) : tidyLine k (begin_ k i s) = toTile i.tile .dataE i.tag k
      (setLlc k { llc s k with hstate := .o, presence := BitVec.ofNat 64 (2 ^ i.tile) } s) := by
  have served : begin_ k i s = toTile i.tile .dataE i.tag k
      (setLlc k { llc s k with hstate := .o, presence := BitVec.ofNat 64 (2 ^ i.tile) } s) := by
    obtain h | h | h := kind <;> simp [begin_, h, near, finishItem, trans]
  rw [served]
  refine tidyLine_toTile ?_ _ _ _
  exact .inl nofun

/-- A shared line goes to one more sharer. -/
theorem begin_shared (kind : i.kind = .rds) (shared : (llc s k).hstate = .s) : tidyLine k (begin_ k i s) =
    toTile i.tile .dataS i.tag k (setLlc k { llc s k with presence := setBit (llc s k).presence i.tile true } s) := by
  have served : begin_ k i s =
      toTile i.tile .dataS i.tag k (setLlc k { llc s k with presence := setBit (llc s k).presence i.tile true } s) := by
    simp [begin_, kind, shared]
  rw [served]
  refine tidyLine_toTile ?_ _ _ _
  exact .inl (by simp [shared])

/-- An owner that reads its line again has it again. -/
theorem begin_again (kind : i.kind = .rds ∨ i.kind = .rdu) (owned : (llc s k).hstate = .o)
    (has : (llc s k).presence.getLsbD i.tile = true) : tidyLine k (begin_ k i s) = toTile i.tile .dataE i.tag k s := by
  have served : begin_ k i s = toTile i.tile .dataE i.tag k s := by
    obtain h | h := kind <;> simp [begin_, h, owned, has]
  rw [served]
  refine tidyLine_occupied (.inl ?_)
  rw [llc_toTile, owned]
  nofun

theorem tidyLine_snoopAll (kind : TransKind) (i : HomeItem) (ts : List Nat) :
    tidyLine k (snoopAll k kind i ts s) = snoopAll k kind i ts s := tidyLine_occupied (.inr (.inl (snoopAll_trans kind i ts)))

/-- A read of an owned line downgrades its live owner. -/
theorem begin_downgrade (kind : i.kind = .rds) (owned : (llc s k).hstate = .o) (has : (llc s k).presence.getLsbD i.tile = false)
    (alive : s.coh.dead.getLsbD (ownerOf (llc s k)) = false) :
    tidyLine k (begin_ k i s) = snoopAll k .ss i [ownerOf (llc s k)] s := by
  have served : begin_ k i s = snoopAll k .ss i [ownerOf (llc s k)] s := by
    simp [begin_, kind, owned, has, downgrade, alive]
  rw [served, tidyLine_snoopAll]

/-- Live tiles are snooped, and the transaction waits for them. -/
theorem invalidate_live {ts : List Nat} (some_ : ts ≠ []) (alive : ∀ t ∈ ts, s.coh.dead.getLsbD t = false) (i : HomeItem) :
    invalidate k i ts s = snoopAll k .si i ts s := by
  have live : (ts.filter fun t => !s.coh.dead.getLsbD t) = ts := List.filter_eq_self.mpr fun t mem => by simp [alive t mem]
  have lost : ((llc s k).hstate == .o && ts.contains (ownerOf (llc s k)) && s.coh.dead.getLsbD (ownerOf (llc s k))) = false := by
    cases mem : ts.contains (ownerOf (llc s k)) with
    | false => simp
    | true => simp [alive _ (List.contains_iff_mem.mp mem)]
  simp only [invalidate, live, lost, Bool.false_eq_true, if_false, some_]
  exact snoopAll_setLlc _ _ _ _

/-- A request for a line to own invalidates the others that hold it. -/
theorem begin_rdu_invalidates (kind : i.kind = .rdu) (held : (llc s k).hstate = .s ∨
      ((llc s k).hstate = .o ∧ (llc s k).presence.getLsbD i.tile = false)) (some_ : others (llc s k) i.tile ≠ [])
    (alive : ∀ t ∈ others (llc s k) i.tile, s.coh.dead.getLsbD t = false) :
    tidyLine k (begin_ k i s) = snoopAll k .si i (others (llc s k) i.tile) s := by
  have served : begin_ k i s = invalidate k i (others (llc s k) i.tile) s := by
    obtain state | ⟨state, has⟩ := held
    · simp [begin_, kind, state]
    · simp [begin_, kind, state, has]
  rw [served, invalidate_live some_ alive, tidyLine_snoopAll]

/-- So does one of a tile that may share it, which keeps its copy. -/
theorem begin_upg_invalidates (kind : i.kind = .upg) (held : (llc s k).hstate = .s ∨
      ((llc s k).hstate = .o ∧ (llc s k).presence.getLsbD i.tile = false)) (some_ : others (llc s k) i.tile ≠ [])
    (alive : ∀ t ∈ others (llc s k) i.tile, s.coh.dead.getLsbD t = false) : tidyLine k (begin_ k i s) =
      snoopAll k .si { i with near := (llc s k).presence.getLsbD i.tile } (others (llc s k) i.tile) s := by
  have served : begin_ k i s = invalidate k { i with near := (llc s k).presence.getLsbD i.tile } (others (llc s k) i.tile) s := by
    obtain state | ⟨state, has⟩ := held
    · simp [begin_, kind, state]
    · simp [begin_, kind, state, has]
  rw [served, invalidate_live some_ alive, tidyLine_snoopAll]

/-- The only sharer of a line owns it on request. -/
theorem begin_grant (kind : i.kind = .upg) (shared : (llc s k).hstate = .s) (trans : (llc s k).trans = none)
    (none : others (llc s k) i.tile = []) (has : (llc s k).presence.getLsbD i.tile = true) : tidyLine k (begin_ k i s) =
      toTile i.tile .grantE i.tag k (setLlc k { llc s k with hstate := .o, presence := BitVec.ofNat 64 (2 ^ i.tile) } s) := by
  have moves : ({ llc s k with trans := some { kind := .si, item := { i with near := true } } } : LlcLine).trans ≠ Option.none :=
    Option.some_ne_none _
  have served : begin_ k i s = finishItem k { i with near := true } .si Option.none
      (setLlc k { llc s k with trans := some { kind := .si, item := { i with near := true } } } s) := by
    simp [begin_, kind, shared, none, has, invalidate]
  have grants := finishItem_exclusive (k := k) (s := s) (i := { i with near := true }) (.inr kind) moves
  rw [served, grants]
  simp only [kind, and_self, if_true, ← trans]
  refine tidyLine_toTile ?_ _ _ _
  exact .inl nofun

theorem strange_lines (code : Nat) (i : HomeItem) (s : State) : (strange code i s).coh.lines = s.coh.lines :=
  (congrArg Coherence.lines (impossible_coh _ _ s) :)

/-- An owner that asks to own its line sends what is impossible. -/
theorem begin_strange (kind : i.kind = .upg) (owned : (llc s k).hstate = .o) (has : (llc s k).presence.getLsbD i.tile = true) :
    tidyLine k (begin_ k i s) = strange 0x03 i s := by
  have served : begin_ k i s = strange 0x03 i s := by simp [begin_, kind, owned, has]
  rw [served]
  refine tidyLine_occupied (.inl ?_)
  rw [llc_congr (strange_lines _ _ _), owned]
  nofun

/-! ### Atomics at a resident line (R253, R261) -/

/-- Where no step holds a returning atomic on the line, an atomic waits for none. -/
theorem blocked_atom {r : BackReq} (kind : r.kind = .atom) (none : ∀ u ∈ s.steps, ∀ a ∈ stepAtoms u k, a.2.ret = false) :
    blocked s k (reqItem r) = false := by
  have quiet : ∀ t ∈ s.steps, ((stepAtoms t k).any fun a => a.2.ret) = false := fun t mem =>
    List.any_eq_false.mpr fun a at_ => by simp [none t mem a at_]
  have steps : (s.steps.any fun t => some t.id != (reqItem r).step && t.phase != .killed &&
      (stepAtoms t k).any fun a => a.2.ret) = false := List.any_eq_false.mpr fun t mem => by simp [quiet t mem]
  simp only [blocked, atomBlocked, walkBlocked]
  rw [steps]
  simp [reqItem, kind]

/-- An update that changes nothing leaves the steps. -/
theorem modFirst_id {α : Type} {p : α → Bool} {f : α → α} (same : ∀ a, f a = a) (l : List α) : modFirst p f l = l := by
  induction l with
  | nil => rfl
  | cons a l ih => simp [modFirst, same, ih]

theorem modStep_id {id : Nat} {f : Step → Step} (same : ∀ t, f t = t) : modStep id f s = s := by
  simp only [modStep, modFirst_id same]

/-- A step that reads a verified line without poison is as it was. -/
theorem atomSaw_clean (verified : unverified s k = false) (clean : (llc s k).poison = false) (t : Step) :
    atomSaw k i false s t = t := by
  simp [atomSaw, stepSaw, verified, clean]

/-- A running step's atomic on a line that only the LLC holds runs there: it is counted, answered and logged. -/
theorem performAtom_step {op : AtomOp} {id : Nat} {t : Step} (hop : i.op = some op) (step : i.step = some id) (tile : i.isStep = false)
    (host : i.host = none) (found : findStep s id = some t) (first : stepAtoms t k = []) (verified : unverified s k = false)
    (clean : (llc s k).poison = false) (ok : (atomUnit op i.off (llc s k).data).status = .ok) :
    performAtom k i true (llc s k).data (llc s k).poison s =
      modStep id (fun t => { t with log := t.log ++ [.atomic k i.off s.coh.atomSeq op] })
        (sendTile i.tile (.atomResp .ok) i.tag i.dpa
          (BitVec.ofNat 512 (if op.ret then (atomUnit op i.off (llc s k).data).old else 0)) false
          { s with coh := { s.coh with atomsHome := satAdd 64 s.coh.atomsHome 1, atomSeq := s.coh.atomSeq + 1 } }) := by
  have counted : atomCounted i true s = { s with coh := { s.coh with atomsHome := satAdd 64 s.coh.atomsHome 1 } } := by
    simp [atomCounted, tile]
  have found' : findStep (atomCounted i true s) id = some t := by rw [counted]; exact found
  have given : atomGiven k i op (llc s k).data (atomCounted i true s) = atomUnit op i.off (llc s k).data := by
    simp [atomGiven, earlierAtoms, step, found', first]
  have saw : modStep id (atomSaw k i false (atomCounted i true s)) (atomCounted i true s) = atomCounted i true s := by
    refine modStep_id fun t => atomSaw_clean ?_ ?_ t
    · rw [counted]; exact verified
    · rw [counted]; exact clean
  have answered : ∀ r, atomAnswered k i true r false s = atomAnswer i r.status r.old false (atomCounted i true s) := fun r => by
    simp only [atomAnswered, step, tile, Bool.false_eq_true, if_false]
    rw [saw]
  rw [performAtom_eq hop, given, clean, answered, counted]
  simp [atomEnd, atomAnswer, hop, host, step, ok, sendTile, modStep]
  rfl

variable {op : Nat} {m : TileMsg}

/-- Data without a parity error passes the port whole. -/
theorem passData_clean (quiet : s.fc.inj.remaining = 0) (step : Option Nat) (g : TileMsg → State → State) :
    passData m 0 step g s = g m s := by
  have none_ : ∀ u id, stepParity u id (decide (1 ≤ 0)) s = (false, s) := fun u id => by
    unfold stepParity
    cases findStep s id <;> simp [parityCheck, injected_off quiet]
  unfold passData
  split
  · rw [none_]
  · rw [transfer_whole quiet]

/-- A running step's atomic is served at its line. -/
theorem MayServe.atom (h : MayServe s 0x04 m 0 n k) {id : Nat} {t : Step} (found : findStep s id = some t)
    (running : t.phase = .running) (unit : t.units.contains (tileUnit m.tile) = true)
    (none : ∀ u ∈ s.steps, ∀ a ∈ stepAtoms u k, a.2.ret = false) (verified : unverified s k = false) (d : Line) :
    dataReqSt 0x04 .atom m (some id) d 0 s =
      tidyLine k (begin_ k (reqItem { m := m, kind := .atom, step := some id, data := d }) s) := by
  have step : atomStepOn s { m := m, kind := .atom, step := some id, data := d } = true := by
    simpa [atomStepOn, found, running] using unit
  rw [dataReqSt, h.toPasses.message, passData_clean h.inject]
  exact (h.served (r := { m := m, kind := .atom, step := some id, data := d }) rfl rfl nofun nofun step
    (blocked_atom rfl none)).trans (serveItem_verified verified)

/-- An atomic at a line that tiles hold invalidates it there first. -/
theorem begin_atom_invalidates (kind : i.kind = .atom) (held : (llc s k).hstate = .s ∨ (llc s k).hstate = .o)
    (some_ : bitList (llc s k).presence ≠ []) (alive : ∀ t ∈ bitList (llc s k).presence, s.coh.dead.getLsbD t = false) :
    tidyLine k (begin_ k i s) = snoopAll k .si i (bitList (llc s k).presence) s := by
  have served : begin_ k i s = invalidate k i (bitList (llc s k).presence) s := by
    obtain state | state := held <;> simp [begin_, kind, state]
  rw [served, invalidate_live some_ alive, tidyLine_snoopAll]

/-- One at a line that only the LLC holds runs there. -/
theorem begin_atom_near (kind : i.kind = .atom) (near : (llc s k).hstate = .l) :
    begin_ k i s = performAtom k i true (llc s k).data (llc s k).poison s := by
  simp [begin_, kind, near]

end

/-- Settles O29: a request that its home may serve, by the line's stable state. -/
theorem requestsAtTheHome : Obligations.RequestsAtTheHome := by
  refine ⟨fun m n k s h => ⟨fun near => settles ?_, fun shared => settles ?_, fun owned has => settles ?_,
      fun owned has alive => settles ?_⟩,
    fun m n k s h => ⟨fun near => settles ?_, fun held some_ alive => settles ?_, fun owned has => settles ?_⟩,
    fun m n k s h => ⟨fun near => settles ?_, fun shared none has => settles ?_, fun held some_ alive => settles ?_,
      fun owned has => settles ?_⟩,
    fun m d id t n k s h found running unit none verified =>
      ⟨fun near first ok clean => settles ?_, fun held some_ alive => settles ?_⟩⟩
  · exact (h.begin (.inl rfl) rfl).trans (begin_near (.inl rfl) h.line.trans near)
  · exact (h.begin (.inl rfl) rfl).trans (begin_shared rfl shared)
  · exact (h.begin (.inl rfl) rfl).trans (begin_again (.inl rfl) owned has)
  · exact (h.begin (.inl rfl) rfl).trans (begin_downgrade rfl owned has alive)
  · exact (h.begin (.inr (.inl rfl)) rfl).trans (begin_near (.inr (.inl rfl)) h.line.trans near)
  · exact (h.begin (.inr (.inl rfl)) rfl).trans (begin_rdu_invalidates rfl held some_ alive)
  · exact (h.begin (.inr (.inl rfl)) rfl).trans (begin_again (.inr rfl) owned has)
  · exact (h.begin (.inr (.inr rfl)) rfl).trans (begin_near (.inr (.inr rfl)) h.line.trans near)
  · exact (h.begin (.inr (.inr rfl)) rfl).trans (begin_grant rfl shared h.line.trans none has)
  · exact (h.begin (.inr (.inr rfl)) rfl).trans (begin_upg_invalidates rfl held some_ alive)
  · exact (h.begin (.inr (.inr rfl)) rfl).trans (begin_strange rfl owned has)
  · have performed := performAtom_step (i := reqItem { m := m, kind := .atom, step := some id, data := d }) rfl rfl rfl rfl found
      first verified clean ok
    rw [h.atom found running unit none verified d, begin_atom_near rfl near, performed]
    exact tidyLine_occupied (.inl h.line.resident)
  · exact (h.atom found running unit none verified d).trans (begin_atom_invalidates rfl held some_ alive)

/-! ### What a home does not serve (R242, R252, R258, R273) -/

section
variable {s : State} {m : TileMsg} {r : BackReq}

/-- A request of a tile without a home for it has no rights there. -/
theorem takeRequest_homeless (away : homeOf s m = none) (hm : r.m = m) :
    takeRequest r s = rspErr m.tile m.tag m.dpa .rights s := by
  subst hm
  rw [takeRequest, away]

/-- Nor has one without a running step's right. -/
theorem homeRequest_rightless {n k : Nat} (walk : s.coh.walk.getLsbD n = false)
    (none : tileGrant s r.m.tile r.m.dpa (rightBit r.kind) = false) (wbm : r.kind ≠ .wbm) (wbc : r.kind ≠ .wbc) :
    homeRequest r n k s = rspErr r.m.tile r.m.tag r.m.dpa .rights s := by
  simp [homeRequest, wbm, wbc, walk, none]

/-- A recall walk discards it. -/
theorem homeRequest_walk {n k : Nat} (walk : s.coh.walk.getLsbD n = true) (wbm : r.kind ≠ .wbm) (wbc : r.kind ≠ .wbc) :
    homeRequest r n k s = s := by
  simp [homeRequest, wbm, wbc, walk]

variable {op : Nat}

theorem Passes.reqSt (h : Passes s op m) (kind : ItemKind) :
    reqSt op kind m s = takeRequest { m := m, kind := kind } s := h.message _

theorem Passes.dataReqSt (h : Passes s op m) (kind : ItemKind) (step : Option Nat) (d : Line) :
    dataReqSt op kind m step d 0 s = takeRequest { m := m, kind := kind, step := step, data := d } s := by
  rw [Machine.dataReqSt, h.message, passData_clean h.inject]

theorem Reaches.rightless {n k : Nat} (h : Reaches s op m n k) (hm : r.m = m) (walk : s.coh.walk.getLsbD n = false)
    (none : tileGrant s m.tile m.dpa (rightBit r.kind) = false) (wbm : r.kind ≠ .wbm) (wbc : r.kind ≠ .wbc) :
    Machine.takeRequest r s = rspErr m.tile m.tag m.dpa .rights s := by
  rw [h.takeRequest hm]
  subst hm
  exact homeRequest_rightless walk none wbm wbc

theorem Reaches.walked {n k : Nat} (h : Reaches s op m n k) (hm : r.m = m) (walk : s.coh.walk.getLsbD n = true)
    (wbm : r.kind ≠ .wbm) (wbc : r.kind ≠ .wbc) : Machine.takeRequest r s = s := by
  rw [h.takeRequest hm]
  exact homeRequest_walk walk wbm wbc

/-- Without a free tracker, or behind a request of its tile, it waits. -/
theorem takeRequest_backed {n k : Nat} (home : homeOf s r.m = some (n, k))
    (full : 256 ≤ trackers s (sliceOf (linePc k)) ∨ behind s r.m (sliceOf (linePc k)) = true) :
    takeRequest r s = { s with coh := { s.coh with backed := s.coh.backed ++ [r] } } := by
  simp only [takeRequest, home, Bool.or_eq_true, decide_eq_true_eq, full, if_true]

end

/-- Settles O28: a request without a home or a right, one during a walk, and one that finds no room. -/
theorem requestsNeedRights : Obligations.RequestsNeedRights := by
  refine ⟨fun m d step s away => ⟨fun h => settles ?_, fun h => settles ?_, fun h => settles ?_, fun h => settles ?_⟩,
    fun m d step n k s walk => ⟨fun h none => settles ?_, fun h none => settles ?_, fun h none => settles ?_,
      fun h none => settles ?_⟩,
    fun m d step n k s walk => ⟨fun h => settles ?_, fun h => settles ?_, fun h => settles ?_, fun h => settles ?_⟩,
    fun m n k s h home full => settles ((h.reqSt .rds).trans (takeRequest_backed home full)), fun t tag dpa st s => rfl⟩
  · exact (h.reqSt .rds).trans (takeRequest_homeless away rfl)
  · exact (h.reqSt .rdu).trans (takeRequest_homeless away rfl)
  · exact (h.reqSt .upg).trans (takeRequest_homeless away rfl)
  · exact (h.dataReqSt .atom step d).trans (takeRequest_homeless away rfl)
  · exact (h.toPasses.reqSt .rds).trans (h.rightless rfl walk none nofun nofun)
  · exact (h.toPasses.reqSt .rdu).trans (h.rightless rfl walk none nofun nofun)
  · exact (h.toPasses.reqSt .upg).trans (h.rightless rfl walk none nofun nofun)
  · exact (h.toPasses.dataReqSt .atom step d).trans (h.rightless rfl walk none nofun nofun)
  · exact (h.toPasses.reqSt .rds).trans (h.walked rfl walk nofun nofun)
  · exact (h.toPasses.reqSt .rdu).trans (h.walked rfl walk nofun nofun)
  · exact (h.toPasses.reqSt .upg).trans (h.walked rfl walk nofun nofun)
  · exact (h.toPasses.dataReqSt .atom step d).trans (h.walked rfl walk nofun nofun)

end Sys2Proof.Machine
end

section
/-!
SUPPORT. What memory and its metadata do changes memory, the collector and its reactions, and nothing else (R268, R284, R297, R302,
R305, R427).
-/
namespace Sys2Proof.Machine
open Sys2Proof

/-- `t` differs from `s` at most in memory, the collector, what its reactions change, and the free values drawn. -/
def MemoryMoves (s t : State) : Prop :=
  { t with bnd := s.bnd, cu := s.cu, mi := s.mi, fc := s.fc, rc := s.rc, tc := s.tc, out := s.out, freeCount := s.freeCount } = s

namespace MemoryMoves
variable {s t u : State}

theorem refl (s : State) : MemoryMoves s s := rfl

theorem trans (st : MemoryMoves s t) (tu : MemoryMoves t u) : MemoryMoves s u := by
  unfold MemoryMoves at st tu
  rw [← tu] at st
  exact st

theorem coh (h : MemoryMoves s t) : t.coh = s.coh := (congrArg State.coh h :)
theorem steps (h : MemoryMoves s t) : t.steps = s.steps := (congrArg State.steps h :)
theorem qu (h : MemoryMoves s t) : t.qu = s.qu := (congrArg State.qu h :)
theorem ps (h : MemoryMoves s t) : t.ps = s.ps := (congrArg State.ps h :)
theorem tb (h : MemoryMoves s t) : t.tb = s.tb := (congrArg State.tb h :)
theorem lre (h : MemoryMoves s t) : t.lre = s.lre := (congrArg State.lre h :)

theorem of_foldl {α : Type} {f : State → α → State} (each : ∀ s a, MemoryMoves s (f s a)) (l : List α) (s : State) :
    MemoryMoves s (l.foldl f s) := by
  induction l generalizing s with
  | nil => exact refl s
  | cons a l ih => exact (each s a).trans (ih _)

end MemoryMoves

variable {s : State}

theorem report_moves (m : FMsg) (s : State) : MemoryMoves s (report m s) :=
  (congrArg (fun x : State => { x with mi := s.mi }) (report_rest m s) :)

theorem modPc_moves (p : Nat) (f : PcState → PcState) (s : State) : MemoryMoves s (modPc p f s) := rfl

theorem exhaustPc_moves (p : Nat) (rekey : Bool) (s : State) : MemoryMoves s (exhaustPc p rekey s) := by
  refine MemoryMoves.trans ?_ (report_moves _ _)
  refine MemoryMoves.trans ?_ (report_moves _ _)
  rfl

theorem startRekey_moves (p : Nat) (first lost : List Nat) (s : State) : MemoryMoves s (startRekey p first lost s) := by
  unfold startRekey
  dsimp only
  split
  · exact .refl s
  · split
    · split
      · exact .refl s
      · split <;> exact modPc_moves _ _ s
    · split
      · exact exhaustPc_moves _ _ s
      · exact modPc_moves _ _ s

theorem ownRead_moves (p : Nat) (s : State) (block : Nat) : MemoryMoves s (ownRead p s block) := by
  unfold ownRead
  split <;> rfl

theorem fetchMeta_moves (p block : Nat) (s : State) : MemoryMoves s (fetchMeta p block s) := by
  unfold fetchMeta
  split
  · exact .refl s
  · exact ownRead_moves _ s _

theorem setBlock_moves (p g : Nat) (b : CounterBlock) (s : State) : MemoryMoves s (setBlock p g b s) := by
  have rest := congrArg (fun x : State => { x with bnd := s.bnd, cu := s.cu, fc := s.fc, rc := s.rc, tc := s.tc, out := s.out,
                                                   freeCount := s.freeCount }) (setBlock_rest p g b s)
  exact rest

theorem counted_moves (n : Nat) (s : State) : MemoryMoves s { s with mi := { s.mi with minorOverflows := n } } := rfl

theorem poisoned_moves (poison : Bool) (s : State) :
    MemoryMoves s (if poison then { s with mi := { s.mi with poisonWrites := satAdd 64 s.mi.poisonWrites 1 } } else s) := by
  split <;> rfl

theorem countOverflow_moves (p g : Nat) (s : State) : MemoryMoves s (countOverflow p g s) :=
  (counted_moves _ s).trans (.of_foldl (ownRead_moves p) _ _)

theorem putLine_moves (k : Nat) (d : Line) (s : State) : MemoryMoves s (putLine k d s) := by
  unfold putLine
  split <;> rfl

theorem storeMem_moves (k : Nat) (d : Line) (poison : Bool) (s : State) : MemoryMoves s (storeMem k d poison s) := by
  unfold storeMem
  exact (setBlock_moves ..).trans ((poisoned_moves poison _).trans (putLine_moves ..))

theorem park_moves (k : Nat) (d : Line) (poison : Bool) (s : State) : MemoryMoves s (park k d poison s) := modPc_moves ..

/-- A write-back changes memory alone. -/
theorem writeMem_moves (k : Nat) (d : Line) (poison : Bool) (s : State) : MemoryMoves s (writeMem k d poison s) := by
  have fetched := fetchMeta_moves (linePc k) (lineNo k / 4) s
  have counted := fetched.trans (countOverflow_moves (linePc k) (groupOf (lineNo k)) _)
  have rekeyed := counted.trans (startRekey_moves (linePc k) [groupOf (lineNo k)] [] _)
  unfold writeMem
  dsimp only
  split
  · exact .refl s
  · split
    · exact park_moves ..
    · split
      · exact fetched.trans (storeMem_moves ..)
      · split
        · exact counted.trans (storeMem_moves ..)
        · split
          · exact rekeyed
          · exact rekeyed.trans (park_moves ..)

@[simp] theorem writeMem_coh (k : Nat) (d : Line) (poison : Bool) (s : State) : (writeMem k d poison s).coh = s.coh :=
  (writeMem_moves k d poison s).coh

end Sys2Proof.Machine
end

section
/-!
SUPPORT. No coherence transaction changes which tiles are dead; and what the end of a stash offer, a completion, an acknowledgement
and the snoop timeout do (R266, R267, R269, R270, R365, R468).
-/
namespace Sys2Proof.Machine
open Sys2Proof

section
variable {s : State} {n k : Nat} {i : HomeItem}

/-! ### The dead tiles through a transaction (R267) -/

theorem foldl_dead {α : Type} {f : State → α → State} (each : ∀ s a, (f s a).coh.dead = s.coh.dead) (l : List α) (s : State) :
    (l.foldl f s).coh.dead = s.coh.dead := by
  induction l generalizing s with
  | nil => rfl
  | cons a l ih => exact (ih _).trans (each s a)

@[simp] theorem setLlc_dead (k : Nat) (l : LlcLine) (s : State) : (setLlc k l s).coh.dead = s.coh.dead := rfl
@[simp] theorem putLlc_dead (k : Nat) (l : LlcLine) (s : State) : (putLlc k l s).coh.dead = s.coh.dead := rfl
@[simp] theorem fetchLine_dead (k : Nat) (i : HomeItem) (s : State) : (fetchLine k i s).coh.dead = s.coh.dead := rfl

theorem sendSnoop_dead (k : Nat) (s : State) (t : Nat) : (sendSnoop k s t).coh.dead = s.coh.dead := by
  unfold sendSnoop
  dsimp only
  split
  · rfl
  · rw [toTile_coh]
    split <;> rfl

theorem trySnoop_dead (k : Nat) (s : State) (t : Nat) : (trySnoop k s t).coh.dead = s.coh.dead := by
  unfold trySnoop
  split
  · exact sendSnoop_dead k s t
  · rfl

@[simp] theorem nextSnoop_dead (sl t : Nat) (s : State) : (nextSnoop sl t s).coh.dead = s.coh.dead := by
  unfold nextSnoop
  split
  · rfl
  · exact trySnoop_dead _ s t

@[simp] theorem snoopAll_dead (k : Nat) (kind : TransKind) (i : HomeItem) (ts : List Nat) (s : State) :
    (snoopAll k kind i ts s).coh.dead = s.coh.dead :=
  foldl_dead (trySnoop_dead k) ts _

@[simp] theorem stepGot_dead (k id : Nat) (s : State) : (stepGot k id s).coh.dead = s.coh.dead := by
  unfold stepGot retainLine
  dsimp only
  split
  · split <;> rfl
  · rfl

@[simp] theorem answerRead_dead (k : Nat) (i : HomeItem) (s : State) : (answerRead k i s).coh.dead = s.coh.dead := by
  unfold answerRead
  dsimp only
  split
  · rfl
  · exact stepGot_dead k _ s
  · rfl

@[simp] theorem applyWrite_dead (k : Nat) (i : HomeItem) (s : State) : (applyWrite k i s).coh.dead = s.coh.dead := by
  unfold applyWrite offerStash
  dsimp only
  split
  · rfl
  · split
    · rfl
    · split
      · rfl
      · exact snoopAll_dead ..

@[simp] theorem dropLine_dead (k : Nat) (s : State) : (dropLine k s).coh.dead = s.coh.dead := by
  unfold dropLine
  dsimp only
  split <;> simp

@[simp] theorem endRecover_dead (k : Nat) (s : State) : (endRecover k s).coh.dead = s.coh.dead := by
  simp [endRecover]

theorem atomAnswered_dead (k : Nat) (i : HomeItem) (home : Bool) (r : AtomResult) (poison : Bool) (s : State) :
    (atomAnswered k i home r poison s).coh.dead = s.coh.dead := by
  have counted : (atomCounted i home s).coh.dead = s.coh.dead := by
    unfold atomCounted
    split
    · rfl
    · split <;> rfl
  have answer : ∀ st old p s, (atomAnswer i st old p s).coh.dead = s.coh.dead := fun st old p s => by
    unfold atomAnswer
    dsimp only
    split <;> rfl
  unfold atomAnswered
  cases i.step <;> dsimp only <;> split
  · exact counted
  · exact (answer ..).trans counted
  · exact counted
  · exact (answer ..).trans counted

theorem atomEnd_dead (k : Nat) (i : HomeItem) (op : AtomOp) (home : Bool) (r : AtomResult) (poison : Bool) (s : State) :
    (atomEnd k i op home r poison s).coh.dead = s.coh.dead := by
  unfold atomEnd
  split
  · split <;> rfl
  · split
    · rfl
    · split
      · rfl
      · split
        · rw [writeMem_coh]
        · rfl

@[simp] theorem performAtom_dead (k : Nat) (i : HomeItem) (home : Bool) (d : Line) (poison : Bool) (s : State) :
    (performAtom k i home d poison s).coh.dead = s.coh.dead := by
  cases hop : i.op with
  | none => rw [performAtom, hop]
  | some op => rw [performAtom_eq hop, atomEnd_dead, atomAnswered_dead]

@[simp] theorem finishItem_dead (k : Nat) (i : HomeItem) (kind : TransKind) (kept : Option Nat) (s : State) :
    (finishItem k i kind kept s).coh.dead = s.coh.dead := by
  unfold finishItem
  dsimp only
  split
  · split <;> simp [toTile_coh]
  · simp [toTile_coh]
  · simp [toTile_coh]
  · split <;> simp
  · split <;> simp
  · simp
  · simp
  · simp
  · rfl
  · rfl
  · rfl

@[simp] theorem invalidate_dead (k : Nat) (i : HomeItem) (ts : List Nat) (s : State) :
    (invalidate k i ts s).coh.dead = s.coh.dead := by
  unfold invalidate
  dsimp only
  split <;> split <;> simp

@[simp] theorem downgrade_dead (k : Nat) (i : HomeItem) (s : State) : (downgrade k i s).coh.dead = s.coh.dead := by
  unfold downgrade
  dsimp only
  split <;> simp

@[simp] theorem strange_dead (code : Nat) (i : HomeItem) (s : State) : (strange code i s).coh.dead = s.coh.dead :=
  (congrArg Coherence.dead (impossible_coh _ _ s) :)

@[simp] theorem wbAck_dead (i : HomeItem) (s : State) : (wbAck i s).coh.dead = s.coh.dead := rfl

@[simp] theorem begin_dead (k : Nat) (i : HomeItem) (s : State) : (begin_ k i s).coh.dead = s.coh.dead := by
  unfold begin_
  dsimp only
  split <;> try split
  all_goals simp [toTile_coh]

@[simp] theorem serveItem_dead (k : Nat) (i : HomeItem) (s : State) : (serveItem k i s).coh.dead = s.coh.dead := by
  unfold serveItem tidyLine
  dsimp only
  split
  · rfl
  · split <;> simp

theorem drain_dead (k fuel : Nat) (s : State) : (drain k fuel s).coh.dead = s.coh.dead := by
  induction fuel generalizing s with
  | zero => rfl
  | succ fuel ih =>
    unfold drain
    dsimp only
    split
    · rw [ih, serveItem_dead, putLlc_dead]
    · rfl

@[simp] theorem drainAll_dead (k : Nat) (s : State) : (drainAll k s).coh.dead = s.coh.dead := drain_dead k _ s

@[simp] theorem stashEnd_dead (t k : Nat) (accept : Bool) (s : State) : (stashEnd t k accept s).coh.dead = s.coh.dead := by
  unfold stashEnd
  dsimp only
  split <;> simp

theorem answered_dead (t k : Nat) (data : Option (Line × Bool)) (kept : Bool) (s : State) :
    (answered t k data kept s).coh.dead = s.coh.dead := by
  unfold answered
  dsimp only
  split
  · rfl
  · split <;> simp

/-- What stands in for a dead tile's answer leaves the other tiles alive. -/
theorem deadAnswer_dead (t k : Nat) (s : State) : (deadAnswer t k s).coh.dead = s.coh.dead := by
  unfold deadAnswer
  dsimp only
  split
  · exact stashEnd_dead ..
  · split
    · exact answered_dead ..
    · exact answered_dead ..

/-! ### Stash offers (R266) -/

theorem stashSt_offered {m : TileMsg} {x : Trans} (home : homeOf s m = some (n, k)) (trans : (llc s k).trans = some x)
    (kind : x.kind = .st) (await : m.tile ∈ x.await) (tag : x.tag = m.tag) : stashSt m s = stashEnd m.tile k m.accept s := by
  simp [stashSt, home, trans, kind, await, tag]

/-! ### Completions and acknowledgements (R269, R270, R365, R468) -/

variable {u id gen : Nat} {t : Step}

theorem completionSt_running (found : findStep s id = some t) (unit : t.units.contains (tileUnit u) = true)
    (fresh_ : t.unitsDone.contains (tileUnit u) = false) (running : t.phase = .running) (st : Status) :
    completionSt u gen id st s = fillBe t.part (modStep id (fun t => { t with
      phase := .finished, unitsDone := t.units, fail := if t.fail.isSome then t.fail else if st = .ok then none else some st }) s) := by
  simp only [completionSt, found, unit, fresh_, running]
  simp

theorem completionSt_killed (found : findStep s id = some t) (unit : t.units.contains (tileUnit u) = true)
    (fresh_ : t.unitsDone.contains (tileUnit u) = false) (killed : t.phase = .killed)
    (unacked : t.unacked.contains (tileUnit u) = true) (st : Status) :
    completionSt u gen id st s = modStep id (fun t => { t with unitsDone := tileUnit u :: t.unitsDone }) s := by
  simp only [completionSt, found, unit, fresh_, killed, unacked]
  simp

theorem killAckSt_awaited {unit : Nat} (found : findStep s id = some t) (killed : t.phase = .killed)
    (unacked : t.unacked.contains unit = true) : killAckSt unit id s = fillBe t.part (ackKill unit id s) := by
  simp only [killAckSt, found, killed, unacked]
  simp

theorem tileAckSt_awaited (found : findStep s id = some t) (killed : t.phase = .killed)
    (unacked : t.unacked.contains (tileUnit u) = true) : tileAckSt u gen id s = fillBe t.part (ackKill (tileUnit u) id s) := by
  have held : ((findStep s id).any fun t => t.phase == .killed && t.unacked.contains (tileUnit u)) = true := by
    simp only [found, Option.any_some, killed, unacked, BEq.rfl, Bool.and_self]
  rw [tileAckSt, if_pos held, killAckSt_awaited found killed unacked]

theorem tileAckSt_owed (none : findStep s id = none) (owed : (u, id) ∈ s.coh.owed) : tileAckSt u gen id s =
    { s with coh := { s.coh with owed := s.coh.owed.filter fun o => o ≠ (u, id) } } := by
  simp [tileAckSt, none, owed]

theorem unitEngine_engineUnit {e : Nat} (h : e < 320) : unitEngine (engineUnit e) = some e := by
  unfold unitEngine engineUnit
  split
  · rw [if_pos (by omega)]
    exact congrArg some (by omega)
  · rw [if_neg (by omega), if_pos (by omega)]
    exact congrArg some (by omega)

theorem unitTile_engineUnit {e : Nat} (h : e < 320) : unitTile (engineUnit e) = none := by
  unfold unitTile engineUnit
  split <;> exact if_neg (by omega)

/-- An engine's acknowledgement comes through the engine's port. -/
theorem ackSt_engineUnit {e : Nat} (h : e < 320) (gen id : Nat) (s : State) :
    ackSt (engineUnit e) gen id s = fromEngine e gen (killAckSt (engineUnit e) id) s := by
  simp only [ackSt, unitTile_engineUnit h, unitEngine_engineUnit h]

theorem fromEngine_same {e : Nat} (up : live s = true) (same : (engine s e).gen = gen) (g : State → State) :
    fromEngine e gen g s = g s := by
  simp [fromEngine, up, same]

theorem fromEngine_other {e : Nat} (up : live s = true) (other : (engine s e).gen ≠ gen) (g : State → State) :
    fromEngine e gen g s = { s with rc := { s.rc with staleDrops := satAdd 64 s.rc.staleDrops 1 } } := by
  simp [fromEngine, up, other]

/-! ### The snoop timeout (R267) -/

/-- A tile that lets the snoop timeout expire is dead, and reported so. -/
theorem snoopTimeoutSt_expires {t : Nat} (up : live s = true) (awaits : awaitLines s t ≠ []) (verdict : awaitsVerdict s t = false)
    (alive : s.coh.dead.getLsbD t = false) : (snoopTimeoutSt t s).coh.dead = setBit s.coh.dead t true ∧
      ∃ r ∈ (snoopTimeoutSt t s).fc.bbr, r.source = tileUnit t ∧ r.kind = 0x22 ∧ r.cls = .u := by
  have expires : snoopTimeoutSt t s = report
      { source := tileUnit t, kind := 0x22, address := (llc s ((awaitLines s t).headD 0)).dpa
        part := tileOwner ((awaitLines s t ++ unsentLines s t).foldl (fun s k => deadAnswer t k s)
          { s with coh := { s.coh with dead := setBit s.coh.dead t true } }).ps.active t }
      ((awaitLines s t ++ unsentLines s t).foldl (fun s k => deadAnswer t k s)
        { s with coh := { s.coh with dead := setBit s.coh.dead t true } }) := by
    simp [snoopTimeoutSt, up, awaits, verdict, alive]
  rw [expires]
  refine ⟨?_, ?_⟩
  · rw [report_coh, foldl_dead fun s k => deadAnswer_dead t k s]
  · obtain ⟨r, mem, names⟩ := exists_names_report _ _
    exact ⟨r, mem, names.source, names.kind, names.cls⟩

theorem snoopTimeoutSt_none {t : Nat} (none : awaitLines s t = [] ∨ awaitsVerdict s t = true) : snoopTimeoutSt t s = s := by
  obtain h | h := none <;> simp [snoopTimeoutSt, h]

end

/-- Settles O31: a stash answer by its line's offer, a completion and an acknowledgement by the step they name, the timeout by the
answers that it stands in for. -/
theorem tilesAnswer : Obligations.TilesAnswer := by
  refine ⟨fun f a m n k x s hm pass home trans kind await tag => ?_,
    fun u gen id t st s port found unit fresh_ => ⟨fun running => settles ?_, fun killed unacked => settles ?_⟩,
    fun u gen id t s port found killed tile unacked => settles ?_, fun u gen id s port none tile owed => settles ?_,
    fun e gen id t s up bound same found killed unacked => settles ?_, fun e gen id s up bound other => settles ?_,
    fun t s up bound awaits verdict alive => ⟨snoopTimeoutSt t s, rfl, snoopTimeoutSt_expires up awaits verdict alive⟩,
    fun t s none => settles (snoopTimeoutSt_none none)⟩
  · subst hm
    have ends := (pass.message (stashSt _)).trans (stashSt_offered home trans kind await tag)
    exact ⟨fun accept => settles (ends.trans (by rw [accept]; rfl)), fun accept => settles (ends.trans (by rw [accept]; rfl))⟩
  · exact (port.atPort _).trans (completionSt_running found unit fresh_ running st)
  · exact (port.atPort _).trans (completionSt_killed found unit fresh_ killed unacked st)
  · exact (ackSt_tileUnit tile gen id s).trans ((port.atPort _).trans (tileAckSt_awaited found killed unacked))
  · exact (ackSt_tileUnit tile gen id s).trans ((port.atPort _).trans (tileAckSt_owed none owed))
  · exact (ackSt_engineUnit bound gen id s).trans ((fromEngine_same up same _).trans (killAckSt_awaited found killed unacked))
  · exact (ackSt_engineUnit bound gen id s).trans (fromEngine_other up other _)

end Sys2Proof.Machine
end

section
/-!
SUPPORT. Host accesses to partition memory: where they are refused, the line they come to, and what it does there (R33, R215, R247,
R261, R263, R295, R348).
-/
namespace Sys2Proof.Machine
open Sys2Proof

section
variable {s : State} {n k d : Nat} {a : HostAccess} {i : HomeItem}

theorem powered_of_served (served : hostServed s a = true) : s.bnd.powered = true := by
  simp only [hostServed, live, Bool.and_eq_true] at served
  exact served.1.1.1.1

/-! ### Pieces of an access -/

/-- Bytes that stay within one line are one piece. -/
theorem splitLines_within {dva : Nat} {bs : List Byte} (some_ : bs ≠ []) (fits : dva % 64 + bs.length ≤ 64) (fuel : Nat) :
    splitLines dva bs (fuel + 2) = [(dva, bs)] := by
  have whole : bs.take (64 - dva % 64) = bs := List.take_of_length_le (by omega)
  have rest : bs.drop (64 - dva % 64) = [] := List.drop_of_length_le (by omega)
  simp [splitLines, some_, whole, rest]

theorem lineParts_within {dva len : Nat} (some_ : 0 < len) (fits : dva % 64 + len ≤ 64) : lineParts dva len = [(dva, len)] := by
  have bytes : List.replicate len (0 : Byte) ≠ [] := List.ne_nil_of_length_pos (by simpa using some_)
  rw [lineParts, splitLines_within bytes (by simpa using fits)]
  simp

/-! ### To the line (R242, R295) -/

/-- The item of a host access at the place of `d`. -/
def hostItemAt (a : HostAccess) (d : Nat) (i : HomeItem) : HomeItem := { i with off := d % 64, host := some a.part }

theorem walkBlocked_off (line : Stable s n k) (walk : s.coh.walk.getLsbD n = false) (i : HomeItem) : walkBlocked s k i = false := by
  simp [walkBlocked, line.owner, line.hand, walk]

/-- An access that its key lets through is served at its stable line. -/
theorem hostLine_served (home : homeLine s a.part d = some k) (line : Stable s a.part k) (entry : a.entryLost = false)
    (copy : a.copyLost = false) (key : keyCheck s (linePc k) (lineNo k) (dpaKey (d / 64 * 64)) = .match_)
    (walk : s.coh.walk.getLsbD a.part = false) (late : i.late = false)
    (free : atomBlocked s k (keyed (d / 64 * 64) (hostItemAt a d i)) = false) :
    hostLine a d i s = (true, serveItem k (keyed (d / 64 * 64) (hostItemAt a d i)) s) := by
  have open_ : blocked s k (keyed (d / 64 * 64) (hostItemAt a d i)) = false := by
    simp [blocked, free, walkBlocked_off line walk, line.commit]
  have opened := openLine_match line (a := { entryLost := a.entryLost, copyLost := a.copyLost }) entry copy key a.way a.victim
    (hostItemAt a d i)
  rw [arrive_stable (i := keyed (d / 64 * 64) (hostItemAt a d i)) line.trans line.commit late open_] at opened
  simp only [hostLine, home]
  exact opened

theorem hostLine_refused (home : homeLine s a.part d = some k)
    (key : keyCheck s (linePc k) (lineNo k) (dpaKey (d / 64 * 64)) = .refuse) (i : HomeItem) :
    hostLine a d i s = (false, { s with mi := { s.mi with keyMismatch := satAdd 64 s.mi.keyMismatch 1 } }) := by
  simp only [hostLine, home]
  exact openLine_refuse key _ _ _ _

theorem hostParity_whole (home : homeLine s a.part d = some k) (quiet : s.fc.inj.remaining = 0) :
    hostParity a d 0 s = (false, s) := by
  simp only [hostParity, home]
  exact transfer_whole quiet _ _

/-! ### At the line (R247, R261, R263) -/

/-- A read answers with the bytes of a line that no tile owns. -/
theorem begin_hostRead (kind : i.kind = .ncRead) (state : (llc s k).hstate = .l ∨ (llc s k).hstate = .s) {p : Nat}
    (host : i.host = some p) : tidyLine k (begin_ k i s) =
      emit (.hostData p .ok (((lineBytes (llc s k).data).drop i.off).take i.len) (llc s k).poison) s := by
  have served : begin_ k i s = emit (.hostData p .ok (((lineBytes (llc s k).data).drop i.off).take i.len) (llc s k).poison) s := by
    obtain h | h := state <;> simp [begin_, kind, h, answerRead, host]
  rw [served]
  refine tidyLine_occupied (.inl ?_)
  obtain h | h := state
  · exact fun e : (llc s k).hstate = .i => nomatch h.symm.trans e
  · exact fun e : (llc s k).hstate = .i => nomatch h.symm.trans e

/-- A write without a stash hint makes the copy dirty. -/
theorem begin_hostWrite (kind : i.kind = .ncWrite) (state : (llc s k).hstate = .l) (none : (llc s k).presence = 0)
    (trans : (llc s k).trans = Option.none) (hint : i.stash = Option.none) (whole : i.poison = false) :
    tidyLine k (begin_ k i s) = setLlc k { llc s k with
      dirty := true, data := lineMerge (llc s k).data i.off i.data, poison := (llc s k).poison && i.data.length != 64 } s := by
  have served : begin_ k i s = setLlc k { llc s k with
      dirty := true, data := lineMerge (llc s k).data i.off i.data, poison := (llc s k).poison && i.data.length != 64 } s := by
    simp [begin_, kind, state, applyWrite, offerStash, hint, mergeWrite, whole, none, trans]
  rw [served]
  exact tidyLine_occupied (.inl (by rw [llc_setLlc_self (.inl (by simp [state]))]; simp [state]))

/-- A host's atomic runs at once on a line that only the LLC holds. -/
theorem performAtom_host {op : AtomOp} (hop : i.op = some op) (step : i.step = none) (tile : i.isStep = false) {p : Nat}
    (host : i.host = some p) (ok : (atomUnit op i.off (llc s k).data).status = .ok) (ret : op.ret = true) :
    performAtom k i true (llc s k).data (llc s k).poison s =
      setLlc k { llc s k with
        data := (atomUnit op i.off (llc s k).data).line
        dirty := (llc s k).dirty || atomWrites op (atomUnit op i.off (llc s k).data).old }
      { s with
        coh := { s.coh with atomsHome := satAdd 64 s.coh.atomsHome 1 }
        out := .atomicResult .ok (BitVec.ofNat 64 (atomUnit op i.off (llc s k).data).old) (llc s k).poison false :: s.out } := by
  have given : atomGiven k i op (llc s k).data (atomCounted i true s) = atomUnit op i.off (llc s k).data := by
    simp [atomGiven, earlierAtoms, step]
  have answered : ∀ r, r.status = .ok → atomAnswered k i true r (llc s k).poison s =
      { s with
        coh := { s.coh with atomsHome := satAdd 64 s.coh.atomsHome 1 }
        out := .atomicResult .ok (BitVec.ofNat 64 r.old) (llc s k).poison false :: s.out } := fun r h => by
    simp [atomAnswered, atomCounted, step, tile, atomAnswer, hop, host, ret, emit, h]
  rw [performAtom_eq hop, given, answered _ ok]
  simp only [atomEnd, ok, step, ne_eq, not_true_eq_false, if_false, if_true]
  rfl

/-! ### The accesses -/

variable {g : Rng} {xs : List Xlat} {s0 : State}

theorem refused_accesses (power : s.bnd.powered = true) (served : hostServed s a = false) (bs : List Byte) (st : Option Nat)
    (kind : Nat) (w q : Bool) (x y : Word) :
    hostReadSt a s = emit (.hostData a.part .rights (List.replicate a.len 0xFF) false) s ∧ hostWriteSt a bs st s = s ∧
      pcieAtomSt a kind w q x y s = refuseAtomic .rights true s := by
  refine ⟨?_, ?_, ?_⟩
  · simp [hostReadSt, power, served]
  · simp [hostWriteSt, served]
  · simp [pcieAtomSt, power, served]

theorem pcieAtomSt_quad (power : s.bnd.powered = true) (kind : Nat) (w : Bool) (x y : Word) :
    pcieAtomSt a kind w true x y s = refuseAtomic .rights true s := by
  simp [pcieAtomSt, power]

/-- A read within one line that translates reads that line. -/
theorem hostReadSt_within (served : hostServed s0 a = true) (device : isHost a.dva = false)
    (hg : g = { dva := a.dva, size := a.len, r := true }) (hs : s = countWalks a.part a.host [g] s0)
    (found : hostXlat s a g = .ok xs) (some_ : 0 < a.len) (fits : a.dva % 64 + a.len ≤ 64) :
    hostReadSt a s0 = hostReadLine a xs s (a.dva, a.len) := by
  subst hg hs
  simp [hostReadSt, powered_of_served served, served, device, found, lineParts_within some_ fits]

/-- So does a write. -/
theorem hostWriteSt_within {bs : List Byte} (served : hostServed s0 a = true) (device : isHost a.dva = false)
    (hg : g = { dva := a.dva, size := bs.length, w := true }) (hs : s = countWalks a.part a.host [g] s0)
    (found : hostXlat s a g = .ok xs) (some_ : bs ≠ []) (fits : a.dva % 64 + bs.length ≤ 64) :
    hostWriteSt a bs none s0 = hostWriteLine a xs none s (a.dva, bs) := by
  subst hg hs
  simp [hostWriteSt, served, device, found, splitLines_within some_ fits]

/-- The atomic of an AtomicOp request (R261, R348). -/
def pcieAtom (kind : Nat) (w : Bool) (x y : Word) : AtomOp :=
  { code := pcieOp kind, wide := w, operand := x, compare := y, ret := true }

/-- An AtomicOp that translates comes to its line. -/
theorem pcieAtomSt_opens {kind : Nat} {w : Bool} {x y : Word} (served : hostServed s0 a = true) (device : isHost a.dva = false)
    (hg : g = { dva := a.dva, size := if w then 8 else 4, a := true }) (hs : s = countWalks a.part a.host [g] s0)
    (found : hostXlat s a g = .ok xs) (at_ : xlatDpa xs a.dva = some d) (home : homeLine s a.part d = some k)
    (quiet : s.fc.inj.remaining = 0) (whole : a.parity = 0) {u : State}
    (opens : hostLine a d { kind := .atom, op := some (pcieAtom kind w x y) } s = (true, u)) :
    pcieAtomSt a kind w false x y s0 = u := by
  subst hg hs
  unfold pcieAtom at opens
  simp [pcieAtomSt, powered_of_served served, served, device, found, at_, whole, hostParity_whole home quiet, opens]

end

/-- Settles O32: an access that is not served, one whose line is stable and its key right, and one under another key. -/
theorem hostAccessesPartitionMemory : Obligations.HostAccessesPartitionMemory := by
  refine ⟨fun a kind w q x y bs st s power served => ?_, fun a kind w x y s power => settles (pcieAtomSt_quad power kind w x y),
    fun a g xs d k s0 s served device hg hs found some_ fits at_ home place =>
      ⟨fun key line verified walk entry copy state => settles ?_, fun key => settles ?_⟩,
    fun a g xs d k b bs s0 s served device hg hs found fits at_ home place key line state none walk entry copy whole => settles ?_,
    fun a g xs d k kind w x y r s0 s served device hg hs found at_ home key line verified state first walk entry copy whole hr ok =>
      settles ?_⟩
  · obtain ⟨read, write, atom⟩ := refused_accesses power served bs st kind w q x y
    exact ⟨settles read, settles write, settles atom⟩
  · have opened := hostLine_served (i := { kind := .ncRead, len := a.len }) home line entry copy key walk rfl rfl
    rw [hostReadSt_within served device hg hs found some_ fits]
    simp only [hostReadLine, at_, opened]
    rw [serveItem_verified verified, begin_hostRead rfl state rfl]
    simp only [keyed, hostItemAt, place]
    rfl
  · rw [hostReadSt_within served device hg hs found some_ fits]
    simp only [hostReadLine, at_, hostLine_refused home key]
    rfl
  · have opened := hostLine_served (i := { kind := .ncWrite, data := b :: bs, poison := false, stash := Option.none })
      home line entry copy key walk rfl rfl
    rw [hostWriteSt_within served device hg hs found (List.cons_ne_nil b bs) fits]
    simp only [hostWriteLine, at_, if_true, whole, hostParity_whole home line.inject, opened]
    rw [serveItem_plain (by simp [mustVerify, keyed, hostItemAt]), begin_hostWrite rfl state none line.trans rfl rfl]
    simp only [keyed, hostItemAt, place]
  · subst hr
    have free : atomBlocked s k (keyed (d / 64 * 64) (hostItemAt a d { kind := .atom, op := some (pcieAtom kind w x y) })) = false := by
      have none_ : (s.steps.any fun u => some u.id != Option.none && u.phase != .killed && (stepAtoms u k).any fun b => b.2.ret) =
          false := List.any_eq_false.mpr fun u mem => by simp [first u mem]
      simp only [atomBlocked, keyed, hostItemAt, none_, Bool.and_false]
    have opened := hostLine_served home line entry copy key walk rfl free
    rw [pcieAtomSt_opens served device hg hs found at_ home line.inject whole opened, serveItem_verified verified,
      begin_atom_near rfl state, performAtom_host rfl rfl rfl rfl ok rfl]
    refine tidyLine_setLlc ?_ rfl
    exact .inl line.resident

end Sys2Proof.Machine
end

section
/-!
SUPPORT. The byte list of external memory, the tree path above a counter block, and the counter blocks and protection states after
each of memory's operations (R284, R287, R291, R294, R297, R301, R302, R304).
-/
namespace Sys2Proof.Machine
open Sys2Proof

/-! ### Bytes -/

section
variable {m : List Host.Cell} {k j : Nat} {v : Byte}

/-- A byte below every listed one reads zero. -/
theorem memGet_of_above {a : Nat} (h : memAbove (some a) m = true) (low : k ≤ a) : memGet m k = 0 := by
  induction m generalizing a with
  | nil => rfl
  | cons c r ih =>
    obtain ⟨i, b⟩ := c
    simp only [memAbove, Option.all_some, Bool.and_eq_true, decide_eq_true_eq] at h
    obtain ⟨⟨above, -⟩, rest⟩ := h
    rw [memGet, if_neg (by omega)]
    exact ih rest (by omega)

theorem memGet_memPut_self {a : Option Nat} (h : memAbove a m = true) : memGet (memPut m k v) k = v := by
  induction m generalizing a with
  | nil =>
    unfold memPut
    split
    · next zero => exact zero.symm
    · simp [memGet]
  | cons c r ih =>
    obtain ⟨i, b⟩ := c
    simp only [memAbove, Bool.and_eq_true] at h
    obtain ⟨-, rest⟩ := h
    unfold memPut
    split
    · rw [memGet, if_neg (by omega)]
      exact ih rest
    · next high =>
      split
      · next same =>
        split
        · next zero => rw [memGet_of_above rest (by omega), zero]
        · simp [memGet]
      · split
        · next zero => rw [memGet, if_neg (by omega), memGet_of_above rest (by omega), zero]
        · simp [memGet]

theorem memGet_memPut_ne (other : j ≠ k) : memGet (memPut m k v) j = memGet m j := by
  induction m with
  | nil =>
    unfold memPut
    split
    · rfl
    · simp [memGet, other.symm]
  | cons c r ih =>
    obtain ⟨i, b⟩ := c
    unfold memPut
    split
    · rw [memGet, memGet, ih]
    · split
      · next same =>
        subst same
        split
        · rw [memGet, if_neg other.symm]
        · rw [memGet, memGet, if_neg other.symm, if_neg other.symm]
      · split
        · rfl
        · rw [memGet, if_neg other.symm]

variable {bs : List Byte}

/-- Bytes outside a write are as they were. -/
theorem memGet_memPutAll_out (out : j < k ∨ k + bs.length ≤ j) : memGet (memPutAll m k bs) j = memGet m j := by
  induction bs generalizing m k with
  | nil => rfl
  | cons b bs ih =>
    simp only [List.length_cons] at out
    rw [memPutAll, ih (by omega), memGet_memPut_ne (by omega)]

/-- Those of the write read back. -/
theorem memGet_memPutAll_in (wf : Memory.wf m = true) {i : Nat} (h : i < bs.length) : memGet (memPutAll m k bs) (k + i) = bs[i] := by
  induction bs generalizing m k i with
  | nil => simp at h
  | cons b bs ih =>
    rw [memPutAll]
    cases i with
    | zero =>
      rw [memGet_memPutAll_out (.inl (by omega))]
      exact memGet_memPut_self wf
    | succ i =>
      have next_ := ih (memPut_wf (k := k) (v := b) wf) (k := k + 1) (by simpa using h)
      rw [show k + 1 + i = k + (i + 1) by omega] at next_
      simpa using next_

theorem length_memBytes (m : List Host.Cell) (k n : Nat) : (memBytes m k n).length = n := by
  induction n generalizing k with
  | zero => rfl
  | succ n ih => simp [memBytes, ih]

theorem getElem_memBytes {n i : Nat} (h : i < (memBytes m k n).length) : (memBytes m k n)[i] = memGet m (k + i) := by
  induction n generalizing k i with
  | zero => simp [memBytes] at h
  | succ n ih =>
    cases i with
    | zero => simp [memBytes]
    | succ i =>
      have shift : k + 1 + i = k + (i + 1) := by omega
      simp [memBytes, ih, shift]

theorem memBytes_memPutAll_self (wf : Memory.wf m = true) : memBytes (memPutAll m k bs) k bs.length = bs := by
  refine List.ext_getElem (length_memBytes _ _ _) fun i h1 h2 => ?_
  rw [getElem_memBytes h1, memGet_memPutAll_in wf h2]

theorem memBytes_memPutAll_out {n : Nat} (out : j + n ≤ k ∨ k + bs.length ≤ j) :
    memBytes (memPutAll m k bs) j n = memBytes m j n := by
  refine List.ext_getElem (by rw [length_memBytes, length_memBytes]) fun i h1 h2 => ?_
  have bound : i < n := by rwa [length_memBytes] at h1
  rw [getElem_memBytes h1, getElem_memBytes h2, memGet_memPutAll_out (by omega)]

theorem length_lineBytes (d : Line) : (lineBytes d).length = 64 := by
  simp [lineBytes]

/-- A line written reads back, and no other line changes. -/
theorem memLine_put_self (wf : Memory.wf m = true) (d : Line) : memLine (memPutAll m (64 * k) (lineBytes d)) k = d := by
  have back := memBytes_memPutAll_self (k := 64 * k) (bs := lineBytes d) wf
  rw [length_lineBytes] at back
  rw [memLine, back, lineOf_lineBytes]

theorem memLine_put_ne (other : j ≠ k) (d : Line) : memLine (memPutAll m (64 * k) (lineBytes d)) j = memLine m j := by
  rw [memLine, memBytes_memPutAll_out (by rw [length_lineBytes]; omega), memLine]

end

/-! ### Keys -/

theorem pkey_inj {p q g h : Nat} (hg : g < 2 ^ 18) (hh : h < 2 ^ 18) (e : pkey 18 p g = pkey 18 q h) : p = q ∧ g = h := by
  simp only [pkey] at e
  omega

theorem groupOf_lineNo_lt (k : Nat) : groupOf (lineNo k) < 2 ^ 18 := by
  simp only [groupOf, lineNo]
  omega

/-- Lines of one group of one PC differ in their place there. -/
theorem place_ne {j k : Nat} (other : j ≠ k) (pc : linePc j = linePc k) (group : groupOf (lineNo j) = groupOf (lineNo k)) :
    lineNo j % 64 ≠ lineNo k % 64 := by
  simp only [linePc, groupOf, lineNo] at *
  omega

theorem lineNo_ne {j k : Nat} (other : j ≠ k) (pc : linePc j = linePc k) : lineNo j ≠ lineNo k := by
  simp only [linePc, lineNo] at *
  omega

theorem tfind_tput_self {α : Type} (t : Tab α) (k : Nat) (a : α) : tfind (tput t k a) k = some a := by
  induction t with
  | nil => simp [tput, tfind]
  | cons c t ih =>
    obtain ⟨i, b⟩ := c
    unfold tput
    split
    · rw [tfind, if_neg (by omega)]
      exact ih
    · split <;> simp [tfind]

theorem tfind_tput_ne {α : Type} (t : Tab α) {k j : Nat} (a : α) (other : j ≠ k) : tfind (tput t k a) j = tfind t j := by
  induction t with
  | nil => simp [tput, tfind, other.symm]
  | cons c t ih =>
    obtain ⟨i, b⟩ := c
    unfold tput
    split
    · rw [tfind, tfind, ih]
    · split
      · next same =>
        subst same
        rw [tfind, tfind, if_neg other.symm, if_neg other.symm]
      · rw [tfind, if_neg other.symm]

/-! ### The tree path (R287) -/

/-- `t` differs from `s` at most in the counter trees: nodes, mirrors and roots. -/
structure TreeMoves (s t : State) : Prop where
  mi : { t.mi with nodes := s.mi.nodes, mirrors := s.mi.mirrors, pcs := s.mi.pcs } = s.mi
  pc : ∀ q, { pcState t q with root := (pcState s q).root } = pcState s q

namespace TreeMoves
variable {s t u : State}

theorem refl (s : State) : TreeMoves s s := ⟨rfl, fun _ => rfl⟩

theorem trans (st : TreeMoves s t) (tu : TreeMoves t u) : TreeMoves s u := by
  refine ⟨?_, fun q => ?_⟩
  · have e := st.mi
    rw [← tu.mi] at e
    exact e
  · have e := st.pc q
    rw [← tu.pc q] at e
    exact e

theorem mem (h : TreeMoves s t) : t.mi.mem = s.mi.mem := (congrArg Protect.mem h.mi :)
theorem counters (h : TreeMoves s t) : t.mi.counters = s.mi.counters := (congrArg Protect.counters h.mi :)
theorem claims (h : TreeMoves s t) : t.mi.claims = s.mi.claims := (congrArg Protect.claims h.mi :)
theorem minorOverflows (h : TreeMoves s t) : t.mi.minorOverflows = s.mi.minorOverflows :=
  (congrArg Protect.minorOverflows h.mi :)
theorem poisonWrites (h : TreeMoves s t) : t.mi.poisonWrites = s.mi.poisonWrites := (congrArg Protect.poisonWrites h.mi :)
theorem gen (h : TreeMoves s t) (q : Nat) : (pcState t q).gen = (pcState s q).gen := (congrArg PcState.gen (h.pc q) :)
theorem exhausted (h : TreeMoves s t) (q : Nat) : (pcState t q).exhausted = (pcState s q).exhausted :=
  (congrArg PcState.exhausted (h.pc q) :)
theorem sweep (h : TreeMoves s t) (q : Nat) : (pcState t q).sweep = (pcState s q).sweep := (congrArg PcState.sweep (h.pc q) :)
theorem queued (h : TreeMoves s t) (q : Nat) : (pcState t q).queued = (pcState s q).queued := (congrArg PcState.queued (h.pc q) :)
theorem parked (h : TreeMoves s t) (q : Nat) : (pcState t q).parked = (pcState s q).parked := (congrArg PcState.parked (h.pc q) :)
theorem junk (h : TreeMoves s t) (q : Nat) : (pcState t q).junk = (pcState s q).junk := (congrArg PcState.junk (h.pc q) :)
theorem sure (h : TreeMoves s t) (q : Nat) : (pcState t q).sure = (pcState s q).sure := (congrArg PcState.sure (h.pc q) :)

end TreeMoves

variable {s : State}

theorem putNode_tree (p l j : Nat) (bs : List Byte) (s : State) : TreeMoves s (putNode p l j bs s) := by
  unfold putNode
  split
  · refine ⟨rfl, fun q => ?_⟩
    rw [pcState_modPc]
    split
    · next same => rw [same]
    · rfl
  · exact ⟨rfl, fun _ => rfl⟩

theorem putPath_tree (p n l c : Nat) (bs : List Byte) (s : State) : TreeMoves s (putPath p n l c bs s) := by
  induction n generalizing l c bs s with
  | zero => exact .refl s
  | succ n ih =>
    rw [putPath]
    exact (putNode_tree ..).trans (ih ..)

/-- The counter blocks with one set. -/
def putCounter (p g : Nat) (b : CounterBlock) (s : State) : State :=
  { s with mi := { s.mi with counters := tput s.mi.counters (pkey 18 p g) b } }

theorem setBlock_tree (p g : Nat) (b : CounterBlock) (s : State) : TreeMoves (putCounter p g b s) (setBlock p g b s) := putPath_tree ..

theorem TreeMoves.cblock {s t : State} (h : TreeMoves s t) (q g : Nat) : cblock t q g = cblock s q g := by
  simp only [Machine.cblock, h.counters, genOf, h.gen]

@[simp] theorem cblock_setBlock_self (p g : Nat) (b : CounterBlock) (s : State) : cblock (setBlock p g b s) p g = b := by
  rw [(setBlock_tree p g b s).cblock]
  simp only [cblock, putCounter, tfind_tput_self, Option.getD_some]

theorem cblock_setBlock_ne {p q g h : Nat} (other : pkey 18 q h ≠ pkey 18 p g) (b : CounterBlock) (s : State) :
    cblock (setBlock p g b s) q h = cblock s q h := by
  rw [(setBlock_tree p g b s).cblock]
  simp only [cblock, putCounter, tfind_tput_ne _ _ other]
  rfl

end Sys2Proof.Machine
end

section
/-!
SUPPORT. What a write-back stores, counts and leaves, and what memory then reads (R268, R284, R291, R297, R300, R301, R302, R305).
-/
namespace Sys2Proof.Machine
open Sys2Proof

section
variable {s t : State} {k j : Nat} {d : Line} {poison : Bool}

/-! ### What a read depends on -/

theorem readsPoison_congr (exhausted : (pcState t (linePc k)).exhausted = (pcState s (linePc k)).exhausted)
    (sweep : (pcState t (linePc k)).sweep = (pcState s (linePc k)).sweep)
    (queued : (pcState t (linePc k)).queued = (pcState s (linePc k)).queued) : readsPoison t k = readsPoison s k := by
  simp only [readsPoison, groupLost, sweepsOf, exhausted, sweep, queued]

theorem readMem_congr (poisons : readsPoison t k = readsPoison s k) (parked : parkedAt t k = parkedAt s k)
    (marked : linePoisoned t k = linePoisoned s k) (plain : plainLine t k = plainLine s k) : readMem t k = readMem s k := by
  simp only [readMem, poisons, parked, marked, plain]

/-- A line of an open group that no posted write waits for reads as its minor and its bytes say. -/
theorem readMem_open (open_ : readsPoison s k = false) (none : parkedAt s k = none) :
    readMem s k = if linePoisoned s k then (0, true) else (plainLine s k, false) := by
  simp only [readMem, open_, none, Bool.false_eq_true, if_false]

theorem readsPoison_open (usable : (pcState s (linePc k)).exhausted = false)
    (free : groupWaits s (linePc k) (groupOf (lineNo k)) = false) : readsPoison s k = false := by
  simp only [groupWaits, List.any_eq_false, Bool.or_eq_true, not_or, Bool.not_eq_true] at free
  have kept : groupLost s (linePc k) (groupOf (lineNo k)) = false :=
    List.any_eq_false.mpr fun w mem => by rw [(free w mem).1]; decide
  simp [readsPoison, usable, kept]

/-- Reads that start leave what memory holds. -/
def FetchMoves (s t : State) : Prop := { t with mi := { t.mi with reads := s.mi.reads } } = s

namespace FetchMoves
variable {u : State}

theorem refl (s : State) : FetchMoves s s := rfl

theorem trans (st : FetchMoves s t) (tu : FetchMoves t u) : FetchMoves s u := by
  unfold FetchMoves at st tu
  rw [← tu] at st
  exact st

theorem pcs (h : FetchMoves s t) : t.mi.pcs = s.mi.pcs := (congrArg (fun x : State => x.mi.pcs) h :)
theorem counters (h : FetchMoves s t) : t.mi.counters = s.mi.counters := (congrArg (fun x : State => x.mi.counters) h :)
theorem mem (h : FetchMoves s t) : t.mi.mem = s.mi.mem := (congrArg (fun x : State => x.mi.mem) h :)
theorem minorOverflows (h : FetchMoves s t) : t.mi.minorOverflows = s.mi.minorOverflows :=
  (congrArg (fun x : State => x.mi.minorOverflows) h :)
theorem poisonWrites (h : FetchMoves s t) : t.mi.poisonWrites = s.mi.poisonWrites :=
  (congrArg (fun x : State => x.mi.poisonWrites) h :)
theorem claims (h : FetchMoves s t) : t.mi.claims = s.mi.claims := (congrArg (fun x : State => x.mi.claims) h :)

theorem pcState (h : FetchMoves s t) (q : Nat) : pcState t q = pcState s q := by
  simp only [Machine.pcState, h.pcs]

theorem cblock (h : FetchMoves s t) (q g : Nat) : cblock t q g = cblock s q g := by
  simp only [Machine.cblock, h.counters, genOf, h.pcState]

theorem readsPoison (h : FetchMoves s t) (k : Nat) : readsPoison t k = readsPoison s k :=
  readsPoison_congr (by rw [h.pcState]) (by rw [h.pcState]) (by rw [h.pcState])

theorem readMem (h : FetchMoves s t) (k : Nat) : readMem t k = readMem s k := by
  refine readMem_congr (h.readsPoison k) ?_ ?_ ?_
  · simp only [parkedAt, h.pcState]
  · simp only [linePoisoned, h.cblock]
  · simp only [plainLine, h.pcState, h.mem]

end FetchMoves

theorem ownRead_fetches (p : Nat) (s : State) (block : Nat) : FetchMoves s (ownRead p s block) := by
  unfold ownRead
  split <;> rfl

theorem fetchMeta_fetches (p block : Nat) (s : State) : FetchMoves s (fetchMeta p block s) := by
  unfold fetchMeta
  split
  · exact .refl s
  · exact ownRead_fetches p s block

theorem foldl_fetches (p : Nat) (l : List Nat) (s : State) : FetchMoves s (l.foldl (ownRead p) s) := by
  induction l generalizing s with
  | nil => exact .refl s
  | cons b l ih => exact (ownRead_fetches p s b).trans (ih _)

/-- The overflow counted. -/
def overflowed (s : State) : State := { s with mi := { s.mi with minorOverflows := satAdd 64 s.mi.minorOverflows 1 } }

theorem countOverflow_fetches (p g : Nat) (s : State) : FetchMoves (overflowed s) (countOverflow p g s) := foldl_fetches ..

/-! ### A line put -/

/-- A line's contents are defined again (R97). -/
def nowSure (k : Nat) (x : PcState) : PcState := { x with sure := lineNo k :: x.sure.filter fun i => i ≠ lineNo k }

/-- Bytes set from `a` on. -/
def putBytes (a : Nat) (bs : List Byte) (s : State) : State := { s with mi := { s.mi with mem := memPutAll s.mi.mem a bs } }

theorem putBytes_mem (a : Nat) (bs : List Byte) (s : State) : (putBytes a bs s).mi.mem = memPutAll s.mi.mem a bs := rfl
theorem putBytes_counters (a : Nat) (bs : List Byte) (s : State) : (putBytes a bs s).mi.counters = s.mi.counters := rfl
theorem pcState_putBytes (a : Nat) (bs : List Byte) (s : State) (q : Nat) : pcState (putBytes a bs s) q = pcState s q := rfl

theorem putLine_sure {i : Nat} (junk : (pcState s (linePc k)).junk = some i) (d : Line) :
    putLine k d s = putBytes (64 * k) (lineBytes d) (modPc (linePc k) (nowSure k) s) := by
  simp only [putLine, junk, putBytes]
  rfl

theorem putLine_plain (junk : (pcState s (linePc k)).junk = none) (d : Line) :
    putLine k d s = putBytes (64 * k) (lineBytes d) s := by
  simp only [putLine, junk, putBytes]

/-- A line put changes at most which lines of its PC are defined. -/
theorem pcState_putLine (k : Nat) (d : Line) (s : State) (q : Nat) :
    { pcState (putLine k d s) q with sure := (pcState s q).sure } = pcState s q := by
  cases junk : (pcState s (linePc k)).junk with
  | none => rw [putLine_plain junk, pcState_putBytes]
  | some i =>
    rw [putLine_sure junk, pcState_putBytes, pcState_modPc]
    split
    · next same => rw [same, nowSure]
    · rfl

theorem putLine_counters (k : Nat) (d : Line) (s : State) : (putLine k d s).mi.counters = s.mi.counters := by
  cases junk : (pcState s (linePc k)).junk with
  | none => rw [putLine_plain junk, putBytes_counters]
  | some i => rw [putLine_sure junk, putBytes_counters, modPc_mi]

theorem putLine_mem (k : Nat) (d : Line) (s : State) : (putLine k d s).mi.mem = memPutAll s.mi.mem (64 * k) (lineBytes d) := by
  cases junk : (pcState s (linePc k)).junk with
  | none => rw [putLine_plain junk, putBytes_mem]
  | some i => rw [putLine_sure junk, putBytes_mem, modPc_mi]

theorem cblock_putLine (k : Nat) (d : Line) (s : State) (q g : Nat) : cblock (putLine k d s) q g = cblock s q g := by
  have gen : (pcState (putLine k d s) q).gen = (pcState s q).gen := (congrArg PcState.gen (pcState_putLine k d s q) :)
  simp only [cblock, genOf, putLine_counters, gen]

theorem putLine_junk (k : Nat) (d : Line) (s : State) (q : Nat) : (pcState (putLine k d s) q).junk = (pcState s q).junk :=
  (congrArg PcState.junk (pcState_putLine k d s q) :)

theorem putLine_sure_self {i : Nat} (junk : (pcState s (linePc k)).junk = some i) (d : Line) :
    (pcState (putLine k d s) (linePc k)).sure.contains (lineNo k) = true := by
  rw [putLine_sure junk, pcState_putBytes, pcState_modPc, if_pos rfl]
  simp [nowSure]

theorem putLine_sure_ne (other : j ≠ k) (d : Line) (s : State) :
    (pcState (putLine k d s) (linePc j)).sure.contains (lineNo j) = (pcState s (linePc j)).sure.contains (lineNo j) := by
  cases junk : (pcState s (linePc k)).junk with
  | none => rw [putLine_plain junk, pcState_putBytes]
  | some i =>
    rw [putLine_sure junk, pcState_putBytes, pcState_modPc]
    split
    · next pc =>
      have no := lineNo_ne other pc
      simp [nowSure, no, pc]
    · rfl

/-- A line put reads back. -/
theorem plainLine_putLine_self (wf : Memory.wf s.mi.mem = true) (d : Line) : plainLine (putLine k d s) k = d := by
  have line := memLine_put_self (k := k) wf d
  unfold plainLine
  rw [putLine_junk, putLine_mem]
  cases junk : (pcState s (linePc k)).junk with
  | none => exact line
  | some i => simp only [putLine_sure_self junk, if_true, line]

/-- No other line changes. -/
theorem plainLine_putLine_ne (other : j ≠ k) (d : Line) (s : State) : plainLine (putLine k d s) j = plainLine s j := by
  unfold plainLine
  rw [putLine_junk, putLine_sure_ne other, putLine_mem, memLine_put_ne other]

/-! ### A line stored (R284, R300, R301) -/

/-- The counter block after a write-back to place `j`. -/
def storedBlock (b : CounterBlock) (j : Nat) (poison : Bool) : CounterBlock :=
  let m := tget 0 b.minors j
  let up := overflows m poison
  setMinor (if up then { b with major := b.major + 1, minors := freshMinors b.minors } else b) j
    (if poison then 0x7F else if up then 0 else m + 1)

/-- A poisoned write counted. -/
def countPoison (poison : Bool) (s : State) : State :=
  if poison then { s with mi := { s.mi with poisonWrites := satAdd 64 s.mi.poisonWrites 1 } } else s

theorem storeMem_eq (k : Nat) (d : Line) (poison : Bool) (s : State) : storeMem k d poison s =
    putLine k (if poison then 0 else d) (countPoison poison (setBlock (linePc k) (groupOf (lineNo k))
      (storedBlock (cblock s (linePc k) (groupOf (lineNo k))) (lineNo k % 64) poison) s)) := rfl

theorem countPoison_pcState (poison : Bool) (s : State) (q : Nat) : pcState (countPoison poison s) q = pcState s q := by
  cases poison <;> rfl

theorem countPoison_cblock (poison : Bool) (s : State) (q g : Nat) : cblock (countPoison poison s) q g = cblock s q g := by
  cases poison <;> rfl

theorem countPoison_mem (poison : Bool) (s : State) : (countPoison poison s).mi.mem = s.mi.mem := by
  cases poison <;> rfl

theorem cblock_storeMem_self (k : Nat) (d : Line) (poison : Bool) (s : State) :
    cblock (storeMem k d poison s) (linePc k) (groupOf (lineNo k)) =
      storedBlock (cblock s (linePc k) (groupOf (lineNo k))) (lineNo k % 64) poison := by
  rw [storeMem_eq, cblock_putLine, countPoison_cblock, cblock_setBlock_self]

theorem cblock_storeMem_ne {q g : Nat} (other : pkey 18 q g ≠ pkey 18 (linePc k) (groupOf (lineNo k))) :
    cblock (storeMem k d poison s) q g = cblock s q g := by
  rw [storeMem_eq, cblock_putLine, countPoison_cblock, cblock_setBlock_ne other]

/-- But for roots and for the lines written since their hand's change, protection states stay. -/
theorem pcState_storeMem (k : Nat) (d : Line) (poison : Bool) (s : State) (q : Nat) :
    { pcState (storeMem k d poison s) q with root := (pcState s q).root, sure := (pcState s q).sure } = pcState s q := by
  have tree := (setBlock_tree (linePc k) (groupOf (lineNo k))
    (storedBlock (cblock s (linePc k) (groupOf (lineNo k))) (lineNo k % 64) poison) s).pc q
  have put := pcState_putLine k (if poison then 0 else d) (countPoison poison (setBlock (linePc k) (groupOf (lineNo k))
      (storedBlock (cblock s (linePc k) (groupOf (lineNo k))) (lineNo k % 64) poison) s)) q
  rw [countPoison_pcState] at put
  rw [← put] at tree
  exact congrArg (fun x : PcState => { x with sure := (pcState s q).sure }) tree

theorem readsPoison_storeMem (k : Nat) (d : Line) (poison : Bool) (s : State) (j : Nat) :
    readsPoison (storeMem k d poison s) j = readsPoison s j :=
  have same := pcState_storeMem k d poison s (linePc j)
  readsPoison_congr (congrArg PcState.exhausted same :) (congrArg PcState.sweep same :) (congrArg PcState.queued same :)

theorem parkedAt_storeMem (k : Nat) (d : Line) (poison : Bool) (s : State) (j : Nat) :
    parkedAt (storeMem k d poison s) j = parkedAt s j := by
  have same : (pcState (storeMem k d poison s) (linePc j)).parked = (pcState s (linePc j)).parked :=
    (congrArg PcState.parked (pcState_storeMem k d poison s (linePc j)) :)
  simp only [parkedAt, same]

theorem setBlock_mem (p g : Nat) (b : CounterBlock) (s : State) : (setBlock p g b s).mi.mem = s.mi.mem :=
  (setBlock_tree p g b s).mem

theorem plainLine_tree (h : TreeMoves s t) (k : Nat) : plainLine t k = plainLine s k := by
  simp only [plainLine, h.junk, h.sure, h.mem]

theorem plainLine_countPoison (poison : Bool) (s : State) (k : Nat) : plainLine (countPoison poison s) k = plainLine s k := by
  cases poison <;> rfl

theorem plainLine_storeMem_self (wf : Memory.wf s.mi.mem = true) (d : Line) (poison : Bool) :
    plainLine (storeMem k d poison s) k = if poison then 0 else d := by
  rw [storeMem_eq]
  exact plainLine_putLine_self (by rwa [countPoison_mem, setBlock_mem]) _

theorem plainLine_storeMem_ne (other : j ≠ k) (d : Line) (poison : Bool) (s : State) :
    plainLine (storeMem k d poison s) j = plainLine s j := by
  rw [storeMem_eq, plainLine_putLine_ne other, plainLine_countPoison]
  exact plainLine_tree (setBlock_tree ..) j

/-- The minor of another line of the group stays where nothing overflows. -/
theorem storedBlock_other {b : CounterBlock} {i j : Nat} (other : i ≠ j) (fits : overflows (tget 0 b.minors j) poison = false) :
    tget 0 (storedBlock b j poison).minors i = tget 0 b.minors i := by
  have kept : ∀ v, tget 0 (setMinor b j v).minors i = tget 0 b.minors i := fun v => by
    unfold setMinor
    split
    · exact (tget_tdel _ _ _ _).trans (if_neg other)
    · exact tget_tput_ne _ _ _ other
  simp only [storedBlock, fits, Bool.false_eq_true, if_false, kept]

theorem linePoisoned_storeMem_ne (other : j ≠ k)
    (fits : overflows (tget 0 (cblock s (linePc k) (groupOf (lineNo k))).minors (lineNo k % 64)) poison = false) :
    linePoisoned (storeMem k d poison s) j = linePoisoned s j := by
  by_cases same : pkey 18 (linePc j) (groupOf (lineNo j)) = pkey 18 (linePc k) (groupOf (lineNo k))
  · obtain ⟨pc, group⟩ := pkey_inj (groupOf_lineNo_lt j) (groupOf_lineNo_lt k) same
    have place := place_ne other pc group
    simp only [linePoisoned, pc, group, cblock_storeMem_self, storedBlock_other place fits]
  · simp only [linePoisoned, cblock_storeMem_ne same]

/-- Where nothing overflows, a store leaves every other line of memory. -/
theorem readMem_storeMem_ne (other : j ≠ k)
    (fits : overflows (tget 0 (cblock s (linePc k) (groupOf (lineNo k))).minors (lineNo k % 64)) poison = false) :
    readMem (storeMem k d poison s) j = readMem s j :=
  readMem_congr (readsPoison_storeMem k d poison s j) (parkedAt_storeMem k d poison s j) (linePoisoned_storeMem_ne other fits)
    (plainLine_storeMem_ne other d poison s)

/-- A store reads back: its data, or the poison mark. -/
theorem readMem_storeMem_self (open_ : readsPoison s k = false) (none : parkedAt s k = none) (wf : Memory.wf s.mi.mem = true)
    (marked : tget 0 (storedBlock (cblock s (linePc k) (groupOf (lineNo k))) (lineNo k % 64) poison).minors (lineNo k % 64) = 0x7F ↔
      poison = true) : readMem (storeMem k d poison s) k = if poison then (0, true) else (d, false) := by
  rw [readMem_open (by rwa [readsPoison_storeMem]) (by rwa [parkedAt_storeMem]), plainLine_storeMem_self wf]
  simp only [linePoisoned, cblock_storeMem_self, beq_iff_eq, marked]
  cases poison <;> rfl

theorem not_overflows_low {m : Nat} (low : m < 0x7E) : overflows m false = false := by
  simp only [overflows, Bool.or_eq_false_iff, beq_eq_false_iff_ne, Bool.not_false, Bool.and_true]
  omega

theorem storedBlock_clean {b : CounterBlock} {j : Nat} (low : tget 0 b.minors j < 0x7E) :
    storedBlock b j false = { b with minors := tput b.minors j (tget 0 b.minors j + 1) } := by
  simp [storedBlock, not_overflows_low low, setMinor]

theorem storedBlock_poison {b : CounterBlock} {j : Nat} (fits : tget 0 b.minors j ≠ 0x7E) :
    storedBlock b j true = { b with minors := tput b.minors j 0x7F } := by
  simp [storedBlock, overflows, fits, setMinor]

theorem storedBlock_overflow {b : CounterBlock} {j : Nat} (over_ : tget 0 b.minors j = 0x7E ∨ tget 0 b.minors j = 0x7F) :
    storedBlock b j false = { b with major := b.major + 1, minors := tdel (freshMinors b.minors) j } := by
  obtain h | h := over_ <;> simp [storedBlock, overflows, h, setMinor]

theorem storedBlock_overflow_poison {b : CounterBlock} {j : Nat} (over_ : tget 0 b.minors j = 0x7E) :
    storedBlock b j true = { b with major := b.major + 1, minors := tput (freshMinors b.minors) j 0x7F } := by
  simp [storedBlock, overflows, over_, setMinor]

theorem storeMem_poisonWrites (k : Nat) (d : Line) (s : State) :
    (storeMem k d true s).mi.poisonWrites = satAdd 64 s.mi.poisonWrites 1 := by
  have put : ∀ d u, (putLine k d u).mi.poisonWrites = u.mi.poisonWrites := fun d u => by
    unfold putLine
    split <;> rfl
  have set_ := (setBlock_tree (linePc k) (groupOf (lineNo k))
    (storedBlock (cblock s (linePc k) (groupOf (lineNo k))) (lineNo k % 64) true) s).poisonWrites
  rw [storeMem_eq, put]
  exact congrArg (fun n => satAdd 64 n 1) set_

/-! ### The cases of a write-back (R291, R297, R300 to R305) -/

theorem writeMem_exhausted (gone : (pcState s (linePc k)).exhausted = true) : writeMem k d poison s = s := by
  simp [writeMem, gone]

theorem writeMem_waits (usable : (pcState s (linePc k)).exhausted = false)
    (waits : groupWaits s (linePc k) (groupOf (lineNo k)) = true) : writeMem k d poison s = park k d poison s := by
  simp [writeMem, usable, waits]

theorem writeMem_stores (usable : (pcState s (linePc k)).exhausted = false)
    (free : groupWaits s (linePc k) (groupOf (lineNo k)) = false)
    (fits : overflows (tget 0 (cblock s (linePc k) (groupOf (lineNo k))).minors (lineNo k % 64)) poison = false) :
    writeMem k d poison s = storeMem k d poison (fetchMeta (linePc k) (lineNo k / 4) s) := by
  simp [writeMem, usable, free, fits]

/-- A write-back that is stored reads back, and leaves every other line. -/
theorem writeMem_reads_back (usable : (pcState s (linePc k)).exhausted = false)
    (free : groupWaits s (linePc k) (groupOf (lineNo k)) = false)
    (fits : overflows (tget 0 (cblock s (linePc k) (groupOf (lineNo k))).minors (lineNo k % 64)) poison = false)
    (none : parkedAt s k = none) (wf : Memory.wf s.mi.mem = true)
    (marked : tget 0 (storedBlock (cblock s (linePc k) (groupOf (lineNo k))) (lineNo k % 64) poison).minors (lineNo k % 64) = 0x7F ↔
      poison = true) : readMem (writeMem k d poison s) k = (if poison then (0, true) else (d, false)) ∧
      ∀ j, j ≠ k → readMem (writeMem k d poison s) j = readMem s j := by
  have fetched := fetchMeta_fetches (linePc k) (lineNo k / 4) s
  have open_ : readsPoison (fetchMeta (linePc k) (lineNo k / 4) s) k = false := by
    rw [fetched.readsPoison]
    exact readsPoison_open usable free
  have empty : parkedAt (fetchMeta (linePc k) (lineNo k / 4) s) k = Option.none := by
    simpa only [parkedAt, fetched.pcState] using none
  rw [← fetched.cblock] at fits marked
  rw [writeMem_stores usable free (by rwa [← fetched.cblock])]
  refine ⟨readMem_storeMem_self open_ empty (by rwa [fetched.mem]) marked, fun j other => ?_⟩
  rw [readMem_storeMem_ne other fits, fetched.readMem]

/-- The state in which an overflowing write-back is stored. -/
def overflowRead (k : Nat) (s : State) : State :=
  countOverflow (linePc k) (groupOf (lineNo k)) (fetchMeta (linePc k) (lineNo k / 4) s)

theorem writeMem_overflows (usable : (pcState s (linePc k)).exhausted = false)
    (free : groupWaits s (linePc k) (groupOf (lineNo k)) = false)
    (over_ : overflows (tget 0 (cblock s (linePc k) (groupOf (lineNo k))).minors (lineNo k % 64)) poison = true)
    (room : (cblock s (linePc k) (groupOf (lineNo k))).major < 0xFFFFFFFF) :
    writeMem k d poison s = storeMem k d poison (overflowRead k s) := by
  simp [writeMem, usable, free, over_, room, overflowRead]

theorem writeMem_rekeys (usable : (pcState s (linePc k)).exhausted = false)
    (free : groupWaits s (linePc k) (groupOf (lineNo k)) = false)
    (over_ : overflows (tget 0 (cblock s (linePc k) (groupOf (lineNo k))).minors (lineNo k % 64)) poison = true)
    (full : (cblock s (linePc k) (groupOf (lineNo k))).major = 0xFFFFFFFF) :
    writeMem k d poison s =
      if (pcState (startRekey (linePc k) [groupOf (lineNo k)] [] (overflowRead k s)) (linePc k)).exhausted then
        startRekey (linePc k) [groupOf (lineNo k)] [] (overflowRead k s)
      else park k d poison (startRekey (linePc k) [groupOf (lineNo k)] [] (overflowRead k s)) := by
  unfold writeMem overflowRead
  dsimp only
  rw [if_neg (by simp [usable]), if_neg (by simp [free]), if_neg (by simp [over_]), if_neg (by simp [full])]

/-! ### Posted writes that wait (R291) -/

theorem pcState_park (k : Nat) (d : Line) (poison : Bool) (s : State) (q : Nat) : pcState (park k d poison s) q =
    if q = linePc k then { pcState s q with parked := (pcState s q).parked ++ [{ line := lineNo k, data := d, poison := poison }] }
    else pcState s q := by
  rw [park, pcState_modPc]
  split
  · next same => rw [same]
  · rfl

theorem park_rest (k : Nat) (d : Line) (poison : Bool) (s : State) (q : Nat) :
    { pcState (park k d poison s) q with parked := (pcState s q).parked } = pcState s q := by
  rw [pcState_park]
  split <;> rfl

theorem readsPoison_park (k : Nat) (d : Line) (poison : Bool) (s : State) (j : Nat) :
    readsPoison (park k d poison s) j = readsPoison s j :=
  have kept := park_rest k d poison s (linePc j)
  readsPoison_congr (congrArg PcState.exhausted kept :) (congrArg PcState.sweep kept :) (congrArg PcState.queued kept :)

theorem parkedAt_park_self (k : Nat) (d : Line) (poison : Bool) (s : State) :
    parkedAt (park k d poison s) k = some { line := lineNo k, data := d, poison := poison } := by
  simp [parkedAt, pcState_park]

theorem parkedAt_park_ne (other : j ≠ k) : parkedAt (park k d poison s) j = parkedAt s j := by
  simp only [parkedAt, pcState_park]
  split
  · next pc =>
    have no := (lineNo_ne other pc).symm
    simp [no]
  · rfl

theorem cblock_park (k : Nat) (d : Line) (poison : Bool) (s : State) (q g : Nat) :
    cblock (park k d poison s) q g = cblock s q g := by
  have gen : (pcState (park k d poison s) q).gen = (pcState s q).gen := (congrArg PcState.gen (park_rest k d poison s q) :)
  have counters : (park k d poison s).mi.counters = s.mi.counters := rfl
  simp only [cblock, genOf, counters, gen]

theorem plainLine_park (k : Nat) (d : Line) (poison : Bool) (s : State) (j : Nat) :
    plainLine (park k d poison s) j = plainLine s j := by
  have kept := park_rest k d poison s (linePc j)
  have junk : (pcState (park k d poison s) (linePc j)).junk = (pcState s (linePc j)).junk := (congrArg PcState.junk kept :)
  have sure : (pcState (park k d poison s) (linePc j)).sure = (pcState s (linePc j)).sure := (congrArg PcState.sure kept :)
  have mem : (park k d poison s).mi.mem = s.mi.mem := rfl
  simp only [plainLine, junk, sure, mem]

/-- A posted write that waits is read from the write buffer. -/
theorem readMem_park_self (open_ : readsPoison s k = false) :
    readMem (park k d poison s) k = if poison then (0, true) else (d, false) := by
  simp only [readMem, readsPoison_park, open_, parkedAt_park_self, Bool.false_eq_true, if_false]

theorem readMem_park_ne (other : j ≠ k) : readMem (park k d poison s) j = readMem s j :=
  readMem_congr (readsPoison_park k d poison s j) (parkedAt_park_ne other) (by simp only [linePoisoned, cblock_park])
    (plainLine_park k d poison s j)

theorem readMem_poison (poisons : readsPoison s k = true) : readMem s k = (0, true) := by
  simp only [readMem, poisons, if_true]

end

/-- Settles O33: a write-back that is stored, one that waits, one that is dropped, and the byte list under them. -/
theorem memoryReadsBack : Obligations.MemoryReadsBack := by
  refine ⟨fun m k v wf => ⟨memPut_wf wf, memGet_memPut_self wf, fun j other => memGet_memPut_ne other⟩,
    fun k d s usable free low none wf => ?_, fun k d s usable free fits none wf => ?_,
    fun k d p s usable waits => ⟨writeMem_waits usable waits, fun kept => readMem_park_self ?_, fun j other => readMem_park_ne other⟩,
    fun k d p s gone => ⟨writeMem_exhausted gone, readMem_poison (by simp [readsPoison, gone])⟩,
    fun k s lost => readMem_poison (by simp [readsPoison, lost]),
    fun k d s => ⟨writeMem_coh k d false s, (writeMem_moves k d false s).steps, congrArg Queues.qs (writeMem_moves k d false s).qu⟩⟩
  · have fits := not_overflows_low low
    obtain ⟨self, rest⟩ := writeMem_reads_back (d := d) usable free fits none wf (by
      rw [storedBlock_clean low]
      simp only [tget_tput_self]
      exact iff_of_false (by omega) Bool.false_ne_true)
    exact ⟨self, rest⟩
  · have over_ : overflows (tget 0 (cblock s (linePc k) (groupOf (lineNo k))).minors (lineNo k % 64)) true = false := by
      simp [overflows, fits]
    obtain ⟨self, rest⟩ := writeMem_reads_back (d := d) usable free over_ none wf (by
      rw [storedBlock_poison fits]
      simp only [tget_tput_self])
    refine ⟨self, ?_, rest⟩
    rw [writeMem_stores usable free over_, storeMem_poisonWrites, (fetchMeta_fetches ..).poisonWrites]
  · simp [readsPoison, usable, kept]

end Sys2Proof.Machine
end

section
/-!
SUPPORT. Counter overflow, the re-key that it starts at the largest MAJOR, and the claim of a granule (R284, R294, R295, R301, R302,
R304, R305).
-/
namespace Sys2Proof.Machine
open Sys2Proof

section
variable {s : State} {k p line key : Nat} {d : Line} {poison : Bool}

/-! ### Overflow (R301) -/

theorem pcState_overflowed (s : State) (q : Nat) : pcState (overflowed s) q = pcState s q := rfl
theorem cblock_overflowed (s : State) (q g : Nat) : cblock (overflowed s) q g = cblock s q g := rfl
theorem overflowed_minorOverflows (s : State) : (overflowed s).mi.minorOverflows = satAdd 64 s.mi.minorOverflows 1 := rfl
theorem overflowed_claims (s : State) : (overflowed s).mi.claims = s.mi.claims := rfl

theorem overflowRead_pcState (k : Nat) (s : State) (q : Nat) : pcState (overflowRead k s) q = pcState s q := by
  rw [overflowRead, (countOverflow_fetches _ _ _).pcState, pcState_overflowed, (fetchMeta_fetches _ _ _).pcState]

theorem overflowRead_cblock (k : Nat) (s : State) (q g : Nat) : cblock (overflowRead k s) q g = cblock s q g := by
  rw [overflowRead, (countOverflow_fetches _ _ _).cblock, cblock_overflowed, (fetchMeta_fetches _ _ _).cblock]

theorem overflowRead_minorOverflows (k : Nat) (s : State) :
    (overflowRead k s).mi.minorOverflows = satAdd 64 s.mi.minorOverflows 1 := by
  rw [overflowRead, (countOverflow_fetches _ _ _).minorOverflows, overflowed_minorOverflows,
    (fetchMeta_fetches _ _ _).minorOverflows]

theorem putLine_mi (k : Nat) (d : Line) (s : State) :
    { (putLine k d s).mi with mem := s.mi.mem, pcs := s.mi.pcs } = s.mi := by
  unfold putLine
  split <;> rfl

theorem storeMem_minorOverflows (k : Nat) (d : Line) (poison : Bool) (s : State) :
    (storeMem k d poison s).mi.minorOverflows = s.mi.minorOverflows := by
  have counted : ∀ u, (countPoison poison u).mi.minorOverflows = u.mi.minorOverflows := fun u => by cases poison <;> rfl
  rw [storeMem_eq, (congrArg Protect.minorOverflows (putLine_mi _ _ _) :), counted, (setBlock_tree ..).minorOverflows]
  rfl

theorem cblock_writeMem_stores (usable : (pcState s (linePc k)).exhausted = false)
    (free : groupWaits s (linePc k) (groupOf (lineNo k)) = false)
    (fits : overflows (tget 0 (cblock s (linePc k) (groupOf (lineNo k))).minors (lineNo k % 64)) poison = false) :
    cblock (writeMem k d poison s) (linePc k) (groupOf (lineNo k)) =
      storedBlock (cblock s (linePc k) (groupOf (lineNo k))) (lineNo k % 64) poison := by
  rw [writeMem_stores usable free fits, cblock_storeMem_self, (fetchMeta_fetches ..).cblock]

/-- Below the largest MAJOR an overflowing write-back is stored, and counted. -/
theorem writeMem_overflows_stores (usable : (pcState s (linePc k)).exhausted = false)
    (free : groupWaits s (linePc k) (groupOf (lineNo k)) = false)
    (over_ : overflows (tget 0 (cblock s (linePc k) (groupOf (lineNo k))).minors (lineNo k % 64)) poison = true)
    (room : (cblock s (linePc k) (groupOf (lineNo k))).major < 0xFFFFFFFF) :
    cblock (writeMem k d poison s) (linePc k) (groupOf (lineNo k)) =
      storedBlock (cblock s (linePc k) (groupOf (lineNo k))) (lineNo k % 64) poison ∧
      (writeMem k d poison s).mi.minorOverflows = satAdd 64 s.mi.minorOverflows 1 := by
  rw [writeMem_overflows usable free over_ room]
  refine ⟨?_, ?_⟩
  · rw [cblock_storeMem_self, overflowRead_cblock]
  · rw [storeMem_minorOverflows, overflowRead_minorOverflows]

/-! ### The re-key (R302, R304) -/

theorem cblock_modPc {f : PcState → PcState} (gen : ∀ x, (f x).gen = x.gen) (p : Nat) (s : State) (q g : Nat) :
    cblock (modPc p f s) q g = cblock s q g := by
  have same : (pcState (modPc p f s) q).gen = (pcState s q).gen := by
    rw [pcState_modPc]
    split
    · next at_ => rw [gen, at_]
    · rfl
  have counters : (modPc p f s).mi.counters = s.mi.counters := rfl
  simp only [cblock, genOf, counters, same]

/-- A PC with a re-key of its own begun. -/
def rekeyBegun (target : Nat) (first lost : List Nat) (x : PcState) : PcState :=
  { x with sweep := some { kind := .rekey, target := target, first := first, lost := lost } }

theorem rekeyBegun_gen (target : Nat) (first lost : List Nat) (x : PcState) : (rekeyBegun target first lost x).gen = x.gen := rfl

/-- A PC without a sweep starts its re-key at once. -/
theorem startRekey_idle (usable : (pcState s p).exhausted = false) (idle : (pcState s p).sweep = none)
    (room : genOf s p < 0xFFFF) (first lost : List Nat) :
    startRekey p first lost s = modPc p (rekeyBegun (genOf s p + 1) first lost) s := by
  have next_ : ¬ (pcState s p).gen + 1 > 0xFFFF := Nat.not_lt.mpr room
  unfold startRekey
  dsimp only
  rw [if_neg (by simp [usable])]
  simp only [idle, next_, if_false]
  rfl

/-- The state in which the write-back that starts a re-key waits. -/
def rekeyStarted (k : Nat) (s : State) : State :=
  modPc (linePc k) (rekeyBegun (genOf s (linePc k) + 1) [groupOf (lineNo k)] []) (overflowRead k s)

theorem pcState_rekeyStarted (k : Nat) (s : State) :
    pcState (rekeyStarted k s) (linePc k) = rekeyBegun (genOf s (linePc k) + 1) [groupOf (lineNo k)] [] (pcState s (linePc k)) := by
  rw [rekeyStarted, pcState_modPc, if_pos rfl, overflowRead_pcState]

/-- At the largest MAJOR an overflow re-keys the PC, and the write waits for the visit. -/
theorem writeMem_starts_rekey (usable : (pcState s (linePc k)).exhausted = false)
    (free : groupWaits s (linePc k) (groupOf (lineNo k)) = false)
    (over_ : overflows (tget 0 (cblock s (linePc k) (groupOf (lineNo k))).minors (lineNo k % 64)) poison = true)
    (full : (cblock s (linePc k) (groupOf (lineNo k))).major = 0xFFFFFFFF) (room : genOf s (linePc k) < 0xFFFF)
    (idle : (pcState s (linePc k)).sweep = none) : writeMem k d poison s = park k d poison (rekeyStarted k s) := by
  have starts : startRekey (linePc k) [groupOf (lineNo k)] [] (overflowRead k s) = rekeyStarted k s := by
    have gen : genOf (overflowRead k s) (linePc k) = genOf s (linePc k) := by rw [genOf, overflowRead_pcState, genOf]
    rw [startRekey_idle (by rw [overflowRead_pcState]; exact usable) (by rw [overflowRead_pcState]; exact idle)
      (by rw [gen]; exact room), gen, rekeyStarted]
  have usable' : (pcState (rekeyStarted k s) (linePc k)).exhausted = false := by
    rw [pcState_rekeyStarted]
    exact usable
  rw [writeMem_rekeys usable free over_ full, starts, usable']
  simp

/-- A re-key without lost groups poisons nothing. -/
theorem readsPoison_rekeyStarted (usable : (pcState s (linePc k)).exhausted = false)
    (free : groupWaits s (linePc k) (groupOf (lineNo k)) = false) (idle : (pcState s (linePc k)).sweep = none) :
    readsPoison (rekeyStarted k s) k = false := by
  have open_ := readsPoison_open usable free
  simp only [readsPoison, groupLost, sweepsOf, idle, Option.toList_none, List.nil_append] at open_
  simp only [readsPoison, groupLost, sweepsOf, pcState_rekeyStarted, rekeyBegun, Option.toList_some, List.cons_append, List.nil_append,
    List.any_cons, List.contains_nil, Bool.false_or, open_]

/-! ### Claims (R294, R295) -/

theorem exhaustPc_claims (p : Nat) (rekey : Bool) (s : State) : (exhaustPc p rekey s).mi.claims = s.mi.claims := by
  unfold exhaustPc
  dsimp only
  rw [report_mi, report_mi]
  rfl

theorem startRekey_claims (p : Nat) (first lost : List Nat) (s : State) : (startRekey p first lost s).mi.claims = s.mi.claims := by
  unfold startRekey
  dsimp only
  split
  · rfl
  · split
    · split
      · rfl
      · split <;> rfl
    · split
      · exact exhaustPc_claims p true s
      · rfl

theorem storeMem_claims (k : Nat) (d : Line) (poison : Bool) (s : State) : (storeMem k d poison s).mi.claims = s.mi.claims := by
  have counted : ∀ u, (countPoison poison u).mi.claims = u.mi.claims := fun u => by cases poison <;> rfl
  rw [storeMem_eq, (congrArg Protect.claims (putLine_mi _ _ _) :), counted, (setBlock_tree ..).claims]
  rfl

theorem overflowRead_claims (k : Nat) (s : State) : (overflowRead k s).mi.claims = s.mi.claims := by
  rw [overflowRead, (countOverflow_fetches _ _ _).claims, overflowed_claims, (fetchMeta_fetches _ _ _).claims]

theorem park_claims (k : Nat) (d : Line) (poison : Bool) (s : State) : (park k d poison s).mi.claims = s.mi.claims := rfl

/-- A write-back claims nothing. -/
theorem writeMem_claims (k : Nat) (d : Line) (poison : Bool) (s : State) : (writeMem k d poison s).mi.claims = s.mi.claims := by
  have read := overflowRead_claims k s
  have rekeyed := (startRekey_claims (linePc k) [groupOf (lineNo k)] [] (overflowRead k s)).trans read
  unfold overflowRead at read rekeyed
  unfold writeMem
  dsimp only
  split
  · rfl
  · split
    · rfl
    · split
      · rw [storeMem_claims, (fetchMeta_fetches _ _ _).claims]
      · split
        · exact (storeMem_claims k d poison _).trans read
        · split
          · exact rekeyed
          · rw [park_claims]
            exact rekeyed

/-- The lines of a granule, from `first` on, written as zeros. -/
def zeroLines (p first : Nat) (s : State) : State :=
  (List.range 32).foldl (fun s i => writeMem (lineKey p (first + i)) 0 false s) s

theorem zeroLines_claims (p first : Nat) (s : State) : (zeroLines p first s).mi.claims = s.mi.claims := by
  unfold zeroLines
  generalize List.range 32 = l
  induction l generalizing s with
  | nil => rfl
  | cons i l ih => exact (ih _).trans (writeMem_claims ..)

/-- One more key ID recorded in a PC. -/
def nowPresent (key : Nat) (x : PcState) : PcState := { x with present := setBit x.present key true }

/-- One more claim counted. -/
def claimed (s : State) : State := { s with mi := { s.mi with claims := satAdd 64 s.mi.claims 1 } }

theorem claim_eq (p line key : Nat) (s : State) : claim p line key s =
    claimed (modPc p (nowPresent key) (setBlock p (groupOf line) (setGranuleKey
      (cblock (zeroLines p (line / 32 * 32) s) p (groupOf line)) line key) (zeroLines p (line / 32 * 32) s))) := by
  unfold claim zeroLines claimed
  rfl

theorem putCounter_claims (p g : Nat) (b : CounterBlock) (s : State) : (putCounter p g b s).mi.claims = s.mi.claims := rfl

theorem cblock_claimed (s : State) (q g : Nat) : cblock (claimed s) q g = cblock s q g := rfl

theorem claimed_claims (s : State) : (claimed s).mi.claims = satAdd 64 s.mi.claims 1 := rfl

theorem granuleKey_setGranuleKey (b : CounterBlock) (line key : Nat) : granuleKey (setGranuleKey b line key) line = key := by
  unfold granuleKey setGranuleKey
  split <;> rfl

/-- A claim records its key ID. -/
theorem granuleKey_claim (p line key : Nat) (s : State) : granuleKey (cblock (claim p line key s) p (groupOf line)) line = key := by
  have gen : ∀ x, (nowPresent key x).gen = x.gen := fun _ => rfl
  rw [claim_eq, cblock_claimed, cblock_modPc gen, cblock_setBlock_self, granuleKey_setGranuleKey]

theorem claim_claims (p line key : Nat) (s : State) : (claim p line key s).mi.claims = satAdd 64 s.mi.claims 1 := by
  have set_ := (setBlock_tree p (groupOf line) (setGranuleKey (cblock (zeroLines p (line / 32 * 32) s) p (groupOf line)) line key)
    (zeroLines p (line / 32 * 32) s)).claims
  rw [claim_eq, claimed_claims, modPc_mi, set_, putCounter_claims, zeroLines_claims]

theorem access_claims (first : keyCheck s p line key = .claim) (usable : (pcState s p).exhausted = false) :
    access p line key s = (true, claim p line key s) := by
  rw [access, first]
  simp [usable]

theorem access_claims_none (first : keyCheck s p line key = .claim) (gone : (pcState s p).exhausted = true) :
    access p line key s = (true, s) := by
  rw [access, first]
  simp [gone]

theorem keyCheck_refuse_iff : keyCheck s p line key = .refuse ↔
    granuleKey (cblock s p (groupOf line)) line ≠ key ∧ granuleKey (cblock s p (groupOf line)) line ≠ 0 := by
  unfold keyCheck
  dsimp only
  split
  · next same => simp [same]
  · next other =>
    split
    · next zero => simp [zero]
    · next held => simp [other, held]

end

/-- Settles O34: a write-back by its minor and its group's MAJOR, an access by the granule's recorded key ID. -/
theorem countersAndClaims : Obligations.CountersAndClaims := by
  refine ⟨fun k d b m s usable free hb hm => ?_, fun p line k s first usable => ?_,
    fun p line k s first gone => access_claims_none first gone, fun p line k s refuse => access_refuse refuse,
    fun p line k s match_ => access_match match_, fun p line k s key => keyCheck_refuse_iff.trans (and_comm)⟩
  · subst hb hm
    refine ⟨fun low => ?_, fun fits => ?_, fun wraps room => ?_, fun wraps room => ?_, fun wraps full room idle => ?_⟩
    · rw [cblock_writeMem_stores usable free (not_overflows_low low), storedBlock_clean low]
    · rw [cblock_writeMem_stores usable free (by simp [overflows, fits]), storedBlock_poison fits]
    · obtain ⟨block, count⟩ := writeMem_overflows_stores (d := d) (poison := false) usable free
        (by obtain h | h := wraps <;> simp [overflows, h]) room
      exact ⟨block.trans (storedBlock_overflow wraps), count⟩
    · obtain ⟨block, -⟩ := writeMem_overflows_stores (d := d) (poison := true) usable free (by simp [overflows, wraps]) room
      exact block.trans (storedBlock_overflow_poison wraps)
    · rw [writeMem_starts_rekey usable free (by obtain h | h := wraps <;> simp [overflows, h]) full room idle]
      refine ⟨?_, ?_, readMem_park_self (readsPoison_rekeyStarted usable free idle)⟩
      · rw [cblock_park, rekeyStarted, cblock_modPc (rekeyBegun_gen _ _ _), overflowRead_cblock]
      · rw [pcState_park, if_pos rfl, pcState_rekeyStarted, rekeyBegun]
  · rw [access_claims first usable]
    exact ⟨rfl, granuleKey_claim p line k s, claim_claims p line k s⟩

end Sys2Proof.Machine
end

section
/-!
SUPPORT. The visits of a re-key and its end, the end of a scrub, of a way's sweep and of a key ID's walk (R128, R302, R304, R306,
R309).
-/
namespace Sys2Proof.Machine
open Sys2Proof

section
variable {s t : State} {p g : Nat} {w : Sweep}

/-! ### A visit's check (R302) -/

/-- What a check fetches fills the metadata cache, and changes nothing else but the free values drawn. -/
def FillMoves (s t : State) : Prop := { t with mi := { t.mi with cache := s.mi.cache }, freeCount := s.freeCount } = s

namespace FillMoves
variable {u : State}

theorem refl (s : State) : FillMoves s s := rfl

theorem trans (st : FillMoves s t) (tu : FillMoves t u) : FillMoves s u := by
  unfold FillMoves at st tu
  rw [← tu] at st
  exact st

theorem mi (h : FillMoves s t) : { t.mi with cache := s.mi.cache } = s.mi := (congrArg State.mi h :)
theorem mem (h : FillMoves s t) : t.mi.mem = s.mi.mem := (congrArg Protect.mem h.mi :)
theorem counters (h : FillMoves s t) : t.mi.counters = s.mi.counters := (congrArg Protect.counters h.mi :)
theorem pcs (h : FillMoves s t) : t.mi.pcs = s.mi.pcs := (congrArg Protect.pcs h.mi :)
theorem rekeys (h : FillMoves s t) : t.mi.rekeys = s.mi.rekeys := (congrArg Protect.rekeys h.mi :)

theorem pcState (h : FillMoves s t) (q : Nat) : pcState t q = pcState s q := by
  simp only [Machine.pcState, h.pcs]

end FillMoves

theorem fillMeta_fills (s : State) (e : MetaEntry) : FillMoves s (fillMeta s e) := by
  unfold fillMeta
  dsimp only
  split
  · rfl
  · split <;> rfl

theorem foldl_fills (l : List MetaEntry) (s : State) : FillMoves s (l.foldl fillMeta s) := by
  induction l generalizing s with
  | nil => exact .refl s
  | cons e l ih => exact (fillMeta_fills s e).trans (ih _)

theorem fillPath_fills (p block : Nat) (s : State) : FillMoves s (fillPath p block s) := foldl_fills ..

/-- A visit reads a block without a fault, and changes nothing. -/
theorem visitBlock_clean (quiet : s.fc.inj.remaining = 0) (p block : Nat) : visitBlock p [] s block = s := by
  simp [visitBlock, injected_off quiet]

/-- A visit that finds nothing wrong verifies its group. -/
theorem checkVisit_agree (quiet : s.fc.inj.remaining = 0) (p g a : Nat) :
    checkVisit p g [] a .agree s =
      (.good, fillPath p (16 * g + 8) (fillPath p (16 * g) (fillPath p (16 * g + a % 16) s))) := by
  have read := List.foldl_fixed' (fun b => visitBlock_clean quiet p b) ((List.range 16).map fun j => 16 * g + j)
  simp only [checkVisit, read, judge, ite_self]

theorem checkVisit_fills (quiet : s.fc.inj.remaining = 0) (p g a : Nat) : FillMoves s (checkVisit p g [] a .agree s).2 := by
  rw [checkVisit_agree quiet]
  exact (fillPath_fills ..).trans ((fillPath_fills ..).trans (fillPath_fills ..))

/-! ### A visit of a group (R302) -/

theorem foldl_tree {α : Type} {f : State → α → State} (each : ∀ s a, TreeMoves s (f s a)) (l : List α) (s : State) :
    TreeMoves s (l.foldl f s) := by
  induction l generalizing s with
  | nil => exact .refl s
  | cons a l ih => exact (each s a).trans (ih _)

theorem TreeMoves.rekeys (h : TreeMoves s t) : t.mi.rekeys = s.mi.rekeys := (congrArg Protect.rekeys h.mi :)

theorem TreeMoves.of_putCounter {b : CounterBlock} (h : TreeMoves (putCounter p g b s) t) : { t.mi with
    nodes := s.mi.nodes, mirrors := s.mi.mirrors, pcs := s.mi.pcs, counters := s.mi.counters } = s.mi :=
  congrArg (fun x : Protect => { x with counters := s.mi.counters }) h.mi

/-- The group's counter block under a re-key's generation. -/
def rekeyedBlock (target : Nat) (b : CounterBlock) : CounterBlock :=
  { b with gen := target, major := 0, minors := freshMinors b.minors }

theorem rekeyGroup_done (done : (cblock s p g).gen = w.target) : rekeyGroup p g w.target s = s := by
  simp [rekeyGroup, done]

theorem rekeyGroup_other (other : (cblock s p g).gen ≠ w.target) :
    rekeyGroup p g w.target s = setBlock p g (rekeyedBlock w.target (cblock s p g)) s := by
  simp [rekeyGroup, other, rekeyedBlock]

theorem rekeyGroup_pcState (q : Nat) : { pcState (rekeyGroup p g w.target s) q with root := (pcState s q).root } = pcState s q := by
  by_cases gen : (cblock s p g).gen = w.target
  · rw [rekeyGroup_done gen]
  · rw [rekeyGroup_other gen]
    exact (setBlock_tree p g _ s).pc q

theorem rekeyGroup_mi : { (rekeyGroup p g w.target s).mi with
    nodes := s.mi.nodes, mirrors := s.mi.mirrors, pcs := s.mi.pcs, counters := s.mi.counters } = s.mi := by
  by_cases gen : (cblock s p g).gen = w.target
  · rw [rekeyGroup_done gen]
  · rw [rekeyGroup_other gen]
    exact (setBlock_tree p g _ s).of_putCounter

theorem rekeyGroup_coh : (rekeyGroup p g w.target s).coh = s.coh := by
  by_cases gen : (cblock s p g).gen = w.target
  · rw [rekeyGroup_done gen]
  · rw [rekeyGroup_other gen]
    exact (setBlock_moves p g _ s).coh

/-- A sweep without group `g` to visit at once or to rebuild. -/
def withoutGroup (g : Nat) (w : Sweep) : Sweep :=
  { w with first := w.first.filter (fun i => i ≠ g), lost := w.lost.filter fun i => i ≠ g }

/-- A PC's state without group `g` among those of its sweep. -/
def sweepWithout (g : Nat) (x : PcState) : PcState := { x with sweep := x.sweep.map (withoutGroup g) }

/-- A PC's state without the posted writes of group `g`. -/
def parkedWithout (g : Nat) (x : PcState) : PcState := { x with parked := x.parked.filter fun w => groupOf w.line ≠ g }

/-- A PC's state after the visit of group `g`. -/
def visited (g : Nat) (x : PcState) : PcState := parkedWithout g (sweepWithout g x)

theorem sweepWithout_gen (g : Nat) (x : PcState) : (sweepWithout g x).gen = x.gen := rfl
theorem parkedWithout_gen (g : Nat) (x : PcState) : (parkedWithout g x).gen = x.gen := rfl

/-- A visit of a group that needs no rebuilding and has no posted write. -/
theorem visitRekey_eq (kept : groupLost s p g = false) (mine : g ∉ w.lost)
    (none : ∀ x ∈ (pcState s p).parked, groupOf x.line ≠ g) :
    visitRekey p g w s = modPc p (parkedWithout g) (modPc p (sweepWithout g) (rekeyGroup p g w.target s)) := by
  have parked : (pcState (rekeyGroup p g w.target s) p).parked = (pcState s p).parked :=
    (congrArg PcState.parked (rekeyGroup_pcState p) :)
  have waits : ((pcState (dropFirst p g (rekeyGroup p g w.target s)) p).parked.filter fun w => groupOf w.line == g) = [] := by
    rw [dropFirst, pcState_modPc, if_pos rfl]
    exact List.filter_eq_nil_iff.mpr fun x mem => by simp [none x (parked ▸ mem)]
  simp only [visitRekey, List.contains_iff_mem, mine, kept, Bool.false_eq_true, if_false, unpark, waits, List.foldl_nil]
  rfl

theorem visitRekey_pcState (kept : groupLost s p g = false) (mine : g ∉ w.lost)
    (none : ∀ x ∈ (pcState s p).parked, groupOf x.line ≠ g) :
    { pcState (visitRekey p g w s) p with root := (pcState s p).root } = visited g (pcState s p) := by
  rw [visitRekey_eq kept mine none, pcState_modPc, if_pos rfl, pcState_modPc, if_pos rfl]
  exact congrArg (visited g) (rekeyGroup_pcState p)

theorem visitRekey_mi (kept : groupLost s p g = false) (mine : g ∉ w.lost)
    (none : ∀ x ∈ (pcState s p).parked, groupOf x.line ≠ g) : { (visitRekey p g w s).mi with
      nodes := s.mi.nodes, mirrors := s.mi.mirrors, pcs := s.mi.pcs, counters := s.mi.counters } = s.mi := by
  rw [visitRekey_eq kept mine none, modPc_mi, modPc_mi]
  exact rekeyGroup_mi

/-- It re-keys its group, and leaves memory and the caches. -/
theorem visitRekey_group (kept : groupLost s p g = false) (mine : g ∉ w.lost)
    (none : ∀ x ∈ (pcState s p).parked, groupOf x.line ≠ g) : (visitRekey p g w s).mi.mem = s.mi.mem ∧
      (visitRekey p g w s).coh = s.coh ∧
      ((cblock s p g).gen ≠ w.target → cblock (visitRekey p g w s) p g = rekeyedBlock w.target (cblock s p g)) := by
  refine ⟨(congrArg Protect.mem (visitRekey_mi kept mine none) :), ?_, fun other => ?_⟩
  · rw [visitRekey_eq kept mine none]
    exact rekeyGroup_coh
  · rw [visitRekey_eq kept mine none, cblock_modPc (parkedWithout_gen g), cblock_modPc (sweepWithout_gen g),
      rekeyGroup_other other, cblock_setBlock_self]

/-! ### The sweep's boundary and its end (R302, R304) -/

/-- A visit of the boundary's group, which has been verified. -/
theorem rekeyVisit_boundary {lost : List Nat} {a : Nat} {r : VerifyResult} {u : State} (first : w.first = []) (none : w.lost = [])
    (kept : groupLost s p w.boundary = false) (good : checkVisit p w.boundary lost a r s = (.good, u)) :
    rekeyVisit p w lost a r s =
      (let v := skipDone p ((stepBoundary p (visitRekey p w.boundary w u)).mi.counters.length + 1)
        (stepBoundary p (visitRekey p w.boundary w u))
       if (pcState v p).sweep.any rekeyOver then nextSweep p (endRekey p w.target v) else v) := by
  simp [rekeyVisit, nextGroup, first, none, kept, good]

theorem skipDone_over {n : Nat} (last : ∀ w, (pcState s p).sweep = some w → groupCount ≤ w.boundary) : skipDone p n s = s := by
  cases n with
  | zero => rfl
  | succ n =>
    unfold skipDone
    cases sweep : (pcState s p).sweep with
    | none => rfl
    | some w =>
      have over_ : ¬ w.boundary < groupCount := Nat.not_lt.mpr (last w sweep)
      simp [over_]

/-- A PC's state without its tree's root. -/
def rootless (x : PcState) : PcState := { x with root := none }

/-- The trees without a PC's nodes. -/
def withoutNodes (p : Nat) (s : State) : State :=
  { s with mi := { s.mi with nodes := s.mi.nodes.filter fun e => e.1 / 2 ^ 21 ≠ p
                             mirrors := s.mi.mirrors.filter fun e => e.1 / 2 ^ 21 ≠ p } }

theorem withoutNodes_tree (p : Nat) (s : State) : TreeMoves s (withoutNodes p s) := ⟨rfl, fun _ => rfl⟩

theorem rootless_tree (p : Nat) (s : State) : TreeMoves s (modPc p rootless s) := by
  refine ⟨rfl, fun q => ?_⟩
  rw [pcState_modPc]
  split
  · next same =>
    rw [same]
    rfl
  · rfl

theorem rebuildTree_eq (p : Nat) (s : State) : rebuildTree p s =
    (s.mi.counters.filter fun c => c.1 / 2 ^ 18 = p).foldl (fun s c => putPath p 6 0 (c.1 % 2 ^ 18) (blockBytes c.2) s)
      (modPc p rootless (withoutNodes p s)) := rfl

theorem rebuildTree_tree (p : Nat) (s : State) : TreeMoves s (rebuildTree p s) := by
  rw [rebuildTree_eq]
  exact (withoutNodes_tree p s).trans ((rootless_tree p _).trans (foldl_tree (fun s c => putPath_tree _ _ _ _ _ s) _ _))

/-- A re-key counted, and its blocks that hold nothing but the new generation unlisted. -/
def rekeyCounted (p target : Nat) (s : State) : State :=
  { s with mi := { s.mi with rekeys := satAdd 32 s.mi.rekeys 1,
                             counters := s.mi.counters.filter fun c => ¬(c.1 / 2 ^ 18 = p ∧ c.2 = { gen := target }) } }

theorem pcState_rekeyCounted (p target : Nat) (s : State) (q : Nat) : pcState (rekeyCounted p target s) q = pcState s q := rfl
theorem rekeyCounted_mem (p target : Nat) (s : State) : (rekeyCounted p target s).mi.mem = s.mi.mem := rfl
theorem rekeyCounted_rekeys (p target : Nat) (s : State) : (rekeyCounted p target s).mi.rekeys = satAdd 32 s.mi.rekeys 1 := rfl

theorem endRekey_tree (p target : Nat) (s : State) :
    TreeMoves (rekeyCounted p target (modPc p (fun x => { x with gen := target, sweep := none }) s)) (endRekey p target s) :=
  rebuildTree_tree p _

theorem endRekey_pcState (p target : Nat) (s : State) : { pcState (endRekey p target s) p with root := (pcState s p).root } =
    { pcState s p with gen := target, sweep := none } := by
  have ended := (endRekey_tree p target s).pc p
  rw [pcState_rekeyCounted, pcState_modPc, if_pos rfl] at ended
  exact ended

theorem nextSweep_none (none : (pcState s p).queued = []) : nextSweep p s = s := by
  simp [nextSweep, none]

/-- A boundary one further. -/
def boundaryNext (x : PcState) : PcState := { x with sweep := x.sweep.map fun w => { w with boundary := w.boundary + 1 } }

theorem stepBoundary_eq (p : Nat) (s : State) : stepBoundary p s = modPc p boundaryNext s := rfl

/-- A sweep that has neither groups to visit at once nor groups to rebuild stays as it is. -/
theorem withoutGroup_boundary (first : w.first = []) (none : w.lost = []) (g : Nat) : withoutGroup g w = w := by
  obtain ⟨kind, boundary, target, first', lost'⟩ := w
  subst first none
  rfl

/-- The protection state of a PC after the last visit of its re-key. -/
theorem lastVisit_pcState {u : State} (fills : FillMoves s u) (sweep : (pcState s p).sweep = some w) (first : w.first = [])
    (none : w.lost = []) (kept : groupLost u p w.boundary = false) (parked : (pcState s p).parked = []) :
    { pcState (stepBoundary p (visitRekey p w.boundary w u)) p with root := (pcState s p).root } =
      { pcState s p with sweep := some { w with boundary := w.boundary + 1 } } := by
  have waits : ∀ x ∈ (pcState u p).parked, groupOf x.line ≠ w.boundary := by
    rw [fills.pcState, parked]
    exact fun x mem => absurd mem List.not_mem_nil
  have visit := visitRekey_pcState kept (by rw [none]; exact List.not_mem_nil) waits
  rw [fills.pcState] at visit
  rw [stepBoundary_eq, pcState_modPc, if_pos rfl]
  refine (congrArg boundaryNext visit).trans ?_
  simp [boundaryNext, visited, parkedWithout, sweepWithout, sweep, parked, withoutGroup_boundary first none]

/-- The last visit of a re-key gives the PC its new generation, and ends the sweep. -/
theorem rekeyVisit_last {a : Nat} (quiet : s.fc.inj.remaining = 0) (sweep : (pcState s p).sweep = some w) (first : w.first = [])
    (none : w.lost = []) (last : w.boundary + 1 = groupCount) (queued : (pcState s p).queued = [])
    (parked : (pcState s p).parked = []) : genOf (rekeyVisit p w [] a .agree s) p = w.target ∧
      (pcState (rekeyVisit p w [] a .agree s) p).sweep = Option.none ∧
      (rekeyVisit p w [] a .agree s).mi.rekeys = satAdd 32 s.mi.rekeys 1 ∧
      (rekeyVisit p w [] a .agree s).mi.mem = s.mi.mem := by
  have fills := checkVisit_fills quiet p w.boundary a
  have good : checkVisit p w.boundary [] a .agree s = (.good, (checkVisit p w.boundary [] a .agree s).2) := by
    rw [checkVisit_agree quiet]
  generalize (checkVisit p w.boundary [] a .agree s).2 = u at fills good
  have safe : groupLost s p w.boundary = false := by simp [groupLost, sweepsOf, sweep, queued, none]
  have safe' : groupLost u p w.boundary = false := by
    rw [groupLost, fills.pcState]
    exact safe
  have visit := lastVisit_pcState fills sweep first none safe' parked
  have waits : ∀ x ∈ (pcState u p).parked, groupOf x.line ≠ w.boundary := by
    rw [fills.pcState, parked]
    exact fun x mem => absurd mem List.not_mem_nil
  have mi := visitRekey_mi (w := w) safe' (by rw [none]; exact List.not_mem_nil) waits
  rw [rekeyVisit_boundary first none safe good]
  generalize hv : stepBoundary p (visitRekey p w.boundary w u) = v at visit
  have memory : v.mi.mem = s.mi.mem := by
    rw [← hv, stepBoundary_eq, modPc_mi]
    exact (congrArg Protect.mem mi :).trans fills.mem
  have count : v.mi.rekeys = s.mi.rekeys := by
    rw [← hv, stepBoundary_eq, modPc_mi]
    exact (congrArg Protect.rekeys mi :).trans fills.rekeys
  have ends : (pcState v p).sweep = some { w with boundary := w.boundary + 1 } := (congrArg PcState.sweep visit :)
  have over_ : ∀ x, (pcState v p).sweep = some x → groupCount ≤ x.boundary := fun x hx => by
    rw [ends] at hx
    cases hx
    exact Nat.le_of_eq last.symm
  have done : (pcState v p).sweep.any rekeyOver = true := by simp [ends, rekeyOver, first, none, last]
  have ended := endRekey_pcState p w.target v
  have next_ : (pcState (endRekey p w.target v) p).queued = [] :=
    (congrArg PcState.queued ended :).trans ((congrArg PcState.queued visit :).trans queued)
  have tree := endRekey_tree p w.target v
  simp only [skipDone_over over_, done, if_true, nextSweep_none next_]
  refine ⟨(congrArg PcState.gen ended :), (congrArg PcState.sweep ended :), ?_, ?_⟩
  · rw [tree.rekeys, rekeyCounted_rekeys, modPc_mi, count]
  · rw [tree.mem, rekeyCounted_mem, modPc_mi, memory]

/-! ### The end of a scrub (R306) -/

theorem memGet_filter (m : List Host.Cell) (p a : Nat) :
    memGet (m.filter fun c => c.1 / 2 ^ 30 ≠ p) a = if a / 2 ^ 30 = p then 0 else memGet m a := by
  induction m with
  | nil => simp [memGet]
  | cons c m ih =>
    obtain ⟨i, b⟩ := c
    by_cases mine : i / 2 ^ 30 = p
    · rw [List.filter_cons_of_neg (by simpa using mine), ih, memGet]
      split
      · rfl
      · next other => rw [if_neg fun e : i = a => other (e ▸ mine)]
    · rw [List.filter_cons_of_pos (by simpa using mine), memGet, memGet, ih]
      split
      · next same => rw [if_neg (same ▸ mine)]
      · rfl

theorem tfind_filter_none {α : Type} {t : Tab α} {f : Nat × α → Bool} {k : Nat} (out : ∀ a, f (k, a) = false) :
    tfind (t.filter f) k = none := by
  induction t with
  | nil => rfl
  | cons c t ih =>
    obtain ⟨i, b⟩ := c
    by_cases keep : f (i, b) = true
    · have other : i ≠ k := fun e => by simp [e, out] at keep
      rw [List.filter_cons_of_pos keep, tfind, if_neg other, ih]
    · rw [List.filter_cons_of_neg keep, ih]

/-- A PC cleared, under a generation. -/
def clearedPc (gen : Nat) (x : PcState) : PcState :=
  { x with gen := gen, present := 0, sweep := none, queued := [], parked := [], junk := none, sure := [] }

/-- Memory, counters and cached metadata without those of a PC. -/
def withoutPc (p : Nat) (s : State) : State :=
  { s with mi := { s.mi with mem := s.mi.mem.filter (fun c => c.1 / 2 ^ 30 ≠ p),
                             counters := s.mi.counters.filter (fun c => c.1 / 2 ^ 18 ≠ p),
                             cache := s.mi.cache.filter fun e => e.pc ≠ p } }

theorem withoutPc_mem (p : Nat) (s : State) : (withoutPc p s).mi.mem = s.mi.mem.filter fun c => c.1 / 2 ^ 30 ≠ p := rfl
theorem withoutPc_counters (p : Nat) (s : State) : (withoutPc p s).mi.counters = s.mi.counters.filter fun c => c.1 / 2 ^ 18 ≠ p := rfl
theorem pcState_withoutPc (p : Nat) (s : State) (q : Nat) : pcState (withoutPc p s) q = pcState s q := rfl

theorem clearPc_tree (p gen : Nat) (s : State) : TreeMoves (withoutPc p (modPc p (clearedPc gen) s)) (clearPc p gen s) :=
  rebuildTree_tree p _

theorem clearPc_pcState (p gen : Nat) (s : State) :
    { pcState (clearPc p gen s) p with root := (pcState s p).root } = clearedPc gen (pcState s p) := by
  have cleared := (clearPc_tree p gen s).pc p
  rw [pcState_withoutPc, pcState_modPc, if_pos rfl] at cleared
  exact cleared

theorem cblock_clearPc {gen : Nat} (bound : g < 2 ^ 18) : cblock (clearPc p gen s) p g = { gen := gen } := by
  have gen' : genOf (clearPc p gen s) p = gen := (congrArg PcState.gen (clearPc_pcState p gen s) :)
  have out : ∀ b : CounterBlock, (fun c : Nat × CounterBlock => decide (c.1 / 2 ^ 18 ≠ p)) (pkey 18 p g, b) = false := fun b =>
    decide_eq_false (not_not.mpr (show (p * 2 ^ 18 + g) / 2 ^ 18 = p by omega))
  rw [cblock, (clearPc_tree p gen s).counters, withoutPc_counters, tfind_filter_none out, gen', Option.getD_none]

theorem memGet_clearPc (p gen : Nat) (s : State) (a : Nat) :
    memGet (clearPc p gen s).mi.mem a = if a / 2 ^ 30 = p then 0 else memGet s.mi.mem a := by
  rw [(clearPc_tree p gen s).mem, withoutPc_mem, modPc_mi, memGet_filter]

/-- A scrub's end, counted, with its PC ready in the stock. -/
def scrubCounted (p : Nat) (s : State) : State :=
  { s with mi := { s.mi with scrubs := satAdd 32 s.mi.scrubs 1 }, ps := { s.ps with pendPcs := setBit s.ps.pendPcs p false } }

theorem scrubEndSt_ends (up : live s = true) (sweep : (pcState s p).sweep = some w) (scrub : w.kind = .scrub) :
    scrubEndSt p s = scrubCounted p (clearPc p w.target s) := by
  simp only [scrubEndSt, sweep, scrub, up]
  rfl

theorem scrubEndSt_none (none : (pcState s p).sweep = none) : scrubEndSt p s = s := by
  simp [scrubEndSt, none]

theorem pcState_scrubCounted (p : Nat) (s : State) (q : Nat) : pcState (scrubCounted p s) q = pcState s q := rfl
theorem cblock_scrubCounted (p : Nat) (s : State) (q g : Nat) : cblock (scrubCounted p s) q g = cblock s q g := rfl
theorem scrubCounted_mem (p : Nat) (s : State) : (scrubCounted p s).mi.mem = s.mi.mem := rfl
theorem scrubCounted_scrubs (p : Nat) (s : State) : (scrubCounted p s).mi.scrubs = satAdd 32 s.mi.scrubs 1 := rfl
theorem scrubCounted_pend (p : Nat) (s : State) : (scrubCounted p s).ps.pendPcs = setBit s.ps.pendPcs p false := rfl

/-- What a scrub leaves of its PC. -/
theorem scrub_leaves (p : Nat) (w : Sweep) (s : State) : genOf (scrubCounted p (clearPc p w.target s)) p = w.target ∧
    (pcState (scrubCounted p (clearPc p w.target s)) p).present = 0 ∧
    (pcState (scrubCounted p (clearPc p w.target s)) p).sweep = none ∧
    (scrubCounted p (clearPc p w.target s)).mi.scrubs = satAdd 32 s.mi.scrubs 1 := by
  have cleared := clearPc_pcState p w.target s
  have scrubs : (clearPc p w.target s).mi.scrubs = s.mi.scrubs := (congrArg Protect.scrubs (clearPc_tree p w.target s).mi :)
  refine ⟨?_, ?_, ?_, ?_⟩
  · rw [genOf, pcState_scrubCounted]
    exact (congrArg PcState.gen cleared :)
  · rw [pcState_scrubCounted]
    exact (congrArg PcState.present cleared :)
  · rw [pcState_scrubCounted]
    exact (congrArg PcState.sweep cleared :)
  · rw [scrubCounted_scrubs, scrubs]

/-! ### The end of a way's sweep and of a key ID's walk (R128, R309) -/

theorem waySweepSt_ready {sl way : Nat} (up : live s = true) (slice : sl < 40) (bound : way < 32) : waySweepSt sl way s =
    { s with ps := { s.ps with pendWays := setBit s.ps.pendWays (32 * sl + way) false } } := by
  simp [waySweepSt, up, slice, bound]

theorem endFlush_empty {k : Nat} {r : KeyRec} {c : CmdRef} (some_ : k ≠ 0) (keys : s.mi.keys = [(k, r)])
    (flushing : r.state = .flushing) (none : s.coh.lines = []) (cmd : s.mi.flushCmd = [(k, c)]) :
    endFlush s k = complete c { st := .ok } { s with
      mi := { s.mi with keys := [(k, { r with state := .flushed })], flushCmd := [] } } := by
  have found : keyRec s k = r := by simp [keyRec, some_, keys, tget]
  have lines : keyLines s k = [] := by simp [keyLines, none]
  simp [endFlush, found, flushing, lines, cmd, tfind, endCmd, setKey, keys, tmod, tput, tget, tdel]

end

/-- Settles O35: the visits of a re-key by its boundary, a scrub by what it clears, a way and a key ID by their records. -/
theorem sweepsAndWalksEnd : Obligations.SweepsAndWalksEnd := by
  refine ⟨fun p w a r u x v s up sweep rekey first none kept good hx hv => settles ?_,
    fun p g a s quiet => ?_, fun p w a s up quiet sweep rekey first none last queued parked => ?_,
    fun p g w s kept mine none => visitRekey_group kept mine none, fun p l a r s none => ⟨settles ?_, settles (scrubEndSt_none none)⟩,
    fun p w s up sweep scrub bound => ?_, fun sl way s up slice bound => settles (waySweepSt_ready up slice bound),
    fun k r c s up some_ keys flushing none cmd => settles ?_⟩
  · subst hx hv
    simp only [up, if_true, visitSt, sweep, rekey, rekeyVisit_boundary first none kept good]
  · have fills := checkVisit_fills quiet p g a
    refine ⟨?_, fills.mem, fills.counters, fills.pcs⟩
    rw [checkVisit_agree quiet]
  · refine ⟨rekeyVisit p w [] a .agree s, settles ?_, rekeyVisit_last quiet sweep first none last queued parked⟩
    simp only [up, if_true, visitSt, sweep, rekey]
  · simp [visitSt, none]
  · obtain ⟨gen, present, ended, count⟩ := scrub_leaves p w s
    refine ⟨_, settles (scrubEndSt_ends up sweep scrub), gen, present, ended, count, ?_, fun g low => ?_, fun a mine => ?_,
      fun a other => ?_⟩
    · rw [scrubCounted_pend, getLsbD_setBit _ _ _ bound, if_pos rfl]
    · rw [cblock_scrubCounted, cblock_clearPc low]
    · rw [scrubCounted_mem, memGet_clearPc, if_pos mine]
    · rw [scrubCounted_mem, memGet_clearPc, if_neg other]
  · simp only [up, if_true, keys, List.map_cons, List.map_nil, List.foldl_cons, List.foldl_nil]
    exact endFlush_empty some_ keys flushing none cmd

end Sys2Proof.Machine
end

section
/-!
SUPPORT. Blocks that return from memory, and what their verification finds and leaves (R65, R67, R68, R259, R288 to R290, R296 to
R298, R303, R427, R435).
-/
namespace Sys2Proof.Machine
open Sys2Proof

section
variable {s t : State} {pc b k : Nat}

/-- What leaves the state for each element of a list leaves it for the list. -/
theorem foldl_fixed_mem {α σ : Type} {f : σ → α → σ} {l : List α} {x : σ} (fixed : ∀ a ∈ l, f x a = x) : l.foldl f x = x := by
  induction l with
  | nil => rfl
  | cons a l ih =>
    rw [List.foldl_cons, fixed a List.mem_cons_self]
    exact ih fun c mem => fixed c (List.mem_cons_of_mem a mem)

/-! ### The port of a slice (R434, R439) -/

theorem stepParity_clean (quiet : s.fc.inj.remaining = 0) (u id : Nat) : stepParity u id (decide (1 ≤ 0)) s = (false, s) := by
  unfold stepParity
  cases findStep s id <;> simp [parityCheck, injected_off quiet]

/-- Data without a parity error reaches its slice whole. -/
theorem blockParity_clean (quiet : s.fc.inj.remaining = 0) (pc b : Nat) (st : Option Nat) :
    blockParity pc b st 0 s = (false, false, s) := by
  have fed : ∀ l : List Nat, l.foldl (fun (acc : Bool × State) id =>
      let (hit, t) := stepParity (sliceUnit (sliceOf pc)) id (1 ≤ 0) acc.2
      (acc.1 || hit, t)) (false, s) = (false, s) := fun l => foldl_fixed_mem fun id _ => by
    simp only [stepParity_clean quiet, Bool.or_self]
  unfold blockParity
  dsimp only
  split
  · rw [transfer_whole quiet]
  · rw [fed]

/-! ### Delivery (R259, R290) -/

theorem finishFetch_idle (none : awaits s k = false) (bad : Bool) : finishFetch k bad s = s := by
  unfold awaits at none
  unfold finishFetch
  dsimp only
  split
  · next x trans =>
    have other : ¬ x.kind = .f := by simpa [trans] using none
    simp [other]
  · rfl

/-- A block that only a step waits for, with its lines resident, is noted as not yet verified. -/
theorem deliver_step (resident : ∀ k ∈ blockLines pc b, awaits s k = false ∧ (llc s k).hstate ≠ .i) (id : Nat) (bad : Bool)
    (dpa way : Nat) : deliver pc b (some id) bad dpa way s = modStep id (stepRead pc b bad dpa)
      { s with mi := { s.mi with reads := s.mi.reads ++ [{ pc := pc, block := b, poisoned := bad, step := some id }] } } := by
  unfold deliver
  dsimp only
  generalize ht : modStep id (stepRead pc b bad dpa)
    { s with mi := { s.mi with reads := s.mi.reads ++ [{ pc := pc, block := b, poisoned := bad, step := some id }] } } = t
  have lines : t.coh.lines = s.coh.lines := by
    rw [← ht]
    rfl
  have waits : ∀ k ∈ blockLines pc b, ((llc t k).trans.any fun x => x.kind == .f && !mustVerify x.item) = false :=
    fun k mem => by
      obtain ⟨none, -⟩ := resident k mem
      unfold awaits at none
      rw [llc_congr lines]
      cases trans : (llc s k).trans with
      | none => rfl
      | some x => simp_all
  have fetched := foldl_fixed_mem (f := fun s k =>
    if (llc s k).trans.any (fun t => t.kind == .f && !mustVerify t.item) then finishFetch k bad s else s) (x := t)
    (l := blockLines pc b) fun k mem => by simp [waits k mem]
  rw [fetched]
  refine foldl_fixed_mem fun k mem => ?_
  obtain ⟨-, held⟩ := resident k mem
  unfold install
  dsimp only
  rw [llc_congr lines]
  simp [held]

theorem stepRead_good (pc b dpa : Nat) : stepRead pc b false dpa = fun t => { t with unverified := t.unverified ++ [(pc, b)] } := by
  funext t
  simp [stepRead]

/-- A return that serves nothing changes nothing. -/
theorem dataReturnSt_none {st : Option Nat} (serves : readServes s pc b st = false) (own : ownReads s pc b = false)
    (unc : BitVec 4) (way par : Nat) : dataReturnSt pc b st unc way par s = s := by
  simp [dataReturnSt, serves, own]

theorem dataReturnSt_good (up : live s = true) (quiet : s.fc.inj.remaining = 0) {st : Option Nat}
    (serves : readServes s pc b st = true) (way : Nat) :
    dataReturnSt pc b st 0 way 0 s = deliver pc b st false (blockDpa s pc b) way s := by
  simp [dataReturnSt, up, serves, blockParity_clean quiet, injected_off quiet]

/-- The report of an uncorrectable block (R296). -/
def memUe (s : State) (pc b : Nat) : FMsg :=
  { source := sliceUnit (sliceOf pc), kind := 0x10, address := memLoc pc (256 * b), detail := blockDpa s pc b
    part := pcOwner s.ps.active pc, injected := false }

theorem dataReturnSt_bad (up : live s = true) (quiet : s.fc.inj.remaining = 0) {id : Nat}
    (serves : readServes s pc b (some id) = true) {unc : BitVec 4} (bad : unc ≠ 0) (way : Nat) :
    dataReturnSt pc b (some id) unc way 0 s = deliver pc b (some id) true (blockDpa s pc b) way (report (memUe s pc b) s) := by
  have wrong : (unc != 0) = true := bne_iff_ne.mpr bad
  simp only [dataReturnSt, up, serves, blockParity_clean quiet, injected_off quiet, wrong, memUe]
  simp

theorem exists_step_of_readServes {id : Nat} (serves : readServes s pc b (some id) = true) : ∃ t, findStep s id = some t := by
  simp only [readServes, Option.any_eq_true] at serves
  obtain ⟨t, found, -⟩ := serves
  exact ⟨t, found⟩

/-- The first element that an update changes is found changed. -/
theorem find?_modFirst {α : Type} {p : α → Bool} {f : α → α} {l : List α} {a : α} (found : l.find? p = some a)
    (still : p (f a) = true) : (modFirst p f l).find? p = some (f a) := by
  induction l with
  | nil => simp at found
  | cons c l ih =>
    unfold modFirst
    cases hit : p c with
    | true =>
      have same : c = a := by simpa [List.find?_cons, hit] using found
      subst same
      simp [still]
    | false =>
      have later : l.find? p = some a := by simpa [List.find?_cons, hit] using found
      simp [hit, ih later]

/-- An uncorrectable line poisons the block for its step, and is reported. -/
theorem poisons_step {id : Nat} (serves : readServes s pc b (some id) = true)
    (resident : ∀ k ∈ blockLines pc b, awaits s k = false ∧ (llc s k).hstate ≠ .i) (m : FMsg) (dpa way : Nat) :
    (∃ x, findStep (deliver pc b (some id) true dpa way (report m s)) id = some x ∧ x.poisoned = true ∧ (pc, b) ∈ x.unverified) ∧
      ∃ r ∈ (deliver pc b (some id) true dpa way (report m s)).fc.bbr, r.Names m := by
  have lines : ∀ k, llc (report m s) k = llc s k := fun k => by simp only [llc, report_coh]
  rw [deliver_step (fun k mem => by simpa only [awaits, lines] using resident k mem)]
  refine ⟨?_, exists_names_report m s⟩
  obtain ⟨t, found⟩ := exists_step_of_readServes serves
  have found' : (report m s).steps.find? (fun t => t.id == id) = some t := by rw [report_steps]; exact found
  have match_ := List.find?_some found'
  refine ⟨stepRead pc b true dpa t, ?_, by simp [stepRead], by simp [stepRead]⟩
  exact find?_modFirst found' (by simpa [stepRead] using match_)

/-! ### A line that waits in F (R259) -/

theorem drainAll_none (none : (llc s k).wait = []) : drainAll k s = s := by
  simp [drainAll, drain, none, takeFirst]

theorem finishItem_fetch {i : HomeItem} {l : LlcLine} (kind : i.kind = .rds ∨ i.kind = .rdu) (moves : l.trans ≠ none) :
    finishItem k i .f none (setLlc k l s) = toTile i.tile .dataE i.tag k
      (setLlc k { l with trans := none, hstate := .o, presence := BitVec.ofNat 64 (2 ^ i.tile) } s) := by
  have twice : setLlc k { l with trans := none, hstate := .o, presence := BitVec.ofNat 64 (2 ^ i.tile) } (setLlc k l s) =
      setLlc k { l with trans := none, hstate := .o, presence := BitVec.ofNat 64 (2 ^ i.tile) } s := by
    rw [setLlc_setLlc (.inr (.inl moves))]
    exact .inl nofun
  unfold finishItem
  rw [llc_setLlc_self (.inr (.inl moves))]
  obtain h | h := kind
  · rw [h]
    dsimp only
    rw [if_neg (by decide), twice]
  · rw [h]
    dsimp only
    rw [twice]

theorem finishFetch_answers {i : HomeItem} (state : (llc s k).hstate = .i) (empty : (llc s k).wait = [])
    (kind : i.kind = .rds ∨ i.kind = .rdu) (trans : (llc s k).trans = some { kind := .f, item := i }) :
    finishFetch k false s = toTile i.tile .dataE i.tag k (setLlc k { llc s k with
      trans := none, data := (readMem s k).1, poison := (readMem s k).2, hstate := .o,
      presence := BitVec.ofNat 64 (2 ^ i.tile) } s) := by
  have moves : ({ llc s k with data := (readMem s k).1, poison := (readMem s k).2 } : LlcLine).trans ≠ none := by simp [trans]
  have finished := finishItem_fetch (s := s) (k := k) kind moves
  have served : finishFetch k false s = drainAll k (finishItem k i .f none
      (setLlc k { llc s k with data := (readMem s k).1, poison := (readMem s k).2 } s)) := by
    simp [finishFetch, trans, state]
  rw [served, finished]
  refine drainAll_none ?_
  rw [llc_toTile, llc_setLlc_self]
  · exact empty
  · exact .inl nofun

/-! ### What ends with a read (R65, R299) -/

/-- What the end of a read changes: lines, steps, answers, the reads themselves, and nothing else of memory or the commit unit. -/
def ReadEnds (s t : State) : Prop :=
  { t with coh := s.coh, steps := s.steps, out := s.out, mi := { t.mi with reads := s.mi.reads, debugs := s.mi.debugs }
           cu := { t.cu with blocks := s.cu.blocks } } = s

namespace ReadEnds
variable {u : State}

theorem refl (s : State) : ReadEnds s s := rfl

theorem trans (st : ReadEnds s t) (tu : ReadEnds t u) : ReadEnds s u := by
  unfold ReadEnds at st tu
  rw [← tu] at st
  exact st

theorem halted (h : ReadEnds s t) : t.cu.halted = s.cu.halted := (congrArg (fun x : State => x.cu.halted) h :)
theorem bnd (h : ReadEnds s t) : t.bnd = s.bnd := (congrArg State.bnd h :)
theorem fc (h : ReadEnds s t) : t.fc = s.fc := (congrArg State.fc h :)
theorem pcs (h : ReadEnds s t) : t.mi.pcs = s.mi.pcs := (congrArg (fun x : State => x.mi.pcs) h :)
theorem counters (h : ReadEnds s t) : t.mi.counters = s.mi.counters := (congrArg (fun x : State => x.mi.counters) h :)
theorem treeLost (h : ReadEnds s t) : t.mi.treeLost = s.mi.treeLost := (congrArg (fun x : State => x.mi.treeLost) h :)
theorem treeLostBit (h : ReadEnds s t) : t.mi.treeLostBit = s.mi.treeLostBit :=
  (congrArg (fun x : State => x.mi.treeLostBit) h :)
theorem treeRepairs (h : ReadEnds s t) : t.mi.treeRepairs = s.mi.treeRepairs :=
  (congrArg (fun x : State => x.mi.treeRepairs) h :)

theorem of_foldl {α : Type} {f : State → α → State} (each : ∀ s a, ReadEnds s (f s a)) (l : List α) (s : State) :
    ReadEnds s (l.foldl f s) := by
  induction l generalizing s with
  | nil => exact refl s
  | cons a l ih => exact (each s a).trans (ih _)

end ReadEnds

/-- A read block's verification removed from what waits for it. -/
def readsEnded (pc b : Nat) (served : Bool) (s : State) : State :=
  { s with mi := { s.mi with reads := s.mi.reads.filter (fun r => !(r.pc == pc && r.block == b)),
                             debugs := if served then s.mi.debugs.filter (fun d => !(linePc d.key == pc && lineNo d.key / 4 == b))
                               else s.mi.debugs },
           cu := { s.cu with blocks := s.cu.blocks.filter fun x => x.2.2 ≠ (pc, b) },
           steps := s.steps.map fun t => { t with unverified := t.unverified.filter fun x => x ≠ (pc, b) } }

theorem endDebug_ends (bad : Bool) (s : State) (d : DebugRead) : ReadEnds s (endDebug bad s d) := rfl

theorem endDebugs_lines (bad : Bool) (l : List DebugRead) (s : State) : (l.foldl (endDebug bad) s).coh.lines = s.coh.lines :=
  foldl_same (f := endDebug bad) (fun s : State => s.coh.lines) (fun _ _ => rfl) l s

/-- Whether a block was read for someone but the Integrity Unit, and so read poisoned. -/
def readServed (s : State) (pc b : Nat) : Bool := s.mi.reads.any fun r => (r.pc == pc && r.block == b) && !r.own
def readPoisoned (s : State) (pc b : Nat) : Bool := s.mi.reads.any fun r => (r.pc == pc && r.block == b) && !r.own && r.poisoned

/-- The debug reads that end with a block's reads (R299). -/
def debugsEnded (s : State) (pc b : Nat) : List DebugRead :=
  if readServed s pc b then s.mi.debugs.filter fun d => linePc d.key == pc && lineNo d.key / 4 == b else []

/-- The end of a block's reads for which no line waits. -/
theorem endReads_idle (idle : ∀ k ∈ blockLines pc b, awaits s k = false) : endReads pc b s =
    (debugsEnded s pc b).foldl (endDebug (readPoisoned s pc b)) (readsEnded pc b (readServed s pc b) s) := by
  have fetched : ∀ bad, ((blockLines pc b).foldl (fun s k => finishFetch k bad s)
      ((debugsEnded s pc b).foldl (endDebug (readPoisoned s pc b)) (readsEnded pc b (readServed s pc b) s))) =
      (debugsEnded s pc b).foldl (endDebug (readPoisoned s pc b)) (readsEnded pc b (readServed s pc b) s) :=
    fun bad => foldl_fixed_mem fun k mem => finishFetch_idle (by
      have same := llc_congr (endDebugs_lines (readPoisoned s pc b) (debugsEnded s pc b) (readsEnded pc b (readServed s pc b) s)) k
      rw [awaits, same]
      exact idle k mem) bad
  exact (ite_congr rfl (fun _ => fetched _) fun _ => rfl).trans (ite_self _)

theorem readsEnded_ends (pc b : Nat) (served : Bool) (s : State) : ReadEnds s (readsEnded pc b served s) := rfl

theorem endReads_ends (idle : ∀ k ∈ blockLines pc b, awaits s k = false) : ReadEnds s (endReads pc b s) := by
  rw [endReads_idle idle]
  exact (readsEnded_ends ..).trans (.of_foldl (endDebug_ends _) _ _)

theorem endReads_quiet (idle : ∀ k ∈ blockLines pc b, awaits s k = false) (debugs : s.mi.debugs = []) :
    endReads pc b s = { s with
      mi := { s.mi with reads := s.mi.reads.filter fun r => !(r.pc == pc && r.block == b) }
      cu := { s.cu with blocks := s.cu.blocks.filter fun x => x.2.2 ≠ (pc, b) }
      steps := s.steps.map fun t => { t with unverified := t.unverified.filter fun x => x ≠ (pc, b) } } := by
  rw [endReads_idle idle]
  simp only [debugsEnded, debugs, List.filter_nil, ite_self, List.foldl_nil, readsEnded]

/-! ### A read that turns out poisoned (R296) -/

/-- A copy that only the LLC holds clean, poisoned. -/
def poisonCopy (s : State) (k : Nat) : State :=
  if (llc s k).hstate = .l && !(llc s k).dirty && (llc s k).trans.isNone then
    setLlc k { llc s k with data := 0, poison := true } s
  else s

theorem poisonCopy_ends (s : State) (k : Nat) : ReadEnds s (poisonCopy s k) := by
  unfold poisonCopy
  split <;> rfl

theorem poisonCopy_trans (s : State) (k j : Nat) : (llc (poisonCopy s k) j).trans = (llc s j).trans := by
  unfold poisonCopy
  split
  · next clean =>
    by_cases same : j = k
    · subst same
      simp only [Bool.and_eq_true, decide_eq_true_eq] at clean
      rw [llc_setLlc_self]
      exact .inl (by simp [clean.1.1])
    · rw [llc_setLlc_ne same]
  · rfl

theorem poisonCopies_trans (l : List Nat) (s : State) (j : Nat) : (llc (l.foldl poisonCopy s) j).trans = (llc s j).trans :=
  foldl_same (f := poisonCopy) (fun s : State => (llc s j).trans) (fun s k => poisonCopy_trans s k j) l s

/-- The steps that read a block marked poisoned. -/
def poisonSteps (pc b dpa : Nat) (s : State) : State :=
  { s with steps := s.steps.map fun t => if t.unverified.contains (pc, b) then
      { t with poisoned := true, poisonDpa := if t.poisoned then t.poisonDpa else dpa } else t }

/-- The reads of a block marked poisoned. -/
def poisonReads (pc b : Nat) (s : State) : State :=
  { s with mi := { s.mi with reads := s.mi.reads.map fun r =>
      if (r.pc == pc && r.block == b) then { r with poisoned := true } else r } }

theorem poisonRead_eq (pc b dpa : Nat) (s : State) :
    poisonRead pc b dpa s = poisonReads pc b ((blockLines pc b).foldl poisonCopy (poisonSteps pc b dpa s)) := by
  unfold poisonRead
  generalize blockLines pc b = l
  rfl

theorem poisonRead_ends (pc b dpa : Nat) (s : State) : ReadEnds s (poisonRead pc b dpa s) := by
  have steps : ReadEnds s (poisonSteps pc b dpa s) := rfl
  have reads : ∀ t, ReadEnds t (poisonReads pc b t) := fun _ => rfl
  rw [poisonRead_eq]
  exact steps.trans ((ReadEnds.of_foldl poisonCopy_ends _ _).trans (reads _))

theorem awaits_poisonRead (pc b dpa : Nat) (s : State) (k : Nat) : awaits (poisonRead pc b dpa s) k = awaits s k := by
  have reads : ∀ t, llc (poisonReads pc b t) k = llc t k := fun _ => rfl
  rw [awaits, poisonRead_eq, reads, poisonCopies_trans]
  rfl

/-! ### What the check of a block does (R289, R296 to R298, R303) -/

theorem injectedCheck_clean (quiet : s.fc.inj.remaining = 0) (pc b : Nat) : injectedCheck pc b s = (false, s) := by
  simp [injectedCheck, injected_off quiet]

/-- What follows from a block's check. -/
def afterCheck (pc b dpa : Nat) : Checked × State → State
  | (.good, s) => endReads pc b s
  | (.poison, s) => endReads pc b (poisonRead pc b dpa s)
  | (.lost, s) => endReads pc b (poisonRead pc b dpa s)
  | (.halted, s) => s

/-- A block is verified where someone waits for it and it did not read poisoned. -/
theorem verifySt_checks (up : live s = true) (quiet : s.fc.inj.remaining = 0)
    (mine : ∃ r ∈ s.mi.reads, r.pc = pc ∧ r.block = b ∧ r.poisoned = false) (v : VerifyResult) :
    verifySt pc b v s = afterCheck pc b (blockDpa s pc b) (judge pc b v s) := by
  obtain ⟨r, mem, hpc, hb, clean⟩ := mine
  have mem' : r ∈ s.mi.reads.filter fun r => r.pc == pc && r.block == b := List.mem_filter.mpr ⟨mem, by simp [hpc, hb]⟩
  have some_ : (s.mi.reads.filter fun r => r.pc == pc && r.block == b) ≠ [] := List.ne_nil_of_mem mem'
  have not_all : ((s.mi.reads.filter fun r => r.pc == pc && r.block == b).all fun r => r.poisoned) = false :=
    List.all_eq_false.mpr ⟨r, mem', by simp [clean]⟩
  unfold verifySt
  simp only [up, some_, not_all, injectedCheck_clean quiet, Bool.not_true, decide_false, Bool.or_self, Bool.false_eq_true, if_false]
  obtain ⟨c, t⟩ := judge pc b v s
  cases c <;> rfl

theorem verifySt_none (none : s.mi.reads = []) (v : VerifyResult) : verifySt pc b v s = s := by
  simp [verifySt, none]

theorem judge_agree (pc b : Nat) (s : State) : judge pc b .agree s = (.good, fillPath pc b s) := by
  simp only [judge, ite_self]

/-- A result of a level whose entry was trusted is none. -/
theorem judge_incredible {v : VerifyResult} (no : credible s pc b v = false) : judge pc b v s = judge pc b .agree s := by
  simp only [judge, no, Bool.false_eq_true, if_false, ite_self]

theorem judge_mismatch (yes : credible s pc b (.mismatch r) = true) : ∃ m : FMsg, judge pc b (.mismatch r) s = (.halted, memoryHalt m s) ∧
    m.kind = 0x12 ∧ m.source = sliceUnit (sliceOf pc) := by
  cases r with
  | none => exact ⟨_, by simp only [judge, yes, if_true]; rfl, rfl, rfl⟩
  | some l => exact ⟨_, by simp only [judge, yes, if_true]; rfl, rfl, rfl⟩

theorem judge_badGen {n : Nat} (yes : credible s pc b (.badGen n) = true) : ∃ m : FMsg, judge pc b (.badGen n) s =
    (.halted, memoryHalt m s) ∧ m.kind = 0x15 ∧ m.source = sliceUnit (sliceOf pc) :=
  ⟨_, by simp only [judge, yes, if_true]; rfl, rfl, rfl⟩

/-- A check that halts the device marks the retention SRAM invalid, and is reported. -/
theorem memoryHalt_halts (m : FMsg) (s : State) : (memoryHalt m s).cu.halted = true ∧ (memoryHalt m s).bnd.retentionValid = false ∧
    (memoryHalt m s).mi = s.mi ∧ ∃ r ∈ (memoryHalt m s).fc.bbr, r.Names m :=
  ⟨rfl, rfl, report_mi m s, exists_names_report m s⟩

/-! ### Reports below the last step of the ladder (R427) -/

theorem react_below {step : Nat} (low : step < 5) (m : FMsg) (s : State) :
    (react m step s).cu = s.cu ∧ (react m step s).bnd.retentionValid = s.bnd.retentionValid := by
  have irq : (if 1 ≤ step then msix .pf 62 s else s).cu = s.cu ∧ (if 1 ≤ step then msix .pf 62 s else s).bnd = s.bnd := by
    unfold msix
    split
    · split <;> exact ⟨rfl, rfl⟩
    · exact ⟨rfl, rfl⟩
  have chip : ∀ p t, (askChipReset p t).cu = t.cu ∧ (askChipReset p t).bnd.retentionValid = t.bnd.retentionValid := fun p t => by
    unfold askChipReset
    split <;> exact ⟨rfl, rfl⟩
  have block : ∀ t, (blockReset m t).cu = t.cu ∧ (blockReset m t).bnd.retentionValid = t.bnd.retentionValid := fun t => by
    unfold blockReset
    dsimp only
    split
    · exact ⟨rfl, rfl⟩
    · split <;> exact ⟨rfl, rfl⟩
    · split <;> exact ⟨rfl, rfl⟩
    · split
      · exact ⟨rfl, rfl⟩
      · split
        · exact ⟨rfl, rfl⟩
        · exact chip _ t
  obtain ⟨cu, bnd⟩ := irq
  unfold react
  generalize (if 1 ≤ step then msix .pf 62 s else s) = t at cu bnd ⊢
  rw [← cu, ← bnd]
  dsimp only
  split
  · exact ⟨rfl, rfl⟩
  · exact block t
  · exact chip _ t
  · omega
  · exact ⟨rfl, rfl⟩

/-- A report below the last step halts nothing. -/
theorem report_below {m : FMsg} (low : ladderStep (tget {} s.fc.src m.source) m.kind < 5) :
    (report m s).cu = s.cu ∧ (report m s).bnd.retentionValid = s.bnd.retentionValid := by
  unfold report
  split
  · exact ⟨rfl, rfl⟩
  · dsimp only
    have step : (if s.cu.halted || m.quiet then 0 else if m.injected && kindClass m.kind = .f then
        min (ladderStep (tget {} s.fc.src m.source) m.kind) 1 else ladderStep (tget {} s.fc.src m.source) m.kind) < 5 := by
      split
      · omega
      · split
        · omega
        · exact low
    obtain ⟨cu, valid⟩ := react_below step m _
    refine ⟨cu.trans ?_, valid.trans ?_⟩
    · split
      · split <;> rfl
      · rfl
    · split
      · split <;> rfl
      · rfl

/-! ### Metadata lost, and nodes taken from the mirror (R288, R297) -/

/-- The loss of metadata noted. -/
def noteLost (s : State) : State := { s with mi := { s.mi with treeLostBit := true, treeLost := satAdd 32 s.mi.treeLost 1 } }

theorem loseTree_eq (pc g level : Nat) (s : State) : loseTree pc g level s = startRekey pc [] (coveredGroups level g)
    (noteLost (report (sliceFault pc 0x14 (nodeLoc level g) (coveredGroups level g).length false s) s)) := rfl

/-- Lost metadata re-keys its PC. -/
theorem loseTree_rekeys {g level : Nat} (idle : (pcState s pc).sweep = none) (usable : (pcState s pc).exhausted = false)
    (room : genOf s pc < 0xFFFF) : loseTree pc g level s = modPc pc (rekeyBegun (genOf s pc + 1) [] (coveredGroups level g))
      (noteLost (report (sliceFault pc 0x14 (nodeLoc level g) (coveredGroups level g).length false s) s)) := by
  have same : ∀ m, pcState (noteLost (report m s)) pc = pcState s pc := fun m => by
    have noted : pcState (noteLost (report m s)) pc = pcState (report m s) pc := rfl
    rw [noted, pcState, report_mi, pcState]
  have gen : ∀ m, genOf (noteLost (report m s)) pc = genOf s pc := fun m => by rw [genOf, same, genOf]
  rw [loseTree_eq, startRekey_idle (by rw [same]; exact usable) (by rw [same]; exact idle) (by rw [gen]; exact room), gen]

theorem loseTree_halts_nothing {g level : Nat} (idle : (pcState s pc).sweep = none) (usable : (pcState s pc).exhausted = false)
    (room : genOf s pc < 0xFFFF) (low : ladderStep (tget {} s.fc.src (sliceUnit (sliceOf pc))) 0x14 < 5) :
    (loseTree pc g level s).mi.treeLostBit = true ∧
      (pcState (loseTree pc g level s) pc).sweep =
        some { kind := .rekey, target := genOf s pc + 1, lost := coveredGroups level g } ∧
      (loseTree pc g level s).mi.treeLost = satAdd 32 s.mi.treeLost 1 ∧ (loseTree pc g level s).cu.halted = s.cu.halted ∧
      (loseTree pc g level s).bnd.retentionValid = s.bnd.retentionValid ∧ (loseTree pc g level s).coh = s.coh := by
  rw [loseTree_rekeys idle usable room]
  obtain ⟨cu, valid⟩ := report_below (m := sliceFault pc 0x14 (nodeLoc level g) (coveredGroups level g).length false s) low
  have noted : ∀ t, (noteLost t).mi.treeLost = satAdd 32 t.mi.treeLost 1 := fun _ => rfl
  refine ⟨rfl, ?_, ?_, (congrArg CommitUnit.halted cu :), valid, report_coh _ s⟩
  · rw [pcState_modPc, if_pos rfl]
    rfl
  · rw [modPc_mi, noted, report_mi]

/-- A node rewritten from its mirror, counted. -/
def repaired (pc l b : Nat) (s : State) : State :=
  repairNode pc l (groupOf (4 * b) / 8 ^ l) { s with mi := { s.mi with treeRepairs := satAdd 32 s.mi.treeRepairs 1 } }

theorem repaired_rest (pc l b : Nat) (s : State) : { repaired pc l b s with
    mi := { (repaired pc l b s).mi with nodes := s.mi.nodes, treeRepairs := s.mi.treeRepairs } } = s := by
  unfold repaired repairNode
  split <;> rfl

theorem repaired_treeRepairs (pc l b : Nat) (s : State) : (repaired pc l b s).mi.treeRepairs = satAdd 32 s.mi.treeRepairs 1 := by
  unfold repaired repairNode
  split <;> rfl

theorem judge_treeRepaired {l : Nat} (yes : credible s pc b (.treeRepaired l) = true) (mirror : mirrored s pc = true) :
    judge pc b (.treeRepaired l) s = (.good, fillPath pc b (report
      (sliceFault pc 0x13 (nodeLoc l (groupOf (4 * b))) l false (repaired pc l b s)) (repaired pc l b s))) := by
  simp only [judge, yes, if_true, mirror, repaired]

theorem FillMoves.rest (h : FillMoves s t) : { t with mi := s.mi, freeCount := s.freeCount } = s :=
  (congrArg (fun x : State => { x with mi := s.mi }) h :)

/-- A node that reads badly is taken from its mirror, and reported; nothing halts. -/
theorem repair_halts_nothing {l : Nat} (low : ladderStep (tget {} s.fc.src (sliceUnit (sliceOf pc))) 0x13 < 5) :
    let t := fillPath pc b (report (sliceFault pc 0x13 (nodeLoc l (groupOf (4 * b))) l false (repaired pc l b s)) (repaired pc l b s))
    t.cu.halted = s.cu.halted ∧ t.mi.treeRepairs = satAdd 32 s.mi.treeRepairs 1 ∧ t.mi.counters = s.mi.counters ∧
      t.coh = s.coh ∧ ∃ r ∈ t.fc.bbr, r.kind = 0x13 ∧ r.source = sliceUnit (sliceOf pc) := by
  intro t
  have rest := repaired_rest pc l b s
  have fc : (repaired pc l b s).fc = s.fc := (congrArg State.fc rest :)
  have below := report_below (s := repaired pc l b s)
    (m := sliceFault pc 0x13 (nodeLoc l (groupOf (4 * b))) l false (repaired pc l b s)) (by rw [fc]; exact low)
  have named := exists_names_report (sliceFault pc 0x13 (nodeLoc l (groupOf (4 * b))) l false (repaired pc l b s)) (repaired pc l b s)
  have fills := fillPath_fills pc b
    (report (sliceFault pc 0x13 (nodeLoc l (groupOf (4 * b))) l false (repaired pc l b s)) (repaired pc l b s))
  refine ⟨?_, ?_, ?_, ?_, ?_⟩
  · have kept := (congrArg (fun x : State => x.cu.halted) fills.rest :)
    exact kept.trans ((congrArg CommitUnit.halted below.1 :).trans (congrArg (fun x : State => x.cu.halted) rest :))
  · have kept := (congrArg Protect.treeRepairs fills.mi :)
    exact kept.trans ((congrArg Protect.treeRepairs (report_mi _ _) :).trans (repaired_treeRepairs pc l b s))
  · exact fills.counters.trans ((congrArg Protect.counters (report_mi _ _) :).trans
      (congrArg (fun x : State => x.mi.counters) rest :))
  · have kept := (congrArg State.coh fills.rest :)
    exact kept.trans ((report_coh _ _).trans (congrArg State.coh rest :))
  · obtain ⟨r, mem, names⟩ := named
    have kept := (congrArg (fun x : State => x.fc.bbr) fills.rest :)
    exact ⟨r, kept.symm ▸ mem, names.kind, names.source⟩

end

/-- Settles O36: a return by whom it serves, a verification by what the check finds. -/
theorem readsAreVerified : Obligations.ReadsAreVerified := by
  refine ⟨fun pc b st way s up quiet serves => settles (dataReturnSt_good up quiet serves way),
    fun pc b id dpa way s resident => by rw [deliver_step resident, stepRead_good],
    fun pc b st unc way par s serves own => settles (dataReturnSt_none serves own unc way par),
    fun pc b id unc way s up serves bad quiet resident => ?_,
    fun k i s state empty kind trans => finishFetch_answers state empty kind trans,
    fun pc b u s up quiet debugs mine idle hu => settles ?_, fun pc b g s up quiet hg mine => ?_,
    fun pc b v s none => settles (verifySt_none none v)⟩
  · obtain ⟨step, r, mem, names⟩ := poisons_step serves resident (memUe s pc b) (blockDpa s pc b) way
    exact ⟨_, settles (dataReturnSt_bad up quiet serves bad way), step, r, mem, names.kind, names.cls, names.source⟩
  · subst hu
    have fills := fillPath_fills pc b s
    have lines : (fillPath pc b s).coh.lines = s.coh.lines := (congrArg (fun x : State => x.coh.lines) fills.rest :)
    have idle' : ∀ k ∈ blockLines pc b, awaits (fillPath pc b s) k = false := fun k mem => by
      rw [awaits, llc_congr lines]
      exact idle k mem
    have debugs' : (fillPath pc b s).mi.debugs = [] := (congrArg Protect.debugs fills.mi :).trans debugs
    have reads : (fillPath pc b s).mi.reads = s.mi.reads := (congrArg Protect.reads fills.mi :)
    have cu : (fillPath pc b s).cu = s.cu := (congrArg State.cu fills.rest :)
    have steps : (fillPath pc b s).steps = s.steps := (congrArg State.steps fills.rest :)
    rw [verifySt_checks up quiet mine, judge_agree, afterCheck, endReads_quiet idle' debugs', reads, cu, steps]
  · subst hg
    have checks := verifySt_checks up quiet mine
    refine ⟨fun r hr => ?_, fun l mem idle usable room waits low => ?_, fun l mem some_ mirror waits low => ?_,
      fun n first other none => ?_, fun l out v hv => settles ?_⟩
    · have yes : credible s pc b (.mismatch r) = true := by
        obtain rfl | ⟨l, rfl, mem⟩ := hr
        · rfl
        · exact List.contains_iff_mem.mpr mem
      obtain ⟨m, halts, kind, source⟩ := judge_mismatch yes
      obtain ⟨halted, valid, mi, r', mem, names⟩ := memoryHalt_halts m s
      exact ⟨_, settles ((checks _).trans (by rw [halts, afterCheck])), halted, valid, congrArg Protect.reads mi, r', mem,
        names.kind.trans kind, names.cls.trans (by rw [kind]; decide), names.source.trans source⟩
    · have lost : judge pc b (.metadataLost l) s = (.lost, loseTree pc (groupOf (4 * b)) l s) := by
        have yes : credible s pc b (.metadataLost l) = true := List.contains_iff_mem.mpr mem
        simp only [judge, yes, if_true]
      obtain ⟨bit, sweep, count, halted, valid, coh⟩ :=
        loseTree_halts_nothing (g := groupOf (4 * b)) (level := l) idle usable room low
      have still : ∀ k ∈ blockLines pc b, awaits (poisonRead pc b (blockDpa s pc b) (loseTree pc (groupOf (4 * b)) l s)) k = false :=
        fun k mem => by
          rw [awaits_poisonRead, awaits, llc_congr (congrArg Coherence.lines coh)]
          exact waits k mem
      have ends := (poisonRead_ends pc b (blockDpa s pc b) (loseTree pc (groupOf (4 * b)) l s)).trans (endReads_ends still)
      refine ⟨_, settles ((checks _).trans (by rw [lost, afterCheck])), ends.treeLostBit.trans bit, ?_, ends.treeLost.trans count,
        ends.halted.trans halted, (congrArg Boundary.retentionValid ends.bnd).trans valid⟩
      rw [pcState, ends.pcs]
      exact sweep
    · have yes : credible s pc b (.treeRepaired l) = true := by
        simpa [credible, some_] using mem
      obtain ⟨halted, count, counters, coh, r, mem', kind, source⟩ := repair_halts_nothing (b := b) (l := l) low
      have still : ∀ k ∈ blockLines pc b, awaits (fillPath pc b (report
          (sliceFault pc 0x13 (nodeLoc l (groupOf (4 * b))) l false (repaired pc l b s)) (repaired pc l b s))) k = false :=
        fun k mem => by
          rw [awaits, llc_congr (congrArg Coherence.lines coh)]
          exact waits k mem
      have ends := endReads_ends still
      exact ⟨_, settles ((checks _).trans (by rw [judge_treeRepaired yes mirror, afterCheck])), ends.halted.trans halted,
        ends.treeRepairs.trans count, ends.counters.trans counters, r, ends.fc ▸ mem', kind, source⟩
    · have yes : credible s pc b (.badGen n) = true := by
        have strange : ((pcState s pc).sweep.any fun w => w.kind == .rekey && w.target == n) = false := by
          cases sweep : (pcState s pc).sweep with
          | none => rfl
          | some w => simpa [Option.any_some, imp_iff_not_or] using none w sweep
        have gen : n ≠ (pcState s pc).gen := other
        simp [credible, strange, gen, first]
      obtain ⟨m, halts, kind, source⟩ := judge_badGen yes
      obtain ⟨halted, valid, -, r', mem, names⟩ := memoryHalt_halts m s
      exact ⟨_, settles ((checks _).trans (by rw [halts, afterCheck])), halted, valid, r', mem,
        names.kind.trans kind, names.cls.trans (by rw [kind]; decide), names.source.trans source⟩
    · have no : credible s pc b v = false := by
        simp only [List.mem_cons, List.not_mem_nil, or_false] at hv
        obtain rfl | rfl | rfl := hv <;> simp [credible, out]
      rw [checks v, judge_incredible no, ← checks .agree]

end Sys2Proof.Machine
end

section
/-!
SUPPORT. Translation at enqueue: what check 11 decides, what a page must grant, and where the region map leads (R317 to R319, R323 to
R325, R327, R328).
-/
namespace Sys2Proof.Machine
open Sys2Proof

section
variable {c : Cmd} {n : Nat} {rngs hosts : List Rng} {s s1 : State}

/-! ### Check 11 (R324, R325, R327, R328) -/

theorem check11_found (first : c.again = false) (hs : s1 = countWalks n c.f.host rngs s) {xs : List Xlat}
    (found : walkRanges s1 n c.f.host rngs = .ok xs) (k : List Xlat → State → State) : check11 c n rngs [] k s =
      if pinFits s1 n xs then k (dedupX xs) s1 else refuse c.ref .stateConflict 0 s1 := by
  subst hs
  simp only [check11, first, Bool.false_eq_true, if_false, found, hostAll]

theorem check11_miss (first : c.again = false) (hs : s1 = countWalks n c.f.host rngs s) {l dva : Nat}
    (miss : walkRanges s1 n c.f.host rngs = .miss l dva) (k : List Xlat → State → State) :
    check11 c n rngs hosts k s = holdMiss c n l dva s1 := by
  subst hs
  simp only [check11, first, Bool.false_eq_true, if_false, miss]

theorem check11_fail (first : c.again = false) (hs : s1 = countWalks n c.f.host rngs s) {st : Status} {dva : Nat}
    (fail : walkRanges s1 n c.f.host rngs = .fail st dva) (k : List Xlat → State → State) :
    check11 c n rngs hosts k s = refuse c.ref st dva s1 := by
  subst hs
  simp only [check11, first, Bool.false_eq_true, if_false, fail]

/-! ### Pages (R323, R325) -/

theorem reaches_key {img : Image} {low key : Nat} (h : reaches img n low key = true) :
    key ≠ 0 ∧ (hKeys img n).getLsbD key = true := by
  simp only [reaches, Bool.and_eq_true, bne_iff_ne, ne_eq] at h
  obtain ⟨⟨-, some_⟩, has⟩ := h
  exact ⟨some_, has⟩

/-- A page that passes serves a live object with the rights that the access asks for, under a key ID of the hand. -/
theorem checkPage_ok {v : HostView} {g : Rng} {dva last : Nat} {x : Xlat} (ok : checkPage s n v g dva last = .ok [x]) :
    (memObj s n x.obj).state = .live ∧ (g.r = true → x.r = true) ∧ (g.w = true → x.w = true) ∧ (g.a = true → x.a = true) ∧
      x.keyId ≠ 0 ∧ (hKeys s.ps.active n).getLsbD x.keyId = true ∧ (memObj s n x.obj).base ≤ x.dva ∧
      x.dva + x.size ≤ (memObj s n x.obj).base + (memObj s n x.obj).size := by
  unfold checkPage at ok
  split at ok
  · cases ok
  · cases ok
  · dsimp only at ok
    split at ok
    · cases ok
    · next rights =>
      split at ok
      · cases ok
      · next away =>
        split at ok
        · cases ok
        · next live =>
          split at ok
          · cases ok
          · next within =>
            cases ok
            simp only [Bool.or_eq_true, Bool.not_eq_true', not_or, Bool.not_eq_false] at away
            simp only [Bool.or_eq_true, Bool.and_eq_true, Bool.not_eq_true', not_or, not_and, Bool.not_eq_false] at rights
            obtain ⟨key, has⟩ := reaches_key away.1
            obtain ⟨⟨r, w⟩, a⟩ := rights
            rw [not_or, Nat.not_lt, Nat.not_lt] at within
            exact ⟨not_not.mp live, r, w, a, key, has, within.1, within.2⟩

theorem walkRange_beyond {v : HostView} {g : Rng} (far : 2 ^ 56 < g.dva + g.size) : walkRange s n v g = .fail .rights g.dva := by
  have last : 2 ^ 56 ≤ g.dva + g.size - 1 := by omega
  simp only [walkRange, last, if_true]

theorem walk_without_root {v : HostView} (none : (tget {} s.tu.vfs n).ptRoot = 0) (dva : Nat) : walk s n v dva = .miss 3 := by
  simp only [walk, none, if_true]

/-! ### Object records (R333) -/

theorem pkey20_ne {i j : Nat} (other : i ≠ j) (n : Nat) : pkey 20 n j ≠ pkey 20 n i := by
  simp only [pkey]
  omega

theorem setObj_objs (n j : Nat) (o : MemObj) (s : State) : (setObj n j o s).tu.objs =
    if o.state = .free then tdel s.tu.objs (pkey 20 n j) else tput s.tu.objs (pkey 20 n j) o := rfl

/-- A record set leaves the others. -/
theorem memObj_setObj_ne {i j : Nat} (other : i ≠ j) (o : MemObj) (s : State) : memObj (setObj n i o s) n j = memObj s n j := by
  rw [memObj, setObj_objs]
  split
  · rw [tget_tdel, if_neg (pkey20_ne other n), memObj]
  · rw [tget_tput_ne _ _ _ (pkey20_ne other n), memObj]

/-- A record set that is not free reads back; one that is free is none. -/
theorem memObj_setObj_self (n j : Nat) (o : MemObj) (s : State) :
    memObj (setObj n j o s) n j = if o.state = .free then {} else o := by
  rw [memObj, setObj_objs]
  split
  · rw [tget_tdel, if_pos rfl]
  · rw [tget_tput_self]

/-! ### The region map (R319) -/

/-- A share of the interleaved windows stays below the data area's end. -/
theorem share_lt {i m cnt : Nat} (hi : i < cnt) (hm : m < 0x3C000000) :
    (i * 0x3C000000 + m) / 2048 / cnt * 2048 + (i * 0x3C000000 + m) % 2048 < 0x3C000000 := by
  have bytes : i * 0x3C000000 + m < cnt * 0x3C000000 := by omega
  have blocks : (i * 0x3C000000 + m) / 2048 < cnt * 491520 := by omega
  have share : (i * 0x3C000000 + m) / 2048 / cnt < 491520 := Nat.div_lt_of_lt_mul blocks
  have rest : (i * 0x3C000000 + m) % 2048 < 2048 := Nat.mod_lt _ (by decide)
  calc (i * 0x3C000000 + m) / 2048 / cnt * 2048 + (i * 0x3C000000 + m) % 2048
      < (i * 0x3C000000 + m) / 2048 / cnt * 2048 + 2048 := Nat.add_lt_add_left rest _
    _ = ((i * 0x3C000000 + m) / 2048 / cnt + 1) * 2048 := (Nat.succ_mul _ _).symm
    _ ≤ 491520 * 2048 := Nat.mul_le_mul_right _ share

/-- A byte that the hand reaches is in the data area of one of its PCs. -/
theorem route_within {img : Image} {low key : Nat} (h : reaches img n low key = true) :
    (route img n low).1 ∈ pcList img n ∧ (route img n low).2 < 0x3C000000 := by
  simp only [reaches, Bool.and_eq_true, decide_eq_true_eq] at h
  obtain ⟨⟨⟨window, low_⟩, -⟩, -⟩ := h
  have mem : low / 2 ^ 30 ∈ pcList img n := by
    rw [pcList, mem_bitList]
    exact window
  have some_ : 0 < (pcList img n).length := List.length_pos_of_mem mem
  have index := List.idxOf_lt_length_of_mem mem
  have share := share_lt index low_
  obtain ⟨l, hl⟩ : ∃ l, (pcList img n).idxOf (low / 2 ^ 30) * 0x3C000000 + low % 2 ^ 30 = l := ⟨_, rfl⟩
  rw [hl] at share
  have routed : route img n low = ((pcList img n).getD (l / 2048 % (pcList img n).length) 0,
      l / 2048 / (pcList img n).length * 2048 + l % 2048) := by
    rw [← hl]
    rfl
  have at_ := Nat.mod_lt (l / 2048) some_
  rw [routed, List.getD_eq_getElem _ _ at_]
  exact ⟨List.getElem_mem at_, share⟩

end

/-- Settles O38: check 11 by what the walks give, a page by what it grants, a byte by its share of the hand's windows. -/
theorem translationAtEnqueue : Obligations.TranslationAtEnqueue := by
  refine ⟨fun c n rngs xs s s1 first hs found fits k => ?_, fun c n rngs xs k s s1 first hs found full => ?_,
    fun c n rngs hosts k l dva s s1 first hs miss => check11_miss first hs miss k,
    fun c n rngs hosts k st dva s s1 first hs fail => check11_fail first hs fail k,
    fun s n v g dva last x ok => checkPage_ok ok, fun s n v g far => walkRange_beyond far,
    fun s n v dva none => walk_without_root none dva, fun n k i j s other => memObj_setObj_ne other k s,
    fun n low key s h => route_within h⟩
  · rw [check11_found first hs found k, if_pos fits]
  · rw [check11_found first hs found k, full]
    exact if_neg Bool.false_ne_true

end Sys2Proof.Machine
end

section
/-!
SUPPORT. Doorbells, stale tags and ring reads that fail (R353 to R356, R567).
-/
namespace Sys2Proof.Machine
open Sys2Proof

section
variable {s : State} {fn : Fn} {q t : Nat} {v : Word}

theorem atBar_served {tb : Bool} (serves : barServes s fn tb = true) (g : State → State) : atBar fn tb g s = g s := by
  simp [atBar, serves]

/-! ### Doorbells (R353, R354) -/

/-- A queue that a doorbell wakes at its new TAIL. -/
theorem doorbellSt_moves (power : s.bnd.powered = true) (exists_ : fnExists s fn = true) (tail : doorbellTail s fn q v = some t) :
    doorbellSt fn q 8 v s = touchQueue q (modQueue q (fun x => { x with
      tail := t, rereads := 0, state := if x.state = .early then .idle else x.state }) s) := by
  simp [doorbellSt, power, exists_, tail]

theorem doorbellSt_drops (power : s.bnd.powered = true) (exists_ : fnExists s fn = true) (none : doorbellTail s fn q v = none) :
    doorbellSt fn q 8 v s = dropDoorbell s := by
  simp [doorbellSt, power, exists_, none]

/-- A TAIL of 32 bits is taken at or after HEAD, within the ring. -/
theorem extendTail_some {x : Queue} {low : Nat} (bound : low < 2 ^ 32) (h : extendTail x low = some t) :
    t % 2 ^ 32 = low ∧ x.head ≤ t ∧ t ≤ x.head + 2 ^ x.ringLog2 := by
  unfold extendTail at h
  dsimp only at h
  split at h
  · next fits =>
    cases h
    omega
  · cases h

/-- What a valid doorbell says, and of whom. -/
theorem doorbellTail_some (h : doorbellTail s fn q v = some t) : t % 2 ^ 32 = v.toNat % 2 ^ 32 ∧ (queue s q).head ≤ t ∧
    t ≤ (queue s q).head + 2 ^ (queue s q).ringLog2 ∧ (queue s q).tail ≤ t ∧ v.toNat / 2 ^ 48 = (t + 65535) % 65536 ∧
    ownsQueue s fn q = true ∧ streams (queue s q) = true := by
  have low : fld v.toNat 0 32 = v.toNat % 2 ^ 32 := by simp [fld]
  have tag : fld v.toNat 48 16 = v.toNat / 2 ^ 48 := by
    have bound := v.isLt
    simp only [fld]
    omega
  unfold doorbellTail at h
  obtain ⟨passes, h⟩ := Option.ite_none_left_eq_some.mp h
  obtain ⟨-, h⟩ := Option.ite_none_left_eq_some.mp h
  simp only [Bool.or_eq_true, Bool.not_eq_true', decide_eq_true_eq, not_or, Bool.not_eq_false] at passes
  obtain ⟨⟨⟨-, owns⟩, streams_⟩, -⟩ := passes
  cases tail : extendTail (queue s q) (fld v.toNat 0 32) with
  | none => simp [tail] at h
  | some u =>
    simp only [tail] at h
    obtain ⟨valid, h⟩ := Option.ite_none_left_eq_some.mp h
    cases h
    obtain ⟨same, after, within⟩ := extendTail_some (fld_lt _ _ _) tail
    simp only [Bool.or_eq_true, decide_eq_true_eq, not_or, Nat.not_lt, not_not] at valid
    exact ⟨same.trans low, after, within, valid.1, tag.symm.trans valid.2, owns, streams_⟩

/-! ### Tags (R355, R356) -/

theorem tagSt_stale {tag : BitVec 16} (fetch : fetchable s q = true) (streams_ : streams (queue s q) = true)
    (stale : tag.toNat ≠ (queue s q).head % 65536) (few : (queue s q).rereads < 7) :
    tagSt q tag s = modQueue q (fun x => { x with rereads := x.rereads + 1 }) s := by
  simp [tagSt, fetch, streams_, stale, few]

/-- The eighth stale read parks the queue. -/
theorem tagSt_parks {tag : BitVec 16} (fetch : fetchable s q = true) (streams_ : streams (queue s q) = true)
    (stale : tag.toNat ≠ (queue s q).head % 65536) (seven : (queue s q).rereads = 7) : tagSt q tag s =
      modQueue q (fun x => { x with rereads := 0, state := .early })
        { s with qu := { s.qu with earlyEvents := satAdd 64 s.qu.earlyEvents 1 } } := by
  simp [tagSt, fetch, streams_, stale, seven]

/-! ### Positions that fail (R356, R567) -/

theorem readFailSt_closes (fetch : fetchable s q = true) (p : Bool) : readFailSt q p s = touchQueue q (closePos
    { queue := q, index := (queue s q).head, ctx := 0xFFFF, opcode := 0, cmpl := true, irq := false }
    (if p then .poison else .rights) (if p then 0 else (queue s q).ring + 64 * ((queue s q).head % 2 ^ (queue s q).ringLog2))
    (modQueue q (fun x => { x with skip := x.skip - 1 }) (advanceHead q s))) := by
  cases p <;> simp [readFailSt, fetch, failPos, ringPos]

/-- A stale tag in a program closes its position. -/
theorem gate_stale {f : CreateFetch} {op : Nat} (fetch : fetchable s f.queue = true) (program : streams (queue s f.queue) = false)
    (opcode : dOpcode f.raw = op) (ring : ringHolds (queue s f.queue) f.raw s = (true, s)) (whole : f.parity = 0)
    (quiet : s.fc.inj.remaining = 0) (stale : dTag f.raw ≠ (queue s f.queue).head % 65536) :
    gate (fun o => o == op) f 0 s = (none, touchQueue f.queue (closePos (refAt f.queue (queue s f.queue) f.raw) .stateConflict 0
      (modQueue f.queue (fun x => { x with skip := x.skip - 1 }) (advanceHead f.queue s)))) := by
  simp [gate, fetch, program, opcode, ring, whole, transfer_whole quiet, stale]

end

/-- Settles O39: a doorbell by the TAIL that it gives, a tag by the queue's HEAD, a read that fails by its position. -/
theorem doorbellsAndTags : Obligations.DoorbellsAndTags := by
  refine ⟨fun fn q v tb t s power exists_ serves tail => settles ?_, fun fn q v tb s power exists_ serves none => settles ?_,
    fun fn q v t s tail => doorbellTail_some tail,
    fun q tag s fetch streams_ stale => ⟨fun few => settles (tagSt_stale fetch streams_ stale few),
      fun seven => settles (tagSt_parks fetch streams_ stale seven)⟩,
    fun q p s fetch => settles (readFailSt_closes fetch p),
    fun f op s fetch program opcode ring whole quiet stale => gate_stale fetch program opcode ring whole quiet stale⟩
  · exact (atBar_served serves _).trans (doorbellSt_moves power exists_ tail)
  · exact (atBar_served serves _).trans (doorbellSt_drops power exists_ none)

end Sys2Proof.Machine
end

section
/-!
SUPPORT. A descriptor that its Command Processor fetches and accepts becomes a command at the next HEAD; and the control commands
(R342, R343, R355 to R363).
-/
namespace Sys2Proof.Machine
open Sys2Proof

section
variable {s s1 : State} {op extra : Nat} {f : CreateFetch}

/-! ### Fetch and acceptance (R355 to R362) -/

/-- A descriptor that passes checks 1 to 10 goes on as a command. -/
theorem Accepts.gate (h : Accepts s op f) (extra : Nat) :
    gate (fun o => o == op) f extra s = (some (cmdOf s f extra), advanceHead f.queue s) := by
  have template : ((queue s f.queue).kind = .intake && dServe f.raw) = false := by
    simpa [beq_iff_eq] using h.serve
  simp only [Machine.gate, h.fetch, h.opcode, h.ring, h.whole, transfer_whole h.inject, h.tag, h.skip, h.going, h.fresh, h.checks,
    template, cmdOf, BEq.rfl, Bool.not_true, Bool.or_self, Bool.false_eq_true, if_false, ne_eq, not_true_eq_false]

theorem Accepts.fetchDo {f : Fetch} (h : Accepts s op { toFetch := f }) (body : Cmd → State → State) :
    fetchDo op f body s = touchQueue f.queue (body (cmdOf s { toFetch := f } 0) (advanceHead f.queue s)) := by
  rw [Machine.fetchDo, h.gate]
  rfl

theorem Accepts.ref_opcode (h : Accepts s op f) : (cmdOf s f extra).ref.opcode = op := h.opcode

/-- A command whose reads are in goes on. -/
theorem Accepts.withReads_in (h : Accepts s op f) {needs : Cmd → State → List (Nat × Nat × Nat)}
    (brought : bringIn (needs (cmdOf s f extra) s) s = (true, s1)) (run : State → State) :
    withReads (fun o => o == op) f extra needs run s = run s1 := by
  simp only [withReads, h.gate, brought]

theorem Accepts.withReads_out (h : Accepts s op f) {needs : Cmd → State → List (Nat × Nat × Nat)}
    (brought : bringIn (needs (cmdOf s f extra) s) s = (false, s1)) (run : State → State) :
    withReads (fun o => o == op) f extra needs run s = s1 := by
  simp only [withReads, h.gate, brought]

/-! ### The queue at its next HEAD -/

theorem queue_advanceHead (q : Nat) (s : State) : queue (advanceHead q s) q = { queue s q with
    head := if streams (queue s q) then (queue s q).head + 1 else ((queue s q).head + 1) % 2 ^ (queue s q).ringLog2
    rereads := 0 } := by
  rw [advanceHead, queue_modQueue, if_pos rfl]

theorem advanceHead_params (q : Nat) (s : State) : (queue (advanceHead q s) q).params = (queue s q).params := by
  rw [queue_advanceHead]

theorem advanceHead_loops (q : Nat) (s : State) : (queue (advanceHead q s) q).loops = (queue s q).loops := by
  rw [queue_advanceHead]

/-! ### COND, LOOP and JUMP (R362) -/

variable {c : Cmd}

theorem condBody_holds {a : Nat} (ha : a = tget 0 (queue s c.q).params (dfld c.raw 0x09 0 4))
    (holds : condHolds (dfld c.raw 0x08 0 3) a (dfld c.raw 0x10 0 64) = true) : condBody c s = instant c [] { st := .ok } s := by
  subst ha
  simp only [condBody, holds, if_true]

theorem condBody_skips {a : Nat} (ha : a = tget 0 (queue s c.q).params (dfld c.raw 0x09 0 4))
    (fails : condHolds (dfld c.raw 0x08 0 3) a (dfld c.raw 0x10 0 64) = false) :
    condBody c s = instant c [] { st := .ok } (modQueue c.q (fun x => { x with skip := dfld c.raw 0x0A 0 16 }) s) := by
  subst ha
  simp only [condBody, fails, Bool.false_eq_true, if_false]

theorem loopBody_forever (none : dfld c.raw 0x0C 0 32 = 0) :
    loopBody c s = instant c [] { st := .ok } (setHead c.q (dfld c.raw 0x10 0 15) s) := by
  simp only [loopBody, none, if_true]

theorem loopBody_counts (some_ : dfld c.raw 0x0C 0 32 ≠ 0) {v : Nat}
    (hv : v = (if tget 0 (queue s c.q).loops (dfld c.raw 0x08 0 2) = 0 then dfld c.raw 0x0C 0 32
      else tget 0 (queue s c.q).loops (dfld c.raw 0x08 0 2)) - 1) :
    loopBody c s = instant c [] { st := .ok }
      (if v = 0 then modQueue c.q (fun x => { x with loops := tput x.loops (dfld c.raw 0x08 0 2) v }) s
       else setHead c.q (dfld c.raw 0x10 0 15) (modQueue c.q (fun x => { x with loops := tput x.loops (dfld c.raw 0x08 0 2) v }) s)) := by
  subst hv
  simp only [loopBody, some_, if_false]

/-! ### WAIT_SYNC and SIGNAL_SYNC (R341 to R343, R363) -/

/-- The state in which a command has referenced its synchronisation object; a program's descriptor keeps the reference. -/
def syncKept (c : Cmd) (s : State) : State :=
  if held s c then modQueue c.q (fun x => { x with syncAt := tput x.syncAt c.ref.index (dfld c.raw 0x0C 0 20) }) s else s

theorem takeSync_taken (first : c.again = false) (quota : dfld c.raw 0x0C 0 20 < hQuota s.ps.active c.part 3)
    (live_ : (syncObj s c.part (dfld c.raw 0x0C 0 20)).state = .live) (k : Bool → State → State) {s0 : State}
    (hs0 : s0 = takeSyncRef c.part (dfld c.raw 0x0C 0 20) (acceptCmd c [] s)) :
    takeSync c k s = k (held s0 c) (syncKept c s0) := by
  subst hs0
  unfold takeSync syncKept
  dsimp only
  rw [if_neg (by simp [first]), if_neg (Nat.not_le.mpr quota), if_neg (not_not.mpr live_)]
  split
  · next keeps => rw [keeps]
  · next drops => rw [Bool.eq_false_iff.mpr drops]

/-- The wait of a WAIT_SYNC (R363). -/
def syncWait (c : Cmd) (s : State) : Wait :=
  { obj := dfld c.raw 0x0C 0 20, target := dfld c.raw 0x10 0 63, ref := c.ref, held := held s c }

/-- The queue waits until its object reaches the target, at once if it has. -/
theorem waitBody_taken (first : c.again = false) (quota : dfld c.raw 0x0C 0 20 < hQuota s.ps.active c.part 3)
    (live_ : (syncObj s c.part (dfld c.raw 0x0C 0 20)).state = .live) {s0 s2 : State}
    (hs0 : s0 = takeSyncRef c.part (dfld c.raw 0x0C 0 20) (acceptCmd c [] s))
    (hs2 : s2 = modQueue c.q (fun x => { x with waiting := some (syncWait c s0) }) (syncKept c s0)) : waitBody c s =
      if (syncWait c s0).target ≤ (syncObj s2 c.part (syncWait c s0).obj).value then endWait c.part c.q (syncWait c s0) s2 else s2 := by
  subst hs2
  exact takeSync_taken first quota live_ _ hs0

/-- The signal of a SIGNAL_SYNC (R70, R74, R343). -/
def syncSignal (c : Cmd) (kept : Bool) (s : State) : Signal :=
  { part := c.part, obj := dfld c.raw 0x0C 0 20, add := dfld c.raw 0x08 0 1 == 1, operand := dfld c.raw 0x10 0 63, ref := c.ref
    after := (s.steps.filter fun t => t.queue == c.q && t.gather.isNone && t.serve.isNone).map fun t => t.id
    order := s.nextId, frame := s.tb.tick, slot := s.tb.slot, held := kept }

theorem signalBody_taken (first : c.again = false) (quota : dfld c.raw 0x0C 0 20 < hQuota s.ps.active c.part 3)
    (live_ : (syncObj s c.part (dfld c.raw 0x0C 0 20)).state = .live) {s0 : State}
    (hs0 : s0 = takeSyncRef c.part (dfld c.raw 0x0C 0 20) (acceptCmd c [] s)) : signalBody c s = { syncKept c s0 with
      qu := { (syncKept c s0).qu with signals := (syncKept c s0).qu.signals ++ [syncSignal c (held s0 c) (syncKept c s0)] }
      nextId := (syncKept c s0).nextId + 1 } :=
  takeSync_taken first quota live_ _ hs0

/-! ### LOAD_PARAM (R362) -/

/-- A command that the queue's work and a commit let go waits for its reads alone. -/
theorem loadSt_goes {f : Fetch} (free : waitsAtHead f s = false) (commit : s.cu.open_ = none) :
    loadSt f s = withReads (fun o => o == 0x06) { toFetch := f } 0 cpNeeds (fetchDo 0x06 f loadBody) s := by
  simp only [loadSt, free, commit, Option.isSome_none, Bool.or_self, Bool.false_eq_true, if_false]

theorem loadSt_again {f : Fetch} (h : Accepts s 0x06 { toFetch := f }) (free : waitsAtHead f s = false) (commit : s.cu.open_ = none)
    (brought : bringIn (cpNeeds (cmdOf s { toFetch := f } 0) s) s = (true, s1)) (h1 : Accepts s1 0x06 { toFetch := f })
    (free1 : waitsAtHead f s1 = false) (commit1 : s1.cu.open_ = none)
    (brought1 : bringIn (cpNeeds (cmdOf s1 { toFetch := f } 0) s1) s1 = (true, s1)) : loadSt f s = loadSt f s1 := by
  rw [loadSt_goes free commit, h.withReads_in brought, loadSt_goes free1 commit1, h1.withReads_in brought1]

/-- Where its reads are in, it is accepted. -/
theorem loadSt_reads {f : Fetch} (h : Accepts s 0x06 { toFetch := f }) (free : waitsAtHead f s = false) (commit : s.cu.open_ = none)
    (brought : bringIn (cpNeeds (cmdOf s { toFetch := f } 0) s) s = (true, s)) :
    loadSt f s = touchQueue f.queue (loadBody (cmdOf s { toFetch := f } 0) (advanceHead f.queue s)) := by
  rw [loadSt_goes free commit, h.withReads_in brought, h.fetchDo]

variable {xs : List Xlat} {s2 : State}

theorem loadBody_refused (found : Translates c c.part (rangesOf 0x06 c.raw) [] s xs s1)
    (read : cpRead c.part xs (dfld c.raw 0x10 0 57) (8 * dfld c.raw 0x09 0 5) s1 = (none, s2)) :
    loadBody c s = instant c xs { st := .rights } s2 := by
  rw [loadBody, found, read]

theorem loadBody_poison (found : Translates c c.part (rangesOf 0x06 c.raw) [] s xs s1) {bs : List Byte} {d : Nat}
    (read : cpRead c.part xs (dfld c.raw 0x10 0 57) (8 * dfld c.raw 0x09 0 5) s1 = (some (bs, some d), s2)) :
    loadBody c s = instant c xs { st := .poison } s2 := by
  rw [loadBody, found, read]

theorem loadBody_reads (found : Translates c c.part (rangesOf 0x06 c.raw) [] s xs s1) {bs : List Byte}
    (read : cpRead c.part xs (dfld c.raw 0x10 0 57) (8 * dfld c.raw 0x09 0 5) s1 = (some (bs, none), s2)) :
    loadBody c s = instant c xs { st := .ok } (modQueue c.q (fun x => { x with
      params := (List.range (dfld c.raw 0x09 0 5)).foldl (fun p i =>
        tput p (dfld c.raw 0x08 0 4 + i) ((numsOf 8 (dfld c.raw 0x09 0 5) bs).getD i 0)) x.params }) s2) := by
  rw [loadBody, found, read]

/-- A command that waits for its queue's work changes nothing. -/
theorem waits_at_head {f : Fetch} (waits : waitsAtHead f s = true) : waitSt f s = s ∧ loadSt f s = s ∧ ckptSt f s = s := by
  refine ⟨?_, ?_, ?_⟩
  · simp only [waitSt, waits, if_true]
  · simp only [loadSt, waits, Bool.true_or, if_true]
  · simp only [ckptSt, waits, if_true]

end

/-- Settles O41: each control command by its body on the queue at its next HEAD. -/
theorem controlCommands : Obligations.ControlCommands := by
  rintro f q c s rfl rfl
  refine ⟨fun h => settles (h.fetchDo nopBody), fun h => ⟨_, rfl, fun holds => settles ?_, fun fails => settles ?_⟩,
    fun h => ⟨fun none => settles ?_, fun v hv some_ => ⟨fun last => settles ?_, fun more => settles ?_⟩⟩,
    fun h => settles (h.fetchDo jumpBody), fun waits => ?_, fun h free quota live_ => ?_, fun h quota live_ => ?_,
    fun h free commit => ⟨fun s1 brought => settles ?_, fun s1 brought h1 free1 commit1 brought1 => ?_,
      fun brought xs s1 s2 r found read => ⟨fun none => settles ?_, fun bs d poison => settles ?_, fun bs got => ?_⟩⟩⟩
  · rw [h.fetchDo, condBody_holds (by rw [← advanceHead_params]; rfl) holds]
  · rw [h.fetchDo, condBody_skips (by rw [← advanceHead_params]; rfl) fails]
    rfl
  · rw [h.fetchDo, loopBody_forever none]
    rfl
  · rw [h.fetchDo, loopBody_counts some_ (v := v) (by rw [hv, ← advanceHead_loops]; rfl), if_pos last, last]
    rfl
  · rw [h.fetchDo, loopBody_counts some_ (v := v) (by rw [hv, ← advanceHead_loops]; rfl), if_neg more]
    rfl
  · obtain ⟨wait, load, ckpt⟩ := waits_at_head waits
    exact ⟨settles wait, settles load, settles ckpt⟩
  · refine ⟨syncWait _ _, _, _, _, rfl, rfl, rfl, rfl, settles ?_⟩
    rw [waitSt, free, if_neg Bool.false_ne_true, h.fetchDo, waitBody_taken (s := advanceHead f.queue s) rfl quota live_ rfl rfl]
    rfl
  · obtain ⟨s0, hs0⟩ : ∃ s0, s0 = takeSyncRef (cmdOf s { toFetch := f } 0).part (dfld (cmdOf s { toFetch := f } 0).raw 0x0C 0 20)
      (acceptCmd (cmdOf s { toFetch := f } 0) [] (advanceHead f.queue s)) := ⟨_, rfl⟩
    refine ⟨syncSignal (cmdOf s { toFetch := f } 0) (held s0 (cmdOf s { toFetch := f } 0)) (syncKept (cmdOf s { toFetch := f } 0) s0),
      s0, _, hs0, rfl, rfl, rfl, rfl, rfl, settles ?_⟩
    rw [h.fetchDo, signalBody_taken (s := advanceHead f.queue s) rfl quota live_ hs0]
    rfl
  · rw [loadSt_goes free commit, h.withReads_out brought]
  · exact congrArg (fun t => Host.Outcome.next (settle t)) (loadSt_again h free commit brought h1 free1 commit1 brought1)
  · subst none
    rw [loadSt_reads h free commit brought, loadBody_refused found read]
  · subst poison
    rw [loadSt_reads h free commit brought, loadBody_poison found read]
  · subst got
    refine ⟨_, settles ?_, rfl⟩
    rw [loadSt_reads h free commit brought, loadBody_reads found read]
    rfl

end Sys2Proof.Machine
end

section
/-!
SUPPORT. The work commands: what passes check 11 joins its queue as a step (R62, R325, R361, R366).
-/
namespace Sys2Proof.Machine
open Sys2Proof

section
variable {s s1 : State} {c : Cmd} {xs : List Xlat}

theorem acceptCmd_steps (c : Cmd) (xs : List Xlat) (s : State) : (acceptCmd c xs s).steps = s.steps := by
  have refs : ∀ (t : State), (takeRefs c.part xs t).steps = s.steps ↔ t.steps = s.steps := fun t => by
    rw [takeRefs, foldl_same (f := fun t j => takeDevRef c.part j t) State.steps fun _ _ => rfl]
  have accepted : (accept c.ref s).steps = s.steps := by
    rw [accept]
    dsimp only
    split <;> rfl
  rw [acceptCmd]
  split
  · rfl
  · dsimp only
    split
    · exact (refs _).mpr accepted
    · exact accepted

theorem acceptCmd_nextId (c : Cmd) (xs : List Xlat) (s : State) : (acceptCmd c xs s).nextId = s.nextId := by
  have refs : ∀ (t : State), (takeRefs c.part xs t).nextId = s.nextId ↔ t.nextId = s.nextId := fun t => by
    rw [takeRefs, foldl_same (f := fun t j => takeDevRef c.part j t) State.nextId fun _ _ => rfl]
  have accepted : (accept c.ref s).nextId = s.nextId := by
    rw [accept]
    dsimp only
    split <;> rfl
  rw [acceptCmd]
  split
  · rfl
  · dsimp only
    split
    · exact (refs _).mpr accepted
    · exact accepted

/-- Work joins its queue as a step under the next number; a program's descriptor took the references of its objects when it was
accepted (R325, R366). -/
theorem startWork_joins (c : Cmd) (xs : List Xlat) (rs : List (Nat × Nat × Nat)) (s : State) :
    startWork c xs rs s = fillBe c.part { (if held (acceptCmd c xs s) c then acceptCmd c xs s
        else takeRefs c.part xs (acceptCmd c xs s)) with
      steps := s.steps ++ [workStep (acceptCmd c xs s) c xs rs]
      nextId := s.nextId + 1 } := by
  have steps : (takeRefs c.part xs (acceptCmd c xs s)).steps = s.steps :=
    (foldl_same (f := fun t j => takeDevRef c.part j t) State.steps (fun _ _ => rfl) _ _).trans (acceptCmd_steps c xs s)
  have number : (takeRefs c.part xs (acceptCmd c xs s)).nextId = s.nextId :=
    (foldl_same (f := fun t j => takeDevRef c.part j t) State.nextId (fun _ _ => rfl) _ _).trans (acceptCmd_nextId c xs s)
  have queues : (takeRefs c.part xs (acceptCmd c xs s)).qu = (acceptCmd c xs s).qu :=
    foldl_same (f := fun t j => takeDevRef c.part j t) State.qu (fun _ _ => rfl) _ _
  rw [startWork]
  dsimp only
  split
  · rw [acceptCmd_steps, acceptCmd_nextId]
  · rw [steps, number]
    simp only [workStep, queue, queues, number, acceptCmd_nextId]

/-! ### The bodies, where check 11 passes -/

theorem workBody_starts (found : Translates c c.part (rangesOf c.ref.opcode c.raw) [] s xs s1) :
    workBody c s = startWork c xs [] s1 := by
  rw [workBody, found]

theorem copyBody_starts (some_ : copyRanges c.raw ≠ []) (found : Translates c c.part (copyRanges c.raw) (hostRangeOf c.raw) s xs s1) :
    copyBody c s = startWork c xs [] s1 := by
  rw [copyBody, if_neg some_, found]

theorem copyBody_refused (none : copyRanges c.raw = []) : copyBody c s = refuse c.ref .rights (dfld c.raw 0x08 0 57) s := by
  rw [copyBody, if_pos none]

theorem gatherBody_starts (found : Translates c c.part (rangesOf 0x47 c.raw) [] s xs s1) : gatherBody c s =
    if jobIn s1 c.part 0x47 c.raw .aborted then refuse c.ref .jobAborted 0 s1 else startWork c xs [] s1 := by
  rw [gatherBody, found]

theorem digestBody_starts (found : Translates c c.part (rangesOf 0x48 c.raw) [] s xs s1)
    (going : jobIn s1 c.part 0x48 c.raw .aborted = false) (fits : digestOk s1 c.part c.raw = true) :
    digestBody c s = startWork c xs []
      (if dfld c.raw 0x08 1 1 = 1 ∧ dfld c.raw 0x08 3 1 = 1 then openCmp c.part c.raw s1 else s1) := by
  simp only [digestBody, found _, going, fits, Bool.not_true, Bool.false_eq_true, if_false, Bool.and_eq_true, decide_eq_true_eq]

theorem digestBody_refused (found : Translates c c.part (rangesOf 0x48 c.raw) [] s xs s1)
    (going : jobIn s1 c.part 0x48 c.raw .aborted = false) (misfit : digestOk s1 c.part c.raw = false) :
    digestBody c s = refuse c.ref .stateConflict 0 s1 := by
  simp only [digestBody, found _, going, misfit, Bool.not_false, Bool.false_eq_true, if_false, if_true]

variable {ys : List Xlat} {es : List (Nat × Nat × Nat)} {s2 s3 : State}

theorem tileBody_starts (first : c.again = false) (found : Translates c c.part (rangesOf 0x40 c.raw) [] s xs s1)
    (table : readTable c.part xs c.raw s1 = (.ok es, s2))
    (found2 : Translates c c.part (rangesOf 0x40 c.raw ++ kernelRng c.raw c.extra :: es.map entryRng) [] s2 ys s3) :
    tileBody c s = startWork c ys (kernelGrant c.raw c.extra :: es) (if held s3 c then modQueue c.q (fun x => { x with
      tableAt := tput x.tableAt c.ref.index (kernelGrant c.raw c.extra :: es) }) s3 else s3) := by
  rw [tileBody, first, if_neg Bool.false_ne_true, found]
  dsimp only
  rw [table]
  exact found2 _

/-! ### TILE_STEP, which waits for its reads -/

/-- What a TILE_STEP does once its reads are in. -/
def tileRun (f : TileFetch) (s : State) : State :=
  match Machine.gate (fun o => o == 0x40) { toFetch := f.toFetch } f.kernelLen s with
  | (some c, s) => touchQueue c.q (tileBody c s)
  | (none, s) => s

theorem tileSt_goes {f : TileFetch} (commit : s.cu.open_ = none) :
    tileSt f s = withReads (fun o => o == 0x40) { toFetch := f.toFetch } f.kernelLen cpNeeds (tileRun f) s := by
  rw [tileSt, commit, Option.isSome_none, if_neg Bool.false_ne_true]
  rfl

theorem tileRun_accepts {f : TileFetch} (h : Accepts s 0x40 { toFetch := f.toFetch }) : tileRun f s =
    touchQueue f.queue (tileBody (cmdOf s { toFetch := f.toFetch } f.kernelLen) (advanceHead f.queue s)) := by
  rw [tileRun, h.gate]
  rfl

theorem tileSt_waits {f : TileFetch} (h : Accepts s 0x40 { toFetch := f.toFetch }) (commit : s.cu.open_ = none)
    (brought : bringIn (cpNeeds (cmdOf s { toFetch := f.toFetch } f.kernelLen) s) s = (false, s1)) : tileSt f s = s1 := by
  rw [tileSt_goes commit, h.withReads_out brought]

theorem tileSt_runs {f : TileFetch} (h : Accepts s 0x40 { toFetch := f.toFetch }) (commit : s.cu.open_ = none)
    (brought : bringIn (cpNeeds (cmdOf s { toFetch := f.toFetch } f.kernelLen) s) s = (true, s1)) : tileSt f s = tileRun f s1 := by
  rw [tileSt_goes commit, h.withReads_in brought]

/-! ### Step of a command -/

theorem opFrame_iff (op : Nat) : opFrame op = true ↔ op = 0x44 ∨ op = 0x47 ∨ op = 0x84 := by
  simp only [opFrame, Bool.or_eq_true, decide_eq_true_eq, or_assoc]

/-- The plain work commands: of each, its body on the queue at its next HEAD. -/
theorem exec_work {f : Fetch} {op : Nat} {i : Instr} {s : State}
    (mem : (op, i) ∈ [(0x41, Instr.lrePool f), (0x42, .lrePqscan f), (0x43, .lreUpdate f), (0x45, .prefetch f), (0x46, .advise f)])
    (h : Accepts s op { toFetch := f }) : exec i s =
      .next (settle (touchQueue f.queue (workBody (cmdOf s { toFetch := f } 0) (advanceHead f.queue s)))) := by
  have body := h.fetchDo workBody
  simp only [List.mem_cons, Prod.mk.injEq, List.not_mem_nil, or_false] at mem
  obtain ⟨rfl, rfl⟩ | ⟨rfl, rfl⟩ | ⟨rfl, rfl⟩ | ⟨rfl, rfl⟩ | ⟨rfl, rfl⟩ := mem <;> exact settles body

end

/-- Settles O42: each work command by its body; the step is the one that its queue receives. -/
theorem workJoinsItsQueue : Obligations.WorkJoinsItsQueue := by
  refine ⟨?_, ?_, ?_, ?_, ?_, startWork_joins, fun c xs rs s => ⟨rfl, rfl, opFrame_iff _⟩⟩
  · rintro f op i q c xs s s1 rfl rfl mem h found
    rw [exec_work mem h, workBody_starts (by rw [h.ref_opcode]; exact found)]
  · rintro f q c xs s s1 rfl rfl
    refine ⟨fun h free found => settles ?_, fun h some_ found => settles ?_, fun h none => settles ?_, fun h found => settles ?_,
      fun h found going fits => settles ?_, fun h found going misfit => settles ?_⟩
    · rw [ckptSt, free, if_neg Bool.false_ne_true, h.fetchDo, workBody_starts (by rw [h.ref_opcode]; exact found)]
    · rw [h.fetchDo, copyBody_starts some_ found]
    · rw [h.fetchDo, copyBody_refused none]
    · rw [h.fetchDo, gatherBody_starts found]
    · rw [h.fetchDo, digestBody_starts found going fits]
    · rw [h.fetchDo, digestBody_refused found going misfit]
  · rintro f q c xs ys es s s1 s2 s3 rfl rfl h commit brought found table found2
    refine settles ?_
    rw [tileSt_runs h commit brought, tileRun_accepts h, tileBody_starts rfl found table found2]
    rfl
  · rintro f c s s1 rfl h commit brought
    exact settles (tileSt_waits h commit brought)
  · intro f s s1 h commit brought h1 commit1 brought1
    exact congrArg (fun t => Host.Outcome.next (settle t)) ((tileSt_runs h commit brought).trans (tileSt_runs h1 commit1 brought1).symm)

end Sys2Proof.Machine
end

section
/-!
SUPPORT. The object commands (R335, R337, R338, R341).
-/
namespace Sys2Proof.Machine
open Sys2Proof

section
variable {s : State} {c : Cmd} {o : MemObj} {y : SyncObj}

/-! ### MAP and UNMAP -/

theorem mapBody_maps (low : dfld c.raw 0x10 0 57 + dfld c.raw 0x18 0 64 ≤ 2 ^ 56) (some_ : dfld c.raw 0x0C 0 20 ≠ 0)
    (listed : dfld c.raw 0x0C 0 20 < (vfTu s c.part).objCount) (free : (memObj s c.part (dfld c.raw 0x0C 0 20)).state = .free)
    (alone : objOverlap s c.part (dfld c.raw 0x10 0 57) (dfld c.raw 0x18 0 64) = false) :
    mapBody c s = instant c [] { st := .ok } (setObj c.part (dfld c.raw 0x0C 0 20)
      { state := .live, owner := c.ref.ctx, hostRefs := 1, mapped := true, base := dfld c.raw 0x10 0 57
        size := dfld c.raw 0x18 0 64 } s) := by
  rw [mapBody]
  dsimp only
  rw [if_neg (Nat.not_lt.mpr low)]
  simp [some_, Nat.not_le.mpr listed, free, alone]

theorem mapBody_taken (low : dfld c.raw 0x10 0 57 + dfld c.raw 0x18 0 64 ≤ 2 ^ 56)
    (taken : (memObj s c.part (dfld c.raw 0x0C 0 20)).state ≠ .free) : mapBody c s = refuse c.ref .stateConflict 0 s := by
  rw [mapBody]
  dsimp only
  rw [if_neg (Nat.not_lt.mpr low)]
  simp [taken]

theorem unmapBody_unmaps (ho : o = memObj s c.part (dfld c.raw 0x0C 0 20)) (live_ : o.state = .live) (mapped : o.mapped = true) :
    unmapBody c s = instant c [] { st := .ok } (countObj c.part (dfld c.raw 0x0C 0 20)
      { o with mapped := false, hostRefs := o.hostRefs - 1 } s) := by
  subst ho
  simp [unmapBody, live_, mapped]

theorem unmapBody_gone (free : (memObj s c.part (dfld c.raw 0x0C 0 20)).state = .free) :
    unmapBody c s = refuse c.ref .objectGone 0 s := by
  simp [unmapBody, free]

/-! ### OBJ_REF and OBJ_UNREF -/

theorem refBody_object (old : dfld c.raw 0x08 1 1 = 0) (object : dfld c.raw 0x08 0 1 = 0)
    (ho : o = memObj s c.part (dfld c.raw 0x0C 0 20)) (live_ : o.state = .live) : refBody c s =
      instant c [] { st := .ok } (setObj c.part (dfld c.raw 0x0C 0 20) { o with hostRefs := o.hostRefs + 1 } s) := by
  subst ho
  simp [refBody, old, object, live_]

theorem refBody_new (new : dfld c.raw 0x08 1 1 = 1) {xs : List Xlat} (area : syncArea s c.part c.f.host = some xs)
    (quota : dfld c.raw 0x0C 0 20 < hQuota s.ps.active c.part 3) (free : (syncObj s c.part (dfld c.raw 0x0C 0 20)).state = .free) :
    refBody c s = instant c [] { st := .ok } (setSync c.part (dfld c.raw 0x0C 0 20)
      { state := .live, value := dfld c.raw 0x10 0 63, owner := c.ref.ctx, hostRefs := 1 }
      (modVfTu c.part (fun t => { t with syncXlat := xs }) (countWalks c.part c.f.host [syncRange s c.part] s))) := by
  have fits : hQuota (countWalks c.part c.f.host [syncRange s c.part] s).ps.active c.part 3 > dfld c.raw 0x0C 0 20 := quota
  have none : (syncObj (countWalks c.part c.f.host [syncRange s c.part] s) c.part (dfld c.raw 0x0C 0 20)).state = .free := free
  simp [refBody, new, area, Nat.not_le.mpr fits, none]

theorem refBody_sync (old : dfld c.raw 0x08 1 1 = 0) (sync : dfld c.raw 0x08 0 1 = 1)
    (hy : y = syncObj s c.part (dfld c.raw 0x0C 0 20)) (live_ : y.state = .live) : refBody c s =
      instant c [] { st := .ok } (setSync c.part (dfld c.raw 0x0C 0 20) { y with hostRefs := y.hostRefs + 1 } s) := by
  subst hy
  simp [refBody, old, sync, live_]

theorem refBody_gone (old : dfld c.raw 0x08 1 1 = 0) (sync : dfld c.raw 0x08 0 1 = 1)
    (gone : (syncObj s c.part (dfld c.raw 0x0C 0 20)).state ≠ .live) : refBody c s = refuse c.ref .objectGone 0 s := by
  simp [refBody, old, sync, gone]

theorem unrefBody_sync (sync : dfld c.raw 0x08 0 1 = 1) (hy : y = syncObj s c.part (dfld c.raw 0x0C 0 20)) (live_ : y.state = .live) :
    unrefBody c s = instant c [] { st := .ok } (countSync c.part (dfld c.raw 0x0C 0 20) { y with hostRefs := y.hostRefs - 1 } s) := by
  subst hy
  simp [unrefBody, sync, live_]

theorem unrefBody_object (object : dfld c.raw 0x08 0 1 = 0) (ho : o = memObj s c.part (dfld c.raw 0x0C 0 20))
    (live_ : o.state = .live) : unrefBody c s =
      instant c [] { st := .ok } (countObj c.part (dfld c.raw 0x0C 0 20) { o with hostRefs := o.hostRefs - 1 } s) := by
  subst ho
  simp [unrefBody, object, live_]

theorem unrefBody_gone (object : dfld c.raw 0x08 0 1 = 0) (gone : (memObj s c.part (dfld c.raw 0x0C 0 20)).state ≠ .live) :
    unrefBody c s = refuse c.ref .objectGone 0 s := by
  simp [unrefBody, object, gone]

/-! ### The reference counts (R335) -/

theorem msix_tu (fn : Fn) (v : Nat) (s : State) : (msix fn v s).tu = s.tu := (congrArg State.tu (msix_rest fn v s []) :)

theorem evPush_objs (n : Nat) (e : EvRec) (s : State) : (evPush n e s).tu.objs = s.tu.objs := by
  have wrote : ∀ (r : EvRec) (t : State), (evWrite n r t).tu.objs = t.tu.objs := fun r t => by
    rw [evWrite]
    dsimp only
    split <;> split
    · rw [msix_tu]
      rfl
    · rfl
    · rw [msix_tu]
      rfl
    · rfl
  simp only [evPush]
  split
  · rfl
  · rw [wrote]
    rfl

/-- An object with no reference left is FREE: the record reads as none. -/
theorem memObj_countObj_free (n k : Nat) {p : MemObj} (host : p.hostRefs = 0) (dev : p.devRefs = 0) :
    (memObj (countObj n k p s) n k).state = .free := by
  have none : countState p.hostRefs p.devRefs = .free := by rw [host, dev]; rfl
  have record : memObj (countObj n k p s) n k = memObj (setObj n k { state := .free } s) n k := by
    rw [countObj, none, if_pos rfl, memObj, evPush_objs, memObj]
  rw [record, memObj_setObj_self, if_pos rfl]

/-- One that only the device references is RELEASED. -/
theorem memObj_countObj_released (n k : Nat) {p : MemObj} (host : p.hostRefs = 0) (dev : p.devRefs ≠ 0) :
    memObj (countObj n k p s) n k = { p with state := .released } := by
  have released : countState p.hostRefs p.devRefs = .released := by simp [countState, host, dev]
  rw [countObj, released, if_neg ObjState.noConfusion, memObj_setObj_self, if_neg ObjState.noConfusion]

end

/-- Settles O43: each object command by its body on the queue at its next HEAD, where the objects are as they were. -/
theorem objectCommands : Obligations.ObjectCommands := by
  rintro f q c j o s s1 rfl rfl rfl rfl rfl
  refine ⟨fun h low some_ listed free alone => settles ?_, fun h low taken => settles ?_, fun h live_ mapped => settles ?_,
    fun h free => settles ?_, fun h old object live_ => settles ?_, fun h new xs area quota free => settles ?_,
    fun h old sync y hy => ⟨fun live_ => settles ?_, fun gone => settles ?_⟩, fun h sync y hy live_ => settles ?_,
    fun h object live_ => settles ?_, fun h object gone => settles ?_, fun n k p => memObj_countObj_free n k,
    fun n k p => memObj_countObj_released n k⟩
  · rw [h.fetchDo, mapBody_maps (s := advanceHead f.queue s) low some_ listed free alone]
  · rw [h.fetchDo, mapBody_taken (s := advanceHead f.queue s) low taken]
  · rw [h.fetchDo, unmapBody_unmaps (s := advanceHead f.queue s) rfl live_ mapped]
    rfl
  · rw [h.fetchDo, unmapBody_gone (s := advanceHead f.queue s) free]
  · rw [h.fetchDo, refBody_object (s := advanceHead f.queue s) old object rfl live_]
    rfl
  · rw [h.fetchDo, refBody_new (s := advanceHead f.queue s) new area quota free]
  · rw [h.fetchDo, refBody_sync (s := advanceHead f.queue s) old sync hy live_]
  · rw [h.fetchDo, refBody_gone (s := advanceHead f.queue s) old sync (hy ▸ gone)]
  · rw [h.fetchDo, unrefBody_sync (s := advanceHead f.queue s) sync hy live_]
  · rw [h.fetchDo, unrefBody_object (s := advanceHead f.queue s) object rfl live_]
    rfl
  · rw [h.fetchDo, unrefBody_gone (s := advanceHead f.queue s) object gone]

end Sys2Proof.Machine
end

section
/-!
SUPPORT. CREATE_QUEUE (R163, R333, R366, R374, R375).
-/
namespace Sys2Proof.Machine
open Sys2Proof

section
variable {f : CreateFetch} {c : Cmd} {n : Nat} {s s1 s2 s3 : State} {xs : List Xlat}

/-! ### The command and its reads -/

theorem createSt_waits (h : Accepts s 0xC0 f) (brought : bringIn (createNeeds (cmdOf s f 0) s) s = (false, s1)) :
    createSt f s = s1 := by
  rw [createSt, h.withReads_out brought]

theorem createSt_reads (h : Accepts s 0xC0 f) (brought : bringIn (createNeeds (cmdOf s f 0) s) s = (true, s)) :
    createSt f s = touchQueue f.queue (createBody (cmdOf s f 0) (advanceHead f.queue s)) := by
  rw [createSt, h.withReads_in brought, h.gate]
  rfl

/-! ### What it decides -/

/-- The state in which the queue's owner has a context. -/
def ownedCtx (n k : Nat) (s : State) : State := if ctxState s n k = .unused then setCtx n k .live s else s

theorem createBody_unread (found : Translates c (dfld c.raw 0x2C 0 5) (createRanges c.raw) (createHosts c.raw) s xs s1)
    {st : Status} (ck : ckptOf (dfld c.raw 0x2C 0 5) xs c s1 = (.error st, s2)) : createBody c s = refuse c.ref st 0 s2 := by
  rw [createBody]
  dsimp only
  rw [found, ck]

variable {ck : Option Nat}

theorem createBody_refused (found : Translates c (dfld c.raw 0x2C 0 5) (createRanges c.raw) (createHosts c.raw) s xs s1)
    (read : ckptOf (dfld c.raw 0x2C 0 5) xs c s1 = (.ok ck, s2)) (bad : createOk s2 (dfld c.raw 0x2C 0 5) c.raw ck = false) :
    createBody c s = refuse c.ref .stateConflict 0 s2 := by
  rw [createBody]
  dsimp only
  rw [found, read]
  dsimp only
  rw [bad, if_pos (by rfl)]

theorem newQueue_intake (n : Nat) (d : Desc) (xs : List Xlat) (ck : Option Nat) (s : State) :
    (newQueue n d xs ck s).kind = .intake ↔ ¬ dfld d 0x08 6 2 < 2 := by
  have kind : (newQueue n d xs ck s).kind =
      if dfld d 0x08 6 2 = 0 then .streaming else if dfld d 0x08 6 2 = 1 then .persistent else .intake := rfl
  rw [kind]
  split
  · next zero => simp [zero]
  · split
    · next one => simp [one]
    · next more zero => exact iff_of_true rfl (by omega)

/-- A streaming or persistent queue is live at once. -/
theorem createBody_plain (found : Translates c (dfld c.raw 0x2C 0 5) (createRanges c.raw) (createHosts c.raw) s xs s1)
    (read : ckptOf (dfld c.raw 0x2C 0 5) xs c s1 = (.ok ck, s2)) (good : createOk s2 (dfld c.raw 0x2C 0 5) c.raw ck = true)
    (plain : dfld c.raw 0x08 6 2 < 2) : createBody c s = touchQueue (dfld c.raw 0x0A 0 10)
      (modQueue (dfld c.raw 0x0A 0 10) (fun _ => newQueue (dfld c.raw 0x2C 0 5) c.raw xs ck s2)
        (instant c [] { st := .ok } (ownedCtx (dfld c.raw 0x2C 0 5) (dfld c.raw 0x0C 0 16) s2))) := by
  have kind : (newQueue (dfld c.raw 0x2C 0 5) c.raw xs ck s2).kind ≠ .intake :=
    fun intake => (newQueue_intake _ _ _ _ _).mp intake plain
  rw [createBody]
  dsimp only
  rw [found, read]
  dsimp only
  rw [good, Bool.not_true, if_neg Bool.false_ne_true, if_pos kind]
  rfl

/-- What a CREATE_QUEUE of an intake queue decides on: its ring of templates (R374). -/
def createIntake (c : Cmd) (xs : List Xlat) (ck : Option Nat) (s : State) : State :=
  match ringOf (dfld c.raw 0x2C 0 5) xs c s with
  | (.error st, s) => refuse c.ref st 0 s
  | (.ok ds, t) =>
    match takeTemplates c (dfld c.raw 0x2C 0 5) (newQueue (dfld c.raw 0x2C 0 5) c.raw xs ck s) ds
        (ownedCtx (dfld c.raw 0x2C 0 5) (dfld c.raw 0x0C 0 16) t) with
    | .error p => refuse c.ref .stateConflict p t
    | .ok (ts, t) => touchQueue (dfld c.raw 0x0A 0 10) (modQueue (dfld c.raw 0x0A 0 10)
        (fun _ => { newQueue (dfld c.raw 0x2C 0 5) c.raw xs ck s with templates := ts }) (instant c [] { st := .ok } t))

theorem createBody_intake (found : Translates c (dfld c.raw 0x2C 0 5) (createRanges c.raw) (createHosts c.raw) s xs s1)
    (read : ckptOf (dfld c.raw 0x2C 0 5) xs c s1 = (.ok ck, s2)) (good : createOk s2 (dfld c.raw 0x2C 0 5) c.raw ck = true)
    (intake : dfld c.raw 0x08 6 2 = 2) : createBody c s = createIntake c xs ck s2 := by
  have kind : (newQueue (dfld c.raw 0x2C 0 5) c.raw xs ck s2).kind = .intake := (newQueue_intake _ _ _ _ _).mpr (by omega)
  rw [createBody]
  dsimp only
  rw [found, read]
  dsimp only
  rw [good, Bool.not_true, if_neg Bool.false_ne_true, if_neg (not_not.mpr kind)]
  rfl

theorem createIntake_unread {st : Status} (ring : ringOf (dfld c.raw 0x2C 0 5) xs c s2 = (.error st, s3)) :
    createIntake c xs ck s2 = refuse c.ref st 0 s3 := by
  rw [createIntake, ring]

theorem createIntake_bad {ds : List Desc} (ring : ringOf (dfld c.raw 0x2C 0 5) xs c s2 = (.ok ds, s3)) {p : Nat}
    (bad : takeTemplates c (dfld c.raw 0x2C 0 5) (newQueue (dfld c.raw 0x2C 0 5) c.raw xs ck s2) ds
      (ownedCtx (dfld c.raw 0x2C 0 5) (dfld c.raw 0x0C 0 16) s3) = .error p) :
    createIntake c xs ck s2 = refuse c.ref .stateConflict p s3 := by
  rw [createIntake, ring]
  dsimp only
  rw [bad]

theorem createIntake_made {ds : List Desc} (ring : ringOf (dfld c.raw 0x2C 0 5) xs c s2 = (.ok ds, s3)) {ts : List Template} {s4 : State}
    (taken : takeTemplates c (dfld c.raw 0x2C 0 5) (newQueue (dfld c.raw 0x2C 0 5) c.raw xs ck s2) ds
      (ownedCtx (dfld c.raw 0x2C 0 5) (dfld c.raw 0x0C 0 16) s3) = .ok (ts, s4)) :
    createIntake c xs ck s2 = touchQueue (dfld c.raw 0x0A 0 10) (modQueue (dfld c.raw 0x0A 0 10)
      (fun _ => { newQueue (dfld c.raw 0x2C 0 5) c.raw xs ck s2 with templates := ts }) (instant c [] { st := .ok } s4)) := by
  rw [createIntake, ring]
  dsimp only
  rw [taken]

end

/-! ### The queue it leaves -/

section
variable (n : Nat) (d : Desc) (xs : List Xlat) (s : State)

/-- Its parameters are those of the checkpoint (R375). -/
theorem newQueue_params (ck : Option Nat) {i : Nat} (hi : i < 16) :
    tget 0 (newQueue n d xs ck s).params i = fld (ck.getD 0) (512 + 64 * i) 64 := by
  have table := tget_foldl_tput 0 (fun i _ => fld (ck.getD 0) (512 + 64 * i) 64) (l := List.range 16) List.nodup_range [] i
  rw [if_pos (List.mem_range.mpr hi)] at table
  exact table

theorem fld_zero (i w : Nat) : fld 0 i w = 0 := by
  simp [fld]

theorem newQueue_fresh : (newQueue n d xs none s).head = 0 ∧ ∀ i, i < 16 → tget 0 (newQueue n d xs none s).params i = 0 :=
  ⟨fld_zero 128 64, fun _ hi => (newQueue_params n d xs s none hi).trans (fld_zero _ _)⟩

/-- What a queue that is created meets (R374). -/
theorem createOk_meets {ck : Option Nat} (ok : createOk s n d ck = true) : (queue s (dfld d 0x0A 0 10)).live = false ∧
    queueCount s n < hQuota s.ps.active n 1 ∧ (hClass s.ps.active n (dfld d 0x08 0 4)).valid = true ∧
    ((hClass s.ps.active n (dfld d 0x08 0 4)).be = true ∨ dfld d 0x08 6 2 = 2) ∧ isLost s n (dfld d 0x0C 0 16) = false := by
  simp only [createOk, Bool.and_eq_true, Bool.or_eq_true, decide_eq_true_eq, Bool.not_eq_true'] at ok
  obtain ⟨⟨⟨⟨⟨⟨⟨free, quota⟩, valid⟩, kind⟩, -⟩, -⟩, known⟩, -⟩ := ok
  exact ⟨free, quota, valid, kind, known⟩

end

/-- Settles O44: CREATE_QUEUE by what it reads and decides; then the queue's fields and its conditions. -/
theorem queuesAreCreated : Obligations.QueuesAreCreated := by
  refine ⟨?_, fun n d xs ck s => ⟨rfl, rfl, rfl, rfl, rfl, rfl, ?_, ?_⟩, fun n d ck s => createOk_meets n d s⟩
  · rintro f c n q s rfl rfl rfl h
    refine ⟨fun s1 brought => settles (createSt_waits h brought), fun brought xs s1 found =>
      ⟨fun st s2 unread => settles ?_, fun ck s2 read => ⟨fun bad => settles ?_, fun good plain => ⟨_, rfl, settles ?_⟩,
        fun good intake => ⟨fun st s3 unread => settles ?_, fun ds s3 s4 ring hs4 =>
          ⟨fun p bad => settles ?_, fun ts s5 made => settles ?_⟩⟩⟩⟩⟩ <;> rw [createSt_reads h brought]
    · rw [createBody_unread found unread]
    · rw [createBody_refused found read bad]
    · rw [createBody_plain found read good plain]
      rfl
    · rw [createBody_intake found read good intake, createIntake_unread unread]
    · subst hs4
      rw [createBody_intake found read good intake, createIntake_bad ring bad]
    · subst hs4
      rw [createBody_intake found read good intake, createIntake_made ring made]
  · rintro rfl
    exact newQueue_fresh n d xs s
  · rintro r rfl
    exact ⟨rfl, fun i hi => newQueue_params n d xs s (some r) hi⟩

end Sys2Proof.Machine
end

section
/-!
SUPPORT. The other administration commands (R307, R309, R376, R377, R473 to R480, R492): each does its work where the state that it
needs is there, and is refused with STATE_CONFLICT where it is not.
-/
namespace Sys2Proof.Machine
open Sys2Proof

section
variable {s : State} {c : Cmd}

theorem destroyBody_destroys (live_ : (queue s (dfld c.raw 0x0A 0 10)).live = true)
    (going : (queue s (dfld c.raw 0x0A 0 10)).state ≠ .destroying) (own : (queue s (dfld c.raw 0x0A 0 10)).part = dfld c.raw 0x2C 0 5) :
    destroyBody c s = startKills { domain := .destroy (dfld c.raw 0x0A 0 10), cmd := some c.ref
                                   counts := openCounts s fun p _ => p == dfld c.raw 0x0A 0 10 } (acceptCmd c [] s) := by
  simp [destroyBody, live_, going, own]

theorem destroyBody_refused (bad : (queue s (dfld c.raw 0x0A 0 10)).live = false ∨
      (queue s (dfld c.raw 0x0A 0 10)).state = .destroying ∨ (queue s (dfld c.raw 0x0A 0 10)).part ≠ dfld c.raw 0x2C 0 5) :
    destroyBody c s = refuse c.ref .stateConflict 0 s := by
  exact if_pos (by simpa [or_assoc] using bad)

theorem revokeBody_revokes (used : ctxState s (dfld c.raw 0x2C 0 5) (dfld c.raw 0x0C 0 16) ≠ .unused) : revokeBody c s =
    startKills { domain := .revoke (dfld c.raw 0x2C 0 5) (dfld c.raw 0x0C 0 16), cmd := some c.ref
                 counts := openCounts s fun p x => (queue s p).part == dfld c.raw 0x2C 0 5 &&
                   (x == dfld c.raw 0x0C 0 16 || (queue s p).owner == dfld c.raw 0x0C 0 16) } (acceptCmd c [] s) :=
  if_neg used

theorem revokeBody_refused (unused : ctxState s (dfld c.raw 0x2C 0 5) (dfld c.raw 0x0C 0 16) = .unused) :
    revokeBody c s = refuse c.ref .stateConflict 0 s :=
  if_pos unused

theorem resetContextBody_asks (used : ctxState s (dfld c.raw 0x2C 0 5) (dfld c.raw 0x0C 0 16) ≠ .unused) : resetContextBody c s =
    askReset { domain := .context (dfld c.raw 0x2C 0 5) (dfld c.raw 0x0C 0 16), cmd := some c.ref
               dump := dfld c.raw 0x08 0 1 == 1 } (acceptCmd c [] s) :=
  if_neg used

theorem resetContextBody_refused (unused : ctxState s (dfld c.raw 0x2C 0 5) (dfld c.raw 0x0C 0 16) = .unused) :
    resetContextBody c s = refuse c.ref .stateConflict 0 s :=
  if_pos unused

theorem resetEngineBody_asks (other : ∀ p, s.rc.replay = some p → p.engine ≠ dfld c.raw 0x0C 0 9) : resetEngineBody c s =
    askReset { domain := .engine (dfld c.raw 0x0C 0 9), cmd := some c.ref, dump := dfld c.raw 0x08 0 1 == 1
               replay := dfld c.raw 0x08 1 1 == 1 } (acceptCmd c [] s) := by
  have none : s.rc.replay.any (fun p => p.engine == dfld c.raw 0x0C 0 9) = false := by
    cases running : s.rc.replay with
    | none => rfl
    | some p => simpa using other p running
  rw [resetEngineBody, none, if_neg Bool.false_ne_true]

theorem resetEngineBody_refused {p : Replay} (same : s.rc.replay = some p) (own : p.engine = dfld c.raw 0x0C 0 9) :
    resetEngineBody c s = refuse c.ref .stateConflict 0 s := by
  simp [resetEngineBody, same, own]

theorem flushBody_flushes (dirty : (keyRec s (dfld c.raw 0x08 0 7)).state = .dirty) {s2 : State}
    (hs2 : s2 = setKey (dfld c.raw 0x08 0 7) .flushing (acceptCmd c [] s)) :
    flushBody c s = (keyLines s2 (dfld c.raw 0x08 0 7)).foldl (fun s i => evict i s)
      { s2 with mi := { s2.mi with flushCmd := tput s2.mi.flushCmd (dfld c.raw 0x08 0 7) c.ref } } := by
  subst hs2
  exact if_neg (not_not.mpr dirty)

theorem flushBody_refused (clean : (keyRec s (dfld c.raw 0x08 0 7)).state ≠ .dirty) :
    flushBody c s = refuse c.ref .stateConflict 0 s :=
  if_pos clean

theorem retireBody_retires (flushed : (keyRec s (dfld c.raw 0x08 0 7)).state = .flushed) {s2 : State}
    (hs2 : s2 = setKey (dfld c.raw 0x08 0 7) .retiring (acceptCmd c [] s)) :
    retireBody c s = (retirePcs s2 (dfld c.raw 0x08 0 7)).foldl (fun s p => startRetire (dfld c.raw 0x08 0 7) p s)
      { s2 with mi := { s2.mi with retireCmd := tput s2.mi.retireCmd (dfld c.raw 0x08 0 7) c.ref } } := by
  subst hs2
  exact if_neg (not_not.mpr flushed)

theorem retireBody_refused (other : (keyRec s (dfld c.raw 0x08 0 7)).state ≠ .flushed) :
    retireBody c s = refuse c.ref .stateConflict 0 s :=
  if_pos other

theorem dumpBody_asks (area : tget 0 s.rc.dumpBase (dfld c.raw 0x2C 0 5) ≠ 0) :
    dumpBody c s = askReset { domain := .dump (dfld c.raw 0x2C 0 5), cmd := some c.ref, dump := true } (acceptCmd c [] s) :=
  if_neg area

theorem dumpBody_refused (none : tget 0 s.rc.dumpBase (dfld c.raw 0x2C 0 5) = 0) :
    dumpBody c s = refuse c.ref .stateConflict 0 s :=
  if_pos none

end

/-- Settles O45: each administration command by its body on the queue at its next HEAD. -/
theorem administrationCommands : Obligations.AdministrationCommands := by
  rintro f q c n k j s s1 rfl rfl rfl rfl rfl rfl
  refine ⟨fun h => ⟨fun live_ going own => settles ?_, fun bad => settles ?_⟩,
    fun h => ⟨fun used => settles ?_, fun unused => settles ?_⟩, fun h => ⟨fun used => settles ?_, fun unused => settles ?_⟩,
    ?_, fun h => settles (h.fetchDo resetPartitionBody), fun h => settles (h.fetchDo resetChipBody), ?_, ?_,
    fun h => ⟨fun area => settles ?_, fun none => settles ?_⟩⟩
  · rw [h.fetchDo, destroyBody_destroys live_ going own]
  · rw [h.fetchDo, destroyBody_refused bad]
  · rw [h.fetchDo, revokeBody_revokes used]
  · rw [h.fetchDo, revokeBody_refused unused]
  · rw [h.fetchDo, resetContextBody_asks used]
  · rw [h.fetchDo, resetContextBody_refused unused]
  · rintro e rfl h
    refine ⟨fun other => settles ?_, fun p same own => settles ?_⟩
    · rw [h.fetchDo, resetEngineBody_asks (s := advanceHead f.queue s) other]
    · rw [h.fetchDo, resetEngineBody_refused (s := advanceHead f.queue s) same own]
  · rintro key rfl h
    refine ⟨fun dirty => ⟨_, rfl, settles ?_⟩, fun clean => settles ?_⟩
    · rw [h.fetchDo, flushBody_flushes (s := advanceHead f.queue s) dirty rfl]
    · rw [h.fetchDo, flushBody_refused (s := advanceHead f.queue s) clean]
  · rintro key rfl h
    refine ⟨fun flushed => ⟨_, rfl, settles ?_⟩, fun other => settles ?_⟩
    · rw [h.fetchDo, retireBody_retires (s := advanceHead f.queue s) flushed rfl]
    · rw [h.fetchDo, retireBody_refused (s := advanceHead f.queue s) other]
  · rw [h.fetchDo, dumpBody_asks (s := advanceHead f.queue s) area]
  · rw [h.fetchDo, dumpBody_refused (s := advanceHead f.queue s) none]

end Sys2Proof.Machine
end

section
/-!
SUPPORT. Completion records and their rings (R369 to R373, R379, R380).
-/
namespace Sys2Proof.Machine
open Sys2Proof

section
variable {s : State} {q : Nat}

theorem queue_msix (fn : Fn) (v : Nat) (s : State) (q : Nat) : queue (msix fn v s) q = queue s q :=
  (congrArg (fun t => queue t q) (msix_rest fn v s []) :)

theorem msix_qu (fn : Fn) (v : Nat) (s : State) : (msix fn v s).qu = s.qu := (congrArg State.qu (msix_rest fn v s []) :)

theorem queue_touchQueue_self (q : Nat) (s : State) :
    queue (touchQueue q s) q = { queue s q with state := settleQueue s (queue s q) } := by
  rw [touchQueue, queue_modQueue, if_pos rfl]

/-! ### A record in its ring (R369, R370) -/

/-- A queue with one record more in its completion ring. -/
def withRec (r : CRec) (x : Queue) : Queue :=
  { x with records := x.records + 1, written := ({ r with phase := phaseOf x x.records } :: x.written).take (2 ^ x.cqLog2) }

theorem queue_ringRec (q : Nat) (r : CRec) (s : State) : queue (ringRec q r s) q = withRec r (queue s q) := by
  have kept : ∀ (o : Out) (r : CRec), queue (emit o (modQueue q (fun x => { x with
      records := x.records + 1, written := (r :: x.written).take (2 ^ x.cqLog2) }) s)) q =
      { queue s q with records := (queue s q).records + 1, written := (r :: (queue s q).written).take (2 ^ (queue s q).cqLog2) } :=
    fun o r => (queue_modQueue _ _ _ _).trans (if_pos rfl)
  simp only [ringRec]
  split
  · rw [queue_msix]
    exact kept _ _
  · exact kept _ _

/-- The newest record stands in the ring. -/
theorem mem_withRec (r : CRec) (x : Queue) : { r with phase := phaseOf x x.records } ∈ (withRec r x).written := by
  obtain ⟨k, hk⟩ := Nat.exists_eq_succ_of_ne_zero (Nat.two_pow_pos x.cqLog2).ne'
  rw [withRec, hk, List.take_succ_cons]
  exact List.mem_cons_self

/-! ### A completion (R371, R372) -/

/-- A queue that a completion counts. -/
def counted (s : State) (x : Queue) : Queue :=
  { x with completed := satAdd 64 x.completed 1, lastTick := s.tb.tick, reserved := x.reserved - 1, outstanding := x.outstanding - 1 }

/-- The state that a completion leaves before its record. -/
def countDone (q : Nat) (s : State) : State :=
  modQueue q (fun x => { x with outstanding := x.outstanding - 1 }) (unreserve q (progress q s))

theorem queue_countDone (q : Nat) (s : State) : queue (countDone q s) q = counted s (queue s q) := by
  rw [countDone, queue_modQueue, if_pos rfl, unreserve, queue_modQueue, if_pos rfl, progress, queue_modQueue, if_pos rfl]
  rfl

/-- A kill counts in its partition's totals alone. -/
theorem queue_complete (c : CmdRef) (d : Done) (s : State) (q : Nat) : queue (complete c d s) q = queue
    (if d.st = .ok && !c.cmpl then countDone c.queue s else putRec c.queue (recOf (countDone c.queue s) c d) (countDone c.queue s)) q := by
  rw [complete]
  split
  · rfl
  · rfl

theorem complete_silent {c : CmdRef} {d : Done} (ok : d.st = .ok) (silent : c.cmpl = false) :
    queue (complete c d s) c.queue = counted s (queue s c.queue) := by
  rw [queue_complete, if_pos (by simp [ok, silent]), queue_countDone]

theorem complete_records {c : CmdRef} {d : Done} (going : s.cu.halted = false) (room : (queue s c.queue).overflow = [])
    (told : d.st ≠ .ok ∨ c.cmpl = true) :
    queue (complete c d s) c.queue = withRec (recOf s c d) (counted s (queue s c.queue)) := by
  have fails : ¬ (d.st = .ok && !c.cmpl) = true := by
    rcases told with bad | asked
    · simp [bad]
    · simp [asked]
  have going2 : (countDone c.queue s).cu.halted = false := going
  have room2 : (queue (countDone c.queue s) c.queue).overflow.isEmpty = true := by
    rw [queue_countDone, counted, room]
    rfl
  rw [queue_complete, if_neg fails, putRec, going2, if_neg Bool.false_ne_true, if_pos room2, queue_ringRec, queue_countDone]
  rfl

/-! ### A record whose write fails (R373, R379) -/

/-- The state without the newest record. -/
def unwritten (q : Nat) (r : CRec) (rest : List CRec) (s : State) : State :=
  let t := modQueue q (fun x => { x with written := rest, records := x.records - 1 }) s
  let out := t.out.erase (recordOut t q r)
  { t with out := if r.irq then out.erase (.msix (queueFn t q) (queue t q).vector) else out }

theorem unwrite_some {r : CRec} {rest : List CRec} (written : (queue s q).written = r :: rest) :
    unwrite q s = some (r, unwritten q r rest s) := by
  rw [unwrite, written]
  rfl

/-- A queue without its newest record, which it keeps. -/
def keptBack (r : CRec) (rest : List CRec) (x : Queue) : Queue :=
  { x with written := rest, records := x.records - 1, overflow := (r :: x.overflow).take 4 }

/-- The state in which the queue keeps the record of its failed write. -/
def keepBack (q : Nat) (r : CRec) (rest : List CRec) (s : State) : State :=
  modQueue q (fun x => { x with overflow := (r :: (queue s q).overflow).take 4 }) (unwritten q r rest s)

theorem queue_unwritten (q : Nat) (r : CRec) (rest : List CRec) (s : State) : queue (unwritten q r rest s) q =
    { queue s q with written := rest, records := (queue s q).records - 1 } :=
  (queue_modQueue _ _ _ _).trans (if_pos rfl)

theorem queue_keepBack (q : Nat) (r : CRec) (rest : List CRec) (s : State) :
    queue (keepBack q r rest s) q = keptBack r rest (queue s q) := by
  rw [keepBack, queue_modQueue, if_pos rfl, queue_unwritten]
  rfl

theorem writeFailSt_keeps {r : CRec} {rest : List CRec} (live_ : (queue s q).live = true) (part : q < 1024)
    (written : (queue s q).written = r :: rest) {held : List CRec} (hheld : held = (queue s q).overflow) {t : State}
    (ht : t = keepBack q r rest s) : writeFailSt q s = touchQueue q (if held.isEmpty then
      stallQueue q (if held.length < 4 then t else loseCtx (queue t q).part (queue t q).owner t)
      else (if held.length < 4 then t else loseCtx (queue t q).part (queue t q).owner t)) := by
  have same : (queue (unwritten q r rest s) q).overflow = held := by rw [queue_unwritten, hheld]
  subst ht hheld
  simp only [writeFailSt, live_, Bool.not_true, Nat.not_le.mpr part, decide_false, Bool.or_self, Bool.false_eq_true, if_false,
    unwrite_some written, same]
  rfl

/-- The first one stalls the queue (R379). -/
theorem writeFailSt_first {r : CRec} {rest : List CRec} (live_ : (queue s q).live = true) (part : q < 1024)
    (written : (queue s q).written = r :: rest) (first : (queue s q).overflow = []) :
    writeFailSt q s = touchQueue q (stallQueue q (keepBack q r rest s)) := by
  rw [writeFailSt_keeps live_ part written first.symm rfl]
  rfl

/-- The fifth drops the oldest and loses the queue's context. -/
theorem writeFailSt_fifth {r : CRec} {rest : List CRec} (live_ : (queue s q).live = true) (part : q < 1024)
    (written : (queue s q).written = r :: rest) (four : (queue s q).overflow.length = 4) :
    writeFailSt q s = touchQueue q (loseCtx (queue s q).part (queue s q).owner (keepBack q r rest s)) := by
  have more : (queue s q).overflow.isEmpty = false := by
    cases held : (queue s q).overflow with
    | nil => rw [held] at four; cases four
    | cons _ _ => rfl
  rw [writeFailSt_keeps live_ part written rfl rfl, more, if_neg Bool.false_ne_true, if_neg (by omega), queue_keepBack]
  rfl

theorem queue_stallQueue (q : Nat) (s : State) : queue (stallQueue q s) q = queue s q := by
  rw [stallQueue, queue_msix]
  rfl

theorem queue_loseCtx (n k q : Nat) (s : State) : queue (loseCtx n k s) q = queue s q := by
  rw [loseCtx]
  split <;> rfl

/-- A context that was lost or revoked is so. -/
theorem isLost_loseCtx (n : Nat) {k : Nat} (some_ : k ≠ 0xFFFF) (s : State) : isLost (loseCtx n k s) n k = true := by
  rw [loseCtx]
  split
  · next was => simpa [isLost, some_] using Or.inr (by simpa [some_] using was)
  · have lost : ctxState (setCtx n k .lost s) n k = .lost := tget_tput_self _ _ _ _
    simp [isLost, lost, some_]

/-! ### REARM, CQ_HEAD and ADMQ_ENABLE (R379, R380) -/

theorem rearmSt_replays {r : CRec} (ready : s.bnd.ready = true) (live_ : (queue s q).live = true)
    (going : (queue s q).state ≠ .destroying) (on : s.cu.halted = false) (one : (queue s q).overflow = [r]) :
    rearmSt q 1 s = touchQueue q (ringRec q { r with replay := true } (modQueue q (fun x => { x with overflow := [] }) s)) := by
  simp [rearmSt, ready, live_, going, on, one, replayRecs]

theorem rearmSt_none (k : Nat) (none : (queue s q).overflow = []) : rearmSt q k s = s := by
  simp [rearmSt, none]

variable {fn : Fn}

theorem cqHeadSt_moves (ready : fnReady s fn = true) (shows : showsQueue s fn q = true) (v : BitVec 32) :
    cqHeadSt fn q v s = touchQueue q (modQueue q (fun x => { x with cqHead := v.toNat }) s) := by
  simp [cqHeadSt, ready, shows]

theorem admqSt_on (on : (admOf s fn).enable = true) : admqSt fn s = s := by
  simp [admqSt, on]

/-- The administration queue that ADMQ_ENABLE makes (R380). -/
def admQueue (fn : Fn) (s : State) : Queue :=
  { live := true, kind := .admin, part := admKey fn, owner := 0xFFFF, ringLog2 := (admOf s fn).ringLog2
    cqLog2 := (admOf s fn).cqLog2, ring := (admOf s fn).ringBase, cq := (admOf s fn).cqBase, vector := (admOf s fn).vector
    state := .idle, lastTick := s.tb.tick }

theorem admqSt_enables (ready : fnReady s fn = true) (off : (admOf s fn).enable = false) : admqSt fn s = { s with
    qu := { s.qu with adm := tput s.qu.adm (admKey fn) { admOf s fn with enable := true, cqHead := 0, cqTail := 0 }
                      qs := tput s.qu.qs (0x400 + admKey fn) (admQueue fn s) } } := by
  simp [admqSt, ready, off, admQueue]

end

/-- Settles O46: a completion by the record that it puts; a failed write by the record that it keeps. -/
theorem completionRings : Obligations.CompletionRings := by
  refine ⟨fun c d x s going hx room told => ?_, fun c d s ok silent => ?_, fun q r rest s live_ part written first => ?_,
    fun q r rest s live_ part written four => ?_, fun q r s ready live_ going on one => settles (rearmSt_replays ready live_ going on one),
    fun q k s none => settles (rearmSt_none k none), fun fn q v tb s ready serves shows => settles ?_,
    fun fn tb s ready serves off => ?_, fun fn tb s on => settles ?_⟩
  · subst hx
    rw [complete_records going room told]
    exact ⟨_, mem_withRec _ _, rfl, rfl, rfl, rfl, rfl, rfl, rfl, rfl⟩
  · rw [complete_silent ok silent]
    exact ⟨rfl, rfl, rfl⟩
  · refine ⟨_, settles (writeFailSt_first live_ part written first), ?_, ?_, ?_, ?_, ?_⟩
    · rw [queue_touchQueue_self, queue_stallQueue, queue_keepBack, keptBack, first]
      rfl
    · rw [queue_touchQueue_self, queue_stallQueue, queue_keepBack]
      rfl
    · rw [queue_touchQueue_self, queue_stallQueue, queue_keepBack]
      rfl
    · have stalled : (touchQueue q (stallQueue q (keepBack q r rest s))).qu.stalled = setBit s.qu.stalled q true := by
        rw [touchQueue, stallQueue]
        exact congrArg Queues.stalled (msix_qu _ _ _)
      rw [stalled, getLsbD_setBit (bound := part)]
      simp
    · rw [touchQueue, stallQueue]
      exact congrArg Queues.stallEvents (msix_qu _ _ _)
  · refine ⟨_, settles (writeFailSt_fifth live_ part written four), ?_, ?_, fun some_ => ?_⟩
    · rw [queue_touchQueue_self, queue_loseCtx, queue_keepBack]
      rfl
    · rw [queue_touchQueue_self, queue_loseCtx, queue_keepBack]
      rfl
    · exact isLost_loseCtx _ some_ _
  · exact (atBar_served serves _).trans (cqHeadSt_moves ready shows v)
  · refine ⟨_, settles ((atBar_served serves _).trans (admqSt_enables ready off)), ?_⟩
    have made : queue { s with qu := { s.qu with
        adm := tput s.qu.adm (admKey fn) { admOf s fn with enable := true, cqHead := 0, cqTail := 0 }
        qs := tput s.qu.qs (0x400 + admKey fn) (admQueue fn s) } } (0x400 + admKey fn) = admQueue fn s := tget_tput_self _ _ _ _
    refine ⟨?_, ?_, ?_, ?_, ?_, ?_, fun p other => tget_tput_ne _ _ _ (other)⟩
    · exact congrArg Admq.enable (tget_tput_self _ _ _ _)
    all_goals
      rw [made]
      rfl
  · have same : admqSt fn s = s := admqSt_on on
    rw [atBar, same, ite_self]

end Sys2Proof.Machine
end

section
/-!
SUPPORT. Held misses, the event ring and the host window (R328 to R331, R347).
-/
namespace Sys2Proof.Machine
open Sys2Proof

section
variable {s : State} {n q : Nat} {h : Held}

/-! ### TU_ANSWER (R329) -/

theorem retrySt_resumes (ready : vfReady s n = true) {seq : Nat} (found : missOf s n seq = some (q, h)) (hv : HostView)
    (ats : List AtsAnswer) : retrySt n seq hv ats s = resumeHeld q h hv ats s := by
  simp only [retrySt, ready, Bool.not_true, Bool.false_eq_true, if_false, found]

theorem retrySt_drops (ready : vfReady s n = true) {seq : Nat} (none : missOf s n seq = none) (hv : HostView)
    (ats : List AtsAnswer) : retrySt n seq hv ats s = dropAnswer s := by
  simp only [retrySt, ready, Bool.not_true, Bool.false_eq_true, if_false, none]

theorem answerFailSt_fails (ready : vfReady s n = true) {seq : Nat} (found : missOf s n seq = some (q, h)) :
    answerFailSt n seq s = failHeld q h s := by
  simp only [answerFailSt, ready, Bool.not_true, Bool.false_eq_true, if_false, found]

theorem answerFailSt_drops (ready : vfReady s n = true) {seq : Nat} (none : missOf s n seq = none) :
    answerFailSt n seq s = dropAnswer s := by
  simp only [answerFailSt, ready, Bool.not_true, Bool.false_eq_true, if_false, none]

/-! ### The event ring (R330, R331) -/

theorem vfTu_msix (fn : Fn) (v : Nat) (s : State) (n : Nat) : vfTu (msix fn v s) n = vfTu s n :=
  (congrArg (fun t => vfTu t n) (msix_rest fn v s []) :)

theorem mem_out_msix (fn : Fn) (v : Nat) (s : State) {o : Out} (h : o ∈ s.out) : o ∈ (msix fn v s).out := by
  rw [msix]
  split
  · exact List.mem_cons_of_mem _ h
  · exact h

theorem vfTu_evWrite (n : Nat) (r : EvRec) (s : State) :
    vfTu (evWrite n r s) n = { vfTu s n with evqTail := ((vfTu s n).evqTail + 1) % 2 ^ 17 } := by
  have moved : ∀ o, vfTu (modVfTu n (fun t => { t with evqTail := (t.evqTail + 1) % 2 ^ 17 }) (emit o s)) n =
      { vfTu s n with evqTail := ((vfTu s n).evqTail + 1) % 2 ^ 17 } := fun o => (vfTu_modVfTu _ _ _ _).trans (if_pos rfl)
  rw [evWrite]
  dsimp only
  split <;> split
  · rw [vfTu_msix]
    exact moved _
  · exact moved _
  · rw [vfTu_msix]
    exact moved _
  · exact moved _

theorem evWrite_out (n : Nat) (r : EvRec) (s : State) :
    Out.eventRec n ((vfTu s n).evqBase + 32 * ((vfTu s n).evqTail % 2 ^ (vfTu s n).evqLog2)) (evBytes r) ∈ (evWrite n r s).out := by
  rw [evWrite]
  dsimp only
  split <;> split
  · exact mem_out_msix _ _ _ List.mem_cons_self
  · exact List.mem_cons_self
  · exact mem_out_msix _ _ _ List.mem_cons_self
  · exact List.mem_cons_self

theorem nextSeq_evPush (n : Nat) (r : EvRec) (s : State) : (vfTu (evPush n r s) n).nextSeq = (vfTu s n).nextSeq + 1 := by
  have counts : vfTu (modVfTu n (fun t => { t with nextSeq := t.nextSeq + 1 }) s) n =
      { vfTu s n with nextSeq := (vfTu s n).nextSeq + 1 } := (vfTu_modVfTu _ _ _ _).trans (if_pos rfl)
  simp only [evPush]
  split
  · rw [vfTu_modVfTu, if_pos rfl, counts]
  · rw [vfTu_evWrite, counts]

/-- A new HEAD with no record waiting moves the HEAD alone. -/
theorem evqHeadSt_none (ready : vfReady s n = true) (none : (vfTu s n).waiting = []) (v : BitVec 32) :
    evqHeadSt n v s = modVfTu n (fun t => { t with evqHead := v.toNat % 2 ^ 17 }) s := by
  have moved : (vfTu (modVfTu n (fun t => { t with evqHead := v.toNat % 2 ^ 17 }) s) n).waiting = [] := by
    rw [vfTu_modVfTu, if_pos rfl]
    exact none
  simp only [evqHeadSt, ready, Bool.not_true, Bool.false_eq_true, if_false, evDrain, moved]

/-- The state from which the waiting record is written. -/
def ringFreed (n : Nat) (v : BitVec 32) (s : State) : State :=
  modVfTu n (fun t => { t with waiting := [] }) (modVfTu n (fun t => { t with evqHead := v.toNat % 2 ^ 17 }) s)

theorem vfTu_ringFreed (n : Nat) (v : BitVec 32) (s : State) :
    vfTu (ringFreed n v s) n = { vfTu s n with evqHead := v.toNat % 2 ^ 17, waiting := [] } := by
  rw [ringFreed, vfTu_modVfTu, if_pos rfl, vfTu_modVfTu, if_pos rfl]

/-- A waiting record leaves while the ring has room. -/
theorem evDrain_writes {k : Nat} {r : EvRec} {rs : List EvRec} (waits : (vfTu s n).waiting = r :: rs)
    (room : evqFull (vfTu s n) = false) :
    evDrain n (k + 1) s = evDrain n k (evWrite n r (modVfTu n (fun t => { t with waiting := rs }) s)) := by
  simp only [evDrain, waits, room, Bool.false_eq_true, if_false]

/-- One with a record waiting and room for it writes that record. -/
theorem evqHeadSt_one (ready : vfReady s n = true) {r : EvRec} (one : (vfTu s n).waiting = [r]) {v : BitVec 32}
    (room : evqFull { vfTu s n with evqHead := v.toNat % 2 ^ 17 } = false) :
    evqHeadSt n v s = evWrite n r (ringFreed n v s) := by
  have moved : vfTu (modVfTu n (fun t => { t with evqHead := v.toNat % 2 ^ 17 }) s) n =
      { vfTu s n with evqHead := v.toNat % 2 ^ 17 } := (vfTu_modVfTu _ _ _ _).trans (if_pos rfl)
  have done : (vfTu (evWrite n r (ringFreed n v s)) n).waiting = [] := by rw [vfTu_evWrite, vfTu_ringFreed]
  have first := evDrain_writes (k := 1) (s := modVfTu n (fun t => { t with evqHead := v.toNat % 2 ^ 17 }) s)
    (by rw [moved]; exact one) (by rw [moved]; exact room)
  rw [evqHeadSt, ready, Bool.not_true, if_neg Bool.false_ne_true, one]
  refine first.trans ?_
  change evDrain n 1 (evWrite n r (ringFreed n v s)) = _
  rw [evDrain, done]

/-! ### The host window (R328, R347) -/

theorem atsSt_resumes (held : (queue s q).miss = some h) (host : h.seq = 0) (a : AtsAnswer) (hv : HostView) :
    atsSt q a hv s = resumeHeld q h hv [a] s := by
  simp only [atsSt, held, host, if_true]

theorem atsSt_copy (none : (queue s q).miss = none) {t : Step}
    (waits : s.steps.find? (fun t => t.queue == q && t.atsWait && t.phase == .running) = some t) (a : AtsAnswer) (hv : HostView) :
    atsSt q a hv s = answerCopy t a s := by
  simp only [atsSt, none, waits]

theorem pageSt_fails (held : (queue s q).miss = some h) (host : h.seq = 0) : pageSt q false s = failHeld q h s := by
  simp only [pageSt, held, host, ne_eq, not_true_eq_false, Bool.false_eq_true, if_false]

theorem pageSt_resumes (held : (queue s q).miss = some h) (host : h.seq = 0) : pageSt q true s = resumeHeld q h h.fetch.host []
    ((if h.opcode = 0xC0 then createHosts h.raw else hostRangeOf h.raw).foldl
      (fun s g => dropAtc (.vf h.part) (g.dva % 2 ^ 56) g.size s) s) := by
  simp only [pageSt, held, host, ne_eq, not_true_eq_false, if_false, if_true]

variable {fn : Fn} {b z : Nat}

theorem invalidDoneSt_ends (asked : (fn, b, z) ∈ s.tu.invalidating) (idle : hostInFlight s fn b z = false) :
    invalidDoneSt fn b z s = { s with
      tu := { s.tu with invalidating := s.tu.invalidating.erase (fn, b, z), invalidates := satAdd 64 s.tu.invalidates 1 }
      out := .invalidateDone fn b z :: s.out } := by
  have listed : s.tu.invalidating.contains (fn, b, z) = true := List.contains_iff_mem.mpr asked
  simp only [invalidDoneSt, listed, idle, Bool.not_true, Bool.or_self, Bool.false_eq_true, if_false]
  rfl

theorem invalidDoneSt_waits (busy : hostInFlight s fn b z = true) : invalidDoneSt fn b z s = s := by
  simp only [invalidDoneSt, busy, Bool.or_true, if_true]

theorem invalidateSt_drops (power : s.bnd.powered = true) : invalidateSt fn b z s = { s with
    tu := { s.tu with atc := s.tu.atc.filter fun e => !(decide (e.fn = fn) && overlaps e.base e.size b z)
                      invalidating := s.tu.invalidating ++ [(fn, b, z)] } } := by
  simp only [invalidateSt, power, Bool.not_true, Bool.false_eq_true, if_false, dropAtc]

end

/-- Settles O47: an answer by the command it names, a HEAD by the records that wait, an invalidation by the accesses in flight. -/
theorem answersAndInvalidations : Obligations.AnswersAndInvalidations := by
  refine ⟨fun n seq q h hv ats tb s ready serves found => ⟨settles ?_, settles ?_⟩,
    fun n seq hv ats tb s ready serves none => ⟨settles ?_, settles ?_⟩, fun n v tb s ready serves none => settles ?_,
    fun n v r t tb s ready serves ht one room => ?_, nextSeq_evPush,
    fun q a h hv s held host => ⟨settles (atsSt_resumes held host a hv), settles (pageSt_fails held host), _, rfl,
      settles (pageSt_resumes held host)⟩,
    fun q a hv t s none waits => settles (atsSt_copy none waits a hv), fun fn b z s power => settles (invalidateSt_drops power),
    fun fn b z s asked => ⟨fun idle => settles (invalidDoneSt_ends asked idle), fun busy => settles (invalidDoneSt_waits busy)⟩⟩
  · exact (atBar_served serves _).trans (retrySt_resumes ready found hv ats)
  · exact (atBar_served serves _).trans (answerFailSt_fails ready found)
  · exact (atBar_served serves _).trans (retrySt_drops ready none hv ats)
  · exact (atBar_served serves _).trans (answerFailSt_drops ready none)
  · exact (atBar_served serves _).trans (evqHeadSt_none ready none v)
  · subst ht
    refine ⟨_, settles ((atBar_served serves _).trans (evqHeadSt_one ready one room)), ?_, ?_, ?_⟩
    · rw [vfTu_evWrite, vfTu_ringFreed]
    · rw [vfTu_evWrite, vfTu_ringFreed]
    · have wrote := evWrite_out n r (ringFreed n v s)
      rw [vfTu_ringFreed] at wrote
      exact wrote

end Sys2Proof.Machine
end

section
/-!
SUPPORT. Links and peers (R34, R383, R390 to R394, R415, R416).
-/
namespace Sys2Proof.Machine
open Sys2Proof

section
variable {s : State}

/-! ### Messages of peers (R385, R390) -/

/-- A message that a port hears goes to its rule. -/
theorem Hears.foaRow {m : Datagram} {h : FoaHead} {b : FoaMsg} (heard : Hears s m h b) (k : FoaHead → FoaMsg → State → State) :
    foaRow m k s = k h b s := by
  have on : (!Machine.live s || !s.nu.enable || decide (m.dst ≠ s.nu.udpPort)) = false := by simp [heard.live, heard.enable, heard.port]
  rw [Machine.foaRow, on, if_neg Bool.false_ne_true]
  dsimp only
  rw [heard.message]
  exact fromPort_whole heard.parity heard.inject _ _

/-- The state that has counted a message received. -/
def received (s : State) : State := { s with nu := { s.nu with rxMsgs := satAdd 64 s.nu.rxMsgs 1 } }

theorem foaIn_here {h : FoaHead} (chip : h.dstChip = s.nu.chipId) (k : State → State) : foaIn h k s = k (received s) :=
  if_pos chip

/-- A message for this chip of an enabled peer, of a version that it may carry, goes to its rule. -/
theorem fromPeer_takes {h : FoaHead} (chip : h.dstChip = s.nu.chipId) (plain : h.rsv = false) (on : (peer s h.srcChip).enable = true)
    (version : (peer s h.srcChip).state ≠ .up ∨ h.version ≤ (peer s h.srcChip).version) (k : Peer → State → State) :
    fromPeer h k s = k (peer s h.srcChip) (received s) := by
  have enabled : ¬ (h.rsv || !(peer s h.srcChip).enable) = true := by simp [plain, on]
  have fits : ¬ (decide ((peer s h.srcChip).state = PeerState.up) && decide ((peer s h.srcChip).version < h.version)) = true := by
    simp only [Bool.and_eq_true, decide_eq_true_eq, not_and, Nat.not_lt]
    exact fun up => version.resolve_left (not_not.mpr up)
  exact (foaIn_here chip _).trans ((if_neg enabled).trans (if_neg fits))

/-- Ranges that share version 1 make the peer UP (R390). -/
theorem agree_up {x : Peer} (open_ : x.state = .negotiating) {lo hi tick : Nat} (low : lo ≤ 1) (high : 1 ≤ hi) :
    agree lo hi tick x = { x with state := .up, version := 1, heard := tick } := by
  simp [agree, open_, agreedVersion, low, high]

/-- Ranges that share none make it INCOMPATIBLE. -/
theorem agree_incompatible {x : Peer} (open_ : x.state = .negotiating) {lo hi tick : Nat} (none : 1 < lo ∨ hi < 1) :
    agree lo hi tick x = { x with state := .incompatible, version := 0, heard := tick } := by
  have no : agreedVersion lo hi = .none := by
    simp only [agreedVersion, Bool.and_eq_true, decide_eq_true_eq]
    exact if_neg (by omega)
  simp [agree, open_, no]

theorem agreedVersion_up {lo hi : Nat} (low : lo ≤ 1) (high : 1 ≤ hi) : agreedVersion lo hi = some 1 := by
  simp [agreedVersion, low, high]

theorem agreedVersion_none {lo hi : Nat} (none : 1 < lo ∨ hi < 1) : agreedVersion lo hi = .none := by
  simp only [agreedVersion, Bool.and_eq_true, decide_eq_true_eq]
  exact if_neg (by omega)

section
variable {m : Datagram} {h : FoaHead} {lo hi g : Nat} (plain : h.rsv = false) (on : (peer s h.srcChip).enable = true)
  (open_ : (peer s h.srcChip).state = .negotiating)
include plain on open_

theorem hello_answers (heard : Hears s m h (.hello lo hi)) :
    exec (.hello m.port m.addr m.toUdpDatagram) s = .next (settle (setPeer h.srcChip (agree lo hi s.tb.tick (peer s h.srcChip))
      (sendChip h.srcChip 1 (.helloAck 1 1 ((agreedVersion lo hi).getD 0)) (received s)))) := by
  have version : (peer s h.srcChip).state ≠ .up ∨ h.version ≤ (peer s h.srcChip).version := .inl (by rw [open_]; decide)
  have tick : (sendChip h.srcChip 1 (.helloAck 1 1 ((agreedVersion lo hi).getD 0)) (received s)).tb.tick = s.tb.tick := by
    rw [sendChip]
    split <;> rfl
  have taken := fromPeer_takes heard.chip plain on version fun p t => setPeer h.srcChip
    (agree lo hi (sendChip h.srcChip 1 (.helloAck 1 1 ((agreedVersion lo hi).getD 0)) t).tb.tick p)
    (sendChip h.srcChip 1 (.helloAck 1 1 ((agreedVersion lo hi).getD 0)) t)
  rw [tick] at taken
  exact settles ((heard.foaRow _).trans taken)

theorem helloAck_takes (heard : Hears s m h (.helloAck lo hi g)) :
    exec (.helloAck m.port m.addr m.udp m.toUdpData) s =
      .next (settle (setPeer h.srcChip (agree lo hi s.tb.tick (peer s h.srcChip)) (received s))) := by
  have version : (peer s h.srcChip).state ≠ .up ∨ h.version ≤ (peer s h.srcChip).version := .inl (by rw [open_]; decide)
  have lost : (peer s h.srcChip).state ≠ .lost := by rw [open_]; decide
  have taken := fromPeer_takes heard.chip plain on version fun p t => if p.state = .lost then t
    else setPeer h.srcChip (agree lo hi t.tb.tick p) t
  rw [if_neg lost] at taken
  exact settles ((heard.foaRow _).trans taken)

end

theorem heartbeat_notes {m : Datagram} {h : FoaHead} {t : Nat} {r l : Bool} (heard : Hears s m h (.heartbeat t r l)) (plain : h.rsv = false)
    (on : (peer s h.srcChip).enable = true)
    (version : (peer s h.srcChip).state ≠ .up ∨ h.version ≤ (peer s h.srcChip).version) :
    exec (.heartbeat m.port m.addr m.udp m.toUdpData) s =
      .next (settle (setPeer h.srcChip { peer s h.srcChip with heard := s.tb.tick } (received s))) :=
  settles ((heard.foaRow _).trans (fromPeer_takes heard.chip plain on version
    fun p t => setPeer h.srcChip { p with heard := t.tb.tick } t))

/-! ### Ports (R34, R383) -/

variable {p c : Nat}

theorem linkUpSt_comes (power : s.bnd.powered = true) (stage : s.bnd.stage = .time ∨ s.bnd.stage = .ready) (real : p < 8)
    (on : (port s p).enable = true) (down : (port s p).linkUp = false) :
    linkUpSt p s = { modPort p (fun x => { x with linkUp := true }) s with nu :=
      { (modPort p (fun x => { x with linkUp := true }) s).nu with
        peers := s.nu.peers.map fun e => if e.2.port = p then (e.1, renegotiate e.2) else e } } := by
  rcases stage with at_ | at_ <;> simp [linkUpSt, power, at_, Nat.not_le.mpr real, on, down, modPort]

theorem linkDownSt_goes (power : s.bnd.powered = true) (real : p < 8) :
    linkDownSt p s = modPort p (fun x => { x with linkUp := false }) s := by
  simp [linkDownSt, power, Nat.not_le.mpr real]

theorem dropAt_counts (power : s.bnd.powered = true) (real : p < 8) (up : (port s p).linkUp = true) :
    dropAt p s = modPort p (fun x => { x with rxDrops := satAdd 64 x.rxDrops 1 }) s := by
  simp [dropAt, power, Nat.not_le.mpr real, up]

/-! ### Peer entries (R391, R415) -/

variable {v : Word}

theorem peerEnableSt_starts (on : live s = true) (real : c < 4096) (set_ : v.getLsbD 31 = true) (off : (peer s c).enable = false) :
    peerEnableSt c v s = setPeer c { peer s c with enable := true, port := fld v.toNat 24 3, state := .negotiating, version := 0 } s := by
  have bit : bitAt v.toNat 31 = true := set_
  simp [peerEnableSt, on, Nat.not_le.mpr real, bit, off]

theorem peerEnableSt_keeps (on : live s = true) (real : c < 4096) (set_ : v.getLsbD 31 = true) (was : (peer s c).enable = true)
    (other : fld v.toNat 24 3 ≠ (peer s c).port) :
    peerEnableSt c v s = setPeer c (peer s c) { s with nu := { s.nu with cfgErr := true } } := by
  have bit : bitAt v.toNat 31 = true := set_
  simp [peerEnableSt, on, Nat.not_le.mpr real, bit, was, other]

theorem peerEnableSt_ends (on : live s = true) (real : c < 4096) (clear : v.getLsbD 31 = false)
    (same : fld v.toNat 24 3 = (peer s c).port) :
    peerEnableSt c v s = setPeer c { peer s c with enable := false, state := .disabled, version := 0 } s := by
  have bit : bitAt v.toNat 31 = false := clear
  cases was : (peer s c).enable <;> simp [peerEnableSt, on, Nat.not_le.mpr real, bit, was, same]

/-! ### Loss (R394, R416) -/

/-- What aborts leave: the entries of peers, their loss and the steps. -/
def peerFacts (s : State) : Tab Peer × Bool × Nat × List Step := (s.nu.peers, s.nu.peerLost, s.nu.peerLosses, s.steps)

theorem peerFacts_abortJobOn (n slot : Nat) (reason : Status) (at_ : Nat) (s : State) :
    peerFacts (abortJobOn n slot reason at_ s) = peerFacts s := by
  have sent : ∀ origin t, peerFacts (sendAborts n slot reason origin t) = peerFacts t := by
    intro origin t
    rw [sendAborts]
    refine foldl_same peerFacts (fun u m => ?_) _ _
    dsimp only
    split <;> rfl
  rw [abortJobOn]
  dsimp only
  split
  · rfl
  · rw [sent]
    rfl

theorem peerFacts_msix (fn : Fn) (v : Nat) (s : State) : peerFacts (msix fn v s) = peerFacts s := by
  rw [msix]
  split <;> rfl

/-- The state in which a peer's loss is reported, before the aborts of its jobs. -/
def peerLost (c : Nat) (s : State) : State :=
  let t := setPeer c { peer s c with state := .lost, version := 0, lostTick := s.tb.tick } s
  msix .pf 61 (event 0x810 .peerLost none c
    { t with nu := { t.nu with peerLost := true, peerLosses := satAdd 32 t.nu.peerLosses 1 } })

theorem peerFacts_peerLost (c : Nat) (s : State) : peerFacts (peerLost c s) =
    (tput s.nu.peers c { peer s c with state := .lost, version := 0, lostTick := s.tb.tick }, true, satAdd 32 s.nu.peerLosses 1,
      s.steps) := by
  rw [peerLost, peerFacts_msix]
  rfl

theorem peerLossSt_loses (on : live s = true) (up : (peer s c).state = .up) (late : (peer s c).heard + 4 < s.tb.tick) :
    peerFacts (peerLossSt c s) = peerFacts (peerLost c s) := by
  have go : ¬ (!live s || decide ((peer s c).state ≠ .up) || decide (s.tb.tick ≤ (peer s c).heard + 4)) = true := by
    simp [on, up, Nat.not_le.mpr late]
  rw [peerLossSt]
  dsimp only
  rw [if_neg go]
  change peerFacts (List.foldl _ (peerLost c s) _) = _
  exact foldl_same peerFacts (fun t j => peerFacts_abortJobOn _ _ _ _ t) _ _

theorem peerLossSt_heard (heard : s.tb.tick ≤ (peer s c).heard + 4) : peerLossSt c s = s := by
  simp [peerLossSt, heard]

end

/-- Settles O48: links by their port, peers by what they agree on and by the frames they were not heard. -/
theorem peersAgreeOrAreLost : Obligations.PeersAgreeOrAreLost := by
  refine ⟨fun p s power stage real on down => ⟨_, settles (linkUpSt_comes power stage real on down), ?_, rfl⟩,
    fun p s power real => ⟨settles (linkDownSt_goes power real), fun up => settles (dropAt_counts power real up)⟩,
    fun c v s on real => ⟨fun set_ off => settles (peerEnableSt_starts on real set_ off),
      fun set_ was other => settles (peerEnableSt_keeps on real set_ was other),
      fun clear same => settles (peerEnableSt_ends on real clear same)⟩,
    fun m h lo hi g s s1 plain on open_ hs1 => ⟨fun low high => ⟨fun heard => ?_, fun heard => ?_⟩,
      fun none => ⟨fun heard => ?_, fun heard => ?_⟩⟩,
    fun m h t r l s heard plain on version => heartbeat_notes heard plain on version,
    fun c s on up late => ⟨_, rfl, ?_⟩, fun c s heard => settles (peerLossSt_heard heard)⟩
  · change (port (modPort p (fun x => { x with linkUp := true }) s) p).linkUp = true
    rw [port_modPort, if_pos rfl]
  · subst hs1
    rw [hello_answers plain on open_ heard, agree_up open_ low high, agreedVersion_up low high]
    rfl
  · subst hs1
    rw [helloAck_takes plain on open_ heard, agree_up open_ low high]
    rfl
  · subst hs1
    rw [hello_answers plain on open_ heard, agree_incompatible open_ none, agreedVersion_none none]
    rfl
  · subst hs1
    rw [helloAck_takes plain on open_ heard, agree_incompatible open_ none]
    rfl
  · have facts := (peerLossSt_loses on up late).trans (peerFacts_peerLost c s)
    simp only [peerFacts, Prod.mk.injEq] at facts
    obtain ⟨peers, lost, losses, steps⟩ := facts
    refine ⟨?_, lost, losses, steps⟩
    rw [peer, peers, tget_tput_self]

end Sys2Proof.Machine
end

section
/-!
SUPPORT. Remote gathers: requests, NAKs, replies, resends and digest notes (R397 to R399, R408 to R411).
-/
namespace Sys2Proof.Machine
open Sys2Proof

section
variable {s : State} {h : FoaHead}

/-! ### Messages of a peer that is UP (R397) -/

theorem fromUp_down (chip : h.dstChip = s.nu.chipId) (down : (peer s h.srcChip).state ≠ .up) (k : State → State) :
    fromUp h k s = received s :=
  (foaIn_here chip _).trans (if_pos down)

theorem fromUp_above (chip : h.dstChip = s.nu.chipId) (up : (peer s h.srcChip).state = .up)
    (above : (peer s h.srcChip).version < h.version) (k : State → State) : fromUp h k s = versionDrop (received s) :=
  (foaIn_here chip _).trans ((if_neg (not_not.mpr up)).trans (if_pos above))

theorem fromUp_takes (chip : h.dstChip = s.nu.chipId) (up : (peer s h.srcChip).state = .up)
    (version : h.version ≤ (peer s h.srcChip).version) (k : State → State) : fromUp h k s = k (received s) :=
  (foaIn_here chip _).trans ((if_neg (not_not.mpr up)).trans (if_neg (Nat.not_lt.mpr version)))

/-! ### GATHER_REQ (R397, R408) -/

variable {b : GatherBody} {j : Nat}

/-- The checks of a request in their order. -/
def gatherChecks (h : FoaHead) (b : GatherBody) (s : State) : State :=
  if h.rsv || b.rsv then nakTo h b.tag .reservedNonzero 0x10 0 s
  else if !hasHand s.ps.active h.dstPart || h.roleEpoch ≠ tget 0 s.ps.epochs h.dstPart then
    nakTo h b.tag .staleRole 0x10 (tget 0 s.ps.epochs h.dstPart)
      { s with nu := { s.nu with staleRole := satAdd 64 s.nu.staleRole 1 } }
  else
    match activeSlot s h.dstPart h.jobId h.jobGen with
    | none => nakTo h b.tag .jobAborted 0x10 0 s
    | some j =>
      if (memberIndex (tget {} s.nu.jobs (pkey 5 h.dstPart j)) h.srcChip h.srcPart).isNone then nakTo h b.tag .rights 0x10 0 s
      else if !s.tb.locked || b.execTick ≠ s.tb.tick then nakTo h b.tag .stateConflict 0x10 0 s
      else
        match (exportOf s h.dstPart b.exportNo).filter fun e => exportFits e j b with
        | none => nakTo h b.tag .rights 0x10 0 s
        | some e =>
          match servedSlot s h.dstPart e.cls with
          | none => nakTo h b.tag .refusedCapacity 0x10 0 s
          | some k => serve h b e k s

theorem gatherReqSt_checks (h : FoaHead) (b : GatherBody) : gatherReqSt h b = fromUp h (gatherChecks h b) := rfl

theorem gatherChecks_reserved (set_ : h.rsv = true ∨ b.rsv = true) : gatherChecks h b s = nakTo h b.tag .reservedNonzero 0x10 0 s :=
  if_pos (by simpa using set_)

section
variable (plain : h.rsv = false) (bodyPlain : b.rsv = false)
include plain bodyPlain

theorem gatherChecks_stale (stale : hasHand s.ps.active h.dstPart = false ∨ h.roleEpoch ≠ tget 0 s.ps.epochs h.dstPart) :
    gatherChecks h b s = nakTo h b.tag .staleRole 0x10 (tget 0 s.ps.epochs h.dstPart)
      { s with nu := { s.nu with staleRole := satAdd 64 s.nu.staleRole 1 } } :=
  (if_neg (by simp [plain, bodyPlain])).trans (if_pos (by simpa using stale))

variable (hand : hasHand s.ps.active h.dstPart = true) (epoch : h.roleEpoch = tget 0 s.ps.epochs h.dstPart)
include hand epoch

theorem gatherChecks_noJob (none : activeSlot s h.dstPart h.jobId h.jobGen = none) :
    gatherChecks h b s = nakTo h b.tag .jobAborted 0x10 0 s := by
  simp [gatherChecks, plain, bodyPlain, hand, epoch, none]

variable (job : activeSlot s h.dstPart h.jobId h.jobGen = some j)
include job

theorem gatherChecks_noMember
    (none : memberIndex (tget {} s.nu.jobs (pkey 5 h.dstPart j)) h.srcChip h.srcPart = none) :
    gatherChecks h b s = nakTo h b.tag .rights 0x10 0 s := by
  simp [gatherChecks, plain, bodyPlain, hand, epoch, job, none]

variable {i : Nat} (member : memberIndex (tget {} s.nu.jobs (pkey 5 h.dstPart j)) h.srcChip h.srcPart = some i)
include member

theorem gatherChecks_late (late : s.tb.locked = false ∨ b.execTick ≠ s.tb.tick) :
    gatherChecks h b s = nakTo h b.tag .stateConflict 0x10 0 s := by
  have wrong : s.tb.locked = true → ¬ b.execTick = s.tb.tick := fun locked => late.resolve_left (by simp [locked])
  simp only [gatherChecks, plain, bodyPlain, Bool.or_self, Bool.false_eq_true, if_false, hand, epoch, Bool.not_true, ne_eq,
    not_true_eq_false, decide_false, job, member, Option.isNone_some]
  exact if_pos (by rcases late with off | other <;> simp [*])

variable (locked : s.tb.locked = true) (tick : b.execTick = s.tb.tick)
include locked tick

/-- A request that passes the first five checks is judged by its export and the slot that it finds. -/
theorem gatherChecks_export {e : Option ExportEnt} (hexport : (exportOf s h.dstPart b.exportNo).filter (fun e => exportFits e j b) = e) :
    gatherChecks h b s = e.elim (nakTo h b.tag .rights 0x10 0 s) fun e => (servedSlot s h.dstPart e.cls).elim
      (nakTo h b.tag .refusedCapacity 0x10 0 s) fun k => serve h b e k s := by
  subst hexport
  simp only [gatherChecks, plain, bodyPlain, Bool.or_self, Bool.false_eq_true, if_false, hand, epoch, Bool.not_true, ne_eq,
    not_true_eq_false, decide_false, job, member, Option.isNone_some, locked, tick]
  cases (exportOf s h.dstPart b.exportNo).filter fun e => exportFits e j b with
  | none => rfl
  | some e =>
    dsimp only [Option.elim_some]
    cases servedSlot s h.dstPart e.cls <;> rfl

end

/-- The slot that serves a request is a later one of the hand, not slot 15, of a class that has room in the frame (R408). -/
theorem servedSlot_later {n c k : Nat} (found : servedSlot s n c = some k) : s.tb.slot < k ∧ k < 15 ∧ k ∈ allowedSlots s n ∧
    tget 0 s.ac.frameAdmits (16 * n + c) < (hClass s.ps.active n c).rateCap := by
  unfold servedSlot at found
  obtain ⟨free, found⟩ := Option.ite_none_left_eq_some.mp found
  have mem := List.mem_of_find?_eq_some found
  have fits := List.find?_some found
  have bound : k < 16 := List.mem_range.mp (List.mem_filter.mp mem).1
  simp only [Bool.or_eq_true, decide_eq_true_eq, not_or, Nat.not_le] at free
  simp only [Bool.and_eq_true, decide_eq_true_eq] at fits
  obtain ⟨⟨-, room⟩, -⟩ := free
  obtain ⟨⟨later, last⟩, -⟩ := fits
  exact ⟨later, by omega, mem, room⟩

/-! ### Answers (R398, R399, R409, R410) -/

theorem freshAnswer_stale (stale : h.roleEpoch ≠ tget 0 s.ps.epochs h.dstPart) (k : State → State) :
    freshAnswer h k s = { s with nu := { s.nu with staleReplies := satAdd 64 s.nu.staleReplies 1 } } :=
  if_neg stale

theorem freshAnswer_fresh (fresh_ : h.roleEpoch = tget 0 s.ps.epochs h.dstPart) (k : State → State) : freshAnswer h k s = k s :=
  if_pos fresh_

/-- A key above a table's keys goes at its end. -/
theorem tput_above {α : Type} {t : Tab α} {k : Nat} (above : ∀ p ∈ t, p.1 < k) (a : α) : tput t k a = t ++ [(k, a)] := by
  induction t with
  | nil => rfl
  | cons p r ih =>
    rw [tput, if_pos (above p List.mem_cons_self), ih fun q mem => above q (List.mem_cons_of_mem _ mem)]
    rfl

/-- Columns put in order are listed in order. -/
theorem foldl_tput_zipIdx {α : Type} (l : List α) (k : Nat) {t : Tab α} (above : ∀ p ∈ t, p.1 < k) :
    (l.zipIdx k).foldl (fun g p => tput g p.2 p.1) t = t ++ (l.zipIdx k).map fun p => (p.2, p.1) := by
  induction l generalizing k t with
  | nil => simp
  | cons a l ih =>
    have grown : ∀ p ∈ t ++ [(k, a)], p.1 < k + 1 := by
      intro p mem
      rcases List.mem_append.mp mem with old | new
      · exact Nat.lt_succ_of_lt (above p old)
      · rw [List.mem_singleton.mp new]
        exact Nat.lt_succ_self k
    rw [List.zipIdx_cons, List.foldl_cons, tput_above above, ih (k + 1) grown, List.map_cons, List.append_assoc]
    rfl

theorem tfind_zipIdx {α : Type} (l : List α) (k i : Nat) : tfind ((l.zipIdx k).map fun p => (p.2, p.1)) (k + i) = l[i]? := by
  induction l generalizing k i with
  | nil => simp [tfind]
  | cons a l ih =>
    rw [List.zipIdx_cons, List.map_cons, tfind]
    cases i with
    | zero => simp
    | succ i =>
      rw [if_neg (by omega), show k + (i + 1) = k + 1 + i by omega, ih]
      rfl

/-- The record of a request that one reply completes. -/
def replied (o : OutReq) (b : ReplyBody) : OutReq :=
  { o with got := (b.columns.zipIdx b.elemFirst).foldl (fun g p => tput g p.2 p.1) o.got, terms := some b.terms }

/-- A reply with every column at once ends the request. -/
theorem replyBody_whole {o : OutReq} {b : ReplyBody} {dim : Nat} (none : o.got = []) (first : o.terms = .none)
    (start : b.elemFirst = 0) (whole : b.columns.length = dim) (good : b.columns.all (fun c => columnOk c b.terms) = true) :
    replyBody o dim b s = gatherDone (replied o b) b.terms s := by
  have fits : (decide (b.elemFirst + b.columns.length ≤ dim) && o.terms.all fun t => t == b.terms) = true := by
    simp [start, whole, first]
  have clean : (b.columns.filter fun c => false || !columnOk c b.terms).length = 0 := by
    rw [List.length_eq_zero_iff, List.filter_eq_nil_iff]
    intro c mem
    simp [List.all_eq_true.mp good c mem]
  have length : ((b.columns.zipIdx b.elemFirst).foldl (fun g p => tput g p.2 p.1) o.got).length = dim := by
    rw [none, foldl_tput_zipIdx _ _ (fun p mem => absurd mem List.not_mem_nil)]
    simp [whole]
  simp only [replyBody, fits, clean, Bool.not_true, Nat.lt_irrefl, decide_false, Bool.or_self, Bool.false_eq_true, if_false]
  exact if_pos length

theorem replied_got {o : OutReq} {b : ReplyBody} (none : o.got = []) (start : b.elemFirst = 0) (i : Nat) :
    tfind (replied o b).got i = b.columns[i]? := by
  have listed := tfind_zipIdx b.columns 0 i
  rw [Nat.zero_add] at listed
  rw [replied, none, start, foldl_tput_zipIdx _ _ (fun p mem => absurd mem List.not_mem_nil)]
  exact listed

/-! ### Resends (R411) -/

/-- The message of a request sent again. -/
def resent (o : OutReq) : FoaMsg :=
  match o.body with
  | some b => .gatherReq b
  | none => .jobAbort o.abortTick o.reason o.origin

theorem retransmitSt_sends {tag : Nat} {o : OutReq} (on : live s = true) (found : s.nu.out.find? (fun o => o.tag == tag) = some o)
    (up : foaUp s o.chip = true) (few : o.resends < 3) : retransmitSt tag s = foaSend o.chip o.head (resent o) { s with
      nu := { s.nu with
        out := modFirst (fun o => o.tag == tag) (fun o => { o with resends := o.resends + 1 }) s.nu.out
        retransmits := satAdd 64 s.nu.retransmits 1 } } := by
  simp only [retransmitSt, found, on, up, Nat.not_le.mpr few, Bool.not_true, decide_false, Bool.or_self, Bool.false_eq_true, if_false]
  rfl

theorem retransmitSt_ends {tag : Nat} {o : OutReq} (found : s.nu.out.find? (fun o => o.tag == tag) = some o)
    (three : 3 ≤ o.resends) : retransmitSt tag s = s := by
  simp only [retransmitSt, found, three, decide_true, Bool.or_true, Bool.true_or, if_true]

/-! ### The messages, each by its rule -/

section
variable {m : Datagram} (plain : h.rsv = false) (up : (peer s h.srcChip).state = .up)
  (version : h.version ≤ (peer s h.srcChip).version)
include plain up version

/-- What a reply does under the present epoch. -/
def replyTaken (h : FoaHead) (b : ReplyBody) (s : State) : State :=
  match findOut s h b.tag with
  | none => s
  | some o =>
    match o.body with
    | none => s
    | some g => fillBe h.dstPart (replyBody o g.dim b s)

theorem gatherReply_answers {b : ReplyBody} (heard : Hears s m h (.gatherReply b)) :
    exec (.gatherReply m.port m.toPacket) s = .next (settle (freshAnswer h (replyTaken h b) (received s))) :=
  settles ((heard.foaRow _).trans ((fromUp_takes heard.chip up version _).trans (if_neg (by simp [plain]))))

/-- What a NAK does under the present epoch. -/
def nakTaken (h : FoaHead) (tag : Nat) (st : Status) (epoch : Nat) (s : State) : State :=
  match findOut s h tag with
  | none => s
  | some o => fillBe h.dstPart (refuseGather o st (if st = .staleRole then { s with nu := { s.nu with
      vfs := tmod {} s.nu.vfs h.dstPart fun v =>
        { v with staleEpoch := epoch, stalePart := h.srcPart, staleChip := h.srcChip } } } else s))

theorem nak_answers {tag ty ep : Nat} {st : Status} (heard : Hears s m h (.nak tag st ty ep)) :
    exec (.nak m.port m.addr m.udp m.dst m.toPayload) s =
      .next (settle (freshAnswer h (nakTaken h tag st ep) (received s))) :=
  settles ((heard.foaRow _).trans ((fromUp_takes heard.chip up version _).trans (if_neg (by simp [plain]))))

theorem digestNote_notes {b : NoteBody} {j i : Nat} (heard : Hears s m h (.digestNote b)) (bodyPlain : b.rsv = false)
    (canon : b.canon = 1) (hand : hasHand s.ps.active h.dstPart = true) (epoch : h.roleEpoch = tget 0 s.ps.epochs h.dstPart)
    (job : activeSlot s h.dstPart h.jobId h.jobGen = some j)
    (member : memberIndex (tget {} s.nu.jobs (pkey 5 h.dstPart j)) h.srcChip h.srcPart = some i)
    (few : (tget {} s.nu.jobs (pkey 5 h.dstPart j)).count ≤ 15) :
    exec (.digestNote m.port m.toPacket) s = .next (settle (noteSt h.dstPart j i b (received s))) := by
  have job' : activeSlot (received s) h.dstPart h.jobId h.jobGen = some j := job
  have member' : memberIndex (tget {} (received s).nu.jobs (pkey 5 h.dstPart j)) h.srcChip h.srcPart = some i := member
  have few' : (tget {} (received s).nu.jobs (pkey 5 h.dstPart j)).count ≤ 15 := few
  have hand' : hasHand (received s).ps.active h.dstPart = true := hand
  have epoch' : h.roleEpoch = tget 0 (received s).ps.epochs h.dstPart := epoch
  refine settles ((heard.foaRow _).trans ((fromUp_takes heard.chip up version _).trans ?_))
  simp only [plain, bodyPlain, canon, hand', epoch', job', member', few', Bool.or_self, ne_eq, not_true_eq_false, decide_false,
    Bool.not_true, Bool.false_eq_true, if_false, if_true]

end

theorem gatherReq_checks {m : Datagram} (heard : Hears s m h (.gatherReq b)) :
    exec (.gatherReq m.port m.toPacket) s = .next (settle (fromUp h (gatherChecks h b) s)) :=
  settles (heard.foaRow _)

end

/-- Settles O49: a request by its checks in their order, an answer by its epoch and the request it names. -/
theorem gathers : Obligations.Gathers := by
  refine ⟨?_, ?_, ?_, fun tag o s on found up few => ⟨resent o, settles (retransmitSt_sends on found up few), fun b body => ?_,
    fun none => ?_⟩, fun tag o s found three => settles (retransmitSt_ends found three),
    fun m h b j i s heard plain up version bodyPlain canon hand epoch job member few =>
      digestNote_notes plain up version heard bodyPlain canon hand epoch job member few⟩
  · rintro m h b n s s1 heard rfl rfl
    refine ⟨fun down => ?_, fun up above => ?_, fun up version => ⟨fun set_ => ?_, fun plain bodyPlain => ⟨fun stale => ?_,
      fun hand epoch => ⟨fun none => ?_, fun j job => ⟨fun none => ?_, fun i member => ⟨fun late => ?_, fun locked tick =>
        ⟨fun none => ?_, fun e found => ⟨fun misfit => ?_, fun fits none => ?_, fun k fits slot => ⟨?_, servedSlot_later slot⟩⟩⟩⟩⟩⟩⟩⟩⟩ <;>
      rw [gatherReq_checks heard]
    · rw [fromUp_down heard.chip down]
      rfl
    · rw [fromUp_above heard.chip up above]
      rfl
    all_goals rw [fromUp_takes heard.chip up version]
    · rw [gatherChecks_reserved set_]
      rfl
    · rw [gatherChecks_stale (s := received s) plain bodyPlain stale]
      rfl
    · rw [gatherChecks_noJob (s := received s) plain bodyPlain hand epoch none]
      rfl
    · rw [gatherChecks_noMember (s := received s) plain bodyPlain hand epoch job none]
      rfl
    · rw [gatherChecks_late (s := received s) plain bodyPlain hand epoch job member late]
      rfl
    · rw [gatherChecks_export (s := received s) (e := .none) plain bodyPlain hand epoch job member locked tick
        (congrArg (Option.filter _) none)]
      rfl
    all_goals have filtered := congrArg (Option.filter fun e => exportFits e j b) found
    · rw [Option.filter_some, misfit, if_neg Bool.false_ne_true] at filtered
      rw [gatherChecks_export (s := received s) (e := .none) plain bodyPlain hand epoch job member locked tick filtered]
      rfl
    all_goals rw [Option.filter_some, fits, if_pos rfl] at filtered
    · rw [gatherChecks_export (s := received s) (e := some e) plain bodyPlain hand epoch job member locked tick filtered,
        Option.elim_some, show servedSlot (received s) h.dstPart e.cls = _ from none]
      rfl
    · rw [gatherChecks_export (s := received s) (e := some e) plain bodyPlain hand epoch job member locked tick filtered,
        Option.elim_some, show servedSlot (received s) h.dstPart e.cls = _ from slot]
      rfl
  · rintro m h b s s1 heard plain up version rfl
    rw [gatherReply_answers plain up version heard]
    refine ⟨fun stale => ?_, fun epoch none => ?_, fun epoch o g found body none first start whole some_ good =>
      ⟨replied o b, rfl, rfl, rfl, fun i c at_ => (replied_got none start i).trans at_, ?_⟩⟩
    · rw [freshAnswer_stale (s := received s) stale]
      rfl
    · rw [freshAnswer_fresh (s := received s) epoch, replyTaken, show findOut (received s) h b.tag = _ from none]
      rfl
    · rw [freshAnswer_fresh (s := received s) epoch, replyTaken, show findOut (received s) h b.tag = _ from found]
      dsimp only
      rw [body]
      dsimp only
      rw [replyBody_whole none first start whole good]
      rfl
  · rintro m h tag st ty ep s s1 heard plain up version rfl
    rw [nak_answers plain up version heard]
    refine ⟨fun stale => ?_, fun epoch none => ?_, fun epoch o found => ⟨fun other => ?_, fun stale => ?_⟩⟩
    · rw [freshAnswer_stale (s := received s) stale]
      rfl
    all_goals rw [freshAnswer_fresh (s := received s) epoch, nakTaken]
    · rw [show findOut (received s) h tag = _ from none]
      rfl
    · rw [show findOut (received s) h tag = _ from found]
      dsimp only
      rw [if_neg other]
      rfl
    · rw [show findOut (received s) h tag = _ from found]
      dsimp only
      rw [if_pos stale, stale]
      rfl
  · rw [resent, body]
  · rw [resent, none]

end Sys2Proof.Machine
end

section
/-!
SUPPORT. Job slots and export tables (R400 to R406).
-/
namespace Sys2Proof.Machine
open Sys2Proof

section
variable {s : State} {n j : Nat} {x : Job}

/-! ### LOAD (R400, R401) -/

theorem endLoad_ok (hx : x = tget {} s.nu.jobs (pkey 5 n j)) (l : List Member) : endLoad n j (.ok, l) s =
    setJob n j { x with state := .active, status := .ok, tick := 0, list := l, closing := false } s := by
  subst hx
  rw [endLoad, if_pos rfl]

theorem endLoad_fails (hx : x = tget {} s.nu.jobs (pkey 5 n j)) {st : Status} (bad : st ≠ .ok) (l : List Member) :
    endLoad n j (st, l) s = setJob n j { x with status := st } s := by
  subst hx
  exact if_neg bad

section
variable (ready : vfReady s n = true) (real : j < 32)
include ready real

theorem jobLoadSt_barred (barred : loadBarred s n j = true) (host : HostView) :
    jobLoadSt n j host s = endLoad n j (.stateConflict, []) s := by
  simp only [jobLoadSt, ready, Nat.not_le.mpr real, barred, Bool.not_true, decide_false, Bool.or_self, Bool.false_eq_true, if_false, if_true]

/-- What the read of a list leads to. -/
def listRead (n j count : Nat) (host : HostView) : ReadNow × State → State
  | (.refused, t) => endLoad n j (.rights, []) t
  | (.wait, t) => waitLoad (.job n j host) t
  | (.got bs _, t) => endLoad n j (loadMembers t count bs) t

theorem jobLoadSt_reads (free : loadBarred s n j = false) (host : HostView) (hx : x = tget {} s.nu.jobs (pkey 5 n j)) :
    jobLoadSt n j host s = listRead n j x.count host (readRight n host x.members (8 * x.count) s) := by
  subst hx
  simp only [jobLoadSt, ready, Nat.not_le.mpr real, free, Bool.not_true, decide_false, Bool.or_self, Bool.false_eq_true, if_false]
  rfl

theorem jobCloseSt_closes (hx : x = tget {} s.nu.jobs (pkey 5 n j)) (open_ : x.state = .active ∨ x.state = .aborted) :
    jobCloseSt n j s = setJob n j { x with closing := true } s := by
  subst hx
  rcases open_ with active | aborted
  · simp [jobCloseSt, ready, Nat.not_le.mpr real, active]
  · simp [jobCloseSt, ready, Nat.not_le.mpr real, aborted]

end

/-- A slot that a LOAD may fill (R401). -/
theorem loadBarred_free (hx : x = tget {} s.nu.jobs (pkey 5 n j)) (free : loadBarred s n j = false) : s.tb.locked = true ∧
    0 < x.count ∧ x.count ≤ 4096 ∧ x.id ≠ 0 ∧ x.state ≠ .active ∧ x.state ≠ .aborting := by
  subst hx
  simp only [loadBarred, Bool.or_eq_false_iff, decide_eq_false_iff_not, Bool.not_eq_false', Nat.not_lt] at free
  obtain ⟨⟨⟨⟨⟨⟨active, aborting⟩, id_⟩, -⟩, locked⟩, some_⟩, few⟩ := free
  exact ⟨locked, Nat.pos_of_ne_zero some_, few, id_, active, aborting⟩

theorem loadBarred_active (active : (tget {} s.nu.jobs (pkey 5 n j)).state = .active) : loadBarred s n j = true := by
  simp [loadBarred, active]

theorem memberOf_other {bs : List Byte} {m : Member} (member : memberOf s bs = some m) : m.chip ≠ s.nu.chipId := by
  obtain ⟨shape, same⟩ := Option.ite_none_left_eq_some.mp member
  cases same
  exact fun own => shape (.inr (.inr own))

/-- A list that is read whole has its members, each another chip that is UP. -/
theorem loadMembers_ok {count : Nat} {bs : List Byte} {l : List Member} (ok : loadMembers s count bs = (.ok, l)) :
    l.length = count ∧ ∀ m ∈ l, (peer s m.chip).state = .up ∧ m.chip ≠ s.nu.chipId := by
  unfold loadMembers at ok
  dsimp only at ok
  split at ok
  · cases ok
  · next whole =>
    split at ok
    · cases ok
    · split at ok
      · cases ok
      · next up =>
        cases ok
        have most := List.length_filterMap_le id ((List.range count).map fun i => memberOf s ((bs.drop (8 * i)).take 8))
        rw [List.length_map, List.length_range] at most whole
        refine ⟨Nat.le_antisymm most (Nat.not_lt.mp whole), fun m mem => ⟨?_, ?_⟩⟩
        · by_contra other
          exact up (List.any_eq_true.mpr ⟨m, mem, by simpa using other⟩)
        · obtain ⟨o, listed, rfl⟩ := List.mem_filterMap.mp mem
          obtain ⟨i, -, member⟩ := List.mem_map.mp listed
          exact memberOf_other member

/-! ### Aborts (R402, R403, R405) -/

/-- Messages about an abort leave the slots as they are. -/
theorem sendAborts_jobs (n slot : Nat) (reason : Status) (origin : Nat) (s : State) :
    (sendAborts n slot reason origin s).nu.jobs = s.nu.jobs := by
  rw [sendAborts]
  refine foldl_same (fun t : State => t.nu.jobs) (fun u m => ?_) _ _
  dsimp only
  split <;> rfl

/-- The slot that an abort asked for here leaves. -/
theorem slotAbortSt_job (ready : vfReady s n = true) (real : j < 32) (hx : x = tget {} s.nu.jobs (pkey 5 n j))
    (active : x.state = .active) : tget {} (slotAbortSt n j s).nu.jobs (pkey 5 n j) =
      { x with state := .aborting, abortAt := abortAt s, reason := .jobAborted } := by
  subst hx
  have go : (vfReady s n && decide (j < 32)) = true := by simp [ready, real]
  rw [slotAbortSt, if_pos go, abortJob]
  dsimp only
  rw [if_neg (not_not.mpr active), sendAborts_jobs]
  exact tget_tput_self _ _ _ _

theorem abortAt_soon (s : State) : s.tb.tick < abortAt s ∧ abortAt s ≤ s.tb.tick + 2 := by
  rw [abortAt]
  split <;> omega

/-- The slot at its abort tick. -/
def slotAborted (n j : Nat) (x : Job) (s : State) : State :=
  setJob n j { x with state := .aborted, status := x.reason, tick := x.abortAt } s

/-- The kills of an abort (R405). -/
def abortKills (n j : Nat) (x : Job) (s : State) : State :=
  killAll (servedFor x n) .silent (killAll
    (fun t => t.part == n && t.gather.isNone && namesJob t.opcode t.raw j) (.complete x.reason) s)

theorem abortTickSt_aborts (on : live s = true) (hx : x = tget {} s.nu.jobs (pkey 5 n j)) (aborting : x.state = .aborting)
    (due : x.abortAt ≤ s.tb.tick) (commit : s.cu.open_ = none) : abortTickSt n j s =
      ((abortKills n j x (slotAborted n j x s)).qu.qs.filter fun q => q.2.part == n && heldNames j q.2).foldl
        (fun s q => touchQueue q.1 (dropHeld q.1 (some x.reason) s)) (abortKills n j x (slotAborted n j x s)) := by
  subst hx
  exact if_neg (by simp [on, aborting, Nat.not_lt.mpr due, commit])

theorem abortKills_none (none : s.steps = []) (n j : Nat) (x : Job) : abortKills n j x s = s := by
  simp [abortKills, killAll, none]

theorem abortTickSt_early (early : s.tb.tick < (tget {} s.nu.jobs (pkey 5 n j)).abortAt) : abortTickSt n j s = s :=
  if_pos (by simp [early])

/-! ### Messages about an abort (R402) -/

/-- What a JOB_ABORT does once it is acknowledged. -/
def jobAborted (h : FoaHead) (abortTick : Nat) (reason : Status) (s : State) : State :=
  match activeSlot s h.dstPart h.jobId h.jobGen with
  | none => s
  | some k =>
    let t := setJob h.dstPart k { tget {} s.nu.jobs (pkey 5 h.dstPart k) with
      state := .aborting, reason := reason, abortAt := if abortTick ≤ s.tb.tick then s.tb.tick + 1 else abortTick } s
    if abortTick ≤ s.tb.tick then
      { t with nu := { t.nu with lateAbort := true, lateAborts := satAdd 32 t.nu.lateAborts 1 } } else t

variable {m : Datagram} {h : FoaHead}

theorem jobAbort_answers {at_ org : Nat} {r : Status} (heard : Hears s m h (.jobAbort at_ r org)) (plain : h.rsv = false)
    (up : (peer s h.srcChip).state = .up) (version : h.version ≤ (peer s h.srcChip).version) (going : s.cu.halted = false) :
    exec (.jobAbort m.port m.addr m.udp m.toUdpData) s = .next (settle (jobAborted h at_ r
      (foaSend h.srcChip (backHead h (peer s h.srcChip).version) .abortAck (received s)))) := by
  have going' : ¬ (received s).cu.halted = true := by
    rw [show (received s).cu.halted = false from going]
    exact Bool.false_ne_true
  exact settles ((heard.foaRow _).trans ((fromUp_takes heard.chip up version _).trans ((if_neg (by simp [plain])).trans
    (congrArg (jobAborted h at_ r) (if_neg going')))))

theorem jobAborted_none {at_ : Nat} {r : Status} (none : activeSlot s h.dstPart h.jobId h.jobGen = none) :
    jobAborted h at_ r s = s := by
  rw [jobAborted, none]

theorem jobAborted_timely {at_ k : Nat} {r : Status} (job : activeSlot s h.dstPart h.jobId h.jobGen = some k)
    (timely : s.tb.tick < at_) : jobAborted h at_ r s = setJob h.dstPart k { tget {} s.nu.jobs (pkey 5 h.dstPart k) with
      state := .aborting, reason := r, abortAt := at_ } s := by
  rw [jobAborted, job]
  dsimp only
  rw [if_neg (Nat.not_le.mpr timely), if_neg (Nat.not_le.mpr timely)]

/-- One that comes late aborts at the next tick and is counted. -/
theorem jobAborted_late {at_ k : Nat} {r : Status} (job : activeSlot s h.dstPart h.jobId h.jobGen = some k)
    (late : at_ ≤ s.tb.tick) : (tget {} (jobAborted h at_ r s).nu.jobs (pkey 5 h.dstPart k)).abortAt = s.tb.tick + 1 ∧
      (jobAborted h at_ r s).nu.lateAbort = true ∧ (jobAborted h at_ r s).nu.lateAborts = satAdd 32 s.nu.lateAborts 1 := by
  rw [jobAborted, job]
  dsimp only
  rw [if_pos late, if_pos late]
  exact ⟨congrArg Job.abortAt (tget_tput_self _ _ _ _), rfl, rfl⟩

/-- Requests that an ABORT_ACK answers: those of the abort that it names. -/
def acked (h : FoaHead) (o : OutReq) : Bool :=
  o.body.isNone && o.chip == h.srcChip && o.head.jobId == h.jobId && o.head.jobGen == h.jobGen &&
    o.head.srcPart == h.dstPart && o.head.dstPart == h.srcPart

theorem abortAck_ends (heard : Hears s m h .abortAck) (plain : h.rsv = false) (up : (peer s h.srcChip).state = .up)
    (version : h.version ≤ (peer s h.srcChip).version) : exec (.abortAck m) s = .next (settle { s with
      nu := { s.nu with rxMsgs := satAdd 64 s.nu.rxMsgs 1, out := s.nu.out.filter fun o => !acked h o } }) :=
  settles ((heard.foaRow _).trans ((fromUp_takes heard.chip up version _).trans (if_neg (by simp [plain]))))

/-! ### EXPORT_LOAD (R406) -/

theorem exportLoadSt_large (ready : vfReady s n = true) {count : Nat} (large : 64 < count) (host : HostView) :
    exportLoadSt n count host s = endExports n count (.error (0, .stateConflict)) s := by
  simp only [exportLoadSt, ready, Bool.not_true, Bool.false_eq_true, if_false, large, if_true]

/-- What the read of an export table leads to. -/
def exportsRead (n count : Nat) (host : HostView) : ReadNow × State → State
  | (.refused, t) => endExports n count (.error (0, .rights)) t
  | (.wait, t) => waitLoad (.exports n count host) t
  | (.got bs _, t) =>
    endExports n count (exportTable (countWalks n host (walkedExports t n bs count) t) n count host bs)
      (countWalks n host (walkedExports t n bs count) t)

theorem exportLoadSt_reads (ready : vfReady s n = true) {count : Nat} (few : count ≤ 64) (host : HostView) :
    exportLoadSt n count host s = exportsRead n count host (readRight n host (tget {} s.nu.vfs n).exportBase (32 * count) s) := by
  simp only [exportLoadSt, ready, Bool.not_true, Bool.false_eq_true, if_false, Nat.not_lt.mpr few]
  rfl

theorem evPush_nu (n : Nat) (e : EvRec) (s : State) : (evPush n e s).nu = s.nu := by
  have wrote : ∀ (r : EvRec) (t : State), (evWrite n r t).nu = t.nu := fun r t => by
    have message : ∀ fn v u, (msix fn v u).nu = u.nu := fun fn v u => (congrArg State.nu (msix_rest fn v u []) :)
    rw [evWrite]
    dsimp only
    split <;> split
    · rw [message]
      rfl
    · rfl
    · rw [message]
      rfl
    · rfl
  simp only [evPush]
  split
  · rfl
  · rw [wrote]
    rfl

theorem dropRefs_nu (n : Nat) (js : List Nat) (s : State) : (dropRefs n js s).nu = s.nu := by
  refine foldl_same State.nu (fun t i => ?_) _ _
  simp only [dropDevRef]
  split
  · rfl
  · simp only [countObj]
    split
    · rw [evPush_nu]
      rfl
    · rfl

theorem takeRefs_nu (n : Nat) (xs : List Xlat) (s : State) : (takeRefs n xs s).nu = s.nu :=
  foldl_same (f := fun t j => takeDevRef n j t) State.nu (fun _ _ => rfl) _ _

/-- A table that is valid waits for the next tick; the load in force stays. -/
theorem endExports_ok (n count : Nat) (l : List ExportEnt) (s : State) : tget {} (endExports n count (.ok l) s).nu.vfs n =
    { tget {} s.nu.vfs n with exportStatus := .ok, exportIndex := 0, exportCount := count % 128, nextExports := some l } := by
  rw [endExports]
  dsimp only
  rw [tget_tmod_self, dropRefs_nu, takeRefs_nu]

/-- A table that is read whole has its entries, each as its 32 bytes give it. -/
theorem loadExports_ok {host : HostView} {bs : List Byte} {k i : Nat} {l : List ExportEnt}
    (ok : loadExports s n host bs i k = .ok l) : l.length = k ∧
      ∀ p e, l[p]? = some e → loadExport s n host ((bs.drop (32 * (i + p))).take 32) = .ok e := by
  induction k generalizing i l with
  | zero =>
    cases ok
    exact ⟨rfl, fun p e at_ => by simp at at_⟩
  | succ k ih =>
    rw [loadExports] at ok
    cases first : loadExport s n host ((bs.drop (32 * i)).take 32) with
    | error st =>
      rw [first] at ok
      cases ok
    | ok e =>
      rw [first] at ok
      dsimp only at ok
      cases more : loadExports s n host bs (i + 1) k with
      | error st =>
        rw [more] at ok
        cases ok
      | ok r =>
        rw [more] at ok
        cases ok
        obtain ⟨length, entries⟩ := ih more
        refine ⟨congrArg (· + 1) length, fun p e' at_ => ?_⟩
        cases p with
        | zero =>
          cases at_
          exact first
        | succ p =>
          rw [show i + (p + 1) = i + 1 + p by omega]
          exact entries p e' at_

theorem exportTable_ok {count : Nat} {host : HostView} {bs : List Byte} {l : List ExportEnt}
    (ok : exportTable s n count host bs = .ok l) : l.length = count ∧
      ∀ i e, l[i]? = some e → loadExport s n host ((bs.drop (32 * i)).take 32) = .ok e := by
  rw [exportTable] at ok
  cases read : loadExports s n host bs 0 count with
  | error x =>
    rw [read] at ok
    cases ok
  | ok r =>
    rw [read] at ok
    dsimp only at ok
    split at ok
    · cases ok
      obtain ⟨length, entries⟩ := loadExports_ok read
      exact ⟨length, fun i e at_ => by simpa using entries i e at_⟩
    · cases ok

end

/-- Settles O50: a LOAD by its read, an abort by its tick, an export table by its entries. -/
theorem jobsAndExports : Obligations.JobsAndExports := by
  refine ⟨?_, fun n j st l x s hx => ⟨fun ok => ?_, fun bad => endLoad_fails hx bad l⟩,
    fun n j x s hx free => loadBarred_free hx free, fun count bs l s ok => loadMembers_ok ok, ?_,
    fun n j s early => settles (abortTickSt_early early), ?_,
    fun m h s heard plain up version => ⟨_, fun o mem => (List.mem_filter.mp mem).1, fun o mem body => ?_,
      abortAck_ends heard plain up version⟩, ?_,
    fun n count l s => ⟨_, rfl, ?_, ?_, ?_⟩, fun n count i st s => rfl, fun n count host bs l s ok => exportTable_ok ok⟩
  · intro n j host tb x s ready serves real hx
    refine ⟨fun barred => settles ?_, fun free t => ⟨fun read => settles ?_, fun read => settles ?_, fun bs p read => settles ?_⟩,
      fun open_ => settles ((atBar_served serves _).trans (jobCloseSt_closes ready real hx open_)),
      fun active => ⟨loadBarred_active (hx ▸ active), _, settles (atBar_served serves _), ?_⟩⟩
    · exact (atBar_served serves _).trans ((jobLoadSt_barred ready real barred host).trans
        (endLoad_fails hx (by decide) _))
    · rw [atBar_served serves, jobLoadSt_reads ready real free host hx, read, listRead]
    · rw [atBar_served serves, jobLoadSt_reads ready real free host hx, read, listRead]
    · rw [atBar_served serves, jobLoadSt_reads ready real free host hx, read, listRead]
    · rw [slotAbortSt_job ready real hx active]
      exact ⟨rfl, rfl, abortAt_soon s⟩
  · subst ok
    exact endLoad_ok hx l
  · intro n j x s on hx aborting due commit
    refine ⟨abortKills n j x (slotAborted n j x s), rfl, settles (abortTickSt_aborts on hx aborting due commit),
      fun none queues => settles ?_⟩
    have steps : (slotAborted n j x s).steps = [] := none
    have queues' : (slotAborted n j x s).qu.qs = [] := queues
    rw [abortTickSt_aborts on hx aborting due commit, abortKills_none steps, queues']
    rfl
  · rintro m h at_ r org s s1 heard plain up version going rfl
    rw [jobAbort_answers heard plain up version going]
    refine ⟨fun none => ?_, fun k job timely => ?_, fun k job late => ⟨_, rfl, ?_⟩⟩
    · rw [jobAborted_none (s := foaSend h.srcChip (backHead h (peer s h.srcChip).version) .abortAck (received s)) none]
      rfl
    · rw [jobAborted_timely (s := foaSend h.srcChip (backHead h (peer s h.srcChip).version) .abortAck (received s)) job timely]
      rfl
    · exact jobAborted_late (s := foaSend h.srcChip (backHead h (peer s h.srcChip).version) .abortAck (received s)) job late
  · refine List.mem_filter.mpr ⟨mem, ?_⟩
    cases request : o.body with
    | none => simp [request] at body
    | some b => simp [acked, request]
  · intro n count host tb s ready serves
    refine ⟨fun large => settles ((atBar_served serves _).trans (exportLoadSt_large ready large host)),
      fun few t => ⟨fun read => settles ?_, fun read => settles ?_, fun bs p t1 read ht1 => settles ?_⟩⟩
    · rw [atBar_served serves, exportLoadSt_reads ready few host, read, exportsRead]
    · rw [atBar_served serves, exportLoadSt_reads ready few host, read, exportsRead]
    · subst ht1
      rw [atBar_served serves, exportLoadSt_reads ready few host, read, exportsRead]
  all_goals rw [endExports_ok]

end Sys2Proof.Machine
end

section
/-!
SUPPORT. What a fault message makes in the recorder (R423, R427, R429, R432, R433, R435, R457).
-/
namespace Sys2Proof.Machine
open Sys2Proof

section
variable {m : FMsg} {s : State}

/-! ### A record of its own -/

/-- The step of the ladder that a message takes (R427, R435). -/
def stepOf (m : FMsg) (s : State) : Nat :=
  if s.cu.halted || m.quiet then 0
  else if m.injected && kindClass m.kind = .f then min (ladderStep (tget {} s.fc.src m.source) m.kind) 1
  else ladderStep (tget {} s.fc.src m.source) m.kind

/-- The record that a message makes, before the recorder stamps it. -/
def madeRec (m : FMsg) (s : State) : FRec :=
  { type := .fault, injected := m.injected, cls := kindClass m.kind, source := m.source, kind := m.kind, part := m.part
    status := m.status, address := m.address, operation := m.op, ladder := stepOf m s, ctx := m.ctx, detail := shownDetail s m
    queue := m.queue }

/-- The state with that record and its source's entry. -/
def recorded_ (m : FMsg) (s : State) : State :=
  let t := record (madeRec m s) s
  { t with fc := { t.fc with
    src := tput t.fc.src m.source (srcAfter (tget {} s.fc.src m.source) (kindClass m.kind) (stepOf m s) t.tb.now) } }

/-- A record counts in the totals of its partition. -/
def countPart (m : FMsg) (s : State) : State :=
  match m.part with
  | some n => if kindClass m.kind = .u then modHr n (fun h => { h with uFaults := satAdd 64 h.uFaults 1 }) s else s
  | none => s

theorem countPart_rest (m : FMsg) (s : State) : { countPart m s with tc := s.tc } = s := by
  rw [countPart]
  split
  · split <;> rfl
  · rfl

theorem report_makes (own : coalesces s m = false) : report m s = react m (stepOf m s) (countPart m (recorded_ m s)) := by
  rw [report, own, if_neg Bool.false_ne_true]
  rfl

theorem report_fc (own : coalesces s m = false) : (report m s).fc = (recorded_ m s).fc := by
  rw [report_makes own, (react_reactsTo _ _ _).fc]
  exact (congrArg State.fc (countPart_rest m (recorded_ m s)) :)

/-- A message while the device is halted takes no step. -/
theorem report_halted (own : coalesces s m = false) (halted : s.cu.halted = true) :
    (report m s).cu = s.cu ∧ (report m s).bnd = s.bnd ∧ (report m s).rc = s.rc := by
  have none : stepOf m s = 0 := by simp [stepOf, halted]
  have rest := countPart_rest m (recorded_ m s)
  rw [report_makes own, none]
  exact ⟨(congrArg State.cu rest :), (congrArg State.bnd rest :), (congrArg State.rc rest :)⟩

/-- The record as it stands in the recorder. -/
def stamped (r : FRec) (s : State) : FRec :=
  { r with
    seq := s.fc.newest + 1, timeNs := if s.tb.running then s.tb.now else 0, tick := if s.tb.running then s.tb.tick else 0
    early := !s.bnd.ready, temp := toSigned 16 (fresh 16 s).1, volt := (fresh 16 (fresh 16 s).2).1 }

theorem srcAfter_pends (r : Src) (k step now : Nat) : pendOf (srcAfter r (kindClass k) step now) (kindClass k) = true ∧
    (srcAfter r (kindClass k) step now).inFault = true := by
  have some_ : kindClass k ≠ .none_ := by
    unfold kindClass
    split
    · decide
    · split <;> decide
  cases cls : kindClass k with
  | none_ => exact absurd cls some_
  | c => exact ⟨rfl, rfl⟩
  | u => exact ⟨rfl, rfl⟩
  | f => exact ⟨rfl, rfl⟩

/-! ### A message that coalesces (R423) -/

theorem modFirst_repeats (l : List FRec) (u : Nat) {r : FRec} (found : l.find? (fun r => r.source == u) = some r) :
    (modFirst (fun r => r.source == u) (fun r => { r with repeats := satAdd 16 r.repeats 1 }) l).find?
      (fun r => r.source == u) = some { r with repeats := satAdd 16 r.repeats 1 } :=
  find?_modFirst found (by simpa using List.find?_some found)

theorem report_repeats (again : coalesces s m = true) {r : FRec} (found : s.fc.bbr.find? (fun r => r.source == m.source) = some r) :
    report m s = { s with fc := toMirrors { r with repeats := satAdd 16 r.repeats 1 } { s.fc with
      bbr := modFirst (fun r => r.source == m.source) (fun r => { r with repeats := satAdd 16 r.repeats 1 }) s.fc.bbr } } := by
  rw [report, again, if_pos rfl]
  dsimp only
  rw [modFirst_repeats _ _ found]

/-! ### The ladder (R427, R429) -/

theorem ladderStep_repeat {r : Src} {k : Nat} (pends : pendOf r (kindClass k) = true) :
    ladderStep r k ≤ capOf (kindClass k) ∧ min (capOf (kindClass k)) (lastStep r (kindClass k) + 1) ≤ ladderStep r k := by
  have up : ladderStep r k = min (capOf (kindClass k)) (max (kindFloor k) (lastStep r (kindClass k) + 1)) := by
    simp only [ladderStep, pends, if_true]
  rw [up]
  exact ⟨Nat.min_le_left _ _, min_le_min_left _ (Nat.le_max_right _ _)⟩

theorem ladderStep_first {r : Src} {k : Nat} (first : pendOf r (kindClass k) = false) :
    ladderStep r k = max (baseStep r (kindClass k)) (kindFloor k) := by
  simp only [ladderStep, first, Bool.false_eq_true, if_false]

/-- An EVENT record pends nothing. -/
theorem event_pends (src : Nat) (st : Status) (part : Option Nat) (detail : Nat) (s : State) (u : Nat) (k : FClass) :
    pendOf (tget {} (event src st part detail s).fc.src u) k = pendOf (tget {} s.fc.src u) k := by
  rw [event_src]
  by_cases same : u = src
  · subst same
    rw [tget_tmod_self]
    cases k <;> rfl
  · rw [tget_tmod_ne _ _ _ same]

end

/-- Settles O51: a message makes one record or repeats the newest of its source. -/
theorem faultRecords : Obligations.FaultRecords := by
  refine ⟨fun m s own => ?_, fun m s again => ?_, fun r k pends => ladderStep_repeat pends, fun r k first => ladderStep_first first,
    fun src st part detail s => ⟨rfl, event_pends src st part detail s, rfl, rfl, rfl⟩⟩
  · have source : ∀ u, tget {} (recorded_ m s).fc.src u = if u = m.source
        then srcAfter (tget {} s.fc.src m.source) (kindClass m.kind) (stepOf m s) s.tb.now else tget {} s.fc.src u :=
      fun u => tget_tput _ _ _ _ _
    rw [report_fc own]
    refine ⟨stamped (madeRec m s) s, rfl, rfl, rfl, rfl, rfl, rfl, rfl, rfl, rfl, rfl, ?_, ?_, fun u other => ?_, report_halted own⟩
    · rw [source, if_pos rfl]
      exact (srcAfter_pends _ _ _ _).1
    · rw [source, if_pos rfl]
      exact (srcAfter_pends _ _ _ _).2
    · rw [source, if_neg other]
  · obtain ⟨r, found, -⟩ := exists_names_of_coalesces again
    exact ⟨_, r, _, found, rfl, modFirst_repeats _ _ found, modFirst_length _ _ _, report_repeats again found⟩

end Sys2Proof.Machine
end

section
/-!
SUPPORT. Replica comparison (R452 to R455): when an entry decides, and what.
-/
namespace Sys2Proof.Machine
open Sys2Proof

section
variable {s : State} {e : CmpEntry}

/-! ### The close time (R452, R453) -/

variable {n j r p : Nat}

theorem cmpCloseSt_decides (on : live s = true) (found : s.fc.cmps.find? (isCmp n j r p) = some e)
    (due : p + s.fc.closeFrames ≤ s.tb.tick) : cmpCloseSt n j r p s = decide_ e s := by
  simp only [cmpCloseSt, found, on, due, decide_true, Bool.and_self, if_true]

theorem cmpCloseSt_waits (held : s.fc.cmps.find? (isCmp n j r p) = none ∨ s.tb.tick < p + s.fc.closeFrames) :
    cmpCloseSt n j r p s = s := by
  unfold cmpCloseSt
  split
  · rfl
  · next e found =>
    rcases held with none | early
    · rw [none] at found
      cases found
    · rw [if_neg (by simp [early])]

/-! ### The reference and the bitmaps (R454) -/

/-- More than half of the members hold the reference. -/
theorem cmpReference_most {d : Digest} (ref : cmpReference e = some d) :
    1 + e.members < 2 * (e.digests.filter fun p => p.2 == d).length := by
  simpa using List.find?_some ref

theorem bitAt_bitsOf {l : List Nat} {i : Nat} (low : i < 16) : bitAt (bitsOf 16 l).toNat i = decide (i ∈ l) := by
  change (bitsOf 16 l).getLsbD i = _
  rw [bitsOf, getLsbD_foldl_setBit _ _ _ low]
  simp

/-- The bitmap of the members that meet a condition. -/
theorem bitAt_members {f : Nat → Bool} {i : Nat} (low : i < 16) (k : Nat) :
    bitAt (bitsOf 16 ((List.range (1 + k)).filter f)).toNat i = (decide (i ≤ k) && f i) := by
  rw [bitAt_bitsOf low]
  simp only [List.mem_filter, List.mem_range, Bool.decide_and, Bool.decide_eq_true]
  congr 1
  exact decide_eq_decide.mpr (by omega)

theorem cmpDetail_bits {d : Digest} (ref : cmpReference e = some d) {i : Nat} (low : i < 16) :
    bitAt (cmpDetail e).1 i = (decide (i ≤ e.members) && tfind e.digests i == some d) ∧
    bitAt (cmpDetail e).2.1 i = (decide (i ≤ e.members) && tfind e.digests i != some d) ∧
    bitAt (cmpDetail e).2.2 i = (decide (i ≤ e.members) && (tfind e.digests i).isNone) := by
  unfold cmpDetail
  rw [ref]
  exact ⟨bitAt_members low _, bitAt_members low _, bitAt_members low _⟩

/-! ### The decision (R453, R455) -/

/-- The state without the entry that decides. -/
def cmpClosed (e : CmpEntry) (s : State) : State :=
  { s with fc := { s.fc with cmps := s.fc.cmps.filter fun x => !isCmp e.part e.slot e.rangeId e.periodTick x
                             decided := satAdd 64 s.fc.decided 1
                             closed := (e.part, e.slot, e.rangeId, e.periodTick) :: s.fc.closed } }

/-- The fault that reports odd members. -/
def oddReport (e : CmpEntry) : FMsg :=
  { source := 0xA00, kind := 0x38, address := e.rangeId, part := some e.part
    detail := (cmpDetail e).2.2 * 2 ^ 32 + (cmpDetail e).2.1 * 2 ^ 16 + (cmpDetail e).1 }

theorem decide_whole {d : Digest} (ref : cmpReference e = some d) (whole : (cmpDetail e).2.1 = 0) (s : State) :
    decide_ e s = cmpClosed e s := by
  rw [decide_]
  dsimp only
  rw [ref]
  exact if_pos whole

theorem decide_odd {d : Digest} (ref : cmpReference e = some d) (odd : (cmpDetail e).2.1 ≠ 0) (s : State) :
    decide_ e s = if bitAt (cmpDetail e).2.1 0 then holdPart e.part (report (oddReport e) (cmpClosed e s))
      else report (oddReport e) (cmpClosed e s) := by
  rw [decide_]
  dsimp only
  rw [ref]
  exact if_neg odd

theorem decide_none (none : cmpReference e = none) (s : State) :
    decide_ e s = holdPart e.part (report { oddReport e with kind := 0x39 } (cmpClosed e s)) := by
  rw [decide_]
  dsimp only
  rw [none]
  rfl

theorem report_cmps (m : FMsg) (s : State) : (report m s).fc.cmps = s.fc.cmps := by
  cases again : coalesces s m with
  | false =>
    rw [report_fc again]
    rfl
  | true =>
    obtain ⟨r, found, -⟩ := exists_names_of_coalesces again
    rw [report_repeats again found]
    rfl

theorem report_ps (m : FMsg) (s : State) : (report m s).ps = s.ps := (congrArg State.ps (report_rest m s) :)

theorem decide_cmps (e : CmpEntry) (s : State) : (decide_ e s).fc.cmps = (cmpClosed e s).fc.cmps := by
  cases ref : cmpReference e with
  | none =>
    rw [decide_none ref]
    exact report_cmps _ _
  | some d =>
    by_cases whole : (cmpDetail e).2.1 = 0
    · rw [decide_whole ref whole]
    · rw [decide_odd ref whole]
      split
      · exact report_cmps _ _
      · exact report_cmps _ _

/-- The entry that decided is gone. -/
theorem decide_gone (e : CmpEntry) (s : State) : ∀ c ∈ (decide_ e s).fc.cmps, isCmp e.part e.slot e.rangeId e.periodTick c = false := by
  intro c mem
  rw [decide_cmps] at mem
  simpa using (List.mem_filter.mp mem).2

/-- Where the local partition holds the reference nothing is held. -/
theorem decide_agrees {d : Digest} (ref : cmpReference e = some d) (holds : tfind e.digests 0 = some d) (s : State) :
    (decide_ e s).ps = s.ps := by
  obtain ⟨-, odd, -⟩ := cmpDetail_bits ref (i := 0) (by omega)
  rw [holds, bne_self_eq_false, Bool.and_false] at odd
  by_cases whole : (cmpDetail e).2.1 = 0
  · rw [decide_whole ref whole]
    rfl
  · rw [decide_odd ref whole, odd, if_neg Bool.false_ne_true, report_ps]
    rfl

/-- Where it does not, it is held. -/
theorem decide_holds {d : Digest} (ref : cmpReference e = some d) (other : tfind e.digests 0 ≠ some d) (s : State) :
    (decide_ e s).ps.hold = setBit s.ps.hold e.part true := by
  obtain ⟨-, odd, -⟩ := cmpDetail_bits ref (i := 0) (by omega)
  rw [decide_eq_true (Nat.zero_le _), Bool.true_and, bne_iff_ne.mpr other] at odd
  have some_ : (cmpDetail e).2.1 ≠ 0 := fun zero => by simp [zero, bitAt] at odd
  rw [decide_odd ref some_, odd, if_pos rfl, holdPart, report_ps]
  rfl

theorem decide_unknown (none : cmpReference e = none) (s : State) : (decide_ e s).ps.hold = setBit s.ps.hold e.part true := by
  rw [decide_none none, holdPart, report_ps]
  rfl

end

/-- Settles O53: the close time by the entry that is there, the decision by the reference and its bitmaps. -/
theorem comparisonsDecide : Obligations.ComparisonsDecide :=
  ⟨fun _ _ _ _ _ _ on found due => settles (cmpCloseSt_decides on found due), fun _ _ _ _ _ held => settles (cmpCloseSt_waits held),
    decide_gone, fun _ _ => cmpReference_most, fun _ _ _ ref _ low => cmpDetail_bits ref low,
    fun _ _ s ref holds => decide_agrees ref holds s, fun _ _ s ref other _ => decide_holds ref other s,
    fun _ s none _ => decide_unknown none s⟩

end Sys2Proof.Machine
end

section
/-!
SUPPORT. Captures and the dump area (R485 to R488, R492, R500).
-/
namespace Sys2Proof.Machine
open Sys2Proof

/-! ### Sorted lists of units -/

theorem mem_insertBy' {a x : Nat} {l : List Nat} : x ∈ sortBy.insertBy' id a l ↔ x = a ∨ x ∈ l := by
  induction l with
  | nil => simp [sortBy.insertBy']
  | cons b l ih =>
    rw [sortBy.insertBy']
    split
    · exact List.mem_cons
    · rw [List.mem_cons, ih, List.mem_cons]
      exact or_left_comm

theorem mem_sortBy {x : Nat} {l : List Nat} : x ∈ sortBy id l ↔ x ∈ l := by
  induction l with
  | nil => simp [sortBy]
  | cons a l ih =>
    change x ∈ sortBy.insertBy' id a (sortBy id l) ↔ _
    rw [mem_insertBy', ih, List.mem_cons]

/-- A number put in its place keeps a list rising. -/
theorem insertBy'_rises {a : Nat} {l : List Nat} (rises : l.Pairwise (· < ·)) (new : a ∉ l) :
    (sortBy.insertBy' id a l).Pairwise (· < ·) := by
  induction l with
  | nil => exact List.pairwise_singleton _ _
  | cons b l ih =>
    obtain ⟨above, rest⟩ := List.pairwise_cons.mp rises
    rw [List.mem_cons, not_or] at new
    rw [sortBy.insertBy']
    split
    · next le =>
      have less : a < b := Nat.lt_of_le_of_ne le new.1
      refine List.pairwise_cons.mpr ⟨fun x mem => ?_, rises⟩
      rcases List.mem_cons.mp mem with rfl | later
      · exact less
      · exact Nat.lt_trans less (above x later)
    · next gt =>
      refine List.pairwise_cons.mpr ⟨fun x mem => ?_, ih rest new.2⟩
      rcases mem_insertBy'.mp mem with rfl | later
      · exact Nat.not_le.mp gt
      · exact above x later

theorem sortBy_rises {l : List Nat} (once : l.Nodup) : (sortBy id l).Pairwise (· < ·) := by
  induction l with
  | nil => exact List.Pairwise.nil
  | cons a l ih =>
    obtain ⟨new, rest⟩ := List.nodup_cons.mp once
    exact insertBy'_rises (ih rest) fun mem => new (mem_sortBy.mp mem)

theorem mem_of_mem_uniq {x : Nat} {l : List Nat} (mem : x ∈ uniq l) : x ∈ l := by
  induction l with
  | nil => exact mem
  | cons a l ih =>
    rw [uniq] at mem
    split at mem
    · exact List.mem_cons_of_mem _ (ih mem)
    · rcases List.mem_cons.mp mem with rfl | later
      · exact List.mem_cons_self
      · exact List.mem_cons_of_mem _ (ih later)

theorem nodup_uniq (l : List Nat) : (uniq l).Nodup := by
  induction l with
  | nil => exact List.nodup_nil
  | cons a l ih =>
    rw [uniq]
    split
    · exact ih
    · next new => exact List.nodup_cons.mpr ⟨fun mem => new (List.contains_iff_mem.mpr (mem_of_mem_uniq mem)), ih⟩

theorem captureUnits_rises (s : State) (c : Capture) : (captureUnits s c).Pairwise (· < ·) := sortBy_rises (nodup_uniq _)

section
variable {s : State} {c : Capture} {r : Reset}

/-! ### Reads and the end of a capture (R485 to R487) -/

theorem colSt_silent {u : Nat} (capture : s.rc.capture = some c) (asked : u ∈ captureUnits s c) (new : u ∉ c.silent) :
    colSt u s = report { source := 0xA02, kind := 0x60, address := u, part := some c.part }
      { s with rc := { s.rc with capture := some { c with silent := c.silent ++ [u] }
                                 colTimeouts := satAdd 32 s.rc.colTimeouts 1 } } := by
  have asked' : (captureUnits s c).contains u = true := List.contains_iff_mem.mpr asked
  have new' : c.silent.contains u = false := by simpa using new
  simp only [colSt, capture, asked', new', Bool.not_true, Bool.or_self, Bool.false_eq_true, if_false]
  rfl

theorem colSt_none (noCapture : s.rc.capture = none) (noReset : s.bnd.prep = none) (u : Nat) : colSt u s = s := by
  simp only [colSt, noCapture, noReset]

theorem captureSt_dump (capture : s.rc.capture = some c) (current : s.rc.current = some r) {n : Nat} (dump : r.domain = .dump n)
    {w : State} (hw : w = writeCapture c s) :
    captureSt s = endCmd r.cmd { st := .ok } { w with rc := { w.rc with capture := none, current := none } } := by
  subst hw
  simp only [captureSt, capture, current, dump]

theorem captureSt_reset (capture : s.rc.capture = some c) (current : s.rc.current = some r) (other : ∀ n, r.domain ≠ .dump n)
    {w : State} (hw : w = writeCapture c s) :
    captureSt s = startKills { r with captured := true } { w with rc := { w.rc with capture := none } } := by
  subst hw
  unfold captureSt
  rw [capture, current]
  dsimp only
  split
  · next n dump => exact absurd dump (other n)
  · rfl

/-! ### The header (R488) -/

/-- The header before COMPLETE. -/
def headerFields (s : State) (c : Capture) : List Byte :=
  leBytes 1 1 ++ leBytes c.scope 1 ++ leBytes (causeCode c.cause) 1 ++ leBytes c.part 1 ++
    leBytes (if c.scope = 1 || c.scope = 2 then c.index else 0) 2 ++ leBytes (partGen s c.part) 1 ++ [0] ++
    leBytes c.bbrSeq 8 ++ leBytes (s.tb.tick % 2 ^ 48) 8 ++ leBytes s.tb.now 8 ++ leBytes (planId s.ps.active) 8 ++
    leBytes (captureQueues s c).length 2 ++ leBytes (captureEngines s c).length 2 ++ leBytes (captureUnits s c).length 2 ++
    leBytes c.silent.length 2

theorem dumpHeader_eq (s : State) (c : Capture) : dumpHeader s c = headerFields s c ++ [1] ++ List.replicate 207 0 := rfl

theorem headerFields_length (s : State) (c : Capture) : (headerFields s c).length = 0x30 := by
  simp [headerFields]

theorem dumpHeader_length (s : State) (c : Capture) : (dumpHeader s c).length = 256 := by
  rw [dumpHeader_eq, List.length_append, List.length_append, headerFields_length, List.length_replicate, List.length_singleton]

theorem dumpHeader_complete (s : State) (c : Capture) : (dumpHeader s c)[0x30]? = some 1 := by
  rw [dumpHeader_eq, List.append_assoc, List.getElem?_append_right (headerFields_length s c).le, headerFields_length]
  rfl

theorem dumpHeader_version (s : State) (c : Capture) : (dumpHeader s c).take 2 = [1, BitVec.ofNat 8 c.scope] := by
  simp [dumpHeader, leBytes]

/-! ### RC_DUMP_BASE (R492, R500) -/

variable {n sz b : Nat} {v : Word} {h : HostView} {s1 : State}

/-- A write of the dump base that leaves it at zero. -/
def dumpCleared (n : Nat) (st : Status) (s : State) : State :=
  { s with rc := { s.rc with dumpBase := tdel s.rc.dumpBase n, dumpXlat := tdel s.rc.dumpXlat n
                             dumpStatus := tput s.rc.dumpStatus n st } }

/-- The range of a dump area. -/
def dumpRange (b : Nat) : Rng := { dva := b, size := 2 ^ 20, r := true, w := true }

/-- What the walk of an area decides. -/
def dumpWalked (n b : Nat) (s : State) : XOut → State
  | .ok xs => if pinFits s n xs then { s with rc := { s.rc with
      dumpBase := tput s.rc.dumpBase n b, dumpXlat := tput s.rc.dumpXlat n (dedupX xs)
      dumpStatus := tput s.rc.dumpStatus n .ok } } else dumpCleared n .stateConflict s
  | .miss _ _ => dumpCleared n .translationPending s
  | .fail st _ => dumpCleared n st s

section
variable (ready : vfReady s n = true) (size : sz = 4 ∨ sz = 8)
  (hb : b = fld (if sz = 8 then v.toNat else tget 0 s.rc.dumpBase n / 2 ^ 32 * 2 ^ 32 + v.toNat % 2 ^ 32) 12 45 * 4096)
include ready size hb

theorem dumpBaseSt_decides : dumpBaseSt n 0 sz v h s = if b = 0 then dumpCleared n .ok s
    else if isHost b then dumpCleared n .rights s
    else dumpWalked n b (countWalks n h [dumpRange b] s) (walkRange (countWalks n h [dumpRange b] s) n h (dumpRange b)) := by
  have go : ¬ (!vfReady s n || decide ((0 : Nat) ≠ 0) || (decide (sz ≠ 4) && decide (sz ≠ 8))) = true := by
    rcases size with rfl | rfl <;> simp [ready]
  simp only [dumpBaseSt, if_neg go, ← hb]
  by_cases zero : b = 0
  · simp only [if_pos zero]
    rfl
  · by_cases host : isHost b = true
    · simp only [if_neg zero, if_pos host]
      rfl
    · simp only [if_neg zero, if_neg host, dumpRange]
      obtain ⟨t, ht⟩ : ∃ t, countWalks n h [{ dva := b, size := 2 ^ 20, r := true, w := true }] s = t := ⟨_, rfl⟩
      obtain ⟨x, hx⟩ : ∃ x, walkRange t n h { dva := b, size := 2 ^ 20, r := true, w := true } = x := ⟨_, rfl⟩
      rw [ht, hx]
      cases x <;> rfl

end
end

/-- Settles O54: a read by its unit, the end of a capture by what waits for it, RC_DUMP_BASE by the walk of its area. -/
theorem capturesAndTheDumpArea : Obligations.CapturesAndTheDumpArea := by
  refine ⟨fun c r u s capture _ asked new => settles (colSt_silent capture asked new),
    fun u s noCapture noReset => settles (colSt_none noCapture noReset u),
    fun c r n s capture current dump => ⟨_, rfl, settles (captureSt_dump capture current dump rfl)⟩,
    fun c r s capture current other => ⟨_, rfl, settles (captureSt_reset capture current other rfl)⟩,
    fun c s => ⟨dumpHeader_length s c, dumpHeader_complete s c, dumpHeader_version s c⟩, fun c s => captureUnits_rises s c, ?_⟩
  intro n sz v h tb b s s1 ready serves size hb hs1
  have decides := (atBar_served serves (dumpBaseSt n 0 sz v h)).trans (dumpBaseSt_decides ready size hb (h := h))
  change s1 = countWalks n h [dumpRange b] s at hs1
  rw [← hs1] at decides
  refine ⟨fun zero => settles ?_, fun some_ host => settles ?_, fun some_ device => ⟨fun xs walked fits => settles ?_, fun st why => ?_⟩⟩
  · rw [decides, if_pos zero]
    rfl
  · rw [decides, if_neg some_, if_pos host]
    rfl
  all_goals rw [if_neg some_, device, if_neg Bool.false_ne_true] at decides
  · rw [decides, show walkRange s1 n h (dumpRange b) = _ from walked]
    exact if_pos fits
  · refine settles (decides.trans ?_)
    rcases why with ⟨xs, walked, full, rfl⟩ | ⟨x, walked⟩ | ⟨l, x, walked, rfl⟩ <;>
      rw [show walkRange s1 n h (dumpRange b) = _ from walked]
    · exact if_neg (by simp [full])
    · rfl
    · rfl

end Sys2Proof.Machine
end

section
/-!
SUPPORT. Writes of the chip at the homes leave the queues and the contexts as they are (R252 to R268): each function of the homes
changes lines, steps, memory, the collector and what leaves the block.
-/
namespace Sys2Proof.Machine
open Sys2Proof

/-- The queues and the contexts. -/
def homeKept (s : State) : Queues × Tab CtxState := (s.qu, s.tu.ctxs)

section
variable {s : State}

/-- An update of anything but the queues and the Translation Unit. -/
@[simp] theorem homeKept_update (s : State) {bnd tb cu steps ps ac rie lre coh mi nu fc rc tc hm loads out fcn nid pend} :
    homeKept ⟨bnd, tb, cu, steps, ps, ac, rie, lre, coh, mi, s.tu, s.qu, nu, fc, rc, tc, hm, loads, out, fcn, nid, pend⟩ = homeKept s :=
  rfl

theorem homeKept_memory {s t : State} (h : MemoryMoves s t) : homeKept t = homeKept s := (congrArg homeKept h :)

@[simp] theorem homeKept_ite {c : Prop} [Decidable c] (s t : State) :
    homeKept (if c then s else t) = if c then homeKept s else homeKept t := apply_ite homeKept c s t

theorem homeKept_foldl {α : Type} {f : State → α → State} (each : ∀ s a, homeKept (f s a) = homeKept s) (l : List α) (s : State) :
    homeKept (l.foldl f s) = homeKept s := foldl_same homeKept each l s

@[simp] theorem homeKept_report (m : FMsg) (s : State) : homeKept (report m s) = homeKept s := homeKept_memory (report_moves m s)
@[simp] theorem homeKept_writeMem (k : Nat) (d : Line) (p : Bool) (s : State) : homeKept (writeMem k d p s) = homeKept s :=
  homeKept_memory (writeMem_moves k d p s)
@[simp] theorem homeKept_setLlc (k : Nat) (l : LlcLine) (s : State) : homeKept (setLlc k l s) = homeKept s := rfl
@[simp] theorem homeKept_putLlc (k : Nat) (l : LlcLine) (s : State) : homeKept (putLlc k l s) = homeKept s := rfl
@[simp] theorem homeKept_fetchLine (k : Nat) (i : HomeItem) (s : State) : homeKept (fetchLine k i s) = homeKept s := rfl
@[simp] theorem homeKept_emit (o : Out) (s : State) : homeKept (emit o s) = homeKept s := rfl
@[simp] theorem homeKept_modStep (i : Nat) (f : Step → Step) (s : State) : homeKept (modStep i f s) = homeKept s := rfl
@[simp] theorem homeKept_sendTile (t : Nat) (m : HomeMsg) (tag a : Nat) (d : Line) (p : Bool) (s : State) :
    homeKept (sendTile t m tag a d p s) = homeKept s := rfl
@[simp] theorem homeKept_wbAck (i : HomeItem) (s : State) : homeKept (wbAck i s) = homeKept s := rfl

@[simp] theorem homeKept_tidyLine (k : Nat) (s : State) : homeKept (tidyLine k s) = homeKept s := by
  simp [tidyLine]

@[simp] theorem homeKept_toTile (t : Nat) (m : HomeMsg) (tag k : Nat) (s : State) : homeKept (toTile t m tag k s) = homeKept s := by
  simp [toTile, noteRead]

/-! ### Snoops -/

@[simp] theorem homeKept_trySnoop (k : Nat) (s : State) (t : Nat) : homeKept (trySnoop k s t) = homeKept s := by
  have sent : homeKept (sendSnoop k s t) = homeKept s := by
    unfold sendSnoop
    dsimp only
    split
    · rfl
    · simp
  simp [trySnoop, sent]

@[simp] theorem homeKept_snoopAll (k : Nat) (kind : TransKind) (i : HomeItem) (ts : List Nat) (s : State) :
    homeKept (snoopAll k kind i ts s) = homeKept s :=
  homeKept_foldl (homeKept_trySnoop k) ts _

@[simp] theorem homeKept_offerStash (k : Nat) (i : HomeItem) (s : State) : homeKept (offerStash k i s) = homeKept s := by
  unfold offerStash
  split
  · rfl
  · simp

/-! ### What a request ends in -/

@[simp] theorem homeKept_applyWrite (k : Nat) (i : HomeItem) (s : State) : homeKept (applyWrite k i s) = homeKept s := by
  simp [applyWrite]

@[simp] theorem homeKept_endRecover (k : Nat) (s : State) : homeKept (endRecover k s) = homeKept s := by
  simp [endRecover]

@[simp] theorem homeKept_dropLine (k : Nat) (s : State) : homeKept (dropLine k s) = homeKept s := by
  simp [dropLine]

@[simp] theorem homeKept_stepGot (k id : Nat) (s : State) : homeKept (stepGot k id s) = homeKept s := by
  have retained : ∀ n t, homeKept (retainLine n k t) = homeKept t := fun n t => by
    unfold retainLine
    dsimp only
    split
    · rfl
    · rfl
  simp [stepGot, retained]

@[simp] theorem homeKept_answerRead (k : Nat) (i : HomeItem) (s : State) : homeKept (answerRead k i s) = homeKept s := by
  unfold answerRead
  dsimp only
  split
  · rfl
  · exact homeKept_stepGot k _ s
  · rfl

@[simp] theorem homeKept_atomAnswer (i : HomeItem) (st : Status) (old : Nat) (p : Bool) (s : State) :
    homeKept (atomAnswer i st old p s) = homeKept s := by
  unfold atomAnswer
  dsimp only
  split <;> rfl

@[simp] theorem homeKept_performAtom (k : Nat) (i : HomeItem) (home : Bool) (d : Line) (p : Bool) (s : State) :
    homeKept (performAtom k i home d p s) = homeKept s := by
  unfold performAtom
  split
  · rfl
  · cases i.step with
    | none => simp
    | some id => simp

@[simp] theorem homeKept_finishItem (k : Nat) (i : HomeItem) (kind : TransKind) (kept : Option Nat) (s : State) :
    homeKept (finishItem k i kind kept s) = homeKept s := by
  unfold finishItem
  dsimp only
  cases i.kind <;> cases kept <;> simp

/-! ### A request begins -/

@[simp] theorem homeKept_downgrade (k : Nat) (i : HomeItem) (s : State) : homeKept (downgrade k i s) = homeKept s := by
  simp [downgrade]

@[simp] theorem homeKept_invalidate (k : Nat) (i : HomeItem) (ts : List Nat) (s : State) :
    homeKept (invalidate k i ts s) = homeKept s := by
  simp [invalidate]

@[simp] theorem homeKept_strange (code : Nat) (i : HomeItem) (s : State) : homeKept (strange code i s) = homeKept s := by
  simp [strange, impossible]

@[simp] theorem homeKept_begin (k : Nat) (i : HomeItem) (s : State) : homeKept (begin_ k i s) = homeKept s := by
  unfold begin_
  dsimp only
  split <;> simp only [homeKept_ite, homeKept_fetchLine, homeKept_finishItem, homeKept_toTile, homeKept_setLlc, homeKept_downgrade,
    homeKept_invalidate, homeKept_strange, homeKept_performAtom, homeKept_wbAck, homeKept_answerRead, homeKept_applyWrite,
    homeKept_dropLine, ite_self]

@[simp] theorem homeKept_serveItem (k : Nat) (i : HomeItem) (s : State) : homeKept (serveItem k i s) = homeKept s := by
  simp [serveItem]

@[simp] theorem homeKept_arrive (k : Nat) (i : HomeItem) (s : State) : homeKept (arrive k i s) = homeKept s := by
  simp [arrive]

@[simp] theorem homeKept_arriveCommit (k : Nat) (i : HomeItem) (s : State) : homeKept (arriveCommit k i s) = homeKept s := by
  simp [arriveCommit]

@[simp] theorem homeKept_evict (k : Nat) (s : State) : homeKept (evict k s) = homeKept s := by
  simp [evict]

@[simp] theorem homeKept_place (k dpa way : Nat) (s : State) : homeKept (place k dpa way s) = homeKept s := by
  unfold place
  dsimp only
  split
  · rw [homeKept_putLlc]
    split
    · exact homeKept_evict _ s
    · rfl
  · rfl

/-! ### A write reaches its home -/

@[simp] theorem homeKept_injected (checker unit : Nat) (part : Option Nat) (s : State) :
    homeKept (injected checker unit part s).2 = homeKept s := by
  unfold injected
  dsimp only
  split
  · split <;> rfl
  · split <;> rfl

@[simp] theorem homeKept_drain (k fuel : Nat) (s : State) : homeKept (drain k fuel s) = homeKept s := by
  induction fuel generalizing s with
  | zero => rfl
  | succ fuel ih =>
    unfold drain
    dsimp only
    split
    · rw [ih, homeKept_serveItem, homeKept_putLlc]
    · rfl

@[simp] theorem homeKept_drainAll (k : Nat) (s : State) : homeKept (drainAll k s) = homeKept s := homeKept_drain k _ s

@[simp] theorem homeKept_llcError (k : Nat) (inj : Bool) (s : State) : homeKept (llcError k inj s) = homeKept s := by
  simp [llcError]

@[simp] theorem homeKept_claim (p line k : Nat) (s : State) : homeKept (claim p line k s) = homeKept s := by
  have zeroed : homeKept (zeroLines p (line / 32 * 32) s) = homeKept s := by
    unfold zeroLines
    generalize List.range 32 = l
    exact homeKept_foldl (fun t i => homeKept_writeMem _ _ _ t) l s
  rw [claim_eq, claimed, homeKept_update, homeKept_memory (modPc_moves _ _ _), homeKept_memory (setBlock_moves _ _ _ _), zeroed]

@[simp] theorem homeKept_access (p line k : Nat) (s : State) : homeKept (access p line k s).2 = homeKept s := by
  unfold access
  split
  · rfl
  · dsimp only
    split
    · rfl
    · exact homeKept_claim p line k s
  · rfl

theorem homeKept_reachEntry (n k : Nat) (a : ArrayRead) (i : HomeItem) {go : Nat → HomeItem → State → State}
    (goes : ∀ k i t, homeKept (go k i t) = homeKept t) (s : State) : homeKept (reachEntry n k a i go s) = homeKept s := by
  unfold reachEntry
  dsimp only
  split
  · exact goes k i s
  · split
    · simp
    · simp [goes]

@[simp] theorem homeKept_writeLine (n dpa off : Nat) (bs : List Byte) (poison isStep : Bool) (stash : Option Nat) (s : State) :
    homeKept (writeLine n dpa off bs poison isStep stash s).2 = homeKept s := by
  unfold writeLine
  split
  · rfl
  · next k home =>
    dsimp only
    split
    · refine (homeKept_reachEntry n k _ _ (fun k i t => ?_) _).trans ((homeKept_place ..).trans (homeKept_access ..))
      split
      · exact homeKept_arriveCommit k i t
      · exact homeKept_arrive k i t
    · exact homeKept_access ..

@[simp] theorem homeKept_writeDva (n : Nat) (xs : List Xlat) (dva : Nat) (bs : List Byte) (isStep : Bool) (stash : Option Nat)
    (s : State) : homeKept (writeDva n xs dva bs isStep stash s) = homeKept s := by
  unfold writeDva storeDva
  refine (foldl_same (fun a : Bool × State => homeKept a.2) (fun acc p => ?_) _ _).trans rfl
  dsimp only
  split
  · rfl
  · exact homeKept_writeLine ..

/-! ### Object and synchronisation records (R333, R335, R341) -/

@[simp] theorem homeKept_setSync (n j : Nat) (o : SyncObj) (s : State) : homeKept (setSync n j o s) = homeKept s :=
  homeKept_writeDva ..

@[simp] theorem homeKept_countSync (n j : Nat) (o : SyncObj) (s : State) : homeKept (countSync n j o s) = homeKept s := by
  simp [countSync]

@[simp] theorem homeKept_msix (fn : Fn) (v : Nat) (s : State) : homeKept (msix fn v s) = homeKept s :=
  (congrArg homeKept (msix_rest fn v s []) :)

@[simp] theorem homeKept_evPush (n : Nat) (r : EvRec) (s : State) : homeKept (evPush n r s) = homeKept s := by
  have wrote : ∀ r t, homeKept (evWrite n r t) = homeKept t := fun r t => by
    unfold evWrite
    dsimp only
    split <;> split
    · exact homeKept_msix ..
    · rfl
    · exact homeKept_msix ..
    · rfl
  unfold evPush
  dsimp only
  split
  · rfl
  · exact wrote _ _

@[simp] theorem homeKept_countObj (n j : Nat) (o : MemObj) (s : State) : homeKept (countObj n j o s) = homeKept s := by
  unfold countObj
  dsimp only
  split
  · exact homeKept_evPush ..
  · rfl

end

end Sys2Proof.Machine
end

section
/-!
SUPPORT. How resets go on and end, and how a replay finds the culprit (R470 to R483, R494, R495).
-/
namespace Sys2Proof.Machine
open Sys2Proof

/-! ### Tables -/

theorem mem_of_tget {α : Type} {d : α} {t : Tab α} {k : Nat} (entry : tget d t k ≠ d) : (k, tget d t k) ∈ t := by
  induction t with
  | nil => exact absurd rfl entry
  | cons p t ih =>
    obtain ⟨i, a⟩ := p
    by_cases same : i = k
    · subst same
      simp [tget]
    · have rest : tget d ((i, a) :: t) k = tget d t k := by simp [tget, same]
      rw [rest] at entry ⊢
      exact List.mem_cons_of_mem _ (ih entry)

theorem tget_foldl_tdel {α : Type} (d : α) (l : List Nat) (t : Tab α) (k : Nat) :
    tget d (l.foldl (fun t q => tdel t q) t) k = if k ∈ l then d else tget d t k := by
  induction l generalizing t with
  | nil => simp
  | cons q l ih =>
    rw [List.foldl_cons, ih, tget_tdel]
    by_cases mem : k ∈ l
    · simp [mem]
    · by_cases same : k = q
      · simp [same]
      · simp [mem, same]

section
variable {s : State} {n : Nat}

/-! ### The wait for kills and the walk (R476, R479) -/

theorem killTimeoutSt_names {r : Reset} {u : Nat} {l : List Nat} (current : s.rc.current = some r) (stage : r.stage = .kills)
    (first : r.firstSilent = none) (silent : owed s (inDomain s r.domain) = u :: l) :
    killTimeoutSt s = { s with rc := { s.rc with current := some { r with firstSilent := some u } } } := by
  simp [killTimeoutSt, current, stage, first, silent]

theorem killTimeoutSt_none (current : s.rc.current = none) (works : s.rc.works = []) : killTimeoutSt s = s := by
  unfold killTimeoutSt
  rw [current, works]
  dsimp only
  rw [modFirst, ← works]

theorem walkEndSt_raises {r : Reset} (current : s.rc.current = some r) (domain : r.domain = .partition n) (stage : r.stage = .walk)
    (walk : s.coh.walk.getLsbD n = true) (closed : walkOpen s n = false) {w : State}
    (hw : w = raisePart n (fabricFall (bitList (hTiles s.ps.active n)) (endWalk n s))) :
    walkEndSt n s = { w with rc := { w.rc with current := some { r with stage := .quiet } } } := by
  subst hw
  simp [walkEndSt, current, domain, stage, walk, closed]

theorem walkEndSt_open (open_ : walkOpen s n = true) : walkEndSt n s = s := by
  simp [walkEndSt, open_]

/-! ### Generations (R470) -/

/-- An engine that a partition reset takes and raises. -/
def resetEngine_ (x : Engine) : Engine := { x with gen := (x.gen + 1) % 256, state := .inReset, groups := 0, luts := [] }

theorem engine_raised (e i : Nat) (s : State) : engine (raiseEngine e (abortTest e (takeEngine e s))) i =
    if i = e then resetEngine_ (engine s i) else engine s i := by
  have tested : ∀ t, engine (abortTest e t) i = engine t i := fun t => by
    unfold abortTest
    split
    · unfold endAborted
      split <;> rfl
    · rfl
  have tested' : ∀ t, engine (abortTest e t) e = engine t e := fun t => by
    unfold abortTest
    split
    · unfold endAborted
      split <;> rfl
    · rfl
  rw [raiseEngine, engine_modEngine, tested, tested', takeEngine, engine_modEngine, engine_modEngine, if_pos rfl]
  split
  · next same => rw [same]; rfl
  · rfl

theorem engine_foldl_raised {l : List Nat} (once : l.Nodup) (s : State) (i : Nat) :
    engine (l.foldl (fun s e => raiseEngine e (abortTest e (takeEngine e s))) s) i =
      if i ∈ l then resetEngine_ (engine s i) else engine s i := by
  induction l generalizing s with
  | nil => simp
  | cons e l ih =>
    obtain ⟨new, rest⟩ := List.nodup_cons.mp once
    rw [List.foldl_cons, ih rest, engine_raised]
    by_cases same : i = e
    · subst same
      simp [new]
    · simp [same]

theorem nodup_bitList {w : Nat} (v : BitVec w) : (bitList v).Nodup := List.nodup_range.filter _

theorem engine_raisePart (n : Nat) (s : State) (e : Nat) : engine (raisePart n s) e =
    if (hEngines s.ps.active n).getLsbD e then resetEngine_ (engine s e) else engine s e := by
  have raised := engine_foldl_raised (nodup_bitList (hEngines s.ps.active n)) s e
  rw [if_congr mem_bitList rfl rfl] at raised
  exact raised

theorem partGen_raisePart (n : Nat) (s : State) (k : Nat) :
    partGen (raisePart n s) k = if k = n then (partGen s n + 1) % 256 else partGen s k := by
  have kept : ((bitList (hEngines s.ps.active n)).foldl (fun s e => raiseEngine e (abortTest e (takeEngine e s))) s).rc = s.rc := by
    refine foldl_same State.rc (fun t e => ?_) _ _
    have tested : ∀ t, (abortTest e t).rc = t.rc := fun t => by
      unfold abortTest
      split
      · unfold endAborted
        split <;> rfl
      · rfl
    exact tested _
  rw [raisePart, partGen]
  dsimp only
  rw [tget_tput, partGen, kept]
  rfl

/-! ### The quiet interval (R471) -/

theorem quietSt_engine {e : Nat} {r : Reset} (current : s.rc.current = some r) (domain : r.domain = .engine e)
    (stage : r.stage = .quiet) (none : s.rc.replay = .none) (plain : r.replay = false) :
    quietSt s = closeReset r (serveEngine e s) := by
  simp [quietSt, current, domain, stage, none, plain]

theorem quietSt_partition {r : Reset} (current : s.rc.current = some r) (domain : r.domain = .partition n)
    (stage : r.stage = .quiet) (plain : r.flr = false) : quietSt s = closeReset { r with
      lostCtxs := ((usedCtxs s n).filter fun c => ctxState s n c = .live).length } (endPartition n s) := by
  simp [quietSt, current, domain, stage, plain]

theorem quietSt_tile {t : Nat} {r : Reset} (current : s.rc.current = some r) (domain : r.domain = .stockTile t)
    (stage : r.stage = .quiet) : quietSt s = closeReset r (fabricRise [t] s) := by
  simp [quietSt, current, domain, stage]

theorem serveEngine_state (e : Nat) (s : State) :
    (engine (serveEngine e s) e).state = if s.fc.fenced.getLsbD e then .fenced else .idle := by
  rw [serveEngine, engine_modEngine, if_pos rfl]

/-! ### The end of a partition (R479) -/

/-- The state in which its steps are gone and its synchronisation objects advanced. -/
def stepsGone (n : Nat) (s : State) : State := advanceSyncs n none true { s with steps := s.steps.filter fun t => t.part ≠ n }

/-- A context becomes LOST unless it was revoked. -/
def loseUsed (n : Nat) (s : State) (c : Nat) : State := if ctxState s n c = .revoked then s else setCtx n c .lost s

/-- The state in which its contexts are LOST. -/
def ctxsGone (n : Nat) (s : State) : State := (usedCtxs s n).foldl (loseUsed n) s

/-- The state in which its queues are gone. -/
def queuesGone (n : Nat) (s : State) : State :=
  (queuesOf s n none).foldl (fun s q => { s with qu := { s.qu with qs := tdel s.qu.qs q } }) s

/-- The state in which its objects and synchronisation objects have no device reference. -/
def refsGone (n : Nat) (s : State) : State :=
  let s := (s.tu.objs.filter fun p => p.1 / 2 ^ 20 == n && p.2.devRefs ≠ 0).foldl (fun s p =>
    countObj n (p.1 % 2 ^ 20) { p.2 with devRefs := 0 } s) s
  (syncsOf s n none).foldl (fun s j => countSync n j { syncObj s n j with devRefs := 0 } s) s

/-- The state without its bookings, its TRICK records, its TDISP and its confidential sessions. -/
def bookingsGone (n : Nat) (s : State) : State :=
  let s := { s with ac := { s.ac with reqs := s.ac.reqs.filter fun r => r.part ≠ n,
                                      served := s.ac.served.filter fun b => b.part ≠ n } }
  let s := { s with cu := { s.cu with trick := s.cu.trick.filter fun r => r.part ≠ n } }
  let s := { s with tc := { s.tc with kernels := tdel s.tc.kernels n, tables := tdel s.tc.tables n,
                                      tdi := tput s.tc.tdi n .error } }
  if hConf s.ps.active n
    then { s with rie := { s.rie with sessions := s.rie.sessions.filter fun x => x.part ≠ n } } else s

/-- Its engines serve and its tiles rise. -/
def partRises (n : Nat) (s : State) : State :=
  let s := (bitList (hEngines s.ps.active n)).foldl (fun s e => serveEngine e s) s
  let s := { s with rc := { s.rc with inReset := setBit s.rc.inReset n false } }
  fabricRise (bitList (hTiles s.ps.active n)) s

theorem endPartition_eq (n : Nat) (s : State) : endPartition n s = partRises n (bookingsGone n (refsGone n (queuesGone n (ctxsGone n (stepsGone n s))))) := by
  unfold endPartition
  extract_lets filtered advanced lost dropped objects released ac booked cu tricked tc reset rie unsealed served rc risen
  have h1 : advanced = stepsGone n s := rfl
  have h2 : lost = ctxsGone n advanced := rfl
  have h3 : dropped = queuesGone n lost := rfl
  have h4 : released = refsGone n dropped := rfl
  have h5 : unsealed = bookingsGone n released := rfl
  rw [← h1, ← h2, ← h3, ← h4, ← h5]
  rfl

theorem homeKept_refsGone (n : Nat) (s : State) : homeKept (refsGone n s) = homeKept s := by
  unfold refsGone
  dsimp only
  rw [homeKept_foldl fun t j => homeKept_countSync _ _ _ t, homeKept_foldl fun t p => homeKept_countObj _ _ _ t]

theorem homeKept_bookingsGone (n : Nat) (s : State) : homeKept (bookingsGone n s) = homeKept s := by
  unfold bookingsGone
  dsimp only
  split <;> rfl

theorem homeKept_partRises (n : Nat) (s : State) : homeKept (partRises n s) = homeKept s := by
  have tiles : ∀ l t, homeKept (fabricRise l t) = homeKept t := fun l t => (congrArg homeKept (fabricRise_rest l t) :)
  have served : ∀ e t, homeKept (serveEngine e t) = homeKept t := fun _ _ => rfl
  unfold partRises
  dsimp only
  rw [tiles, homeKept_update, homeKept_foldl fun t e => served e t]

/-- The queues and contexts that a reset leaves. -/
theorem homeKept_endPartition (n : Nat) (s : State) :
    homeKept (endPartition n s) = homeKept (queuesGone n (ctxsGone n (stepsGone n s))) := by
  rw [endPartition_eq, homeKept_partRises, homeKept_bookingsGone, homeKept_refsGone]

/-- Contexts of other numbers stay. -/
theorem ctxState_setCtx_lost (n c i : Nat) (s : State) :
    ctxState (setCtx n c .lost s) n i = if i = c then .lost else ctxState s n i := by
  have key : pkey 16 n i = pkey 16 n c ↔ i = c := by
    simp only [pkey]
    omega
  have table : (setCtx n c .lost s).tu.ctxs = tput s.tu.ctxs (pkey 16 n c) .lost := rfl
  rw [ctxState, table, tget_tput, if_congr key rfl rfl, ctxState]

theorem loseUsed_keeps {i : Nat} (still : ctxState s n i ≠ .live) (c : Nat) : ctxState (loseUsed n s c) n i ≠ .live := by
  unfold loseUsed
  split
  · exact still
  · rw [ctxState_setCtx_lost]
    split
    · exact CtxState.noConfusion
    · exact still

theorem loseUsed_self (n c : Nat) (s : State) : ctxState (loseUsed n s c) n c ≠ .live := by
  unfold loseUsed
  split
  · next revoked =>
    rw [revoked]
    exact CtxState.noConfusion
  · rw [ctxState_setCtx_lost, if_pos rfl]
    exact CtxState.noConfusion

theorem foldl_loseUsed_keeps {i : Nat} (l : List Nat) (still : ctxState s n i ≠ .live) : ctxState (l.foldl (loseUsed n) s) n i ≠ .live := by
  induction l generalizing s with
  | nil => exact still
  | cons c l ih => exact ih (loseUsed_keeps still c)

theorem foldl_loseUsed_mem {i : Nat} {l : List Nat} (mem : i ∈ l) (s : State) : ctxState (l.foldl (loseUsed n) s) n i ≠ .live := by
  induction l generalizing s with
  | nil => exact absurd mem List.not_mem_nil
  | cons c l ih =>
    rcases List.mem_cons.mp mem with rfl | later
    · exact foldl_loseUsed_keeps l (loseUsed_self n _ s)
    · exact ih later _

theorem mem_usedCtxs {c : Nat} (low : c < 2 ^ 16) (live_ : ctxState s n c = .live) : c ∈ usedCtxs s n := by
  have entry : (pkey 16 n c, ctxState s n c) ∈ s.tu.ctxs := mem_of_tget (show ctxState s n c ≠ .unused by rw [live_]; exact CtxState.noConfusion)
  rw [live_] at entry
  refine List.mem_map.mpr ⟨_, List.mem_filter.mpr ⟨entry, ?_⟩, ?_⟩
  · simp [pkey]
    omega
  · simp only [pkey]
    omega

theorem ctxsGone_none {c : Nat} (low : c < 2 ^ 16) (s : State) : ctxState (ctxsGone n s) n c ≠ .live := by
  by_cases live_ : ctxState s n c = .live
  · exact foldl_loseUsed_mem (mem_usedCtxs low live_) s
  · exact foldl_loseUsed_keeps _ live_

theorem queuesGone_qs (n : Nat) (s : State) : (queuesGone n s).qu.qs = (queuesOf s n none).foldl (fun t q => tdel t q) s.qu.qs := by
  unfold queuesGone
  generalize queuesOf s n none = l
  induction l generalizing s with
  | nil => rfl
  | cons q l ih => exact ih _

theorem queuesGone_tu (n : Nat) (s : State) : (queuesGone n s).tu = s.tu :=
  foldl_same (f := fun (s : State) q => { s with qu := { s.qu with qs := tdel s.qu.qs q } }) State.tu (fun _ _ => rfl) _ s

theorem queuesGone_none {q : Nat} (real : q < 1024) (live_ : (queue (queuesGone n s) q).live = true) :
    (queue (queuesGone n s) q).part ≠ n := by
  have found : queue (queuesGone n s) q = if q ∈ queuesOf s n none then {} else queue s q := by
    rw [queue, queuesGone_qs, tget_foldl_tdel, queue]
  rw [found] at live_ ⊢
  split at live_
  · exact absurd live_ Bool.false_ne_true
  · next other =>
    rw [if_neg other]
    intro own
    have entry : (q, queue s q) ∈ s.qu.qs := mem_of_tget (d := ({} : Queue)) fun none => by
      rw [show queue s q = {} from none] at live_
      exact Bool.false_ne_true live_
    exact other (List.mem_map.mpr ⟨_, List.mem_filter.mpr ⟨entry, by simp [real, live_, own]⟩, rfl⟩)

theorem endPartition_queues {q : Nat} (real : q < 1024) (live_ : (queue (endPartition n s) q).live = true) :
    (queue (endPartition n s) q).part ≠ n := by
  have same : queue (endPartition n s) q = queue (queuesGone n (ctxsGone n (stepsGone n s))) q :=
    congrArg (fun a : Queues × Tab CtxState => tget ({} : Queue) a.1.qs q) (homeKept_endPartition n s)
  rw [same] at live_ ⊢
  exact queuesGone_none real live_

theorem endPartition_ctxs {c : Nat} (low : c < 2 ^ 16) (s : State) : ctxState (endPartition n s) n c ≠ .live := by
  have same : ctxState (endPartition n s) n c = ctxState (ctxsGone n (stepsGone n s)) n c := by
    refine (congrArg (fun a => tget .unused a.2 (pkey 16 n c)) (homeKept_endPartition n s)).trans ?_
    simp only [homeKept, queuesGone_tu]
    rfl
  rw [same]
  exact ctxsGone_none low _

/-! ### Replays that hang (R494, R495) -/

variable {p : Replay} {r : Reset} {id f : Nat} {t : Step} {l : List Step}

theorem replayHangSt_early (replay : s.rc.replay = some p) (running : p.running = some (id, f))
    (early : s.tb.tick < f + s.rc.replayFrames) : replayHangSt s = s := by
  unfold replayHangSt
  split
  · next p' r' replay' current =>
    rw [replay] at replay'
    cases replay'
    rw [running]
    dsimp only
    split
    · next id' f' t l same todo =>
      cases same
      exact if_pos (by simp [early])
    · rfl
  · rfl

section
variable (replay : s.rc.replay = some p) (current : s.rc.current = some r) (stage : r.stage = .replay)
  (running : p.running = some (id, f)) (todo : p.todo = t :: l) (late : f + s.rc.replayFrames ≤ s.tb.tick)
include replay current stage running todo late

theorem replayHangSt_first (first : p.hung = 0) {w : State} (hw : w = loseCtx t.part t.ctx (resetAgain p.engine (dropStep id s))) :
    replayHangSt s = { w with rc := { w.rc with
      replay := some { p with
        todo := p.todo.filter fun x => !(x.part == t.part && x.ctx == t.ctx)
        running := none
        hung := 1
        firstHang := s.tb.tick
        lost := p.lost + 1 }
      replayLost := satAdd 32 w.rc.replayLost 1
      current := some { r with stage := .quiet } } } := by
  have go : ¬ (decide (s.tb.tick < f + s.rc.replayFrames) || decide (r.stage ≠ .replay)) = true := by
    simp [Nat.not_lt.mpr late, stage]
  have tick : (loseCtx t.part t.ctx (resetAgain p.engine (dropStep id s))).tb.tick = s.tb.tick := by
    unfold loseCtx
    split <;> rfl
  subst hw
  simp only [replayHangSt, replay, current, running, todo, if_neg go, first, if_true, tick]

theorem replayHangSt_second (second : p.hung ≠ 0) {w : State} (hw : w = fenceEngine p.engine p.firstHang (dropStep id s)) :
    replayHangSt s = { w with rc := { w.rc with replay := some { p with todo := [], running := none, hung := 2 } } } := by
  have go : ¬ (decide (s.tb.tick < f + s.rc.replayFrames) || decide (r.stage ≠ .replay)) = true := by
    simp [Nat.not_lt.mpr late, stage]
  subst hw
  simp only [replayHangSt, replay, current, running, todo, if_neg go, if_neg second]

end

theorem resetAgain_engine (e : Nat) (s : State) : (engine (resetAgain e s) e).gen = ((engine s e).gen + 1) % 256 ∧
    (engine (resetAgain e s) e).state = .inReset := by
  have same : engine (resetAgain e s) e = engine (raiseEngine e (takeEngine e s)) e := rfl
  rw [same, raiseEngine, engine_modEngine, if_pos rfl, takeEngine, engine_modEngine, if_pos rfl]
  exact ⟨rfl, rfl⟩

theorem report_fenced (m : FMsg) (s : State) : (report m s).fc.fenced = s.fc.fenced := by
  cases again : coalesces s m with
  | false =>
    rw [report_fc again]
    rfl
  | true =>
    obtain ⟨r, found, -⟩ := exists_names_of_coalesces again
    rw [report_repeats again found]
    rfl

theorem fenceEngine_fences {e : Nat} (real : e < 320) (d : Nat) (s : State) : (fenceEngine e d s).fc.fenced.getLsbD e = true := by
  rw [fenceEngine]
  dsimp only
  rw [report_fenced]
  dsimp only
  rw [getLsbD_setBit (bound := real), if_pos rfl]

theorem loseCtx_live {c : Nat} (some_ : c < 0xFFFF) (live_ : ctxState s n c = .live) : ctxState (loseCtx n c s) n c = .lost := by
  have go : ¬ (decide (c = 0xFFFF) || decide (ctxState s n c = .revoked)) = true := by
    rw [live_]
    simp
    omega
  rw [loseCtx, if_neg go, ctxState_setCtx_lost, if_pos rfl]

end

/-- Settles O55: the kills, the walk and the quiet interval by the current reset; what a partition's end leaves by its stages; a
replay by the suspects that hung. -/
theorem resetsGoOn : Obligations.ResetsGoOn :=
  ⟨fun _ _ _ _ current stage first silent => settles (killTimeoutSt_names current stage first silent),
    fun _ current works => settles (killTimeoutSt_none current works),
    fun _ _ _ _ current domain stage walk closed hw => settles (walkEndSt_raises current domain stage walk closed hw),
    fun _ _ open_ => settles (walkEndSt_open open_), fun n k s _ _ => partGen_raisePart n s k, fun n e s _ => engine_raisePart n s e,
    fun _ _ _ current domain stage none plain => settles (quietSt_engine current domain stage none plain),
    fun _ _ _ current domain stage plain => settles (quietSt_partition current domain stage plain),
    fun _ _ _ current domain stage => settles (quietSt_tile current domain stage), serveEngine_state,
    fun _ _ _ live_ real => endPartition_queues real live_, fun _ _ s low => endPartition_ctxs low s,
    fun _ _ _ _ replay running early => settles (replayHangSt_early replay running early),
    fun _ _ _ _ _ _ _ _ replay current stage running todo first late hw =>
      settles (replayHangSt_first replay current stage running todo late first hw),
    fun _ _ _ _ _ _ _ _ replay current stage running todo second late hw =>
      settles (replayHangSt_second replay current stage running todo late second hw),
    fun e s _ => resetAgain_engine e s, fun _ d s real => fenceEngine_fences real d s,
    fun _ _ _ some_ live_ => loseCtx_live some_ live_⟩

end Sys2Proof.Machine
end

section
/-!
SUPPORT. Tenant sessions (R142, R527 to R532) and signed copies of the hand report page (R533, R536).
-/
namespace Sys2Proof.Machine
open Sys2Proof

section
variable {s : State} {n : Nat}

/-! ### Session messages (R527, R537) -/

theorem HearsSession.sessionRow {m : Datagram} {type len id : Nat} {zero : Bool} {body : List Byte}
    (heard : HearsSession s m type len id zero body) (k : Nat → Bool → List Byte → State → State) :
    sessionRow m type len k s = k id zero body s := by
  have on : ¬ (!Machine.live s || !s.tc.enable || decide (m.dst ≠ s.tc.udpPort)) = true := by
    simp [heard.live, heard.enable, heard.port]
  rw [Machine.sessionRow, if_neg on]
  refine (fromPort_whole heard.parity heard.inject _ _).trans ?_
  rw [heard.message]

theorem sDone_answers (p ad u id : Nat) (st : Status) (s : State) : sDone p ad u id st s = { s with
    tc := { s.tc with fails := if st = .ok then s.tc.fails else satAdd 64 s.tc.fails 1 }
    out := .datagram p ad u (sessionBytes 4 id (beBytes (statusCode st) 2 ++ beBytes 0 6)) :: s.out } := by
  rw [sDone]
  split
  · next ok => simp only [ok]; rfl
  · next bad => rfl

/-! ### The number that a session gets (R142) -/

/-- Numbers that a new session may not have. -/
def takenIds (s : State) : List Nat := 0 :: (s.rie.sessions.map (fun x => x.id) ++ s.tc.half.map fun a => a.session)

theorem sessionFree_iff {id : Nat} : sessionFree s id = true ↔ id ∉ takenIds s := by
  simp only [sessionFree, takenIds, Bool.and_eq_true, decide_eq_true_eq, Bool.not_eq_true', List.mem_cons, List.mem_append,
    List.mem_map, not_or, List.any_eq_false, beq_iff_eq, and_assoc, not_exists, not_and]

/-- Of more consecutive numbers than are taken one is free. -/
theorem exists_sessionFree {k : Nat} (low : k ≤ 2 ^ 32) (few : (takenIds s).length < k) (r : Nat) :
    ∃ id, ((List.range k).map fun i => (r + i) % 2 ^ 32).find? (sessionFree s) = some id := by
  rw [← Option.isSome_iff_exists, List.find?_isSome]
  by_contra none
  have inside : ((List.range k).map fun i => (r + i) % 2 ^ 32) ⊆ takenIds s := fun id mem => by
    by_contra free
    exact none ⟨id, mem, sessionFree_iff.mpr free⟩
  have once : ((List.range k).map fun i => (r + i) % 2 ^ 32).Nodup := by
    refine List.Nodup.map_on (fun i hi j hj same => ?_) List.nodup_range
    rw [List.mem_range] at hi hj
    omega
  have length := (List.subperm_of_subset once inside).length_le
  rw [List.length_map, List.length_range] at length
  omega

theorem pickSession_free (half : s.tc.half.length < 64) (sessions : s.rie.sessions.length < 8192) (r : Nat) :
    sessionFree s (pickSession s r) = true := by
  have few : (takenIds s).length < 8300 := by
    simp only [takenIds, List.length_cons, List.length_append, List.length_map]
    omega
  obtain ⟨id, found⟩ := exists_sessionFree (by omega) few r
  rw [pickSession, found, Option.getD_some]
  exact List.find?_some found

/-! ### S_HELLO (R527 to R529) -/

variable {m : Datagram} {id : Nat} {zero : Bool} {body : List Byte}

theorem helloSt_shape (bad : helloShape id zero body = false) :
    helloSt m id zero body s = sDone m.port m.addr m.udp 0 .reservedNonzero s := by
  simp [helloSt, bad]

section
variable (shape : helloShape id zero body = true)
include shape

theorem helloSt_full (hn : n = wireBits body 0 1 0 5)
    (full : hasHand s.ps.active n = false ∨ 64 ≤ s.tc.half.length ∨ 8192 ≤ s.rie.sessions.length) :
    helloSt m id zero body s = sDone m.port m.addr m.udp 0 .refusedCapacity s := by
  subst hn
  rw [helloSt]
  dsimp only
  rw [shape, Bool.not_true, if_neg Bool.false_ne_true]
  rcases full with none | full
  · rw [none, Bool.not_false, if_pos rfl]
  · rw [if_pos (c := (decide (64 ≤ s.tc.half.length) || decide (8192 ≤ s.rie.sessions.length)) = true) (by simpa using full),
      ite_self]

variable (hn : n = wireBits body 0 1 0 5) (hand : hasHand s.ps.active n = true) (half : s.tc.half.length < 64)
  (sessions : s.rie.sessions.length < 8192)
include hn hand half sessions

theorem helloSt_chainless (none : s.tc.chain = none) :
    helloSt m id zero body s = sDone m.port m.addr m.udp 0 .stateConflict s := by
  subst hn
  simp [helloSt, shape, hand, Nat.not_le.mpr half, Nat.not_le.mpr sessions, none]

end

/-- The ephemeral secret of an agreement: a free value. -/
def helloScalar (s : State) : BitVec 384 := BitVec.ofNat 384 (fresh 384 (fresh 32 s).2).1

/-- The device's ephemeral key. -/
def helloKey (s : State) : List Byte := keyBytes (Config.ecdsaPub (helloScalar s))

/-- The nonce of the report: what binds it to the agreement. -/
def helloNonce (body : List Byte) (s : State) : BitVec 256 :=
  BitVec.ofNat 256 (leNat ((beBytes (Config.sha384 (body ++ helloKey s)).toNat 48).take 32))

/-- The signature of the report. -/
def helloSig (n : Nat) (body : List Byte) (s : State) : Signature :=
  (signWith (reportBody s n (helloNonce body s)) (fresh 384 (fresh 32 s).2).2).1

/-- The body of S_REPORT. -/
def helloAnswer (n : Nat) (body : List Byte) (s : State) : List Byte :=
  helloKey s ++ List.replicate 7 0 ++ (reportBody s n (helloNonce body s) ++ beBytes (helloSig n body s).toNat 96)

/-- The number of the session that is agreed. -/
def helloSession (s : State) : Nat := pickSession s (fresh 32 s).1

/-- The agreement that an S_HELLO leaves. -/
def helloAgreement (m : Datagram) (n : Nat) (body : List Byte) (s : State) : Agreement :=
  { session := helloSession s, part := n, epoch := tget 0 s.ps.epochs n
    nonceT := BitVec.ofNat 256 (wireFld body 4 32), ephemeralT := BitVec.ofNat 776 (wireFld body 0x24 97)
    tenantKey := BitVec.ofNat 776 (wireFld body 0x88 97), port := m.port, addr := m.addr, udp := m.udp
    transcript := body ++ helloAnswer n body s, scalar := helloScalar s }

theorem helloAgreement_free (m : Datagram) (n : Nat) (body : List Byte) (half : s.tc.half.length < 64)
    (sessions : s.rie.sessions.length < 8192) : sessionFree s (helloAgreement m n body s).session = true := by
  have free : sessionFree s (helloSession s) = true := by
    rw [helloSession]
    exact pickSession_free half sessions _
  simpa only [helloAgreement] using free

/-- The state in which the agreement is half open and S_REPORT has left. -/
def helloDone (m : Datagram) (n : Nat) (body : List Byte) (s : State) : State :=
  { s with
    tc := { s.tc with signed := satAdd 64 s.tc.signed 1, half := s.tc.half ++ [helloAgreement m n body s] }
    freeCount := s.freeCount + 3
    out := .datagram m.port m.addr m.udp (sessionBytes 2 (helloAgreement m n body s).session (helloAnswer n body s)) ::
      .report n (helloNonce body s) (helloSig n body s) :: s.out }

/-- A report does not show the free values drawn. -/
theorem reportBody_drawn (s : State) (k n : Nat) (nonce : BitVec 256) :
    reportBody { s with freeCount := k } n nonce = reportBody s n nonce := rfl

/-- Nor does the number that a session gets depend on them, but for the one it starts from. -/
theorem pickSession_drawn (s : State) (k r : Nat) : pickSession { s with freeCount := k } r = pickSession s r := by
  have same : sessionFree { s with freeCount := k } = sessionFree s := rfl
  rw [pickSession, pickSession, same]

theorem helloSt_agrees (shape : helloShape id zero body = true) (hn : n = wireBits body 0 1 0 5) (hand : hasHand s.ps.active n = true)
    (half : s.tc.half.length < 64) (sessions : s.rie.sessions.length < 8192) {c : _} (chain : s.tc.chain = some c) :
    helloSt m id zero body s = helloDone m n body s := by
  have room : ¬ (decide (64 ≤ s.tc.half.length) || decide (8192 ≤ s.rie.sessions.length)) = true := by
    simp [half, sessions]
  subst hn
  rw [helloSt]
  dsimp only
  rw [shape, Bool.not_true, if_neg Bool.false_ne_true, hand, Bool.not_true, if_neg Bool.false_ne_true, if_neg room, chain,
    Option.isNone_some, if_neg Bool.false_ne_true]
  simp only [helloDone, helloAgreement, helloAnswer, helloSig, helloNonce, helloKey, helloScalar, helloSession, fresh, makeReport,
    signWith, reportBody_drawn, pickSession_drawn]
  rfl

/-! ### S_FINISH (R530, R531) -/

/-- How a finish goes on with what the read of the tenant keys gave. -/
def finishRead (a : Agreement) (id : Nat) (sig : Signature) (host : HostView) (count : Nat) : ReadNow × State → State
  | (.refused, t) => endFinish a sig none t
  | (.wait, t) => waitLoad (.finish id sig host) t
  | (.got bs _, t) =>
    endFinish a sig (some ((List.range count).map fun i => BitVec.ofNat 384 (beNat ((bs.drop (48 * i)).take 48)))) t

variable {a : Agreement} {sig : Signature} {host : HostView}

theorem agreementSt_none (none : s.tc.half.find? (fun a => a.session == id) = none) : agreementSt id sig host s = s := by
  rw [agreementSt, none]

theorem agreementSt_reads (found : s.tc.half.find? (fun a => a.session == id) = some a) {x : VfTc}
    (hx : x = tget {} s.tc.vfs a.part) :
    agreementSt id sig host s =
      finishRead a id sig host x.tenantCount (readRight a.part host x.tenantKeys (48 * x.tenantCount) s) := by
  subst hx
  rw [agreementSt, found]
  rfl

theorem execSFinish_heard {m : FinishMsg} (heard : HearsSession s m.toDatagram 3 0x60 id zero body)
    (hs : sig = BitVec.ofNat 768 (wireFld body 0 96)) :
    exec (.sFinish m) s = .next (settle (agreementSt id sig m.host s)) := by
  subst hs
  exact settles (heard.sessionRow _)

/-- The agreement that a finish names is taken away. -/
def finished (a : Agreement) (s : State) : State :=
  { s with tc := { s.tc with half := s.tc.half.filter fun x => x.session ≠ a.session } }

section
variable {l : List Digest} (listed : l.contains (Config.sha384 (keyBytes a.tenantKey)) = true)
  (verified : Config.ecdsaVerify a.tenantKey (Config.sha384 a.transcript) sig = true)
include listed verified

theorem endFinish_ok (epoch : tget 0 s.ps.epochs a.part = a.epoch) :
    endFinish a sig (some l) s = sDone a.port a.addr a.udp a.session .ok { finished a s with
      rie := { (finished a s).rie with sessions := (finished a s).rie.sessions ++ [sessionOf a] }
      tc := { (finished a s).tc with agreed := satAdd 64 (finished a s).tc.agreed 1 } } := by
  simp only [endFinish, Option.any_some, listed, verified, epoch, Bool.not_true, Bool.or_self, Bool.false_eq_true, if_false, ne_eq,
    not_true_eq_false]
  rfl

theorem endFinish_stale (stale : tget 0 s.ps.epochs a.part ≠ a.epoch) :
    endFinish a sig (some l) s = sDone a.port a.addr a.udp a.session .staleRole (finished a s) := by
  simp only [endFinish, Option.any_some, listed, verified, Bool.not_true, Bool.or_self, Bool.false_eq_true, if_false]
  exact if_pos stale

end

theorem endFinish_rights {keys : Option (List Digest)}
    (bad : keys = none ∨ (∃ l, keys = some l ∧ l.contains (Config.sha384 (keyBytes a.tenantKey)) = false) ∨
      Config.ecdsaVerify a.tenantKey (Config.sha384 a.transcript) sig = false) :
    endFinish a sig keys s = sDone a.port a.addr a.udp a.session .rights (finished a s) := by
  rw [endFinish]
  refine if_pos ?_
  rcases bad with rfl | ⟨l, rfl, unlisted⟩ | unverified
  · rfl
  · rw [Option.any_some, unlisted, Bool.not_false, Bool.true_or]
  · rw [unverified, Bool.not_false, Bool.or_true]

/-! ### The tenant-key registers (R532) -/

section
variable {off sz : Nat} {v : Word} (ready : vfReady s n = true)
include ready

theorem tenantWriteSt_keys (reg : (off, sz) ∈ [(0x1030, 8), (0x1030, 4), (0x1034, 4)]) : tenantWriteSt n off sz v s =
    endSessions n (modVfTc n (fun x => { x with
      tenantKeys := write64 (tget {} s.tc.vfs n : VfTc).tenantKeys 0x1030 off sz v % 2 ^ 57 }) s) := by
  have row : ((decide (off = 0x1030) && (decide (sz = 8) || decide (sz = 4))) || (decide (off = 0x1034) && decide (sz = 4))) = true := by
    simpa [and_or_left, or_assoc] using reg
  simp only [tenantWriteSt, ready, Bool.not_true, Bool.false_eq_true, if_false]
  exact if_pos row

theorem tenantWriteSt_count : tenantWriteSt n 0x1038 4 v s =
    endSessions n (modVfTc n (fun x => { x with tenantCount := v.toNat % 2 ^ 7 }) s) := by
  simp [tenantWriteSt, ready]

/-! ### Signed copies of the hand report page (R533, R536) -/

theorem signSt_idle (idle : (tget {} s.tc.vfs n : VfTc).busy = false) : signSt n s =
    { s with tc := { s.tc with vfs := tput s.tc.vfs n { (tget {} s.tc.vfs n : VfTc) with busy := true, snap := none } } } := by
  simp only [signSt, ready, modVfTc, tmod, idle, Bool.not_true, Bool.false_eq_true, if_false]

theorem signSt_busy (busy : (tget {} s.tc.vfs n : VfTc).busy = true) : signSt n s =
    { s with tc := { s.tc with vfs := tput s.tc.vfs n { (tget {} s.tc.vfs n : VfTc) with cmdErr := true } } } := by
  simp only [signSt, ready, modVfTc, tmod, busy, Bool.not_true, Bool.false_eq_true, if_false, if_true]

end

theorem signedCopySt_idle (idle : (tget {} s.tc.vfs n : VfTc).busy = false ∨ (tget {} s.tc.vfs n : VfTc).snap = none) :
    signedCopySt n host s = s := by
  rcases idle with idle | none
  · simp only [signedCopySt, idle, Bool.not_false, Bool.or_true, if_true]
  · simp only [signedCopySt, none, ite_self]

/-- A copy ends with a status. -/
def copyDone (n : Nat) (st : Status) (s : State) : State :=
  modVfTc n (fun x => { x with busy := false, snap := none, status := st }) s

/-- The walks of a copy are counted. -/
def copyWalked (n : Nat) (host : HostView) (s : State) : State :=
  if isHost (tget {} s.tc.vfs n : VfTc).signAddr then s else countWalks n host [signRange s n] s

theorem copyWalked_eq (n : Nat) (host : HostView) (s : State) : copyWalked n host s =
    if isHost (tget {} s.tc.vfs n : VfTc).signAddr then s else countWalks n host [signRange s n] s := rfl

theorem countWalks_tc (n : Nat) (host : HostView) (g : List Rng) (s : State) : (countWalks n host g s).tc = s.tc := rfl

theorem countWalks_freeCount (n : Nat) (host : HostView) (g : List Rng) (s : State) :
    (countWalks n host g s).freeCount = s.freeCount := rfl

theorem copyWalked_tc (n : Nat) (host : HostView) (s : State) : (copyWalked n host s).tc = s.tc := by
  rw [copyWalked, apply_ite State.tc, countWalks_tc, ite_self]

theorem copyWalked_freeCount (n : Nat) (host : HostView) (s : State) : (copyWalked n host s).freeCount = s.freeCount := by
  rw [copyWalked, apply_ite State.freeCount, countWalks_freeCount, ite_self]

/-- The state from which a signed copy is written: its signature took a free value. -/
def copySigned (n : Nat) (host : HostView) (s : State) : State := { copyWalked n host s with freeCount := s.freeCount + 1 }

/-- What a copy writes depends on the Trust Core's registers only. -/
theorem signedBytes_of_tc {t : State} (tc : t.tc = s.tc) (n : Nat) (p : HrPage) : signedBytes t n p = signedBytes s n p := by
  rw [signedBytes, signedBytes, tc]

section
variable {p : HrPage} (powered : s.bnd.powered = true) (busy : (tget {} s.tc.vfs n : VfTc).busy = true)
  (snap : (tget {} s.tc.vfs n : VfTc).snap = some p)
include powered busy snap

theorem signedCopySt_rights (none : signArea s n host = none) :
    signedCopySt n host s = copyDone n .rights (copyWalked n host s) := by
  simp only [signedCopySt, powered, busy, snap, none, Bool.not_true, Bool.or_self, Bool.false_eq_true, if_false, copyDone,
    copyWalked]

variable {xs : List Xlat} (area : signArea s n host = some xs)
include area

theorem signedCopySt_chainless (none : s.tc.chain = none) :
    signedCopySt n host s = copyDone n .stateConflict (copyWalked n host s) := by
  simp only [signedCopySt, powered, busy, snap, area, Bool.not_true, Bool.or_self, Bool.false_eq_true, if_false,
    ← copyWalked_eq n host s, copyWalked_tc, none, Option.isNone_none, if_true, copyDone]

theorem signedCopySt_ok {c : _} (chain : s.tc.chain = some c) {w : State} (hs : sig =
      Config.ecdsaSign s.tc.signKey (Config.sha384 (signedBytes s n p)) (Config.freeNat s.freeCount % 2 ^ 64))
    (hw : w = writeDva n xs (tget {} s.tc.vfs n : VfTc).signAddr (signedBytes s n p ++ beBytes sig.toNat 96) false none
      (copySigned n host s)) :
    signedCopySt n host s = copyDone n .ok { w with tc := { w.tc with signed := satAdd 64 w.tc.signed 1 } } := by
  have signed : signWith (signedBytes s n p) (copyWalked n host s) = (sig, copySigned n host s) := by
    rw [signWith, fresh, copySigned]
    dsimp only
    rw [copyWalked_tc, copyWalked_freeCount, hs]
  simp only [signedCopySt, powered, busy, snap, area, Bool.not_true, Bool.or_self, Bool.false_eq_true, if_false,
    ← copyWalked_eq n host s, copyWalked_tc, chain, Option.isNone_some, signedBytes_of_tc (copyWalked_tc n host s), signed, ← hw,
    copyDone]

end

/-! ### The page and its signed part (R533) -/

theorem pageBytes_length (n : Nat) (p : HrPage) : (pageBytes n p).length = 4096 := by
  simp only [pageBytes, List.length_append, List.length_take, List.length_replicate, leBytes_length]
  omega

theorem signedBytes_length (s : State) (n : Nat) (p : HrPage) : (signedBytes s n p).length = 4160 := by
  simp only [signedBytes, List.length_append, pageBytes_length, leBytes_length, List.length_replicate]

end

/-- Settles O56: each message and each copy by the row it meets; the number of a new session is free since there are more
numbers than sessions and agreements. -/
theorem tenantSessionsAndReports : Obligations.TenantSessionsAndReports := by
  refine ⟨fun m id zero body n s heard hn => ?_, fun m id zero body sig s heard hs => ?_, fun a sig keys s s1 h1 => ?_,
    fun p ad u id st s => ⟨_, sDone_answers p ad u id st s, rfl⟩, fun id s => rfl, fun n off sz v tb s ready serves => ?_,
    fun n s => rfl, fun n tb s ready serves idle => settles ((atBar_served serves _).trans (signSt_idle ready idle)),
    fun n tb s ready serves busy => settles ((atBar_served serves _).trans (signSt_busy ready busy)),
    fun n h s idle => settles (signedCopySt_idle idle), ?_, fun n p s => ⟨pageBytes_length n p, signedBytes_length s n p⟩⟩
  · have ex : exec (.sHello m) s = .next (settle (helloSt m id zero body s)) := settles (heard.sessionRow _)
    rw [ex]
    refine ⟨fun bad => settles (helloSt_shape bad), fun shape full => settles (helloSt_full shape hn full),
      fun shape hand half sessions none => settles (helloSt_chainless shape hn hand half sessions none),
      fun c shape hand half sessions chain => ?_⟩
    have free := helloAgreement_free m n body half sessions
    simp only [sessionFree, Bool.and_eq_true, decide_eq_true_eq, Bool.not_eq_true'] at free
    obtain ⟨⟨nonzero, unused⟩, unoffered⟩ := free
    exact ⟨helloDone m n body s, helloAgreement m n body s, helloKey s, helloNonce body s, helloSig n body s, helloAnswer n body s,
      settles (helloSt_agrees shape hn hand half sessions chain), rfl, rfl, rfl, rfl, nonzero, unused, unoffered, rfl, rfl, rfl, rfl,
      rfl, rfl, rfl⟩
  · rw [execSFinish_heard heard hs]
    refine ⟨fun none => settles (agreementSt_none none), fun a x found hx t => ?_⟩
    rw [agreementSt_reads found hx]
    refine ⟨fun read => ?_, fun read => ?_, fun bs p read => ?_⟩
    all_goals rw [read, finishRead]
  · subst h1
    refine ⟨fun l hl listed verified => ?_, endFinish_rights⟩
    subst hl
    exact ⟨endFinish_ok listed verified, endFinish_stale listed verified⟩
  · exact ⟨fun reg => settles ((atBar_served serves _).trans (tenantWriteSt_keys ready reg)),
      settles ((atBar_served serves _).trans (tenantWriteSt_count ready))⟩
  · rintro n h p x s s1 powered rfl busy snap rfl
    refine ⟨fun none => settles (signedCopySt_rights powered busy snap none), fun xs area =>
      ⟨fun none => settles (signedCopySt_chainless powered busy snap area none), ?_⟩⟩
    rintro c w sig chain hs hw
    exact settles (signedCopySt_ok powered busy snap area chain hs hw)

end Sys2Proof.Machine
end

section
/-!
SUPPORT. Certificates and life-cycle transitions (R503, R504, R515, R516) and the debug port (R310, R514, R517, R518).
-/
namespace Sys2Proof.Machine
open Sys2Proof

section
variable {s : State} {n : Nat}

/-! ### CERT_LOAD and CERT_REVOKE (R516) -/

theorem certLoadSt_loads (on : live s = true) (idle : s.tc.certBusy = false) :
    certLoadSt false s = { s with tc := { s.tc with certBusy := true } } := by
  simp [certLoadSt, on, idle]

theorem certLoadSt_busy (busy : s.tc.certBusy = true) : certLoadSt false s = s := by
  simp [certLoadSt, busy]

/-! ### The checks of a certificate (R515) -/

theorem certDoneSt_takes (powered : s.bnd.powered = true) (busy : s.tc.certBusy = true) (cert : CertBytes) :
    certDoneSt cert s = certTake cert { s with tc := { s.tc with certBusy := false } } := by
  simp [certDoneSt, powered, busy]

section
variable {c : BitVec 2560}

theorem certTake_version (bad : certFld c 1 0 8 ≠ 1) : certTake (some c) s = certResult .version s := if_pos bad

variable (version : certFld c 1 0 8 = 1)
include version

theorem certTake_shape (bad : certShape c = false) : certTake (some c) s = certResult .reservedNonzero s := by
  simp [certTake, version, bad]

variable (shape : certShape c = true)
include shape

theorem certTake_unsigned (bad : certSigned s c = false) : certTake (some c) s = certResult .rights s := by
  simp [certTake, version, shape, bad]

variable (signed : certSigned s c = true)
include signed

theorem certTake_debug (debug : certFld c 0 0 8 = 1) : certTake (some c) s =
    certResult .ok { s with tc := { s.tc with cert := some (certFld c 0x30 32 32, certFld c 0x30 0 32) } } := by
  simp [certTake, version, shape, signed, debug]

theorem certTake_transition (transition : certFld c 0 0 8 = 2) : certTake (some c) s = { s with tc := { s.tc with
    certStatus := if (transitionTo s.tc.lc (certFld c 3 0 3)).isSome then .ok else .stateConflict
    otp := match transitionTo s.tc.lc (certFld c 3 0 3) with
      | some x => { s.tc.otp with codeword := s.tc.otp.codeword ||| lcWord x }
      | none => s.tc.otp } } := by
  simp only [certTake, version, shape, signed, transition, certResult, Bool.not_true, Bool.false_eq_true, if_false, ne_eq,
    not_true_eq_false, Nat.succ_ne_self]
  cases transitionTo s.tc.lc (certFld c 3 0 3) with
  | none => rfl
  | some x => rfl

end

/-! ### The transitions (R503, R504) -/

/-- A transition adds bits to the codeword of a state that may still change. -/
theorem transitionTo_adds {a b : LcState} (goes : transitionTo a n = some b) : n = lcCode b ∧ lcWord a &&& lcWord b = lcWord a ∧
    lcDecode (lcWord a ||| lcWord b) = b ∧ a ≠ .return_ ∧ a ≠ .scrap ∧ a ≠ .invalid := by
  unfold transitionTo at goes
  split at goes
  all_goals cases goes
  all_goals decide

/-! ### The rights of the debug port (R517) -/

theorem bitAt_effectiveParts (s : State) (low : n < 32) :
    bitAt (effectiveRights s).2 n = (bitAt (grantedRights s).2 n && !hConf s.ps.active n) := by
  have parts : (effectiveRights s).2 =
    (bitsOf 32 ((List.range 32).filter fun n => bitAt (grantedRights s).2 n && !hConf s.ps.active n)).toNat := rfl
  rw [parts]
  change (bitsOf 32 _).getLsbD n = _
  rw [bitsOf, getLsbD_foldl_setBit _ _ _ low]
  simp [low]

theorem debugAllowed_conf (low : n < 32) (conf : hConf s.ps.active n = true) {c : DebugCap} (other : c ≠ .scDebug) :
    debugAllowed s c n = false := by
  change (bitAt (effectiveRights s).1 (capBit c) && (c == .scDebug || bitAt (effectiveRights s).2 n)) = false
  rw [bitAt_effectiveParts s low, conf, Bool.not_true, Bool.and_false, Bool.or_false, beq_false_of_ne other, Bool.and_false]

/-- Every capability reaches every partition. -/
theorem bitAt_allRights (c : DebugCap) (low : n < 32) : bitAt allCaps (capBit c) = true ∧ bitAt 0xFFFFFFFF n = true := by
  refine ⟨?_, (Nat.testBit_two_pow_sub_one 32 n).trans (decide_eq_true low)⟩
  cases c <;> rfl

theorem debugAllowed_open (open_ : s.tc.lc = .blank ∨ s.tc.lc = .test) (low : n < 32) (free : hConf s.ps.active n = false)
    (c : DebugCap) : debugAllowed s c n = true := by
  have granted : grantedRights s = (allCaps, 0xFFFFFFFF) := if_pos (by simpa using open_)
  have caps : (effectiveRights s).1 = (grantedRights s).1 := rfl
  obtain ⟨cap, part⟩ := bitAt_allRights c low
  change (bitAt (effectiveRights s).1 (capBit c) && (c == .scDebug || bitAt (effectiveRights s).2 n)) = true
  rw [bitAt_effectiveParts s low, caps, granted, cap, part, free, Bool.not_false, Bool.and_true, Bool.or_true, Bool.and_true]

theorem debugAllowed_closed (blank : s.tc.lc ≠ .blank) (test : s.tc.lc ≠ .test) (none : s.tc.cert = none) (c : DebugCap) :
    debugAllowed s c n = false := by
  have granted : (grantedRights s).1 = 0 := by
    simp [grantedRights, blank, test, none]
  have caps : (effectiveRights s).1 = (grantedRights s).1 := rfl
  change (bitAt (effectiveRights s).1 (capBit c) && (c == .scDebug || bitAt (effectiveRights s).2 n)) = false
  rw [caps, granted, bitAt, Nat.zero_testBit, Bool.false_and]

/-! ### Requests of the debug port (R310, R517, R518) -/

section
variable {c : DebugCap} {dpa : Nat} {d : List Byte} (powered : s.bnd.powered = true)
include powered

theorem debugSt_refused (refused : debugAllowed s c n = false) : debugSt c n dpa d s = emit (.debug .rights []) s := by
  simp [debugSt, powered, refused]

theorem debugSt_granted (allowed : debugAllowed s c n = true) (other : c ∉ [DebugCap.memRead, .memWrite, .unitStatus]) :
    debugSt c n dpa d s = emit (.debug .ok []) s := by
  cases c
  case memRead => exact absurd (by simp) other
  case memWrite => exact absurd (by simp) other
  case unitStatus => exact absurd (by simp) other
  all_goals simp [debugSt, powered, allowed]

theorem debugSt_nowhere (memory : c ∈ [DebugCap.memRead, .memWrite]) (allowed : debugAllowed s c n = true)
    (none : homeLine s n dpa = none) : debugSt c n dpa d s = emit (.debug .rights []) s := by
  obtain rfl | rfl : c = .memRead ∨ c = .memWrite := by simpa using memory
  · simp [debugSt, powered, allowed, none]
  · simp [debugSt, powered, allowed, none]

section
variable {k : Nat} (home : homeLine s n dpa = some k)
include home

theorem debugSt_read_there (allowed : debugAllowed s .memRead n = true)
    (match_ : keyCheck s (linePc k) (lineNo k) (dpaKey dpa) = .match_) (there : (llc s k).hstate ≠ .i)
    (verified : unverified s k = false) : debugSt .memRead n dpa d s =
      emit (.debug (if (rawView s k).2 then .poison else .ok) (lineBytes (rawView s k).1)) s := by
  simp [debugSt, powered, allowed, home, access_match match_, there, verified, endDebug]

theorem debugSt_read_waits (allowed : debugAllowed s .memRead n = true)
    (match_ : keyCheck s (linePc k) (lineNo k) (dpaKey dpa) = .match_)
    (waits : (llc s k).hstate = .i ∨ unverified s k = true) : debugSt .memRead n dpa d s =
      { s with mi := { s.mi with debugs := s.mi.debugs ++ [{ key := k, dpa := dpa }] } } := by
  rcases waits with absent | unverified
  · simp [debugSt, powered, allowed, home, access_match match_, match_, absent]
  · simp [debugSt, powered, allowed, home, access_match match_, unverified]

theorem debugSt_otherKey (memory : c ∈ [DebugCap.memRead, .memWrite]) (allowed : debugAllowed s c n = true)
    (refuse : keyCheck s (linePc k) (lineNo k) (dpaKey dpa) = .refuse) : debugSt c n dpa d s =
      emit (.debug .rights []) { s with mi := { s.mi with keyMismatch := satAdd 64 s.mi.keyMismatch 1 } } := by
  obtain rfl | rfl : c = .memRead ∨ c = .memWrite := by simpa using memory
  · simp [debugSt, powered, allowed, home, access_refuse refuse]
  · simp [debugSt, powered, allowed, home, refuse, access_refuse refuse]

theorem debugSt_writes (allowed : debugAllowed s .memWrite n = true)
    (open_ : keyCheck s (linePc k) (lineNo k) (dpaKey dpa) ≠ .refuse) : debugSt .memWrite n dpa d s =
      emit (.debug .ok []) (writeLine n dpa (dpa % 64) (d.take (64 - dpa % 64)) false false none s).2 := by
  simp [debugSt, powered, allowed, home, open_]

end

theorem debugSt_noUnit (allowed : debugAllowed s .unitStatus n = true) (other : dpa ∉ partUnits s n) :
    debugSt .unitStatus n dpa d s = emit (.debug .rights []) s := by
  simp [debugSt, powered, allowed, other]

/-- The four words of a unit as bytes. -/
def unitBytes (n u : Nat) (s : State) : List Byte := (unitWords n u s).1.flatMap fun w => leBytes w 4

theorem debugSt_unit (allowed : debugAllowed s .unitStatus n = true) (unit : dpa ∈ partUnits s n) :
    debugSt .unitStatus n dpa d s = emit (.debug .ok (unitBytes n dpa s)) (unitWords n dpa s).2 := by
  simp [debugSt, powered, allowed, unit, unitBytes]

end

theorem unitWords_draws (n u : Nat) (s : State) : ∃ a b c d,
    unitWords n u s = ([a * 16 + unitCode s n u, b, c, d], { s with freeCount := s.freeCount + 4 }) := ⟨_, _, _, _, rfl⟩

/-- A unit's status is 16 bytes, its code in the first. -/
theorem unitBytes_shape (n u : Nat) (s : State) : (unitBytes n u s).length = 16 ∧
    ∃ b, (unitBytes n u s)[0]? = some b ∧ b.toNat % 16 = unitCode s n u % 16 := by
  obtain ⟨a, b, c, d, words⟩ := unitWords_draws n u s
  rw [unitBytes, words]
  refine ⟨by simp [leBytes_length], BitVec.ofNat 8 (a * 16 + unitCode s n u), rfl, ?_⟩
  rw [BitVec.toNat_ofNat]
  omega

end

/-- Settles O57: the checks of a certificate in their order, and a request of the debug port by its capability and by what the
line's home holds. -/
theorem certificatesAndDebug : Obligations.CertificatesAndDebug := by
  refine ⟨fun s on idle => settles (certLoadSt_loads on idle), fun s busy => settles (certLoadSt_busy busy),
    fun s on => settles (if_pos on), fun s powered busy => settles (certDoneSt_takes powered busy _),
    fun c s powered busy bad => settles ((certDoneSt_takes powered busy _).trans (certTake_version bad)),
    fun c s powered busy version bad => settles ((certDoneSt_takes powered busy _).trans (certTake_shape version bad)),
    fun c s powered busy version shape bad =>
      settles ((certDoneSt_takes powered busy _).trans (certTake_unsigned version shape bad)),
    fun c s powered busy version shape signed debug =>
      settles ((certDoneSt_takes powered busy _).trans (certTake_debug version shape signed debug)),
    fun c s powered busy version shape signed transition =>
      settles ((certDoneSt_takes powered busy _).trans (certTake_transition version shape signed transition)),
    fun a n b goes => transitionTo_adds goes, fun c n dpa d s powered refused => settles (debugSt_refused powered refused),
    fun c n s low conf other => debugAllowed_conf low conf other, fun c n s open_ low free => debugAllowed_open open_ low free c,
    fun c n s blank test none => debugAllowed_closed blank test none c, fun n dpa d k s powered allowed home => ?_,
    fun c memory n dpa d s powered allowed none => settles (debugSt_nowhere powered memory allowed none),
    fun n dpa d k s powered allowed home open_ => ⟨_, rfl, settles (debugSt_writes powered home allowed open_)⟩,
    fun n dpa d s powered allowed => ?_,
    fun c n dpa d s powered allowed other => settles (debugSt_granted powered allowed other)⟩
  · refine ⟨fun match_ => ⟨fun there verified => settles (debugSt_read_there powered home allowed match_ there verified),
      fun waits => settles (debugSt_read_waits powered home allowed match_ waits)⟩, fun refuse c memory granted =>
      settles (debugSt_otherKey powered home memory granted refuse)⟩
  · obtain ⟨length, code⟩ := unitBytes_shape n dpa s
    exact ⟨fun other => settles (debugSt_noUnit powered allowed other), fun unit =>
      ⟨unitBytes n dpa s, length, code, settles (debugSt_unit powered allowed unit)⟩⟩

end Sys2Proof.Machine
end

section
/-!
SUPPORT. SPDM over the DOE mailbox (R513, R523), IDE (R524) and TDISP interfaces (R525, R526).
-/
namespace Sys2Proof.Machine
open Sys2Proof

section
variable {s : State} {n : Nat}

/-! ### IDE keys (R524) -/

theorem ideKm_goes {k : Nat} (keyed : k ∈ s.tc.ideKeyed) (l : List Nat) :
    ideKm (.kSetGo k l) s = spdmOk 0xFE [] { s with tc := { s.tc with ide := tput s.tc.ide k l } } :=
  if_pos (List.contains_iff_mem.mpr keyed)

/-! ### Requests in their order (R523) -/

section
variable {ok : Bool} (up : spdmUp s = true)
include up

theorem inOrder_reached (reached : ok = true) (f : State → State) : inOrder ok f s = f s := by
  simp [inOrder, up, reached]

theorem inOrder_early (early : ok = false) (f : State → State) : inOrder ok f s = spdmErr .stateConflict s := by
  simp [inOrder, up, early]

/-- The connection starts again. -/
theorem getVersionSt_restarts : getVersionSt s =
    spdmOk 0x84 [0x13] { s with tc := { s.tc with spdm := .version, spdmKey := none, spdmSession := false } } :=
  inOrder_reached up rfl fun s =>
    spdmOk 0x84 [0x13] { s with tc := { s.tc with spdm := .version, spdmKey := none, spdmSession := false } }

section
variable (algorithms : s.tc.spdm = .algorithms)
include algorithms

theorem withChain_serves {k : PubKey} (chain : s.tc.chain = some k) (f : PubKey → State → State) : withChain f s = f k s := by
  simp [withChain, inOrder, up, algorithms, chain]

theorem withChain_refuses (none : s.tc.chain = none) (f : PubKey → State → State) :
    withChain f s = spdmErr .stateConflict s := by
  simp [withChain, inOrder, up, algorithms, none]

/-! ### Requests served from the certificate chain (R513, R523) -/

variable {k : PubKey} (chain : s.tc.chain = some k)
include chain

theorem getCertSt_other (other : n ≠ 0) : getCertSt n s = spdmErr .stateConflict s :=
  (withChain_serves up algorithms chain _).trans (if_neg other)

theorem measurementsSt_block {r : SpdmReq} (some_ : r.index ≠ 0) (one : r.index ≠ 0xFF) (block : blockAt s r.index ≠ []) :
    measurementsSt r s = signedAnswer 0xE0 r (blockAt s r.index) s := by
  refine (withChain_serves up algorithms chain _).trans ?_
  dsimp only
  rw [if_neg some_, if_neg one, if_neg block]

theorem keyExchangeSt_agrees (r : SpdmReq) : ∃ x : BitVec 384,
    (keyExchangeSt r s).tc = { s.tc with spdmKey := some (Config.ecdh x r.keyShare), spdmSession := false } :=
  ⟨_, congrArg State.tc (withChain_serves up algorithms chain _)⟩

end

/-! ### The secured session (R523) -/

theorem spdmFinishSt_opens {r : SpdmReq} {k : BitVec 384} (key : s.tc.spdmKey = some k) (verify : verifyData k = r.verify) :
    spdmFinishSt r s = spdmOk 0xE5 [] { s with tc := { s.tc with spdmSession := true } } := by
  simp [spdmFinishSt, inOrder, up, key, verify]

/-! ### TDISP requests (R525, R526) -/

theorem tdispSt_grants (grants : ok = true) (x : Tdi) : tdispSt n ok x s = emit (.tdisp true) (setTdi n x s) := by
  simp [tdispSt, up, grants]

theorem tdispSt_refuses (refuses : ok = false) (x : Tdi) : tdispSt n ok x s = emit (.tdisp false) s := by
  simp [tdispSt, up, refuses]

end

/-! ### Measurement blocks (R522) -/

theorem measBlock_ne_nil (i type : Nat) (v : List Byte) : measBlock i type v ≠ [] :=
  List.ne_nil_of_length_pos (by simp [measBlock, leBytes_length])

theorem blockAt_device {i : Nat} (device : i ∈ [1, 2, 3, 4, 5]) (s : State) : blockAt s i ≠ [] := by
  obtain rfl | rfl | rfl | rfl | rfl : i = 1 ∨ i = 2 ∨ i = 3 ∨ i = 4 ∨ i = 5 := by simpa using device
  all_goals exact measBlock_ne_nil _ _ _

/-- The three blocks of a partition. -/
theorem blockAt_partition {j : Nat} (low : n < 32) (part : j ∈ [0x10, 0x11, 0x12]) (s : State) : blockAt s (j + 3 * n) ≠ [] := by
  have place : 0x10 ≤ j ∧ j ≤ 0x12 := by
    obtain rfl | rfl | rfl : j = 0x10 ∨ j = 0x11 ∨ j = 0x12 := by simpa using part
    all_goals decide
  unfold blockAt
  dsimp only
  rw [if_neg (by omega), if_neg (by omega), if_neg (by omega), if_neg (by omega), if_neg (by omega), if_neg (by omega)]
  split
  · exact measBlock_ne_nil _ _ _
  · split
    · exact measBlock_ne_nil _ _ _
    · exact measBlock_ne_nil _ _ _

/-! ### What an interface serves (R525, R526) -/

theorem vfReady_conf (conf : hConf s.ps.active n = true) (other : tdiOf s n ≠ .run) : vfReady s n = false := by
  have serves : tdiServes s n = false := by simp [tdiServes, conf, other]
  rw [vfReady, serves, Bool.and_false]

theorem vfReady_open (open_ : hConf s.ps.active n = false) (x : Tdi) : vfReady (setTdi n x s) n = vfReady s n := by
  have serves : ∀ t : State, t.ps = s.ps → tdiServes t n = true := fun t ps => by
    rw [tdiServes, ps, open_, Bool.not_false, Bool.true_or]
  rw [vfReady, vfReady, serves s rfl, serves (setTdi n x s) rfl]
  rfl

theorem bookingsGone_tdi (n : Nat) (s : State) : tdiOf (bookingsGone n s) n = .error := by
  unfold bookingsGone
  dsimp only
  split
  · exact tget_tput_self _ _ _ _
  · exact tget_tput_self _ _ _ _

theorem partRises_tc (n : Nat) (s : State) : (partRises n s).tc = s.tc := by
  have served := foldl_same (f := fun s e => serveEngine e s) State.tc (fun _ _ => rfl) (bitList (hEngines s.ps.active n)) s
  obtain ⟨-, -, -, -, -, tc⟩ := fabricRise_same (bitList (hTiles ((bitList (hEngines s.ps.active n)).foldl
    (fun s e => serveEngine e s) s).ps.active n)) { (bitList (hEngines s.ps.active n)).foldl (fun s e => serveEngine e s) s with
      rc := { ((bitList (hEngines s.ps.active n)).foldl (fun s e => serveEngine e s) s).rc with
        inReset := setBit ((bitList (hEngines s.ps.active n)).foldl (fun s e => serveEngine e s) s).rc.inReset n false } }
  exact tc.trans served

theorem endPartition_tdi (n : Nat) (s : State) : tdiOf (endPartition n s) n = .error := by
  rw [endPartition_eq, tdiOf, partRises_tc]
  exact bookingsGone_tdi n _

end

/-- Settles O58: a request by the order it needs and the chain, an interface by its state and its hand. -/
theorem spdmAndTdisp : Obligations.SpdmAndTdisp := by
  refine ⟨fun s up => settles (getVersionSt_restarts up), fun s up version => settles (inOrder_reached up (by simp [version]) _),
    fun s up caps => settles (inOrder_reached up (by simp [caps]) _), fun a b c d s up missing => settles (inOrder_early up ?_ _),
    fun k s up algorithms chain => ?_, fun r s up algorithms none => ?_,
    fun r k s up key verify => settles (spdmFinishSt_opens up key verify), fun s up session => settles (inOrder_reached up session _),
    fun k l s up session low keyed => settles ((inOrder_reached up session _).trans (ideKm_goes keyed l)),
    fun r s up closed => settles (inOrder_early up closed _), fun i device s => blockAt_device device s,
    fun n low j part s => blockAt_partition low part s, fun n s up conf covers unlocked => settles (tdispSt_grants up ?_ _),
    fun n s up bad => settles (tdispSt_refuses up ?_ _), fun n s up conf locked => settles (tdispSt_grants up ?_ _),
    fun n s up conf other => settles (tdispSt_refuses up ?_ _), fun n s up low => settles (tdispSt_grants up (decide_eq_true low) _),
    fun n s conf other => vfReady_conf conf other, fun n x s open_ => vfReady_open open_ x, endPartition_tdi⟩
  · simpa only [Bool.and_assoc, missing, Bool.and_false] using congrArg (s.tc.spdm == .capabilities && ·) missing
  · have serves := fun f => withChain_serves up algorithms chain f
    refine ⟨⟨_, settles (serves _)⟩, settles (serves _), fun n other => settles (getCertSt_other up algorithms chain other),
      fun r => settles (serves _), fun r some_ one block => settles (measurementsSt_block up algorithms chain some_ one block),
      fun r => ?_⟩
    obtain ⟨x, tc⟩ := keyExchangeSt_agrees up algorithms chain r
    refine ⟨keyExchangeSt r s, x, rfl, ?_, ?_, ?_⟩
    · rw [tc]
    · rw [tc]
    · rw [tc, algorithms]
  · have refuses := fun f => withChain_refuses up algorithms none f
    exact ⟨settles (refuses _), settles (refuses _), settles (refuses _), settles (refuses _), settles (refuses _)⟩
  · rw [conf, covers, unlocked]
    rfl
  · rcases bad with plain | bare
    · rw [plain, Bool.false_and, Bool.false_and]
    · rw [bare, Bool.and_false, Bool.false_and]
  · rw [conf, locked]
    rfl
  · rw [conf, Bool.true_and, beq_false_of_ne other]

end Sys2Proof.Machine
end

section
/-!
SUPPORT. The register map (R10, R31, R33, R558, R560, R562, R563): which register an offset names, and what an access does.
-/
namespace Sys2Proof.Machine
open Sys2Proof

section
variable {s : State} {fn : Fn} {off size : Nat} {v : Word} {r : RegDef} {i o : Nat}

/-! ### Where no register is (R31, R558) -/

/-- A register lies wholly below `lo` or from `hi` on. -/
def RegDef.clears (lo hi : Nat) (r : RegDef) : Bool := 0 < r.stride && (r.off + r.stride * r.count ≤ lo || hi ≤ r.off)

theorem regAt_none_of_clears {l : List RegDef} {lo hi : Nat} (clears : l.all (RegDef.clears lo hi) = true) (low : lo ≤ off)
    (high : off < hi) : regAt l off = none := by
  rw [regAt, List.findSome?_eq_none_iff]
  intro r mem
  have clear := List.all_eq_true.mp clears r mem
  simp only [RegDef.clears, Bool.and_eq_true, Bool.or_eq_true, decide_eq_true_eq] at clear
  obtain ⟨stride, side⟩ := clear
  refine if_neg fun holds => ?_
  simp only [Bool.and_eq_true, decide_eq_true_eq] at holds
  obtain ⟨⟨above, index⟩, -⟩ := holds
  have inside := (Nat.div_lt_iff_lt_mul stride).mp index
  rw [Nat.mul_comm] at inside
  omega

/-- No register of the physical function is in the reserved offsets below the network window. -/
theorem pfRegs_clears : pfRegs.all (RegDef.clears 0x20000 0x40000) = true := by decide

theorem regAt_reserved (low : 0x20000 ≤ off) (high : off < 0x40000) : regAt pfRegs off = none :=
  regAt_none_of_clears pfRegs_clears low high

theorem touchesReg_reserved (low : 0x20000 ≤ off) (high : off + size ≤ 0x40000) : touchesReg pfRegs off size = false := by
  rw [touchesReg, List.any_eq_false]
  intro i mem
  rw [List.mem_range] at mem
  rw [regAt_reserved (by omega) (by omega)]
  exact Bool.false_ne_true

/-! ### Writes (R31, R33, R562) -/

theorem atBar_unserved {tb : Bool} (away : barServes s fn tb = false) (f : State → State) : atBar fn tb f s = s := by
  simp [atBar, away]

section
variable (powered : s.bnd.powered = true) (exists_ : fnExists s fn = true)
include powered exists_

theorem registerSt_early (early : fnReady s fn = false) :
    registerSt fn off size v s = if isDoorbell fn off then dropDoorbell s else s := by
  simp [registerSt, powered, exists_, early]

theorem registerSt_ready (ready : fnReady s fn = true) : registerSt fn off size v s = writeReg fn off size v s := by
  simp [registerSt, powered, exists_, ready]

end

theorem writeReg_records (inside : inRecords fn off = true) : writeReg fn off size v s = s := if_pos inside

section
variable (outside : inRecords fn off = false)
include outside

theorem writeReg_register (at_ : regAt (regsOf fn) off = some (r, i, o)) : writeReg fn off size v s =
    if accessFits r o size then r.write i (regIn (r.read s i) o size v) s else countBadAccess s := by
  simp [writeReg, outside, at_]

theorem writeReg_reserved (none : regAt (regsOf fn) off = none) : writeReg fn off size v s =
    if touchesReg (regsOf fn) off size then countBadAccess s
    else if fn ≠ .pf && off < 0x10000 && !showsQueue s fn (off / 64) then dropDoorbell s else s := by
  simp [writeReg, outside, none]

end

theorem writeReg_pf_reserved (outside : inRecords .pf off = false) (none : regAt pfRegs off = none) :
    writeReg .pf off size v s = if touchesReg pfRegs off size then countBadAccess s else s :=
  (writeReg_reserved outside none).trans (by simp [regsOf])

theorem writeReg_vf_reserved {n : Nat} (outside : inRecords (.vf n) off = false) (none : regAt (vfRegs n) off = none)
    (apart : touchesReg (vfRegs n) off size = false) : writeReg (.vf n) off size v s =
      if off < 0x10000 ∧ showsQueue s (.vf n) (off / 64) = false then dropDoorbell s else s :=
  (writeReg_reserved outside none).trans (by simp [regsOf, apart])

/-! ### Reads (R31, R562) -/

theorem barRead_early (early : fnReady s fn = false) (other : ¬ (fn = .pf ∧ (off = 0 ∨ off = 8) ∧ size = 4)) :
    barRead s fn off size = (2 ^ (8 * size) - 1, s) := by
  rw [barRead]
  refine if_pos ?_
  have none : (decide (fn = .pf) && (decide (off = 0) || decide (off = 8)) && decide (size = 4)) = false := by
    simpa [and_assoc] using other
  rw [early, none, Bool.or_self, Bool.not_false, Bool.or_true]

/-- A read changes nothing but the count of bad accesses. -/
theorem barRead_counts (s : State) (fn : Fn) (off size : Nat) : (barRead s fn off size).2 = s ∨
    (barRead s fn off size).2 = countBadAccess s := by
  unfold barRead
  dsimp only
  split
  · exact .inl rfl
  · split
    · split
      · exact .inl rfl
      · exact .inr rfl
    · split
      · split
        · exact .inl rfl
        · exact .inr rfl
      · split
        · exact .inr rfl
        · exact .inl rfl

/-- A register of the physical function that may be read. -/
theorem barRead_register (reads : s.bnd.ready = true ∨ (off = 0 ∨ off = 8) ∧ size = 4) (outside : inRecords .pf off = false)
    (at_ : regAt pfRegs off = some (r, i, o)) (fits : accessFits r o size = true) :
    (barRead s .pf off size).1 = fld (r.read s i) (8 * o) (8 * size) := by
  rcases reads with ready | ⟨rfl | rfl, rfl⟩
  · simp [barRead, fnExists, fnReady, ready, outside, regsOf, at_, fits]
  · simp [barRead, fnExists, outside, regsOf, at_, fits]
  · simp [barRead, fnExists, outside, regsOf, at_, fits]

theorem barRead_reserved (ready : s.bnd.ready = true) (low : 0x20000 ≤ off) (high : off + size ≤ 0x40000) (some_ : 0 < size) :
    barRead s .pf off size = (0, s) := by
  have outside : inRecords .pf off = false := by
    simp only [inRecords, Bool.and_eq_false_iff, decide_eq_false_iff_not]
    omega
  simp [barRead, fnExists, fnReady, ready, outside, regsOf, regAt_reserved low (by omega), touchesReg_reserved low high]

theorem writeReg_pf_inside (low : 0x20000 ≤ off) (high : off + size ≤ 0x40000) (some_ : 0 < size) :
    writeReg .pf off size v s = s := by
  have outside : inRecords .pf off = false := by
    simp only [inRecords, Bool.and_eq_false_iff, decide_eq_false_iff_not]
    omega
  rw [writeReg_pf_reserved outside (regAt_reserved low (by omega)), touchesReg_reserved low high, if_neg Bool.false_ne_true]

theorem access_some (width : size = 4 ∨ size = 8) : 0 < size := by omega

/-- An aligned access stays below an end that its size divides. -/
theorem access_inside (high : off < 0x40000) (width : size = 4 ∨ size = 8) (whole : off % size = 0) : off + size ≤ 0x40000 := by
  rcases width with rfl | rfl
  · omega
  · omega

/-! ### Registers by their offset -/

/-- The read of a capability register (R563). -/
theorem barRead_constant {c : Nat} (ready : s.bnd.ready = true) (outside : inRecords .pf off = false)
    (at_ : regAt pfRegs off = some (counter off 8 fun _ => c, 0, 0)) (word : c < 2 ^ 64) : (barRead s .pf off 8).1 = c :=
  (barRead_register (.inl ready) outside at_ rfl).trans (by
    change c / 1 % 2 ^ 64 = c
    rw [Nat.div_one, Nat.mod_eq_of_lt word])

theorem barRead_bootStatus (s : State) : (barRead s .pf 0 4).1 = bootStatus s % 2 ^ 32 := by
  have at_ : regAt pfRegs 0 = some (counter 0 4 bootStatus, 0, 0) := rfl
  refine (barRead_register (.inr ⟨.inl rfl, rfl⟩) rfl at_ rfl).trans ?_
  change bootStatus s / 1 % 2 ^ 32 = _
  rw [Nat.div_one]

theorem barRead_stackExcluded (s : State) : (barRead s .pf 8 4).1 = s.bnd.stackExcluded.toNat := by
  have at_ : regAt pfRegs 8 = some (counter 8 4 fun s => s.bnd.stackExcluded.toNat, 0, 0) := rfl
  have := s.bnd.stackExcluded.isLt
  refine (barRead_register (.inr ⟨.inr rfl, rfl⟩) rfl at_ rfl).trans ?_
  change s.bnd.stackExcluded.toNat / 1 % 2 ^ 32 = _
  omega

/-- FENCED of 64 engines (R466). -/
def fenceReg : RegDef :=
  { off := 0x80200, width := 8, count := 5,
    read := fun s i => fld s.fc.fenced.toNat (64 * i) 64,
    write := fun i w s => unfenceWrite i w.bits s }

theorem regAt_fence {n : Nat} (low : n < 5) : regAt pfRegs (0x80200 + 8 * n) = some (fenceReg, n, 0) := by
  obtain rfl | rfl | rfl | rfl | rfl : n = 0 ∨ n = 1 ∨ n = 2 ∨ n = 3 ∨ n = 4 := by omega
  all_goals rfl

theorem writeReg_fence {n : Nat} (low : n < 5) : writeReg .pf (0x80200 + 8 * n) 8 v s = unfenceWrite n v.toNat s := by
  have outside : inRecords .pf (0x80200 + 8 * n) = false := by
    simp only [inRecords, Bool.and_eq_false_iff, decide_eq_false_iff_not]
    omega
  have bits : v.toNat % 2 ^ (8 * 8) * 2 ^ (8 * 0) = v.toNat := by
    have := v.isLt
    omega
  have fits : accessFits fenceReg 0 8 = true := rfl
  rw [writeReg_register outside (regAt_fence low), if_pos fits]
  exact congrArg (unfenceWrite n · s) bits

/-- The gap of the ageing margin (R137). -/
def gapReg : RegDef :=
  { off := 0x2148, width := 4, read := fun s _ => s.ps.gap,
    write := fun _ w s => thresholdWritten s { s with ps := { s.ps with gap := fld w.bits 0 11 } } }

theorem regAt_gap : regAt pfRegs 0x2148 = some (gapReg, 0, 0) := rfl

theorem writeReg_gap : writeReg .pf 0x2148 4 v s = thresholdWritten s { s with ps := { s.ps with gap := v.toNat % 2 ^ 11 } } := by
  have bits : fld (v.toNat % 2 ^ (8 * 4) * 2 ^ (8 * 0)) 0 11 = v.toNat % 2 ^ 11 := by
    rw [fld]
    omega
  have fits : accessFits gapReg 0 4 = true := rfl
  rw [writeReg_register (fn := .pf) rfl regAt_gap, if_pos fits]
  exact congrArg (fun g => thresholdWritten s { s with ps := { s.ps with gap := g } }) bits

end

/-- Settles O60: an access by the function's readiness, then by the register that its offset names. -/
theorem registerAccess : Obligations.RegisterAccess := by
  refine ⟨fun fn off size v tb s powered serves exists_ early =>
      settles ((atBar_served serves _).trans (registerSt_early powered exists_ early)), fun off => ?_, fun n off => ?_,
    fun fn off size v tb s powered serves exists_ ready =>
      settles ((atBar_served serves _).trans (registerSt_ready powered exists_ ready)),
    fun fn off size v tb s away => settles (atBar_unserved away _),
    fun fn off size v r i o s outside at_ => writeReg_register outside at_, fun fn off size v s inside => writeReg_records inside,
    fun off size v s outside none => writeReg_pf_reserved outside none,
    fun n off size v s outside none apart => writeReg_vf_reserved outside none apart,
    fun fn off size s early other => barRead_early early other, fun s => ⟨?_, ?_⟩, fun fn off size s => barRead_counts s fn off size,
    fun off size s ready low high width whole => ⟨?_, fun v => ?_⟩, fun s ready => ?_,
    fun n v s low ready => writeReg_fence low, fun v s => writeReg_gap⟩
  · simp [isDoorbell]
  · simp [isDoorbell]
  · exact barRead_bootStatus s
  · exact barRead_stackExcluded s
  · exact barRead_reserved ready low (access_inside high width whole) (access_some width)
  · exact writeReg_pf_inside low (access_inside high width whole) (access_some width)
  · exact ⟨barRead_constant ready rfl rfl (by decide), barRead_constant ready rfl rfl (by decide),
      barRead_constant ready rfl rfl (by decide), barRead_constant ready rfl rfl (by decide),
      barRead_constant ready rfl rfl (by decide)⟩

end Sys2Proof.Machine
end
